-- ==== Sys2Proof/Word.lean ====
section
/-! DEFINITION. The widths of the manual's bytes and words (00_scope.md). -/

namespace Sys2Proof

/-- 8 bits. -/
abbrev Byte := BitVec 8

/-- 32 bits, the width of every register (R7). -/
abbrev Word := BitVec 32

/-- A unit that exists in numbered copies, held by number; a copy that is not listed is at its default. -/
abbrev Sparse (α : Type) := List (Nat × α)

end Sys2Proof
end

