-- ==== Sys2Proof/Syntax.lean ====
section
/-! DEFINITION. The commands: one constructor per row of spec/opcode_table.json, with the operands the row's rule names. Numbers of units are held in the range the part has them; other operands are checked by WellFormed. -/

namespace Sys2Proof

/-- Outcome of an error-correcting check (R45, R409): an operand, since the failure is a physical one (log entry 8). -/
inductive Ecc where
  | clean
  | corrected
  | uncorrectable
deriving DecidableEq, Repr

/-- Outcome of the checks of an access to a tile's tables: that of its storage, and that of the context-map entry that is read with it against its complement (R277, R409, R411); an operand, as `Ecc` (log entry 8). -/
inductive Check where
  | clean
  | corrected
  | uncorrectable
  | mapMismatch
deriving DecidableEq, Repr

/-- Outcome of the check of the lines that a request of HBM reads (R177, R409): with an uncorrectable line, the lines of the request that fail, the first line being 0; an operand, as `Ecc` (log entry 8). -/
inductive HbmEcc where
  | clean
  | corrected
  | uncorrectable (first : Nat) (more : List Nat)
deriving DecidableEq, Repr

/-- What the patrol scrub of a line finds: the outcome of the line's check, or an internal fault of the stack's controller, sequencer or stoker (R364, R409); an operand, as `Ecc` (log entry 8). -/
inductive ScrubCheck where
  | clean
  | corrected
  | uncorrectable
  | internal
deriving DecidableEq, Repr

/-- What the security block finds when it checks a role command: verdicts that rest on keys and on cells, so operands (log entry 8). -/
structure RoleCheck where
  /-- the signature verifies against the key R347 step 3 or R351 names -/
  sig : Bool
  /-- the possession signature of a BIND_KEY verifies (R351) -/
  poss : Bool
  /-- the audit entry an AUDIT_ACK names matches its complement (R411) -/
  entry : Bool
  /-- so does the newest entry, to which what the command commits is chained (R357, R411) -/
  head : Bool
deriving DecidableEq, Repr

/-- Who makes a register access (R9, R404, R427). -/
inductive Source where
  /-- the host on the management channel -/
  | host
  /-- the sideband -/
  | sideband
  /-- the control processor -/
  | cp
deriving DecidableEq, Repr

/-- The four queued engines of a tile (R36, R37). -/
inductive Engine where
  | matrix
  | vector
  | dma
  | rick
deriving DecidableEq, Repr

/-- The stores of a tile and its instruction memory (R41, R64). -/
inductive StoreId where
  | woodpile
  | tinder
  | ember
  | imem
deriving DecidableEq, Repr

abbrev TileId := Fin 1536
abbrev CtxId := Fin 64
abbrev RegionId := Fin 24
/-- A junction that a sensor reports: 0 to 23 those of the regions, 24 to 27 those of the base dies (R445). -/
abbrev JunctionId := Fin 28
abbrev StackId := Fin 32
abbrev LinkId := Fin 32
abbrev PortId := Fin 16
abbrev RingId := Fin 16
abbrev SlotId := Fin 16

/-- A value that comes out of, or asks for, a buffer or a table under a code, or the unit at which it does, with the outcome of that check (R199, R409). -/
structure Checked (α : Type) where
  /-- the value -/
  val : α
  /-- the check of the buffer -/
  ecc : Ecc
deriving DecidableEq, Repr

/-- A tile at which a table is read, with the outcome of the checks (R199, R277, R409). -/
structure Site where
  /-- the tile -/
  val : TileId
  /-- the checks of the table and of the context-map entry -/
  ecc : Check
deriving DecidableEq, Repr

/-- A read of a register (R7, R167, R411). -/
structure WordRead where
  /-- its address -/
  addr : Nat
  /-- its bytes, 4 or 8 -/
  size : Nat
  /-- for a word held with its complement: it matches (clean); it does not, or only copy A of a record does not (corrected); both copies of a record do not (uncorrectable) -/
  check : Ecc
deriving DecidableEq, Repr

/-- A control word that comes in on a cord link (R334). -/
structure CordWord where
  /-- the word, and behind it what came as its complement -/
  bits : BitVec 128
  /-- SEQ of the control frame that carries it -/
  seq : BitVec 24
  /-- it is the first word of the frame -/
  first : Bool
deriving DecidableEq, Repr

/-- A block write on SMBus (R449). -/
structure SmbBlock where
  /-- its bytes -/
  bytes : List Byte
  /-- its PEC holds -/
  pecOk : Bool
deriving DecidableEq, Repr

/-- An operation on the JTAG port (R447, R450). -/
structure JtagOp where
  /-- 0 boundary scan, 1 identification, 2 tile-state access -/
  kind : Nat
  /-- TRST_N is high -/
  trstN : Bool
deriving DecidableEq, Repr

/-- What a core enqueues (R36): the 32 bytes, byte 0 in bits [7:0], with the check of the context-map entry that the enqueue reads (R277, R411). -/
structure CoreCmd where
  /-- the 32 bytes -/
  bits : BitVec 256
  /-- the map entry matches its complement -/
  mapOk : Bool
deriving DecidableEq, Repr

/-- The end of a context switch (R284). -/
structure SwitchEnd where
  /-- the context switched in -/
  ctx : CtxId
  /-- a tile at which the map entry that the switch reads does not match its complement (R277, R411) -/
  badMap : Option TileId
  /-- billets of the spill regions that the resume reads (R119), by tile and number, in which the check finds an error (R45) -/
  found : List (Checked (TileId × Fin 656))
deriving DecidableEq, Repr

/-- A command: a row of the opcode table. -/
inductive Instr where
  /-- REGISTER_WRITE (R9): A register write that has no row of its own is checked for size, alignment and access code, then applied, staged or refused. -/
  | registerWrite (src : Source) (addr size : Nat) (val : BitVec 64)
  /-- COUNT_LO_READ (R167): A 32-bit read of a LO counter word returns the low bits and captures the high word into a shadow for the next HI read. -/
  | countLoRead (read : WordRead)
  /-- FAULT_SUMMARY_READ (R434): A read of the FAULT_SUMMARY word at 0x200 captures the whole 48-byte record into a shadow for the following word reads. -/
  | faultSummaryRead (addr size : Nat)
  /-- MIRROR_VALUE_WRITE (R427): A write to the value word of a mirrored pair holds the written bits as the pending value of its source. -/
  | mirrorValueWrite (src : Source) (addr : Nat) (val : Word)
  /-- REGION_MAKE_LIT (R431): A matching complement write commits REGION_REQUEST = make lit, and the control processor lights the region under R306 or refuses the request. -/
  | regionMakeLit (src : Source) (region : RegionId) (comp : Word)
  /-- REGION_MAKE_DARK (R431): A matching complement write commits REGION_REQUEST = make dark, and the region is power-gated, or the request is refused when a live context holds a cluster there. -/
  | regionMakeDark (src : Source) (region : RegionId) (comp : Word)
  /-- MEM_MAP_WRITE (R432): A complement write to MEM_MAP on instance 0 commits a new HBM granule size when the package is quiet, or else records a class S fault. -/
  | memMapWrite (src : Source) (die : Fin 4) (comp : Word)
  /-- ENQUEUE (R36): The core writes a 32-byte engine command into its engine's queue after the static checks, or stalls when the queue is full. -/
  | enqueue (tile : TileId) (eng : Engine) (cmd : CoreCmd)
  /-- BARRIER_ARRIVAL (R39): The barrier-arrival instruction stalls the core until the queues, commands, kindling requests and descriptors of the context have completed. -/
  | barrierArrival (tile : TileId)
  /-- EXCHANGE_BARRIER_ARRIVAL (R205): Once its arrival conditions hold, a tile arrives at the exchange barrier and carries its selected PLAN_ID. -/
  | exchangeBarrierArrival (tile : TileId)
  /-- EXCHANGE_RELEASE (R204): B cycles after the last arrival, the barrier releases every tile of the partition into the exchange phase with plan offset 0. -/
  | exchangeRelease (ctx : CtxId) (badNode : Option (Fin 96))
  /-- BOUNDARY_BARRIER_ARRIVAL (R206): A tile arrives at the boundary barrier once its plan has reached END and all its sends and receives are complete. -/
  | boundaryBarrierArrival (tile : TileId)
  /-- BOUNDARY_ACTIONS (R30): After the last tile arrives at the boundary barrier, the actions due at the boundary are taken in their fixed order, ending in the boundary release. -/
  | boundaryActions (ctx : CtxId) (badNode : Option (Fin 96)) (depOk : Bool)
  /-- CONTEXT_SWITCH_COMPLETE (R284): When the slowest tile's switch steps end, the partition's switch ends and the boundary release follows. -/
  | contextSwitchComplete (done : SwitchEnd)
  /-- STEP_CHANGE_COMPLETE (R307): The 2 µs clock-switch hold ends and the release proceeds. -/
  | stepChangeComplete (region : RegionId)
  /-- STEP_HOLD_TIMEOUT (R22): A boundary hold for a step change that would exceed STAGGER_MAX withdraws the step request and releases the held contexts. -/
  | stepHoldTimeout (region : RegionId)
  /-- STAGGER_TARGET_REACHED (R315): A stagger target time is reached: held contexts are released as aligned, step-change holds are cut short, and SYNC_OUT pulses. -/
  | staggerTargetReached
  /-- SCALAR_LOAD (R40): The core reads a whole billet and returns one aligned doubleword into a scalar register. -/
  | scalarLoad (tile : TileId) (rd : Fin 32) (bil : BitVec 16) (dword : Nat)
  /-- SCALAR_STORE (R40): The core writes 8 bytes to a billet as a sub-billet write through the merge buffer. -/
  | scalarStore (tile : TileId) (rs : Fin 32) (bil : BitVec 16) (off : Nat)
  /-- INSTRUCTION_FETCH (R64): The core fetches its next instruction, and a fetch outside the slice or beyond the code section is a class S fault that stops the context. -/
  | instructionFetch (tile : TileId) (target : Option Nat) (mapOk : Bool) (ecc : Ecc)
  /-- STORE_ACCESS_GRANT (R49): A bank, the bond field or the instruction billet port grants its pending requests in fixed priority order, which applies writes and starts reads. -/
  | storeAccessGrant (tile : TileId) (bank : Fin 89)
  /-- STORE_READ_DATA_RETURN (R46): A granted read delivers its billet after the bank's latency, with a SECDED check. -/
  | storeReadDataReturn (tile : TileId) (ecc : Ecc)
  /-- CORRECTED_BILLET_WRITEBACK (R45): The bank spends its next grant writing back the corrected billet, unless a write to that billet was granted first. -/
  | correctedBilletWriteback (tile : TileId) (bank : Fin 89)
  /-- SUB_BILLET_WRITE (R58): A write of fewer than 512 bytes enters the merge buffer, which reads the billet, replaces the bytes and writes the billet back atomically. -/
  | subBilletWrite (tile : TileId) (store : StoreId)
  /-- MERGE_COMPLETE (R58): A merge's write-back is granted, completing the sub-billet write and releasing the reads held on it. -/
  | mergeComplete (site : Checked TileId) (store : StoreId)
  /-- BANK_GATE_WRITE (R60): A control-processor write to a bank gate register requests banks dark, which closes them or is refused, or clears a gate, which starts a wake. -/
  | bankGateWrite (src : Source) (tile : TileId) (reg : Fin 3) (val : Word)
  /-- BANK_POWER_OFF (R61): 32 cycles after a closed bank's accepted accesses reach zero, power is removed and the bank is dark. -/
  | bankPowerOff (tile : TileId) (bank : Fin 88)
  /-- BANK_POWER_RESTORED (R63): 2 µs after a wake starts, power is back and the bank begins zeroing every billet. -/
  | bankPowerRestored (tile : TileId) (bank : Fin 88)
  /-- BANK_WAKE_COMPLETE (R63): After every billet has been zeroed with valid check bits, the bank is lit and TRANSITION clears. -/
  | bankWakeComplete (tile : TileId) (bank : Fin 88)
  /-- ACCUMULATE (R85): Once its wait is met, the matrix command passes its state checks and applies K_STEPS K-steps to the open output tile. -/
  | accumulate (tile : TileId) (ecc : Check)
  /-- DRAIN (R93): The matrix command rounds the open output tile once into OUT_FORMAT over 64 drain cycles, writes it out and closes it. -/
  | drain (site : Site)
  /-- ACCUMULATE_DRAIN (R85): The matrix command applies its K-steps and then drains the output tile, as one command. -/
  | accumulateDrain (tile : TileId) (ecc : Check)
  /-- SPILL (R118): The matrix command writes the open output tile losslessly, in limb-masked form, to the spill region and closes it. -/
  | spill (site : Site)
  /-- RESUME (R119): The matrix command reads a spilled output tile back into the cells and opens it, or aborts on an invalid cell field. -/
  | resume (tile : TileId) (ecc : Check)
  /-- DISCARD (R97): The matrix command clears every cell and flag and closes the open output tile without output. -/
  | discard (site : Site)
  /-- MATRIX_COMMAND_COMPLETE (R97): A matrix command completes after its last write or K-step, posts its counter add and takes its end latch. -/
  | matrixCommandComplete (tile : TileId)
  /-- ADD (R142): The vector command adds src0 and src1 element by element. -/
  | add (tile : TileId) (ecc : Check)
  /-- SUB (R142): The vector command subtracts src1 from src0. -/
  | sub (tile : TileId) (ecc : Check)
  /-- MUL (R142): The vector command multiplies src0 by src1. -/
  | mul (tile : TileId) (ecc : Check)
  /-- FMA (R142): The vector command computes src0 × src1 + src2 with a single rounding. -/
  | fma (tile : TileId) (ecc : Check)
  /-- MIN (R142): The vector command delivers the IEEE 754-2019 minimum of its two operands. -/
  | min (tile : TileId) (ecc : Check)
  /-- MAX (R142): The vector command delivers the IEEE 754-2019 maximum of its two operands. -/
  | max (tile : TileId) (ecc : Check)
  /-- ABS (R142): The vector command clears the sign bit of src0. -/
  | abs (tile : TileId) (ecc : Check)
  /-- NEG (R142): The vector command inverts the sign bit of src0. -/
  | neg (tile : TileId) (ecc : Check)
  /-- CMP_LT (R142): The vector command delivers 1.0 where src0 < src1, and +0 elsewhere. -/
  | cmpLt (tile : TileId) (ecc : Check)
  /-- CMP_LE (R142): The vector command delivers 1.0 where src0 ≤ src1, and +0 elsewhere. -/
  | cmpLe (tile : TileId) (ecc : Check)
  /-- CMP_EQ (R142): The vector command delivers 1.0 where src0 = src1, and +0 elsewhere. -/
  | cmpEq (tile : TileId) (ecc : Check)
  /-- RCP (R145): The vector command computes the correctly rounded reciprocal. -/
  | rcp (tile : TileId) (ecc : Check)
  /-- SQRT (R145): The vector command computes the correctly rounded square root. -/
  | sqrt (tile : TileId) (ecc : Check)
  /-- RSQRT (R145): The vector command computes the correctly rounded reciprocal square root. -/
  | rsqrt (tile : TileId) (ecc : Check)
  /-- EXP (R145): The vector command computes e to the x, correctly rounded. -/
  | exp (tile : TileId) (ecc : Check)
  /-- EXP2 (R145): The vector command computes 2 to the x, correctly rounded. -/
  | exp2 (tile : TileId) (ecc : Check)
  /-- EXPM1 (R145): The vector command computes e to the x minus 1, correctly rounded. -/
  | expm1 (tile : TileId) (ecc : Check)
  /-- LOG (R145): The vector command computes ln x, correctly rounded. -/
  | log (tile : TileId) (ecc : Check)
  /-- LOG2 (R145): The vector command computes log₂ x, correctly rounded. -/
  | log2 (tile : TileId) (ecc : Check)
  /-- TANH (R146): The vector command computes tanh as the fixed sequence of correctly rounded steps. -/
  | tanh (tile : TileId) (ecc : Check)
  /-- SIGMOID (R146): The vector command computes the sigmoid as the fixed sequence of correctly rounded steps. -/
  | sigmoid (tile : TileId) (ecc : Check)
  /-- CVT_WIDEN (R147): The vector command converts elements of IN_FORMAT to FP32, optionally scaled. -/
  | cvtWiden (tile : TileId) (ecc : Check)
  /-- CVT_NARROW (R148): The vector command converts FP32 or BF16 elements to OUT_FORMAT, with MX scales and rounding. -/
  | cvtNarrow (tile : TileId) (ecc : Check)
  /-- VECTOR_COMMAND_COMPLETE (R452): A vector command completes after its last result write, posts its counter add and takes its end latch. -/
  | vectorCommandComplete (tile : TileId)
  /-- CTR_WAIT (R160): The core stalls until the named counter meets the wait of R157. -/
  | ctrWait (tile : TileId) (rs rt : Fin 32)
  /-- CTR_ADD (R160): The core posts an add of 1 to 255 to a counter of its window. -/
  | ctrAdd (tile : TileId) (id val : BitVec 8)
  /-- CTR_READ (R160): The core reads a counter's 48-bit value into a scalar register. -/
  | ctrRead (tile : TileId) (rd : Fin 32) (id : BitVec 8)
  /-- REBASE_APPLY (R165): At a quiescent boundary, a pending rebase reduces the context's counters modulo 2²⁴ and refills saturated counters. -/
  | rebaseApply (ctx : CtxId)
  /-- COPY_IN (R169): The DMA command starts reading billets from HBM into the store, with a range-table entry installed. -/
  | copyIn (site : Site)
  /-- COPY_OUT (R169): The DMA command starts reading store billets and writing them to HBM. -/
  | copyOut (site : Site)
  /-- STREAM_IN (R169): The DMA command attaches as producer and starts filling carousel slots from HBM. -/
  | streamIn (site : Site)
  /-- GATHER (R186): The DMA command consumes index billets and fills a carousel with the table rows they name. -/
  | gather (site : Site)
  /-- UNLOAD (R169): The DMA command consumes carousel billets into the store. -/
  | unload (site : Site)
  /-- CAROUSEL_SET (R178): The DMA command defines a carousel and empties it. -/
  | carouselSet (site : Site)
  /-- STREAM_STOP (R183): The DMA command ends the producer stream of a carousel once the slot being filled is published. -/
  | streamStop (site : Site)
  /-- HBM_READ_DATA_RETURN (R174): Read data returns from an HBM controller on VN-P and is written into a store or a slot, or faults if uncorrectable. -/
  | hbmReadDataReturn (tile : TileId) (op k : Nat) (ecc : HbmEcc)
  /-- HBM_WRITE_ACCEPT (R175): An HBM controller accepts a written line, doing a read-merge-write for a partial line. -/
  | hbmWriteAccept (stack : StackId) (ecc : HbmEcc)
  /-- DMA_COMMAND_COMPLETE (R175): A DMA command completes at its stated point and posts its counter add, and the queue commands waiting on it can start. -/
  | dmaCommandComplete (tile : TileId) (op : Nat)
  /-- STACK_WAKE_COMPLETE (R177): A banked HBM stack finishes waking about 2 µs after a request, and its queued requests and stoker packets proceed. -/
  | stackWakeComplete (stack : StackId)
  /-- STACK_IDLE_BANK (R308): A stack that has had no request for 100 µs, while BANK_STACKS is set, is banked. -/
  | stackIdleBank (stack : StackId)
  /-- PATROL_SCRUB (R409): The patrol scrub checks stack lines in refresh time and records any uncorrectable line it finds in HBM_UNCORRECTED and LAST_UE. -/
  | patrolScrub (stack : StackId) (line : Nat) (ecc : ScrubCheck)
  /-- KGET (R189): The core issues a small transfer from HBM into a billet of its store. -/
  | kget (tile : TileId) (rs rt : Fin 32)
  /-- KPUT (R189): The core reads a billet and issues a small transfer of its bytes to HBM. -/
  | kput (tile : TileId) (rs rt : Fin 32)
  /-- KINDLING_COMPLETE (R191): A kindling request completes, when merged into its billet or accepted by the controller, frees its slot and posts its add. -/
  | kindlingComplete (tile : TileId) (id : Nat)
  /-- EXCH_SELECT (R207): The core names the plan for the coming exchange phase, and its header is validated. -/
  | exchSelect (tile : TileId) (pos : Nat) (ecc : Check)
  /-- PLAN_ENTRY_READ (R211): The exchange unit reads a plan entry up to 256 ahead of the plan offset and validates it, which may stop the context. -/
  | planEntryRead (tile : TileId) (ecc : Check)
  /-- SEND_READ_AHEAD (R213): 24 cycles before a send's CYCLE, its billets start to be read into the send buffer. -/
  | sendReadAhead (tile : TileId) (entry : Nat)
  /-- PLAN_ENTRY_DUE (R213): When the plan offset reaches an entry's CYCLE, the entry falls due: a send injects flits, a receive is checked, and END is reached. -/
  | planEntryDue (site : Site)
  /-- SEND_COMPLETE (R213): The cycle after a send's last flit enters, the send completes and posts its add. -/
  | sendComplete (tile : TileId) (entry : Nat)
  /-- FLIT_FORWARD (R196): A router output port grants one flit by network priority and credits, passing parcels on and discarding uncorrectable flits. -/
  | flitForward (tile : TileId) (port : Fin 5) (ecc : Ecc)
  /-- FLIT_ARRIVAL (R215): A scheduled flit leaves the destination's local port and is matched to a receive entry, or it waits as a held arrival. -/
  | flitArrival (tile : TileId)
  /-- RECEIVE_COMPLETE (R214): The cycle after a receive's last billet is written, the receive completes, posts its add and releases a held plan offset. -/
  | receiveComplete (tile : TileId) (entry : Nat)
  /-- CH_SEND (R229): The core sends a message on a channel, first sending a skip marker if needed, and stalls while credit or send slots are short. -/
  | chSend (tile : TileId) (rs rt : Fin 32) (ecc : Check)
  /-- CH_SEND_COMPLETE (R230): The cycle after a message's last flit enters, the send completes, posts its add and frees a send slot. -/
  | chSendComplete (tile : TileId) (msg : Nat)
  /-- CH_PEEK (R232): The core reads the head message's offset, length and delivery state into a register. -/
  | chPeek (tile : TileId) (ep rd : Fin 32)
  /-- CH_RELEASE (R232): The core frees the head message, and any following skip marker, and returns the credit to the sender. -/
  | chRelease (tile : TileId) (ep : Fin 32)
  /-- CHANNEL_LINE_ARRIVAL (R231): A VN-L channel line reaches its receive endpoint and is written into the ring, or discarded as a stray. -/
  | channelLineArrival (site : Site)
  /-- MESSAGE_DELIVERED (R231): The cycle after a message's last line is written, it is delivered, its add is posted and it is counted. -/
  | messageDelivered (tile : TileId) (ep : Fin 32)
  /-- CREDIT_FLIT_ARRIVAL (R232): A credit flit reaches the send endpoint, FREE grows, and a stalled CH_SEND may proceed. -/
  | creditFlitArrival (site : Site)
  /-- DEFINE (R237): The rick command defines a stream and zeroes its buffer and side table. -/
  | define (site : Site)
  /-- CONTRIBUTE (R241): The rick command adds COUNT billets of FP32 values into stream elements. -/
  | contribute (tile : TileId) (ecc : Check)
  /-- FINISH (R244): The rick command waits until ARRIVED equals EXPECT, then rounds or forwards each element and clears the stream for the next round. -/
  | finish (tile : TileId) (ecc : Check)
  /-- RELEASE (R237): The rick command frees a stream that holds no contributions. -/
  | release (site : Site)
  /-- RICK_COMMAND_COMPLETE (R453): A rick command completes and posts its counter add. -/
  | rickCommandComplete (tile : TileId)
  /-- RICK_PACKET_ARRIVAL (R241): A VN-L contribution packet reaches a stream and is accepted, or discarded as a stray. -/
  | rickPacketArrival (tile : TileId)
  /-- RICK_ADDITION (R453): The rick reads an ember billet, adds the contributions that fall in it exactly, or puts them in the side table, and writes the billet back. -/
  | rickAddition (tile : TileId) (ecc : Check)
  /-- HANDOFF_CREDIT (R260): A bucket-router credit on VN-P lets a stalled FINISH send its next record packet. -/
  | handoffCredit (tile : TileId)
  /-- HANDOFF_PACKET_ARRIVAL (R261): A gradient packet reaches the stoker's staging queue and may start a round of its bucket. -/
  | handoffPacketArrival (ecc : Ecc)
  /-- STOKER_RECORD_APPLY (R249): A stoker applies the optimiser to one record, or skips it, and writes MASTER, the moments and the working copy. -/
  | stokerRecordApply (stack : StackId) (bucket : Fin 1024) (ecc : HbmEcc)
  /-- ROUND_COMPLETE (R263): When every record of the bucket is applied, the holds are released, the fingerprint is formed and a bucket-complete event is posted. -/
  | roundComplete (bucket : Fin 1024)
  /-- ROUND_TIMEOUT (R263): A round still in progress after WATCHDOG_TICKS fails with a class T fault. -/
  | roundTimeout (bucket : Fin 1024)
  /-- FINGERPRINT_COMPARE (R268): Once both partner buckets have completed a due round, their fingerprints are compared and any mismatch record is written. -/
  | fingerprintCompare (bucket : Fin 1024)
  /-- CREATE_CONTEXT (R276): The dispatcher validates a context record and image, then writes the context map and loads the code, or refuses the command. -/
  | createContext (ring : Checked RingId) (sigOk : Bool)
  /-- DESTROY_CONTEXT (R293): The dispatcher stops the context's streams and begins its removal, or refuses the command. -/
  | destroyContext (ring : RingId)
  /-- DESTROY_CONTEXT_COMPLETE (R293): Once outstanding operations end and the channels unbind, the context leaves every tile's map and the command completes. -/
  | destroyContextComplete (ctx : CtxId)
  /-- CONTEXT_MAP_RETRY (R153): The control processor retries a context-map load once the operations posting to the counters involved have completed. -/
  | contextMapRetry (ctx : CtxId)
  /-- SUBMIT_GRAPH (R289): The dispatcher reads and checks a task graph and assigns it a graph number. -/
  | submitGraph (ring : Checked RingId)
  /-- CANCEL_GRAPH (R291): The host cancels a graph, which pauses it and frees it once none of its tasks is running. -/
  | cancelGraph (ring : RingId)
  /-- PAUSE_GRAPH (R291): The host pauses a graph, so that none of its tasks starts. -/
  | pauseGraph (ring : RingId)
  /-- RESUME_GRAPH (R291): The host makes a paused graph's tasks eligible again. -/
  | resumeGraph (ring : RingId)
  /-- REBASE (R166): The host requests a counter rebase, which is applied now or deferred to the next quiescent boundary. -/
  | rebase (ring : RingId)
  /-- DEFINE_BUCKET (R256): The host defines a bucket after its ranges and descriptor are checked. -/
  | defineBucket (ring : Checked RingId)
  /-- REMOVE_BUCKET (R294): The host removes a bucket, which ends any round, discards its packets and drops its entry. -/
  | removeBucket (ring : RingId)
  /-- RELEASE_HOLD (R270): The host releases a model's replica-mismatch hold. -/
  | releaseHold (ring : RingId)
  /-- LOCATE (R271): The host asks a stoker of a held bucket to write the CRC-64 of each named record to a buffer. -/
  | locate (ring : RingId)
  /-- SQ_TAIL_WRITE (R328): The host writes the submission-ring doorbell, once earlier bulk writes are in place, or the tail is refused if it overfills the ring. -/
  | sqTailWrite (src : Source) (ring : RingId) (val : Word)
  /-- RING_CTRL_WRITE (R328): A write to SQ_CTRL or EQ_CTRL configures and enables a ring, and is refused while the ring is enabled. -/
  | ringCtrlWrite (src : Source) (ring : RingId) (event : Bool) (val : Word)
  /-- CONTEXT_STOP (R413): Within 2 µs of a fault, the dispatcher puts the context into STOPPED, stops its streams and fails its graph. -/
  | contextStop (ctx : CtxId)
  /-- CADENCE_EDGE (R296): A rising edge on CAD_P/N is measured, qualified, and counted as a tick or as a minute mark. -/
  | cadenceEdge (period high : Nat)
  /-- ACQUIRE_TIMEOUT (R297): An unlocked cadence unit enters holdover at NOMINAL_HZ 1 s after reset. -/
  | acquireTimeout
  /-- MINUTE_MARK_MISSING (R298): With no mark by the expected tick + 2, the minute closes there with MARK_MISSING. -/
  | minuteMarkMissing
  /-- HOLDOVER_ENTRY (R299): The cadence unit enters holdover on silence, malformed pulses or rate drift. -/
  | holdoverEntry
  /-- GENERATED_TICK (R299): In holdover, a tick, or a minute mark, is generated from the reference clock at the last measured rate. -/
  | generatedTick
  /-- FALLBACK_TIMEOUT (R300): After 60 s of holdover, the fallback ceiling enters the working ceiling. -/
  | fallbackTimeout
  /-- COMPARE_WRITE (R303): A write to a software slot's COMPARE re-arms the slot, which sets LATE and fires next tick if the value has already passed. -/
  | compareWrite (src : Source) (slot : SlotId) (hi : Bool) (val : Word)
  /-- SLOT_CTRL_WRITE (R303): A write to a software slot's control enables or disables it, or clears LATE and FIRED. -/
  | slotCtrlWrite (src : Source) (slot : SlotId) (val : Word)
  /-- ENVELOPE_MINUTE_ROLL (R304): Slot 0 fires at the mark and the next envelope entry comes into force. -/
  | envelopeMinuteRoll
  /-- TALLY_CLOSE (R317): Slot 1 closes the tally of the minute at the mark that ends it. -/
  | tallyClose
  /-- TALLY_SIGNED (R318): Within 2 ms of the mark, the tally is signed, chained and placed in the ring, and its event is posted. -/
  | tallySigned
  /-- ENVELOPE_LEAD (R305): Slot 2 fires LEAD_TICKS before the mark and the next entry's ceiling joins C(t). -/
  | envelopeLead
  /-- STAGGER_SLOT_FIRE (R313): Slot 3 fires and gives the running contexts a stagger target. -/
  | staggerSlotFire
  /-- SYNC_IN_EDGE (R313): A rising edge on SYNC_IN is a stagger trigger that gives the running contexts a target, or is ignored and counted. -/
  | syncInEdge
  /-- SNAPSHOT_TICK_TRIGGER (R392): Slot 4 fires at an armed tick, and the snapshot or capture waits for the context's next boundary. -/
  | snapshotTickTrigger
  /-- REPLICA_CHECK_SEND (R342): Slot 5 fires and pending fingerprints are sent to cord partners on links that are up. -/
  | replicaCheckSend
  /-- COUNTER_SNAPSHOT (R386): Slot 6 fires and a counter-snapshot record is written to the ash pit. -/
  | counterSnapshot
  /-- TIMEOUT_TICK (R302): Slot 7 fires on every tick and advances the watchdog and barrier timeouts. -/
  | timeoutTick
  /-- SOFTWARE_SLOT_FIRE (R302): A software slot fires, reloads by PERIOD, and posts an event with the cadence count. -/
  | softwareSlotFire (slot : SlotId)
  /-- RAIL_SAMPLE (R310): Rail current and voltage are sampled at 1 MHz, which updates D10, D1ms and the tally energy. -/
  | railSample (watts : Nat)
  /-- POWER_EVALUATION (R310): Every 10 µs the working limit is evaluated and duty, step requests, parking and the exceed counts are adjusted. -/
  | powerEvaluation (temps : List (Nat × Nat))
  /-- REGION_TRANSITION_COMPLETE (R306): A region finishes moving to lit, banked or dark after its stated transition time. -/
  | regionTransitionComplete (region : RegionId)
  /-- SUPERSTEP_WATCHDOG_EXPIRY (R399): A context's superstep reaches WATCHDOG_TICKS, which raises a class T fault and Statues. -/
  | superstepWatchdogExpiry (ctx : CtxId)
  /-- EVL_TRAINING (R321): EVL link training tries widths 16, 8 and 4, taking the first that trains, and otherwise leaves the link down. -/
  | evlTraining (lanes : BitVec 4)
  /-- EVL_TRAINING_RETRY (R321): With the EVL link down, training is retried every 100 ms. -/
  | evlTrainingRetry (lanes : BitVec 4)
  /-- EVL_FRAME_RECEIVE (R322): An EVL frame is received, acknowledged in order, or requested again, and repeated failures retrain the link. -/
  | evlFrameReceive (seq : Word) (good : Bool) (chan : Fin 3) (units : Nat) (want : Option (Checked Word))
  /-- BULK_REQUEST (R326): A host bulk read or write of HBM or a store window is checked and carried out, or refused. -/
  | bulkRequest (head : BitVec 128) (data : List Byte) (ecc : HbmEcc)
  /-- COHERENT_SNOOP (R325): A snoop of the host-memory window is answered within 1 µs. -/
  | coherentSnoop (addr : Nat) (line : Option (List Byte)) (ecc : Ecc)
  /-- CORD_SIGNAL_DETECT (R335): Signal on an ABSENT link's lanes moves it to TRAINING. -/
  | cordSignalDetect (link : LinkId)
  /-- CORD_FEC_LOCK (R335): FEC locks at full or half width and the link enters AUTHENTICATING. -/
  | cordFecLock (link : LinkId) (half : Bool)
  /-- CORD_TRAINING_TIMEOUT (R335): With no lock within 100 ms, a training link returns to ABSENT. -/
  | cordTrainingTimeout (link : LinkId)
  /-- CORD_SIGNAL_LOST (R335): Loss of signal sends the link to ABSENT or TRAINING. -/
  | cordSignalLost (link : LinkId)
  /-- HELLO (R336): A partner's HELLO is received and its certificate, identity policy, microcode version and port mode are checked. -/
  | hello (link : LinkId) (frame : List Byte) (certOk : Bool)
  /-- PROOF (R336): A partner's PROOF is verified, the session keys are derived and CONFIRM is sent. -/
  | proof (link : LinkId) (frame : List Byte) (sigOk : Bool)
  /-- CONFIRM (R336): A valid CONFIRM, received and sent, moves the link to UP or DEGRADED. -/
  | confirm (link : LinkId) (word : BitVec 128) (tagOk : Bool)
  /-- AUTHENTICATION_TIMEOUT (R335): After 50 ms in AUTHENTICATING, the link is quarantined. -/
  | authenticationTimeout (link : LinkId)
  /-- CORD_DATA_FRAME_RECEIVE (R333): A cord data frame is decrypted and delivered to a CORD_RECV, a rick or the control complex, or is discarded. -/
  | cordDataFrameReceive (link : LinkId) (frame : List Byte) (tagOk : Bool)
  /-- ACK (R334): An ACK control word acknowledges frames received in order. -/
  | ack (link : LinkId) (word : CordWord)
  /-- REPLAY (R334): A REPLAY control word makes the sender replay from the named SEQ. -/
  | replay (link : LinkId) (word : Checked CordWord)
  /-- CREDIT (R334): A CREDIT control word returns frame credits for a class. -/
  | credit (link : LinkId) (word : CordWord)
  /-- ARRIVE (R341): An ARRIVE control word counts toward a system barrier and is passed on, or is a protocol violation. -/
  | arrive (link : LinkId) (word : CordWord)
  /-- CADENCE (R342): A CADENCE control word records the partner's cadence count at the mark. -/
  | cadence (link : LinkId) (word : CordWord)
  /-- REKEY (R337): A REKEY word and handshake frames carry out a fresh key exchange without stopping traffic. -/
  | rekey (link : LinkId) (word : CordWord)
  /-- REKEY_START (R337): After 2³¹ frames under one key, a link starts a rekey. -/
  | rekeyStart (link : LinkId)
  /-- CORD_DEGRADED_RECOVERY (R335): A DEGRADED full-width link whose retry rate stays low for 10 s returns to UP. -/
  | cordDegradedRecovery (link : LinkId)
  /-- QUARANTINE_BACKOFF_EXPIRY (R340): The quarantine back-off elapses and the link enters TRAINING. -/
  | quarantineBackoffExpiry (link : LinkId)
  /-- QUARANTINE_COUNT_RESET (R340): After 600 s UP or DEGRADED, the quarantine count n returns to 0. -/
  | quarantineCountReset (link : LinkId)
  /-- SYSTEM_BARRIER_TIMEOUT (R341): A system barrier still waiting after T cadence ticks stops the context with a class T fault. -/
  | systemBarrierTimeout (ctx : CtxId)
  /-- CORD_ENABLE_WRITE (R335): A write to CORD_CONFIG.ENABLE holds the link in ABSENT or lets it train. -/
  | cordEnableWrite (src : Source) (link : LinkId) (val : Word)
  /-- CORD_SPLIT_WRITE (R332): A write to CORD_CONFIG.SPLIT changes the port mode at once or at the port's next entry to TRAINING. -/
  | cordSplitWrite (src : Source) (port : PortId) (val : Word)
  /-- QUARANTINE_RELEASE (R340): A write of 1 to CORD_CONFIG.RELEASE ends a quarantine early. -/
  | quarantineRelease (src : Source) (link : LinkId) (val : Word)
  /-- ROLE_COMMAND (R347): A signed role command is checked in order, its nonce is advanced, and it is dispatched to its opcode or refused. -/
  | roleCommand (sideband : Bool) (bytes : List Byte) (chk : RoleCheck)
  /-- WRITE_REGS (R348): The role command writes or stages RL registers of the signer's role. -/
  | writeRegs (sideband : Bool) (bytes : List Byte) (chk : RoleCheck)
  /-- STAGE_ENVELOPE (R348): The role command replaces or appends to the staged envelope table. -/
  | stageEnvelope (sideband : Bool) (bytes : List Byte) (chk : RoleCheck)
  /-- ENVELOPE_ALIGN (R304): The role command aligns the envelope table with the facility minute count. -/
  | envelopeAlign (sideband : Bool) (bytes : List Byte) (chk : RoleCheck)
  /-- STORE (R350): The role command commits the signer's staged changes through the journal, the notches and the audit log, or is refused whole. -/
  | store (sideband : Bool) (bytes : List Byte) (chk : RoleCheck)
  /-- STORE_COMPLETE (R350): A STORE completes within 10 ms, its changes take effect and a completion event is posted. -/
  | storeComplete
  /-- DISCARD_STAGED (R350): The role command DISCARD drops the signer's staged changes. -/
  | discardStaged (sideband : Bool) (bytes : List Byte) (chk : RoleCheck)
  /-- BIND_KEY (R351): The role command stages a new Operator, Owner or attestation key binding, or the clearing of the attestation binding. -/
  | bindKey (sideband : Bool) (bytes : List Byte) (chk : RoleCheck)
  /-- OWNER_RELEASE (R353): The role command refuses contexts, erases all tenant data and clears the Owner bindings. -/
  | ownerRelease (sideband : Bool) (bytes : List Byte) (chk : RoleCheck)
  /-- OWNER_RELEASE_COMPLETE (R353): After the erasure, the bindings are cleared and committed as a STORE of the Operator. -/
  | ownerReleaseComplete
  /-- POWER_KEY_BIND (R355): The role command generates a power key pair and certificate at STORE. -/
  | powerKeyBind (sideband : Bool) (bytes : List Byte) (chk : RoleCheck)
  /-- AUDIT_ACK (R358): The role command replaces the audit entries up to the acknowledged one with a summary entry. -/
  | auditAck (sideband : Bool) (bytes : List Byte) (chk : RoleCheck)
  /-- STAGE_PARTNERS (R348): The role command stages the partner allow-list identities. -/
  | stagePartners (sideband : Bool) (bytes : List Byte) (chk : RoleCheck)
  /-- ATTEST_OWNER (R360): The role command builds an attestation report with the Owner section and returns it on its path. -/
  | attestOwner (sideband : Bool) (bytes : List Byte) (chk : RoleCheck)
  /-- ATTEST_REQUEST (R433): A write of 1 to ATTEST_CTRL.REQUEST starts building a report, or is refused while one is building. -/
  | attestRequest (src : Source) (val : Word)
  /-- ATTEST_REPORT_READY (R360): Within 5 ms the report is written into ATTEST_DATA and STATE reads ready. -/
  | attestReportReady
  /-- POWER_OK_RISE (R442): PWR_OK rises, ending the reset that its low level forces. -/
  | powerOkRise
  /-- RESET_N_ASSERT (R443): RESET_N asserts and the package enters reset at once. -/
  | resetNAssert
  /-- RESET_N_RELEASE (R361): RESET_N is released, which is stage 1: the control complex leaves reset and the cadence unit starts acquiring. -/
  | resetNRelease
  /-- POWER_LOSS (R443): PWR_OK falls or a rail leaves regulation without RESET_N, and the package enters reset within 1 µs. -/
  | powerLoss
  /-- BOOT_ROM_STAGE (R361): Stage 2 tests the ROM and security block, resolves the journal and chooses a flash bank. -/
  | bootRomStage (romOk journal aOk bOk : Bool) (badA bad : List (Fin 14))
  /-- FIRMWARE_LOAD_STAGE (R361): Stage 3 verifies the manifest and loads and checks each firmware image. -/
  | firmwareLoadStage (ok : Bool)
  /-- MIGRATION_STAGE (R373): Stage 4 migrates the Settings Store and the ash-pit header to new versions. -/
  | migrationStage (ok : Bool)
  /-- CROSSING_TRAINING_STAGE (R361): Stage 5 lights the regions at F3 and trains every crossing, fencing all regions on repeated failure. -/
  | crossingTrainingStage (failed : List RegionId)
  /-- HBM_TRAINING_STAGE (R361): Stage 6 trains all 32 stacks, fencing any that fail. -/
  | hbmTrainingStage (failed : BitVec 32)
  /-- SELF_TEST_STAGE (R363): Stage 7 runs the region self-tests and the port loopbacks within the power limit; `ports` has a bit per port that fails and, from bit 16 on, one per die whose fault the test cannot confine to a region. -/
  | selfTestStage (regions : BitVec 24) (ports : BitVec 20)
  /-- DEVICE_READY (R361): Stage 8 sets READY and BOOT_MS, and a PENDING bank becomes ACTIVE. -/
  | deviceReady
  /-- START_STAGE_TIMEOUT (R361): A start-up stage exceeds its limit, which is a class T fault. -/
  | startStageTimeout
  /-- PENDING_BOOT_TIMEOUT (R372): A boot from a PENDING bank not ready within 5 s marks the bank INVALID and resets once to revert. -/
  | pendingBootTimeout
  /-- FENCED_REGION_DARK (R366): A fenced region goes dark after its scan-out or 1 s after the fence. -/
  | fencedRegionDark (region : RegionId)
  /-- UPDATE_BEGIN (R378): An update session opens and copying the active images into the other bank starts. -/
  | updateBegin (bytes : List Byte)
  /-- UPDATE_COPY_COMPLETE (R378): The bank copy finishes and the session is open for blocks. -/
  | updateCopyComplete
  /-- UPDATE_BLOCK (R378): A manifest or image block is checked for signature, order, pairing and digest, and is written to flash. -/
  | updateBlock (bytes : List Byte) (sigOk : Bool)
  /-- UPDATE_END (R378): The session ends: the manifest is written last, the set is checked and the bank is marked PENDING. -/
  | updateEnd (bytes : List Byte)
  /-- UPDATE_ABORT (R378): The session is abandoned and the bank is left INVALID. -/
  | updateAbort
  /-- ASHPIT_ENABLE_WRITE (R382): A write to ASHPIT_CTRL.ENABLE enables or disables the ash pit, or is refused. -/
  | ashpitEnableWrite (src : Source) (val : Word)
  /-- ASHPIT_HEADER_REWRITE (R384): At least every 1 ms, the control complex rewrites the valid ash-pit header slot. -/
  | ashpitHeaderRewrite
  /-- CTRL_LATCH_START (R428): A write of 1 to CTRL.LATCH_START latches the selected counters into START. -/
  | ctrlLatchStart (src : Source) (addr : Nat)
  /-- CTRL_LATCH_END (R428): A write of 1 to CTRL.LATCH_END latches the selected counters into END. -/
  | ctrlLatchEnd (src : Source) (addr : Nat)
  /-- TAG_LOAD (R390): A write to TAG_LOAD_VALUE stores a tag entry into every tag cache the context owns, or is refused. -/
  | tagLoad (src : Source) (val : Word)
  /-- SNAPSHOT_ARM (R391): A write of ARM to SNAP_CTRL arms a snapshot request, or is refused. -/
  | snapshotArm (src : Source) (req : Fin 4) (val : Word)
  /-- SNAPSHOT_COMPLETE (R392): Every snapshot billet has been accepted by HBM, and the boundary proceeds. -/
  | snapshotComplete (ctx : CtxId) (depOk : Bool)
  /-- CAPTURE_ARM (R394): A write of ARM to CAP_CTRL arms a step capture. -/
  | captureArm (src : Source) (val : Word)
  /-- REPLAY_ARM (R396): A write of ARM to REPLAY_CTRL loads a capture into a diagnostic context, or is refused. -/
  | replayArm (src : Source) (val : Word)
  /-- STATUES_STOP_WRITE (R399): A write of 1 to STATUES_CTRL.STOP raises Statues. -/
  | statuesStopWrite (src : Source)
  /-- STOP_IN_EDGE (R400): A rising edge on STOP_IN raises Statues within 1 µs. -/
  | stopInEdge
  /-- SCAN_OUT_START (R401): After issued requests drain, the scan-out writes the package state to the scan area under the debug policy. -/
  | scanOutStart
  /-- SCAN_OUT_END (R403): The scan-out ends: SCAN_VALID is set, the live contexts stop and the event is posted. -/
  | scanOutEnd
  /-- RECOVER (R403): A write of 1 to STATUES_CTRL.RECOVER clears the queues and streams, deasserts STOP_OUT and resumes dispatching. -/
  | recover (src : Source)
  /-- THERMAL_TRIP (R446): A junction reaching 105 °C records a fault, banks every region and stack, and latches THERM_ALERT_N. -/
  | thermalTrip (junction : JunctionId) (temp : Nat)
  /-- STACK_HOT (R445): A stack reaching 95 °C doubles its refresh rate and asserts THERM_ALERT_N. -/
  | stackHot (stack : StackId) (temp : Nat)
  /-- SMBUS_READ_BOOT_STATUS (R449): An SMBus read of code 0x00 returns BOOT_STATUS. -/
  | smbusReadBootStatus
  /-- SMBUS_READ_IDENTITY (R449): An SMBus read of code 0x01 returns the identity certificate. -/
  | smbusReadIdentity
  /-- SMBUS_READ_TEMPERATURES (R449): An SMBus read of code 0x02 returns the hottest region, base-die and stack temperatures. -/
  | smbusReadTemperatures
  /-- SMBUS_READ_FAULT_SUMMARY (R449): An SMBus read of code 0x03 returns the fault summary and releases SMB_ALERT_N. -/
  | smbusReadFaultSummary
  /-- SMBUS_ROLE_CHUNK (R449): An SMBus write of code 0x10 adds a role-command chunk and submits the command on its LAST chunk. -/
  | smbusRoleChunk (bytes : SmbBlock) (chk : RoleCheck)
  /-- SMBUS_ROLE_REPLY (R449): An SMBus read of code 0x11 returns the reply to the last complete role command, in chunks. -/
  | smbusRoleReply
  /-- JTAG_ACCESS (R450): A JTAG operation performs boundary scan, identification or, under the debug policy, tile-state access. -/
  | jtagAccess (op : JtagOp)
  /-- SYNC_OUT_PULSE_END (R316): 1 µs after SYNC_OUT rose at an aligned stagger target, SYNC_OUT falls. -/
  | syncOutPulseEnd
  /-- THERM_ALERT_RELEASE (R445): When every junction is below 98 °C and every stack below 93 °C, THERM_ALERT_N is released unless a trip has latched it. -/
  | thermAlertRelease
deriving DecidableEq, Repr

end Sys2Proof
end

