-- ==== Sys2Proof/Config.lean ====
section
/-! DEFINITION. What the manual leaves to published standards or to physics and software can still see: constants without a body, of which nothing can be proved but that they are functions. -/

namespace Sys2Proof.Config

/-- The n-th free value the machine draws (log entry 4): a result whose rounding the model's enclosure does not settle, a random key or nonce. -/
opaque freeValue : Nat → BitVec 64

/-- Ed25519 signature the part makes with the key of that generation (0 the identity key) over a byte string (R318, R336, R359, R360; log entry 9). -/
opaque sign : Nat → List Byte → List Byte

/-- Ed25519 public key of a generated power key pair, by generation (R355; log entry 9). -/
opaque powerPublic : Nat → BitVec 256

/-- Power certificate of the given contents (power public key, Operator key ID, SEQUENCE and digest of the chain head) and of the identity key's signature over them; where they stand in its 128 bytes is not said (R355; log entry 9). -/
opaque powerCert : List Byte → List Byte → List Byte

/-- SERIAL of the part (R359; log entry 2). -/
opaque serial : BitVec 96

/-- First 8 bytes of the SHA-512 of the Forvar root public key (R359; log entry 2). -/
opaque rootId : BitVec 64

/-- Ed25519 signature by the Forvar root key over the SHA-512 of a byte string (R359; log entry 2). -/
opaque rootSign : List Byte → List Byte

/-- X25519 public value of the handshake a link makes, by link and handshake number (R336; log entry 9). -/
opaque ephemeral : Nat → Nat → List Byte

/-- The straps SMB_ADDR1 (bit 1) and SMB_ADDR0 (bit 0) as the board ties them (R447, R449; log entry 2). -/
opaque smbStraps : BitVec 2

/-- FP32 result of a function whose correct rounding the model's enclosure does not settle, by VOP and operand bits (R145; log entry 4). -/
opaque unsettled : Nat → Nat → Nat

/-- RECORD_ID of a setting, by its number in the model (R349; log entry 17). -/
opaque recordId : Nat → BitVec 16

/-- Value of the record of a setting, by the setting's number and the bytes its command carries (R349, R357; log entry 17). -/
opaque recordValue : Nat → List Byte → List Byte

/-- SHA-512 over every committed record, by the settings' numbers and bytes with their notches (R360; log entry 17). -/
opaque settingsDigest : List (Nat × List Byte × Nat) → List Byte

/-- Bytes of a capture or replay record whose layout the manual does not give, by draw and position (R394, R397; log entry 4). -/
opaque recordByte : Nat → Nat → BitVec 8

/-- The scan-out meets an uncorrectable word in what it writes at an offset of the scan area, by draw and offset (R418; log entry 4). -/
opaque scanBad : Nat → Nat → Bool

end Sys2Proof.Config
end

