-- ==== Sys2Proof/Machine/State.lean ====
section
/-! DEFINITION. The state of the package: every piece the manual names, as plain data, and its value right after RESET_N is released. Each field names the rule that gives it; INVENTORY.md lists widths and reset values. -/

namespace Sys2Proof.Machine

/-- Bytes by address, in rising order, none of them zero: an address that is not listed holds 0 (R363; log entry 3). -/
abbrev Memory := List Host.Cell

/-- A requester at a bank, in the order of R49: first the feeders of A, of B and of their scales. -/
inductive Requester where
  | feedA
  | feedB
  | scaleA
  | scaleB
  | drain
  | vector
  | rick
  | dma
  | merge
  | core
  /-- step-capture and scan-out reads, at the instruction memory's billet port alone (R64) -/
  | image
deriving DecidableEq, Repr

/-- What the data of a granted read is for, or what a granted write is part of. -/
inductive ReqDst where
  | none
  /-- a scalar load into a register of a slot's bank, with the doubleword of the billet (R40) -/
  | coreReg (slot reg dword : Nat)
  /-- billet k of a DMA command (R174) -/
  | dma (op k : Nat)
  /-- index billet k of a GATHER (R186) -/
  | index (op k : Nat)
  /-- the oldest merge of that billet (R58) -/
  | merge
  /-- a KPUT's source billet (R191) -/
  | kput (id : Nat)
  /-- billet k of a plan send (R213) -/
  | send (entry k : Nat)
  /-- billet k of a plan receive (R214) -/
  | recv (entry k : Nat)
  /-- lines of a channel message (R231) -/
  | chan (ep : Nat)
  /-- billet k of a message that is being sent (R230) -/
  | chSrc (msg k : Nat)
  /-- billet k of what feeder 0 to 3 reads for a matrix command: A, B, A scales, B scales (R76, R78) -/
  | feed (cmd feeder k : Nat)
  /-- billet k of the spill region that a RESUME reads (R119) -/
  | resume (cmd k : Nat)
  /-- a billet of a drain (R93) or spill (R118) of a matrix command -/
  | drain (cmd : Nat)
  /-- the k-th source billet of the vector command (R452) -/
  | vecSrc (k : Nat)
  /-- a result of a vector command (R452) -/
  | vector
  /-- the k-th source billet of a CONTRIBUTE, or billet of the stream that a FINISH reads (R453, R244) -/
  | rickSrc (k : Nat)
  /-- the ember billet of an addition (R453) -/
  | ember (bil : Nat)
  /-- a side-table billet of a stream's addition (R240) -/
  | side (stream : Nat)
  /-- a write of a DEFINE or FINISH (R237, R244) -/
  | rick
deriving DecidableEq, Repr

/-- Who sent a sub-billet write (R58). -/
inductive MergeOrg where
  | core
  | kget (id : Nat)
  | scale (cmd : Nat)
  | cvtTail
  | chan (ep : Nat)
  | rick
deriving DecidableEq, Repr

/-- How far a merge has come (R58). -/
inductive MergeStage where
  /-- waits for an entry of the buffer -/
  | queued
  /-- holds an entry; its read waits or is on its way -/
  | reading
  /-- its write-back waits -/
  | writing
  /-- its write-back has been granted -/
  | granted
deriving DecidableEq, Repr

/-- Power state of a bank (R60 to R63). -/
inductive BankPower where
  | lit
  | closing
  | dark
  | waking
  | zeroing
deriving DecidableEq, Repr

/-- The consumer attached to a carousel (R181). -/
inductive ConsBy where
  | matrix
  | dma (id : Nat)
deriving DecidableEq, Repr

/-- The request that a write at an HBM controller belongs to (R175, R191). -/
inductive HbmOrg where
  | dma (tile op : Nat)
  | kput (tile id : Nat)
deriving DecidableEq, Repr

/-- Virtual networks of the mesh (R195). -/
inductive Vn where
  | s
  | p
  | q
  | l
deriving DecidableEq, Repr

/-- What a flit is, by network (R194, R226, R232, R241). -/
inductive FlitBody where
  /-- a flit of an exchange-plan send -/
  | data
  /-- a line of a channel message for that receive endpoint; `msg` names the message on its sender -/
  | line (ep msg : Nat) (last : Bool)
  /-- freed lines returned to that send endpoint -/
  | credit (ep lines : Nat)
  /-- header of a rick packet -/
  | rickHead (stream first count : Nat) (exact : Bool)
  /-- a later flit of a rick packet -/
  | rickData
deriving DecidableEq, Repr

/-- What the tile core is stalled on (R36, R39, R160, R191, R205, R229, R230). -/
inductive Stall where
  | none
  | queueFull (eng : Engine)
  | barrier
  | exchange
  | ctrWait
  | load
  | kindling
  | chSend (ep : Nat)
  | chSlots (ep : Nat)
deriving DecidableEq, Repr

/-- An exact value of kiln weights with the four flags of R108 (R239, R240). -/
structure LimbVal where
  /-- the exact sum, as one number of 640 bits in two's complement -/
  limbs : BitVec 640 := 0
  /-- sticky flag NAN -/
  nan : Bool := false
  /-- sticky flag POS_INF -/
  posInf : Bool := false
  /-- sticky flag NEG_INF -/
  negInf : Bool := false
  /-- sticky flag OVERFLOW -/
  overflow : Bool := false
deriving DecidableEq, Repr

/-- Context states, numbered 1 to 5 as CTX_STATE.STATE (R274); FREE is a context that is not listed. -/
inductive CtxState where
  | pending
  | idle
  | running
  | paused
  | stopped
deriving DecidableEq, Repr

/-- The action of R30 at which a boundary stands. -/
inductive BoundStage where
  | none
  /-- the last tile has arrived; no action has been taken -/
  | arrived
  /-- step 2: a snapshot or capture is being written -/
  | snapshot
  /-- step 4: the clock-switch hold of a step change -/
  | stepHold
  /-- step 5: a context switch is under way -/
  | switching
  /-- step 6: held for a stagger target -/
  | stagger
deriving DecidableEq, Repr

inductive TaskState where
  | waiting
  | running
  | done
deriving DecidableEq, Repr

/-- Graph states (R291, GRAPH_STATE); validation is part of SUBMIT_GRAPH. -/
inductive GraphState where
  | free
  | running
  | paused
  | complete
  | failed
  | cancelled
deriving DecidableEq, Repr

/-- Cord link states, numbered as CORD_STATE.STATE (R335). -/
inductive LinkState where
  | absent
  | training
  | authenticating
  | up
  | degraded
  | quarantined
deriving DecidableEq, Repr

/-- HBM stack states, numbered as HBM_STATUS.STATE (R430). -/
inductive StackState where
  | untrained
  | active
  | banked
  | waking
deriving DecidableEq, Repr

/-- Bucket states (R264). -/
inductive BucketState where
  | ready
  | running
  | failed
deriving DecidableEq, Repr

/-- Region states (R23, R306). -/
inductive RegionState where
  | lit
  | banked
  | dark
  | transition
deriving DecidableEq, Repr

/-- Cadence unit states (R297). -/
inductive CadState where
  | acquiring
  | locked
  | holdover
deriving DecidableEq, Repr

/-- Flash bank states (R370). -/
inductive FwState where
  | empty
  | valid
  | pending
  | invalid
deriving DecidableEq, Repr

/-- A fault that would stop the model. No row raises one: the manual gives every fault as a record and an effect on state (R404 to R413). It is the type the interface asks for; raising it would be safe. -/
inductive Fault where
  /-- raised by no command; safe -/
  | none
deriving DecidableEq, Repr

/-- Why a command has no meaning. -/
inductive Refusal where
  /-- raised by the arm of a command whose meaning is not written; safe -/
  | notModelled (mnemonic : String)
deriving DecidableEq, Repr


/-- One cell of the matrix array (R66). -/
structure Cell where
  /-- the ten limbs of the kiln, KILN[639:0] (R102,R105). -/
  limbs : BitVec 640 := 0
  /-- one pending carry for each of the nine limb boundaries (R105). -/
  carries : BitVec 9 := 0
  /-- the chunk register (R101). -/
  coal : BitVec 72 := 0
  /-- sticky flag NAN (R108). -/
  nan : Bool := false
  /-- sticky flag POS_INF (R108). -/
  posInf : Bool := false
  /-- sticky flag NEG_INF (R108). -/
  negInf : Bool := false
  /-- sticky flag OVERFLOW (R108). -/
  overflow : Bool := false
deriving DecidableEq, Repr

/-- One command in a command queue (R36, R37). -/
structure QEntry where
  /-- context the command acts for (R154). -/
  ctx : Nat := 0
  /-- resident-context slot it was enqueued for (R154). -/
  slot : Nat := 0
  /-- the 32 bytes, byte 0 in bits [7:0] (R36). -/
  cmd : BitVec 256 := 0
  /-- the command has started (R38). -/
  started : Bool := false
  /-- its effect is whole; only its completion is outstanding (R97). -/
  done : Bool := false
  /-- it completes with a fault and posts no add (R62) (R388). -/
  faulted : Bool := false
  /-- package cycle count when it started (R388). -/
  start : Nat := 0
  /-- FROZEN counter when it started (R388). -/
  frozen0 : Nat := 0
  /-- K-steps applied (matrix); source billets asked for (vector, rick) (R67). -/
  kDone : Nat := 0
  /-- identity of the command on its tile (R36). -/
  id : Nat := 0
  /-- billets that each feeder 0 to 3 has asked for; a RESUME counts its cell-field billets under 0 and its limb billets under 1 (R92). -/
  asked : Sparse Nat := []
deriving DecidableEq, Repr

/-- The matrix engine of a tile (R66 to R99). -/
structure MatrixSt where
  /-- MATRIX_STATUS.OPEN (R68). -/
  isOpen : Bool := false
  /-- the array, cell (i, j) under key 64 i + j, an unlisted cell is clear (R66). -/
  cells : Sparse Cell := []
  /-- MATRIX_KSTEPS.COUNT, holds at 0xFFFF_FFFF (R85). -/
  ksteps : Nat := 0
  /-- MATRIX_STATUS.OP of the command that owns the array (R85). -/
  op : Nat := 0
  /-- MATRIX_STATUS.FREEZE_CAUSE of the last cycle (FROZEN is cause > 0) (R99). -/
  cause : Nat := 0
  /-- MATRIX_STATUS.A_FORMAT (R87). -/
  fmtA : Nat := 0
  /-- MATRIX_STATUS.B_FORMAT (R87). -/
  fmtB : Nat := 0
  /-- MATRIX_STATUS.FORMATS_VALID (R117). -/
  fmtValid : Bool := false
  /-- MATRIX_STATUS.DRAIN_ROW (R93). -/
  drainRow : Nat := 0
  /-- MATRIX_STATUS.DRAINING (R93). -/
  draining : Bool := false
  /-- the command that has the array (R92). -/
  owner : Option Nat := none
  /-- bytes of the output billet that is being filled (R94). -/
  out : List Byte := []
  /-- output billets presented for writing (R93). -/
  outN : Nat := 0
  /-- scale bytes of the rows read, for the two halves (R93). -/
  scales : List (Nat × Nat) := []
  /-- MATRIX_SPILL_LAST (R118). -/
  spillLast : BitVec 32 := 0
  /-- MATRIX_DRAIN_FLAGS (R110). -/
  drainFlags : BitVec 32 := 0
  /-- MATRIX_SLOT_OPEN.SLOT (R120). -/
  slotOpen : BitVec 8 := 0
deriving DecidableEq, Repr

/-- One bank of the tile core, for one resident-context slot (R35). -/
structure CoreBank where
  /-- s1 to s31 under their numbers; s0 is hard-wired to 0 and never listed (R34). -/
  regs : Sparse (BitVec 64) := []
  /-- program counter, an instruction index in the slice (R35). -/
  pc : Nat := 0
  /-- VECTOR_FLAGS saved for the slot (R150). -/
  vflags : BitVec 32 := 0
deriving DecidableEq, Repr

/-- One entry of a tile's context map (R275, R277). -/
structure MapEntry where
  /-- context number (R275). -/
  ctx : Nat := 0
  /-- Woodpile slice base, billets (R275). -/
  wpBase : Nat := 0
  /-- Woodpile slice size (R275). -/
  wpSize : Nat := 0
  /-- Tinder slice base (R275). -/
  tiBase : Nat := 0
  /-- Tinder slice size (R275). -/
  tiSize : Nat := 0
  /-- Ember slice base (R275). -/
  emBase : Nat := 0
  /-- Ember slice size (R275). -/
  emSize : Nat := 0
  /-- instruction slice base, KiB (R275). -/
  imBase : Nat := 0
  /-- instruction slice size, KiB (R275). -/
  imSize : Nat := 0
  /-- WINDOW[s].BASE (R152). -/
  ctrBase : Nat := 0
  /-- WINDOW[s].SIZE (R152). -/
  ctrSize : Nat := 0
  /-- a spill region is given (R275). -/
  spill : Bool := false
  /-- its first Ember billet, relative to the slice (R275). -/
  spillBase : Nat := 0
  /-- first billet of the rick area, relative to the Ember slice (R275). -/
  rickBase : Nat := 0
  /-- billets of the rick area (R275). -/
  rickN : Nat := 0
  /-- bytes of code in the tile's code section (R64). -/
  codeLen : Nat := 0
deriving DecidableEq, Repr

/-- A request that waits at a bank (R49). -/
structure BankReq where
  /-- the requester, in the order of R49 (R49). -/
  who : Requester := .core
  /-- the store, or the instruction memory (R41). -/
  store : StoreId := .woodpile
  /-- physical billet (R51). -/
  bil : Nat := 0
  /-- the billet to write, none for a read (R42). -/
  wr : Option (List Byte) := none
  /-- what the data of a read is for, and what a granted write is part of (R46). -/
  dst : ReqDst := .none
  /-- cycle count of the tile's clock when it was presented (R48). -/
  since : Nat := 0
  /-- a closing bank had accepted the request (R61). -/
  acc : Bool := false
  /-- its place in the order in which requests and sub-billet writes reach the tile's stores (R58). -/
  seq : Nat := 0
  /-- the carousel whose next billet a read takes (R179). -/
  car : Option Nat := none
  /-- consecutive cycles lost (R49). -/
  lost : Nat := 0
  /-- for a granted read, the cycle in which its billet is available (R46). -/
  readyAt : Nat := 0
  /-- for a granted read, the billet's image at the grant (R47). -/
  data : List Byte := []
deriving DecidableEq, Repr

/-- One entry of a DMA range table (R54). -/
structure RangeEntry where
  /-- identity of the descriptor (R54). -/
  op : Nat := 0
  /-- the store (R54). -/
  store : StoreId := .woodpile
  /-- first physical billet (R54). -/
  first : Nat := 0
  /-- last physical billet (R54). -/
  last : Nat := 0
  /-- its place in the order in which requests and sub-billet writes reach the tile's stores (R191). -/
  seq : Nat := 0
deriving DecidableEq, Repr

/-- One billet entry of a merge buffer (R58). -/
structure MergeEntry where
  /-- the store (R58). -/
  store : StoreId := .woodpile
  /-- physical billet (R58). -/
  bil : Nat := 0
  /-- first byte replaced (R59). -/
  off : Nat := 0
  /-- the bytes that replace (R58). -/
  bytes : List Byte := []
  /-- who sent the write (R58). -/
  org : MergeOrg := .core
  /-- how far the merge has come (R58). -/
  stage : MergeStage := .queued
  /-- its place in the order of arrival (R58). -/
  seq : Nat := 0
deriving DecidableEq, Repr

/-- A range that a drain or spill of a matrix command holds against later feeder reads (R96). -/
structure DrainHold where
  /-- the command (R96). -/
  cmd : Nat := 0
  /-- the store (R96). -/
  store : StoreId := .woodpile
  /-- first physical billet (R96). -/
  first : Nat := 0
  /-- last physical billet (R96). -/
  last : Nat := 0
deriving DecidableEq, Repr

/-- Power state of one bank of a tile (R60 to R63). -/
structure BankSt where
  /-- lit, closing, dark, waking or zeroing (R61). -/
  st : BankPower := .lit
  /-- cycle count of the tile's clock after the last grant, 0 before the first (R48). -/
  lastGrant : Nat := 0
  /-- requester of that grant, none when it wrote a corrected billet back (R49). -/
  lastWho : Option Requester := none
  /-- billets whose corrected data waits to be written back, oldest first (R45). -/
  writeback : List Nat := []
  /-- cycle count of the tile's clock when its gate was last closed (R61). -/
  closedAt : Nat := 0
deriving DecidableEq, Repr

/-- One carousel of a resident-context slot (R178, R179). -/
structure Carousel where
  /-- CAROUSEL_DEF.BASE, a billet address relative to the slice (R178). -/
  base : Nat := 0
  /-- SLOTS (R178). -/
  slots : Nat := 0
  /-- SLOT_BILLETS (R178). -/
  slotBillets : Nat := 0
  /-- HEAD (R179). -/
  head : Nat := 0
  /-- TAIL (R179). -/
  tail : Nat := 0
  /-- FILLED (R179). -/
  filled : Nat := 0
  /-- the producer attached, by descriptor identity (R181). -/
  prod : Option Nat := none
  /-- the consumer attached (R181). -/
  cons : Option ConsBy := none
  /-- billets of the head slot already consumed (R83). -/
  headUsed : Nat := 0
  /-- slots published in this cycle, which count at its end (R180). -/
  pubs : Nat := 0
  /-- reads of billets granted in this cycle, which count at its end (R180). -/
  takes : Nat := 0
deriving DecidableEq, Repr

/-- A started DMA command (R174). -/
structure DmaOp where
  /-- identity of the descriptor on its tile (R174). -/
  id : Nat := 0
  /-- context it acts for (R154). -/
  ctx : Nat := 0
  /-- resident-context slot (R154). -/
  slot : Nat := 0
  /-- the command (R168). -/
  cmd : BitVec 256 := 0
  /-- package cycle count when it started (R388). -/
  start : Nat := 0
  /-- cycle count of the tile's clock when it started (R175). -/
  clk : Nat := 0
  /-- cycle count of the tile's clock after an UNLOAD issued its last read, 0 before the first (R174). -/
  readAt : Nat := 0
  /-- a host bulk write into a store window (R326). -/
  host : Bool := false
  /-- first physical billet of the store range (R326). -/
  physBase : Nat := 0
  /-- its store (R169). -/
  store : StoreId := .woodpile
  /-- units requested of HBM in order (COPY_IN, STREAM_IN), billets sent to HBM (COPY_OUT), indices looked at and not landed (GATHER) (R174). -/
  asked : Nat := 0
  /-- units whose data has returned, by index (COPY_IN); billets written ahead of `written` (STREAM_IN, GATHER) (R174). -/
  got : List Nat := []
  /-- store billets requested (COPY_OUT, UNLOAD) or billets fetched in order (STREAM_IN, GATHER) so far (R174). -/
  issued : Nat := 0
  /-- billets written, or accepted by HBM; of a stream, those with none before them outstanding (R175). -/
  written : Nat := 0
  /-- slots published (R179). -/
  pub : Nat := 0
  /-- STREAM_STATUS.STOPPING (R183). -/
  stopping : Bool := false
  /-- slots after which STREAM_STOP ends the producer (R183). -/
  stopAt : Option Nat := none
  /-- indices read and not yet used (GATHER) (R186). -/
  idxs : List Word := []
  /-- index billets read (R186). -/
  idxRead : Nat := 0
  /-- bytes of the slot being filled (GATHER) (R187). -/
  buf : List Byte := []
  /-- it met a fault and posts no add (R62). -/
  faulted : Bool := false
  /-- its context stopped on an uncorrectable read (R177) (R413). -/
  drop : Bool := false
  /-- fault code with which a host request completes (R326). -/
  code : Nat := 0
  /-- TAG of a host request (R326). -/
  tag : Nat := 0
  /-- the EVL went down before the completion of a host request, which is not sent (R323). -/
  lost : Bool := false
  /-- bytes of a host request (R326). -/
  len : Nat := 0
  /-- a host request writes (R326). -/
  wr : Bool := false
deriving DecidableEq, Repr

/-- One kindling slot (R191). -/
structure KSlot where
  /-- issue number, oldest lowest (R191). -/
  id : Nat := 0
  /-- KPUT (R189). -/
  put : Bool := false
  /-- context (R154). -/
  ctx : Nat := 0
  /-- resident-context slot (R154). -/
  slot : Nat := 0
  /-- HBM byte address (R189). -/
  addr : Nat := 0
  /-- bytes (R189). -/
  len : Nat := 0
  /-- store of the billet (R189). -/
  store : StoreId := .woodpile
  /-- physical billet (R189). -/
  bil : Nat := 0
  /-- byte offset in the billet (R189). -/
  off : Nat := 0
  /-- ADD_ID (R189). -/
  addId : Nat := 0
  /-- ADD_VALUE (R189). -/
  addVal : Nat := 0
  /-- the HBM read has returned, or the write has been sent (R191). -/
  sent : Bool := false
  /-- merged, or accepted by the controller (R191). -/
  done : Bool := false
  /-- it met a fault and posts no add (R177). -/
  failed : Bool := false
deriving DecidableEq, Repr

/-- A write on its way to an HBM controller (R175, R193). -/
structure HbmWrite where
  /-- HBM byte address (R172). -/
  addr : Nat := 0
  /-- the data (R193). -/
  bytes : List Byte := []
  /-- context it acts for (R177). -/
  ctx : Nat := 0
  /-- the request it belongs to (R191). -/
  org : HbmOrg := .dma 0 0
deriving DecidableEq, Repr

/-- One flit of the mesh (R194). -/
structure Flit where
  /-- virtual network (R195). -/
  vn : Vn := .s
  /-- source tile (R194). -/
  src : Nat := 0
  /-- destination tile (the last tile of the line for a parcel) (R194). -/
  dst : Nat := 0
  /-- context of the source (R199). -/
  ctx : Nat := 0
  /-- match tag (R194). -/
  tag : Nat := 0
  /-- flit index (R194). -/
  idx : Nat := 0
  /-- CYCLE of the send entry (R217). -/
  cyc : Nat := 0
  /-- DIR of a parcel flit (R218). -/
  parcel : Option Nat := none
  /-- what the flit carries (R194). -/
  body : FlitBody := .data
  /-- payload (R194). -/
  bytes : List Byte := []
deriving DecidableEq, Repr

/-- A plan entry that the exchange unit has read (R209, R215). -/
structure PlanEnt where
  /-- index in the plan (R209). -/
  idx : Nat := 0
  /-- the 16 bytes, byte 0 in bits [7:0] (R209). -/
  raw : BitVec 128 := 0
  /-- it has fallen due (R213). -/
  due : Bool := false
  /-- cycles since it fell due (R213). -/
  age : Nat := 0
  /-- billets whose read has been requested (sends) (R213). -/
  asked : Nat := 0
  /-- send buffer: billet number and data (R213). -/
  buf : List (Nat × List Byte) := []
  /-- flits that have entered the local port, or billets handed to a cord (R213). -/
  sent : Nat := 0
  /-- flits received and not yet part of a billet write (R215). -/
  got : List (Nat × List Byte) := []
  /-- flit indices received (R215). -/
  seen : List Nat := []
  /-- billets written (R214). -/
  wrote : Nat := 0
  /-- complete (R206). -/
  done : Bool := false
deriving DecidableEq, Repr

/-- The exchange unit of a tile (R207 to R220). -/
structure ExchSt where
  /-- EXCH_STATUS.PHASE (R205). -/
  phase : Nat := 0
  /-- EXCH_STATUS.HOLDING, with the entry that holds P (R216). -/
  holding : Option Nat := none
  /-- position of the selected plan in the slice, in 16-byte units (R207). -/
  plan : Option Nat := none
  /-- EXCH_PLAN.PLAN_ID (R208). -/
  planId : Nat := 65535
  /-- ENTRIES of the selected plan (R208). -/
  entries : Nat := 0
  /-- EXCH_PLAN.NEXT_ENTRY (R213). -/
  next : Nat := 0
  /-- entries read so far (R211). -/
  read : Nat := 0
  /-- the entries read, in order (R211). -/
  ents : List PlanEnt := []
  /-- EXCH_OFFSET, plan offset P (R213). -/
  offset : Nat := 0
  /-- EXCH_SLIP, holds at 0xFF_FFFF (R216). -/
  slip : Nat := 0
  /-- EXCH_LAST_LATE.ENTRY (R216). -/
  lastEntry : Nat := 0
  /-- EXCH_LAST_LATE.CORD (R220). -/
  lastCord : Bool := false
  /-- EXCH_LAST_LATE.CYCLES, holds at 0xFFFF (R216). -/
  lastCycles : Nat := 0
  /-- the END entry has fallen due (R206). -/
  ended : Bool := false
  /-- the send of which a flit has entered the local port in this cycle (R213). -/
  portEnt : Option Nat := none
  /-- VN-S delivery buffer of the local port (R215). -/
  deliver : List Flit := []
  /-- the head of the delivery buffer matches no entry (R215). -/
  heldArr : Bool := false
  /-- EXCH_STATUS.TABLE_INTERLOCK (R223). -/
  interlock : Bool := false
  /-- EXCH_STATUS.IMAGE_TABLE (R223). -/
  table : Nat := 0
deriving DecidableEq, Repr

/-- The router of a tile (R194 to R199). -/
structure RouterSt where
  /-- input buffers, key 4 port + network, oldest flit first (R195). -/
  bufs : Sparse (List Flit) := []
  /-- flits the tile has injected and the local input has not yet taken (R213). -/
  inj : List Flit := []
  /-- consecutive cycles a network has lost at a port, key 4 port + network (R196). -/
  lost : Sparse Nat := []
  /-- round-robin pointer, key 4 port + network (R196). -/
  rr : Sparse Nat := []
  /-- ROUTER_STATUS.UNCORRECTED (R199). -/
  uncorrected : Bool := false
deriving DecidableEq, Repr

/-- A message in a receive ring (R226, R232). -/
structure Msg where
  /-- line offset of its header (R232). -/
  line : Nat := 0
  /-- lines it occupies (R226). -/
  lines : Nat := 0
  /-- LENGTH (R227). -/
  len : Nat := 0
  /-- a skip marker (R227). -/
  skip : Bool := false
  /-- lines that have not arrived (R231). -/
  left : Nat := 0
  /-- delivered (R231). -/
  delivered : Bool := false
deriving DecidableEq, Repr

/-- One channel endpoint of a tile (R224). -/
structure Endpoint where
  /-- EP_CONFIG.VALID (R224). -/
  valid : Bool := false
  /-- EP_CONFIG.RECEIVE (R224). -/
  recv : Bool := false
  /-- EP_CONFIG.SLOT (R224). -/
  slot : Nat := 0
  /-- EP_CONFIG.PEER_ENDPOINT (R224). -/
  peerEp : Nat := 0
  /-- EP_CONFIG.PEER_TILE (R224). -/
  peerTile : Nat := 0
  /-- EP_RING.BASE (R226). -/
  ringBase : Nat := 0
  /-- EP_RING.RING_BILLETS (R226). -/
  ringBillets : Nat := 0
  /-- for a send endpoint, the billets of the peer's ring (its N / 8) (R229). -/
  peerRing : Nat := 0
  /-- EP_STATE.POSITION: TAIL, or the head line (R229). -/
  pos : Nat := 0
  /-- EP_STATE.FREE: FREE, or the unreleased lines (R229). -/
  free : Nat := 0
  /-- EP_ADD.ADD_ID (R231). -/
  addId : Nat := 0
  /-- EP_ADD.ADD_VALUE (R231). -/
  addVal : Nat := 0
  /-- EP_MESSAGES, holds at 0xFFFF_FFFF (R231). -/
  messages : Nat := 0
  /-- EP_STALL, holds at 0xFFFF_FFFF (R229). -/
  stall : Nat := 0
  /-- SEQ of the channel's next message (R227). -/
  seq : Nat := 0
  /-- receive: line at which the next line is written (R231). -/
  wline : Nat := 0
  /-- receive: messages and skip markers held, oldest first (R231). -/
  inbox : List Msg := []
  /-- receive: lines of the billet being collected, with their line numbers (R231). -/
  part : List (Nat × List Byte) := []
deriving DecidableEq, Repr

/-- A message not yet fully injected (R230). -/
structure SendMsg where
  /-- send endpoint (R230). -/
  ep : Nat := 0
  /-- context (R154). -/
  ctx : Nat := 0
  /-- resident-context slot (R154). -/
  slot : Nat := 0
  /-- identity carried by its flits (R230). -/
  id : Nat := 0
  /-- ADD_ID (R228). -/
  addId : Nat := 0
  /-- ADD_VALUE (R228). -/
  addVal : Nat := 0
  /-- tile it goes to (R228). -/
  peer : Nat := 0
  /-- receive endpoint it goes to (R228). -/
  peerEp : Nat := 0
  /-- it is a skip marker (R229). -/
  skip : Bool := false
  /-- lines it has in all (R226). -/
  lines : Nat := 0
  /-- its lines sent (R230). -/
  sent : Nat := 0
  /-- header, and the payload as far as it has been read (R227). -/
  bytes : List Byte := []
  /-- LENGTH (R227). -/
  len : Nat := 0
deriving DecidableEq, Repr

/-- One reduction stream of a rick (R235, R236). -/
structure RickStream where
  /-- RICK_STATE.DEFINED (R235). -/
  defined : Bool := false
  /-- RICK_STATE.FORWARD (R235). -/
  forward : Bool := false
  /-- RICK_STATE.SLOT (R235). -/
  slot : Nat := 0
  /-- context that defined it (R154). -/
  ctx : Nat := 0
  /-- ACCEPT_REMOTE (R236). -/
  remote : Bool := false
  /-- ANCHOR, A (R236). -/
  anchor : Int := 0
  /-- ELEMENTS (R236). -/
  elements : Nat := 0
  /-- PITCH (R236). -/
  pitch : Nat := 0
  /-- FIRST (R236). -/
  first : Nat := 0
  /-- BASE, as a physical Ember billet (R236). -/
  base : Nat := 0
  /-- SEG_GAP (R236). -/
  segGap : Nat := 0
  /-- SIDE_BASE, as a physical Ember billet (R236). -/
  sideBase : Nat := 0
  /-- SIDE_ENTRIES (R236). -/
  sideEntries : Nat := 0
  /-- RICK_SIDE.IN_USE (R240). -/
  sideUsed : Nat := 0
  /-- EXPECT (R236). -/
  expect : Nat := 0
  /-- RICK_ARRIVED (R243). -/
  arrived : Nat := 0
  /-- PEER_TILE (R236). -/
  peerTile : Nat := 0
  /-- PEER_STREAM (R236). -/
  peerStream : Nat := 0
  /-- RICK_STATE.FINISHING (R244). -/
  finishing : Bool := false
  /-- RICK_STATE.STOPPED (R240). -/
  stopped : Bool := false
deriving DecidableEq, Repr

/-- One element contribution that waits to be added (R241). -/
structure Contrib where
  /-- stream (R241). -/
  stream : Nat := 0
  /-- element index (R241). -/
  elem : Nat := 0
  /-- the exact value with its flags (R239). -/
  value : LimbVal := {}
  /-- the drain or CONTRIBUTE that gave it (R97, R453). -/
  src : Option Nat := none
deriving DecidableEq, Repr

/-- An addition in progress: an ember billet with the contributions that fall in it (R453). -/
structure AddWork where
  /-- stream (R453). -/
  stream : Nat := 0
  /-- physical Ember billet (R453). -/
  bil : Nat := 0
  /-- the contributions (R453). -/
  conts : List Contrib := []
  /-- its write-back has been presented (R453). -/
  wrote : Bool := false
deriving DecidableEq, Repr

/-- A contribution that goes to the side table of its stream (R240). -/
structure SideAdd where
  /-- the contribution (R239). -/
  cont : Contrib := {}
  /-- entries probed before the one at hand (R240). -/
  probed : Nat := 0
  /-- its write has been presented (R453). -/
  wrote : Bool := false
deriving DecidableEq, Repr

/-- A contribution packet that a rick is taking in (R241). -/
structure RickPkt where
  /-- source tile, or 4096 plus a cord link (R241). -/
  src : Nat := 0
  /-- stream (R241). -/
  stream : Nat := 0
  /-- next element (R241). -/
  next : Nat := 0
  /-- elements that have not arrived (R241). -/
  left : Nat := 0
  /-- limb-masked form (R241). -/
  exact : Bool := false
  /-- accepted, not a stray (R241). -/
  kept : Bool := false
  /-- bytes not yet decoded (R241). -/
  part : List Byte := []
deriving DecidableEq, Repr

/-- The combining queue of a tile (R235). -/
structure RickSt where
  /-- streams 0 to 3 (R235). -/
  streams : Sparse RickStream := []
  /-- VN-L input buffer (R242). -/
  input : List Flit := []
  /-- packets being taken in, at most one from each source (R241). -/
  pkts : List RickPkt := []
  /-- contributions taken and not yet added, oldest first (R453). -/
  adds : List Contrib := []
  /-- additions in progress (R453). -/
  works : List AddWork := []
  /-- contributions on their way into side tables, oldest first (R240). -/
  sides : List SideAdd := []
  /-- a hand-off FINISH waits for a credit; the next record (R260). -/
  waitCredit : Option Nat := none
  /-- records a hand-off FINISH has sent and no stoker has accepted (R260). -/
  unaccepted : Nat := 0
  /-- RICK_STRAY, holds at 0xFFFF_FFFF (R241). -/
  stray : Nat := 0
deriving DecidableEq, Repr

/-- A trace or latch record in a tile's trace buffer (R387). -/
structure TraceRec where
  /-- the record (R388). -/
  bytes : List Byte := []
deriving DecidableEq, Repr

/-- When a latch was taken, and for which engine (R380). -/
structure LatchBy where
  /-- cycle of the latch (R380). -/
  cycle : Nat := 0
  /-- engine that latched (R380). -/
  eng : Nat := 0
deriving DecidableEq, Repr

/-- One tile (R14, R34 to R65). -/
structure Tile where
  /-- register banks by resident-context slot (R35). -/
  banks : Sparse CoreBank := []
  /-- context map; a listed slot holds a context (R277). -/
  map : Sparse MapEntry := []
  /-- counter windows, base and size, of contexts that left the map with operations outstanding, by context (R153). -/
  gone : Sparse (Nat × Nat) := []
  /-- slot of the context that runs on the tile (R282). -/
  run : Option Nat := none
  /-- CORE_STATE.STATE (R65). -/
  coreSt : Nat := 0
  /-- CORE_STATE.SLOT (R65). -/
  coreSlot : Nat := 0
  /-- what the core is stalled on (R36). -/
  stall : Stall := .none
  /-- the instruction last fetched (R64). -/
  fetched : Word := 0
  /-- the running context has stopped on this tile (R413). -/
  stopped : Bool := false
  /-- Woodpile, Tinder, Ember and instruction memory, by store-window offset (R41,R44,R64). -/
  store : Memory := []
  /-- power state of near banks 0 to 63 and far banks 64 to 87 (R61). -/
  bankSt : Sparse BankSt := []
  /-- BANK_GATE_NEAR0, NEAR1, FAR under keys 0, 1, 2 (R65). -/
  gate : Sparse Word := []
  /-- BANK_STATUS.REFUSED (R60). -/
  gateRefused : Bool := false
  /-- requests that wait at banks, oldest first (R49). -/
  reqs : List BankReq := []
  /-- granted reads whose data is on its way, oldest first (R46). -/
  reads : List BankReq := []
  /-- requesters whose far accesses the bond field has carried in the cycle named (R48). -/
  bond : Nat × List Requester := (0, [])
  /-- the DMA/carousel engine has read, and has written, a billet in the cycle named (R174). -/
  dmaBus : Nat × Bool × Bool := (0, false, false)
  /-- billets that have reached an engine of the tile and wait to be used: feeders, vector sources, rick, channel unit (R81, R92). -/
  arrived : List (ReqDst × List Byte) := []
  /-- ranges of drains and spills not yet complete (R96). -/
  drains : List DrainHold := []
  /-- order number of the next request or sub-billet write (R58). -/
  nextReq : Nat := 0
  /-- identity of the next engine command (R36). -/
  nextCmd : Nat := 0
  /-- range tables (R54). -/
  ranges : List RangeEntry := []
  /-- merge buffers, with the writes that wait for an entry, in arrival order (R58). -/
  merges : List MergeEntry := []
  /-- matrix command queue (R37). -/
  matQ : List QEntry := []
  /-- vector command queue (R37). -/
  vecQ : List QEntry := []
  /-- DMA/carousel command queue: commands not yet started (R37). -/
  dmaQ : List QEntry := []
  /-- rick command queue (R37). -/
  rickQ : List QEntry := []
  /-- matrix engine (R66). -/
  matrix : MatrixSt := {}
  /-- VECTOR_FLAGS (R150). -/
  vflags : BitVec 32 := 0
  /-- physical sync counters (R151). -/
  ctr : Sparse (BitVec 48) := []
  /-- SATURATED1, SATURATED0 (R163). -/
  sat : BitVec 64 := 0
  /-- STRAY_ADDS, holds at 0xFFFF_FFFF (R154). -/
  strayAdds : Nat := 0
  /-- REBASE_STATUS.SLOT (R166). -/
  rebaseSlot : Nat := 0
  /-- REBASE_STATUS.DONE (R166). -/
  rebaseDone : Bool := false
  /-- REBASE_STATUS.DEFERRED (R166). -/
  rebaseDefer : Bool := false
  /-- carousels, key 16 slot + number; a listed carousel is defined (R178). -/
  cars : Sparse Carousel := []
  /-- started DMA commands, oldest first (R174). -/
  ops : List DmaOp := []
  /-- identity of the next descriptor or request (R174). -/
  nextOp : Nat := 0
  /-- kindling slots held (R191). -/
  ksl : List KSlot := []
  /-- CAROUSEL_SEL (R183). -/
  carSel : Word := 0
  /-- exchange unit (R207). -/
  exch : ExchSt := {}
  /-- router (R194). -/
  router : RouterSt := {}
  /-- channel endpoints (R224). -/
  eps : Sparse Endpoint := []
  /-- messages not yet fully injected (R230). -/
  msgs : List SendMsg := []
  /-- CH_BLOCKED: endpoint, SEND_SLOTS, NEEDED (R234). -/
  chBlocked : Option (Nat × Bool × Nat) := none
  /-- CH_STRAY, holds at 0xFFFF_FFFF (R233). -/
  chStray : Nat := 0
  /-- combining queue (R235). -/
  rick : RickSt := {}
  /-- cumulative counters (IDLE is kept as its complement, see nonIdle) (R379). -/
  cum : Sparse (BitVec 64) := []
  /-- per-context counters, key 64 slot + ID, 2^48 - 1 holds (R379). -/
  pctx : Sparse Nat := []
  /-- cycles of the region in which an output tile was open: IDLE is the region's cycles less these (R98). -/
  nonIdle : Nat := 0
  /-- LATCH_SEL1, LATCH_SEL0 (R380). -/
  latchSel : BitVec 64 := 0
  /-- LATCH_INFO (R380). -/
  latchInfo : Word := 0
  /-- START_HI, START_LO of each latch slot (R380). -/
  latchStart : Sparse (BitVec 64) := []
  /-- END_HI, END_LO (R380). -/
  latchEnd : Sparse (BitVec 64) := []
  /-- cycle and engine of the last START latch (R380). -/
  latchStartBy : Option LatchBy := none
  /-- cycle and engine of the last END latch (R380). -/
  latchEndBy : Option LatchBy := none
  /-- PCTX_SEL (R379). -/
  pctxSel : Nat := 0
  /-- HIST_SEL (R381). -/
  histSel : Word := 0
  /-- histogram bins 1 to 7, key 8 q + b; bin 0 is the region's cycles less the others (R381). -/
  hist : Sparse (BitVec 64) := []
  /-- trace buffer (R387). -/
  trace : List TraceRec := []
  /-- a trace record has been dropped since the last written (R387). -/
  traceGap : Bool := false
  /-- high words captured by reads of low words on page 0x12, by the offset of the high word (R167). -/
  ctrShadow : Sparse Word := []
  /-- the same on page 0x11 (R379). -/
  cumShadow : Sparse Word := []
  /-- cycle of the last arrival at the exchange barrier (R272). -/
  arrivedAt : Nat := 0
deriving DecidableEq, Repr

/-- One entry of a context image's channel table (R280). -/
structure ChanEnt where
  /-- endpoint (R280). -/
  ep : Nat := 0
  /-- its role (R280). -/
  recv : Bool := false
  /-- its tile, partition-relative (R280). -/
  tile : Nat := 0
  /-- peer context (R280). -/
  peerCtx : Nat := 0
  /-- the peer's partition-relative tile (R280). -/
  peerTile : Nat := 0
  /-- the peer's endpoint (R280). -/
  peerEp : Nat := 0
  /-- first Tinder billet of the ring (R226). -/
  ringBase : Nat := 0
  /-- billets of the ring (R226). -/
  ringBillets : Nat := 0
  /-- arrival ADD_ID (R231). -/
  addId : Nat := 0
  /-- arrival ADD_VALUE (R231). -/
  addVal : Nat := 0
deriving DecidableEq, Repr

/-- A DESTROY_CONTEXT that waits (R293). -/
structure Destroy where
  /-- ring of the command (R287). -/
  ring : Nat := 0
  /-- its TAG (R286). -/
  tag : Word := 0
  /-- step of R293 it waits at (R293). -/
  step : Nat := 0
deriving DecidableEq, Repr

/-- One live context (R274, R275). -/
structure Ctx where
  /-- CTX_STATE.STATE (R274). -/
  st : CtxState := .idle
  /-- SLOT (R275). -/
  slot : Nat := 0
  /-- PRIORITY (R275). -/
  prio : Nat := 0
  /-- MODEL (R275). -/
  model : Nat := 0
  /-- PART_X (R275). -/
  px : Nat := 0
  /-- PART_Y (R275). -/
  py : Nat := 0
  /-- PART_W (R275). -/
  pw : Nat := 1
  /-- PART_H (R275). -/
  ph : Nat := 1
  /-- context seed (R281). -/
  seed : BitVec 64 := 0
  /-- the map entry written on every tile of the partition (R277). -/
  entry : MapEntry := {}
  /-- base and size of the HBM apertures in use (R275). -/
  apertures : List (Nat × Nat) := []
  /-- CORD_PORTS (R275). -/
  cordPorts : Nat := 0
  /-- LATENCY_TABLE of the image (R278). -/
  table : Nat := 2
  /-- FEATURES of the image (R279). -/
  features : Nat := 0
  /-- BODY_DIGEST of the image (R278). -/
  digest : BitVec 512 := 0
  /-- CTX_STATE.SIGNED (R280). -/
  signed : Bool := false
  /-- entry table of each code section (R278). -/
  sections : List (List Nat) := []
  /-- code bytes of each code section (R278). -/
  codeLens : List Nat := []
  /-- section of each tile, in the order of R278 (R278). -/
  tileMap : List Nat := []
  /-- channel table (R280). -/
  chans : List ChanEnt := []
  /-- superstep number (R281). -/
  superstep : Nat := 0
  /-- CTX_STATE.TABLE_INTERLOCK (R223). -/
  interlock : Bool := false
  /-- a rebase waits, with its fill value (R166). -/
  rebase : Option Nat := none
  /-- CTX_STATE.HELD (R270). -/
  held : Bool := false
  /-- fault code met, until the dispatcher acts (R413). -/
  stop : Option Nat := none
  /-- a stopped context no longer holds its tiles (R413). -/
  removed : Bool := false
  /-- graph and index of the running task (R290). -/
  task : Option (Nat × Nat) := none
  /-- supersteps of the running task that have ended (R290). -/
  ran : Nat := 0
  /-- a superstep has ended since the last release (R281). -/
  ended : Bool := false
  /-- supersteps since the context was last switched in (R283). -/
  sinceIn : Nat := 0
  /-- the context is switched in on its partition (R282). -/
  onTiles : Bool := false
  /-- barrier in progress: 0 none, 1 exchange, 2 boundary (BARRIER_NODE.PHASE) (R204). -/
  barrier : Nat := 0
  /-- tiles that have arrived at it (BARRIER_NODE.ARRIVED) (R205). -/
  arrived : List Nat := []
  /-- PLAN_IDs carried by the arrivals (R205). -/
  planIds : List Nat := []
  /-- cycle of the last arrival, as all cycles here one of the step group (R204). -/
  lastArr : Nat := 0
  /-- cycle of the first arrival at the exchange barrier (R272). -/
  firstArr : Nat := 0
  /-- cycle of the last arrival at the exchange barrier (R272). -/
  lastExArr : Nat := 0
  /-- cycle of the exchange release (R272). -/
  exRel : Nat := 0
  /-- action of R30 at which the boundary stands (R30). -/
  bound : BoundStage := .none
  /-- links on which ARRIVE has come in (R341). -/
  arriveIn : List Nat := []
  /-- links on which ARRIVE has been sent (R341). -/
  arriveOut : List Nat := []
  /-- cadence ticks since the local last arrival of a system barrier (R341). -/
  sysTicks : Option Nat := none
  /-- T of that barrier (R341). -/
  sysT : Nat := 0
  /-- cadence ticks of the current superstep while RUNNING (R399). -/
  wdTicks : Nat := 0
  /-- stagger target T, in us, that waits for a boundary (R313). -/
  target : Option Nat := none
  /-- target the context is being held for at its boundary, in us (R314). -/
  heldFor : Option Nat := none
  /-- us count at which its step-change hold began (R22). -/
  stepSince : Option Nat := none
  /-- cycle at which the last ARRIVE of the system barrier came in (R341). -/
  sysMet : Nat := 0
  /-- cycles of each region of the partition at the boundary release that began the superstep (R272). -/
  rel0 : Sparse Nat := []
  /-- cycle at which the last phase-log entry was written (R272). -/
  loggedAt : Nat := 0
  /-- BOUNDARY_CYCLES of the current superstep (R272). -/
  boundCyc : Nat := 0
  /-- cycles of a step capture to be counted in BOUNDARY_CYCLES of the boundary in course (R394). -/
  extraCyc : Nat := 0
  /-- STEP_CHANGED of the current superstep (R272). -/
  stepChanged : Bool := false
  /-- SWITCHED_IN (R272). -/
  switchedIn : Bool := false
  /-- STAGGERED (R272). -/
  staggered : Bool := false
  /-- FROZEN counter of each tile at the start of the superstep (R272). -/
  frozen0 : Sparse Nat := []
  /-- LATE_ARRIVAL counter of each tile at the start of the superstep (R272). -/
  late0 : Sparse Nat := []
  /-- a DESTROY_CONTEXT that waits (R293). -/
  destroy : Option Destroy := none
  /-- CREATE_CONTEXT whose map load waits for posts to complete: ring, TAG and image address (R153). -/
  mapRetry : Option (Nat × Word × Nat) := none
  /-- SEQUENCE of the capture the context replays (R396). -/
  replay : Option Nat := none
  /-- its replay goes on at the recorded program counters (R396). -/
  keepPc : Bool := false
  /-- the power manager asks that it be switched out (R310). -/
  parkOut : Bool := false
deriving DecidableEq, Repr

/-- One task of a graph (R288). -/
structure Task where
  /-- CONTEXT (R288). -/
  ctx : Nat := 0
  /-- EVENT (R288). -/
  event : Bool := false
  /-- ENTRY (R288). -/
  entry : Nat := 0
  /-- SUPERSTEPS (R288). -/
  steps : Nat := 0
  /-- dependency count (R289). -/
  dep : BitVec 16 := 0
  /-- bits in which the complement held with the count does not match it (R411). -/
  depErr : BitVec 16 := 0
  /-- successors (R288). -/
  succ : List Nat := []
  /-- QUANTUM (R288). -/
  quantum : Nat := 0
  /-- waiting (ready when dep is 0), running or done (R290). -/
  st : TaskState := .waiting
deriving DecidableEq, Repr

/-- One task graph in flight (R289 to R292). -/
structure Graph where
  /-- GRAPH_STATE.STATE (R291). -/
  st : GraphState := .free
  /-- submission order (R290). -/
  order : Nat := 0
  /-- CANCEL_GRAPH has been accepted (R291). -/
  cancel : Bool := false
  /-- its tasks (R288). -/
  tasks : List Task := []
deriving DecidableEq, Repr

/-- One EVL ring pair (R328). -/
structure Ring where
  /-- SQ_BASE (R328). -/
  sqBase : Nat := 0
  /-- SQ_CTRL.ENABLE (R328). -/
  sqEn : Bool := false
  /-- SQ_CTRL.SIZE_LOG2 (R328). -/
  sqLog : Nat := 0
  /-- submission ring base in effect since ENABLE was set (R328). -/
  sqAt : Nat := 0
  /-- SQ_TAIL (R328). -/
  sqTail : Word := 0
  /-- SQ_HEAD (R328). -/
  sqHead : Word := 0
  /-- EQ_BASE (R328). -/
  eqBase : Nat := 0
  /-- EQ_CTRL.ENABLE (R328). -/
  eqEn : Bool := false
  /-- EQ_CTRL.SIZE_LOG2 (R328). -/
  eqLog : Nat := 0
  /-- event ring base in effect since ENABLE was set (R328). -/
  eqAt : Nat := 0
  /-- EQ_HEAD (R328). -/
  eqHead : Word := 0
  /-- EQ_TAIL (R328). -/
  eqTail : Word := 0
  /-- EQ_DROPPED, holds at 0xFFFF_FFFF (R328). -/
  eqDropped : Nat := 0
deriving DecidableEq, Repr

/-- What has come over the EVL and waits its turn (R326, R327). -/
inductive EvlWait where
  /-- a bulk request: its 16 bytes, the data of a write, and the check of a read of HBM -/
  | bulk (head : BitVec 128) (data : List Byte) (ecc : HbmEcc)
  /-- a write of SQ_TAIL of a ring -/
  | bell (ring : Nat) (tail : Word)
deriving DecidableEq, Repr

/-- The EVL port (R321 to R331). -/
structure Evl where
  /-- EVL_STATUS.UP (R321). -/
  up : Bool := false
  /-- EVL_STATUS.WIDTH (R321). -/
  width : Nat := 0
  /-- EVL_STATUS.GROUP (R321). -/
  group : Nat := 0
  /-- training has been tried since reset (R321). -/
  tried : Bool := false
  /-- EVL_RETRAINS, holds at 0xFFFF_FFFF (R322). -/
  retrains : Nat := 0
  /-- sequence number of the next frame expected (R322). -/
  rxNext : Word := 0
  /-- sequence number last acknowledged to the host (R322). -/
  rxAck : Word := 0
  /-- frame requested again (R322). -/
  rxWant : Option Word := none
  /-- times the expected frame has been replayed and has failed again (R322). -/
  rxTries : Nat := 0
  /-- sequence number of the next frame sent (R322). -/
  txNext : Word := 0
  /-- oldest frame held in the replay buffer (R322). -/
  txOldest : Word := 0
  /-- times each held frame has been replayed (R322). -/
  replays : Sparse Nat := []
  /-- units received and not yet credited, by channel (R324). -/
  credits : Sparse Nat := []
  /-- bulk requests and doorbells that wait, in arrival order (R56, R327). -/
  waiting : List EvlWait := []
  /-- EVL_WINDOW_BASE (R325). -/
  winBase : Nat := 0
  /-- EVL_WINDOW_SIZE, in 4 KiB units (R325). -/
  winSize : Nat := 0
  /-- window lines the cache of the control complex holds (write-through) (R325). -/
  cache : List Nat := []
  /-- EVT_ROUTE0 to 3 (R330). -/
  route : Sparse Word := []
  /-- ring pairs (R328). -/
  rings : Sparse Ring := []
  /-- ring whose command the dispatcher took last (R287). -/
  turn : Nat := 0
deriving DecidableEq, Repr

/-- A cord data frame received and not delivered, or sent and not acknowledged (R333). -/
structure CordFrame where
  /-- CLASS, or 3 for a control frame (R333, R334). -/
  cls : Nat := 0
  /-- SEQ (R333). -/
  seq : Nat := 0
  /-- CONTEXT (R333). -/
  ctx : Nat := 0
  /-- MATCH (R333). -/
  tag : Nat := 0
  /-- payload as plaintext, of a control frame its words with their complements (R333, R334). -/
  bytes : List Byte := []
  /-- times it has been replayed (R335). -/
  replays : Nat := 0
  /-- it was received before the last retraining, so that its credit is not owed any more (R334, R335). -/
  kept : Bool := false
deriving DecidableEq, Repr

/-- One cord link (R332 to R341). -/
structure Link where
  /-- CORD_STATE.STATE (R335). -/
  st : LinkState := .absent
  /-- HALF_WIDTH (R332). -/
  half : Bool := false
  /-- QUARANTINES, n (R340). -/
  quars : Nat := 0
  /-- REASON (R339). -/
  reason : Nat := 0
  /-- us count at which the back-off ends (BACKOFF_LEFT) (R340). -/
  backoffEnd : Nat := 0
  /-- CORD_CONFIG.ENABLE (R335). -/
  enable : Bool := true
  /-- signal is detected on its lanes (R335). -/
  signal : Bool := false
  /-- HELLO sent in this handshake (R336). -/
  helloSent : List Byte := []
  /-- HELLO received (R336). -/
  helloGot : List Byte := []
  /-- PROOF sent in this handshake or rekey (R336). -/
  proofSent : List Byte := []
  /-- the partner's PROOF has been verified (R336). -/
  proofOk : Bool := false
  /-- CONFIRM sent, with its word (R336). -/
  confSent : Option (BitVec 64) := none
  /-- a valid CONFIRM received (R336). -/
  confGot : Bool := false
  /-- number of HELLO messages sent, each with a fresh X25519 key (R336). -/
  keyGen : Nat := 0
  /-- frames sent under the key (R337). -/
  frames : Nat := 0
  /-- frames received under the key (R337). -/
  framesRx : Nat := 0
  /-- rekey: 0 none, 1 the exchange goes on, 2 the word of step 2 has been sent, 3 it has been received (R337). -/
  rekey : Nat := 0
  /-- PARTNER_ID_HI, PARTNER_ID_LO (R336). -/
  partnerId : BitVec 64 := 0
  /-- BARRIER_TIMEOUT (R341). -/
  timeout : Nat := 1000
  /-- TAG_FAILURES, holds at 0xFFFF_FFFF (R339). -/
  tagFail : Nat := 0
  /-- us counts of the last tag failures (R339). -/
  tagTimes : List Nat := []
  /-- DISCARDED, holds (R338). -/
  discarded : Nat := 0
  /-- DROPPED_SENDS, holds (R339). -/
  dropped : Nat := 0
  /-- SEQ of the next frame expected (R334). -/
  rxNext : Nat := 0
  /-- SEQ after the last frame for which an ACK has left (R334). -/
  ackLeft : Nat := 0
  /-- frames received before a retraining whose ACK had not left, and which the partner sends again (R335). -/
  again : Nat := 0
  /-- the last frame received in order was one of them (R335). -/
  twice : Bool := false
  /-- frames received and not yet delivered (R339). -/
  rxQ : List CordFrame := []
  /-- SEQ of the next frame sent (R334). -/
  txNext : Nat := 0
  /-- replay buffer, plaintext, oldest first (R334). -/
  txQ : List CordFrame := []
  /-- frames sent and not credited back, by CLASS (R334). -/
  credit : Sparse Nat := []
  /-- frames received and not yet credited to the partner, by CLASS (R334). -/
  granted : Sparse Nat := []
  /-- control words that wait to be sent, oldest first (R334). -/
  ctlOut : List (BitVec 64) := []
  /-- cadence count last received, with the own count at the mark it is compared with (R28, R342). -/
  lastCad : Option (Nat × Nat) := none
  /-- it takes part in the comparison of cadence counts: it was UP at the last mark and has stayed UP (R342). -/
  joins : Bool := false
  /-- us counts of the frames sent in the last 10 s (R335). -/
  sentTimes : List Nat := []
  /-- us counts of the frames replayed in the last 10 s (R335). -/
  retryTimes : List Nat := []
  /-- us count since which the link has been DEGRADED (R335). -/
  degSince : Option Nat := none
  /-- us count since which the link has been UP or DEGRADED (R340). -/
  upSince : Option Nat := none
  /-- FRAMES_SENT, FRAMES_RECEIVED, RETRIES, CREDIT_WAIT_NS, bytes sent per CLASS, keys 0 to 7 (R386). -/
  cnt : Sparse (BitVec 64) := []
deriving DecidableEq, Repr

/-- One cord port (R332). -/
structure CordPort where
  /-- mode in effect (R332). -/
  split : Bool := false
  /-- CORD_CONFIG.SPLIT as written (R332). -/
  splitWant : Bool := false
  /-- LATCH_SEL (R428). -/
  latchSel : BitVec 64 := 0
  /-- START (R428). -/
  latchStart : Sparse (BitVec 64) := []
  /-- END (R428). -/
  latchEnd : Sparse (BitVec 64) := []
deriving DecidableEq, Repr

/-- A gradient packet staged in a stoker (R259). -/
structure Packet where
  /-- bucket (R259). -/
  bucket : Nat := 0
  /-- record of the bucket (R259). -/
  recNo : Nat := 0
  /-- the 32 FP32 gradients (R259). -/
  vals : List Word := []
  /-- tile of the rick that sent it (R260). -/
  src : Nat := 0
deriving DecidableEq, Repr

/-- One HBM stack with its controller and its stoker (R25, R420, R430). -/
structure Stack where
  /-- HBM_STATUS.STATE (R430). -/
  st : StackState := .untrained
  /-- HBM_STATUS.TRAIN_FAILED (R364). -/
  trainFailed : Bool := false
  /-- HBM_CORRECTED (R409). -/
  corrected : BitVec 64 := 0
  /-- HBM_UNCORRECTED, holds (R409). -/
  uncorrected : Nat := 0
  /-- SCRUB_STATUS.PROGRESS (R409). -/
  progress : Nat := 0
  /-- SCRUB_STATUS.PASSES, holds (R409). -/
  passes : Nat := 0
  /-- HBM_TEMP.TEMP (R445). -/
  temp : Nat := 0
  /-- HBM_TEMP.PEAK (R445). -/
  peak : Nat := 0
  /-- the refresh rate is doubled (R445). -/
  refresh2 : Bool := false
  /-- LAST_UE (R430). -/
  lastUe : Word := 0
  /-- us counts of the uncorrectable lines counted against the stack (R177). -/
  ueTimes : List Nat := []
  /-- us count of the last request (R308). -/
  lastReq : Nat := 0
  /-- staged packets, oldest first (R260). -/
  staged : List Packet := []
  /-- BUCKET_SEL (R430). -/
  bucketSel : Nat := 0
  /-- SATURATED_RECORDS (R253). -/
  satRecords : BitVec 64 := 0
  /-- REMOTE_WORK_WRITES (R255). -/
  remoteW : BitVec 64 := 0
  /-- RECORDS_APPLIED (R386). -/
  applied : BitVec 64 := 0
  /-- staging histogram (R381). -/
  hist : Sparse (BitVec 64) := []
  /-- LATCH_SEL (R428). -/
  latchSel : BitVec 64 := 0
  /-- START (R428). -/
  latchStart : Sparse (BitVec 64) := []
  /-- END (R428). -/
  latchEnd : Sparse (BitVec 64) := []
deriving DecidableEq, Repr

/-- Fingerprint of a completed round (R267). -/
structure FpRound where
  /-- round count (R267). -/
  round : Nat := 0
  /-- F (R267). -/
  total : BitVec 64 := 0
  /-- P_0 to P_31 (R267). -/
  parts : Sparse (BitVec 64) := []
  /-- STEP of the round's descriptor (R269). -/
  step : Nat := 0
deriving DecidableEq, Repr

/-- One entry of the bucket table (R256). -/
structure Bucket where
  /-- owning context (R256). -/
  ctx : Nat := 0
  /-- RECORD_BASE (R256). -/
  base : Nat := 0
  /-- RECORDS (R256). -/
  records : Nat := 0
  /-- DESC_ADDR (R256). -/
  descAddr : Nat := 0
  /-- CHECK_EVERY (R268). -/
  checkEvery : Nat := 0
  /-- partner bucket (R268). -/
  partner : Nat := 0
  /-- partner context, 0xFF for a cord partner (R268). -/
  partnerCtx : Nat := 255
  /-- cord port of the partner (R268). -/
  partnerPort : Nat := 0
  /-- BUCKET_STATE.STATE (held is shown from the model's hold) (R264). -/
  st : BucketState := .ready
  /-- the descriptor last read (R257). -/
  desc : BitVec 512 := 0
  /-- completed rounds (R263). -/
  round : Nat := 0
  /-- cadence count at the start of the round (R263). -/
  startTick : Nat := 0
  /-- records applied or skipped in the current round (R263). -/
  doneRecs : List Nat := []
  /-- partials of the current round (R267). -/
  parts : Sparse (BitVec 64) := []
  /-- NONFINITE of the current round, by stack (R254). -/
  nonfinite : Sparse Nat := []
  /-- MALFORMED of the current round, by stack (R248). -/
  malformed : Sparse Nat := []
  /-- SATURATED of the current round, by stack (R253). -/
  saturated : Sparse Nat := []
  /-- BUCKET_SKIPS.NONFINITE of the last completed round (R430). -/
  lastNon : Sparse Nat := []
  /-- BUCKET_SKIPS.MALFORMED (R430). -/
  lastMal : Sparse Nat := []
  /-- fingerprints of the last 4 completed rounds, newest first (R267). -/
  fps : List FpRound := []
  /-- fingerprints received from a cord partner and not yet compared, newest first (R268, R342). -/
  partnerFps : List FpRound := []
  /-- last round compared (R268). -/
  compared : Nat := 0
  /-- last round whose fingerprint was sent to the cord partner (R342). -/
  fpSent : Nat := 0
deriving DecidableEq, Repr

/-- One region (R21, R23, R306 to R311). -/
structure Region where
  /-- REGION_STATE.STATE (R306). -/
  st : RegionState := .dark
  /-- state a transition leads to (R306). -/
  goal : RegionState := .dark
  /-- REGION_STATE.STEP (R21). -/
  step : Nat := 3
  /-- REGION_STATE.DUTY (R309). -/
  duty : Nat := 0
  /-- REGION_STATE.PARKED (R310). -/
  parked : Bool := false
  /-- HELD_HI, HELD_LO (R309). -/
  held : BitVec 64 := 0
  /-- it has reached 100 degrees and not fallen below 98 (R311). -/
  hot : Bool := false
  /-- REGION_TEMP.TEMP (R445). -/
  temp : Nat := 0
  /-- REGION_TEMP.PEAK (R445). -/
  peak : Nat := 0
  /-- REGION_REQUEST (R431). -/
  request : Nat := 0
  /-- requested frequency step (R310). -/
  wantStep : Option Nat := none
  /-- step of a request that was withdrawn, which is made again at the next boundary (R22). -/
  again : Option Nat := none
  /-- the voltage of the requested step has settled (R307). -/
  settled : Bool := true
  /-- the 2 us clock-switch hold runs (R307). -/
  changing : Bool := false
  /-- us count since which duty has been at 16/64 or above (R310). -/
  highSince : Option Nat := none
  /-- us count at which the region was fenced (R366). -/
  fencedAt : Option Nat := none
  /-- us count since which duty has been 0 with D1ms < 0.85 L (R310). -/
  zeroSince : Option Nat := none
  /-- cycles of the region's clock since reset (R11). -/
  cycles : Nat := 0
deriving DecidableEq, Repr

/-- One cluster (R20). -/
structure Cluster where
  /-- TAG_OWNED, TAG_OWNER (R390). -/
  owner : Option Nat := none
  /-- tag cache (R390). -/
  tags : Sparse Word := []
  /-- BARRIER_NODE.MASK_ERROR (R411). -/
  maskError : Bool := false
deriving DecidableEq, Repr

/-- One die (R24, R430). -/
structure Die where
  /-- DIE_STATUS.TRAINED (R430). -/
  trained : Bool := false
  /-- BASE_TEMP.TEMP (R445). -/
  temp : Nat := 0
  /-- BASE_TEMP.PEAK (R445). -/
  peak : Nat := 0
deriving DecidableEq, Repr

/-- The common head of a register page (R424). -/
structure Page where
  /-- FAULT (R424). -/
  fault : BitVec 8 := 0
  /-- FAULT_MASK (R424). -/
  mask : BitVec 8 := 2
  /-- FAULT_CODE.CODE (R425). -/
  code : Nat := 0
  /-- FAULT_CODE.COUNT, holds at 0xFFFF (R424). -/
  count : Nat := 0
  /-- MIRROR_STATE.MISMATCH (R427). -/
  mismatch : Bool := false
  /-- MIRROR_STATE.LAST_OFFSET (R427). -/
  lastOff : Nat := 0
  /-- pending value of the management channel: offset and value (R427). -/
  pendM : Option (Nat × Word) := none
  /-- of role commands (R427). -/
  pendR : Option (Nat × Word) := none
  /-- of the control processor (R427). -/
  pendC : Option (Nat × Word) := none
deriving DecidableEq, Repr

/-- The fault summary (R408). -/
structure Summary where
  /-- FIRST_CODE (R408). -/
  first : Nat := 0
  /-- LAST_CODE (R408). -/
  last : Nat := 0
  /-- COUNT_C to COUNT_E by CLASS 1 to 7, hold at 0xFFFF (R408). -/
  counts : Sparse Nat := []
  /-- FAILED_RECORD (R349). -/
  failedRec : Nat := 65535
  /-- shadow of the record (R434). -/
  shadow : Option (List Byte) := none
  /-- boot ROM or security block failed its stage 2 test (R368). -/
  dead : Bool := false
deriving DecidableEq, Repr

/-- One compare slot (R302, R303). -/
structure Slot where
  /-- ENABLE (R303). -/
  enable : Bool := false
  /-- LATE (R303). -/
  late : Bool := false
  /-- FIRED (R303). -/
  fired : Bool := false
  /-- PERIOD (R303). -/
  period : Word := 0
  /-- COMPARE (R303). -/
  compare : BitVec 48 := 0
  /-- it fires on the next tick whatever COMPARE says (R303). -/
  due : Bool := false
  /-- its tick has come and its action waits (R303). -/
  fire : Bool := false
deriving DecidableEq, Repr

/-- The cadence unit (R296 to R303). -/
structure Cadence where
  /-- CAD_STATUS.STATE (R297). -/
  st : CadState := .acquiring
  /-- CAD_COUNT (R297). -/
  count : BitVec 48 := 0
  /-- CAD_MINUTE (R297). -/
  minute : Nat := 0
  /-- a minute is open (R297). -/
  opened : Bool := false
  /-- cadence count at the mark that opened the minute (R318). -/
  openTick : Nat := 0
  /-- tick at which the next mark is expected (R298). -/
  expected : Option Nat := none
  /-- tick of the last stray mark (R298). -/
  stray : Option Nat := none
  /-- consecutive qualified edges (R297). -/
  qualRun : Nat := 0
  /-- consecutive malformed pulses (R299). -/
  badRun : Nat := 0
  /-- last 64 qualified periods, in reference periods of 10 ns, newest first (R299). -/
  periods : List Nat := []
  /-- last 64 periods of all edges, newest first (R299). -/
  allPeriods : List Nat := []
  /-- us count of the last qualified edge (R299). -/
  lastQual : Nat := 0
  /-- us count at which holdover began (R300). -/
  holdSince : Option Nat := none
  /-- CAD_STATUS.FALLBACK (R300). -/
  fallback : Bool := false
  /-- CAD_STATUS.OUT_OF_SYSTEM (R28). -/
  outSys : Bool := false
  /-- minute M and entry I of ENVELOPE_ALIGN (R304). -/
  align : Option (Nat × Nat) := none
  /-- the alignment in force before minute M, when one was (R304). -/
  alignOld : Option (Nat × Nat) := none
  /-- expected mark for which slot 2 has fired (R302, R305). -/
  ledFor : Option Nat := none
  /-- compare slots (R302). -/
  slots : Sparse Slot := []
deriving DecidableEq, Repr

/-- One entry of the envelope table (R304). -/
structure EnvEntry where
  /-- CEILING_W (R304). -/
  ceiling : Nat := 8000
  /-- RAMP (R304). -/
  ramp : Nat := 8000
  /-- STAGGER_OFFSET (R304). -/
  offset : Nat := 0
  /-- STAGGER_EN (R304). -/
  stagger : Bool := false
  /-- BANK_STACKS (R304). -/
  bank : Bool := false
  /-- PARK_EN (R304). -/
  park : Bool := false
deriving DecidableEq, Repr

/-- What the power manager gathers for the tally of a minute (R317, R318). -/
structure Minute where
  /-- energy not yet reported, in uJ (R317). -/
  energy : Nat := 0
  /-- highest D1ms, in thousandths of a W (R318). -/
  peak : Nat := 0
  /-- PEAK_END_US (R318). -/
  peakEnd : Nat := 0
  /-- us count at the opening mark (R318). -/
  openUs : Nat := 0
  /-- LOWEST_C_W (R318). -/
  lowest : Nat := 65535
  /-- EXCEED_EVALS (R312). -/
  exceed : Nat := 0
  /-- RAMP_EXCEED_EVALS (R312). -/
  ramp : Nat := 0
  /-- DUTY_EVALS (R318). -/
  dutyEv : Nat := 0
  /-- STEP_DOWNS (R318). -/
  downs : Nat := 0
  /-- STEP_UPS (R318). -/
  ups : Nat := 0
  /-- PARKS (R318). -/
  parks : Nat := 0
  /-- STACK_BANKS (R318). -/
  banks : Nat := 0
  /-- THERMAL_EVALS (R311). -/
  thermal : Nat := 0
  /-- STRAY_MARKS (R298). -/
  strays : Nat := 0
  /-- HOLDOVER_TICKS (R318). -/
  holdTicks : Nat := 0
  /-- FLAGS gathered so far (R318). -/
  flags : Nat := 0
  /-- cadence count at which the minute ended (R298). -/
  endTick : Option Nat := none
  /-- entry index, its ceiling and ramp, and the envelope version of the minute that ended, until its tally closes (R318). -/
  rolled : Option (Nat × Nat × Nat × Nat) := none
deriving DecidableEq, Repr

/-- The power manager (R304 to R320). -/
structure Power where
  /-- last 1,000 samples of the draw in W, newest first (R310). -/
  samples : List Nat := []
  /-- D10 after each of the last 1,000 samples, newest first (R310). -/
  d10s : List Nat := []
  /-- PWR_LIMIT L (R310). -/
  limit : Nat := 0
  /-- PWR_LIMIT C(t) at the last evaluation (R305). -/
  ceil : Nat := 0
  /-- PWR_STATUS.LEAD (R305). -/
  lead : Bool := false
  /-- PWR_STATUS.EXCEEDED (R312). -/
  exceeded : Bool := false
  /-- PWR_STATUS.UNREACHABLE (R312). -/
  unreach : Bool := false
  /-- us count since which D10 > 0.98 L (R310). -/
  over98 : Option Nat := none
  /-- us count since which D1ms < 0.7 L (R310). -/
  under7 : Option Nat := none
  /-- us count of the last parking or unparking (R310). -/
  lastPark : Nat := 0
  /-- regions of each parked group, last first (R310). -/
  parked : List (List Nat) := []
  /-- committed envelope table (R304). -/
  env : List EnvEntry := [{}]
  /-- committed table that takes effect at the next minute mark (R304). -/
  envNext : Option (List EnvEntry) := none
  /-- ENVELOPE_VERSION of the committed table (R304). -/
  version : Nat := 0
  /-- ENVELOPE_VERSION of the table in force (R304). -/
  versionIn : Nat := 0
  /-- index of the entry in force (R304). -/
  entry : Nat := 0
  /-- FALLBACK_W (R300). -/
  fallbackW : Nat := 8000
  /-- LEAD_TICKS (R305). -/
  leadTicks : Nat := 0
  /-- STAGGER_CFG (R314). -/
  stagCfg : Word := 0x00010032
  /-- STAGGER_EXCLUDE (R313). -/
  exclude : BitVec 64 := 0
  /-- stagger triggers ignored (R313). -/
  ignored : Nat := 0
  /-- the open minute (R317). -/
  cur : Minute := {}
  /-- a closed tally that waits to be signed (R317). -/
  closing : Option (List Byte) := none
  /-- power key pair that signs it (R355). -/
  closeGen : Nat := 0
  /-- tally ring, by SEQUENCE mod 1,440 (R319). -/
  tallies : Sparse (List Byte) := []
  /-- positions of the ring whose entry does not match its complement (R319, R411). -/
  tallyBad : List Nat := []
  /-- SEQUENCE of the newest tally (R318). -/
  seq : Nat := 0
  /-- power public key that signs tallies (R318). -/
  powerKey : Option (BitVec 256) := none
  /-- SHA-512 of the newest tally (R318). -/
  digest : BitVec 512 := 0
  /-- LOST (R319). -/
  lost : Nat := 0
  /-- TALLY_FETCHED (R319). -/
  fetched : Nat := 0
  /-- TALLY_SEL (R319). -/
  sel : Nat := 0
  /-- no tally has been closed since reset (R320). -/
  restart : Bool := true
  /-- no tally has been closed since lock (R317). -/
  partialStart : Bool := true
  /-- us count of the last evaluation (R310). -/
  evalUs : Nat := 0
deriving DecidableEq, Repr

/-- The changes one role has staged (R350). -/
structure Staged where
  /-- staged registers: page offset keyed by class x 4096 + offset, and value (R350). -/
  regs : List (Nat × Word) := []
  /-- staged envelope table (R348). -/
  env : Option (List EnvEntry) := none
  /-- staged key bindings: KIND and key, none to clear (R351). -/
  keys : List (Nat × Option (BitVec 256)) := []
  /-- a staged POWER_KEY_BIND (R355). -/
  power : Bool := false
  /-- staged partner identities (R348). -/
  partners : Option (List (BitVec 64)) := none
deriving DecidableEq, Repr

/-- A STORE or Owner release in progress (R350, R353). -/
structure StoreRun where
  /-- signing role (R350). -/
  role : Nat := 0
  /-- NONCE of the command (R357). -/
  nonce : BitVec 64 := 0
  /-- key ID of the signer (R357). -/
  signer : BitVec 64 := 0
  /-- changes being committed (R350). -/
  work : Staged := {}
  /-- an Owner release (R353). -/
  release : Bool := false
deriving DecidableEq, Repr

/-- An attestation report being built (R360). -/
structure AttBuild where
  /-- bytes 0 to 703, sampled when it was asked for (R360). -/
  body : List Byte := []
  /-- ATTEST_OWNER asked for it (R360). -/
  owner : Bool := false
  /-- the command came by the sideband (R433). -/
  sideband : Bool := false
  /-- the Owner section (R360). -/
  ownerPart : List Byte := []
deriving DecidableEq, Repr

/-- Identity certificate of an identity public key (R359); SERIAL, the root key's ID and its signature are the manufacturer's (log entry 2). -/
def certBytes (pub : BitVec 256) : List Byte :=
  let body : List Byte := [0x01, 0x00, 0xB0, 0x00] ++ (List.range 12).map (fun i => Config.serial.extractLsb' (8 * i) 8)
    ++ (List.range 32).map (fun i => pub.extractLsb' (8 * i) 8) ++ (List.range 8).map (fun i => Config.rootId.extractLsb' (8 * i) 8)
    ++ List.replicate 8 0
  body ++ (Config.rootSign body ++ List.replicate 64 0).take 64

/-- The security block and the Settings Store (R343 to R360). -/
structure Security where
  /-- Operator key binding (R352). -/
  opKey : Option (BitVec 256) := none
  /-- Owner key binding (R352). -/
  ownKey : Option (BitVec 256) := none
  /-- attestation key binding (R351). -/
  attKey : Option (BitVec 256) := none
  /-- NEXT_NONCE by ROLE 1 to 3 (R347). -/
  nonces : Sparse (BitVec 64) := []
  /-- notches left, Operator key (R352). -/
  nOp : Nat := 16
  /-- notches left, Owner key (R352). -/
  nOwn : Nat := 64
  /-- notches left, ENVELOPE_CEILING (R352). -/
  nCeil : Nat := 32
  /-- notches left, DEBUG_POLICY (R352). -/
  nDebug : Nat := 4
  /-- CAD_CONFIG.NOMINAL_HZ (R296). -/
  nominal : Nat := 10000
  /-- IMAGE_POLICY.REQUIRE_SIGNED (R280). -/
  imagePol : Bool := false
  /-- DEBUG_POLICY.VALUE (R352). -/
  debugPol : Nat := 1
  /-- debug policy in force: the committed one since the last Statues or reset (R350, R354). -/
  debugIn : Nat := 1
  /-- PARTNER_POLICY.ALLOW_LIST (R356). -/
  allowList : Bool := false
  /-- stored partner identities (R356). -/
  partners : List (BitVec 64) := []
  /-- ENVELOPE_CEILING (R352). -/
  ceiling : Nat := 8000
  /-- changes staged by the Operator (R350). -/
  stOp : Staged := {}
  /-- changes staged by the Owner (R350). -/
  stOwn : Staged := {}
  /-- STORE or Owner release in progress (STORE_BUSY) (R350). -/
  run : Option StoreRun := none
  /-- STOREs that wait for it (R350). -/
  waiting : List StoreRun := []
  /-- audit log, oldest first (R357). -/
  audit : List (List Byte) := []
  /-- SEQUENCE of the entries that have been found to differ from their complement (R357, R411). -/
  auditBad : List Nat := []
  /-- SEQUENCE of the next entry (R357). -/
  auditSeq : Nat := 0
  /-- SEC_STATUS.AUDIT_FULL (R358). -/
  auditFull : Bool := false
  /-- AUDIT_SEL (R358). -/
  auditSel : Nat := 0
  /-- RECORD_IDs that failed in both copies (R349). -/
  recFailed : List Nat := []
  /-- LAST_REFUSAL (R347). -/
  refusal : Word := 0
  /-- SCHEMA_A (R373). -/
  schemaA : Nat := 0
  /-- SCHEMA_B (R373). -/
  schemaB : Nat := 0
  /-- stored chain head SEQUENCE (R320). -/
  chainSeq : Nat := 0
  /-- stored chain head digest (R320). -/
  chainDig : BitVec 512 := 0
  /-- power key pairs generated so far (R355). -/
  powerGen : Nat := 0
  /-- POWER_CERT (R355). -/
  powerCert : List Byte := []
  /-- identity public key (R359). -/
  identPub : BitVec 256 := 0
  /-- IDENT_CERT (R359). -/
  identCert : List Byte := certBytes 0
  /-- ATTEST_NONCE words (R433). -/
  attNonce : Sparse Word := []
  /-- ATTEST_STATUS.STATE (R433). -/
  attSt : Nat := 0
  /-- reports being built, oldest first (R360). -/
  attBuild : List AttBuild := []
  /-- ATTEST_DATA (R433). -/
  attData : List Byte := []
  /-- data of the reply to the last complete role command from the sideband (R449). -/
  reply : List Byte := []
  /-- its fault code, 0 for success (R449). -/
  replyCode : Nat := 0
  /-- chunk of the reply that the next read of code 0x11 returns (R449). -/
  replyAt : Nat := 0
  /-- ash-pit header slot that holds the valid header (R374). -/
  pitSlot : Nat := 0
  /-- ash-pit header format last written (R374). -/
  pitFmt : Nat := 0
  /-- the other slot keeps an old header until the first STORE (R374). -/
  pitOld : Bool := false
  /-- a STORE has been made since the ash-pit format changed: the next enable clears the old header (R374). -/
  pitClear : Bool := false
  /-- SMBus chunks of a partial role command (R449). -/
  chunks : List (List Byte) := []
  /-- an Owner release refuses CREATE_CONTEXT (R353). -/
  erasing : Bool := false
  /-- FENCE_HISTORY counts, key 64 kind + index (R366). -/
  history : Sparse Nat := []
deriving DecidableEq, Repr

/-- One flash bank (R370, R376). -/
structure FwBank where
  /-- EMPTY, VALID, PENDING or INVALID (R370). -/
  st : FwState := .empty
  /-- VERSION by kind (R376). -/
  vers : Sparse Nat := []
  /-- FLOOR by kind (R376). -/
  floors : Sparse Nat := []
  /-- DIGEST by kind (R376). -/
  digests : Sparse (BitVec 512) := []
  /-- LENGTH by kind (R376). -/
  lengths : Sparse Nat := []
  /-- PEERS MIN and MAX, key 5 kind + peer (R376). -/
  peers : Sparse (Nat × Nat) := []
  /-- kinds PRESENT in the manifest (R376). -/
  present : List Nat := []
  /-- SETTINGS_SCHEMA (R376). -/
  schema : Nat := 0
  /-- ASHPIT_FORMAT (R376). -/
  ashFmt : Nat := 0
  /-- a manifest is written (R376). -/
  manifest : Bool := false
  /-- image bytes by kind (R375). -/
  images : Sparse Memory := []
deriving DecidableEq, Repr

/-- A firmware update session (R378). -/
structure Session where
  /-- UPDATE_STATUS.STATE (R378). -/
  st : Nat := 0
  /-- manifest received (R378). -/
  man : Option FwBank := none
  /-- kinds begun, last first (R378). -/
  begun : List Nat := []
  /-- PEER, DIGEST, ROLLBACK, ORDER_REFUSED (R378). -/
  flags : BitVec 4 := 0
deriving DecidableEq, Repr

/-- Start-up and firmware (R361 to R378). -/
structure Boot where
  /-- last stage of start-up whose work has ended; 1 after reset (R361). -/
  stage : Nat := 1
  /-- READY (R361). -/
  ready : Bool := false
  /-- RECOVERY (R371). -/
  recovery : Bool := false
  /-- BANK (R371). -/
  bank : Nat := 0
  /-- REVERTED (R372). -/
  reverted : Bool := false
  /-- MIGRATED (R373). -/
  migrated : Bool := false
  /-- CROSSING_FAILED (R365). -/
  crossFail : Bool := false
  /-- BOOT_FAULT (R361). -/
  fault : Nat := 0
  /-- BOOT_MS (R361). -/
  ms : Nat := 0
  /-- us count at which the stage in progress began (R361). -/
  since : Nat := 0
  /-- the stage in progress has exceeded its limit (R361). -/
  late : Bool := false
  /-- ACTIVE bank (R370). -/
  active : Nat := 0
  /-- flash bank A (R370). -/
  bankA : FwBank := { st := .valid, manifest := true }
  /-- flash bank B (R370). -/
  bankB : FwBank := {}
  /-- ROLLBACK_FLOOR by kind (R370). -/
  floor : Sparse Nat := []
  /-- FW_VERSION (R430). -/
  running : Sparse Nat := []
  /-- update session (R378). -/
  session : Session := {}
deriving DecidableEq, Repr

/-- The fence map (R364 to R366). -/
structure Fences where
  /-- FENCE_REGIONS (R366). -/
  regions : BitVec 24 := 0
  /-- FENCE_STACKS (R366). -/
  hbmStacks : BitVec 32 := 0
  /-- FENCE_PORTS[15:0] (R366). -/
  ports : BitVec 16 := 0
  /-- FENCE_PORTS[19:16] (R366). -/
  dies : BitVec 4 := 0
  /-- FENCE_LAST (R366). -/
  last : Word := 0
deriving DecidableEq, Repr

/-- One snapshot request (R391). -/
structure Snap where
  /-- SNAP_CTRL (R391). -/
  ctrl : Word := 0
  /-- SNAP_TRIGGER_LO (R391). -/
  trigLo : Word := 0
  /-- SNAP_TRIGGER_HI, with LABEL (R391). -/
  trigHi : Word := 0
  /-- SNAP_RANGE (R391). -/
  rng : Word := 0
  /-- SNAP_STATUS.STATE (R391). -/
  st : Nat := 0
  /-- SNAP_STATUS.SEQUENCE (R391). -/
  seq : Nat := 0
  /-- its tick trigger has fired (R392). -/
  fired : Bool := false
  /-- HBM address of its record while it is being written (R392). -/
  addr : Nat := 0
deriving DecidableEq, Repr

/-- One arrival that a step capture records (R395). -/
structure Arrival where
  /-- tile (R395). -/
  tile : Nat := 0
  /-- kind of the arrival (R395). -/
  kind : Nat := 0
  /-- data (R395). -/
  bytes : List Byte := []
deriving DecidableEq, Repr

/-- The step capture and what replays it (R394 to R397). -/
structure Capture where
  /-- CAP_CTRL (R394). -/
  ctrl : Word := 0
  /-- CAP_STEP_LO (R394). -/
  stepLo : Word := 0
  /-- CAP_STEP_HI (R394). -/
  stepHi : Word := 0
  /-- CAP_STATUS.STATE (R394). -/
  st : Nat := 0
  /-- CAP_STATUS.SEQUENCE (R394). -/
  seq : Nat := 0
  /-- context being captured (R394). -/
  active : Option Nat := none
  /-- tile state recorded at the start (R394). -/
  tiles : Sparse Tile := []
  /-- record of the captured context (R396). -/
  saved : Option Ctx := none
  /-- S of the capture (R394). -/
  superstep : Nat := 0
  /-- arrivals recorded, in order (R395). -/
  arrivals : List Arrival := []
  /-- HBM ranges that a stoker round has written into the context during the capture (R395). -/
  stoked : List (Nat × Nat) := []
  /-- REPLAY_CTRL (R396). -/
  replayCtrl : Word := 0
  /-- arrivals a running replay has not yet taken (R397). -/
  toTake : List Arrival := []
  /-- replay output gathered (R397). -/
  output : List Arrival := []
  /-- offset of its record in the record area (R385). -/
  off : Nat := 0
  /-- S was the first superstep of its task (R290). -/
  fresh : Bool := false
deriving DecidableEq, Repr

/-- The forensics block and the ash pit (R379 to R403). -/
structure Forensics where
  /-- ASHPIT_BASE (R382). -/
  base : Nat := 0
  /-- ASHPIT_CTRL (R382). -/
  ctrl : Word := 0x00010000
  /-- COUNTER_PERIOD (R386). -/
  counterPeriod : Nat := 0
  /-- TRACE_CTRL (R387). -/
  traceCtrl : Word := 0
  /-- TRACE_CTX (R387). -/
  traceCtx : BitVec 64 := 0
  /-- TAG_LOAD_KEY (R390). -/
  tagKey : Word := 0
  /-- TAG_LOAD_VALUE (R390). -/
  tagVal : Word := 0
  /-- WATCHDOG_TICKS (R399). -/
  watchdog : Nat := 10000
  /-- STATUES_STATUS.STATE (R399). -/
  stSt : Nat := 0
  /-- STATUES_STATUS.CAUSE (R399). -/
  cause : Nat := 0
  /-- TRUNCATED (R401). -/
  truncated : Bool := false
  /-- LIMITED (R401). -/
  limited : Bool := false
  /-- CONTEXT (R399). -/
  stCtx : Nat := 0
  /-- contexts whose watchdog has been among the causes (R403). -/
  stCtxs : List Nat := []
  /-- debug policy in force when Statues was raised (R401). -/
  stPolicy : Nat := 1
  /-- snapshot requests (R391). -/
  snaps : Sparse Snap := []
  /-- step capture and replay (R394). -/
  cap : Capture := {}
  /-- closed captures whose record is intact (R396). -/
  caps : List Capture := []
  /-- PHASE_NEXT, from the start of the phase log (R384). -/
  phaseNext : Nat := 0
  /-- PHASE_WRAPS (R384). -/
  phaseWraps : Nat := 0
  /-- RECORD_NEXT, from the start of the record area (R384). -/
  recNext : Nat := 0
  /-- RECORD_OLDEST (R384). -/
  recOldest : Nat := 0
  /-- intact records, offset and length, oldest first (R385). -/
  recs : List (Nat × Nat) := []
  /-- RECORD_SEQUENCE (R384). -/
  recSeq : Nat := 0
  /-- RECORDS_DROPPED (R384). -/
  recDropped : Nat := 0
  /-- header flag SCAN_VALID (R384). -/
  scanValid : Bool := false
  /-- header flag SCAN_TRUNCATED (R384). -/
  scanTrunc : Bool := false
  /-- header flag SCAN_INCOMPLETE (R384). -/
  scanInc : Bool := false
  /-- STATUES_CAUSE of the header (R384). -/
  hdrCause : Nat := 0
  /-- SCAN_WRITTEN (R384). -/
  scanWritten : Nat := 0
  /-- STATUES_TICK (R384). -/
  stTick : Nat := 0
deriving DecidableEq, Repr

/-- The pins a signal of which is state (R447). -/
structure Pins where
  /-- PWR_OK (R442). -/
  pwrOk : Bool := true
  /-- RESET_N (R442). -/
  resetN : Bool := true
  /-- SYNC_OUT (R316). -/
  syncOut : Bool := false
  /-- STOP_OUT (R400). -/
  stopOut : Bool := false
  /-- THERM_ALERT_N is asserted (R445). -/
  thermAlert : Bool := false
  /-- a thermal trip has latched it (R446). -/
  thermLatch : Bool := false
  /-- a fault of class U, I or T asserts SMB_ALERT_N (R449). -/
  smbAlert : Bool := false
deriving DecidableEq, Repr

/-- What the last access returned on its channel (R7, R326, R449). -/
structure Reply where
  /-- fault code, 0 for success (R404). -/
  code : Nat := 0
  /-- TAG of the bulk request (R326). -/
  tag : Nat := 0
  /-- data returned (R7). -/
  bytes : List Byte := []
deriving DecidableEq, Repr

/-- One replica-mismatch record (R269). -/
structure Mismatch where
  /-- the record (R269). -/
  bytes : List Byte := []
deriving DecidableEq, Repr

/-- The package. -/
structure State where
  /-- commands that wait, first in first out (model's own). -/
  pending : List Instr := []
  /-- number of free values drawn so far (model's own). -/
  freeCtr : Nat := 0
  /-- start-up and firmware (R361). -/
  boot : Boot := {}
  /-- pins (R447). -/
  pins : Pins := {}
  /-- fence map (R366). -/
  fences : Fences := {}
  /-- tiles by tile ID (R14). -/
  tiles : Sparse Tile := []
  /-- clusters (R20). -/
  clusters : Sparse Cluster := []
  /-- regions (R23). -/
  regions : Sparse Region := []
  /-- dies (R24). -/
  dies : Sparse Die := []
  /-- MEM_MAP.GRANULE_LOG2 (R432). -/
  granule : Nat := 12
  /-- HBM stacks with their stokers (R25). -/
  hbmStacks : Sparse Stack := []
  /-- HBM, by package address (R419). -/
  hbm : Memory := []
  /-- writes on their way to HBM controllers, oldest first (R175). -/
  hbmQ : List HbmWrite := []
  /-- host memory that the EVL window shows (R325). -/
  hostMem : Memory := []
  /-- live contexts (R274). -/
  ctxs : Sparse Ctx := []
  /-- task graphs (R289). -/
  graphs : Sparse Graph := []
  /-- submissions so far (R290). -/
  graphOrder : Nat := 0
  /-- bucket table (R256). -/
  buckets : Sparse Bucket := []
  /-- hand-off packets on VN-Q (R259). -/
  handoffs : List Packet := []
  /-- models under a replica-mismatch hold (R270). -/
  holds : List Nat := []
  /-- models whose hold waits for the next boundaries (R270). -/
  holdsDue : List Nat := []
  /-- mismatch log, newest first (R269). -/
  mismatches : List Mismatch := []
  /-- mismatch records overwritten (R269). -/
  mismLost : Nat := 0
  /-- a table of the control complex met an uncorrectable word (R409). -/
  ctlFail : Bool := false
  /-- CTX_SEL (R430). -/
  ctxSel : Nat := 0
  /-- GRAPH_SEL (R430). -/
  graphSel : Nat := 0
  /-- SWITCH_LAST (R284). -/
  switchLast : Word := 0
  /-- EVL port (R321). -/
  evl : Evl := {}
  /-- cord links (R332). -/
  links : Sparse Link := []
  /-- cord ports (R332). -/
  ports : Sparse CordPort := []
  /-- cadence unit (R296). -/
  cad : Cadence := {}
  /-- power manager (R304). -/
  pwr : Power := {}
  /-- security block and Settings Store (R343). -/
  sec : Security := {}
  /-- forensics and ash pit (R379). -/
  forn : Forensics := {}
  /-- page heads, key 4096 class + instance (R424). -/
  pages : Sparse Page := []
  /-- fault summary (R408). -/
  summary : Summary := {}
  /-- package cycle count (R417). -/
  cycle : Nat := 0
  /-- us of the reference clock since reset (R12). -/
  us : Nat := 0
  /-- last answer on the management channel (R7). -/
  mgmt : Reply := {}
  /-- last completion on the bulk channel (R326). -/
  bulk : Reply := {}
  /-- last SMBus answer (R449). -/
  smb : Reply := {}
  /-- last snoop answer (R325). -/
  snoop : Reply := {}
  /-- last JTAG answer (R450). -/
  jtag : Reply := {}
deriving DecidableEq, Repr


/-- The package right after RESET_N is released (stage 1 of R361): every field at its default, which is the value the manual states or the one a log entry names. -/
def State.reset : State := {}

end Sys2Proof.Machine
end

