-- ==== Sys2Proof/Machine/Ops.lean ====
section
/-! DEFINITION. The named operations over the state that the commands share: sparse units, byte memories, bit fields, places, fault records, events, counters, and what a context's stop does at once. -/

namespace Sys2Proof.Machine

/-! ### Units held by number -/

/-- The copy listed under `k`. -/
def sget {α : Type} : Sparse α → Nat → Option α
  | [], _ => none
  | (j, v) :: r, k => if j = k then some v else sget r k

/-- The copy `k`, at its default when it is not listed. -/
def sgetD {α : Type} (m : Sparse α) (k : Nat) (d : α) : α := (sget m k).getD d

/-- Lists `v` under `k`, keeping rising order. -/
def sset {α : Type} : Sparse α → Nat → α → Sparse α
  | [], k, v => [(k, v)]
  | (j, w) :: r, k, v =>
    if k < j then (k, v) :: (j, w) :: r
    else if j = k then (k, v) :: r
    else (j, w) :: sset r k v

/-- Takes `k` off the list. -/
def sdel {α : Type} (m : Sparse α) (k : Nat) : Sparse α := m.filter (fun e => e.1 ≠ k)

/-- Changes the copy `k`. -/
def smod {α : Type} (m : Sparse α) (k : Nat) (d : α) (f : α → α) : Sparse α :=
  sset m k (f (sgetD m k d))

/-- Whether `k` is listed. -/
def shas {α : Type} (m : Sparse α) (k : Nat) : Bool := (sget m k).isSome

/-! ### Byte memories -/

/-- The canonical form: addresses strictly rising, no byte equal to what an unlisted address reads as. -/
def Memory.wf (m : Memory) : Bool :=
  match m with
  | [] => true
  | [(_, b)] => b ≠ 0
  | (a, b) :: (a', b') :: r => b ≠ 0 && decide (a < a') && Memory.wf ((a', b') :: r)

/-- The byte at an address; one that is not listed reads 0 (R363; log entry 3). -/
def memByte (m : Memory) (a : Nat) : Byte := sgetD m a 0

/-- Writes one byte. -/
def memPut (m : Memory) (a : Nat) (b : Byte) : Memory := if b = 0 then sdel m a else sset m a b

/-- The `n` bytes from `a`. -/
def memRead (m : Memory) (a n : Nat) : List Byte := (List.range n).map (fun i => memByte m (a + i))

/-- Writes bytes from `a` on. -/
def memWrite : Memory → Nat → List Byte → Memory
  | m, _, [] => m
  | m, a, b :: bs => memWrite (memPut m a b) (a + 1) bs

/-! ### Little-endian values and fields (R4, R5) -/

/-- The unsigned value of bytes, the first the least significant. -/
def leNat : List Byte → Nat
  | [] => 0
  | b :: bs => b.toNat + 256 * leNat bs

/-- The `n` bytes of a value, least significant first. -/
def natLe : Nat → Nat → List Byte
  | 0, _ => []
  | n + 1, v => BitVec.ofNat 8 v :: natLe n (v / 256)

/-- Field of `len` bits from bit `lo`. -/
def bf (v lo len : Nat) : Nat := (v >>> lo) % 2 ^ len

/-- One bit. -/
def bit (v i : Nat) : Bool := v.testBit i

/-- A bit's value. -/
def b2n (b : Bool) : Nat := if b then 1 else 0

/-- Replaces `len` bits from bit `lo`. -/
def setBf (v lo len x : Nat) : Nat :=
  v - (bf v lo len <<< lo) + ((x % 2 ^ len) <<< lo)

/-- Field of an engine command: `len` bits from bit `lo` of byte `byte` on (R36). -/
def cf (c : BitVec 256) (byte lo len : Nat) : Nat := bf c.toNat (8 * byte + lo) len

/-- Field of a byte string: `n` bytes from byte `a` on. -/
def bytesAt (bs : List Byte) (a n : Nat) : Nat := leNat ((bs.drop a).take n)

/-- Adds and holds at the all-ones value of `w` bits. -/
def satAdd (w x y : Nat) : Nat := min (x + y) (2 ^ w - 1)

/-- ⌈a / b⌉. -/
def ceilDiv (a b : Nat) : Nat := (a + b - 1) / b

/-- A list without its repeats. -/
def nub : List Nat → List Nat
  | [] => []
  | x :: xs => x :: (nub xs).filter (· ≠ x)

/-- The `n` lowest values from `a` on. -/
def rangeFrom (a n : Nat) : List Nat := (List.range n).map (a + ·)

/-! ### Places (R14, R15) -/

def tileX (t : Nat) : Nat := t % 48
def tileY (t : Nat) : Nat := t / 48
def tileAt (x y : Nat) : Nat := 48 * y + x
def clusterOf (t : Nat) : Nat := 12 * (tileY t / 4) + tileX t / 4
def regionOf (t : Nat) : Nat := 6 * (tileY t / 8) + tileX t / 8
def dieOfXY (x y : Nat) : Nat := (if 24 ≤ x then 1 else 0) + (if 16 ≤ y then 2 else 0)
def dieOf (t : Nat) : Nat := dieOfXY (tileX t) (tileY t)
def dieOfRegion (r : Nat) : Nat := dieOfXY (8 * (r % 6)) (8 * (r / 6))
def dieOfStack (k : Nat) : Nat := k / 8
/-- The tiles of a rectangle given by its south-west corner, in tile-ID order. -/
def rectTiles (x y w h : Nat) : List Nat :=
  (List.range h).flatMap (fun j => (List.range w).map (fun i => tileAt (x + i) (y + j)))
/-- The tiles of a region. -/
def regionTiles (r : Nat) : List Nat := rectTiles (8 * (r % 6)) (8 * (r / 6)) 8 8
/-- The regions of a die. -/
def dieRegions (d : Nat) : List Nat := (List.range 24).filter (fun r => dieOfRegion r = d)

/-! ### Units of the package -/

def State.tile (s : State) (t : Nat) : Tile := sgetD s.tiles t {}
def State.setTile (s : State) (t : Nat) (x : Tile) : State := { s with tiles := sset s.tiles t x }
def State.modTile (s : State) (t : Nat) (f : Tile → Tile) : State := s.setTile t (f (s.tile t))
def State.ctx (s : State) (c : Nat) : Option Ctx := sget s.ctxs c
def State.setCtx (s : State) (c : Nat) (x : Ctx) : State := { s with ctxs := sset s.ctxs c x }
def State.modCtx (s : State) (c : Nat) (f : Ctx → Ctx) : State :=
  match s.ctx c with
  | some x => s.setCtx c (f x)
  | none => s
def State.region (s : State) (r : Nat) : Region := sgetD s.regions r {}
def State.setRegion (s : State) (r : Nat) (x : Region) : State := { s with regions := sset s.regions r x }
def State.modRegion (s : State) (r : Nat) (f : Region → Region) : State := s.setRegion r (f (s.region r))
def State.stack (s : State) (k : Nat) : Stack := sgetD s.hbmStacks k {}
def State.setStack (s : State) (k : Nat) (x : Stack) : State := { s with hbmStacks := sset s.hbmStacks k x }
def State.modStack (s : State) (k : Nat) (f : Stack → Stack) : State := s.setStack k (f (s.stack k))
def State.link (s : State) (l : Nat) : Link := sgetD s.links l {}
def State.setLink (s : State) (l : Nat) (x : Link) : State := { s with links := sset s.links l x }
def State.modLink (s : State) (l : Nat) (f : Link → Link) : State := s.setLink l (f (s.link l))
def State.cluster (s : State) (k : Nat) : Cluster := sgetD s.clusters k {}
def State.modCluster (s : State) (k : Nat) (f : Cluster → Cluster) : State :=
  { s with clusters := sset s.clusters k (f (s.cluster k)) }
def State.die (s : State) (d : Nat) : Die := sgetD s.dies d {}
def State.modDie (s : State) (d : Nat) (f : Die → Die) : State := { s with dies := sset s.dies d (f (s.die d)) }
def State.page (s : State) (k : Nat) : Page := sgetD s.pages k {}
def State.modPage (s : State) (k : Nat) (f : Page → Page) : State := { s with pages := sset s.pages k (f (s.page k)) }
def State.bucket (s : State) (b : Nat) : Option Bucket := sget s.buckets b
def State.setBucket (s : State) (b : Nat) (x : Bucket) : State := { s with buckets := sset s.buckets b x }
def State.modBucket (s : State) (b : Nat) (f : Bucket → Bucket) : State :=
  match s.bucket b with
  | some x => s.setBucket b (f x)
  | none => s
def State.graph (s : State) (g : Nat) : Graph := sgetD s.graphs g {}
def State.modGraph (s : State) (g : Nat) (f : Graph → Graph) : State := { s with graphs := sset s.graphs g (f (s.graph g)) }
def State.ring (s : State) (r : Nat) : Ring := sgetD s.evl.rings r {}
def State.modRing (s : State) (r : Nat) (f : Ring → Ring) : State :=
  { s with evl := { s.evl with rings := sset s.evl.rings r (f (s.ring r)) } }
def State.port (s : State) (p : Nat) : CordPort := sgetD s.ports p {}
def State.modPort (s : State) (p : Nat) (f : CordPort → CordPort) : State := { s with ports := sset s.ports p (f (s.port p)) }

/-- Does something for each element of a list, in order. -/
def forAll {α : Type} (xs : List α) (f : α → State → State) (s : State) : State :=
  xs.foldl (fun s x => f x s) s

/-- The next free value (log entry 4). -/
def State.draw (s : State) : BitVec 64 × State := (Config.freeValue s.freeCtr, { s with freeCtr := s.freeCtr + 1 })

/-! ### Memory of the package -/

def State.hbmRead (s : State) (a n : Nat) : List Byte := memRead s.hbm a n
def State.hbmWrite (s : State) (a : Nat) (bs : List Byte) : State := { s with hbm := memWrite s.hbm a bs }
def State.hostRead (s : State) (a n : Nat) : List Byte := memRead s.hostMem a n
def State.hostWrite (s : State) (a : Nat) (bs : List Byte) : State := { s with hostMem := memWrite s.hostMem a bs }

/-- Stack of an HBM address (R420). -/
def State.stackOf (s : State) (a : Nat) : Nat := (a >>> s.granule) % 32
/-- Local address of an HBM address in its stack (R420). -/
def State.localAddr (s : State) (a : Nat) : Nat := ((a >>> s.granule) / 32) <<< s.granule + a % 2 ^ s.granule

/-- Lines of the host-memory window that the control complex holds after it has used one: at most 32,768, the oldest given up (R325). -/
def State.cacheLine (s : State) (a : Nat) : State :=
  let l := a / 64
  { s with evl := { s.evl with cache := (l :: s.evl.cache.filter (· ≠ l)).take 32768 } }

/-! ### Events (R329, R330) -/

/-- Writes a record into an event ring, or drops it when the ring is full or disabled (R328). -/
def postTo (r ty source fault tag : Nat) (payload : List Byte) (s : State) : State :=
  let g := s.ring r
  if !g.eqEn || 2 ^ g.eqLog ≤ (g.eqTail - g.eqHead).toNat then
    s.modRing r (fun g => { g with eqDropped := satAdd 32 g.eqDropped 1 })
  else
    let rec_ := natLe 1 ty ++ natLe 1 source ++ natLe 2 fault ++ natLe 4 tag ++ natLe 4 (g.eqTail.toNat + 1)
      ++ natLe 4 g.eqDropped ++ natLe 6 s.cad.count.toNat ++ natLe 2 0
      ++ (payload ++ List.replicate 40 0).take 40
    let a := g.eqAt + (g.eqTail.toNat % 2 ^ g.eqLog) * 64
    ((s.hostWrite a rec_).cacheLine a).modRing r
      (fun g => { g with eqTail := g.eqTail + 1 })

/-- Ring that EVT_ROUTE names for an event type (R330). -/
def State.route (s : State) (ty : Nat) : Nat := bf (sgetD s.evl.route (ty / 8) 0).toNat (4 * (ty % 8)) 4

/-- Posts an event of a type that EVT_ROUTE routes. -/
def postEvent (ty source fault : Nat) (payload : List Byte) (s : State) : State :=
  postTo (s.route ty) ty source fault 0 payload s

/-! ### Faults (R404 to R408, R425) -/

/-- Class of a fault condition (R406). -/
def classOf (code : Nat) : Nat :=
  if code ≤ 0x0F then 5
  else if code ≤ 0x13 then 2
  else if code ≤ 0x17 then 1
  else if code ≤ 0x1F then 3
  else if code ≤ 0x27 then 4
  else if code ≤ 0x2F then 6
  else 7

/-- The conditions that have a CODE (R406). -/
def faultCodes : List Nat :=
  [0x01, 0x02, 0x03, 0x04, 0x05, 0x06, 0x07, 0x08, 0x09, 0x0A, 0x0B, 0x0C, 0x0D, 0x0E, 0x0F, 0x10, 0x11, 0x12, 0x13, 0x14, 0x15, 0x16,
   0x18, 0x19, 0x20, 0x21, 0x22, 0x23, 0x24, 0x25, 0x26, 0x28, 0x29, 0x2A, 0x2B, 0x2C, 0x30, 0x31, 0x32, 0x33, 0x34]

/-- A fault code from its block and condition (R404). -/
def faultCode (blk code : Nat) : Nat := classOf code * 4096 + blk * 64 + code

/-- Place of a class in the order U, I, E, T, P, S, C (R407). -/
def classRank (cls : Nat) : Nat :=
  if cls = 2 then 0 else if cls = 3 then 1 else if cls = 7 then 2 else if cls = 6 then 3
  else if cls = 4 then 4 else if cls = 5 then 5 else 6

/-- Number of a register page: class and number of its copy (R421). -/
def pageKey (cls inst : Nat) : Nat := 4096 * cls + inst
/-- Base address of a register page (R421). -/
def pageAddr (key : Nat) : Nat := 0x0F0000000000 + ((key / 4096) <<< 24) + ((key % 4096) <<< 12)

/-- What recording a fault does to a page head (R407 steps 1 and 2, R425). -/
def Page.record (p : Page) (fc : Nat) : Page :=
  let cls := fc / 4096
  let hidden := (List.range 8).any (fun k => k ≠ 0 && classRank k < classRank cls && p.fault.getLsbD k)
  { p with
    code := if hidden then p.code else fc
    fault := p.fault ||| BitVec.ofNat 8 (2 ^ cls)
    count := satAdd 16 p.count 1 }

/-- What recording a fault does to the fault summary (R408). -/
def Summary.record (u : Summary) (fc : Nat) : Summary :=
  let cls := fc / 4096
  { u with
    first := if u.first = 0 && (cls = 2 || cls = 3 || cls = 6) then fc else u.first
    last := fc
    counts := smod u.counts cls 0 (satAdd 16 · 1) }

/-- The type 0x09 event of a fault; `fence` is FENCE_LAST when it reports a fence (R329). -/
def faultPayload (key cls fence : Nat) : List Byte :=
  natLe 8 (pageAddr key) ++ natLe 1 cls ++ natLe 3 0 ++ natLe 4 fence

/-- Records a fault on a page (R407). SMB_ALERT_N follows classes U, I and T (R449). -/
def recordFaultF (fence : Nat) (key blk code : Nat) (s : State) : State :=
  let fc := faultCode blk code
  let cls := classOf code
  let masked := (s.page key).mask.getLsbD cls || cls = 1
  let s1 := { s.modPage key (·.record fc) with
    summary := s.summary.record fc
    pins := if cls = 2 || cls = 3 || cls = 6 then { s.pins with smbAlert := true } else s.pins }
  if masked then s1 else postEvent 0x09 0xFF fc (faultPayload key cls fence) s1

/-- Records a fault that reports no fence. -/
def recordFault (key blk code : Nat) (s : State) : State := recordFaultF 0 key blk code s

/-- Tile page that holds a block (R407, R430). -/
def tilePageClass (blk : Nat) : Nat :=
  if blk = 0x07 then 0x12 else if blk = 0x05 || blk = 0x08 || blk = 0x09 || blk = 0x0A then 0x13 else 0x10

/-- Records a fault of a block of a tile. -/
def tileFault (t blk code : Nat) (s : State) : State := recordFault (pageKey (tilePageClass blk) t) blk code s

/-! ### Contexts on their tiles -/

/-- The tiles of a context's partition (R275), in tile-ID order. -/
def Ctx.tiles (c : Ctx) : List Nat := rectTiles (4 * c.px) (4 * c.py) (4 * c.pw) (4 * c.ph)
/-- The clusters of a partition. -/
def Ctx.clusters (c : Ctx) : List Nat :=
  (List.range c.ph).flatMap (fun j => (List.range c.pw).map (fun i => 12 * (c.py + j) + c.px + i))
/-- The regions a partition touches. -/
def Ctx.regions (c : Ctx) : List Nat := nub (c.tiles.map regionOf)
/-- Cycles of a context's step group (R272, R309). -/
def State.ctxCycles (s : State) (c : Ctx) : Nat := (s.region (c.regions.headD 0)).cycles
/-- Cycles of a tile's clock: the periods in which duty holds it are none (R309). -/
def State.tileCycle (s : State) (t : Nat) : Nat := (s.region (regionOf t)).cycles
/-- Whether a tile lies in the partition. -/
def Ctx.hasTile (c : Ctx) (t : Nat) : Bool :=
  4 * c.px ≤ tileX t && tileX t < 4 * (c.px + c.pw) && 4 * c.py ≤ tileY t && tileY t < 4 * (c.py + c.ph)

/-- Slot in which a tile holds a context. -/
def Tile.slotOf (x : Tile) (c : Nat) : Option Nat := (x.map.find? (fun e => e.2.ctx = c)).map (·.1)
/-- Map entry of a slot. -/
def Tile.entry (x : Tile) (slot : Nat) : Option MapEntry := sget x.map slot
/-- Context that runs on the tile. -/
def Tile.runCtx (x : Tile) : Option Nat := x.run.bind (fun sl => (x.entry sl).map (·.ctx))

/-- A tile stops a context: it starts nothing further of it, and commands not yet started are discarded (R413 step 1). -/
def Tile.stopCtx (x : Tile) (c : Nat) : Tile :=
  let keep := fun (q : List QEntry) => q.filter (fun e => e.started || e.ctx ≠ c)
  { x with
    stopped := x.stopped || x.runCtx = some c
    matQ := keep x.matQ, vecQ := keep x.vecQ, dmaQ := keep x.dmaQ, rickQ := keep x.rickQ }

/-- A context meets a fault on a tile: it stops there at once, and the code waits for the dispatcher (R413). -/
def stopOnTile (t c fc : Nat) (s : State) : State :=
  (s.modTile t (·.stopCtx c)).modCtx c (fun x => { x with stop := if x.stop.isSome then x.stop else some fc })

/-- A fault of a block of a tile that stops a context on the tile (R412). -/
def ctxFault (t c blk code : Nat) (s : State) : State :=
  stopOnTile t c (faultCode blk code) (tileFault t blk code s)

/-- A context stops without a fault of its own tile: a fence, Statues, a failed table. -/
def markStop (c fc : Nat) (s : State) : State :=
  s.modCtx c (fun x => { x with stop := if x.stop.isSome then x.stop else some fc })

/-! ### Power and fences -/

def State.regionFenced (s : State) (r : Nat) : Bool := s.fences.regions.getLsbD r || s.fences.dies.getLsbD (dieOfRegion r)
def State.stackFenced (s : State) (k : Nat) : Bool := s.fences.hbmStacks.getLsbD k
def State.portFenced (s : State) (p : Nat) : Bool := s.fences.ports.getLsbD p
/-- Statues is raised (R399). -/
def State.statues (s : State) : Bool := s.forn.stSt ≠ 0
/-- The tile's region is lit: the tile works. -/
def State.tileLit (s : State) (t : Nat) : Bool := (s.region (regionOf t)).st = .lit
/-- A tile can act: its region is lit, and Statues is not raised (R400, R423). -/
def State.tileActs (s : State) (t : Nat) : Bool := s.tileLit t && !s.statues

/-! ### Counters of a tile (R379) -/

/-- Adds to a counter, cumulatively and for a slot. -/
def Tile.count (x : Tile) (slot : Option Nat) (id n : Nat) : Tile :=
  { x with
    cum := smod x.cum id 0 (· + BitVec.ofNat 64 n)
    pctx := match slot with
      | some k => smod x.pctx (64 * k + id) 0 (satAdd 48 · n)
      | none => x.pctx }

/-- Adds to a counter for the slot in which the tile holds a context. -/
def Tile.countCtx (x : Tile) (c id n : Nat) : Tile := x.count (x.slotOf c) id n

/-- Adds frozen cycles of a cause 1 to 6 with their total (R99, R379). -/
def Tile.countFrozen (x : Tile) (slot : Option Nat) (cause n : Nat) : Tile :=
  (x.count slot (cause + 1) n).count slot 0x01 n

/-- A cumulative counter; IDLE is the region's cycles less those in which an output tile was open (R98, R379). -/
def State.cumCounter (s : State) (t i : Nat) : BitVec 64 :=
  let x := s.tile t
  if i = 8 then BitVec.ofNat 64 ((s.region (regionOf t)).cycles - x.nonIdle) else sgetD x.cum i 0

/-- A histogram bin of a tile; bin 0 is the region's cycles less the other bins (R381). -/
def State.histBin (s : State) (t q b : Nat) : BitVec 64 :=
  let x := s.tile t
  if b = 0 then BitVec.ofNat 64 ((s.region (regionOf t)).cycles - ((List.range 7).map (fun j => (sgetD x.hist (8 * q + j + 1) 0).toNat)).sum)
  else sgetD x.hist (8 * q + b) 0

/-- A bin of a stoker's staging histogram: 100 samples in each us of the reference clock, bin 0 those of an empty queue (R381). -/
def State.stackBin (s : State) (k b : Nat) : BitVec 64 :=
  let q := s.stack k
  if b = 0 then BitVec.ofNat 64 (100 * s.us - ((List.range 7).map (fun j => (sgetD q.hist (j + 1) 0).toNat)).sum) else sgetD q.hist b 0

/-- Bin of an occupancy of a queue of that capacity (R381). -/
def binOf (o c : Nat) : Nat := if o = 0 then 0 else if c ≤ o then 7 else 1 + 6 * o / c

/-! ### Registers of the core (R34, R35) -/

/-- A scalar register of a slot's bank; s0 reads as 0. -/
def Tile.reg (x : Tile) (slot r : Nat) : BitVec 64 :=
  if r = 0 then 0 else sgetD (sgetD x.banks slot {}).regs r 0

/-- Writes a scalar register of a slot's bank; a write to s0 has no effect. -/
def Tile.setReg (x : Tile) (slot r : Nat) (v : BitVec 64) : Tile :=
  if r = 0 then x
  else { x with banks := smod x.banks slot {} (fun b => { b with regs := sset b.regs r v }) }

/-- The running firmware bank (R371). -/
def State.runBank (s : State) : FwBank := if s.boot.bank = 0 then s.boot.bankA else s.boot.bankB

/-- The package is out of reset (R442, R447). -/
def State.awake (s : State) : Bool := s.pins.resetN && s.pins.pwrOk

/-- The stage in progress (R361): stage 1 is left within the first microsecond; RECOVERY is of the boot ROM, at stage 2 (log entry 25). -/
def State.stageNow (s : State) : Nat :=
  if s.boot.recovery || s.summary.dead then 2
  else if s.boot.stage = 1 then (if s.us = 0 then 1 else 2)
  else min 8 (s.boot.stage + 1)

/-- The power manager runs: from stage 3 on, with its image loaded (R362, R371). -/
def State.powerRuns (s : State) : Bool := decide (3 ≤ s.stageNow) && s.awake

/-! ### Answers -/

/-- The reply of the management channel: a fault code and the data. -/
def State.answer (s : State) (code : Nat) (bs : List Byte) : State := { s with mgmt := { code := code, bytes := bs } }

/-- A register access is refused: class S on the page, no data (R7, R9). -/
def refuseAccess (key blk code : Nat) (s : State) : State :=
  (recordFault key blk code s).answer (faultCode blk code) []

end Sys2Proof.Machine
end

