-- ==== Sys2Proof/Machine/Operands.lean ====
section
/-! DEFINITION. The operand forms: billet addresses and where they lie in a tile's stores and banks, the sync and control word with its waits and adds, and the HBM ranges a context may reach. -/

namespace Sys2Proof.Machine

/-! ### Stores, billets and banks (R41 to R44, R46, R64) -/

/-- Billets of a store; the instruction memory is one bank of 256. -/
def storeBillets : StoreId → Nat
  | .woodpile => 8192
  | .tinder => 4096
  | .ember => 2048
  | .imem => 256

/-- Window offset at which a store starts (R44). -/
def storeOff : StoreId → Nat
  | .woodpile => 0x000000
  | .tinder => 0x400000
  | .ember => 0x600000
  | .imem => 0x700000

/-- Window offset of a physical billet (R44). -/
def bilOff (st : StoreId) (i : Nat) : Nat := storeOff st + 512 * i

/-- Bank of a physical billet: near 0 to 63, far 64 to 87; 88 is the billet port of the instruction memory (R41, R64). -/
def bankOf : StoreId → Nat → Nat
  | .woodpile, i => if i < 2048 then i / 128 else 64 + (i - 2048) / 256
  | .tinder, i => 16 + i / 128
  | .ember, i => 48 + i / 128
  | .imem, _ => 88

/-- First physical billet of a bank, and how many it holds (R41). -/
def bankBillets (b : Nat) : StoreId × Nat × Nat :=
  if b < 16 then (.woodpile, 128 * b, 128)
  else if b < 48 then (.tinder, 128 * (b - 16), 128)
  else if b < 64 then (.ember, 128 * (b - 48), 128)
  else (.woodpile, 2048 + 256 * (b - 64), 256)

/-- Read latency of a bank in cycles (R46, R64). -/
def bankLatency (b : Nat) : Nat :=
  if b < 64 || b = 88 then 3
  else
    let c := (b - 64) % 6
    let r := (b - 64) / 6
    6 + (if c ≤ 2 then 2 - c else c - 3) + (if r ≤ 1 then 1 - r else r - 2)

/-- The 512 bytes of a physical billet. -/
def Tile.billet (x : Tile) (st : StoreId) (i : Nat) : List Byte := memRead x.store (bilOff st i) 512
/-- Writes bytes into a store from a byte of a physical billet on. -/
def Tile.writeAt (x : Tile) (st : StoreId) (i off : Nat) (bs : List Byte) : Tile :=
  { x with store := memWrite x.store (bilOff st i + off) bs }

/-- Store named by the STORE field of a billet address (R43). -/
def storeOfCode (k : Nat) : StoreId := if k = 0 then .woodpile else if k = 1 then .tinder else .ember

/-- First physical billet of a context's slice in a store (R51). -/
def MapEntry.base (e : MapEntry) : StoreId → Nat
  | .woodpile => e.wpBase
  | .tinder => e.tiBase
  | .ember => e.emBase
  | .imem => 2 * e.imBase

/-- Billets of a context's slice in a store (R51). -/
def MapEntry.size (e : MapEntry) : StoreId → Nat
  | .woodpile => e.wpSize
  | .tinder => e.tiSize
  | .ember => e.emSize
  | .imem => 2 * e.imSize

/-- The store and slice index a billet address names; none for a reserved STORE or a set bit 13 (R43). -/
def bilOf (a : Nat) : Option (StoreId × Nat) :=
  if bf a 14 2 = 3 || bit a 13 then none else some (storeOfCode (bf a 14 2), bf a 0 13)

/-- Store and first physical billet of `n` billets at a billet address of a context, or the CODE of the refusal (R43, R451). -/
def MapEntry.resolve (e : MapEntry) (a n : Nat) : Except Nat (StoreId × Nat) :=
  match bilOf a with
  | none => .error 0x01
  | some (st, i) => if i + n ≤ e.size st then .ok (st, e.base st + i) else .error 0x05

/-! ### The sync and control word (R155 to R163) -/

def waitId (c : BitVec 256) : Nat := bf c.toNat 0 8
def waitValue (c : BitVec 256) : Nat := bf c.toNat 8 24
def addId (c : BitVec 256) : Nat := bf c.toNat 32 8
def addValue (c : BitVec 256) : Nat := bf c.toNat 40 8
def waitEn (c : BitVec 256) : Bool := bit c.toNat 48
def latchStart (c : BitVec 256) : Bool := bit c.toNat 49
def latchEnd (c : BitVec 256) : Bool := bit c.toNat 50
def cmdTag (c : BitVec 256) : Nat := bf c.toNat 56 8

/-- CODE of a refusal: of the checks that fail, each with its code, the first in the order of R451's table, and after it the conditions R406 names with codes of their own: a fenced target, a full ring. -/
def pickCode (xs : List (Bool × Nat)) : Option Nat :=
  [0x01, 0x04, 0x03, 0x05, 0x06, 0x02, 0x07, 0x09, 0x0F].find? (fun c => xs.any (fun p => p.1 && p.2 = c))

/-- The checks of the word against a window of `size` counters (R156); a field that is nonzero where the word does not use it counts as a reserved field (log entry 11). -/
def syncChecks (size : Nat) (c : BitVec 256) : List (Bool × Nat) :=
  [ (bf c.toNat 51 5 ≠ 0, 0x01)
  , (!waitEn c && (waitId c ≠ 0 || waitValue c ≠ 0), 0x01)
  , (addValue c = 0 && addId c ≠ 0, 0x01)
  , (waitEn c && size ≤ waitId c, 0x06)
  , (addValue c ≠ 0 && size ≤ addId c, 0x06) ]

/-- The wait of R157: the counter equals the value or lies less than 2²³ beyond it, modulo 2²⁴. -/
def waitMet (counter : BitVec 48) (v : Nat) : Bool :=
  decide ((counter.toNat % 2 ^ 24 + 2 ^ 24 - v % 2 ^ 24) % 2 ^ 24 < 2 ^ 23)

/-- Physical counter of a virtual ID (R152). -/
def MapEntry.counter (e : MapEntry) (v : Nat) : Nat := e.ctrBase + v

/-- Value of a physical counter. -/
def Tile.counter (x : Tile) (p : Nat) : BitVec 48 := sgetD x.ctr p 0

/-- What a wait finds: met, not met, or a saturated counter (R157, R163). -/
inductive Wait where
  | met
  | unmet
  | saturated
deriving DecidableEq, Repr

/-- Evaluates the wait of a virtual counter. -/
def Tile.waits (x : Tile) (e : MapEntry) (v value : Nat) : Wait :=
  let p := e.counter v
  if x.sat.getLsbD p then .saturated
  else if waitMet (x.counter p) value then .met else .unmet

/-- Evaluates the wait of a command. -/
def Tile.cmdWait (x : Tile) (e : MapEntry) (c : BitVec 256) : Wait :=
  if waitEn c then x.waits e (waitId c) (waitValue c) else .met

/-- Adds to a physical counter, which saturates at 2⁴⁸ − 1 with its flag (R159, R163). -/
def Tile.addCounter (x : Tile) (p n : Nat) : Tile :=
  let v := (x.counter p).toNat + n
  if v < 2 ^ 48 then { x with ctr := sset x.ctr p (BitVec.ofNat 48 v) }
  else { x with
    ctr := sset x.ctr p (BitVec.ofNat 48 (2 ^ 48 - 1))
    sat := x.sat ||| BitVec.ofNat 64 (2 ^ p) }

/-- Posts an add for the context and slot an operation was accepted for: applied while that context still holds the slot, else a stray (R154, R159). -/
def postAdd (t c slot id n : Nat) (s : State) : State :=
  if n = 0 then s
  else
    match (s.tile t).entry slot with
    | some e =>
      if e.ctx = c then s.modTile t (·.addCounter (e.counter id) n)
      else tileFault t 0x07 0x20 (s.modTile t (fun x => { x with strayAdds := satAdd 32 x.strayAdds 1 }))
    | none => tileFault t 0x07 0x20 (s.modTile t (fun x => { x with strayAdds := satAdd 32 x.strayAdds 1 }))

/-! ### HBM ranges (R172, R419) -/

/-- Bytes of HBM. -/
def hbmBytes : Nat := 0x20000000000

/-- A range lies wholly inside one aperture of a context (R172). -/
def inAperture (c : Ctx) (a n : Nat) : Bool :=
  decide (a + n ≤ hbmBytes) && c.apertures.any (fun p => decide (p.1 ≤ a) && decide (a + n ≤ p.1 + p.2))

/-- The HBM pieces of a range, cut at every interleave granule (R188): address and length. -/
def pieces (g : Nat) : Nat → Nat → Nat → List (Nat × Nat)
  | 0, _, _ => []
  | fuel + 1, a, n =>
    if n = 0 then []
    else
      let k := min n (2 ^ g - a % 2 ^ g)
      (a, k) :: pieces g fuel (a + k) (n - k)

/-- Bytes charged for a range (R188). -/
def charge (g a n : Nat) : Nat := ((pieces g (n / 2 ^ g + 2) a n).map (fun p => max p.2 2048)).sum

/-- The stacks a range touches (R420). -/
def State.stacksOf (s : State) (a n : Nat) : List Nat :=
  nub ((pieces s.granule (n / 2 ^ s.granule + 2) a n).map (fun p => s.stackOf p.1))

/-- Lines of 64 bytes a range touches. -/
def linesOf (a n : Nat) : Nat := if n = 0 then 0 else (a + n - 1) / 64 - a / 64 + 1

/-- A range of HBM lies in a bucket's range while a round of it is in progress (R263): the record range or a working range. -/
def rangesMeet (a n b m : Nat) : Bool := decide (a < b + m) && decide (b < a + n)

end Sys2Proof.Machine
end

