-- ==== Sys2Proof/Machine/AshPit.lean ====
section
/-! DEFINITION. The ash pit: where its parts lie, how a record is placed and written, and the header of a variable record (R382 to R385). -/

namespace Sys2Proof.Machine

/-! ### Layout (R382, R383) -/

def Forensics.pitBytes (f : Forensics) : Nat := bf f.ctrl.toNat 0 11 <<< 26
def Forensics.stopMode (f : Forensics) : Bool := bit f.ctrl.toNat 11
def Forensics.pitOn (f : Forensics) : Bool := bit f.ctrl.toNat 12
def Forensics.phaseBytes (f : Forensics) : Nat := bf f.ctrl.toNat 13 11 <<< 20
def Forensics.scanBytes (f : Forensics) : Nat := bf f.ctrl.toNat 24 8 <<< 28
/-- Offset of the phase log. -/
def phaseOff : Nat := 0x10000
def Forensics.scanOff (f : Forensics) : Nat := phaseOff + f.phaseBytes
def Forensics.recOff (f : Forensics) : Nat := f.scanOff + f.scanBytes
/-- Bytes of the record area: what is left of the size. -/
def Forensics.recBytes (f : Forensics) : Nat := f.pitBytes - f.recOff
/-- The header, the phase log and the scan area fit the size (R382). -/
def Forensics.fits (f : Forensics) : Bool := decide (f.recOff ≤ f.pitBytes)

/-- A range of HBM touches the enabled ash pit. -/
def Forensics.inPit (f : Forensics) (a n : Nat) : Bool := f.pitOn && rangesMeet a n f.base f.pitBytes

/-! ### Placing a record (R385) -/

/-- Length a record takes: records start at 32-byte boundaries. -/
def recLen (n : Nat) : Nat := ceilDiv n 32 * 32

/-- No intact record lies in a part of the record area. -/
def recFree (rs : List (Nat × Nat)) (o n : Nat) : Bool := rs.all (fun r => !rangesMeet o n r.1 r.2)

/-- Where a record of `n` bytes starts, and whether a skip record ends the area before it; none when it is dropped. -/
def Forensics.place (f : Forensics) (n : Nat) : Option (Nat × Bool) :=
  let area := f.recBytes
  if area < n then none
  else if f.stopMode then
    if f.recNext + n ≤ area && recFree f.recs f.recNext n then some (f.recNext, false)
    else if recFree f.recs 0 n then some (0, true) else none
  else if f.recNext + n ≤ area then some (f.recNext, false)
  else some (0, true)

/-- Takes the place of a record of `n` bytes: its HBM address, or none when the record is dropped and counted. The records that it or a skip record overwrites are no longer intact (R385). Nothing is taken while the ash pit is disabled (R382). -/
def reserveRecord (n : Nat) (s : State) : Option Nat × State :=
  let f := s.forn
  if !f.pitOn then (none, s)
  else
    let len := recLen n
    match f.place len with
    | none => (none, { s with forn := { f with recDropped := f.recDropped + 1 } })
    | some (o, skip) =>
      let skips := skip && decide (f.recNext < f.recBytes)
      let s1 := if skips then s.hbmWrite (f.base + f.recOff + f.recNext) [0] else s
      let kept := f.recs.filter (fun r => !rangesMeet o len r.1 r.2 && !(skips && rangesMeet f.recNext (f.recBytes - f.recNext) r.1 r.2))
      let recs := kept ++ [(o, len)]
      (some (f.base + f.recOff + o),
        { s1 with forn := { f with
          caps := f.caps.filter (fun c => kept.any (fun r => r.1 = c.off))
          recs := recs, recNext := o + len, recOldest := (recs.headD (o, len)).1 } })

/-- Writes a record, or drops it. -/
def writeRecord (bs : List Byte) (s : State) : State :=
  match reserveRecord bs.length s with
  | (some a, s1) => s1.hbmWrite a bs
  | (none, s1) => s1

/-- Header of a variable record (R385). -/
def varHeader (ty flags ctx req label len superstep : Nat) (byType : List Byte) (s : State) : List Byte :=
  natLe 1 ty ++ natLe 1 flags ++ natLe 1 ctx ++ natLe 1 req ++ natLe 2 label ++ natLe 2 0 ++ natLe 8 len
    ++ natLe 8 s.forn.recSeq ++ natLe 6 s.cad.count.toNat ++ natLe 2 0 ++ natLe 6 superstep
    ++ (byType ++ List.replicate 26 0).take 26

/-- Gives the next SEQUENCE of a variable record. -/
def nextSeq (s : State) : State := { s with forn := { s.forn with recSeq := s.forn.recSeq + 1 } }

/-- A variable record whose body the manual gives no layout: header, then free bytes (log entry 4). -/
def freeRecord (ty flags n len step : Nat) (s : State) : State :=
  match reserveRecord len s with
  | (none, s1) => s1
  | (some a, s1) =>
    let k := s1.freeCtr
    let body := (List.range (len - 64)).map (fun i => Config.recordByte k i)
    nextSeq { (s1.hbmWrite a (varHeader ty flags n 0 0 len step [] s1 ++ body)) with freeCtr := k + 1 }

/-- The header of the ash pit, without its reserved rest (R384). -/
def State.pitHeader (s : State) : List Byte :=
  let f := s.forn
  natLe 1 0x41 ++ natLe 1 0x53 ++ natLe 1 0x48 ++ natLe 1 0x50 ++ natLe 2 s.runBank.ashFmt
    ++ natLe 2 (1 + 2 * b2n f.stopMode + 4 * b2n f.scanValid + 8 * b2n f.scanTrunc + 16 * b2n f.scanInc)
    ++ natLe 8 f.pitBytes ++ natLe 8 phaseOff ++ natLe 8 f.phaseBytes ++ natLe 8 f.scanOff ++ natLe 8 f.scanBytes
    ++ natLe 8 f.recOff ++ natLe 8 f.recBytes ++ natLe 8 (phaseOff + f.phaseNext) ++ natLe 8 f.phaseWraps
    ++ natLe 8 (f.recOff + f.recNext) ++ natLe 8 (f.recOff + f.recOldest) ++ natLe 8 f.recSeq ++ natLe 8 f.recDropped
    ++ natLe 8 f.scanWritten ++ natLe 6 f.stTick ++ natLe 2 f.hdrCause

/-- The control complex rewrites the valid header slot (R384); nothing is written while ENABLE is 0 (R382). -/
def writeHeader (s : State) : State :=
  if s.forn.pitOn then s.hbmWrite (s.forn.base + 4096 * s.sec.pitSlot) (s.pitHeader ++ List.replicate (4096 - s.pitHeader.length) 0) else s

/-- The slot of an old header is cleared (R374). -/
def clearOldHeader (s : State) : State :=
  let s1 := { s with sec := { s.sec with pitOld := false, pitClear := false } }
  s1.hbmWrite (s1.forn.base + 4096 * (1 - s1.sec.pitSlot)) (List.replicate 4096 0)

/-- A snapshot or a capture record is being written (R387, R398). -/
def State.recordBusy (s : State) : Bool := s.forn.snaps.any (fun p => p.2.st = 2) || s.forn.cap.st = 2

/-- The capture of a context that is in course is abandoned: its record is its header, which carries INCOMPLETE (R395, R398). -/
def dropCapture (p : Nat → Bool) (code : Nat) (s : State) : State :=
  let cap := s.forn.cap
  match cap.active.filter (fun n => cap.st = 2 && p n) with
  | none => s
  | some n =>
    let s1 := freeRecord 0x05 2 n 64 cap.superstep s
    { s1 with forn := { s1.forn with cap := { cap with
      st := code, active := none, tiles := [], arrivals := [], stoked := [], ctrl := cap.ctrl &&& 0xFFFFFFFE, seq := s.forn.recSeq % 2 ^ 29 } } }

/-- The snapshots and the capture of a context that are being written are abandoned with INCOMPLETE; `code` is the STATE they show (R393, R395, R398). -/
def abandonRecords (p : Nat → Bool) (code : Nat) (s : State) : State :=
  let hit := s.forn.snaps.filter (fun q => q.2.st = 2 && p (bf q.2.ctrl.toNat 2 6))
  let s1 := forAll hit (fun q s => if q.2.addr = 0 then s else s.hbmWrite (q.2.addr + 1) [BitVec.ofNat 8 2]) s
  let snaps := s1.forn.snaps.map (fun q =>
    if q.2.st = 2 && p (bf q.2.ctrl.toNat 2 6) then (q.1, { q.2 with st := code, ctrl := q.2.ctrl &&& 0xFFFFFFFE }) else q)
  dropCapture p code { s1 with forn := { s1.forn with snaps := snaps } }

end Sys2Proof.Machine
end

