-- ==== Sys2Proof/Machine/Fence.lean ====
section
/-! DEFINITION. Fences (R364 to R367): what raising one does, the failure of a bucket round (R264), the count of uncorrectable HBM lines (R177), and the uncorrectable store word (R45). -/

namespace Sys2Proof.Machine

/-- Applies a hold to one context of a model at its boundary: from then on its bucket rounds and credits wait and the graphs of the model pause; the hold is no longer due once every context of the model has it (R270). -/
def holdCtx (n : Nat) (s : State) : State :=
  match s.ctx n with
  | none => s
  | some c =>
    let s1 := s.setCtx n { c with held := true }
    let all := s1.ctxs.all (fun p => p.2.model ≠ c.model || p.2.held)
    { s1 with
      holds := if s1.holds.contains c.model then s1.holds else s1.holds ++ [c.model]
      holdsDue := if all then s1.holdsDue.filter (· ≠ c.model) else s1.holdsDue }

/-- A hold of a model falls due: contexts of it that run take it at their next boundary, the others, which stand at one, at once (R264, R270; log entry 15). -/
def dueHold (m : Nat) (s : State) : State :=
  let s1 := { s with holdsDue := if s.holdsDue.contains m then s.holdsDue else s.holdsDue ++ [m] }
  forAll ((s1.ctxs.filter (fun p => p.2.model = m && !p.2.onTiles)).map (·.1)) holdCtx s1

/-- A round of a bucket fails: the bucket is FAILED, its staged packets are discarded, and the contexts of its model are held at their next boundaries (R264). -/
def failRound (b : Nat) (s : State) : State :=
  match s.bucket b with
  | none => s
  | some k =>
    let s1 := s.setBucket b { k with st := .failed }
    let s2 := { s1 with hbmStacks := s1.hbmStacks.map (fun q => (q.1, { q.2 with staged := q.2.staged.filter (fun p => p.bucket ≠ b) })) }
    match s.ctx k.ctx with
    | none => s2
    | some c => dueHold c.model s2

/-- Records range of a bucket (R256): 256 bytes a record. -/
def Bucket.bytes (k : Bucket) : Nat := 256 * k.records

/-- Working ranges of a bucket by its descriptor: elements and MX scales (R255 to R257). -/
def workRanges (desc : BitVec 512) (records : Nat) : List (Nat × Nat) :=
  let d := desc.toNat
  let w := bf d 320 48
  let sc := bf d 384 48
  match bf d 2 2 with
  | 0 => []
  | 1 => [(w, 64 * records)]
  | 2 => [(w, 32 * records), (sc, records)]
  | _ => [(w, 16 * records), (sc, records)]

/-- Record range and working ranges of a bucket. -/
def Bucket.ranges (k : Bucket) : List (Nat × Nat) := (k.base, k.bytes) :: workRanges k.desc k.records

/-- The fence map bit, FENCE_LAST and the history count of a fence (R366 step 4). -/
def fenceMark (kind idx fc : Nat) (s : State) : State :=
  let f := s.fences
  let last := BitVec.ofNat 32 kind ||| BitVec.ofNat 32 idx <<< 2 ||| (1 : Word) <<< 7 ||| BitVec.ofNat 32 fc <<< 16
  let f' : Fences :=
    match kind with
    | 0 => { f with regions := f.regions ||| BitVec.ofNat 24 (2 ^ idx), last := last }
    | 1 => { f with hbmStacks := f.hbmStacks ||| BitVec.ofNat 32 (2 ^ idx), last := last }
    | 2 => { f with ports := f.ports ||| BitVec.ofNat 16 (2 ^ idx), last := last }
    | _ => { f with
        dies := f.dies ||| BitVec.ofNat 4 (2 ^ idx)
        regions := (dieRegions idx).foldl (fun v r => v ||| BitVec.ofNat 24 (2 ^ r)) f.regions
        last := last }
  { s with
    fences := f'
    sec := { s.sec with history := smod s.sec.history (64 * kind + idx) 0 (· + 1) } }

/-- Register page of a fenced unit. -/
def fencePage (kind idx : Nat) : Nat :=
  match kind with
  | 0 => pageKey 0x28 idx
  | 1 => pageKey 0x38 idx
  | 2 => pageKey 0x40 idx
  | _ => pageKey 0x30 idx

/-- Block of the unit that sends a loose flit. -/
def FlitBody.block : FlitBody → Nat
  | .line _ _ _ => 0x09
  | .credit _ _ => 0x09
  | .rickHead _ _ _ _ => 0x05
  | .rickData => 0x05
  | .data => 0x08

/-- A flit waits at the local port of its sender, a tile, for a way to a region. -/
def Flit.waitsFor (f : Flit) (t r : Nat) : Bool := f.src = t && regionOf f.dst = r

/-- A region is left by its tiles: the flits that still wait at their senders' local ports to reach one are refused there (R198). -/
def refuseWaiting (r code : Nat) (s : State) : State :=
  forAll (s.tiles.filter (fun p => p.2.router.inj.any (·.waitsFor p.1 r))) (fun p s =>
    forAll (p.2.router.inj.filter (·.waitsFor p.1 r)) (fun f s => ctxFault p.1 f.ctx f.body.block code s)
      (s.modTile p.1 (fun x => { x with router := { x.router with inj := x.router.inj.filter (fun f => !f.waitsFor p.1 r) } }))) s

/-- A fenced region is banked at once (R366 step 3), which ends a request of it (R431), and snapshots of the contexts that touch it are abandoned (R398). -/
def bankFenced (r : Nat) (s : State) : State :=
  refuseWaiting r 0x09 (s.modRegion r (fun g => { g with
    st := if g.st = .dark then .dark else .banked
    goal := if g.st = .dark then .dark else .banked
    request := 0
    fencedAt := some s.us }))

/-- Contexts a fence stops (R366 step 2). -/
def fenceStops (kind idx : Nat) (c : Ctx) : Bool :=
  match kind with
  | 0 => c.regions.contains idx
  | 1 => false
  | 2 => bit c.cordPorts idx
  | _ => c.regions.any (fun r => dieOfRegion r = idx)

/-- The unit is fenced already. -/
def State.isFenced (s : State) (kind idx : Nat) : Bool :=
  match kind with
  | 0 => s.fences.regions.getLsbD idx
  | 1 => s.fences.hbmStacks.getLsbD idx
  | 2 => s.fences.ports.getLsbD idx
  | _ => s.fences.dies.getLsbD idx

/-- A bucket touches a stack: its records or its working copy lie on it (R366 step 2). -/
def State.touchesStack (s : State) (k : Bucket) (idx : Nat) : Bool := k.ranges.any (fun r => (s.stacksOf r.1 r.2).contains idx)

/-- Steps 1 to 3 of R366 for a fence of kind 0 region, 1 stack, 2 port, 3 die: contexts stop, rounds fail, the unit leaves service. -/
def fenceAct (kind idx fc : Nat) (s : State) : State :=
  let hit := (s.ctxs.filter (fun p => fenceStops kind idx p.2)).map (·.1)
  let s1 := forAll hit (fun c s => markStop c fc s) s
  let (v, s2) := s1.draw
  let s3 := abandonRecords (fun c => hit.contains c) (4 + v.toNat % 3) s2
  match kind with
  | 0 => bankFenced idx s3
  | 1 =>
    let s' := s3.modStack idx (fun k => { k with st := .banked })
    forAll ((s'.buckets.filter (fun p => p.2.st = .running && s'.touchesStack p.2 idx)).map (·.1))
      (fun b s => failRound b (recordFault (pageKey 0x3C idx) ((fc / 64) % 64) (fc % 64) s)) s'
  | 2 => forAll [2 * idx, 2 * idx + 1] (fun l s => s.modLink l (fun k => { k with st := .absent })) s3
  | _ => forAll (dieRegions idx) (fun r s => if s.fences.regions.getLsbD r then s else bankFenced r s) s3

/-- Step 4 of R366: the fence map, FENCE_LAST, the history and the event. -/
def fencePost (kind idx fc : Nat) (s : State) : State :=
  let s' := fenceMark kind idx fc s
  postEvent 0x09 0xFF fc (faultPayload (fencePage kind idx) (fc / 4096) s'.fences.last.toNat) s'

/-- Raises a fence (R366). A unit that is fenced already keeps its fence. -/
def raiseFence (kind idx fc : Nat) (s : State) : State :=
  if s.isFenced kind idx then s else fencePost kind idx fc (fenceAct kind idx fc s)

/-- Fences a stack, and its die once all 8 stacks of the die are fenced (R364); of fences raised in one cycle the die's event comes before the stack's (R366). -/
def fenceStack (k fc : Nat) (s : State) : State :=
  if s.isFenced 1 k then s
  else
    let d := dieOfStack k
    let s1 := fenceAct 1 k fc s
    let all := (rangeFrom (8 * d) 8).all (fun j => j = k || s.stackFenced j)
    fencePost 1 k fc (if all then raiseFence 3 d fc s1 else s1)

/-- An uncorrectable HBM line is met by a request: recorded, counted against its stack, and more than 4 counts in 1 s fence the stack (R177, R364, R430). -/
def hbmUncorrectable (a : Nat) (s : State) : State :=
  let k := s.stackOf a
  let times := s.us :: ((s.stack k).ueTimes.filter (fun t => s.us < 1000000 + t))
  let s1 := s.modStack k (fun q => { q with
    uncorrected := satAdd 32 q.uncorrected 1
    lastUe := BitVec.ofNat 32 (s.localAddr a / 64 % 2 ^ 30 + 2 ^ 30)
    ueTimes := times })
  let s2 := recordFault (pageKey 0x38 k) 0x0E 0x12 s1
  if 4 < times.length then fenceStack k (faultCode 0x0E 0x12) s2 else s2

/-- The lines of a range of HBM that fail their check, by address, each once (R177); a number past the range means its last line. -/
def failedLines (a n first : Nat) (more : List Nat) : List Nat :=
  ((first :: more).map (fun i => a / 64 * 64 + 64 * min i (linesOf a n - 1))).eraseDups

/-- A request meets those uncorrectable lines, and each counts once against its stack (R177). -/
def hbmUncorrectables (ls : List Nat) (s : State) : State := forAll ls hbmUncorrectable s

/-- A corrected HBM read (R409): counted per stack and recorded as class C. -/
def hbmCorrected (a : Nat) (s : State) : State :=
  let k := s.stackOf a
  recordFault (pageKey 0x38 k) 0x0E 0x16 (s.modStack k (fun q => { q with corrected := q.corrected + 1 }))

/-- An uncorrectable word in a store or a table of a tile: the tile stops at once and its region is fenced (R45, R409). -/
def tileUncorrectable (t : Nat) (s : State) : State :=
  let fc := faultCode 0x06 0x10
  let s1 := tileFault t 0x06 0x10 s
  let s2 := match (s.tile t).runCtx with
    | some c => stopOnTile t c fc s1
    | none => s1
  raiseFence 0 (regionOf t) fc s2

/-- A corrected store word: counted once and recorded as class C (R45). -/
def storeCorrected (t : Nat) (slot : Option Nat) (s : State) : State :=
  tileFault t 0x06 0x14 (s.modTile t (·.count slot 0x1A 1))

/-- The check of a tile's storage alone. -/
def checkOf : Ecc → Check
  | .clean => .clean
  | .corrected => .corrected
  | .uncorrectable => .uncorrectable

/-- What the check of a table says of a flit that is taken out of a router with it. -/
def flitOf : Check → Ecc
  | .corrected => .corrected
  | .uncorrectable => .uncorrectable
  | .clean => .clean
  | .mapMismatch => .clean

/-- A context-map entry does not match its complement: a class I fault, and its context stops (R277, R411). -/
def mapMismatch (t : Nat) (c : Option Nat) (s : State) : State :=
  match c with
  | some c => ctxFault t c 0x01 0x18 s
  | none => tileFault t 0x01 0x18 s

/-- What the checks of a tile's tables do; `none` when the data may not be used (R45, R277). -/
def tileEcc (t : Nat) (ecc : Check) (s : State) : Option State × State :=
  match ecc with
  | .clean => (some s, s)
  | .corrected => let s' := storeCorrected t ((s.tile t).run) s; (some s', s')
  | .uncorrectable => (none, tileUncorrectable t s)
  | .mapMismatch => (none, mapMismatch t (s.tile t).runCtx s)

end Sys2Proof.Machine
end

