-- ==== Sys2Proof/Machine/Engine.lean ====
section
/-! DEFINITION. What every engine command does at its start and at its completion besides its own effect: latches (R380), trace (R387 to R389), the counter add; and the arrivals a step capture records and a replay takes (R395, R397). -/

namespace Sys2Proof.Machine

/-! ### Latches (R380) -/

/-- A per-context counter as a latch word: the value in [47:0], SATURATED in [63]; an ID that names no counter reads 0. -/
def Tile.latchWord (x : Tile) (slot id : Nat) : BitVec 64 :=
  let v := if id < 64 then sgetD x.pctx (64 * slot + id) 0 else 0
  BitVec.ofNat 64 (v + if v = 2 ^ 48 - 1 then 2 ^ 63 else 0)

/-- A latch of an engine comes before one already taken in the same cycle, in the order matrix, vector, DMA, rick, and so leaves what that one shows. -/
def latchBehind (last : Option LatchBy) (cycle eng : Nat) : Bool := last.any (fun l => l.cycle = cycle && decide (eng < l.eng))

/-- Copies the selected counters into START or END and names the engine, its TAG and the slot, unless a latch of the same cycle that is applied later has done so. -/
def Tile.latch (x : Tile) (cycle : Nat) (atEnd : Bool) (eng tag slot : Nat) : Tile :=
  let vals := (List.range 8).map (fun n => (n, x.latchWord slot (bf x.latchSel.toNat (8 * n) 8)))
  let y := if latchBehind x.latchStartBy cycle eng || latchBehind x.latchEndBy cycle eng then x
    else { x with latchInfo := BitVec.ofNat 32 (eng + (tag <<< 2) + (slot <<< 10)) }
  if latchBehind (if atEnd then x.latchEndBy else x.latchStartBy) cycle eng then y
  else if atEnd then { y with latchEnd := vals, latchEndBy := some { cycle := cycle, eng := eng } }
  else { y with latchStart := vals, latchStartBy := some { cycle := cycle, eng := eng } }

/-! ### Trace (R387 to R389) -/

/-- Trace is enabled for a context. -/
def State.traces (s : State) (c : Nat) : Bool :=
  s.forn.pitOn && bit s.forn.traceCtrl.toNat 0 && s.forn.traceCtx.getLsbD c

/-- Puts a record into a tile's trace buffer, or drops and counts it, in RECORDS_DROPPED too (R384, R387); `gapAt` is the byte and bit of GAP. -/
def pushTrace (t : Nat) (slot : Option Nat) (gapByte gapBit : Nat) (bs : List Byte) (s : State) : State :=
  let x := s.tile t
  if 16 ≤ x.trace.length || s.recordBusy then
    { s.modTile t (fun x => { x.count slot 0x32 1 with traceGap := true }) with forn := { s.forn with recDropped := s.forn.recDropped + 1 } }
  else
    let bs' := if x.traceGap then bs.set gapByte ((bs.getD gapByte 0) ||| BitVec.ofNat 8 (2 ^ gapBit)) else bs
    s.setTile t { x with trace := x.trace ++ [{ bytes := bs' }], traceGap := false }

/-- The field of a command that gives its size (R389). -/
def cmdSize (eng : Nat) (c : BitVec 256) : Nat :=
  if eng = 2 then cf c 8 12 20 else cf c 12 0 16

/-- OP of a command, or VOP (R388). -/
def cmdOp (eng : Nat) (c : BitVec 256) : Nat :=
  if eng = 1 then cf c 8 0 8 else if eng = 2 then cf c 8 0 4 else cf c 8 0 3

/-- The command bytes of an address-form payload (R389). -/
def addrPayload (eng : Nat) (c : BitVec 256) : List Byte :=
  if eng = 0 then natLe 6 (cf c 12 0 48) ++ natLe 2 (cf c 22 0 16)
  else if eng = 1 then natLe 8 (cf c 14 0 64) else natLe 8 (cf c 12 0 64)

/-- Trace record of a completing command (R388); TAG stands in the records of contexts of 4 or more clusters (R156). -/
def traceBytes (s : State) (t eng : Nat) (q : QEntry) : List Byte :=
  let cl := clusterOf t
  let big := match s.ctx q.ctx with
    | some c => decide (4 ≤ c.pw * c.ph)
    | none => false
  let owns := (s.cluster cl).owner = some q.ctx
  let tag := cmdTag q.cmd
  let payload :=
    if big then natLe 4 (if owns then (sgetD (s.cluster cl).tags tag 0).toNat else 0) ++ natLe 4 (cmdSize eng q.cmd)
    else addrPayload eng q.cmd
  let flags := b2n big + 2 * b2n (big && owns) + 4 * b2n q.faulted
  let frozen := if eng = 0 then (sgetD (s.tile t).cum 0x01 0).toNat - q.frozen0 else 0
  natLe 1 0x01 ++ natLe 1 eng ++ natLe 2 t ++ natLe 1 q.ctx ++ natLe 1 (if big then tag else 0) ++ natLe 1 (cmdOp eng q.cmd)
    ++ natLe 1 flags ++ natLe 8 q.start ++ natLe 4 (min (s.cycle - q.start) 0xFFFFFFFF) ++ natLe 4 (min frozen 0xFFFFFFFF) ++ payload

/-- Latch record: the header of R385 with TYPE 0x02; the manual gives its bytes 38 to 63 no layout, so they are free (log entry 4). -/
def latchRecord (t : Nat) (q : QEntry) (s : State) : State :=
  if s.traces q.ctx && bit s.forn.traceCtrl.toNat 5 then
    let (a, s1) := s.draw
    let (b, s2) := s1.draw
    let (c, s3) := s2.draw
    let (d, s4) := s3.draw
    let body := (natLe 8 a.toNat ++ natLe 8 b.toNat ++ natLe 8 c.toNat ++ natLe 8 d.toNat).take 26
    let step := match s4.ctx q.ctx with
      | some k => k.superstep
      | none => 0
    pushTrace t (some q.slot) 1 0 (varHeader 0x02 0 q.ctx 0 0 64 step body s4) (nextSeq s4)
  else s

/-- What starting a command does: START and FROZEN for its trace record, and the start latch (R380). -/
def startedEntry (s : State) (t : Nat) (q : QEntry) : QEntry :=
  { q with started := true, start := s.cycle, frozen0 := (sgetD (s.tile t).cum 0x01 0).toNat }

/-- Takes the start latch when the command asks for it. -/
def startLatch (t eng : Nat) (q : QEntry) (s : State) : State :=
  if latchStart q.cmd then
    latchRecord t q (s.modTile t (·.latch s.cycle false eng (cmdTag q.cmd) q.slot))
  else s

/-- What completing a command does: its counter add unless it faulted, the end latch, and its trace record (R97, R387, R452, R453). -/
def completeEntry (t eng : Nat) (q : QEntry) (s : State) : State :=
  let s1 := if q.faulted then s else postAdd t q.ctx q.slot (addId q.cmd) (addValue q.cmd) s
  let s2 := if latchEnd q.cmd then latchRecord t q (s1.modTile t (·.latch s.cycle true eng (cmdTag q.cmd) q.slot)) else s1
  if s2.traces q.ctx && bit s2.forn.traceCtrl.toNat (1 + eng) then pushTrace t (some q.slot) 7 3 (traceBytes s2 t eng q) s2
  else s2

/-! ### Step capture and replay (R395, R397) -/

/-- A context runs a replay. -/
def State.replays (s : State) (c : Nat) : Bool := (s.ctx c).any (fun k => k.replay.isSome && k.st = .running)

/-- A command of a tile had started before the capture in course began: its stream goes on without a command that the replay would issue (R395). -/
def State.begunBefore (s : State) (t id : Nat) : Bool := (sgetD s.forn.cap.tiles t {}).ops.any (fun o => o.id = id)

/-- Records an arrival from outside the partition of the captured context: kind 0 a billet of a COPY_IN, 1 what a stream of the superstep reads, 2 a KGET, 3 a channel line, 4 a rick packet, 5 a CORD_RECV billet, 6 finished values of a stoker round that a DMA reads, 7 a slot that a stream begun earlier publishes (R395). -/
def captureArrival (c t kind : Nat) (bs : List Byte) (s : State) : State :=
  let cap := s.forn.cap
  if cap.active = some c && cap.st = 2 then
    { s with forn := { s.forn with cap := { cap with arrivals := cap.arrivals ++ [{ tile := t, kind := kind, bytes := bs }] } } }
  else s

/-- The next recorded arrival of a kind on a tile, which a replay takes; with none left the context stops with a class S fault (R397). -/
def takeArrival (c t kind : Nat) (s : State) : Option (List Byte) × State :=
  let cap := s.forn.cap
  match cap.toTake.find? (fun a => a.tile = t && a.kind = kind) with
  | some a =>
    (some a.bytes, { s with forn := { s.forn with cap := { cap with toTake := cap.toTake.erase a } } })
  | none => (none, ctxFault t c 0x04 0x07 s)

/-- A write leaving the partition of a replay goes to the replay output (R397). -/
def replayOutput (t kind : Nat) (bs : List Byte) (s : State) : State :=
  let cap := s.forn.cap
  { s with forn := { s.forn with cap := { cap with output := cap.output ++ [{ tile := t, kind := kind, bytes := bs }] } } }

end Sys2Proof.Machine
end

