-- ==== Sys2Proof/Machine/Links.lean ====
section
/-! DEFINITION. What the exchange, the barriers and the stokers ask of a cord link: which links a context has, frames and control words on their way out, and the ARRIVE words of a system barrier (13_evl_and_cords.md R332 to R342). -/

namespace Sys2Proof.Machine

/-- A link exists: link 2p always, link 2p + 1 while port p is split (R332). -/
def State.linkExists (s : State) (l : Nat) : Bool := decide (l < 32) && (l % 2 = 0 || (s.port (l / 2)).split)

/-- A context may use a link (R338). -/
def Ctx.permits (c : Ctx) (l : Nat) : Bool := bit c.cordPorts (l / 2)

/-- The links a context may use and that exist. -/
def State.ctxLinks (s : State) (c : Ctx) : List Nat := (List.range 32).filter (fun l => s.linkExists l && c.permits l)

/-- A link carries traffic (R335). -/
def Link.carries (k : Link) : Bool := k.st = .up || k.st = .degraded

/-- Frames a partner grants in advance, by CLASS (R334). -/
def classCredits (cls : Nat) : Nat := if cls = 0 then 64 else if cls = 1 then 32 else 8

/-- A frame of a class can be sent: a credit is left and the replay buffer of 512 frames has a place (R334). -/
def Link.canSend (k : Link) (cls : Nat) : Bool := decide (k.txQ.length < 512) && decide (sgetD k.credit cls 0 < classCredits cls)

/-- Sends a data frame: it stays in the replay buffer until it is acknowledged (R333, R334). -/
def sendFrame (l cls ctx tag : Nat) (bytes : List Byte) (s : State) : State :=
  s.modLink l (fun k => { k with
    txQ := k.txQ ++ [{ cls := cls, seq := k.txNext, ctx := ctx, tag := tag, bytes := bytes }]
    txNext := (k.txNext + 1) % 2 ^ 24
    credit := smod k.credit cls 0 (· + 1)
    frames := k.frames + 1
    sentTimes := s.us :: k.sentTimes.filter (fun t => s.us < 10000000 + t)
    cnt := smod (smod k.cnt 0 0 (· + 1)) (4 + cls) 0 (· + BitVec.ofNat 64 bytes.length) })

/-- A control word: KIND, ARG and VALUE (R334). -/
def ctlWord (kind arg value : Nat) : BitVec 64 := BitVec.ofNat 64 (kind + arg <<< 8 + (value % 2 ^ 48) <<< 16)

/-- Puts a control word behind those that wait to be sent. -/
def sendWord (l kind arg value : Nat) (s : State) : State :=
  s.modLink l (fun k => { k with ctlOut := k.ctlOut ++ [ctlWord kind arg value] })

/-- Every tile of the partition has arrived at the barrier in progress. -/
def Ctx.allIn (c : Ctx) : Bool := c.tiles.all (fun t => c.arrived.contains t)

/-- The local tiles have arrived at a system barrier: ARRIVE goes out on each permitted link once it has come in on every other one, and the tick count of its timeout starts (R341). -/
def sendArrives (n : Nat) (s : State) : State :=
  match s.ctx n with
  | none => s
  | some c =>
    let ls := s.ctxLinks c
    if c.cordPorts = 0 || c.barrier ≠ 2 || !c.allIn then s
    else
      let due := ls.filter (fun l => !c.arriveOut.contains l && ls.all (fun m => m = l || c.arriveIn.contains m))
      let s1 := forAll due (fun l s => sendWord l 0x04 n c.superstep s) s
      s1.modCtx n (fun c => { c with
        arriveOut := c.arriveOut ++ due
        sysTicks := if c.sysTicks.isSome then c.sysTicks else some 0
        sysT := if c.sysTicks.isSome then c.sysT else (ls.map (fun l => (s.link l).timeout)).foldl min 0xFFFFFFFF })

/-- The context's tiles count as all arrived at the boundary: the local ones have, and ARRIVE has come in on every permitted link (R30, R341). -/
def State.boundaryMet (s : State) (c : Ctx) : Bool :=
  c.barrier = 2 && c.allIn && (c.cordPorts = 0 || (s.ctxLinks c).all (fun l => c.arriveIn.contains l))

end Sys2Proof.Machine
end

