-- ==== Sys2Proof/Machine/Mesh.lean ====
section
/-! DEFINITION. The mesh: routes, input buffers, arbitration and the forwarding of flits (08_mesh_and_exchange.md R194 to R202, R217, R218). -/

namespace Sys2Proof.Machine

/-! ### Routes (R197, R218) -/

/-- Output port of a flit at a tile: 0 north, 1 south, 2 east, 3 west, 4 local; along x first, a parcel along its line. -/
def Flit.out (f : Flit) (t : Nat) : Nat :=
  if f.dst = t then 4
  else if tileX t < tileX f.dst then 2
  else if tileX f.dst < tileX t then 3
  else if tileY t < tileY f.dst then 0
  else 1

/-- The neighbour behind an output port. -/
def neighbour (t port : Nat) : Nat :=
  if port = 0 then t + 48 else if port = 1 then t - 48 else if port = 2 then t + 1 else if port = 3 then t - 1 else t

/-- The input port by which a flit sent through `port` enters the neighbour. -/
def facing (port : Nat) : Nat := if port = 0 then 1 else if port = 1 then 0 else if port = 2 then 3 else if port = 3 then 2 else 4

def vnCode : Vn → Nat
  | .s => 0
  | .p => 1
  | .q => 2
  | .l => 3

def bufKey (port : Nat) (vn : Vn) : Nat := 4 * port + vnCode vn
def RouterSt.buf (r : RouterSt) (port : Nat) (vn : Vn) : List Flit := sgetD r.bufs (bufKey port vn) []

/-! ### Injection -/

/-- Moves waiting flits of a tile into the local input buffers, 8 flits for each network (R195). -/
def RouterSt.refill (r : RouterSt) : RouterSt :=
  r.inj.foldl (fun r f =>
    let b := r.buf 4 f.vn
    if 8 ≤ b.length || r.inj.any (fun g => g.vn = f.vn) then { r with inj := r.inj ++ [f] }
    else { r with bufs := sset r.bufs (bufKey 4 f.vn) (b ++ [f]) }) { r with inj := [] }

/-- Offers loose flits at the local port of a tile. -/
def inject (t : Nat) (fs : List Flit) (s : State) : State :=
  s.modTile t (fun x => { x with router := ({ x.router with inj := x.router.inj ++ fs }).refill })

/-- CODE of the refusal at the sender of a flit to a tile of a banked, dark or fenced region (R198). DESIGN CHOICE (log entry 12): a region in transition takes no flit either. -/
def sendRefusal (s : State) (dst : Nat) : Option Nat :=
  if s.regionFenced (regionOf dst) then some 0x09 else if s.tileLit dst then none else some 0x07

/-! ### Arbitration (R196, R217) -/

/-- Heads of the input buffers of a network that want an output port, with their input port. -/
def RouterSt.heads (r : RouterSt) (t port : Nat) (vn : Vn) : List (Nat × Flit) :=
  (List.range 5).filterMap (fun i =>
    match r.buf i vn with
    | f :: _ => if f.out t = port then some (i, f) else none
    | [] => none)

/-- Counter of flits of a network (R379). -/
def flitCounter : Vn → Nat
  | .s => 0x28
  | .l => 0x29
  | .q => 0x2A
  | .p => 0x2B

/-- Flits that a unit sends on VN-Q, or that reach it on VN-P, pass the router of its tile and are counted there. The spec names no attachment point of a controller, stoker, cord port or the control complex, so the other routers of their way are open (R195, R203, R379; log entry 12). -/
def countVn (t ctx : Nat) (vn : Vn) (n : Nat) (s : State) : State := s.modTile t (·.countCtx ctx (flitCounter vn) n)

/-- A flit can be absorbed at its destination (R215, R242). -/
def Tile.absorbs (x : Tile) (f : Flit) : Bool :=
  match f.vn, f.body with
  | .s, _ => decide (x.exch.deliver.length < 8)
  | .l, .rickHead _ _ _ _ => decide (x.rick.input.length < 64)
  | .l, .rickData => decide (x.rick.input.length < 64)
  | .l, _ => true
  | _, _ => false

/-- A flit can leave through an output port: the place behind it is free, and a parcel's copy has room (R195, R219). -/
def flitFits (s : State) (t port : Nat) (f : Flit) : Bool :=
  if port = 4 then (s.tile t).absorbs f
  else
    decide (((s.tile (neighbour t port)).router.buf (facing port) f.vn).length < 8)
      && (f.parcel.isNone || f.src = t || decide ((s.tile t).exch.deliver.length < 8))

/-- Of competing VN-S flits: the smaller CYCLE, then source tile, then index. -/
def vnsBefore (a b : Flit) : Bool :=
  a.cyc < b.cyc || (a.cyc = b.cyc && (a.src < b.src || (a.src = b.src && a.idx < b.idx)))

/-- The VN-S flit that goes first. -/
def vnsFirst : List (Nat × Flit) → Option (Nat × Flit)
  | [] => none
  | p :: ps =>
    match vnsFirst ps with
    | none => some p
    | some q => if vnsBefore q.2 p.2 then some q else some p

/-- Round robin from the port after the one served last. -/
def nextPort (last : Nat) (ps : List (Nat × Flit)) : Option (Nat × Flit) :=
  ((rangeFrom 1 5).filterMap (fun k => ps.find? (fun p => p.1 = (last + k) % 5))).head?

/-- The flit an output port grants: VN-S whenever one is present; else a network that has lost 16 cycles, else P, Q, L (R196). DESIGN CHOICE: a VN-S flit that finds no place behind the port is present all the same, and keeps the other networks, and the VN-S flits it goes before, from it (log entry 12). -/
def portGrant (s : State) (t port : Nat) : Option (Nat × Flit) :=
  let r := (s.tile t).router
  match vnsFirst (r.heads t port .s) with
  | some p => if flitFits s t port p.2 then some p else none
  | none =>
    let cand := fun (vn : Vn) => nextPort (sgetD r.rr (bufKey port vn) 4) ((r.heads t port vn).filter (fun p => flitFits s t port p.2))
    let starved := fun (vn : Vn) => decide (16 ≤ sgetD r.lost (bufKey port vn) 0)
    let order := ([Vn.p, .q, .l].filter starved) ++ [.p, .q, .l]
    (order.filterMap cand).head?

/-- Networks with a flit at the head of a buffer for the port, other than the one granted: their lost cycles grow, the granted one starts again. DESIGN CHOICE (log entry 12): a head flit that finds no place behind the port loses the cycle too, and a cycle in which the port grants nothing is lost by none. -/
def RouterSt.lose (r : RouterSt) (t port : Nat) (won : Vn) : RouterSt :=
  { r with lost := [Vn.p, .q, .l].foldl (fun m vn =>
      if vn = won then sset m (bufKey port vn) 0
      else if (r.heads t port vn).isEmpty then m
      else sset m (bufKey port vn) (min 16 (sgetD m (bufKey port vn) 0 + 1))) r.lost }

/-- Takes the head flit of an input buffer. -/
def RouterSt.pop (r : RouterSt) (port : Nat) (vn : Vn) : RouterSt :=
  ({ r with bufs := sset r.bufs (bufKey port vn) ((r.buf port vn).drop 1) }).refill

/-- Contexts that an uncorrectable flit stops (R199). -/
def flitContexts (s : State) (f : Flit) : List Nat :=
  match f.parcel with
  | some _ => [f.ctx]
  | none => nub (f.ctx :: ((s.tile f.dst).runCtx).toList)

/-- An uncorrectable flit error: the flit is discarded, its contexts stop, the region of the router is fenced, and a second error fences the die (R199). -/
def flitUncorrectable (t : Nat) (f : Flit) (s : State) : State :=
  let fc := faultCode 0x0A 0x11
  let again := (s.tile t).router.uncorrected
  let s1 := tileFault t 0x0A 0x11 (s.modTile t (fun x => { x with router := { x.router with uncorrected := true } }))
  let s2 := forAll (flitContexts s f) (fun c s => stopOnTile f.src c fc (stopOnTile f.dst c fc s)) s1
  let s3 := raiseFence 0 (regionOf t) fc s2
  if again then raiseFence 3 (dieOf t) fc s3 else s3

/-- A flit lands at its tile. -/
def absorb (t : Nat) (f : Flit) (s : State) : State :=
  s.modTile t (fun x =>
    match f.vn with
    | .s => { x with exch := { x.exch with deliver := x.exch.deliver ++ [f] } }
    | _ => { x with rick := { x.rick with input := x.rick.input ++ [f] } })

/-- Head VN-L flits that channel rows take at the local port. -/
def Flit.loose (f : Flit) : Bool :=
  match f.body with
  | .line _ _ _ => true
  | .credit _ _ => true
  | _ => false

/-- A flit leaves the input buffer `i` of a router through a port: it is counted, the networks that wait lose a cycle, and its check is made; none when the flit is discarded (R194, R196, R199). -/
def flitLeaves (t port i : Nat) (f : Flit) (ecc : Ecc) (s : State) : Option State × State :=
  let x := s.tile t
  let losers := (x.router.heads t port .s).length - 1
  let s1 := s.setTile t (
    let copied := f.parcel.isSome && f.src ≠ t && port ≠ 4
    let y := x.countCtx f.ctx (flitCounter f.vn) (if copied then 2 else 1)
    let y := if f.vn = .s then y.countCtx f.ctx 0x27 losers else y
    { y with router := ({ (y.router.lose t port f.vn) with rr := sset y.router.rr (bufKey port f.vn) i }).pop i f.vn })
  match ecc with
  | .clean => (some s1, s1)
  | .corrected =>
    let s2 := tileFault t 0x0A 0x15 (s1.modTile t (·.countCtx f.ctx 0x2C 1))
    (some s2, s2)
  | .uncorrectable => (none, flitUncorrectable t f s1)

/-- FLIT_FORWARD (R195 to R199, R217, R218): an output port grants one flit, which goes to the next router or to the tile; a parcel leaves a copy at every tile it passes. Statues leaves flits where they are (R400). -/
def execFlitForward (t : TileId) (port : Fin 5) (ecc : Ecc) (s : State) : Host.Outcome State Fault Refusal :=
  .next <|
    if s.statues then s
    else
      match (portGrant s t port).filter (fun p => port ≠ 4 || !p.2.loose) with
      | none => s
      | some (i, f) =>
        match flitLeaves t port i f ecc s with
        | (none, s') => s'
        | (some s2, _) =>
          if port = 4 then absorb t f s2
          else
            let s3 := if f.parcel.isSome && f.src ≠ t then absorb t f s2 else s2
            s3.modTile (neighbour t port) (fun y =>
              { y with router := { y.router with bufs := sset y.router.bufs (bufKey (facing port) f.vn) (y.router.buf (facing port) f.vn ++ [f]) } })

/-- Takes the flit that the local port grants, when it is of that kind (R196): the flit, unless its check discards it, and the state without it (R194, R199). -/
def takeLoose (t : Nat) (p : FlitBody → Bool) (ecc : Ecc) (s : State) : Option (Option Flit × State) :=
  match (portGrant s t 4).filter (fun q => p q.2.body) with
  | some (i, f) =>
    match flitLeaves t 4 i f ecc s with
    | (some s1, _) => some (some f, s1)
    | (none, s1) => some (none, s1)
  | none => none

end Sys2Proof.Machine
end

