-- ==== Sys2Proof/Machine/Stores.lean ====
section
/-! DEFINITION. Requests at the banks of a tile, the holds of reads, sub-billet writes, carousel pointers, and what the core may issue (02_tile_and_stores.md R34 to R59, 07 R178 to R182). -/

namespace Sys2Proof.Machine

/-! ### Requests at banks -/

def Tile.bank (x : Tile) (b : Nat) : BankSt := sgetD x.bankSt b {}
def Tile.setBank (x : Tile) (b : Nat) (y : BankSt) : Tile := { x with bankSt := sset x.bankSt b y }
def BankReq.bank (r : BankReq) : Nat := bankOf r.store r.bil

/-- A bank takes accesses: it is lit, or it is the instruction memory, which has no gate (R62, R64). -/
def Tile.bankOpen (x : Tile) (b : Nat) : Bool := b = 88 || (x.bank b).st = .lit

/-- Position of a requester in the order of R49; the four feeders share the first, in the order A, B, A scales, B scales. -/
def whoRank : Requester → Nat
  | .feedA => 0
  | .feedB => 1
  | .scaleA => 2
  | .scaleB => 3
  | .drain => 4
  | .vector => 5
  | .rick => 6
  | .dma => 7
  | .merge => 8
  | .core => 9
  | .image => 10

/-- Requesters at the banks, in that order. -/
def requesters : List Requester := [.feedA, .feedB, .scaleA, .scaleB, .drain, .vector, .rick, .dma, .merge, .core]

/-- Feeder 0 to 3 as a requester. -/
def feederWho (k : Nat) : Requester := if k = 0 then .feedA else if k = 1 then .feedB else if k = 2 then .scaleA else .scaleB

/-! ### Holds (R55, R56, R58, R96, R191) -/

/-- A range entry covers a billet (R54). -/
def RangeEntry.covers (e : RangeEntry) (st : StoreId) (i : Nat) : Bool := e.store = st && decide (e.first ≤ i) && decide (i ≤ e.last)

/-- A billet lies in the range entry of a descriptor other than `own` (R54 to R56). -/
def Tile.inRange (x : Tile) (own : Option Nat) (st : StoreId) (i : Nat) : Bool :=
  x.ranges.any (fun e => e.covers st i && own ≠ some e.op)

/-- A billet has a merge in progress (R58). -/
def Tile.inMerge (x : Tile) (st : StoreId) (i : Nat) : Bool :=
  x.merges.any (fun m => m.store = st && m.bil = i && m.stage ≠ .queued)

/-- Every write of a drain or spill has been granted (R96). -/
def Tile.drained (x : Tile) (cmd : Nat) : Bool :=
  x.matQ.all (fun q => q.id ≠ cmd || q.done) && x.reqs.all (fun r => r.dst ≠ .drain cmd) && x.merges.all (fun m => m.org ≠ .scale cmd)

/-- A billet lies in the range of a drain or spill before command `id` that has not finished writing (R96). -/
def Tile.inDrain (x : Tile) (id : Nat) (st : StoreId) (i : Nat) : Bool :=
  x.drains.any (fun d => decide (d.cmd < id) && d.store = st && decide (d.first ≤ i) && decide (i ≤ d.last) && !x.drained d.cmd)

/-- Operation whose own range entries a request does not read (R56). -/
def BankReq.own (r : BankReq) : Option Nat :=
  match r.dst with
  | .dma op _ => some op
  | _ => none

/-- Matrix command that a feeder read belongs to (R96). -/
def BankReq.feeds (r : BankReq) : Option Nat :=
  match r.dst with
  | .feed c _ _ => some c
  | .resume c _ => some c
  | _ => none

def BankReq.isKput (r : BankReq) : Bool :=
  match r.dst with
  | .kput _ => true
  | _ => false

/-- A KPUT's read of a billet, issued before order number `n`, still waits; no later write may go before it (R191). -/
def Tile.kputWaits (x : Tile) (st : StoreId) (i n : Nat) : Bool :=
  x.reqs.any (fun r => r.isKput && r.store = st && r.bil = i && decide (r.seq < n))

/-- A read waits for a merge of its billet: one in progress, or one whose bytes reached the store before it (R58). -/
def Tile.mergeHolds (x : Tile) (r : BankReq) : Bool :=
  r.dst ≠ .merge && x.merges.any (fun m => m.store = r.store && m.bil = r.bil && (m.stage ≠ .queued || decide (m.seq < r.seq)))

/-- A range entry that an earlier descriptor holds covers the billet of a KPUT's read, which waits for it (R55, R191). -/
def Tile.kputBehind (x : Tile) (r : BankReq) : Bool := x.ranges.any (fun e => e.covers r.store r.bil && decide (e.seq < r.seq))

/-- A write of a descriptor for which a KPUT's read waits (R191). -/
def Tile.servesKput (x : Tile) (w r : BankReq) : Bool :=
  w.own.any (fun o => x.ranges.any (fun e => e.op = o && e.covers r.store r.bil && decide (e.seq < r.seq)))

/-- A write waits behind the read of a KPUT that was issued before it, unless that read waits for the write's own descriptor (R191). -/
def Tile.putHolds (x : Tile) (w : BankReq) : Bool :=
  x.reqs.any (fun r => r.isKput && r.store = w.store && r.bil = w.bil && decide (r.seq < w.seq) && !x.servesKput w r)

/-- A waiting read is held by a range entry, a merge or a drain (R55, R58, R96); a KPUT's, which takes place at its issue, by the entries of earlier descriptors alone (R191). A write is held only behind a KPUT's read of its billet; that of a merge goes on. -/
def Tile.reqHeld (x : Tile) (r : BankReq) : Bool :=
  if r.wr.isSome then r.dst ≠ .merge && x.putHolds r
  else (if r.isKput then x.kputBehind r else x.inRange r.own r.store r.bil) || x.mergeHolds r || r.feeds.any (fun c => x.inDrain c r.store r.bil)

/-- An older read of the same carousel waits: the billets of a ring are taken in order (R179). -/
def Tile.ringBefore (x : Tile) (r : BankReq) : Bool :=
  r.car.isSome && x.reqs.any (fun q => q.car = r.car && decide (q.seq < r.seq))

/-! ### Presenting requests -/

/-- Writes that a closing bank has accepted and not yet granted (R61). -/
def Tile.acceptedWrites (x : Tile) (b : Nat) : Nat := (x.reqs.filter (fun r => r.bank = b && r.acc && r.wr.isSome)).length

/-- A bank accepts until the cycle after its gate was closed, and holds at most 8 accepted writes (R61). -/
def Tile.accepts (x : Tile) (cycle : Nat) (r : BankReq) : Bool :=
  let k := x.bank r.bank
  k.st = .closing && k.closedAt = cycle && !x.reqHeld r && (r.wr.isNone || decide (x.acceptedWrites r.bank < 8))

/-- Presents a request at its bank, with its order number. Whether the bank still takes it shows when it is granted or refused (R55, R62). -/
def Tile.post (x : Tile) (cycle : Nat) (r : BankReq) : Tile :=
  let q := { r with since := cycle, seq := x.nextReq }
  { x with reqs := x.reqs ++ [{ q with acc := x.accepts cycle q }], nextReq := x.nextReq + 1 }

/-- Presents a read of a physical billet. -/
def postRead (t : Nat) (who : Requester) (st : StoreId) (i : Nat) (dst : ReqDst) (s : State) : State :=
  s.modTile t (·.post (s.tileCycle t) { who := who, store := st, bil := i, dst := dst })

/-- The reads of billets of the instruction memory that a step capture or a scan-out makes, through the billet port (R64). -/
def imageReads (t first n : Nat) (s : State) : State :=
  forAll (rangeFrom first n) (fun i s => postRead t .image .imem i .none s) s

/-- Presents a write of a whole physical billet. -/
def postWrite (t : Nat) (who : Requester) (st : StoreId) (i : Nat) (bs : List Byte) (dst : ReqDst) (s : State) : State :=
  s.modTile t (·.post (s.tileCycle t) { who := who, store := st, bil := i, wr := some bs, dst := dst })

/-- Takes back what some destinations wait for: requests, reads on their way and billets that have arrived. -/
def Tile.dropReqs (x : Tile) (p : ReqDst → Bool) : Tile :=
  { x with
    reqs := x.reqs.filter (fun r => !p r.dst)
    reads := x.reads.filter (fun r => !p r.dst)
    arrived := x.arrived.filter (fun a => !p a.1) }

/-- A billet that has arrived for a destination. -/
def Tile.arrival (x : Tile) (d : ReqDst) : Option (List Byte) := (x.arrived.find? (fun a => a.1 = d)).map (·.2)

/-- No read for such a destination waits or is on its way. -/
def Tile.noneAsked (x : Tile) (p : ReqDst → Bool) : Bool := x.reqs.all (fun r => !p r.dst) && x.reads.all (fun r => !p r.dst)

/-- A started descriptor takes a range entry (R54). -/
def Tile.addRange (x : Tile) (op : Nat) (st : StoreId) (first n : Nat) : Tile :=
  { x with ranges := x.ranges ++ [{ op := op, store := st, first := first, last := first + n - 1, seq := x.nextReq }], nextReq := x.nextReq + 1 }

/-- Range-table entries in use of a store (R54, RANGE_STATUS). -/
def Tile.rangeUse (x : Tile) (st : StoreId) : Nat := (x.ranges.filter (fun e => e.store = st)).length

/-! ### Sub-billet writes (R58, R59) -/

/-- Sends a write of part of a billet to the merge buffer, in arrival order. -/
def queueMerge (t : Nat) (st : StoreId) (i off : Nat) (bs : List Byte) (org : MergeOrg) (s : State) : State :=
  s.modTile t (fun x => { x with
    merges := x.merges ++ [{ store := st, bil := i, off := off, bytes := bs, org := org, seq := x.nextReq }]
    nextReq := x.nextReq + 1 })

/-- Replaces bytes of a billet. -/
def overlay (b : List Byte) (off : Nat) (bs : List Byte) : List Byte := b.take off ++ bs ++ b.drop (off + bs.length)

/-- No write of that part is outstanding at the banks or the merge buffers. -/
def Tile.quiet (x : Tile) (d : ReqDst) (o : MergeOrg) : Bool :=
  x.reqs.all (fun r => r.dst ≠ d) && x.merges.all (fun m => m.org ≠ o)

/-! ### Carousels (R178 to R182) -/

def carKey (slot car : Nat) : Nat := 16 * slot + car
def Tile.car (x : Tile) (k : Nat) : Option Carousel := sget x.cars k
def Tile.setCar (x : Tile) (k : Nat) (c : Carousel) : Tile := { x with cars := sset x.cars k c }
def Tile.modCar (x : Tile) (k : Nat) (f : Carousel → Carousel) : Tile :=
  match x.car k with
  | some c => x.setCar k (f c)
  | none => x

/-- Store and first slice index of a carousel's ring. -/
def Carousel.place (c : Carousel) : StoreId × Nat := (storeOfCode (bf c.base 14 2), bf c.base 0 13)

/-- A slot is published; TAIL and FILLED advance at the end of the cycle (R179, R180). -/
def Carousel.publish (c : Carousel) : Carousel := { c with pubs := c.pubs + 1 }

/-- The read of the next billet of the ring is granted; a slot whose last one it was is consumed at the end of the cycle (R179, R180). -/
def Carousel.take (c : Carousel) : Carousel := { c with takes := c.takes + 1 }

/-- End of a cycle: what was published and consumed in it counts (R180). -/
def Carousel.settle (c : Carousel) : Carousel :=
  let used := c.headUsed + c.takes
  { c with
    tail := (c.tail + c.pubs) % c.slots
    head := (c.head + used / c.slotBillets) % c.slots
    filled := c.filled + c.pubs - used / c.slotBillets
    headUsed := used % c.slotBillets
    pubs := 0, takes := 0 }

/-- Slots that the producer finds taken (R180). -/
def Carousel.full (c : Carousel) : Nat := c.filled + c.pubs
/-- Slot that the producer fills next. -/
def Carousel.nextSlot (c : Carousel) : Nat := (c.tail + c.pubs) % c.slots

/-- Reads of a ring that wait for their grant. -/
def Tile.carWaits (x : Tile) (k : Nat) : Nat := (x.reqs.filter (fun r => r.car = some k)).length

/-- Published billets of a ring that its consumer has not asked for (R179, R180). -/
def Tile.carReady (x : Tile) (k : Nat) : Nat :=
  match x.car k with
  | some c => c.filled * c.slotBillets - (c.headUsed + c.takes + x.carWaits k)
  | none => 0

/-- Slice index of the next billet of a ring to be asked for. -/
def Tile.carNext (x : Tile) (k : Nat) (c : Carousel) : Nat :=
  c.place.2 + (c.head * c.slotBillets + c.headUsed + c.takes + x.carWaits k) % (c.slots * c.slotBillets)

/-- Presents a read of the next billet of a ring. -/
def Tile.postRing (x : Tile) (cycle k : Nat) (e : MapEntry) (who : Requester) (dst : ReqDst) : Tile :=
  match x.car k with
  | some c => x.post cycle { who := who, store := c.place.1, bil := e.base c.place.1 + x.carNext k c, dst := dst, car := some k }
  | none => x

/-! ### The banks of a cycle, and the share of the DMA/carousel engine (R48, R64, R174) -/

/-- A bank can grant in this cycle: one access a cycle, a far bank one every 2 cycles (R48). -/
def Tile.bankFree (x : Tile) (cycle b : Nat) : Bool :=
  let l := (x.bank b).lastGrant
  if 64 ≤ b && b < 88 then l = 0 || l + 1 ≤ cycle else decide (l ≤ cycle)

/-- A request is ready: it is not held, and no older read of its ring is before it. -/
def Tile.ready (x : Tile) (r : BankReq) : Bool := !x.reqHeld r && !x.ringBefore r

/-- Part of the DMA/carousel engine that a request belongs to: the exchange unit, the channel unit, its commands (R174). -/
def BankReq.part (r : BankReq) : Nat :=
  match r.dst with
  | .send _ _ => 0
  | .recv _ _ => 0
  | .chan _ => 1
  | .chSrc _ _ => 1
  | _ => 2

/-- The engine has moved a billet in that direction in this cycle (R174). -/
def Tile.dmaUsed (x : Tile) (cycle : Nat) (wr : Bool) : Bool := x.dmaBus.1 = cycle && (if wr then x.dmaBus.2.2 else x.dmaBus.2.1)

/-- Requests of the engine in one direction that their banks could grant in this cycle. -/
def Tile.dmaReady (x : Tile) (cycle : Nat) (wr : Bool) : List BankReq :=
  x.reqs.filter (fun r => r.who = .dma && r.wr.isSome = wr && x.ready r && x.bankFree cycle r.bank)

/-- BANK_CONFLICT counter of a requester; the four feeders share one, and cycles lost at the instruction memory count for the DMA/carousel engine (R49, R64). -/
def conflictId (w : Requester) : Nat := 0x11 + (whoRank w - 3)

/-- The exchange unit has a plan entry to read, up to 256 ahead, that no range entry holds (R55, R211). -/
def Tile.planReady (x : Tile) : Bool :=
  match x.run.bind x.entry, x.exch.plan with
  | some e, some pos =>
    !x.stopped && decide (x.exch.read < x.exch.entries) && decide (x.exch.read < x.exch.next + 256)
      && !x.inRange none .imem (2 * e.imBase + (pos + 1 + x.exch.read) / 32)
  | _, _ => false

/-- A plan entry can be read in this cycle: the billet port of the instruction memory is free, owes no write-back and no request that has lost 16 cycles, and the engine has read nothing yet (R45, R49, R64, R174). -/
def Tile.planTurn (x : Tile) (cycle : Nat) : Bool :=
  x.planReady && x.bankFree cycle 88 && (x.bank 88).writeback = [] && !x.dmaUsed cycle false
    && x.reqs.all (fun r => r.bank ≠ 88 || !x.ready r || decide (r.lost < 16))

/-- A plan entry is read: the billet port and the engine's read of this cycle are taken, what waits at the port loses a cycle, and the conflicts count for the engine (R64, R174). -/
def Tile.planGrant (x : Tile) (cycle : Nat) : Tile :=
  let parts := (List.range 3).filter (fun p => p ≠ 0 && (x.dmaReady cycle false).any (fun q => q.part = p))
  let lost := parts.length + b2n ((x.dmaReady cycle true).any (fun q => q.bank = 88))
  let y := x.count x.run (conflictId .dma) lost
  { y.setBank 88 { y.bank 88 with lastGrant := cycle + 1, lastWho := some .dma } with
    reqs := y.reqs.map (fun r => if r.bank = 88 && x.ready r then { r with lost := r.lost + 1 } else r)
    dmaBus := (cycle, true, x.dmaUsed cycle true) }

/-! ### The core (R34 to R40) -/

/-- What a tile's core acts for: slot, map entry, context number. None when no context runs there, it has stopped, the tile cannot act, or the core is stalled on something `ok` does not let through. -/
def coreIssue (s : State) (t : Nat) (ok : Stall → Bool) : Option (Nat × MapEntry) :=
  let x := s.tile t
  match x.run with
  | none => none
  | some slot =>
    match x.entry slot with
    | none => none
    | some e => if s.tileActs t && !x.stopped && ok x.stall then some (slot, e) else none

/-- The core is free to issue an instruction. -/
def freeCore (st : Stall) : Bool := st = .none

/-- Core state that CORE_STATE shows for a stall (R65). -/
def stallCode : Stall → Nat
  | .none => 1
  | .queueFull _ => 2
  | .barrier => 3
  | .exchange => 3
  | _ => 1

/-- Stalls the core, or lets it run. -/
def Tile.setStall (x : Tile) (st : Stall) : Tile := { x with stall := st, coreSt := stallCode st }

/-- SCALAR_LOAD (R40): one aligned doubleword of a billet of the slice; the core waits for it. -/
def execScalarLoad (t : TileId) (rd : Fin 32) (bil : BitVec 16) (off : Nat) (s : State) : Host.Outcome State Fault Refusal :=
  .next <|
    match coreIssue s t freeCore with
    | none => s
    | some (slot, e) =>
      if off % 8 ≠ 0 then ctxFault t e.ctx 0x01 0x03 s
      else if 512 ≤ off then ctxFault t e.ctx 0x01 0x05 s
      else
        match e.resolve bil.toNat 1 with
        | .error c => ctxFault t e.ctx 0x01 c s
        | .ok (st, i) => (postRead t .core st i (.coreReg slot rd (off / 8)) s).modTile t (·.setStall .load)

/-- SCALAR_STORE (R40, R59): 8 bytes of a register to a billet of the slice, through the merge buffer. -/
def execScalarStore (t : TileId) (rs : Fin 32) (bil : BitVec 16) (off : Nat) (s : State) : Host.Outcome State Fault Refusal :=
  .next <|
    match coreIssue s t freeCore with
    | none => s
    | some (slot, e) =>
      if off % 8 ≠ 0 then ctxFault t e.ctx 0x01 0x03 s
      else if 512 < off + 8 then ctxFault t e.ctx 0x01 0x05 s
      else
        match e.resolve bil.toNat 1 with
        | .error c => ctxFault t e.ctx 0x01 c s
        | .ok (st, i) => queueMerge t st i off (natLe 8 ((s.tile t).reg slot rs).toNat) .core s

/-- The bank owes the write-back of a corrected billet (R45). -/
def Tile.oweBack (x : Tile) (b bil : Nat) : Tile :=
  let k := x.bank b
  if k.writeback.contains bil then x else x.setBank b { k with writeback := k.writeback ++ [bil] }

/-- A read of the instruction memory with its check: a corrected billet waits to be written back (R45, R64). -/
def imemEcc (t bil : Nat) (ecc : Check) (s : State) : Option State × State :=
  match tileEcc t ecc s with
  | (some s1, _) =>
    let s2 := if ecc = .corrected then s1.modTile t (·.oweBack 88 bil) else s1
    (some s2, s2)
  | (none, s1) => (none, s1)

/-- INSTRUCTION_FETCH (R64): the instruction at the program counter, or at a taken branch's target; a fetch outside the instruction slice or at or beyond the end of the code stops the context. `mapOk` is the complement check of the map entry that the fetch reads (R277, R411). -/
def execInstructionFetch (t : TileId) (target : Option Nat) (mapOk : Bool) (ecc : Ecc) (s : State) : Host.Outcome State Fault Refusal :=
  .next <|
    match coreIssue s t freeCore with
    | none => s
    | some (slot, e) =>
      if !mapOk then ctxFault t e.ctx 0x01 0x18 s
      else
        let pc := target.getD ((sgetD (s.tile t).banks slot {}).pc)
        if 1024 * e.imSize ≤ 4 * pc || e.codeLen ≤ 4 * pc then ctxFault t e.ctx 0x01 0x05 s
        else
          match imemEcc t (2 * e.imBase + pc / 128) (checkOf ecc) s with
          | (none, s') => s'
          | (some s1, _) =>
            let w := leNat (memRead (s1.tile t).store (storeOff .imem + 1024 * e.imBase + 4 * pc) 4)
            s1.modTile t (fun x => { x with
              fetched := BitVec.ofNat 32 w
              coreSlot := slot
              banks := smod x.banks slot {} (fun b => { b with pc := pc + 1 }) })

end Sys2Proof.Machine
end

