-- ==== Sys2Proof/Machine/Exchange.lean ====
section
/-! DEFINITION. The exchange unit of a tile: plans, sends and receives (08_mesh_and_exchange.md R207 to R220). -/

namespace Sys2Proof.Machine

/-! ### Plan header and entries (R208 to R210) -/

/-- Field of a plan entry: `len` bits from bit `lo` of byte `byte` on. -/
def pf (e : BitVec 128) (byte lo len : Nat) : Nat := bf e.toNat (8 * byte + lo) len

def PlanEnt.cycle (e : PlanEnt) : Nat := pf e.raw 0 0 24
def PlanEnt.kind (e : PlanEnt) : Nat := pf e.raw 3 0 4
def PlanEnt.billet (e : PlanEnt) : Nat := pf e.raw 4 0 16
def PlanEnt.count (e : PlanEnt) : Nat := pf e.raw 6 0 8
def PlanEnt.peerX (e : PlanEnt) : Nat := pf e.raw 7 0 6
def PlanEnt.peerY (e : PlanEnt) : Nat := pf e.raw 8 0 5
def PlanEnt.dir (e : PlanEnt) : Nat := pf e.raw 9 0 2
def PlanEnt.addId (e : PlanEnt) : Nat := pf e.raw 10 0 8
def PlanEnt.addVal (e : PlanEnt) : Nat := pf e.raw 11 0 8
def PlanEnt.tag (e : PlanEnt) : Nat := pf e.raw 12 0 16
def PlanEnt.reach (e : PlanEnt) : Nat := pf e.raw 14 0 6

/-- SEND, PARCEL_SEND or CORD_SEND. -/
def PlanEnt.sends (e : PlanEnt) : Bool := e.kind = 1 || e.kind = 3 || e.kind = 5
/-- RECV, PARCEL_RECV or CORD_RECV. -/
def PlanEnt.recvs (e : PlanEnt) : Bool := e.kind = 2 || e.kind = 4 || e.kind = 6

/-- Tile at partition-relative coordinates. -/
def Ctx.tileAt (c : Ctx) (x y : Nat) : Nat := Machine.tileAt (4 * c.px + x) (4 * c.py + y)

/-- Absolute tile of a partition-relative number (R338). -/
def Ctx.relTile (c : Ctx) (m : Nat) : Nat := Machine.tileAt (4 * c.px + m % (4 * c.pw)) (4 * c.py + m / (4 * c.pw))

/-- Tiles from a tile to the edge of the partition in a direction: 0 east, 1 west, 2 north, 3 south. -/
def Ctx.room (c : Ctx) (t dir : Nat) : Nat :=
  if dir = 0 then 4 * (c.px + c.pw) - 1 - tileX t
  else if dir = 1 then tileX t - 4 * c.px
  else if dir = 2 then 4 * (c.py + c.ph) - 1 - tileY t
  else tileY t - 4 * c.py

/-- The tile `n` places along a direction. -/
def along (t dir n : Nat) : Nat :=
  if dir = 0 then t + n else if dir = 1 then t - n else if dir = 2 then t + 48 * n else t - 48 * n

/-- Bytes of an instruction slice. -/
def imemBytes (x : Tile) (e : MapEntry) (off n : Nat) : List Byte := memRead x.store (storeOff .imem + 1024 * e.imBase + off) n

/-- EXCH_SELECT (R207, R208, R211): names the plan of the coming exchange phase by its position in the instruction slice in 16-byte units, and validates its header. -/
def execExchSelect (t : TileId) (pos : Nat) (ecc : Check) (s : State) : Host.Outcome State Fault Refusal :=
  .next <|
    match coreIssue s t freeCore with
    | none => s
    | some (_, e) =>
      let size := 1024 * e.imSize
      if size < 16 * pos + 16 then ctxFault t e.ctx 0x08 0x05 s
      else
        match imemEcc t (2 * e.imBase + pos / 32) ecc s with
        | (none, s') => s'
        | (some s1, _) =>
          let h := imemBytes (s.tile t) e (16 * pos) 16
          let n := bytesAt h 0 2
          let bad := pickCode
            [ (bytesAt h 3 9 ≠ 0 || bytesAt h 14 2 ≠ 0 || bytesAt h 12 2 = 0xFFFF, 0x01)
            , (size < 16 * (pos + 1 + n), 0x05)
            , (n = 0 || 8191 < n || !((s.ctx e.ctx).any (fun c => c.table = bytesAt h 2 1)), 0x02) ]
          match bad with
          | some c => ctxFault t e.ctx 0x08 c s1
          | none => s1.modTile t (fun x => { x with exch := { x.exch with
              plan := some pos, planId := bytesAt h 12 2, entries := n, next := 0, read := 0, ents := [], ended := false, holding := none } })

/-- Fields of an entry that its KIND does not use, or reserved ones, are nonzero (R209). -/
def PlanEnt.unused (e : PlanEnt) : Bool :=
  let f := pf e.raw
  let k := e.kind
  f 3 4 4 ≠ 0 || f 7 6 2 ≠ 0 || f 8 5 3 ≠ 0 || f 9 2 6 ≠ 0 || f 14 6 2 ≠ 0 || f 15 0 8 ≠ 0 ||
  (k = 7 && f 4 0 96 ≠ 0) ||
  (k ≠ 3 && (e.dir ≠ 0 || e.reach ≠ 0)) ||
  (k = 3 && e.peerX ≠ 0) ||
  ((k = 3 || k = 5 || k = 6) && e.peerY ≠ 0) ||
  ((k = 5 || k = 6) && 32 ≤ e.peerX)

/-- The checks of a plan entry when it is read (R211, R212, R451). -/
def entryChecks (s : State) (t : Nat) (m : MapEntry) (c : Ctx) (prev : Option PlanEnt) (total : Nat) (e : PlanEnt) : List (Bool × Nat) :=
  let k := e.kind
  let peer := c.tileAt e.peerX e.peerY
  let inside := e.peerX < 4 * c.pw && e.peerY < 4 * c.ph
  let mesh := k = 1 || k = 2 || k = 4
  [ (k = 0 || 8 ≤ k || e.unused, 0x01)
  , (k ≠ 7 && (bilOf e.billet).isNone, 0x01)
  , (k ≠ 7 && e.count = 0xFF, 0x04)
  , (k ≠ 7 && (match m.resolve e.billet e.count with | .ok _ => false | .error _ => true), 0x05)
  , (mesh && !inside, 0x06)
  , (mesh && peer = t, 0x06)
  , (k = 4 && tileX peer ≠ tileX t && tileY peer ≠ tileY t, 0x06)
  , (k = 3 && c.room t e.dir < e.reach, 0x06)
  , (k ≠ 7 && e.addVal ≠ 0 && m.ctrSize ≤ e.addId, 0x06)
  , ((k = 5 || k = 6) && !(s.linkExists e.peerX && c.permits e.peerX), 0x06)
  , (k ≠ 7 && 64 < e.count, 0x02)
  , (prev.any (fun p => e.cycle < p.cycle), 0x02)
  , (k = 3 && (e.reach = 0 || 47 < e.reach), 0x02)
  , ((k = 7) ≠ (e.idx + 1 = total), 0x02)
  , ((k = 5 || k = 6) && !bit c.features 4, 0x07) ]

/-- What the exchange unit of a tile works for: what it has started of a context that has stopped there goes on (R413). -/
def exchRun (s : State) (t : Nat) : Option (Nat × MapEntry × Ctx) :=
  let x := s.tile t
  match x.run with
  | none => none
  | some slot =>
    match x.entry slot with
    | none => none
    | some e => if s.tileActs t then (s.ctx e.ctx).map (fun c => (slot, e, c)) else none

/-- What the exchange unit of a tile starts further entries for. -/
def exchCtx (s : State) (t : Nat) : Option (Nat × MapEntry × Ctx) := if (s.tile t).stopped then none else exchRun s t

/-- PLAN_ENTRY_READ (R64, R174, R211): the next entry of the selected plan, up to 256 ahead, is read through the billet port, which serves it first, and validated. -/
def execPlanEntryRead (t : TileId) (ecc : Check) (s : State) : Host.Outcome State Fault Refusal :=
  .next <|
    match exchCtx s t, (s.tile t).exch.plan with
    | some (_, e, c), some pos =>
      let x := s.tile t
      let n := x.exch.read
      if !x.planTurn (s.tileCycle t) then s
      else
        match imemEcc t (2 * e.imBase + (pos + 1 + n) / 32) ecc (s.modTile t (·.planGrant (s.tileCycle t))) with
        | (none, s') => s'
        | (some s1, _) =>
          let p : PlanEnt := { idx := n, raw := BitVec.ofNat 128 (leNat (imemBytes x e (16 * (pos + 1 + n)) 16)) }
          match pickCode (entryChecks s t e c x.exch.ents.getLast? x.exch.entries p) with
          | some k => ctxFault t e.ctx 0x08 k s1
          | none => s1.modTile t (fun x => { x with exch := { x.exch with read := n + 1, ents := x.exch.ents ++ [p] } })
    | _, _ => s

/-! ### Sends (R213, R218, R220) -/

def Tile.modEnt (x : Tile) (n : Nat) (f : PlanEnt → PlanEnt) : Tile :=
  { x with exch := { x.exch with ents := x.exch.ents.map (fun e => if e.idx = n then f e else e) } }
def Tile.ent (x : Tile) (n : Nat) : Option PlanEnt := x.exch.ents.find? (fun e => e.idx = n)

/-- Billets of a send that have left the send buffer. -/
def PlanEnt.left (e : PlanEnt) : Nat := if e.kind = 5 then e.sent else e.sent / 8

/-- Free places of the send buffer of 8 billets. -/
def Tile.sendRoom (x : Tile) : Nat := 8 - ((x.exch.ents.filter (·.sends)).map (fun e => e.asked - e.left)).sum

/-- Asks for the next billets of a send, as far as the send buffer has room. -/
def readAhead (t n : Nat) (m : MapEntry) (s : State) : State :=
  let x := s.tile t
  match x.ent n with
  | none => s
  | some e =>
    match m.resolve e.billet e.count with
    | .error _ => s
    | .ok (st, i) =>
      let k := min x.sendRoom (e.count - e.asked)
      forAll (List.range k) (fun j s => postRead t .dma st (i + e.asked + j) (.send n (e.asked + j)) s)
        (s.modTile t (·.modEnt n (fun e => { e with asked := e.asked + k })))

/-- Flit `f` of a send, out of the bytes of its billet. -/
def sendFlit (t : Nat) (c : Ctx) (ctx : Nat) (e : PlanEnt) (f : Nat) (bs : List Byte) : Flit :=
  { vn := .s, src := t, ctx := ctx, tag := e.tag, idx := f, cyc := e.cycle
    dst := if e.kind = 3 then along t e.dir e.reach else c.tileAt e.peerX e.peerY
    parcel := if e.kind = 3 then some e.dir else none
    bytes := (bs.drop (64 * (f % 8))).take 64 }

/-- A flit of a send enters the local port, which takes one a cycle while its VN-S buffer has a place; one for a tile that is not lit is refused (R195, R198, R213). -/
def enterFlit (t ctx n : Nat) (f : Flit) (s : State) : State :=
  let x := s.tile t
  match sendRefusal s f.dst with
  | some code => ctxFault t ctx 0x08 code s
  | none =>
    if x.exch.portEnt.isSome || 8 ≤ (x.router.buf 4 .s).length then s
    else
      let y := x.modEnt n (fun e => { e with sent := e.sent + 1, buf := if e.sent % 8 = 7 then e.buf.filter (fun p => p.1 ≠ e.sent / 8) else e.buf })
      s.setTile t { y with
        exch := { y.exch with portEnt := some n }
        router := { y.router with bufs := sset y.router.bufs (bufKey 4 .s) (y.router.buf 4 .s ++ [f]) } }

/-- Sends what a due send has in the send buffer, in billet order, and asks for more: a flit a cycle into the local port, or whole billets to a cord; `fuel` bounds these. A CORD_SEND to a link that carries no traffic is dropped and completes (R339); a replay writes it to its output (R397). -/
def pumpSend : Nat → Nat → Nat → Nat → MapEntry → Ctx → State → State
  | 0, _, _, _, _, _, s => s
  | fuel + 1, t, n, ctx, m, c, s =>
    let s0 := readAhead t n m s
    match (s0.tile t).ent n with
    | none => s0
    | some e =>
      let k := e.left
      if e.count ≤ k then s0
      else
        match e.buf.find? (fun p => p.1 = k) with
        | none => s0
        | some (_, bs) =>
          let drop := fun (x : Nat) (s : State) => s.modTile t (·.modEnt n (fun e => { e with sent := x, buf := e.buf.filter (fun p => p.1 ≠ k) }))
          if e.kind = 5 then
            let l := e.peerX
            if s0.replays ctx then pumpSend fuel t n ctx m c (drop (k + 1) (replayOutput t 3 bs s0))
            else if !(s0.link l).carries then
              drop e.count (s0.modLink l (fun q => { q with dropped := satAdd 32 q.dropped 1 }))
            else if (s0.link l).canSend (if e.tag / 2048 = 31 then 1 else 0) then
              pumpSend fuel t n ctx m c (drop (k + 1) (sendFrame l (if e.tag / 2048 = 31 then 1 else 0) ctx e.tag bs (countVn t ctx .q 8 s0)))
            else s0
          else readAhead t n m (enterFlit t ctx n (sendFlit t c ctx e e.sent bs) s0)

/-- Sends due on a tile go on in entry order: one that is not fully injected holds those behind it (R213). -/
def pumpSends (t : Nat) (s : State) : State :=
  match exchRun s t with
  | none => s
  | some (_, m, c) =>
    let go := fun (e : PlanEnt) (acc : Bool × State) =>
      if acc.1 then acc
      else
        let s1 := pumpSend 65 t e.idx m.ctx m c acc.2
        (((s1.tile t).ent e.idx).any (fun e => e.left < e.count), s1)
    (((s.tile t).exch.ents.filter (fun e => e.sends && e.due && !e.done)).foldl (fun acc e => go e acc) (false, s)).2

/-- SEND_READ_AHEAD (R213): 24 cycles before its CYCLE a send starts to read its billets into the send buffer, behind the reads of the sends before it. -/
def execSendReadAhead (t : TileId) (n : Nat) (s : State) : Host.Outcome State Fault Refusal :=
  .next <|
    let x := s.tile t
    match exchCtx s t, x.ent n with
    | some (_, m, _), some e =>
      let before := x.exch.ents.all (fun f => n ≤ f.idx || !f.sends || f.asked = f.count)
      if x.exch.phase = 2 && e.sends && !e.done && e.asked = 0 && before && e.cycle ≤ x.exch.offset + 24 then readAhead t n m s
      else s
    | _, _ => s

/-- An entry completes and posts its add (R213, R214). -/
def entryDone (t slot ctx : Nat) (e : PlanEnt) (s : State) : State :=
  postAdd t ctx slot e.addId e.addVal (s.modTile t (·.modEnt e.idx (fun e => { e with done := true })))

/-- PLAN_ENTRY_DUE (R213, R216, R206): the plan offset has reached the CYCLE of the next entry. A send begins to inject; a receive that is not complete holds the plan offset; END ends the plan; a COUNT of 0 completes at once (R415). The check is that of the send buffer (R409). -/
def execPlanEntryDue (site : Site) (s : State) : Host.Outcome State Fault Refusal :=
  .next <|
    let t := site.val
    let x := s.tile t
    match exchCtx s t, x.ent x.exch.next with
    | some (slot, m, _), some e =>
      if x.exch.phase ≠ 2 || x.exch.holding.isSome || x.exch.offset < e.cycle then s
      else
        let s1 := s.modTile t (fun x =>
          let y := x.modEnt e.idx (fun e => { e with due := true })
          { y with exch := { y.exch with next := e.idx + 1, ended := y.exch.ended || e.kind = 7 } })
        if e.kind = 7 then s1
        else if e.count = 0 then entryDone t slot m.ctx e s1
        else if e.sends then
          match tileEcc t site.ecc s1 with
          | (none, s') => s'
          | (some s2, _) => pumpSends t s2
        else if e.done then s1
        else s1.modTile t (fun x => { x with exch := { x.exch with
          holding := some e.idx, lastEntry := e.idx, lastCord := e.kind = 6, lastCycles := 0 } })
    | _, _ => s

/-- Sends that have injected their last flit complete (R206, R213). -/
def finishSends (t : Nat) (s : State) : State :=
  match exchRun s t with
  | none => s
  | some (slot, m, _) =>
    forAll ((s.tile t).exch.ents.filter (fun e => e.sends && e.due && !e.done && decide (e.left = e.count))) (fun e s => entryDone t slot m.ctx e s) s

/-- SEND_COMPLETE (R213, R220): the last flit of a send has entered the local port, or its last billet has been taken by its link. -/
def execSendComplete (t : TileId) (n : Nat) (s : State) : Host.Outcome State Fault Refusal :=
  .next <|
    let x := s.tile t
    match exchRun s t, x.ent n with
    | some (slot, m, _), some e =>
      if e.sends && e.due && !e.done && e.left = e.count then entryDone t slot m.ctx e s else s
    | _, _ => s

/-! ### Receives (R214 to R216, R219, R220) -/

/-- Stores what arrived for billet `k` of an entry. -/
def receiveBillet (t : Nat) (m : MapEntry) (e : PlanEnt) (k : Nat) (bs : List Byte) (s : State) : State :=
  match m.resolve e.billet e.count with
  | .error _ => s
  | .ok (st, i) => postWrite t .dma st (i + k) bs (.recv e.idx k) s

/-- The entry that takes a VN-S flit. -/
def matchFlit (x : Tile) (c : Ctx) (f : Flit) : Option PlanEnt :=
  x.exch.ents.find? (fun e =>
    e.kind = (if f.parcel.isSome then 4 else 2) && !e.done && c.tileAt e.peerX e.peerY = f.src && e.tag = f.tag
      && decide (f.idx < 8 * e.count) && !e.seen.contains f.idx)

/-- The frames of plan data on a link whose MATCH names this tile of the context (R338). -/
def tileFrames (s : State) (t ctx : Nat) (c : Ctx) (l : Nat) : List CordFrame :=
  (s.link l).rxQ.filter (fun f => f.cls = 0 && f.ctx = ctx && c.relTile (f.tag % 2048) = t)

/-- The CORD_RECV entry that takes a frame of a link (R215, R220). -/
def frameEntry (x : Tile) (l : Nat) (f : CordFrame) : Option PlanEnt :=
  x.exch.ents.find? (fun e => e.kind = 6 && !e.done && e.peerX = l && e.tag = f.tag && decide (e.seen.length < e.count))

/-- The oldest frame for a tile that a CORD_RECV entry can take, with its link; one that none can take holds no other. -/
def matchFrame (s : State) (t : Nat) (m : MapEntry) (c : Ctx) : Option (Nat × CordFrame × PlanEnt) :=
  (List.range 32).findSome? (fun l => (tileFrames s t m.ctx c l).findSome? (fun f => (frameEntry (s.tile t) l f).map (fun e => (l, f, e))))

/-- A billet of a cord waits for an entry that takes it (R215). -/
def State.cordHeld (s : State) (t : Nat) : Bool :=
  match exchRun s t with
  | none => false
  | some (_, m, c) =>
    if (s.tile t).exch.phase ≠ 2 then false
    else s.links.any (fun p => (tileFrames s t m.ctx c p.1).any (fun f => (frameEntry (s.tile t) p.1 f).isNone))

/-- One billet of a cord frame is taken; the frame goes when it is used up, and its credit returns to the partner, which has had that of a frame kept over a training (R334, R335). -/
def popFrame (l : Nat) (f : CordFrame) (s : State) : State :=
  let rest := f.bytes.drop 512
  let s1 := s.modLink l (fun k => { k with
    rxQ := if rest = [] then k.rxQ.erase f else k.rxQ.replace f { f with bytes := rest }
    granted := if rest = [] && !f.kept then smod k.granted f.cls 0 (· - 1) else k.granted })
  if rest = [] && !f.kept then sendWord l 0x03 f.cls 1 s1 else s1

/-- A billet from a cord goes to its entry. -/
def cordBillet (t : Nat) (m : MapEntry) (e : PlanEnt) (bs : List Byte) (s : State) : State :=
  let k := e.seen.length
  receiveBillet t m e k bs (captureArrival m.ctx t 5 bs ((countVn t m.ctx .p 8 s).modTile t (·.modEnt e.idx (fun e => { e with seen := e.seen ++ [k] }))))

/-- Takes one billet that waits on a cord for a tile; a replay takes the recorded one. -/
def takeCord (t : Nat) (s : State) : State :=
  match exchRun s t with
  | none => s
  | some (_, m, c) =>
    if s.replays m.ctx then
      match (s.tile t).exch.ents.find? (fun e => e.kind = 6 && !e.done && decide (e.seen.length < e.count)) with
      | none => s
      | some e =>
        match takeArrival m.ctx t 5 s with
        | (some bs, s1) => cordBillet t m e bs s1
        | (none, s1) => s1
    else
      match matchFrame s t m c with
      | none => s
      | some (l, f, e) => popFrame l f (cordBillet t m e (f.bytes.take 512) s)

/-- FLIT_ARRIVAL (R215): the head of the delivery buffer goes to the first receive entry that matches it, and the eighth flit of a billet has it written; a head that matches none is held. With an empty buffer the tile takes a billet that waits on a cord link. -/
def execFlitArrival (t : TileId) (s : State) : Host.Outcome State Fault Refusal :=
  .next <|
    let x := s.tile t
    match exchRun s t with
    | none => s
    | some (_, m, c) =>
      match x.exch.deliver with
      | [] => takeCord t s
      | f :: r =>
        match matchFlit x c f with
        | none => takeCord t (s.setTile t { x with exch := { x.exch with heldArr := true } })
        | some e =>
          let k := f.idx / 8
          let got := e.got ++ [(f.idx, f.bytes)]
          let mine := got.filter (fun p => p.1 / 8 = k)
          let whole := mine.length = 8
          let bs := (List.range 8).flatMap (fun j => ((mine.find? (fun p => p.1 = 8 * k + j)).map (·.2)).getD [])
          let y := ({ x with exch := { x.exch with deliver := r, heldArr := false } }).modEnt e.idx (fun e => { e with
            seen := e.seen ++ [f.idx]
            got := if whole then got.filter (fun p => p.1 / 8 ≠ k) else got })
          if whole then receiveBillet t m e k bs (s.setTile t y) else s.setTile t y

/-- RECEIVE_COMPLETE (R214, R216): the last billet has been written and the add is posted. A plan offset that the receive held goes on with the next cycle. -/
def execReceiveComplete (t : TileId) (n : Nat) (s : State) : Host.Outcome State Fault Refusal :=
  .next <|
    let x := s.tile t
    match exchRun s t, x.ent n with
    | some (slot, m, _), some e =>
      if e.recvs && !e.done && 0 < e.count && e.wrote = e.count then
        entryDone t slot m.ctx e s
      else s
    | _, _ => s

end Sys2Proof.Machine
end

