-- ==== Sys2Proof/Machine/Dma.lean ====
section
/-! DEFINITION. The DMA/carousel engine, the gather unit and the kindling path (07_carousels_and_streams.md R168 to R193), with the HBM controllers they reach (R174, R175, R263, R308). -/

namespace Sys2Proof.Machine

/-! ### HBM controllers -/

/-- A range is held by a bucket round in progress (R263). -/
def State.bucketHeld (s : State) (a n : Nat) : Bool :=
  s.buckets.any (fun p => p.2.st = .running && p.2.ranges.any (fun r => rangesMeet a n r.1 r.2))

/-- A request reaches a stack: its time counts for R308, and a banked stack starts to wake (R177). -/
def touchStack (k : Nat) (s : State) : State :=
  s.modStack k (fun q => { q with
    lastReq := s.us
    st := if q.st = .banked && !s.stackFenced k && !s.pins.thermLatch then .waking else q.st })

/-- Touches every stack of a range. -/
def touchRange (a n : Nat) (s : State) : State := forAll (s.stacksOf a n) touchStack s

/-- A stack answers: it is active and not fenced. -/
def State.stackReady (s : State) (k : Nat) : Bool := (s.stack k).st = .active && !s.stackFenced k

/-- Line requests of a range to stacks of another die (R24). -/
def remoteLines (s : State) (t a n : Nat) : Nat :=
  ((pieces s.granule (n / 2 ^ s.granule + 2) a n).map (fun p =>
    if dieOfStack (s.stackOf p.1) = dieOf t then 0 else linesOf p.1 p.2)).sum

/-- Bytes charged for the pieces of a part of a range, as start and length, that begin in the `n` bytes from `a` on (R188). -/
def chargeStarts (g : Nat) (part : Nat × Nat) (a n : Nat) : Nat :=
  ((pieces g (n / 2 ^ g + 2) a n).map (fun p =>
    if p.1 = part.1 || p.1 % 2 ^ g = 0 then max 2048 (min (2 ^ g - p.1 % 2 ^ g) (part.1 + part.2 - p.1)) else 0)).sum

/-! ### The DMA command (R168 to R173) -/

def dOp (c : BitVec 256) : Nat := cf c 8 0 4
def dTranspose (c : BitVec 256) : Bool := bit c.toNat 68
def dWidth (c : BitVec 256) : Nat := cf c 8 5 2
def dCar (c : BitVec 256) : Nat := cf c 8 8 4
def dLength (c : BitVec 256) : Nat := cf c 8 12 20
def dHbm (c : BitVec 256) : Nat := cf c 12 0 48
def dStore (c : BitVec 256) : Nat := cf c 18 0 16
def dRowBillets (c : BitVec 256) : Nat := cf c 20 0 16
def dRowUnits (c : BitVec 256) : Nat := cf c 20 0 10
def dSlotBillets (c : BitVec 256) : Nat := cf c 20 0 7
def dSlots (c : BitVec 256) : Nat := cf c 20 8 4
def dStride (c : BitVec 256) : Int := (BitVec.ofNat 32 (cf c 22 0 32)).toInt
def dRows (c : BitVec 256) : Nat := cf c 22 0 32
def dIndexCar (c : BitVec 256) : Nat := cf c 26 0 4
def dSlotAddId (c : BitVec 256) : Nat := cf c 28 0 8
def dSlotAddVal (c : BitVec 256) : Nat := cf c 29 0 8

/-- Billets of a 64 × 64 block by T_WIDTH (R171). -/
def blockBillets (w : Nat) : Nat := if w = 0 then 8 else if w = 1 then 6 else if w = 2 then 4 else 16

/-- A field that the OP does not use is nonzero (R168). -/
def dUnused (c : BitVec 256) : Bool :=
  let tr := cf c 8 4 3 ≠ 0
  let car := dCar c ≠ 0
  let len := dLength c ≠ 0
  let hbm := dHbm c ≠ 0
  let st := dStore c ≠ 0
  let row := cf c 20 0 16 ≠ 0
  let stride := cf c 22 0 32 ≠ 0
  let idx := cf c 26 0 4 ≠ 0
  let add := cf c 28 0 16 ≠ 0
  match dOp c with
  | 1 => car || idx || add
  | 2 => tr || car || idx || add
  | 3 => st || idx
  | 4 => tr || st || cf c 20 10 6 ≠ 0
  | 5 => tr || hbm || row || stride || idx || add
  | 6 => tr || len || hbm || stride || idx || add || cf c 20 7 1 ≠ 0 || cf c 20 12 4 ≠ 0
  | _ => tr || len || hbm || st || row || stride || idx || add

/-- The checks of a DMA command at enqueue (R173, R451). -/
def dmaChecks (e : MapEntry) (c : BitVec 256) : List (Bool × Nat) :=
  let op := dOp c
  let l := dLength c
  let rows := op = 1 || op = 2 || op = 3
  syncChecks e.ctrSize c ++
  [ (op = 0 || 8 ≤ op, 0x01)
  , (cf c 8 7 1 ≠ 0 || cf c 26 4 12 ≠ 0 || cf c 30 0 16 ≠ 0 || dUnused c, 0x01)
  , ((op = 1 || op = 2 || op = 5 || op = 6) && (bilOf (dStore c)).isNone, 0x01)
  , ((rows || op = 4 || op = 5) && l = 0xFFFFF, 0x04)
  , ((rows || op = 4) && dHbm c % 512 ≠ 0, 0x03)
  , ((op = 3 || op = 4) && dSlotAddVal c ≠ 0 && e.ctrSize ≤ dSlotAddId c, 0x06)
  , (rows && dRowBillets c ≠ 0 && l % dRowBillets c ≠ 0, 0x02)
  , (dTranspose c && (l % blockBillets (dWidth c) ≠ 0 || dRowBillets c % blockBillets (dWidth c) ≠ 0), 0x02)
  , (op = 4 && (dRowUnits c = 0 || 512 < dRowUnits c || dRows c = 0 || dRows c = 0xFFFFFFFF || dIndexCar c = dCar c), 0x02)
  , (op = 6 && (dSlots c < 3 || dSlotBillets c = 0 || 64 < dSlotBillets c), 0x02) ]

/-- HBM address of billet `k` of a command's range, in rows when ROW_BILLETS is nonzero (R170). -/
def dmaAddr (c : BitVec 256) (k : Nat) : Int :=
  if dRowBillets c = 0 then dHbm c + 512 * k
  else dHbm c + (k / dRowBillets c : Nat) * dStride c * 512 + 512 * (k % dRowBillets c : Nat)

/-- The contiguous parts of a command's HBM range, as start and length (R170, R186). -/
def dmaParts (c : BitVec 256) : List (Int × Nat) :=
  if dOp c = 4 then [((dHbm c : Int), dRows c * dRowUnits c * 64)]
  else if dRowBillets c = 0 then [((dHbm c : Int), 512 * dLength c)]
  else (List.range (dLength c / dRowBillets c)).map (fun r => (dmaAddr c (r * dRowBillets c), 512 * dRowBillets c))

/-- Every byte of the range lies inside HBM and inside one aperture of the context (R172). -/
def rangeOk (k : Ctx) (ps : List (Int × Nat)) : Bool :=
  k.apertures.any (fun ap => ps.all (fun p =>
    decide ((ap.1 : Int) ≤ p.1) && decide (p.1 + p.2 ≤ ((ap.1 + ap.2 : Nat) : Int)) && decide (p.1 + p.2 ≤ (hbmBytes : Int))))

/-! ### Head of a queue -/

/-- What the head of an engine's queue can do: nothing yet, or go with its entry, its map entry and its context; a wait on a saturated counter is a fault (R157, R163). -/
inductive Head where
  | idle
  | saturated (ctx : Nat)
  | go (q : QEntry) (e : MapEntry) (c : Ctx)

/-- Looks at an entry that has not started. -/
def headEntry (s : State) (t : Nat) (q : Option QEntry) : Head :=
  match q with
  | none => .idle
  | some q =>
    if !s.tileActs t then .idle
    else
      match (s.tile t).entry q.slot, s.ctx q.ctx with
      | some e, some c =>
        if e.ctx ≠ q.ctx then .idle
        else if q.started then .go q e c
        else
          match (s.tile t).cmdWait e q.cmd with
          | .met => .go q e c
          | .unmet => .idle
          | .saturated => .saturated q.ctx
      | _, _ => .idle

/-- Entries of the DMA queue in use (R37): commands waiting and commands started. -/
def Tile.dmaUse (x : Tile) : Nat := x.dmaQ.length + (x.ops.filter (fun o => !o.host)).length

/-- Entry in the stream table that a started STREAM_IN or GATHER holds (R184). -/
def DmaOp.stream (o : DmaOp) : Bool := !o.host && (dOp o.cmd = 3 || dOp o.cmd = 4)
def Tile.streams (x : Tile) : List DmaOp := x.ops.filter (·.stream)

def Tile.op (x : Tile) (id : Nat) : Option DmaOp := x.ops.find? (fun o => o.id = id)
def Tile.modOp (x : Tile) (id : Nat) (f : DmaOp → DmaOp) : Tile :=
  { x with ops := x.ops.map (fun o => if o.id = id then f o else o) }
/-- A request belongs to a started command. -/
def ReqDst.ofOp : ReqDst → Nat → Bool
  | .dma o _, id => o = id
  | .index o _, id => o = id
  | _, _ => false

/-- A started command leaves: its range entry, its pending requests and its attachments go with it (R62, R177). -/
def Tile.dropOp (x : Tile) (id : Nat) : Tile :=
  { x.dropReqs (·.ofOp id) with
    ops := x.ops.filter (fun o => o.id ≠ id)
    ranges := x.ranges.filter (fun e => e.op ≠ id)
    cars := x.cars.map (fun p => (p.1, { p.2 with
      prod := if p.2.prod = some id then none else p.2.prod
      cons := if p.2.cons = some (.dma id) then none else p.2.cons })) }

/-- A started command as a queue entry, for its completion. -/
def DmaOp.entry (o : DmaOp) : QEntry :=
  { ctx := o.ctx, slot := o.slot, cmd := o.cmd, started := true, start := o.start, faulted := o.faulted }

/-- A DMA command is removed and completes (R175). -/
def finishOp (t : Nat) (o : DmaOp) (s : State) : State :=
  completeEntry t 2 o.entry (s.modTile t (·.dropOp o.id))

/-- Takes the head of the DMA queue. -/
def popDma (t : Nat) (s : State) : State := s.modTile t (fun x => { x with dmaQ := x.dmaQ.drop 1 })

/-- The head of the DMA queue starts as an operation. -/
def startOp (t : Nat) (q : QEntry) (o : DmaOp) (s : State) : State :=
  let s1 := startLatch t 2 q (popDma t s)
  s1.modTile t (fun x => { x with
    ops := x.ops ++ [{ o with id := x.nextOp, ctx := q.ctx, slot := q.slot, cmd := q.cmd, start := s.cycle, clk := s.tileCycle t }]
    nextOp := x.nextOp + 1 })

/-- The head of the DMA queue completes at once, as a no-op (R170, R183). -/
def noopDma (t : Nat) (q : QEntry) (s : State) : State :=
  let q' := startedEntry s t q
  completeEntry t 2 q' (startLatch t 2 q (popDma t s))

/-- The head of the DMA queue is refused at start (R173). -/
def refuseDma (t : Nat) (q : QEntry) (code : Nat) (s : State) : State := ctxFault t q.ctx 0x04 code (popDma t s)

/-- Refusal that an HBM range meets at start: outside the apertures, or on a fenced stack (R172, R177); a replay reaches no HBM and meets none (R397). -/
def hbmRefusal (s : State) (n : Nat) (k : Ctx) (c : BitVec 256) : Option Nat :=
  if s.replays n then none
  else if !rangeOk k (dmaParts c) then some 0x06
  else if (dmaParts c).any (fun p => (s.stacksOf p.1.toNat p.2).any (fun st => s.stackFenced st)) then some 0x09
  else none

/-! ### Slots and rings -/

/-- Ring a stream fills and its definition. -/
def Tile.opCar (x : Tile) (o : DmaOp) : Option (Nat × Carousel) :=
  let k := carKey o.slot (dCar o.cmd)
  (x.car k).map (fun c => (k, c))

/-- Rows of a data slot of a GATHER (R187). -/
def gatherRows (c : Carousel) (cmd : BitVec 256) : Nat := c.slotBillets * 512 / (dRowUnits cmd * 64)

/-- Slots a producer fills in all (R170, R187), as STREAM_STOP leaves it (R183). -/
def DmaOp.slotTotal (o : DmaOp) (c : Carousel) : Nat :=
  let n := if dOp o.cmd = 4 then ceilDiv (128 * dLength o.cmd) (gatherRows c o.cmd) else dLength o.cmd / c.slotBillets
  match o.stopAt with
  | some k => min k n
  | none => n

/-! ### Requests to HBM (R174, R177, R188) -/

/-- Billets that one request carries: a whole block when the command transposes, else one. -/
def DmaOp.unit (o : DmaOp) : Nat := if dTranspose o.cmd then blockBillets (dWidth o.cmd) else 1

/-- The part of a command's range that unit `k` lies in: its row, or the whole of a contiguous range (R170, R188). -/
def unitPart (o : DmaOp) (k : Nat) : Nat × Nat :=
  if dRowBillets o.cmd = 0 then (dHbm o.cmd, 512 * dLength o.cmd)
  else
    let r := o.unit * k / dRowBillets o.cmd
    ((dmaAddr o.cmd (r * dRowBillets o.cmd)).toNat, 512 * dRowBillets o.cmd)

/-- Address of the first byte of unit `k` of a command, and its length. -/
def unitRange (o : DmaOp) (k : Nat) : Nat × Nat := ((dmaAddr o.cmd (o.unit * k)).toNat, 512 * o.unit)

/-- A padding row's index (R186). -/
def padIndex : Word := 0xFFFFFFFF

/-- Row that an index names, as address and length (R186). -/
def gatherRow (c : BitVec 256) (i : Word) : Nat × Nat := (dHbm c + i.toNat * (dRowUnits c * 64), dRowUnits c * 64)

/-- Line requests that a started command has in flight (R174). -/
def DmaOp.linesOut (o : DmaOp) : Nat :=
  if o.host then 0
  else
    match dOp o.cmd with
    | 1 => 8 * o.unit * (o.asked - o.got.length)
    | 2 => 8 * (o.asked - o.written)
    | 3 => 8 * (o.unit * o.asked - o.issued)
    | 4 => dRowUnits o.cmd * ((o.idxs.take o.asked).filter (· ≠ padIndex)).length
    | _ => 0

/-- HBM ranges that a started command has requested and whose data is still to come. -/
def DmaOp.readsOut (o : DmaOp) : List (Nat × Nat) :=
  if o.host then []
  else
    match dOp o.cmd with
    | 1 => ((List.range o.asked).filter (fun k => !o.got.contains k)).map (unitRange o)
    | 3 => (rangeFrom (o.issued / o.unit) (o.asked - o.issued / o.unit)).map (unitRange o)
    | 4 => ((o.idxs.take o.asked).filter (· ≠ padIndex)).map (gatherRow o.cmd)
    | _ => []

/-- Line requests that the engine of a tile can still send: it holds at most 512 in flight (R174). -/
def Tile.lineRoom (x : Tile) : Nat := 512 - (x.ops.map (·.linesOut)).sum

/-- The engine sends a request for a range of HBM in that part: it reaches the stacks, of which a banked one starts to wake; its remote lines, the charge of the pieces that begin in it and its flits are counted (R24, R177, R188, R203). A replay sends none (R397). -/
def requestHbm (t : Nat) (o : DmaOp) (part : Nat × Nat) (a n flits : Nat) (s : State) : State :=
  if s.replays o.ctx then s
  else
    countVn t o.ctx .q flits ((touchRange a n s).modTile t (fun x =>
      (x.count (some o.slot) 0x21 (chargeStarts s.granule part a n)).count (some o.slot) 0x23 (remoteLines s t a n)))

/-- Units that a COPY_IN or STREAM_IN could request now: of a STREAM_IN those of free slots (R182). -/
def Tile.unitsWanted (x : Tile) (o : DmaOp) : Nat :=
  if dOp o.cmd = 1 then dLength o.cmd / o.unit - o.asked
  else
    match x.opCar o with
    | some (_, c) => min (o.slotTotal c) (o.pub + (c.slots - c.full)) * c.slotBillets / o.unit - o.asked
    | none => 0

/-- Requests the next units of a COPY_IN or STREAM_IN, as far as the 512-line limit lets it. -/
def unitPump (t id : Nat) (s : State) : State :=
  let x := s.tile t
  match x.op id with
  | none => s
  | some o =>
    let n := min (x.unitsWanted o) (x.lineRoom / (8 * o.unit))
    (forAll (rangeFrom o.asked n) (fun k s => let (a, m) := unitRange o k; requestHbm t o (unitPart o k) a m 1 s) s).modTile t
      (·.modOp id (fun o => { o with asked := o.asked + n }))

/-- Sends a write to its controller. -/
def sendWrite (w : HbmWrite) (s : State) : State := { s with hbmQ := s.hbmQ ++ [w] }

/-- A billet that a COPY_OUT has read sets out to HBM; in a replay it goes to the replay output (R174, R397). -/
def copyOutSend (t : Nat) (o : DmaOp) (p : ReqDst × List Byte) (s : State) : State :=
  let s1 := s.modTile t (fun x => { x with arrived := x.arrived.erase p })
  match p.1 with
  | .dma _ k =>
    if s.replays o.ctx then (replayOutput t 0 p.2 s1).modTile t (·.modOp o.id (fun o => { o with asked := o.asked + 1, written := o.written + 1 }))
    else
      let (a, n) := unitRange o k
      sendWrite { addr := a, bytes := p.2, ctx := o.ctx, org := .dma t o.id }
        (requestHbm t o (unitPart o k) a n 9 (s1.modTile t (fun x =>
          (x.modOp o.id (fun o => { o with asked := o.asked + 1 })).count (some o.slot) 0x22 512)))
  | _ => s1

/-- Billets that a started command has read and not yet used. -/
def Tile.opArrived (x : Tile) (id : Nat) : List (ReqDst × List Byte) := x.arrived.filter (fun p => p.1.ofOp id)

/-- A COPY_OUT sends the billets that it has read, as far as the 512-line limit lets it, and presents further store reads, at most 64 ahead of what it has sent (DESIGN CHOICE, log entry 49). -/
def copyOutPump (t id : Nat) (s : State) : State :=
  let x := s.tile t
  match x.op id with
  | none => s
  | some o =>
    let out := (x.opArrived id).take (x.lineRoom / 8)
    let s1 := forAll out (copyOutSend t o) s
    let n := min (dLength o.cmd - o.issued) (64 - (o.issued - (o.asked + out.length)))
    (forAll (rangeFrom o.issued n) (fun k s => postRead t .dma o.store (o.physBase + k) (.dma id k) s) s1).modTile t
      (·.modOp id (fun o => { o with issued := o.issued + n }))

/-! ### The gather unit (R186, R187) -/

/-- Slots of the data ring that a GATHER has written and not yet published. -/
def gatherPend (o : DmaOp) (c : Carousel) : Nat := o.issued / c.slotBillets - o.pub

/-- Slots of the data ring that it can fill, from the one it is filling on. -/
def gatherFree (o : DmaOp) (c : Carousel) : Nat := min (c.slots - c.full) (o.slotTotal c - o.pub) - gatherPend o c

/-- Rows that have landed in the slot being filled. -/
def gatherRowsIn (o : DmaOp) : Nat := o.buf.length / (dRowUnits o.cmd * 64)

/-- Rows for which the data ring has room. -/
def gatherRoom (o : DmaOp) (c : Carousel) : Nat := gatherFree o c * gatherRows c o.cmd - gatherRowsIn o

/-- Presents the writes of a whole slot's billets behind TAIL and the slots already written. -/
def writeSlot (t : Nat) (o : DmaOp) (e : MapEntry) (c : Carousel) (bs : List Byte) (s : State) : State :=
  let st := c.place.1
  let first := e.base st + c.place.2 + (c.nextSlot + gatherPend o c) % c.slots * c.slotBillets
  forAll (List.range c.slotBillets) (fun j s =>
    postWrite t .dma st (first + j) ((bs.drop (512 * j)).take 512) (.dma o.id (o.issued + j)) s) s

/-- Looks at the next index of a GATHER: a row is requested while the data ring has room for it and the engine for its lines (R174, R186). None when nothing can be done. -/
def gatherAsk (t : Nat) (o : DmaOp) (room : Nat) (s : State) : Option State :=
  let looked := fun (s : State) => s.modTile t (·.modOp o.id (fun o => { o with asked := o.asked + 1 }))
  match o.idxs.drop o.asked with
  | [] => none
  | i :: _ =>
    if o.stopAt.isSome || room ≤ o.asked then none
    else if i = padIndex then some (looked s)
    else if dRows o.cmd ≤ i.toNat then none
    else if (s.tile t).lineRoom < dRowUnits o.cmd then none
    else
      let row := gatherRow o.cmd i
      some (looked (requestHbm t o row row.1 row.2 1 s))

/-- Asks for the next billet of indices when one is published; the last one detaches the GATHER from their ring (R181, R186). -/
def gatherIndex (t : Nat) (o : DmaOp) (e : MapEntry) (s : State) : State :=
  let x := s.tile t
  let ik := carKey o.slot (dIndexCar o.cmd)
  if dLength o.cmd ≤ o.idxRead || x.carReady ik = 0 then s
  else
    s.setTile t (((x.postRing (s.tileCycle t) ik e .dma (.index o.id o.idxRead)).modOp o.id (fun o => { o with idxRead := o.idxRead + 1 })).modCar ik (fun c =>
      if o.idxRead + 1 = dLength o.cmd then { c with cons := none } else c))

/-- A billet of indices of a GATHER is on its way. -/
def Tile.indexOut (x : Tile) (id : Nat) : Bool := !x.noneAsked (fun d => match d with | .index k _ => k = id | _ => false)

/-- What a GATHER does when it can look at no further index: it asks for more of them, pads the slot that a STREAM_STOP or the end of the indices leaves, or stops at an index that names no row; none when it waits (R183, R186, R187). -/
def gatherEnd (t : Nat) (o : DmaOp) (e : MapEntry) (room : Nat) (s : State) : Bool × State :=
  let x := s.tile t
  let rowB := dRowUnits o.cmd * 64
  let padded := s.modTile t (·.modOp o.id (fun o => { o with buf := o.buf ++ List.replicate rowB 0 }))
  match o.idxs.drop o.asked with
  | [] =>
    if o.stopAt.isSome then (o.asked = 0, if o.asked = 0 then padded else s)
    else if x.indexOut o.id then (false, s)
    else if o.idxRead < dLength o.cmd then (false, if o.asked < room then gatherIndex t o e s else s)
    else if o.asked = 0 && o.buf ≠ [] then (true, padded)
    else (false, s)
  | i :: _ =>
    if 0 < o.asked then (false, s)
    else if o.stopAt.isSome then (true, padded)
    else if i ≠ padIndex && dRows o.cmd ≤ i.toNat && o.written = o.issued then (false, ctxFault t o.ctx 0x04 0x06 (s.modTile t (·.dropOp o.id)))
    else (false, s)

/-- Takes a GATHER as far as it goes without a row of HBM: a full slot is written, padding rows land, rows are requested ahead as far as the data ring has room, indices are read, and the last slot is padded once every index has come (R186, R187). Under Statues only what has arrived goes on (R400). -/
def gatherPump : Nat → Nat → Nat → State → State
  | 0, _, _, s => s
  | fuel + 1, t, id, s =>
    let x := s.tile t
    match x.op id with
    | none => s
    | some o =>
      match x.opCar o, x.entry o.slot with
      | some (_, c), some e =>
        let rowB := dRowUnits o.cmd * 64
        let q := gatherRows c o.cmd
        if gatherFree o c = 0 then s
        else if q ≤ gatherRowsIn o then
          let bs := o.buf ++ List.replicate (c.slotBillets * 512 - q * rowB) 0
          gatherPump fuel t id
            ((writeSlot t o e c bs s).modTile t (·.modOp id (fun o => { o with buf := [], issued := o.issued + c.slotBillets })))
        else if 0 < o.asked && o.idxs.head? = some padIndex then
          gatherPump fuel t id (s.modTile t (·.modOp id (fun o => { o with buf := o.buf ++ List.replicate rowB 0, idxs := o.idxs.drop 1, asked := o.asked - 1 })))
        else if s.statues then s
        else
          match gatherAsk t o (gatherRoom o c) s with
          | some s1 => gatherPump fuel t id s1
          | none =>
            match gatherEnd t o e (gatherRoom o c) s with
            | (true, s1) => gatherPump fuel t id s1
            | (false, s1) => s1
      | _, _ => s

/-- An UNLOAD presents its read of the next published billet, one a cycle; the last one detaches it from the ring (R174, R181, R182). -/
def unloadPump (t id : Nat) (s : State) : State :=
  let x := s.tile t
  match x.op id with
  | none => s
  | some o =>
    match x.entry o.slot with
    | none => s
    | some e =>
      let now := s.tileCycle t
      let key := carKey o.slot (dCar o.cmd)
      if x.carReady key = 0 || dLength o.cmd ≤ o.issued || o.readAt = now + 1 then s
      else
        s.setTile t (((x.postRing now key e .dma (.dma id o.issued)).modOp id (fun o => { o with issued := o.issued + 1, readAt := now + 1 })).modCar key (fun c =>
          if o.issued + 1 = dLength o.cmd then { c with cons := none } else c))

/-- A started command presents what it now can; under Statues it issues nothing further (R400). -/
def pumpOp (t id : Nat) (s : State) : State :=
  match (s.tile t).op id with
  | none => s
  | some o =>
    if o.host || o.faulted || (s.statues && dOp o.cmd ≠ 4) then s
    else
      match dOp o.cmd with
      | 1 => unitPump t id s
      | 2 => copyOutPump t id s
      | 3 => unitPump t id s
      | 4 => gatherPump (2 * o.idxs.length + 2 * 513 + 8) t id s
      | 5 => unloadPump t id s
      | _ => s

/-- Pumps every started command of a tile, in start order (R174). -/
def pumpTile (t : Nat) (s : State) : State := forAll ((s.tile t).ops.map (·.id)) (fun id s => pumpOp t id s) s

/-! ### The DMA rows (R169) -/

/-- Runs a start of the head command when its OP is the row's; the check is that of its queue entry and of the tables it reads (R409). -/
def withDmaHead (site : Site) (op : Nat) (s : State) (f : QEntry → MapEntry → Ctx → State → State) : State :=
  let t := site.val
  let q := (s.tile t).dmaQ.head?
  if q.any (fun q => dOp q.cmd = op) then
    match headEntry s t q with
    | .idle => s
    | .saturated c => ctxFault t c 0x07 0x0B (popDma t s)
    | .go q e c =>
      match tileEcc t site.ecc s with
      | (none, s') => s'
      | (some s1, _) => f q e c s1
  else s

/-- COPY_IN (R169, R173, R176): starts with its range entry, or waits while its store has 8 (R56). -/
def execCopyIn (site : Site) (s : State) : Host.Outcome State Fault Refusal :=
  .next <| withDmaHead site 1 s fun q e c s =>
    let t := site.val
    let l := dLength q.cmd
    if l = 0 then noopDma t q s
    else
      match e.resolve (dStore q.cmd) l with
      | .error k => refuseDma t q k s
      | .ok (st, i) =>
        match hbmRefusal s q.ctx c q.cmd with
        | some k => refuseDma t q k s
        | none =>
          if 8 ≤ (s.tile t).rangeUse st then s
          else
            let id := (s.tile t).nextOp
            pumpOp t id ((startOp t q { physBase := i, store := st } s).modTile t (·.addRange id st i l))

/-- COPY_OUT (R169, R176): starts and presents its store reads. -/
def execCopyOut (site : Site) (s : State) : Host.Outcome State Fault Refusal :=
  .next <| withDmaHead site 2 s fun q e c s =>
    let t := site.val
    let l := dLength q.cmd
    if l = 0 then noopDma t q s
    else
      match e.resolve (dStore q.cmd) l with
      | .error k => refuseDma t q k s
      | .ok (st, i) =>
        match hbmRefusal s q.ctx c q.cmd with
        | some k => refuseDma t q k s
        | none =>
          pumpOp t (s.tile t).nextOp (startOp t q { physBase := i, store := st } s)

/-- STREAM_IN (R169, R181, R184): attaches as producer; waits while another is attached or the stream table is full. DESIGN CHOICE: with LENGTH 0 it is the no-op of R170 even when its carousel is not defined, and so are GATHER and UNLOAD (log entry 44). -/
def execStreamIn (site : Site) (s : State) : Host.Outcome State Fault Refusal :=
  .next <| withDmaHead site 3 s fun q _ c s =>
    let t := site.val
    let l := dLength q.cmd
    let k := carKey q.slot (dCar q.cmd)
    if l = 0 then noopDma t q s
    else
      match (s.tile t).car k with
      | none => refuseDma t q 0x07 s
      | some y =>
        if l % y.slotBillets ≠ 0 || (dTranspose q.cmd && y.slotBillets % blockBillets (dWidth q.cmd) ≠ 0) then refuseDma t q 0x02 s
        else
          match hbmRefusal s q.ctx c q.cmd with
          | some r => refuseDma t q r s
          | none =>
            if y.prod.isSome || 8 ≤ (s.tile t).streams.length then s
            else
              let id := (s.tile t).nextOp
              pumpOp t id ((startOp t q {} s).modTile t (·.modCar k (fun y => { y with prod := some id })))

/-- GATHER (R186, R187): attaches as consumer of the index ring and producer of the data ring. -/
def execGather (site : Site) (s : State) : Host.Outcome State Fault Refusal :=
  .next <| withDmaHead site 4 s fun q _ c s =>
    let t := site.val
    let k := carKey q.slot (dCar q.cmd)
    let ik := carKey q.slot (dIndexCar q.cmd)
    let x := s.tile t
    if dLength q.cmd = 0 then noopDma t q s
    else
      match x.car k, x.car ik with
      | some y, some iy =>
        if gatherRows y q.cmd = 0 then refuseDma t q 0x02 s
        else if iy.cons = some .matrix then refuseDma t q 0x07 s
        else
          match hbmRefusal s q.ctx c q.cmd with
          | some r => refuseDma t q r s
          | none =>
            if y.prod.isSome || iy.cons.isSome || 8 ≤ x.streams.length || x.streams.any (fun o => dOp o.cmd = 4) then s
            else
              let id := x.nextOp
              let s1 := (startOp t q {} s).modTile t (fun x =>
                (x.modCar k (fun y => { y with prod := some id })).modCar ik (fun y => { y with cons := some (.dma id) }))
              pumpOp t id s1
      | _, _ => refuseDma t q 0x07 s

/-- UNLOAD (R169, R176, R181): attaches as consumer, with a range entry; waits while another DMA consumer is attached. -/
def execUnload (site : Site) (s : State) : Host.Outcome State Fault Refusal :=
  .next <| withDmaHead site 5 s fun q e _ s =>
    let t := site.val
    let l := dLength q.cmd
    let k := carKey q.slot (dCar q.cmd)
    let x := s.tile t
    if l = 0 then noopDma t q s
    else
      match e.resolve (dStore q.cmd) l with
      | .error r => refuseDma t q r s
      | .ok (st, i) =>
        match x.car k with
        | none => refuseDma t q 0x07 s
        | some y =>
          if y.cons = some .matrix then refuseDma t q 0x07 s
          else if y.cons.isSome || 8 ≤ x.rangeUse st then s
          else
            let id := x.nextOp
            let s1 := (startOp t q { physBase := i, store := st } s).modTile t (fun x =>
              (x.modCar k (fun y => { y with cons := some (.dma id) })).addRange id st i l)
            pumpOp t id s1

/-- CAROUSEL_SET (R178, R181): defines and empties the carousel; refused while a producer or consumer is attached. Reads issued of the old ring consume nothing of the new one. -/
def execCarouselSet (site : Site) (s : State) : Host.Outcome State Fault Refusal :=
  .next <| withDmaHead site 6 s fun q e _ s =>
    let t := site.val
    let k := carKey q.slot (dCar q.cmd)
    match e.resolve (dStore q.cmd) (dSlots q.cmd * dSlotBillets q.cmd) with
    | .error r => refuseDma t q r s
    | .ok _ =>
      if ((s.tile t).car k).any (fun y => y.prod.isSome || y.cons.isSome) then refuseDma t q 0x07 s
      else
        (startOp t q {} s).modTile t (fun x =>
          ({ x with reqs := x.reqs.map (fun r => if r.car = some k then { r with car := none } else r) } : Tile).setCar k
            { base := dStore q.cmd, slots := dSlots q.cmd, slotBillets := dSlotBillets q.cmd })

/-- Slots that a producer has started on: a STREAM_IN by their first request, a GATHER by their first request or padding row (R183). -/
def DmaOp.slotsBegun (o : DmaOp) (c : Carousel) : Nat :=
  if dOp o.cmd = 4 then o.pub + gatherPend o c + ceilDiv (gatherRowsIn o + o.asked) (gatherRows c o.cmd) else ceilDiv (o.unit * o.asked) c.slotBillets

/-- Marks a producer stream as stopping: it ends with the slot it is filling, or at once (R183). -/
def DmaOp.stop (o : DmaOp) (c : Carousel) : DmaOp :=
  if o.stopping then o else { o with stopping := true, stopAt := some (max o.pub (o.slotsBegun c)) }

/-- Stops the stream `id` of a tile; a GATHER reads no further index and so detaches from their ring (R181, R183). -/
def stopStream (t id : Nat) (s : State) : State :=
  let x := s.tile t
  match x.op id with
  | none => s
  | some o =>
    match x.opCar o with
    | none => s
    | some (_, c) =>
      pumpOp t id (s.modTile t (fun x =>
        (x.modOp id (·.stop c)).modCar (carKey o.slot (dIndexCar o.cmd)) (fun y => if dOp o.cmd = 4 && y.cons = some (.dma id) then { y with cons := none } else y)))

/-- STREAM_STOP (R183): ends the producer stream of its carousel; a no-op when none is attached. DESIGN CHOICE: one that names a carousel never defined is refused by R178 (log entry 44). -/
def execStreamStop (site : Site) (s : State) : Host.Outcome State Fault Refusal :=
  .next <| withDmaHead site 7 s fun q _ _ s =>
    let t := site.val
    match (s.tile t).car (carKey q.slot (dCar q.cmd)) with
    | none => refuseDma t q 0x07 s
    | some y =>
      match y.prod with
      | none => noopDma t q s
      | some id => startOp t q {} (stopStream t id s)

/-! ### Data between HBM and the stores -/

/-- Turns a block of `w`-wide elements about its diagonal: vector c of the result has element p equal to element (p, c) (R76, R171). -/
def transposeBlock (bits : Nat) (bs : List Byte) : List Byte :=
  let v := leNat bs
  let elem := fun (r c : Nat) => bf v (bits * (64 * r + c)) bits
  let out := (List.range 64).foldl (fun acc c =>
    (List.range 64).foldl (fun acc p => acc + (elem p c <<< (bits * (64 * c + p)))) acc) 0
  natLe bs.length out

/-- Element width of T_WIDTH in bits (R168). -/
def widthBits (w : Nat) : Nat := if w = 0 then 8 else if w = 1 then 6 else if w = 2 then 4 else 16

/-- The requester of a range meets an uncorrectable line or a fenced stack: its command ends without its add and its context stops on the tile (R177). -/
def hbmStop (t id c blk code : Nat) (s : State) : State :=
  stopOnTile t c (faultCode blk code) (s.modTile t (·.dropOp id))

/-- Whether the controllers of a range can answer a read now: stacks active, no bucket round holding the range (R177, R263). -/
def State.hbmReadable (s : State) (a n : Nat) : Bool := (s.stacksOf a n).all s.stackReady && !s.bucketHeld a n

/-- A stack of a range is fenced. -/
def State.hbmFenced (s : State) (a n : Nat) : Bool := (s.stacksOf a n).any s.stackFenced

/-- Reads HBM for a requester with the controller's check; none when a line of the range is uncorrectable; each such line has then been recorded (R177). -/
def hbmFetch (a n : Nat) (ecc : HbmEcc) (s : State) : Bool × State :=
  match ecc with
  | .clean => (true, s)
  | .corrected => (true, hbmCorrected a s)
  | .uncorrectable i r => (false, hbmUncorrectables (failedLines a n i r) s)

/-- Data of unit `k` of a COPY_IN goes to its store billets (R174). -/
def copyInData (t : Nat) (o : DmaOp) (k : Nat) (bs : List Byte) (s : State) : State :=
  let u := o.unit
  let s1 := forAll (List.range u) (fun j s =>
    postWrite t .dma o.store (o.physBase + u * k + j) ((bs.drop (512 * j)).take 512) (.dma o.id (u * k + j)) s) s
  s1.modTile t (·.modOp o.id (fun o => { o with got := o.got ++ [k] }))

/-- Data of the next unit of a STREAM_IN goes to the slots it fills. -/
def streamData (t : Nat) (o : DmaOp) (c : Carousel) (e : MapEntry) (bs : List Byte) (s : State) : State :=
  let u := o.unit
  let st := c.place.1
  let ring := c.slots * c.slotBillets
  let first := c.nextSlot * c.slotBillets + (o.issued - o.pub * c.slotBillets)
  let s1 := forAll (List.range u) (fun j s =>
    postWrite t .dma st (e.base st + c.place.2 + (first + j) % ring) ((bs.drop (512 * j)).take 512) (.dma o.id (o.issued + j)) s) s
  s1.modTile t (·.modOp o.id (fun o => { o with issued := o.issued + u }))

/-- What a DMA reads of the ranges that a stoker round has written during a capture is recorded with its address (R395). -/
def captureStoked (t : Nat) (o : DmaOp) (a : Nat) (bs : List Byte) (s : State) : State :=
  if s.forn.cap.stoked.any (fun r => rangesMeet r.1 r.2 a bs.length) then captureArrival o.ctx t 6 (natLe 6 a ++ bs) s else s

/-- Data that comes back for a range of HBM, or none when the request has to wait or has stopped its command: the stacks must answer, and no line may be uncorrectable (R174, R177, R263). A replay takes the recorded arrival instead (R397). -/
def hbmData (t id kind : Nat) (o : DmaOp) (a n : Nat) (ecc : HbmEcc) (s : State) : Option (List Byte) × State :=
  if s.replays o.ctx then
    match takeArrival o.ctx t kind s with
    | (some bs, s1) => (some bs, s1)
    | (none, s1) => (none, s1.modTile t (·.dropOp id))
  else if s.hbmFenced a n then (none, hbmStop t id o.ctx 0x04 0x09 (tileFault t 0x04 0x09 s))
  else if !s.hbmReadable a n then (none, touchRange a n s)
  else
    match hbmFetch a n ecc s with
    | (false, s1) => (none, hbmStop t id o.ctx 0x0E 0x12 s1)
    | (true, s1) =>
      let bs := s.hbmRead a n
      (some bs, captureStoked t o a bs <| countVn t o.ctx .p (linesOf a n) ((touchRange a n s1).modTile t (·.count (some o.slot) 0x22 n)))

/-- What arrives for a command is recorded, but for what a replay takes and for a stream begun before the capture (R395). -/
def noteArrival (t kind : Nat) (o : DmaOp) (bs : List Byte) (s : State) : State :=
  if s.replays o.ctx || s.begunBefore t o.id then s else captureArrival o.ctx t kind bs s

/-- A unit's data as it goes to the store: turned when the command transposes (R171). What arrives is recorded (R395). -/
def unitData (t kind : Nat) (o : DmaOp) (bs : List Byte) (s : State) : List Byte × State :=
  if s.replays o.ctx then (bs, s)
  else
    let ds := if dTranspose o.cmd then transposeBlock (widthBits (dWidth o.cmd)) bs else bs
    (ds, noteArrival t kind o ds s)

/-- HBM_READ_DATA_RETURN for a command: unit `k` of a COPY_IN, the next unit of a STREAM_IN, or the row of a GATHER's oldest index, which lands in index order (R174, R186). -/
def opReturn (t id k : Nat) (ecc : HbmEcc) (o : DmaOp) (s : State) : State :=
  let x := s.tile t
  match dOp o.cmd, x.entry o.slot with
  | 1, _ =>
    if o.asked ≤ k || o.got.contains k then s
    else
      let (a, n) := unitRange o k
      match hbmData t id 0 o a n ecc s with
      | (none, s1) => s1
      | (some bs, s1) =>
        let (ds, s2) := unitData t 0 o bs s1
        pumpOp t id (copyInData t o k ds s2)
  | 3, some e =>
    match x.opCar o with
    | none => s
    | some (_, c) =>
      if o.unit * o.asked < o.issued + o.unit then s
      else
        let (a, n) := unitRange o (o.issued / o.unit)
        match hbmData t id 1 o a n ecc s with
        | (none, s1) => s1
        | (some bs, s1) =>
          let (ds, s2) := unitData t 1 o bs s1
          pumpOp t id (streamData t o c e ds s2)
  | 4, some _ =>
    match o.idxs with
    | i :: r =>
      if o.asked = 0 || i = padIndex then s
      else
        let (a, n) := gatherRow o.cmd i
        match hbmData t id 1 o a n ecc s with
        | (none, s1) => s1
        | (some bs, s1) =>
          let s2 := noteArrival t 1 o bs s1
          pumpOp t id (s2.modTile t (·.modOp id (fun o => { o with idxs := r, asked := o.asked - 1, buf := o.buf ++ bs })))
    | [] => s
  | _, _ => s

/-! ### Kindling (R189 to R193) -/

def kBillet (p : BitVec 64) : Nat := bf p.toNat 0 16
def kOffset (p : BitVec 64) : Nat := bf p.toNat 16 9
def kLength (p : BitVec 64) : Nat := bf p.toNat 25 9
def kAddId (p : BitVec 64) : Nat := bf p.toNat 34 8
def kAddVal (p : BitVec 64) : Nat := bf p.toNat 42 8

/-- CODE of the first failing check of a kindling request (R190, R451); a replay reaches no HBM, so no aperture bounds it (R397). -/
def kindlingCheck (s : State) (e : MapEntry) (c : Ctx) (a : Nat) (p : BitVec 64) : Option Nat :=
  let l := kLength p
  pickCode
    [ (bf p.toNat 50 14 ≠ 0 || (bilOf (kBillet p)).isNone, 0x01)
    , (l = 0x1FF, 0x04)
    , (kOffset p % 8 ≠ 0 || a % 8 ≠ 0, 0x03)
    , (512 < kOffset p + l, 0x05)
    , (l ≠ 0 && a % 2 ^ s.granule + l > 2 ^ s.granule, 0x05)
    , (l ≠ 0 && (match e.resolve (kBillet p) 1 with | .ok _ => false | .error _ => true), 0x05)
    , (l ≠ 0 && !s.replays e.ctx && !inAperture c a l, 0x06)
    , (kAddVal p ≠ 0 && e.ctrSize ≤ kAddId p, 0x06)
    , (256 < l || l % 8 ≠ 0, 0x02) ]

/-- A kindling request sets out to its stack: flits on VN-Q, and lines of a stack of another die (R24, R177, R193). A replay sends none (R397). -/
def kRequest (t : Nat) (k : KSlot) (flits : Nat) (s : State) : State :=
  if s.replays k.ctx then s
  else
    countVn t k.ctx .q flits ((touchRange k.addr k.len s).modTile t (·.count (some k.slot) 0x23 (remoteLines s t k.addr k.len)))

/-- The core issues a kindling request: it takes a slot, or stalls while all 16 are held (R191). -/
def kindle (t : Nat) (put : Bool) (rs rt : Nat) (s : State) : State :=
  match coreIssue s t (fun st => st = .none || st = .kindling) with
  | none => s
  | some (slot, e) =>
    let x := s.tile t
    let a := (x.reg slot rs).toNat
    let p := x.reg slot rt
    match s.ctx e.ctx with
    | none => s
    | some c =>
      match kindlingCheck s e c a p with
      | some k => ctxFault t e.ctx 0x04 k s
      | none =>
        if kLength p = 0 then postAdd t e.ctx slot (kAddId p) (kAddVal p) (s.modTile t (·.setStall .none))
        else if !s.replays e.ctx && s.hbmFenced a (kLength p) then ctxFault t e.ctx 0x04 0x09 s
        else if 16 ≤ x.ksl.length then s.modTile t (·.setStall .kindling)
        else
          match e.resolve (kBillet p) 1 with
          | .error k => ctxFault t e.ctx 0x04 k s
          | .ok (st, i) =>
            let r : KSlot := { id := x.nextOp, put := put, ctx := e.ctx, slot := slot, addr := a, len := kLength p, store := st, bil := i, off := kOffset p, addId := kAddId p, addVal := kAddVal p }
            let s1 := s.modTile t (fun x => { x.setStall .none with ksl := x.ksl ++ [r], nextOp := x.nextOp + 1 })
            if put then postRead t .dma st i (.kput r.id) s1 else kRequest t r 1 s1

/-- KGET (R189 to R191). -/
def execKget (t : TileId) (rs rt : Fin 32) (s : State) : Host.Outcome State Fault Refusal := .next (kindle t false rs rt s)
/-- KPUT (R189 to R191). -/
def execKput (t : TileId) (rs rt : Fin 32) (s : State) : Host.Outcome State Fault Refusal := .next (kindle t true rs rt s)

def Tile.modK (x : Tile) (id : Nat) (f : KSlot → KSlot) : Tile :=
  { x with ksl := x.ksl.map (fun k => if k.id = id then f k else k) }

/-- An older kindling request of the tile whose HBM range shares a byte has not been applied (R192). -/
def Tile.kOlder (x : Tile) (k : KSlot) (p : KSlot → Bool) : Bool :=
  x.ksl.any (fun j => decide (j.id < k.id) && rangesMeet j.addr j.len k.addr k.len && !p j)

/-- HBM_READ_DATA_RETURN for a KGET: its bytes go to the merge buffer (R191). -/
def kgetReturn (t : Nat) (ecc : HbmEcc) (k : KSlot) (s : State) : State :=
  if k.put || k.sent || (s.tile t).kOlder k (fun j => if j.put then j.done else j.sent) then s
  else if s.replays k.ctx then
    match takeArrival k.ctx t 2 s with
    | (some bs, s1) => queueMerge t k.store k.bil k.off bs (.kget k.id) (s1.modTile t (·.modK k.id (fun k => { k with sent := true })))
    | (none, s1) => s1.modTile t (·.modK k.id (fun k => { k with sent := true, failed := true, done := true }))
  else if s.hbmFenced k.addr k.len then
    ctxFault t k.ctx 0x04 0x09 (s.modTile t (·.modK k.id (fun k => { k with sent := true, failed := true, done := true })))
  else if !s.hbmReadable k.addr k.len then touchRange k.addr k.len s
  else
    match hbmFetch k.addr k.len ecc s with
    | (false, s1) =>
      stopOnTile t k.ctx (faultCode 0x0E 0x12) (s1.modTile t (·.modK k.id (fun k => { k with sent := true, failed := true, done := true })))
    | (true, s1) =>
      let bs := s.hbmRead k.addr k.len
      let s2 := captureArrival k.ctx t 2 bs (countVn t k.ctx .p (ceilDiv k.len 64) (touchRange k.addr k.len s1))
      queueMerge t k.store k.bil k.off bs (.kget k.id) (s2.modTile t (·.modK k.id (fun k => { k with sent := true })))

/-- HBM_READ_DATA_RETURN (R174): data of unit `k` of a started command, or of a KGET, comes back. -/
def execHbmReadDataReturn (t : TileId) (op k : Nat) (ecc : HbmEcc) (s : State) : Host.Outcome State Fault Refusal :=
  .next <|
    match (s.tile t).op op with
    | some o => if o.host || o.faulted then s else opReturn t op k ecc o s
    | none =>
      match (s.tile t).ksl.find? (fun j => j.id = op) with
      | some j => kgetReturn t ecc j s
      | none => s

/-- KINDLING_COMPLETE (R191, R192): a request whose bytes have been merged or accepted gives up its slot and posts its add, after every older request that shares a byte. -/
def execKindlingComplete (t : TileId) (id : Nat) (s : State) : Host.Outcome State Fault Refusal :=
  .next <|
    match (s.tile t).ksl.find? (fun j => j.id = id) with
    | none => s
    | some k =>
      if !k.done || (s.tile t).kOlder k (fun _ => false) then s
      else
        let s1 := s.modTile t (fun x => { x with ksl := x.ksl.filter (fun j => j.id ≠ id) })
        if k.failed then s1 else postAdd t k.ctx k.slot k.addId k.addVal s1

/-! ### Writes at the controllers (R175, R177, R263) -/

/-- Tile whose engine or core sent a write. -/
def HbmOrg.tile : HbmOrg → Nat
  | .dma t _ => t
  | .kput t _ => t

/-- What an accepted or refused write means for its requester, which gets an acknowledgement on VN-P (R193, R203). -/
def writeDone (org : HbmOrg) (ok : Bool) (s : State) : State :=
  match org with
  | .dma t id =>
    let s1 := match (s.tile t).op id with
      | some o => countVn t o.ctx .p 1 s
      | none => s
    s1.modTile t (·.modOp id (fun o => { o with written := o.written + 1, faulted := o.faulted || !ok }))
  | .kput t id =>
    let s1 := match (s.tile t).ksl.find? (fun k => k.id = id) with
      | some k => countVn t k.ctx .p 1 s
      | none => s
    s1.modTile t (·.modK id (fun k => { k with done := true, failed := k.failed || !ok }))

/-- A write's requester meets a fault at the controller. -/
def writeFault (w : HbmWrite) (blk code : Nat) (s : State) : State :=
  match w.org with
  | .dma t id => hbmStop t id w.ctx blk code s
  | .kput t _ => stopOnTile t w.ctx (faultCode blk code) (writeDone w.org false s)

/-- A write covers part of a line only (R177). -/
def partialLine (a n : Nat) : Bool := a % 64 ≠ 0 || n % 64 ≠ 0

/-- The uncorrectable lines that the reads of a write's merges meet: a line that the write covers whole is not read (R177). -/
def mergeFailure (a n : Nat) (ecc : HbmEcc) : Option (List Nat) :=
  match ecc with
  | .uncorrectable i r =>
    match (failedLines a n i r).filter (fun l => decide (l < a) || decide (a + n < l + 64)) with
    | [] => none
    | ls => some ls
  | _ => none

/-- An older kindling request whose bytes overlap a KPUT's has been applied (R192). -/
def State.writeInOrder (s : State) (w : HbmWrite) : Bool :=
  match w.org with
  | .dma _ _ => true
  | .kput t id =>
    match (s.tile t).ksl.find? (fun k => k.id = id) with
    | some k => !(s.tile t).kOlder k (fun j => if j.put then j.done else j.sent)
    | none => true

/-- HBM_WRITE_ACCEPT (R175, R177, R192, R263): the oldest write on its way to a stack, whose turn it is, is accepted, with a read-merge-write of a partial line. A write that is refused faults in its own tile, as R62 says of a refused access (log entry 32). DESIGN CHOICE: of a KPUT that meets an uncorrectable line none of its lines is written, and writes of a stack that no rule orders (R176, R192) are accepted in the order in which they were sent (log entry 32). -/
def execHbmWriteAccept (k : StackId) (ecc : HbmEcc) (s : State) : Host.Outcome State Fault Refusal :=
  .next <|
    match s.hbmQ.find? (fun w => s.stackOf w.addr = k && s.writeInOrder w) with
    | none => s
    | some w =>
      let s0 := { s with hbmQ := s.hbmQ.erase w }
      if s.stackFenced k then writeFault w 0x04 0x09 (tileFault w.org.tile 0x04 0x09 s0)
      else if (s.stack k).st ≠ .active then touchStack k s
      else if s.bucketHeld w.addr w.bytes.length then writeFault w 0x04 0x07 (tileFault w.org.tile 0x04 0x07 s0)
      else
        match mergeFailure w.addr w.bytes.length ecc with
        | some ls => writeFault w 0x0E 0x12 (hbmUncorrectables ls s0)
        | none =>
          let s1 := if partialLine w.addr w.bytes.length && ecc = .corrected then hbmCorrected w.addr s0 else s0
          writeDone w.org true ((touchStack k s1).hbmWrite w.addr w.bytes)

/-! ### Completion (R175) -/

/-- A started command has reached its point of completion; `now` is the cycle count of the tile's clock. -/
def DmaOp.complete (o : DmaOp) (now : Nat) (x : Tile) : Bool :=
  if o.faulted then true
  else
    match dOp o.cmd with
    | 1 => o.written = dLength o.cmd
    | 2 => o.written = dLength o.cmd
    | 3 => match x.opCar o with
      | some (_, c) => o.slotTotal c ≤ o.pub
      | none => true
    | 4 => match x.opCar o with
      | some (_, c) => o.slotTotal c ≤ o.pub
      | none => true
    | 5 => o.written = dLength o.cmd
    | 6 => decide (o.clk + 2 ≤ now)
    | _ => match x.opCar o with
      | some (_, c) => match c.prod with
        | some id => !x.ops.any (fun p => p.id = id && p.stopping)
        | none => true
      | none => true

/-- DMA_COMMAND_COMPLETE (R175, R54): the command leaves the queue, its range entry is removed, and its add is posted unless it faulted; a host request completes on the bulk channel with its TAG (R326), unless the link has been down since (R323). -/
def execDmaCommandComplete (t : TileId) (op : Nat) (s : State) : Host.Outcome State Fault Refusal :=
  .next <|
    match (s.tile t).op op with
    | none => s
    | some o =>
      if o.host then
        if o.written = o.issued || o.faulted then
          let s1 := s.modTile t (·.dropOp op)
          if o.lost then s1 else { s1 with bulk := { tag := o.tag, code := o.code, bytes := if o.wr || o.faulted then [] else o.buf.take o.len } }
        else s
      else if o.complete (s.tileCycle t) (s.tile t) then pumpTile t (finishOp t o s) else s

/-! ### Stacks (R177, R308, R409) -/

/-- STACK_WAKE_COMPLETE (R177): the stack answers again, and what waited for it can proceed. -/
def execStackWakeComplete (k : StackId) (s : State) : Host.Outcome State Fault Refusal :=
  .next <| if (s.stack k).st = .waking && !s.stackFenced k then s.modStack k (fun q => { q with st := .active }) else s

end Sys2Proof.Machine
end

