-- ==== Sys2Proof/Machine/Flags.lean ====
section
/-! DEFINITION. Values and their roundings: element formats (R70), the rounding of R111 with the generator of R113, what each output format delivers (R131 to R135), binary32 arithmetic and functions (R141 to R146), and the flags each result raises (R150). -/

namespace Sys2Proof.Machine

/-! ### Exact values -/

/-- A value: NaN, an infinity, or the finite value (−1)^neg × mag × 2^exp; a zero keeps its sign. -/
inductive Fp where
  | nan
  | inf (neg : Bool)
  | fin (neg : Bool) (mag : Nat) (exp : Int)
deriving DecidableEq, Repr

/-- A floating-point layout: exponent and fraction bits, bias, and the encoding of the largest finite magnitude. -/
structure Fmt where
  eb : Nat
  mb : Nat
  bias : Int
  top : Nat
deriving DecidableEq, Repr

def fp32 : Fmt := { eb := 8, mb := 23, bias := 127, top := 0x7F7FFFFF }
def bf16 : Fmt := { eb := 8, mb := 7, bias := 127, top := 0x7F7F }
def fp16 : Fmt := { eb := 5, mb := 10, bias := 15, top := 0x7BFF }
def e4m3 : Fmt := { eb := 4, mb := 3, bias := 7, top := 0x7E }
def e5m2 : Fmt := { eb := 5, mb := 2, bias := 15, top := 0x7B }
def e3m2 : Fmt := { eb := 3, mb := 2, bias := 3, top := 0x1F }
def e2m3 : Fmt := { eb := 2, mb := 3, bias := 1, top := 0x1F }
def e2m1 : Fmt := { eb := 2, mb := 1, bias := 1, top := 0x7 }

/-- Sign bit of a layout. -/
def Fmt.sgn (f : Fmt) (neg : Bool) : Nat := b2n neg <<< (f.eb + f.mb)

/-- A finite encoding's value, subnormals at their value (R125). -/
def Fmt.finite (f : Fmt) (c : Nat) : Fp :=
  let m := bf c 0 f.mb
  let e := bf c f.mb f.eb
  let neg := bit c (f.eb + f.mb)
  if e = 0 then .fin neg m (1 - f.bias - f.mb) else .fin neg (m + 2 ^ f.mb) (e - f.bias - f.mb)

/-- An encoding of a layout with IEEE 754 infinities and NaNs. -/
def Fmt.decode (f : Fmt) (c : Nat) : Fp :=
  if bf c f.mb f.eb = 2 ^ f.eb - 1 then
    if bf c 0 f.mb = 0 then .inf (bit c (f.eb + f.mb)) else .nan
  else f.finite c

/-- Two's complement of a field. -/
def signed (w c : Nat) : Int := if bit c (w - 1) then (c : Int) - 2 ^ w else c

/-- An integer as a value times 2^e; it has no sign of zero. -/
def ofInt (i : Int) (e : Int) : Fp := .fin (decide (i < 0)) i.natAbs e

/-- Bits of an element by FORMAT (R70). -/
def fmtBits (f : Nat) : Nat :=
  if f = 2 || f = 3 then 6 else if f = 4 || f = 6 then 4 else if f = 8 || f = 9 then 16 else 8

/-- Value of an element by FORMAT (R70, R125). -/
def elemVal (f c : Nat) : Fp :=
  match f with
  | 0 => if bf c 0 7 = 0x7F then .nan else e4m3.finite c
  | 1 => e5m2.decode c
  | 2 => e3m2.finite c
  | 3 => e2m3.finite c
  | 4 => e2m1.finite c
  | 5 => ofInt (signed 8 c) 0
  | 6 => ofInt (signed 4 c) 0
  | 7 => ofInt (signed 8 c) (-6)
  | 8 => bf16.decode c
  | _ => fp16.decode c

/-- Multiplies a value by a power of two. -/
def Fp.scale (v : Fp) (x : Int) : Fp :=
  match v with
  | .fin n m e => .fin n m (e + x)
  | v => v

/-! ### Rounding (R111, R113) -/

/-- Rounds mag × 2^exp to a multiple of 2^q: ROUND 0 to nearest even, 1 toward zero, 2 stochastic with the draw `r`. Answers the multiple and whether it is inexact. -/
def roundAt (mode r mag : Nat) (exp q : Int) : Nat × Bool :=
  if q ≤ exp then (mag <<< (exp - q).toNat, false)
  else
    let sh := (q - exp).toNat
    let n := mag >>> sh
    let rem := mag % 2 ^ sh
    if rem = 0 then (n, false)
    else
      let up :=
        if mode = 0 then decide (2 ^ (sh - 1) < rem) || (rem = 2 ^ (sh - 1) && n % 2 = 1)
        else if mode = 1 then false
        else decide (r < rem * 2 ^ 32 / 2 ^ sh)
      (n + b2n up, true)

/-- ⌊log₂⌋ of a nonzero magnitude. -/
def topExp (mag : Nat) (exp : Int) : Int := Nat.log2 mag + exp

/-- Rounds a magnitude to a layout as if its exponents had no upper limit: its encoding without sign, and whether it is inexact. -/
def Fmt.round (f : Fmt) (mode r mag : Nat) (exp : Int) : Nat × Bool :=
  if mag = 0 then (0, false)
  else
    let emin := 1 - f.bias
    let q := max (topExp mag exp) emin - f.mb
    let (n, ix) := roundAt mode r mag exp q
    (n + (q - (emin - f.mb)).toNat <<< f.mb, ix)

/-- A magnitude lies beyond the largest finite one. -/
def Fmt.beyond (f : Fmt) (mag : Nat) (exp : Int) : Bool :=
  let (c, ix) := f.round 1 0 mag exp
  decide (f.top < c) || (c = f.top && ix)

def flagInvalid : Nat := 1
def flagDivZero : Nat := 2
def flagOverflow : Nat := 4
def flagUnderflow : Nat := 8
def flagSaturated : Nat := 16
def flagMatrixSaturated : Nat := 32

/-- A subnormal or zero result that is inexact. -/
def Fmt.under (f : Fmt) (c : Nat) (ix : Bool) : Nat := if ix && c < 2 ^ f.mb then flagUnderflow else 0

/-- Rounds a finite value to FP32 or BF16 with IEEE 754 overflow (R133): the encoding and its flags. -/
def Fmt.ieee (f : Fmt) (mode r : Nat) (neg : Bool) (mag : Nat) (exp : Int) : Nat × Nat :=
  let (c, ix) := f.round mode r mag exp
  if f.top < c then
    if mode = 1 then (f.sgn neg + f.top, 0) else (f.sgn neg + f.top + 1, flagOverflow)
  else (f.sgn neg + c, f.under c ix)

/-- The canonical NaN of FP32 and BF16 (R129, R141). -/
def Fmt.quiet (f : Fmt) : Nat := f.top + 1 + 2 ^ (f.mb - 1)

/-- A value as an encoding of FP32 or BF16, rounded to nearest even. -/
def Fmt.encode (f : Fmt) (v : Fp) : Nat × Nat :=
  match v with
  | .nan => (f.quiet, 0)
  | .inf n => (f.sgn n + f.top + 1, 0)
  | .fin n m e => f.ieee 0 0 n m e

/-! ### The generator (R113, R114, R149) -/

def mul32 (a b : Nat) : Nat × Nat := let p := a * b; (p / 2 ^ 32 % 2 ^ 32, p % 2 ^ 32)

/-- Rounds of Philox-4×32 over the counter words and the key. -/
def philoxRounds : Nat → (Nat × Nat × Nat × Nat) → (Nat × Nat) → Nat × Nat × Nat × Nat
  | 0, c, _ => c
  | n + 1, (c0, c1, c2, c3), (k0, k1) =>
    let (h0, l0) := mul32 0xD2511F53 c0
    let (h1, l1) := mul32 0xCD9E8D57 c2
    philoxRounds n (h1 ^^^ c1 ^^^ k0, l1, h0 ^^^ c3 ^^^ k1, l0) ((0x9E3779B9 + k0) % 2 ^ 32, (0xBB67AE85 + k1) % 2 ^ 32)

/-- Output word 0 of Philox-4×32-10. -/
def philox (seed : BitVec 64) (c0 c1 c2 c3 : Nat) : Nat :=
  (philoxRounds 10 (c0 % 2 ^ 32, c1 % 2 ^ 32, c2 % 2 ^ 32, c3 % 2 ^ 32) (bf seed.toNat 0 32, bf seed.toNat 32 32)).1

/-- Draw of a drain, a CVT_NARROW or a FINISH: counter words 2 and 3 hold the superstep number and the tensor tag (R114). -/
def stochastic (seed : BitVec 64) (superstep tag c0 c1 : Nat) : Nat :=
  philox seed c0 c1 (superstep % 2 ^ 32) (bf superstep 32 16 + (tag <<< 16))

/-! ### Output formats (R86, R110 to R112, R131 to R135) -/

/-- OUT_FORMAT is an MX format. -/
def outMx (o : Nat) : Bool := (4 ≤ o && o ≤ 8) || o = 0xA
/-- Bits of an output element. -/
def outBits (o : Nat) : Nat := if o = 0 then 32 else if o = 1 then 16 else if o = 6 || o = 7 then 6 else if o = 8 then 4 else 8
/-- Element layout of a floating-point output. -/
def outFmt (o : Nat) : Fmt :=
  match o with
  | 0 => fp32
  | 1 => bf16
  | 2 => e4m3
  | 3 => e5m2
  | 4 => e4m3
  | 5 => e5m2
  | 6 => e3m2
  | 7 => e2m3
  | _ => e2m1
/-- Exponent of the largest normal power of two of an MX element format (R112). -/
def mxE (o : Nat) : Int := match o with | 4 => 8 | 5 => 15 | 6 => 4 | 7 => 2 | 8 => 2 | _ => 0

/-- Block scale X of 32 finite values (R112). -/
def blockScale (o : Nat) (vs : List Fp) : Int :=
  let tops := vs.filterMap (fun v => match v with | .fin _ m e => if m = 0 then none else some (topExp m e) | _ => none)
  match tops with
  | [] => -127
  | t :: ts => max (-127) (min 127 (ts.foldl max t - mxE o))

/-- One output element from a value already divided by its block scale: the encoding and its flags, with SATURATED for a saturating format and OVERFLOW for a finite W beyond M in FP32 and BF16 (R132 to R134, R148). -/
def narrowElem (o mode r : Nat) (v : Fp) : Nat × Nat :=
  match v with
  | .nan => ((if o = 0 then 0x7FC00000 else if o = 1 then 0x7FC0 else if o = 2 then 0x7F else if o = 3 then 0x7E else 0), flagInvalid)
  | .inf n =>
    ((if o ≤ 1 then (outFmt o).sgn n + (outFmt o).top + 1
      else if o = 2 then (if n then 0xFF else 0x7F)
      else if o = 3 then (if n then 0xFC else 0x7C)
      else if o = 9 then (if n then 0x80 else 0x7F) else 0), flagOverflow)
  | .fin n m e =>
    if o ≤ 1 then
      let f := outFmt o
      let (c, fl) := f.ieee mode r n m e
      (c, if f.beyond m e then flagOverflow else fl)
    else if o = 9 || o = 0xA then
      let (k, ix) := roundAt mode r m (if o = 9 then e else e + 6) 0
      let lim := if o = 9 && n then 128 else 127
      let k' := min k lim
      ((if n then (256 - k') % 256 else k'), if lim < k then flagSaturated else if k = 0 && ix then flagUnderflow else 0)
    else
      let f := outFmt o
      let (c, ix) := f.round mode r m e
      if f.top < c then (f.sgn n + f.top, flagSaturated) else (f.sgn n + c, f.under c ix)

/-- Union of flag sets. -/
def orAll (fs : List Nat) : Nat := fs.foldl (· ||| ·) 0

/-- 32 values narrowed to an MX format under one scale: the scale byte, the elements and the flags; a block with a value that is not finite has scale 0xFF and zero elements (R132, R135, R148). -/
def narrowBlock (o mode : Nat) (vs : List (Fp × Nat)) : Nat × List Nat × Nat :=
  let bad := vs.any (fun p => match p.1 with | .fin _ _ _ => false | _ => true)
  if bad then
    (0xFF, vs.map (fun _ => 0), orAll (vs.map (fun p => match p.1 with | .nan => flagInvalid | .inf _ => flagOverflow | _ => 0)))
  else
    let x := blockScale o (vs.map (·.1))
    let es := vs.map (fun p => narrowElem o mode p.2 (p.1.scale (-x)))
    ((x + 127).toNat, es.map (·.1), orAll (es.map (·.2)))

/-- Packs elements of `w` bits, element 0 lowest. -/
def packElems (w : Nat) (es : List Nat) : Nat := es.foldr (fun e acc => e + acc <<< w) 0

/-! ### Binary32 arithmetic (R141, R142) -/

def Fp.neg (v : Fp) : Fp :=
  match v with
  | .nan => .nan
  | .inf n => .inf (!n)
  | .fin n m e => .fin (!n) m e

/-- Exact sum, with INVALID for opposite infinities. -/
def Fp.add (a b : Fp) : Fp × Nat :=
  match a, b with
  | .nan, _ => (.nan, 0)
  | _, .nan => (.nan, 0)
  | .inf x, .inf y => if x = y then (.inf x, 0) else (.nan, flagInvalid)
  | .inf x, _ => (.inf x, 0)
  | _, .inf y => (.inf y, 0)
  | .fin n1 m1 e1, .fin n2 m2 e2 =>
    let e := min e1 e2
    let v1 : Int := (m1 <<< (e1 - e).toNat : Nat)
    let v2 : Int := (m2 <<< (e2 - e).toNat : Nat)
    let s := (if n1 then -v1 else v1) + (if n2 then -v2 else v2)
    (.fin (if s = 0 then n1 && n2 else decide (s < 0)) s.natAbs e, 0)

/-- Exact product, with INVALID for zero times an infinity. -/
def Fp.mul (a b : Fp) : Fp × Nat :=
  match a, b with
  | .nan, _ => (.nan, 0)
  | _, .nan => (.nan, 0)
  | .inf x, .inf y => (.inf (x != y), 0)
  | .inf x, .fin n m _ => if m = 0 then (.nan, flagInvalid) else (.inf (x != n), 0)
  | .fin n m _, .inf y => if m = 0 then (.nan, flagInvalid) else (.inf (n != y), 0)
  | .fin n1 m1 e1, .fin n2 m2 e2 => (.fin (n1 != n2) (m1 * m2) (e1 + e2), 0)

/-- src0 × src1 + src2, exact. -/
def Fp.fma (a b c : Fp) : Fp × Nat :=
  let (p, f) := a.mul b
  let (r, g) := p.add c
  (r, f ||| g)

/-- Sign of a − b: −1, 0 or 1; none when either is a NaN. Zeros are equal. -/
def Fp.cmp (a b : Fp) : Option Int :=
  match a, b with
  | .nan, _ => none
  | _, .nan => none
  | .inf x, .inf y => some (if x = y then 0 else if x then -1 else 1)
  | .inf x, _ => some (if x then -1 else 1)
  | _, .inf y => some (if y then 1 else -1)
  | a, b => match (a.add b.neg).1 with
    | .fin n m _ => some (if m = 0 then 0 else if n then -1 else 1)
    | _ => none

def Fp.isNeg (v : Fp) : Bool := match v with | .nan => false | .inf n => n | .fin n _ _ => n

/-- IEEE 754-2019 minimum, −0 < +0. -/
def Fp.min (a b : Fp) : Fp :=
  match a.cmp b with
  | none => .nan
  | some c => if c < 0 then a else if 0 < c then b else if a.isNeg then a else b
/-- IEEE 754-2019 maximum. -/
def Fp.max (a b : Fp) : Fp :=
  match a.cmp b with
  | none => .nan
  | some c => if 0 < c then a else if c < 0 then b else if a.isNeg then b else a

/-! ### Functions (R144 to R146) -/

/-- Integer square root by bits. -/
def isqrtBits : Nat → Nat → Nat → Nat
  | 0, _, r => r
  | k + 1, n, r =>
    let c := r + 2 ^ k
    isqrtBits k n (if c * c ≤ n then c else r)
def isqrt (n : Nat) : Nat := isqrtBits (Nat.log2 n / 2 + 1) n 0

/-- A magnitude with a sticky bit below it. -/
def sticky (n : Nat) (inexact : Bool) (exp : Int) : Nat × Int := (2 * n + b2n inexact, exp - 1)

/-- 1 / (m × 2^e) to 64 bits and a sticky bit. -/
def recip (m : Nat) (e : Int) : Nat × Int :=
  let k := Nat.log2 m + 64
  sticky (2 ^ k / m) (2 ^ k % m ≠ 0) (-(k : Int) - e)

/-- √(m × 2^e) to at least 64 bits and a sticky bit. -/
def sqrtOf (m : Nat) (e : Int) : Nat × Int :=
  let k := 128 + (e % 2).toNat
  let v := m <<< k
  let r := isqrt v
  sticky r (r * r ≠ v) ((e - k) / 2)

/-- 1 / √(m × 2^e) to at least 64 bits and a sticky bit. -/
def rsqrtOf (m : Nat) (e : Int) : Nat × Int :=
  let k := 2 * Nat.log2 m + 256 + (e % 2).toNat
  let v := 2 ^ k / m
  let r := isqrt v
  sticky r (2 ^ k % m ≠ 0 || r * r ≠ v) ((-(k : Int) - e) / 2)

/-! Enclosures: numbers as multiples of 2^−256, a lower bound and an upper bound. -/

def encBits : Nat := 256
def encOne : Nat := 2 ^ encBits

/-- Terms of the exponential series from the term `t` on. -/
def expTerms : Nat → Nat → Nat → Nat → Nat
  | 0, _, _, _ => 0
  | n + 1, k, y, t => t + expTerms n (k + 1) y (t * y / encOne / k)

/-- Squares both bounds `n` times. -/
def squareUp : Nat → Nat × Nat → Nat × Nat
  | 0, p => p
  | n + 1, (lo, hi) => squareUp n (lo * lo / encOne, hi * hi / encOne + 1)

/-- Bounds of e^y for bounds 0 ≤ y of a magnitude below 2^8. -/
def expPos (lo hi : Nat) : Nat × Nat :=
  squareUp 16 (expTerms 40 1 (lo / 2 ^ 16) encOne, expTerms 40 1 (hi / 2 ^ 16 + 1) encOne + 128)

/-- Bounds of the reciprocal. -/
def recipBounds (p : Nat × Nat) : Nat × Nat := (encOne * encOne / p.2, encOne * encOne / p.1 + 1)

/-- Terms z^(2k+1)/(2k+1) of the inverse hyperbolic tangent. -/
def atanhTerms : Nat → Nat → Nat → Nat → Nat
  | 0, _, _, _ => 0
  | n + 1, k, z2, t => t / (2 * k + 1) + atanhTerms n (k + 1) z2 (t * z2 / encOne)

/-- Bounds of ln m for m = p/q in [1, 2]: 2 atanh((p − q)/(p + q)). -/
def lnBounds (p q : Nat) : Nat × Nat :=
  let z := encOne * (p - q) / (p + q)
  let z2 := z * z / encOne
  let s := 2 * atanhTerms 100 0 z2 z
  (s, s + 1024)

/-- Bounds of ln 2. -/
def lnTwo : Nat × Nat := lnBounds 2 1

/-- A nonnegative magnitude as a multiple of 2^−256, rounded down. -/
def toEnc (m : Nat) (e : Int) : Nat := (roundAt 1 0 m e (-256)).1

/-- FP32 result of a transcendental function from bounds of its magnitude; a free value when they round apart. Such a result is never exact. -/
def settle (vop x : Nat) (neg : Bool) (p : Nat × Nat) : Nat × Nat :=
  let (lo, _) := fp32.round 0 0 p.1 (-256)
  let (hi, _) := fp32.round 0 0 p.2 (-256)
  if lo = hi then
    if fp32.top < lo then (fp32.sgn neg + fp32.top + 1, flagOverflow) else (fp32.sgn neg + lo, fp32.under lo true)
  else (Config.unsettled vop x % 2 ^ 32, 0)

/-- FP32 infinity or zero of a function far outside its range. -/
def hugeResult : Nat × Nat := (0x7F800000, flagOverflow)
def tinyResult : Nat × Nat := (0, flagUnderflow)

/-- e^x for a finite nonzero x (R145). -/
def expFn (vop x : Nat) (n : Bool) (m : Nat) (e : Int) : Nat × Nat :=
  if 8 ≤ topExp m e then (if n then tinyResult else hugeResult)
  else
    let y := toEnc m e
    let p := expPos y (y + 1)
    settle vop x false (if n then recipBounds p else p)

/-- e^x − 1 for a finite nonzero x. -/
def expm1Fn (vop x : Nat) (n : Bool) (m : Nat) (e : Int) : Nat × Nat :=
  if 8 ≤ topExp m e then (if n then (0xBF800000, 0) else hugeResult)
  else
    let y := toEnc m e
    let p := expPos y (y + 1)
    if n then
      let q := recipBounds p
      settle vop x true (encOne - q.2, encOne - q.1)
    else settle vop x false (p.1 - encOne, p.2 - encOne)

/-- 2^x for a finite nonzero x: exact when x is an integer. -/
def exp2Fn (vop x : Nat) (n : Bool) (m : Nat) (e : Int) : Nat × Nat :=
  if 9 ≤ topExp m e then (if n then tinyResult else hugeResult)
  else
    let (k, ix) := roundAt 1 0 m e 0
    if !ix then fp32.ieee 0 0 false 1 (if n then -(k : Int) else k)
    else
      let y := toEnc m e - k * encOne
      let q := expPos (y * lnTwo.1 / encOne) ((y + 1) * lnTwo.2 / encOne + 1)
      let p := if n then (recipBounds q) else q
      let shift := fun (v : Nat) (up : Nat) => if n then v / 2 ^ k + up else v * 2 ^ k
      settle vop x false (shift p.1 0, shift p.2 1)

/-- ln x or log₂ x for a finite positive x. -/
def logFn (vop x : Nat) (two : Bool) (m : Nat) (e : Int) : Nat × Nat :=
  let k := Nat.log2 m
  let t := topExp m e
  let l := if m = 2 ^ k then (0, 0) else lnBounds m (2 ^ k)
  let ln2 := if two then (encOne, encOne) else lnTwo
  let l' := if two then (l.1 * encOne / lnTwo.2, (l.2 * encOne / lnTwo.1) + 1) else l
  let l'' := if m = 2 ^ k then (0, 0) else l'
  let lo : Int := (if t < 0 then t * (ln2.2 : Int) else t * (ln2.1 : Int)) + (l''.1 : Int)
  let hi : Int := (if t < 0 then t * (ln2.1 : Int) else t * (ln2.2 : Int)) + (l''.2 : Int)
  if m = 2 ^ k && (two || t = 0) then
    fp32.ieee 0 0 (decide (t < 0)) t.natAbs 0
  else if 0 ≤ lo then settle vop x false (lo.toNat, hi.toNat)
  else settle vop x true ((-hi).toNat, (-lo).toNat)

/-- A function of R145 on an FP32 encoding, TANH and SIGMOID apart: result and flags. -/
def funcBase (vop x : Nat) : Nat × Nat :=
  let v := fp32.decode x
  match vop, v with
  | _, .nan => (0x7FC00000, 0)
  | 0x10, .inf n => (fp32.sgn n, 0)
  | 0x10, .fin n 0 _ => (0x7F800000 + fp32.sgn n, flagDivZero)
  | 0x10, .fin n m e => let (k, q) := recip m e; fp32.ieee 0 0 n k q
  | 0x11, .inf n => if n then (0x7FC00000, flagInvalid) else (0x7F800000, 0)
  | 0x11, .fin n 0 _ => (fp32.sgn n, 0)
  | 0x11, .fin n m e => if n then (0x7FC00000, flagInvalid) else let (k, q) := sqrtOf m e; fp32.ieee 0 0 false k q
  | 0x12, .inf n => if n then (0x7FC00000, flagInvalid) else (0, 0)
  | 0x12, .fin n 0 _ => (0x7F800000 + fp32.sgn n, flagDivZero)
  | 0x12, .fin n m e => if n then (0x7FC00000, flagInvalid) else let (k, q) := rsqrtOf m e; fp32.ieee 0 0 false k q
  | 0x13, .inf n => (if n then 0 else 0x7F800000, 0)
  | 0x13, .fin n m e => if m = 0 then (0x3F800000, 0) else expFn vop x n m e
  | 0x14, .inf n => (if n then 0 else 0x7F800000, 0)
  | 0x14, .fin n m e => if m = 0 then (0x3F800000, 0) else exp2Fn vop x n m e
  | 0x15, .inf n => (if n then 0xBF800000 else 0x7F800000, 0)
  | 0x15, .fin n m e => if m = 0 then (fp32.sgn n, 0) else expm1Fn vop x n m e
  | _, .inf n => if n then (0x7FC00000, flagInvalid) else (0x7F800000, 0)
  | _, .fin n m e =>
    if m = 0 then (0xFF800000, flagDivZero)
    else if n then (0x7FC00000, flagInvalid)
    else logFn vop x (vop = 0x17) m e

/-- FP32 sum and product of encodings, rounded to nearest even. -/
def addEnc (a b : Nat) : Nat := (fp32.encode ((fp32.decode a).add (fp32.decode b)).1).1
def mulEnc (a b : Nat) : Nat := (fp32.encode ((fp32.decode a).mul (fp32.decode b)).1).1
/-- The encoding with its sign inverted, and without it. -/
def negEnc (x : Nat) : Nat := x ^^^ 0x80000000
def absEnc (x : Nat) : Nat := bf x 0 31

/-- TANH as the sequence of R146; no step sets a flag. -/
def tanhFn (x : Nat) : Nat :=
  if fp32.decode x = .nan then 0x7FC00000
  else
    let e := (funcBase 0x15 (mulEnc 0xC0000000 (absEnc x))).1
    let d := addEnc e 0x40000000
    let r := (funcBase 0x10 d).1
    let t := mulEnc (negEnc e) r
    absEnc t + (x - absEnc x)

/-- SIGMOID as the sequence of R146. -/
def sigmoidFn (x : Nat) : Nat :=
  if fp32.decode x = .nan then 0x7FC00000
  else
    let e := (funcBase 0x13 (negEnc x)).1
    (funcBase 0x10 (addEnc 0x3F800000 e)).1

/-- A function of R145 on an FP32 encoding. -/
def funcEnc (vop x : Nat) : Nat × Nat :=
  if vop = 0x18 then (tanhFn x, 0) else if vop = 0x19 then (sigmoidFn x, 0) else funcBase vop x

/-! ### One element of a vector command -/

/-- Element layout by TYPE (R138). -/
def typeFmt (ty : Nat) : Fmt := if ty = 0 then fp32 else bf16

/-- An FP32 result with its flags, delivered in TYPE: BF16 rounds it once more to nearest even (R141). DESIGN CHOICE (log entry 33): the flags of that rounding join those of the FP32 result, so that TANH and SIGMOID in BF16 can set UNDERFLOW or OVERFLOW though no step of R146 sets a flag. -/
def deliverType (ty : Nat) (r : Nat × Nat) : Nat × Nat :=
  if ty = 0 then r
  else
    let v := fp32.decode r.1
    let (c, f) := bf16.encode v
    (c, r.2 ||| f)

/-- One element of an arithmetic or function command: `x` the bits of src0, `a`, `b`, `c` the values of the sources (R142, R145). -/
def vecElem (vop ty x : Nat) (a b c : Fp) : Nat × Nat :=
  let f := typeFmt ty
  let w := f.eb + f.mb
  let exact := fun (p : Fp × Nat) => let (k, g) := f.encode p.1; (k, p.2 ||| g)
  let one := if ty = 0 then 0x3F800000 else 0x3F80
  match vop with
  | 0x01 => exact (a.add b)
  | 0x02 => exact (a.add b.neg)
  | 0x03 => exact (a.mul b)
  | 0x04 => exact (a.fma b c)
  | 0x05 => exact (a.min b, 0)
  | 0x06 => exact (a.max b, 0)
  | 0x07 => (bf x 0 w, 0)
  | 0x08 => (x ^^^ 2 ^ w, 0)
  | 0x09 => (if a.cmp b = some (-1) then one else 0, 0)
  | 0x0A => (if a.cmp b = some (-1) || a.cmp b = some 0 then one else 0, 0)
  | 0x0B => (if a.cmp b = some 0 then one else 0, 0)
  | v => deliverType ty (funcEnc v (if ty = 0 then x else x <<< 16))

/-- One element of CVT_WIDEN: an element of IN_FORMAT with a scale byte when SCALED (R147). -/
def widenElem (f c : Nat) (scale : Option Nat) : Nat × Nat :=
  if scale = some 0xFF then (0x7FC00000, flagInvalid)
  else
    match elemVal f c with
    | .nan => (0x7FC00000, flagInvalid)
    | .inf n => (0x7F800000 + fp32.sgn n, flagOverflow)
    | .fin n m e => fp32.ieee 0 0 n m (e + match scale with | some k => (k : Int) - 127 | none => 0)

end Sys2Proof.Machine
end

