-- ==== Sys2Proof/Machine/Kiln.lean ====
section
/-! DEFINITION. The exact accumulator of a cell (R100 to R109, R126), its limb-masked form (R115, R116), and how a value with its flag set leaves as FP32 or BF16 (R131 to R133, R137). -/

namespace Sys2Proof.Machine

/-! ### The kiln (R102 to R105) -/

/-- The sum of the limbs and the pending carries, as 640-bit two's complement (R105). -/
def Cell.resolved (c : Cell) : BitVec 640 :=
  (List.range 9).foldl (fun v k => if c.carries.getLsbD k then v + BitVec.ofNat 640 (2 ^ (64 * (k + 1))) else v) c.limbs

/-- Adds in carry-save form: each limb takes the pending carry below it and leaves its own at the boundary above (R105). -/
def Cell.addKiln (c : Cell) (x : BitVec 640) : Cell :=
  let (l, cy) := (List.range 10).foldl (fun (acc : Nat × Nat) k =>
    let t := bf c.limbs.toNat (64 * k) 64 + bf x.toNat (64 * k) 64 + (if k = 0 then 0 else b2n (c.carries.getLsbD (k - 1)))
    (acc.1 + (t % 2 ^ 64) <<< (64 * k), if k < 9 then acc.2 + (t / 2 ^ 64) <<< k else acc.2)) (0, 0)
  { c with limbs := BitVec.ofNat 640 l, carries := BitVec.ofNat 9 cy }

/-- Bits [639:637] are not all equal (R103). -/
def outOfRange (v : BitVec 640) : Bool := !(bf v.toNat 637 3 = 0 || bf v.toNat 637 3 = 7)

/-- Promotes the coal under the unbiased scale exponents of its block, and leaves it empty (R104). -/
def Cell.promote (c : Cell) (sa sb : Int) : Cell :=
  if c = {} then c
  else { c.addKiln (BitVec.ofInt 640 (c.coal.toInt * 2 ^ (254 + sa + sb).toNat)) with coal := 0 }

/-- Value of an E8M0 scale as its unbiased exponent; a NaN scale counts as 0 because its products add nothing (R74, R101). -/
def scaleExp (e : Nat) : Int := if e = 0xFF then 0 else (e : Int) - 127

/-! ### One K-step in a cell (R101, R107, R126, R128) -/

/-- Adds the product of two elements: exact into the coal, or into the kiln for 16-bit formats, or a flag. `bad` says that a scale of the product is NaN. -/
def Cell.product (wide bad : Bool) (c : Cell) (a b : Fp) : Cell :=
  if bad then { c with nan := true }
  else
    match a, b with
    | .nan, _ => { c with nan := true }
    | _, .nan => { c with nan := true }
    | .fin n1 m1 e1, .fin n2 m2 e2 =>
      let m := m1 * m2
      if m = 0 then c
      else
        let v : Int := if n1 != n2 then -(m : Int) else m
        if wide then c.addKiln (BitVec.ofInt 640 (v * 2 ^ (e1 + e2 + 286).toNat))
        else { c with coal := c.coal + BitVec.ofInt 72 (v * 2 ^ (e1 + e2 + 32).toNat) }
    | a, b =>
      match (a.mul b).1 with
      | .inf n => if n then { c with negInf := true } else { c with posInf := true }
      | _ => { c with nan := true }

/-! ### The array -/

/-- The copies 0 to n − 1 of a sparse list in order. -/
def unlist {α : Type} (d : α) : Nat → Nat → Sparse α → List α
  | 0, _, _ => []
  | n + 1, k, [] => d :: unlist d n (k + 1) []
  | n + 1, k, (j, v) :: r => if j = k then v :: unlist d n (k + 1) r else d :: unlist d n (k + 1) ((j, v) :: r)

/-- Lists the copies that are not at their default, from number k on. -/
def relist {α : Type} [DecidableEq α] (d : α) : Nat → List α → Sparse α
  | _, [] => []
  | k, v :: r => if v = d then relist d (k + 1) r else (k, v) :: relist d (k + 1) r

/-- Changes every cell of the array by its row and column. -/
def mapCells (f : Nat → Nat → Cell → Cell) (cs : Sparse Cell) : Sparse Cell :=
  let full := unlist ({} : Cell) 4096 0 cs
  relist {} 0 ((full.zip (List.range 4096)).map (fun p => f (p.2 / 64) (p.2 % 64) p.1))

/-! ### Values with flags -/

/-- The value of a cell with its flags, OVERFLOW included when the kiln is out of range (R103, R110). -/
def Cell.value (c : Cell) : LimbVal :=
  let v := c.resolved
  { limbs := v, nan := c.nan, posInf := c.posInf, negInf := c.negInf, overflow := c.overflow || outOfRange v }

/-- The flags as R115 numbers them from NAN up. -/
def LimbVal.flags (v : LimbVal) : Nat := b2n v.nan + 2 * b2n v.posInf + 4 * b2n v.negInf + 8 * b2n v.overflow

/-- A value from its limbs and flag bits. -/
def LimbVal.mk' (l : BitVec 640) (f : Nat) : LimbVal :=
  { limbs := l, nan := bit f 0, posInf := bit f 1, negInf := bit f 2, overflow := bit f 3 }

/-- The class of R131: NaN for invalid, an infinity, or the finite value. -/
def LimbVal.toFp (v : LimbVal) : Fp :=
  if v.nan || (v.posInf && v.negInf) then .nan
  else if v.posInf then .inf false
  else if v.negInf then .inf true
  else if v.overflow then .nan
  else ofInt v.limbs.toInt (-286)

/-- An FP32 encoding as an exact contribution (R239). -/
def fp32Limb (c : Nat) : LimbVal :=
  match fp32.decode c with
  | .nan => { nan := true }
  | .inf n => if n then { negInf := true } else { posInf := true }
  | .fin n m e =>
    let v : Int := (m <<< (e + 286).toNat : Nat)
    { limbs := BitVec.ofInt 640 (if n then -v else v) }

/-! ### Limb-masked form (R115, R116) -/

/-- Limb k. -/
def limb (v : BitVec 640) (k : Nat) : Nat := bf v.toNat (64 * k) 64

/-- The canonical mask, and the limbs it names in ascending order. -/
def limbMask (v : BitVec 640) : Nat :=
  let fill := if v.getLsbD 639 then 2 ^ 64 - 1 else 0
  match ((List.range 10).reverse).find? (fun k => limb v k ≠ fill) with
  | none => 0
  | some t => (List.range t).foldl (fun m k => if limb v k = 0 then m else m + 2 ^ k) (2 ^ t)

/-- The cell field of a value. -/
def LimbVal.field (v : LimbVal) : Nat :=
  limbMask v.limbs + b2n (v.limbs.getLsbD 639) <<< 10 + v.flags <<< 11

/-- The present limbs of a value. -/
def LimbVal.present (v : LimbVal) : List Nat :=
  (List.range 10).filterMap (fun k => if bit (limbMask v.limbs) k then some (limb v.limbs k) else none)

/-- A value in limb-masked form as bytes. -/
def LimbVal.bytes (v : LimbVal) : List Byte := natLe 2 v.field ++ v.present.flatMap (natLe 8)

/-- Number of limbs a cell field says are present. -/
def fieldLimbs (f : Nat) : Nat := ((List.range 10).filter (fun k => bit f k)).length

/-- Decodes a cell field with its present limbs. -/
def limbDecode (f : Nat) (ls : List Nat) : LimbVal :=
  let fill := if bit f 10 then 2 ^ 64 - 1 else 0
  let mask := bf f 0 10
  let top := if mask = 0 then 0 else Nat.log2 mask + 1
  let (v, _) := (List.range 10).foldl (fun (acc : Nat × List Nat) k =>
    if bit mask k then (acc.1 + (acc.2.headD 0) <<< (64 * k), acc.2.drop 1)
    else if top ≤ k then (acc.1 + fill <<< (64 * k), acc.2)
    else acc) (0, ls)
  LimbVal.mk' (BitVec.ofNat 640 v) (bf f 11 4)

/-! ### Row of a drain (R110) -/

/-- One output row: its bytes, its scale bytes for the two halves of an MX row, and the flags raised. `draw j` is the draw of column j. -/
def drainRow (o mode : Nat) (shift : Int) (draw : Nat → Nat) (vs : List LimbVal) : List Byte × List Nat × Nat :=
  let ws := (vs.zip (List.range 64)).map (fun p => (p.1.toFp.scale shift, if mode = 2 then draw p.2 else 0))
  let w := outBits o
  if outMx o then
    let (s0, e0, f0) := narrowBlock o mode (ws.take 32)
    let (s1, e1, f1) := narrowBlock o mode (ws.drop 32)
    (natLe (8 * w) (packElems w (e0 ++ e1)), [s0, s1], f0 ||| f1)
  else
    let es := ws.map (fun p => narrowElem o mode p.2 p.1)
    (natLe (8 * w) (packElems w (es.map (·.1))), [], orAll (es.map (·.2)))

/-- OVERFLOW is set in a value that is out of range (R103, R110 step 2). -/
def LimbVal.ranged (v : LimbVal) : LimbVal := { v with overflow := v.overflow || outOfRange v.limbs }

/-- A value delivered as FP32 or BF16 by a FINISH, by R110 from step 2 on (R137, R244). -/
def finishValue (o mode draw : Nat) (v : LimbVal) : Nat := (narrowElem o mode draw v.ranged.toFp).1

/-! ### Spill image (R117) -/

/-- Billets of a spill region from its first: the limb billets, then the 16 cell-field billets, with L. -/
def spillImage (vs : List LimbVal) : Nat × List (Nat × List Byte) :=
  let limbs := vs.flatMap (·.present)
  let l := ceilDiv limbs.length 64
  let data := limbs.flatMap (natLe 8)
  let fields := vs.flatMap (fun v => natLe 2 v.field)
  (l, (List.range l).map (fun b => (b, ((data.drop (512 * b)).take 512 ++ List.replicate 512 0).take 512))
    ++ (List.range 16).map (fun b => (640 + b, (fields.drop (512 * b)).take 512)))

/-- Reads a spill image: the fields and the limbs give the values in order. -/
def spillDecode : List Nat → List Nat → List LimbVal
  | [], _ => []
  | f :: fs, ls => limbDecode f (ls.take (fieldLimbs f)) :: spillDecode fs (ls.drop (fieldLimbs f))

/-- A resumed cell. -/
def LimbVal.cell (v : LimbVal) : Cell :=
  { limbs := v.limbs, nan := v.nan, posInf := v.posInf, negInf := v.negInf, overflow := v.overflow }

/-- Cells of a list of values with any flag set. -/
def flaggedCells (vs : List LimbVal) : Nat := (vs.filter (fun v => v.flags ≠ 0)).length

end Sys2Proof.Machine
end

