-- ==== Sys2Proof/Machine/Rick.lean ====
section
/-! DEFINITION. The combining queue of a tile: streams, ember words and side tables, contributions, FINISH and the hand-off to the stokers (09_channels_and_ricks.md R235 to R245, R453; R259, R260). -/

namespace Sys2Proof.Machine

/-! ### The rick command (R236) -/

def rOp (c : BitVec 256) : Nat := cf c 8 0 3
def rStream (c : BitVec 256) : Nat := cf c 8 3 2
def rForward (c : BitVec 256) : Bool := bit c.toNat 69
def rRemote (c : BitVec 256) : Bool := bit c.toNat 70
def rPeerStream (c : BitVec 256) : Nat := cf c 9 0 2
def rRound (c : BitVec 256) : Nat := cf c 9 0 2
def rDestKind (c : BitVec 256) : Nat := cf c 9 2 2
def rOut (c : BitVec 256) : Nat := cf c 9 4 4
def rAnchor (c : BitVec 256) : Int := signed 10 (cf c 10 0 10)
def rElements (c : BitVec 256) : Nat := cf c 12 0 16
def rPeerTile (c : BitVec 256) : Nat := cf c 12 0 11
def rCount (c : BitVec 256) : Nat := cf c 12 0 16
def rPitch (c : BitVec 256) : Nat := cf c 14 0 16
def rAddr (c : BitVec 256) : Nat := cf c 14 0 16
def rFirst (c : BitVec 256) : Nat := cf c 16 0 32
def rBase (c : BitVec 256) : Nat := cf c 20 0 16
def rSegGap (c : BitVec 256) : Nat := cf c 22 0 16
def rSideBase (c : BitVec 256) : Nat := cf c 24 0 16
def rSrTag (c : BitVec 256) : Nat := cf c 24 0 16
def rSideEntries (c : BitVec 256) : Nat := cf c 26 0 13
def rExpect (c : BitVec 256) : Nat := cf c 28 0 32

/-- `n` billets from an Ember billet address lie inside the rick area of a context (R235, R237). -/
def MapEntry.inRick (e : MapEntry) (a n : Nat) : Bool :=
  n = 0 || (bilOf a).any (fun p => p.1 = .ember && decide (e.rickBase ≤ p.2) && decide (p.2 + n ≤ e.rickBase + e.rickN))

/-- A field that the OP does not use, or a reserved one, is nonzero (R236). -/
def rUnused (c : BitVec 256) : Bool :=
  let tail := cf c 16 0 128 ≠ 0
  bit c.toNat 71 ||
  match rOp c with
  | 1 =>
    cf c 9 2 6 ≠ 0 || cf c 26 13 3 ≠ 0 ||
    (if rForward c then rRemote c || cf c 10 0 16 ≠ 0 || cf c 12 11 5 ≠ 0 || tail
     else rPeerStream c ≠ 0 || cf c 10 10 6 ≠ 0)
  | 2 => cf c 8 5 2 ≠ 0 || cf c 9 0 24 ≠ 0 || cf c 20 0 96 ≠ 0
  | 3 =>
    cf c 8 5 2 ≠ 0 || cf c 10 0 16 ≠ 0 || cf c 20 0 32 ≠ 0 || cf c 26 0 48 ≠ 0 ||
    (match rDestKind c with
     | 0 => cf c 12 0 16 ≠ 0 || cf c 16 0 32 ≠ 0
     | 1 => cf c 12 0 16 ≠ 0 || cf c 14 0 16 ≠ 0
     | _ => cf c 12 11 5 ≠ 0 || cf c 14 0 16 ≠ 0 || cf c 16 2 30 ≠ 0)
  | _ => cf c 8 5 2 ≠ 0 || cf c 9 0 184 ≠ 0

/-- The checks of a rick command at enqueue (R237, R451). -/
def rickChecks (e : MapEntry) (c : BitVec 256) : List (Bool × Nat) :=
  let acc := rOp c = 1 && !rForward c
  let fin := rOp c = 3
  syncChecks e.ctrSize c ++
  [ (rOp c = 0 || 5 ≤ rOp c, 0x01)
  , (rUnused c, 0x01)
  , (acc && ((bilOf (rBase c)).isNone || (bilOf (rSideBase c)).isNone), 0x01)
  , ((rOp c = 2 || (fin && rDestKind c = 0)) && (bilOf (rAddr c)).isNone, 0x01)
  , (fin && (rDestKind c = 3 || rRound c = 3 || !(rOut c = 0 || rOut c = 1 || rOut c = 0xF)), 0x01)
  , (rOp c = 2 && rCount c = 0xFFFF, 0x04)
  , (((rOp c = 1 && rForward c) || (fin && rDestKind c = 2)) && 1536 ≤ rPeerTile c, 0x06)
  , (acc && (!e.inRick (rBase c) (3 * rSegGap c + rElements c / 64) || !e.inRick (rSideBase c) (rSideEntries c / 4)), 0x05)
  , (acc && (rAnchor c < -286 || 98 < rAnchor c), 0x02)
  , (acc && (rElements c = 0 || rElements c % 64 ≠ 0 || 32768 < rElements c), 0x02)
  , (rOp c = 1 && (rPitch c = 0 || rPitch c % 64 ≠ 0), 0x02)
  , (acc && rSegGap c < rElements c / 64, 0x02)
  , (acc && (rSideEntries c % 4 ≠ 0 || 4096 < rSideEntries c), 0x02)
  , (fin && rOut c = 0xF && rDestKind c ≠ 2, 0x02) ]

/-! ### Streams -/

def Tile.stream (x : Tile) (n : Nat) : RickStream := sgetD x.rick.streams n {}
def Tile.modStream (x : Tile) (n : Nat) (f : RickStream → RickStream) : Tile :=
  { x with rick := { x.rick with streams := smod x.rick.streams n {} f } }

/-- Physical Ember billet and byte of the ember word of relative element r (R238). -/
def RickStream.word (k : RickStream) (r : Nat) : Nat × Nat :=
  (k.base + ((r / 16) % 4) * k.segGap + r / 64, 32 * (r % 16))

/-- Billets of the buffer and of the side table. -/
def RickStream.billets (k : RickStream) : List Nat :=
  (List.range 4).flatMap (fun g => rangeFrom (k.base + g * k.segGap) (k.elements / 64))
def RickStream.sideBillets (k : RickStream) : List Nat := rangeFrom k.sideBase (k.sideEntries / 4)

/-- Four free side-table entries (R237). -/
def freeSide : List Byte := (List.replicate 4 (natLe 4 0xFFFFFFFF ++ List.replicate 124 (0 : Byte))).flatten

/-- The writes that empty the buffer and free the side table, one billet each (R237, R244). -/
def clearWrites (t : Nat) (k : RickStream) (s : State) : State :=
  forAll k.sideBillets (fun b s => postWrite t .rick .ember b freeSide .rick s)
    (forAll k.billets (fun b s => postWrite t .rick .ember b (List.replicate 512 0) .rick s) s)

/-- Value and flags held in a side-table entry. -/
def sideValue (b : List Byte) : LimbVal := LimbVal.mk' (BitVec.ofNat 640 (bytesAt b 16 80)) (bf (bytesAt b 4 2) 11 4)

/-- The entry as bytes. -/
def sideBytes (e : Nat) (v : LimbVal) : List Byte :=
  natLe 4 e ++ natLe 2 (v.flags <<< 11) ++ natLe 10 0 ++ natLe 80 v.limbs.toNat ++ natLe 32 0

/-- Element index of a free entry (R240). -/
def freeIndex : Nat := 0xFFFFFFFF

/-- Adds values exactly and joins their flags (R239). -/
def LimbVal.add (a b : LimbVal) : LimbVal := LimbVal.mk' (a.limbs + b.limbs) (a.flags ||| b.flags)

/-- Ember word at a byte of a billet's image. -/
def emberWord (img : List Byte) (o : Nat) : BitVec 256 := BitVec.ofNat 256 (bytesAt img o 32)

/-- The image of an ember billet with a contribution added in place; none when it must go to the side table (R239). -/
def addWord (k : RickStream) (img : List Byte) (e : Nat) (v : LimbVal) : Option (List Byte) :=
  let o := (k.word (e - k.first)).2
  let unit : Int := 2 ^ (k.anchor + 286).toNat
  let c := v.limbs.toInt
  let q := (emberWord img o).toInt + c / unit
  if v.flags = 0 && c % unit = 0 && decide (-(2 ^ 255 : Int) ≤ q) && decide (q < 2 ^ 255) then
    some (overlay img o (natLe 32 (BitVec.ofInt 256 q).toNat))
  else none

/-- Adds the contributions of a billet in order to its image; those that must go to the side table are left over. -/
def addWords (k : RickStream) : List Contrib → List Byte → List Byte × List Contrib
  | [], img => (img, [])
  | a :: r, img =>
    match addWord k img a.elem a.value with
    | some img' => addWords k r img'
    | none => let (i, l) := addWords k r img; (i, a :: l)

/-- Billets that a FINISH reads, in element order and then the side table. -/
def RickStream.reads (k : RickStream) : List Nat :=
  (List.range (k.elements / 64)).flatMap (fun j => (List.range 4).map (fun g => k.base + g * k.segGap + j)) ++ k.sideBillets

/-- A billet that a FINISH has read. -/
def Tile.finBillet (x : Tile) (n : Nat) : List Byte := (x.arrival (.rickSrc n)).getD []

/-- The side-table entry of element e among the billets that a FINISH has read (R240). -/
def Tile.finEntry (x : Tile) (k : RickStream) (e : Nat) : Option LimbVal :=
  ((List.range k.sideEntries).map (fun i => (e + i) % k.sideEntries)).findSome? (fun m =>
    let b := ((x.finBillet (4 * (k.elements / 64) + m / 4)).drop (128 * (m % 4))).take 128
    let i := leNat (b.take 4)
    if i = e then some (some (sideValue b)) else if i = freeIndex then some none else none) |>.join

/-- The value of relative element r with its flags: its word plus its entry, with OVERFLOW when it is out of range (R239, R244). -/
def Tile.element (x : Tile) (k : RickStream) (r : Nat) : LimbVal :=
  let q := (emberWord (x.finBillet (4 * (r / 64) + (r / 16) % 4)) (k.word r).2).toInt
  let w : LimbVal := { limbs := BitVec.ofInt 640 (q * 2 ^ (k.anchor + 286).toNat) }
  (match x.finEntry k (k.first + r) with
    | some v => w.add v
    | none => w).ranged

/-! ### Packets (R241, R242) -/

/-- Splits bytes into flits of 64 bytes. -/
def flitBytes (bs : List Byte) : List (List Byte) :=
  (List.range (ceilDiv bs.length 64)).map (fun i => ((bs.drop (64 * i)).take 64 ++ List.replicate 64 0).take 64)

/-- The flits of a contribution packet; `tag` tells a FORWARD stream's packets from others on the mesh. -/
def rickFlits (t ctx dst stream first count : Nat) (exact : Bool) (tag : Nat) (bs : List Byte) : List Flit :=
  let f : Flit := { vn := .l, src := t, dst := dst, ctx := ctx, tag := tag }
  { f with body := .rickHead stream first count exact } :: (flitBytes bs).map (fun b => { f with body := .rickData, bytes := b })

/-- Bytes of contributions in a form: FP32 values, or limb-masked cells end to end. -/
def packetBytes (exact : Bool) (vs : List LimbVal) : List Byte :=
  if exact then vs.flatMap (·.bytes) else vs.flatMap (fun v => natLe 4 (finishValue 0 0 0 v))

/-- Sends a packet of contributions, or refuses it at the sender (R198); during a replay a packet that leaves the partition goes to the replay output (R397). -/
def sendPacket (t ctx dst stream first : Nat) (exact : Bool) (tag : Nat) (vs : List LimbVal) (s : State) : State :=
  match sendRefusal s dst with
  | some k => ctxFault t ctx 0x05 k s
  | none =>
    if s.replays ctx && !((s.ctx ctx).any (fun c => c.hasTile dst)) then replayOutput t 4 (packetBytes exact vs) s
    else inject t (rickFlits t ctx dst stream first vs.length exact tag (packetBytes exact vs)) s

/-- Packets of a FORWARD stream are still on the mesh or in its peer's input buffer (R237). -/
def State.inFlight (s : State) (t stream : Nat) : Bool :=
  let mine := fun (f : Flit) => f.vn = .l && f.src = t && f.tag = stream + 1
  s.tiles.any (fun p => p.2.rick.input.any mine || p.2.router.inj.any mine || p.2.router.bufs.any (fun b => b.2.any mine))

/-- Gives contributions from element `e` on to a stream: queued for its adder, or sent on by a FORWARD stream (R241, R242). `src` is the drain or CONTRIBUTE they come from. -/
def contribute (t ctx n e : Nat) (exact : Bool) (src : Option Nat) (vs : List LimbVal) (s : State) : State :=
  let k := (s.tile t).stream n
  if k.forward then sendPacket t ctx k.peerTile k.peerStream e exact (n + 1) vs s
  else if k.stopped then s
  else
    s.modTile t (fun x => { x with rick := { x.rick with
      adds := x.rick.adds ++ (vs.zip (List.range vs.length)).map (fun p => { stream := n, elem := e + p.2, value := p.1, src := src }) } })

/-- Contributions of such a kind are still to be added, in a billet or in a side table. -/
def RickSt.pending (r : RickSt) (p : Contrib → Bool) : Bool :=
  r.adds.any p || r.works.any (fun w => w.conts.any p) || r.sides.any (fun a => p a.cont)

/-- A stream's adder has something to do. -/
def RickSt.busy (r : RickSt) (n : Nat) : Bool := r.pending (fun c => c.stream = n) || r.works.any (fun w => w.stream = n)

/-- Elements lie inside a stream's range (R241). -/
def RickStream.holds (k : RickStream) (e n : Nat) : Bool :=
  k.forward || (decide (k.first ≤ e) && decide (e + n ≤ k.first + k.elements))

/-! ### Commands -/

/-- Runs the head of the rick queue when its OP is the row's. -/
def withRickHead (t op : Nat) (s : State) (f : QEntry → MapEntry → Ctx → State) : State :=
  let q := (s.tile t).rickQ.head?
  if q.any (fun q => rOp q.cmd = op && !q.done) then
    match headEntry s t q with
    | .idle => s
    | .saturated c => ctxFault t c 0x07 0x0B (s.modTile t (fun x => { x with rickQ := x.rickQ.drop 1 }))
    | .go q e c => f q e c
  else s

def setRickHead (t : Nat) (q : QEntry) (s : State) : State :=
  s.modTile t (fun x => { x with rickQ := q :: x.rickQ.drop 1 })

/-- The head of the rick queue is refused at start. -/
def refuseRick (t : Nat) (q : QEntry) (code : Nat) (s : State) : State :=
  ctxFault t q.ctx 0x05 code (s.modTile t (fun x => { x with rickQ := x.rickQ.drop 1 }))

/-- The head of the rick queue starts. -/
def startRick (t : Nat) (q : QEntry) (s : State) : State :=
  if q.started then s else startLatch t 3 q (setRickHead t (startedEntry s t q) s)

/-- The head of the rick queue has done all its work. -/
def rickDone (t : Nat) (s : State) : State :=
  s.modTile t (fun x => match x.rickQ with
    | q :: r => { x with rickQ := { q with done := true } :: r }
    | [] => x)

/-- A read of the head of the rick queue. -/
def ReqDst.isRickSrc : ReqDst → Bool
  | .rickSrc _ => true
  | _ => false

/-- The head of the rick queue asks for its next source billets, in order, once those before have been granted. -/
def rickAsk (t : Nat) (bils : List (StoreId × Nat)) (n : Nat) (s : State) : State :=
  let x := s.tile t
  match x.rickQ.head? with
  | none => s
  | some q =>
    if !x.reqs.all (fun r => !r.dst.isRickSrc) then s
    else
      let m := min n (bils.length - q.kDone)
      forAll (((bils.drop q.kDone).take m).zip (rangeFrom q.kDone m)) (fun p s => postRead t .rick p.1.1 p.1.2 (.rickSrc p.2) s)
        (setRickHead t { q with kDone := q.kDone + m } s)

/-- The stream that a DEFINE sets up (R235). -/
def definedStream (q : QEntry) (e : MapEntry) : RickStream :=
  let c := q.cmd
  if rForward c then
    { defined := true, forward := true, slot := q.slot, ctx := q.ctx, pitch := rPitch c, peerTile := rPeerTile c, peerStream := rPeerStream c }
  else
    { defined := true, slot := q.slot, ctx := q.ctx, remote := rRemote c, anchor := rAnchor c, elements := rElements c
      pitch := rPitch c, first := rFirst c, base := e.emBase + bf (rBase c) 0 13, segGap := rSegGap c
      sideBase := e.emBase + bf (rSideBase c) 0 13, sideEntries := rSideEntries c, expect := rExpect c }

/-- Stream `n` of the rick becomes `k`. -/
def Tile.setStream (x : Tile) (n : Nat) (k : RickStream) : Tile := { x with rick := { x.rick with streams := sset x.rick.streams n k } }

/-- DEFINE (R235 to R238): defines a stream of the slot, and writes every ember word to zero and every side-table entry as free. The check is that of the queue entry (R409). -/
def execDefine (site : Site) (s : State) : Host.Outcome State Fault Refusal :=
  let t := site.val
  .next <| withRickHead t 1 s fun q e _ =>
    match tileEcc t site.ecc s with
    | (none, s') => s'
    | (some s1, _) =>
      let n := rStream q.cmd
      let k := definedStream q e
      if ((s.tile t).stream n).defined then refuseRick t q 0x07 s1
      else
        let s2 := (startRick t q s1).modTile t (·.setStream n k)
        rickDone t (if k.forward then s2 else clearWrites t k s2)

/-- A command names a stream of its slot that is defined (R237). -/
def Tile.ownStream (x : Tile) (q : QEntry) : Bool :=
  let k := x.stream (rStream q.cmd)
  k.defined && k.slot = q.slot && k.ctx = q.ctx

/-- Source billets of a CONTRIBUTE. -/
def rSources (e : MapEntry) (c : BitVec 256) : List (StoreId × Nat) :=
  match e.resolve (rAddr c) (rCount c) with
  | .ok (st, i) => (List.range (rCount c)).map (fun j => (st, i + j))
  | .error _ => []

/-- The FP32 elements of a billet as exact values. -/
def billetValues (bs : List Byte) : List LimbVal := (List.range (bs.length / 4)).map (fun j => fp32Limb (bytesAt bs (4 * j) 4))

/-- Source billets that a CONTRIBUTE has given to its stream. -/
def QEntry.given (q : QEntry) : Nat := sgetD q.asked 0 0

/-- The head CONTRIBUTE gives its next source billet, when it has arrived, to the stream; a FORWARD stream takes the whole range as one packet (R242). -/
def contributeGive (t : Nat) (s : State) : State :=
  let x := s.tile t
  match x.rickQ.head? with
  | none => s
  | some q =>
    let c := q.cmd
    let n := rStream c
    let give := fun (k m : Nat) (bs : List Byte) (s : State) =>
      contribute t q.ctx n (rFirst c + 128 * k) false (some q.id) (billetValues bs) ((setRickHead t { q with asked := sset q.asked 0 (k + m) } s).modTile t
        (fun x => { x with arrived := x.arrived.filter (fun a => !a.1.isRickSrc || decide (2 ≤ m) || a.1 ≠ .rickSrc k) }))
    if (x.stream n).forward then
      let all := (List.range (rCount c)).map (fun k => x.arrival (.rickSrc k))
      if q.given = 0 && all.all (·.isSome) then
        (give 0 (rCount c) (all.flatMap (fun (b : Option (List Byte)) => b.getD [])) s).modTile t (·.dropReqs (·.isRickSrc))
      else s
    else
      match x.arrival (.rickSrc q.given) with
      | some bs => give q.given 1 bs s
      | none => s

/-- CONTRIBUTE (R241, R453): reads its source billets in order, at rick priority, and gives their FP32 elements to the stream; a held billet delays those behind it. COUNT 0 is a no-op (R415). `ecc` is the check of the queue entry that the start reads (R409). -/
def execContribute (t : TileId) (ecc : Check) (s : State) : Host.Outcome State Fault Refusal :=
  .next <| withRickHead t 2 s fun q e _ =>
    let c := q.cmd
    let x := s.tile t
    if q.started then
      let s1 := rickAsk t (rSources e c) 1 (contributeGive t s)
      if ((s1.tile t).rickQ.head?).any (fun q => q.given = rCount c) then rickDone t s1 else s1
    else
      match tileEcc t ecc s with
      | (none, s') => s'
      | (some s1, _) =>
        if rCount c = 0 then rickDone t (startRick t q s1)
        else if !x.ownStream q then refuseRick t q 0x07 s1
        else
          match e.resolve (rAddr c) (rCount c) with
          | .error r => refuseRick t q r s1
          | .ok _ =>
            if !(x.stream (rStream c)).holds (rFirst c) (128 * rCount c) then refuseRick t q 0x05 s1
            else rickAsk t (rSources e c) 1 (startRick t q s1)

/-- RELEASE (R237): the stream is no longer defined; refused while its buffer holds contributions or its packets are in flight. The check is that of the queue entry (R409). -/
def execRelease (site : Site) (s : State) : Host.Outcome State Fault Refusal :=
  let t := site.val
  .next <| withRickHead t 4 s fun q _ _ =>
    match tileEcc t site.ecc s with
    | (none, s') => s'
    | (some s1, _) =>
      let n := rStream q.cmd
      let x := s.tile t
      let k := x.stream n
      if !x.ownStream q then refuseRick t q 0x07 s1
      else if k.arrived ≠ 0 || x.rick.busy n || (k.forward && s.inFlight t n) then refuseRick t q 0x07 s1
      else
        rickDone t ((startRick t q s1).modTile t (fun x => { x with rick := { x.rick with streams := sdel x.rick.streams n } }))

/-! ### FINISH (R244, R245, R259) -/

/-- The rounded results of a stream, as FP32 or BF16 encodings. -/
def finishResults (x : Tile) (k : RickStream) (c : BitVec 256) (seed : BitVec 64) (superstep : Nat) : List Nat :=
  (List.range k.elements).map (fun r =>
    let d := if rRound c = 2 then stochastic seed superstep (rSrTag c) (k.first + r) 0xC0000000 else 0
    finishValue (rOut c) (rRound c) d (x.element k r))

/-- CODE of a hand-off that R259 refuses. A replay sends to no bucket, so it asks for none (R397). -/
def handoffRefusal (s : State) (q : QEntry) (k : RickStream) : Option Nat :=
  let h := rFirst q.cmd
  let replay := s.replays q.ctx
  pickCode
    [ (bf h 10 22 ≠ 0, 0x01)
    , (rOut q.cmd ≠ 0 || k.first % 32 ≠ 0, 0x02)
    , (!replay && (match s.bucket (bf h 0 10) with
       | some b => decide (32 * b.records < k.first + k.elements)
       | none => false), 0x05)
    , (!replay && (match s.bucket (bf h 0 10) with
       | some b => b.ctx ≠ q.ctx
       | none => true), 0x07) ]

/-- The buffer is emptied behind the results, and the next round can begin (R244). -/
def resetStream (t n : Nat) (s : State) : State :=
  (clearWrites t ((s.tile t).stream n) s).modTile t (fun x =>
    (x.dropReqs (·.isRickSrc)).modStream n (fun k => { k with arrived := 0, sideUsed := 0, finishing := false }))

/-- Presents the results of a FINISH at its store, the partial last billet through the merge buffer. -/
def storeResults (t : Nat) (first : Nat) (bs : List Byte) (s : State) : State :=
  forAll (List.range (ceilDiv bs.length 512)) (fun j s =>
    let b := (bs.drop (512 * j)).take 512
    if b.length = 512 then postWrite t .rick .ember (first + j) b .rick s else queueMerge t .ember (first + j) 0 b .rick s) s

/-- Values decoded from the bytes of a packet, as far as they are whole: the values and the bytes left. -/
def takeValues : Nat → Bool → List Byte → List LimbVal × List Byte
  | 0, _, bs => ([], bs)
  | n + 1, exact, bs =>
    if exact then
      let f := bytesAt bs 0 2
      let len := 2 + 8 * fieldLimbs f
      if bs.length < 2 || bs.length < len then ([], bs)
      else
        let v := limbDecode f ((List.range (fieldLimbs f)).map (fun i => bytesAt bs (2 + 8 * i) 8))
        let (vs, r) := takeValues n exact (bs.drop len)
        (v :: vs, r)
    else if bs.length < 4 then ([], bs)
    else
      let (vs, r) := takeValues n exact (bs.drop 4)
      (fp32Limb (bytesAt bs 0 4) :: vs, r)

/-- A matrix command drains into a rick (R95). -/
def mRickDrain (c : BitVec 256) : Bool := (cf c 8 0 3 = 2 || cf c 8 0 3 = 3) && bit c.toNat 90

/-- Bytes of a recorded packet arrival: stream, first element, count, form, then the values (R395). -/
def arrivalBytes (n first count : Nat) (exact : Bool) (vs : List LimbVal) : List Byte :=
  natLe 1 n ++ natLe 4 first ++ natLe 4 count ++ natLe 1 (b2n exact) ++ packetBytes exact vs

/-- A command inside the partition can still contribute to a stream of tile `t`: a drain into a rick, a CONTRIBUTE, a FINISH of another stream, flits on their way, or one that a core has still to issue. -/
def State.sourcesLeft (s : State) (c : Ctx) (t n : Nat) : Bool :=
  c.tiles.any (fun u =>
    let x := s.tile u
    let core := match x.stall with
      | .barrier => false
      | .exchange => false
      | _ => true
    core || x.matQ.any (fun q => mRickDrain q.cmd) || x.rickQ.any (fun q => rOp q.cmd = 2 || (rOp q.cmd = 3 && (u ≠ t || rStream q.cmd ≠ n)))
      || x.rick.input ≠ [] || x.router.inj.any (fun f => f.vn = .l) || x.router.bufs.any (fun b => b.2.any (fun f => f.vn = .l)))

/-- In a replay a FINISH that waits takes the next recorded packet of its stream; with none recorded and no contribution to come from inside the partition it stops the context (R397). -/
def takeRecorded (t ctx n : Nat) (s : State) : State :=
  let cap := s.forn.cap
  match cap.toTake.find? (fun a => a.tile = t && a.kind = 4 && bytesAt a.bytes 0 1 = n) with
  | some a =>
    let (vs, _) := takeValues (bytesAt a.bytes 5 4) (bytesAt a.bytes 9 1 = 1) (a.bytes.drop 10)
    contribute t ctx n (bytesAt a.bytes 1 4) (bytesAt a.bytes 9 1 = 1) none vs
      { s with forn := { s.forn with cap := { cap with toTake := cap.toTake.erase a } } }
  | none => if (s.ctx ctx).any (fun c => s.sourcesLeft c t n) then s else ctxFault t ctx 0x05 0x07 s

/-- CODE of a FINISH that is refused at start (R237, R244, R259). -/
def finishRefusal (s : State) (t : Nat) (q : QEntry) (e : MapEntry) : Option Nat :=
  let c := q.cmd
  let x := s.tile t
  let k := x.stream (rStream c)
  if !x.ownStream q || k.forward then some 0x07
  else if rDestKind c = 0 && !e.inRick (rAddr c) (ceilDiv (k.elements * (if rOut c = 1 then 2 else 4)) 512) then some 0x05
  else if rDestKind c = 1 then handoffRefusal s q k
  else none

/-- A FINISH has read its stream: it delivers every element and empties the buffer, or waits for its first credit (R244, R260). -/
def finishDeliver (t : Nat) (q : QEntry) (e : MapEntry) (ctx : Ctx) (s : State) : State :=
  let c := q.cmd
  let n := rStream c
  let x := s.tile t
  let k := x.stream n
  let res := finishResults x k c ctx.seed ctx.superstep
  match rDestKind c with
  | 0 =>
    let w := if rOut c = 1 then 2 else 4
    rickDone t (resetStream t n (storeResults t (e.emBase + bf (rAddr c) 0 13) (res.flatMap (natLe w)) s))
  | 1 => (setRickHead t { q with kDone := q.kDone + 1 } s).modTile t (fun x => { x with rick := { x.rick with waitCredit := some 0 } })
  | _ =>
    let vs := if rOut c = 0xF then (List.range k.elements).map (x.element k)
      else res.map (fun r => fp32Limb (if rOut c = 1 then r <<< 16 else r))
    rickDone t (resetStream t n (sendPacket t q.ctx (rPeerTile c) (bf (rFirst c) 0 2) k.first (rOut c = 0xF) 0 vs s))

/-- FINISH (R244): waits until ARRIVED = EXPECT, then reads the buffer and the side table at rick priority, delivers every element and empties them; with DEST_KIND 1 it then waits for credits (R260). `ecc` is the check of the queue entry that the start reads (R409). -/
def execFinish (t : TileId) (ecc : Check) (s : State) : Host.Outcome State Fault Refusal :=
  .next <| withRickHead t 3 s fun q e ctx =>
    let n := rStream q.cmd
    if !q.started then
      match tileEcc t ecc s with
      | (none, s') => s'
      | (some s1, _) =>
        match finishRefusal s t q e with
        | some r => refuseRick t q r s1
        | none => (startRick t q s1).modTile t (·.modStream n (fun k => { k with finishing := true }))
    else
      let x := s.tile t
      let k := x.stream n
      let bils := k.reads.map (fun b => (StoreId.ember, b))
      if s.replays q.ctx && k.arrived < k.expect && !x.rick.busy n then takeRecorded t q.ctx n s
      else if k.arrived ≠ k.expect || x.rick.busy n then s
      else if q.kDone < bils.length then rickAsk t bils 4 s
      else if q.kDone = bils.length && x.noneAsked (·.isRickSrc) then finishDeliver t q e ctx s
      else s

/-- Stack of a record of a bucket: that of its address (R256, R420). -/
def recordStack (s : State) (b : Bucket) (r : Nat) : Nat := s.stackOf (b.base + 256 * r)

/-- Staging places of a stoker in use, or granted to packets on their way: 65,536 records (R260). -/
def stagingUse (s : State) (k : Nat) : Nat :=
  (s.stack k).staged.length + (s.handoffs.filter (fun p => (s.bucket p.bucket).any (fun b => recordStack s b p.recNo = k))).length

/-- HANDOFF_CREDIT (R260): the stoker of the next record has space and no hold of R270 stops its bucket, and the rick sends that record's packet on VN-Q. Packets of a bucket that is removed or FAILED are accepted and discarded, so no credit is kept from them (R264, R294). The last one leaves the buffer empty. -/
def execHandoffCredit (t : TileId) (s : State) : Host.Outcome State Fault Refusal :=
  .next <| withRickHead t 3 s fun q _ ctx =>
    let x := s.tile t
    let n := rStream q.cmd
    let k := x.stream n
    match x.rick.waitCredit with
    | none => s
    | some r =>
      let bn := bf (rFirst q.cmd) 0 10
      let recNo := k.first / 32 + r
      let d := fun (i : Nat) => if rRound q.cmd = 2 then stochastic ctx.seed ctx.superstep (rSrTag q.cmd) (k.first + 32 * r + i) 0xC0000000 else 0
      let vals := (List.range 32).map (fun i => BitVec.ofNat 32 (finishValue 0 (rRound q.cmd) (d i) (x.element k (32 * r + i))))
      let last := 32 * (r + 1) = k.elements
      let finish := fun (s : State) =>
        let s := s.modTile t (fun x => { x with rick := { x.rick with waitCredit := if last then none else some (r + 1) } })
        if last then rickDone t (resetStream t n s) else s
      if s.replays q.ctx then finish (replayOutput t 5 (vals.flatMap (fun v => natLe 4 v.toNat)) s)
      else
        match s.bucket bn with
        | none => finish s
        | some b =>
          if b.st ≠ .failed && (ctx.held || 65536 ≤ stagingUse s (recordStack s b recNo)) then s
          else
            finish { countVn t q.ctx .q 3 ((countVn t q.ctx .p 1 s).modTile t (fun x => { x with rick := { x.rick with unaccepted := x.rick.unaccepted + 1 } })) with
              handoffs := s.handoffs ++ [{ bucket := bn, recNo := recNo, vals := vals, src := t }] }

/-- The head of the rick queue has nothing outstanding (R244, R260, R453). -/
def Tile.rickQuiet (x : Tile) (q : QEntry) : Bool :=
  match rOp q.cmd with
  | 1 => x.quiet .rick .rick
  | 2 => !x.rick.pending (fun a => a.src = some q.id)
  | 3 => x.quiet .rick .rick && x.rick.unaccepted = 0
  | _ => true

/-- RICK_COMMAND_COMPLETE (R453, R244): the head leaves the queue and posts its counter add. -/
def execRickCommandComplete (t : TileId) (s : State) : Host.Outcome State Fault Refusal :=
  .next <|
    match (s.tile t).rickQ with
    | [] => s
    | q :: _ =>
      if s.tileLit t && ((q.done && (s.tile t).rickQuiet q) || q.faulted) then
        completeEntry t 3 q (s.modTile t (fun x => { x with rickQ := x.rickQ.drop 1 }))
      else s

/-! ### Arrivals (R241 to R243) -/

/-- Counts and logs a stray packet on the receiving tile (R241). -/
def strayPacket (t : Nat) (s : State) : State :=
  tileFault t 0x05 0x20 (s.modTile t (fun x => { x with rick := { x.rick with stray := satAdd 32 x.rick.stray 1 } }))

/-- A header flit opens a packet of its source; one that no stream accepts is a stray, and its values are discarded. -/
def openPacket (t src n first count : Nat) (exact : Bool) (s : State) : State :=
  let k := (s.tile t).stream n
  let kept := k.defined && !k.forward && k.remote && k.holds first count
  let s1 := s.modTile t (fun x => { x with rick := { x.rick with
    pkts := x.rick.pkts ++ [{ src := src, stream := n, next := first, left := count, exact := exact, kept := kept }] } })
  if kept then s1 else strayPacket t s1

/-- A header flit that came over a cord: stream, first element, count and form; a count of 0 fills up a billet (log entry 13). -/
def cordHead (bs : List Byte) : Option (Nat × Nat × Nat × Bool) :=
  let count := bytesAt bs 8 4
  if count = 0 then none else some (bytesAt bs 0 1 % 4, bytesAt bs 4 4, count, bit (bytesAt bs 1 1) 0)

/-- Takes in one flit of a packet. -/
def takeRickFlit (t : Nat) (f : Flit) (s : State) : State :=
  let x := s.tile t
  match f.body with
  | .rickHead n first count exact => openPacket t f.src n first count exact s
  | _ =>
    match x.rick.pkts.find? (fun p => p.src = f.src) with
    | none =>
      if f.src < 4096 then s
      else
        match cordHead f.bytes with
        | none => s
        | some (n, first, count, exact) => openPacket t f.src n first count exact s
    | some p =>
      let (vs, rest) := takeValues p.left p.exact (p.part ++ f.bytes)
      let p' : RickPkt := { p with next := p.next + vs.length, left := p.left - vs.length, part := rest }
      let others := x.rick.pkts.filter (fun q => q.src ≠ p.src)
      let s1 := s.modTile t (fun x => { x with rick := { x.rick with pkts := if p'.left = 0 then others else others ++ [p'] } })
      if !p.kept then s1
      else
        let k := x.stream p.stream
        let outside := !((s.ctx k.ctx).any (fun c => c.hasTile f.src))
        let s2 := if outside then captureArrival k.ctx t 4 (arrivalBytes p.stream p.next vs.length p.exact vs) s1 else s1
        contribute t k.ctx p.stream p.next p.exact none vs s2

/-- RICK_PACKET_ARRIVAL (R241, R242): the flits in the input buffer are taken in; a packet no stream accepts is a stray. -/
def execRickPacketArrival (t : TileId) (s : State) : Host.Outcome State Fault Refusal :=
  .next <|
    if s.tileActs t then
      forAll (s.tile t).rick.input (fun f s => takeRickFlit t f s)
        (s.modTile t (fun x => { x with rick := { x.rick with input := [] } }))
    else s

/-! ### Additions (R239, R240, R243, R453) -/

/-- The stream of a contribution stops, and with it its context on the tile: contributions that wait are discarded, and additions in progress end (R240, R243). -/
def stopStreamRick (t n code : Nat) (s : State) : State :=
  ctxFault t ((s.tile t).stream n).ctx 0x05 code (s.modTile t (fun x =>
    let y := x.modStream n (fun k => { k with stopped := true })
    { y with rick := { y.rick with adds := y.rick.adds.filter (fun a => a.stream ≠ n) } }))

/-- The adder of a stream accepts contributions: the stream is defined, has not stopped, and adds nothing into its side table (R240). -/
def Tile.adderFree (x : Tile) (n : Nat) : Bool :=
  let k := x.stream n
  k.defined && !k.stopped && !x.rick.sides.any (fun a => a.cont.stream = n)

/-- The ember billet that a contribution falls in. -/
def Tile.contribBillet (x : Tile) (a : Contrib) : Nat :=
  let k := x.stream a.stream
  (k.word (a.elem - k.first)).1

/-- The oldest contribution that can be added, and those behind it in its billet, start: they count in ARRIVED, and the ember billet is read. One beyond EXPECT is discarded and stops the stream (R243). -/
def startAddition (t : Nat) (s : State) : State :=
  let x := s.tile t
  match x.rick.adds.find? (fun a => x.adderFree a.stream && !x.rick.works.any (fun w => w.bil = x.contribBillet a)) with
  | none => s
  | some a =>
    let k := x.stream a.stream
    let b := x.contribBillet a
    let same := fun (c : Contrib) => c.stream = a.stream && x.contribBillet c = b
    let all := x.rick.adds.filter same
    let cs := all.take (k.expect - k.arrived)
    let s1 := s.modTile t (fun x =>
      let y := x.modStream a.stream (fun k => { k with arrived := k.arrived + cs.length })
      { y with rick := { y.rick with
        adds := y.rick.adds.filter (fun c => !same c)
        works := if cs = [] then y.rick.works else y.rick.works ++ [{ stream := a.stream, bil := b, conts := cs }] } })
    let s2 := if cs = [] then s1 else postRead t .rick .ember b (.ember b) s1
    if cs.length < all.length then stopStreamRick t a.stream 0x0D s2 else s2

/-- The billet of an addition has been read: its contributions are added and it is written back; those that must go to the side table go there (R239). -/
def finishAddition (t : Nat) (w : AddWork) (s : State) : State :=
  let x := s.tile t
  match x.arrival (.ember w.bil) with
  | none => s
  | some img =>
    if w.wrote then s
    else
      let (img', left) := addWords (x.stream w.stream) w.conts img
      postWrite t .rick .ember w.bil img' (.ember w.bil) (s.modTile t (fun x => { x with
        arrived := x.arrived.filter (fun a => a.1 ≠ .ember w.bil)
        rick := { x.rick with
          works := x.rick.works.replace w { w with wrote := true, conts := w.conts.filter (fun c => !left.contains c) }
          sides := x.rick.sides ++ left.map (fun c => { cont := c }) } }))

/-- Entries of a side-table billet from entry m on: the first that holds element e or is free, with its place in the billet. -/
def sideFind (img : List Byte) (e : Nat) (m n : Nat) : Option (Nat × Bool) :=
  (rangeFrom (m % 4) n).findSome? (fun j =>
    let i := bytesAt img (128 * j) 4
    if i = e then some (j, true) else if i = freeIndex then some (j, false) else none)

/-- The oldest contribution on its way into the side table of stream `n` goes on: it reads the billet of the entry it probes, and when the entry is its own or free it adds there and writes the billet back; with no entry left the stream stops (R240). -/
def sideStep (t n : Nat) (s : State) : State :=
  let x := s.tile t
  match x.rick.sides.find? (fun a => a.cont.stream = n) with
  | none => s
  | some a =>
    let k := x.stream n
    let e := a.cont.elem
    let m := (e + a.probed) % k.sideEntries
    let put := fun (b : SideAdd) (x : Tile) => { x with
      arrived := x.arrived.filter (fun p => p.1 ≠ .side n)
      rick := { x.rick with sides := x.rick.sides.replace a b } }
    if a.wrote then s
    else if k.sideEntries ≤ a.probed then
      let s1 := s.modTile t (fun x => { x with rick := { x.rick with sides := x.rick.sides.erase a } })
      if k.stopped then s1 else stopStreamRick t n 0x0C s1
    else
      match x.arrival (.side n) with
      | none =>
        if x.noneAsked (· = .side n) then postRead t .rick .ember (k.sideBase + m / 4) (.side n) s else s
      | some img =>
        let here := min (4 - m % 4) (k.sideEntries - a.probed)
        match sideFind img e m here with
        | none => s.modTile t (put { a with probed := a.probed + here })
        | some (j, used) =>
          let old := if used then sideValue ((img.drop (128 * j)).take 128) else {}
          postWrite t .rick .ember (k.sideBase + m / 4) (overlay img (128 * j) (sideBytes e (old.add a.cont.value))) (.side n)
            ((s.modTile t (put { a with wrote := true })).modTile t (·.modStream n (fun k =>
              { k with sideUsed := if used then k.sideUsed else k.sideUsed + 1 })))

/-- RICK_ADDITION (R239, R240, R453): additions whose billets have been read are made and written back, side-table additions go on, and the next addition starts. `ecc` is the check of the input buffer (R409). -/
def execRickAddition (t : TileId) (ecc : Check) (s : State) : Host.Outcome State Fault Refusal :=
  .next <|
    if !s.tileActs t then s
    else
      match tileEcc t ecc s with
      | (none, s') => s'
      | (some s1, _) =>
        let s2 := forAll (s.tile t).rick.works (fun w s => finishAddition t w s) s1
        startAddition t (forAll (List.range 4) (fun n s => sideStep t n s) s2)

/-- A write of the rick has been granted: the addition it ends is over (R453). -/
def rickWritten (d : ReqDst) (x : Tile) : Tile :=
  match d with
  | .ember b => { x with rick := { x.rick with works := x.rick.works.filter (fun w => !(w.bil = b && w.wrote)) } }
  | .side n =>
    match x.rick.sides.find? (fun a => a.cont.stream = n) with
    | some a => { x with rick := { x.rick with sides := x.rick.sides.erase a } }
    | none => x
  | _ => x

end Sys2Proof.Machine
end

