-- ==== Sys2Proof/Machine/Matrix.lean ====
section
/-! DEFINITION. The matrix engine of a tile (03_outer_product_engine.md R66 to R99, 04_kiln_accumulation.md R100 to R121). -/

namespace Sys2Proof.Machine

/-! ### The matrix command (R84); `b` says the B operand -/

def mOp (c : BitVec 256) : Nat := cf c 8 0 3
def mOpen (c : BitVec 256) : Bool := bit c.toNat 67
def mFmt (c : BitVec 256) (b : Bool) : Nat := cf c 8 (if b then 8 else 4) 4
def mMode (c : BitVec 256) (b : Bool) : Nat := cf c 8 (if b then 14 else 12) 2
def mTurn (c : BitVec 256) (b : Bool) : Bool := bit c.toNat (if b then 81 else 80)
def mSrc (c : BitVec 256) (b : Bool) : Bool := bit c.toNat (if b then 83 else 82)
def mOut (c : BitVec 256) : Nat := cf c 8 20 4
def mRound (c : BitVec 256) : Nat := cf c 8 24 2
def mRick (c : BitVec 256) : Bool := bit c.toNat 90
def mQuarter (c : BitVec 256) : Nat := cf c 8 27 2
def mK (c : BitVec 256) : Nat := cf c 12 0 16
def mAddr (c : BitVec 256) (b : Bool) : Nat := cf c (if b then 16 else 14) 0 16
def mScale (c : BitVec 256) (b : Bool) : Nat := cf c (if b then 20 else 18) 0 16
def mDest (c : BitVec 256) : Nat := cf c 22 0 16
def mDestScale (c : BitVec 256) : Nat := cf c 24 0 16
def mSrTag (c : BitVec 256) : Nat := cf c 26 0 16
def mRow (c : BitVec 256) : Nat := cf c 28 0 16
def mCol (c : BitVec 256) : Nat := cf c 30 0 16

/-- DRAIN_SHIFT, 0 for an output that has none (R87, R91). -/
def mShift (c : BitVec 256) : Int := if outMx (mOut c) || mOut c = 0xF then 0 else signed 9 (bf (mDestScale c) 0 9)

/-- A pairs a 16-bit format. -/
def mWide (c : BitVec 256) : Bool := 8 ≤ mFmt c false
/-- Rate 2: both operands narrower than 8 bits (R72). -/
def mRate2 (c : BitVec 256) : Bool := fmtBits (mFmt c false) < 8 && fmtBits (mFmt c true) < 8
/-- Cycles of `k` K-steps (R72). -/
def mCycles (c : BitVec 256) (k : Nat) : Nat := if mWide c then 4 * k else if mRate2 c then ceilDiv k 2 else k

/-- Bytes of a vector (R76). -/
def mVec (c : BitVec 256) (b : Bool) : Nat := 8 * fmtBits (mFmt c b)
/-- Billets an operand takes (R76, R80). -/
def mBillets (c : BitVec 256) (b : Bool) : Nat := if mTurn c b then 8 * ceilDiv (mK c) 64 else ceilDiv (mK c * mVec c b) 512
/-- Scale billets an operand takes (R78). -/
def mScaleBillets (c : BitVec 256) : Nat := ceilDiv (mK c) 256
/-- Billets of an output tile (R86). -/
def outBillets (o : Nat) : Nat := 64 * outBits o / 64

/-- Static checks of one operand (R71, R73, R77 to R83). -/
def operandChecks (c : BitVec 256) (b : Bool) : List (Bool × Nat) :=
  let f := mFmt c b
  let k := mK c
  [ (9 < f || mMode c b = 3, 0x01)
  , ((mMode c b = 0 && mScale c b ≠ 0) || (mMode c b = 1 && 256 ≤ mScale c b), 0x01)
  , (mMode c b = 2 && (bilOf (mScale c b)).isNone, 0x01)
  , (if mSrc c b then decide (16 ≤ mAddr c b) else (bilOf (mAddr c b)).isNone, 0x01)
  , (mTurn c b && !mSrc c b && bf (mAddr c b) 0 13 % 8 ≠ 0, 0x03)
  , (8 ≤ f && mMode c b ≠ 0, 0x02)
  , (mMode c b = 2 && k % 32 ≠ 0, 0x02)
  , (fmtBits f = 6 && k % 32 ≠ 0, 0x02)
  , (mTurn c b && (fmtBits f ≠ 8 || mSrc c b), 0x02) ]

/-- The checks of a matrix command at enqueue (R87, R88, R117, R121, R451). -/
def matrixChecks (e : MapEntry) (c : BitVec 256) : List (Bool × Nat) :=
  let op := mOp c
  let acc := op = 1 || op = 3
  let drn := op = 2 || op = 3
  let o := mOut c
  syncChecks e.ctrSize c ++ (if acc then operandChecks c false ++ operandChecks c true else []) ++
  [ (op = 0 || op = 7 || cf c 8 29 3 ≠ 0 || mRound c = 3, 0x01)
  , (!acc && (mOpen c || cf c 8 4 16 ≠ 0 || cf c 12 0 80 ≠ 0), 0x01)
  , (!drn && (o ≠ 0 || mRick c || mQuarter c ≠ 0 || mDestScale c ≠ 0), 0x01)
  , ((op = 1 || op = 6) && mDest c ≠ 0, 0x01)
  , (drn && 0xB ≤ o && o ≤ 0xE, 0x01)
  , (drn && !outMx o && 512 ≤ mDestScale c, 0x01)
  , (drn && outMx o && (bilOf (mDestScale c)).isNone, 0x01)
  , (drn && (if mRick c then decide (4 ≤ mDest c) else (bilOf (mDest c)).isNone), 0x01)
  , ((op = 4 || op = 5) && (bilOf (mDest c)).isNone, 0x01)
  , (acc && mK c = 0xFFFF, 0x04)
  , (acc && (8 ≤ mFmt c false) ≠ (8 ≤ mFmt c true), 0x02)
  , (acc && mRate2 c && mK c % 2 ≠ 0, 0x02)
  , (acc && mSrc c false && mSrc c true && mAddr c false = mAddr c true, 0x02)
  , (drn && mRick c && o ≠ 0 && o ≠ 0xF, 0x02)
  , (drn && o = 0xF && (!mRick c || mRound c ≠ 0 || mDestScale c ≠ 0), 0x02)
  , (drn && !outMx o && mQuarter c ≠ 0, 0x02)
  , ((op = 4 || op = 5) && (bilOf (mDest c)).any (fun p => p.1 ≠ .ember), 0x02) ]

/-! ### Queue (R38, R92) -/

/-- The command whose turn at the array it is: the first one that is not done (R92). -/
def Tile.matNext (x : Tile) : Option QEntry := x.matQ.find? (fun q => !q.done)

def Tile.matCmd (x : Tile) (id : Nat) : Option QEntry := x.matQ.find? (fun q => q.id = id)
def Tile.modMat (x : Tile) (id : Nat) (f : QEntry → QEntry) : Tile := { x with matQ := x.matQ.map (fun q => if q.id = id then f q else q) }
def modMatrix (t : Nat) (f : MatrixSt → MatrixSt) (s : State) : State := s.modTile t (fun x => { x with matrix := f x.matrix })

/-- ACCUMULATE or ACCUMULATE_DRAIN with K-steps to apply (R88). -/
def QEntry.steps (q : QEntry) : Bool := (mOp q.cmd = 1 || mOp q.cmd = 3) && mK q.cmd ≠ 0

/-- Billets that feeder 0 to 3 reads for a command: A, B, A scales, B scales (R76, R78, R80). -/
def feedTotal (c : BitVec 256) (f : Nat) : Nat :=
  let b := f % 2 = 1
  if f < 2 then mBillets c b else if mMode c b = 2 then mScaleBillets c else 0

/-- Places of a feeder: 4 billets of operand data, or a turn buffer of 2 groups; 2 scale billets (R81, R92). -/
def feedCap (c : BitVec 256) (f : Nat) : Nat := if 2 ≤ f then 2 else if mTurn c (f % 2 = 1) then 16 else 4

/-- A command has asked for its last operand billet (R92); a RESUME once it knows how many limb billets there are. -/
def QEntry.readsIssued (q : QEntry) : Bool :=
  if q.done then true
  else if q.steps then (List.range 4).all (fun f => decide (feedTotal q.cmd f ≤ sgetD q.asked f 0))
  else mOp q.cmd ≠ 5 || (0 < q.kDone && q.kDone ≤ sgetD q.asked 1 0 + 1)

/-- A command has applied its last K-step. -/
def QEntry.stepsApplied (q : QEntry) : Bool := q.done || !q.steps || q.kDone = mK q.cmd

/-- The next command to start, with those before it, which have all started (R38). -/
def Tile.matStart (x : Tile) : Option (QEntry × List QEntry) :=
  let pre := x.matQ.takeWhile (·.started)
  (x.matQ.drop pre.length).head?.map (fun q => (q, pre))

/-- The preceding command lets a command start (R92). -/
def mayStart (q : QEntry) (pre : List QEntry) : Bool :=
  match pre.getLast? with
  | none => true
  | some p => if mOp q.cmd = 2 || mOp q.cmd = 4 || mOp q.cmd = 6 then p.stepsApplied else p.readsIssued

/-- Whether an output tile is open once the commands before one have had the array. -/
def Tile.openAfter (x : Tile) (pre : List QEntry) : Bool :=
  pre.foldl (fun o q =>
    if q.done || !(q.steps || mOp q.cmd = 2 || 4 ≤ mOp q.cmd) then o else mOp q.cmd = 1 || mOp q.cmd = 5) x.matrix.isOpen

/-- The command is refused at start: nothing done, no add, the context stops (R87). -/
def refuseMat (t : Nat) (q : QEntry) (code : Nat) (s : State) : State :=
  ctxFault t q.ctx 0x02 code (s.modTile t (fun x => { x with matQ := x.matQ.filter (fun p => p.id ≠ q.id) }))

/-- The command whose turn it is takes the array when it has started: an accumulation with OPEN opens a new output tile with every cell clear (R68, R87). -/
def Tile.takeArray (x : Tile) : Tile :=
  match x.matNext with
  | none => x
  | some q =>
    if !q.started || x.matrix.owner = some q.id then x
    else
      let m := { x.matrix with owner := some q.id, op := mOp q.cmd }
      let m1 := if q.steps && mOpen q.cmd then { m with isOpen := true, cells := [], ksteps := 0 } else m
      { x with matrix := if q.steps then { m1 with fmtA := mFmt q.cmd false, fmtB := mFmt q.cmd true, fmtValid := true } else m1 }

/-- A command has done all its work on the array, and the next one takes it. -/
def Tile.doneMat (x : Tile) (id : Nat) : Tile :=
  let y := x.modMat id (fun q => { q with done := true })
  { y with matrix := if y.matrix.owner = some id then { y.matrix with owner := none, op := 0, draining := false } else y.matrix }.takeArray

def doneMat (t id : Nat) (s : State) : State := s.modTile t (·.doneMat id)

/-- A request or an arrived billet belongs to a matrix command. -/
def ReqDst.ofMat : ReqDst → Nat → Bool
  | .feed c _ _, id => c = id
  | .resume c _, id => c = id
  | .drain c, id => c = id
  | _, _ => false

/-- A started command meets a fault: it ends without its add, and asks for nothing more (R62). DESIGN CHOICE (log entry 45): ring billets whose reads were granted have been consumed, the others stay in the ring, and its attachments as consumer end; an output tile that was open stays as it is. -/
def Tile.failMat (x : Tile) (id : Nat) : Tile :=
  let free := fun (x : Tile) (b : Bool) => match x.matCmd id with
    | some q =>
      if q.started && q.steps && mSrc q.cmd b && sgetD q.asked (if b then 1 else 0) 0 < feedTotal q.cmd (if b then 1 else 0) then
        x.modCar (carKey q.slot (mAddr q.cmd b)) (fun c => { c with cons := none })
      else x
    | none => x
  let y := free (free x false) true
  { (y.modMat id (fun q => { q with faulted := true })).dropReqs (·.ofMat id) with drains := y.drains.filter (fun d => d.cmd ≠ id) }.doneMat id

/-- A fault of a started command (R62, R87). -/
def faultMat (t : Nat) (q : QEntry) (code : Nat) (s : State) : State := (ctxFault t q.ctx 0x02 code s).modTile t (·.failMat q.id)

/-- Adds working cycles (R98). -/
def working (t : Nat) (slot n : Nat) (s : State) : State := s.modTile t (·.count (some slot) 0x00 n)

/-! ### Feeders (R76 to R83, R92) -/

def ReqDst.ofFeeder : ReqDst → Nat → Bool
  | .feed _ g _, f => g = f
  | _, _ => false

/-- Places of a feeder in use: billets asked for, and billets that wait for their K-steps. -/
def Tile.feedUse (x : Tile) (f : Nat) : Nat :=
  (x.reqs.filter (fun r => r.dst.ofFeeder f)).length + (x.reads.filter (fun r => r.dst.ofFeeder f)).length
    + (x.arrived.filter (fun a => a.1.ofFeeder f)).length

/-- Feeder `f` presents its read of the next billet of a command: at its place in the store, or from its carousel when one is published; the last one detaches the command from its ring (R83, R181). -/
def Tile.feedPost (x : Tile) (cycle : Nat) (e : MapEntry) (q : QEntry) (f : Nat) : Option Tile :=
  let b := f % 2 = 1
  let n := sgetD q.asked f 0
  let dst := ReqDst.feed q.id f n
  if f < 2 && mSrc q.cmd b then
    let k := carKey q.slot (mAddr q.cmd b)
    if x.carReady k = 0 then none
    else some ((x.postRing cycle k e (feederWho f) dst).modCar k (fun c => if n + 1 = feedTotal q.cmd f then { c with cons := none } else c))
  else
    match bilOf (if f < 2 then mAddr q.cmd b else mScale q.cmd b) with
    | none => none
    | some p => some (x.post cycle { who := feederWho f, store := p.1, bil := e.base p.1 + p.2 + n, dst := dst })

/-- Feeder `f` asks for the next billet of a command when its buffer has a place; none when it cannot. -/
def Tile.feedNext (x : Tile) (cycle : Nat) (e : MapEntry) (q : QEntry) (f : Nat) : Option Tile :=
  let n := sgetD q.asked f 0
  if feedTotal q.cmd f ≤ n || feedCap q.cmd f ≤ x.feedUse f then none
  else
    match x.feedPost cycle e q f with
    | none => none
    | some y => some (y.modMat q.id (fun q => { q with asked := sset q.asked f (n + 1) }))

/-- Feeder `f` asks as far as its buffer goes. -/
def Tile.feedAll : Nat → Nat → MapEntry → Nat → Nat → Tile → Tile
  | 0, _, _, _, _, x => x
  | fuel + 1, cycle, e, id, f, x =>
    match x.matCmd id with
    | none => x
    | some q =>
      match x.feedNext cycle e q f with
      | none => x
      | some y => Tile.feedAll fuel cycle e id f y

/-- Billets of operand `b` that K-step k needs (R76, R80). -/
def kBillets (c : BitVec 256) (b : Bool) (k : Nat) : List Nat :=
  if mTurn c b then rangeFrom (8 * (k / 64)) 8
  else
    let o := k * mVec c b
    if (o + mVec c b - 1) / 512 = o / 512 then [o / 512] else [o / 512, o / 512 + 1]

/-- Billets of feeder `f` that K-step k needs. -/
def feedNeeds (c : BitVec 256) (f k : Nat) : List Nat :=
  if f < 2 then kBillets c (f % 2 = 1) k else if mMode c (f % 2 = 1) = 2 then [k / 256] else []

/-- A billet that feeder `f` holds for a command. -/
def Tile.feedBillet (x : Tile) (id f n : Nat) : List Byte := (x.arrival (.feed id f n)).getD []

/-- Something that feeder `f` must hold for K-step k has not arrived. -/
def Tile.feedMissing (x : Tile) (q : QEntry) (k f : Nat) : Bool :=
  (feedNeeds q.cmd f k).any (fun n => (x.arrival (.feed q.id f n)).isNone)

/-- K-step k can be applied. -/
def Tile.stepReady (x : Tile) (q : QEntry) (k : Nat) : Bool := (List.range 4).all (fun f => !x.feedMissing q k f)

/-- The billets that only K-steps before k needed leave the buffers. -/
def Tile.feedFree (x : Tile) (q : QEntry) (k : Nat) : Tile :=
  { x with arrived := x.arrived.filter (fun a => match a.1 with
    | .feed id f n => id ≠ q.id || (decide (k < mK q.cmd) && decide ((feedNeeds q.cmd f k).headD 0 ≤ n))
    | _ => true) }

/-- The vector of K-step k as a little-endian value (R76, R80). -/
def operandVec (x : Tile) (q : QEntry) (b : Bool) (k : Nat) : Nat :=
  let c := q.cmd
  let bs := (kBillets c b k).flatMap (x.feedBillet q.id (b2n b))
  if mTurn c b then leNat ((List.range 64).map (fun p => bs.getD (64 * p + k % 64) 0))
  else leNat ((bs.drop (k * mVec c b % 512)).take (mVec c b))

/-- The scale encodings of the 64 positions for K-step k (R73, R78, R79). -/
def operandScales (x : Tile) (q : QEntry) (b : Bool) (k : Nat) : List Nat :=
  let c := q.cmd
  match mMode c b with
  | 0 => List.replicate 64 127
  | 1 => List.replicate 64 (bf (mScale c b) 0 8)
  | _ =>
    let bs := x.feedBillet q.id (2 + b2n b) (k / 256)
    (List.range 64).map (fun p => (bs.getD (64 * (k / 32 % 8) + p) 0).toNat)

/-- Applies `n` K-steps of one chunk from K-step k on, and promotes the chunk when it ends there (R89, R101, R104, R107, R128). -/
def applySteps (x : Tile) (q : QEntry) (k n : Nat) : Sparse Cell :=
  let c := q.cmd
  let wide := mWide c
  let elems := fun (b : Bool) =>
    let vs := (rangeFrom k n).map (operandVec x q b)
    let w := fmtBits (mFmt c b)
    (List.range 64).map (fun i => vs.map (fun v => elemVal (mFmt c b) (bf v (w * i) w)))
  let as := elems false
  let bs := elems true
  let sa := operandScales x q false k
  let sb := operandScales x q true k
  let last := (k + n) % 32 = 0 || k + n = mK c
  mapCells (fun i j cell =>
    let ea := sa.getD i 127
    let eb := sb.getD j 127
    let bad := ea = 0xFF || eb = 0xFF
    let cell' := ((as.getD i []).zip (bs.getD j [])).foldl (fun cl p => cl.product wide bad p.1 p.2) cell
    if wide || !last then cell' else cell'.promote (scaleExp ea) (scaleExp eb)) x.matrix.cells

/-- Applies K-steps k to k + n − 1 chunk by chunk. -/
def applyChunks : Nat → Tile → QEntry → Nat → Nat → Tile
  | 0, x, _, _, _ => x
  | fuel + 1, x, q, k, n =>
    if n = 0 then x
    else
      let m := min n (32 - k % 32)
      applyChunks fuel { x with matrix := { x.matrix with cells := applySteps x q k m } } q (k + m) (n - m)

/-! ### Start (R87, R88, R181) -/

/-- CODE of a refusal at start of one operand. -/
def operandRefusal (x : Tile) (e : MapEntry) (q : QEntry) (b : Bool) : List (Bool × Nat) :=
  let c := q.cmd
  let past := fun (a n : Nat) => match e.resolve a n with | .ok _ => false | .error _ => true
  let attached := fun (y : Carousel) => match y.cons with | some .matrix => false | some _ => true | none => false
  let busy := match x.car (carKey q.slot (mAddr c b)) with | some y => attached y | none => true
  [ (mSrc c b && busy, 0x07)
  , (!mSrc c b && past (mAddr c b) (mBillets c b), 0x05)
  , (mMode c b = 2 && past (mScale c b) (mScaleBillets c), 0x05) ]

/-- Destinations of a store drain that leave the slice. -/
def drainRefusal (e : MapEntry) (c : BitVec 256) : List (Bool × Nat) :=
  let past := fun (a n : Nat) => match e.resolve a n with | .ok _ => false | .error _ => true
  [ (!mRick c && past (mDest c) (outBillets (mOut c)), 0x05)
  , (!mRick c && outMx (mOut c) && past (mDestScale c) 1, 0x05) ]

/-- Element to which a rick drain gives cell (i, 0) (R241). -/
def drainElem (k : RickStream) (c : BitVec 256) (i : Nat) : Nat := (64 * mRow c + i) * k.pitch + 64 * mCol c

/-- CODE of a rick drain that its stream does not take (R237, R241). -/
def streamRefusal (x : Tile) (q : QEntry) : Option Nat :=
  let k := x.stream (mDest q.cmd)
  if !mRick q.cmd then none
  else if !(k.defined && k.slot = q.slot && k.ctx = q.ctx) then some 0x07
  else if !k.forward && !(k.holds (drainElem k q.cmd 0) 1 && k.holds (drainElem k q.cmd 63) 64) then some 0x05
  else none

/-- CODE of a command that is refused at start, with an output tile open or not when it gets the array (R87, R117). -/
def startRefusal (x : Tile) (e : MapEntry) (q : QEntry) (isOpen : Bool) : Option Nat :=
  let past := match e.resolve (mDest q.cmd) 656 with | .ok _ => false | .error _ => true
  match mOp q.cmd with
  | 2 => (pickCode ((!isOpen, 0x07) :: drainRefusal e q.cmd)).or (streamRefusal x q)
  | 4 => pickCode [(!isOpen, 0x07), (past, 0x05)]
  | 5 => pickCode [(isOpen, 0x07), (past, 0x05)]
  | 6 => pickCode [(!isOpen, 0x07)]
  | op =>
    if mK q.cmd = 0 then none
    else pickCode ([(mOpen q.cmd == isOpen, 0x07)] ++ operandRefusal x e q false ++ operandRefusal x e q true
      ++ (if op = 3 then drainRefusal e q.cmd else []))

/-- The ranges that a command writes, which later feeder reads wait for (R96). -/
def drainHolds (e : MapEntry) (q : QEntry) : List DrainHold :=
  let c := q.cmd
  let hold := fun (a n : Nat) => match e.resolve a n with
    | .ok (st, i) => [{ cmd := q.id, store := st, first := i, last := i + n - 1 }]
    | .error _ => []
  match mOp c with
  | 4 => hold (mDest c) 656
  | op =>
    if (op = 2 || op = 3 && q.steps) && !mRick c then hold (mDest c) (outBillets (mOut c)) ++ (if outMx (mOut c) then hold (mDestScale c) 1 else [])
    else []

/-- The command starts: it attaches to its carousels and its destination is held; one without K-steps is done (R88, R96, R181). -/
def beginMat (t : Nat) (q : QEntry) (e : MapEntry) (s : State) : State :=
  (startLatch t 0 q (s.modTile t (·.modMat q.id (fun _ => { startedEntry s t q with done := (mOp q.cmd = 1 || mOp q.cmd = 3) && mK q.cmd = 0 })))).modTile t (fun x =>
    let attach := fun (x : Tile) (b : Bool) =>
      if q.steps && mSrc q.cmd b then x.modCar (carKey q.slot (mAddr q.cmd b)) (fun y => { y with cons := some .matrix }) else x
    (attach (attach { x with drains := x.drains ++ drainHolds e q } false) true).takeArray)

/-- The next command of the queue starts when it is one of that OP, its wait is met and the preceding command lets it (R92). `ecc` is the check of its queue entry (R409). -/
def startMat (t op : Nat) (ecc : Check) (s : State) : State :=
  let x := s.tile t
  match x.matStart with
  | none => s
  | some (q, pre) =>
    if mOp q.cmd ≠ op || !mayStart q pre then s
    else
      match headEntry s t (some q) with
      | .idle => s
      | .saturated c => ctxFault t c 0x07 0x0B (s.modTile t (fun x => { x with matQ := x.matQ.filter (fun p => p.id ≠ q.id) }))
      | .go q e _ =>
        match tileEcc t ecc s with
        | (none, s') => s'
        | (some s1, _) =>
          match startRefusal x e q (x.openAfter pre) with
          | some r => refuseMat t q r s1
          | none => beginMat t q e s1

/-! ### Drains (R93 to R97, R110) -/

/-- The values of the 4,096 cells in order of i and then j. -/
def MatrixSt.values (m : MatrixSt) : List LimbVal := (unlist ({} : Cell) 4096 0 m.cells).map (·.value)

/-- The values of row d. -/
def MatrixSt.rowValues (m : MatrixSt) (d : Nat) : List LimbVal :=
  (unlist ({} : Cell) 64 (64 * d) (m.cells.filter (fun p => p.1 / 64 = d))).map (·.value)

/-- MATRIX_DRAIN_FLAGS after a further row of a drain. -/
def drainFlags (f : BitVec 32) (vs : List LimbVal) : BitVec 32 :=
  BitVec.ofNat 32 ((f.toNat % 16 ||| orAll (vs.map (·.flags))) + (f.toNat / 16 + flaggedCells vs) <<< 4)

/-- The array is empty and closed. -/
def MatrixSt.close (m : MatrixSt) : MatrixSt :=
  { m with isOpen := false, cells := [], ksteps := 0, fmtA := 0, fmtB := 0, fmtValid := false }

/-- Sets flags in VECTOR_FLAGS of the context of a command: the register when it runs, its saved copy when it does not (R150). -/
def Tile.orFlags (x : Tile) (slot f : Nat) : Tile :=
  if x.run = some slot then { x with vflags := x.vflags ||| BitVec.ofNat 32 f }
  else { x with banks := smod x.banks slot {} (fun b => { b with vflags := b.vflags ||| BitVec.ofNat 32 f }) }

/-- Bytes of an output row (R86). -/
def rowBytes (o : Nat) : Nat := 8 * outBits o

/-- Output billets of drains that wait for their grant (R94). -/
def Tile.drainUse (x : Tile) : Nat :=
  (x.reqs.filter (fun r => match r.dst with
    | .drain c => (x.matCmd c).any (fun q => mOp q.cmd ≠ 4)
    | _ => false)).length

/-- Contributions of drains that their streams have not taken (R95). -/
def Tile.drainGiven (x : Tile) : Nat := (x.rick.adds.filter (fun a => a.src.any (fun i => (x.matCmd i).isSome))).length

/-- The output buffer of 2 billets has a place for the next row (R94): of 4 FP32 rows, or, DESIGN CHOICE (log entry 50) since the spec gives a limb-masked row no size, of one EXACT row, that the stream has not taken; a FORWARD stream takes a row once the packets before it have entered the mesh (R95, R242). -/
def Tile.rowFits (x : Tile) (q : QEntry) : Bool :=
  let c := q.cmd
  if mRick c then
    if (x.stream (mDest c)).forward then x.router.inj.all (fun f => f.vn ≠ .l)
    else decide (x.drainGiven + 64 ≤ if mOut c = 0xF then 64 else 256)
  else decide (x.drainUse + ceilDiv (x.matrix.out.length + rowBytes (mOut c)) 512 ≤ 2)

/-- A rounded row joins the output billet that is being filled; a billet that is whole is written (R93). -/
def storeRow (t : Nat) (q : QEntry) (e : MapEntry) (bs : List Byte) (s : State) : State :=
  match e.resolve (mDest q.cmd) (outBillets (mOut q.cmd)) with
  | .error _ => s
  | .ok (st, i) =>
    let m := (s.tile t).matrix
    let out := m.out ++ bs
    if out.length < 512 then modMatrix t (fun m => { m with out := out }) s
    else postWrite t .drain st (i + m.outN) (out.take 512) (.drain q.id) (modMatrix t (fun m => { m with out := out.drop 512, outN := m.outN + 1 }) s)

/-- The 128 scale bytes of an MX drain go through the merge buffer once every row has been read (R93). -/
def storeScales (t : Nat) (q : QEntry) (e : MapEntry) (s : State) : State :=
  match outMx (mOut q.cmd), e.resolve (mDestScale q.cmd) 1 with
  | true, .ok (st, i) =>
    let sc := (s.tile t).matrix.scales
    queueMerge t st i (128 * mQuarter q.cmd) (sc.map (fun p => BitVec.ofNat 8 p.1) ++ sc.map (fun p => BitVec.ofNat 8 p.2)) (.scale q.id) s
  | _, _ => s

/-- Reads the next row of a drain: its values are rounded and go to the store or to the rick stream, and its cells are cleared (R93, R95, R110). -/
def drainOne (t : Nat) (q : QEntry) (e : MapEntry) (ctx : Ctx) (s : State) : State :=
  let c := q.cmd
  let o := mOut c
  let m := (s.tile t).matrix
  let d := m.drainRow
  let vs := m.rowValues d
  let (bs, sc, fl) := drainRow o (mRound c) (mShift c)
    (fun j => stochastic ctx.seed ctx.superstep (mSrTag c) (64 * mCol c + j) (64 * mRow c + d)) vs
  let s1 := working t q.slot 1 (modMatrix t (fun m => { m with
    cells := m.cells.filter (fun p => p.1 / 64 ≠ d)
    drainRow := d + 1
    drainFlags := drainFlags m.drainFlags vs
    scales := m.scales ++ [(sc.getD 0 0, sc.getD 1 0)] }) s)
  let elem := drainElem ((s.tile t).stream (mDest c)) c d
  if mRick c then
    if o = 0xF then contribute t q.ctx (mDest c) elem true (some q.id) vs s1
    else contribute t q.ctx (mDest c) elem false (some q.id) ((List.range 64).map (fun j => fp32Limb (bytesAt bs (4 * j) 4))) s1
  else
    let s2 := storeRow t q e bs s1
    if bit fl 4 then s2.modTile t (·.orFlags q.slot flagMatrixSaturated) else s2

/-- Reads rows while the output buffer has room. -/
def drainRows : Nat → Nat → QEntry → MapEntry → Ctx → State → State
  | 0, _, _, _, _, s => s
  | fuel + 1, t, q, e, ctx, s =>
    let x := s.tile t
    if 64 ≤ x.matrix.drainRow || !x.rowFits q || (x.matCmd q.id).all (·.done) then s
    else drainRows fuel t q e ctx (drainOne t q e ctx s)

/-- A drain begins, goes on as far as its output buffer lets it, and closes the output tile after row 63 (R93, R94). -/
def drainTile (t : Nat) (q : QEntry) (e : MapEntry) (ctx : Ctx) (s : State) : State :=
  let begun := (s.tile t).matrix.draining
  match (if begun then none else streamRefusal (s.tile t) q) with
  | some r => faultMat t q r s
  | none =>
    let s1 := if begun then s else modMatrix t (fun m => { m with draining := true, drainRow := 0, out := [], outN := 0, scales := [], drainFlags := 0 }) s
    let s2 := drainRows 64 t q e ctx s1
    if (s2.tile t).matrix.drainRow < 64 || (s2.tile t).matrix.owner ≠ some q.id then s2
    else doneMat t q.id (modMatrix t (·.close) (storeScales t q e s2))

/-! ### The array (R67, R85, R89, R98) -/

/-- K-steps `q.kDone` to `q.kDone + n − 1` of a command are applied: the cells, MATRIX_KSTEPS, the buffers of the feeders, the progress of the command and its counters (R72, R89, R98). -/
def Tile.applyKSteps (x : Tile) (q : QEntry) (n : Nat) : Tile :=
  let k := q.kDone + n
  let y := (applyChunks (n + 1) x q q.kDone n).feedFree q k
  let z := { y with matrix := { y.matrix with ksteps := satAdd 32 y.matrix.ksteps n } }.modMat q.id (fun q => { q with kDone := k })
  (z.count (some q.slot) 0x09 n).count (some q.slot) 0x00 (mCycles q.cmd n)

/-- K-steps of a command whose operands have reached the feeders, from the next one on. -/
def Tile.readySteps (x : Tile) (q : QEntry) : Nat :=
  ((List.range (mK q.cmd - q.kDone)).takeWhile (fun j => x.stepReady q (q.kDone + j))).length

/-- An ACCUMULATE or ACCUMULATE_DRAIN that has the array applies the K-steps whose operands have arrived, and drains after the last one if it is to. One whose output tile an earlier fault has kept from opening ends without effect (log entry 45). -/
def accumulate (t : Nat) (q : QEntry) (e : MapEntry) (ctx : Ctx) (s : State) : State :=
  let x := s.tile t
  if !x.matrix.isOpen then s.modTile t (·.failMat q.id)
  else
    let n := x.readySteps q
    let s1 := if n = 0 then s else s.modTile t (·.applyKSteps q n)
    if q.kDone + n < mK q.cmd then s1
    else if mOp q.cmd = 3 then drainTile t q e ctx s1
    else doneMat t q.id s1

/-! ### SPILL, RESUME, DISCARD (R97, R117 to R120) -/

/-- MATRIX_SPILL_LAST. -/
def spillLast (l : Nat) (resume switch : Bool) (slot flagged : Nat) : BitVec 32 :=
  BitVec.ofNat 32 (l + b2n resume <<< 10 + b2n switch <<< 11 + slot <<< 12 + flagged <<< 16)

/-- Cycles a spill or resume of L limb billets occupies the array (R118). -/
def spillCycles (l : Nat) : Nat := max 64 l

/-- A SPILL that has the array writes the open output tile in limb-masked form to its spill region and closes it (R118). -/
def spillTile (t : Nat) (q : QEntry) (e : MapEntry) (s : State) : State :=
  match e.resolve (mDest q.cmd) 656 with
  | .error r => faultMat t q r s
  | .ok (st, i) =>
    let vs := (s.tile t).matrix.values
    let (l, img) := spillImage vs
    let s1 := modMatrix t (fun m => { m.close with spillLast := spillLast l false false q.slot (flaggedCells vs) }) s
    let s2 := forAll img (fun p s => postWrite t .drain st (i + p.1) p.2 (.drain q.id) s) s1
    working t q.slot (spillCycles l) (doneMat t q.id s2)

/-- Decodes a spill region whose billet `b` is `rd b`: L and the cells, or none when a cell field has its reserved bit set (R117, R119). -/
def spillFields (rd : Nat → List Byte) : List Nat :=
  (rangeFrom 640 16).flatMap (fun b => let bs := rd b; (List.range 256).map (fun j => bytesAt bs (2 * j) 2))
/-- Limb billets that the cell fields imply (R118). -/
def spillLimbs (fs : List Nat) : Nat := ceilDiv (fs.map fieldLimbs).sum 64
def readSpill (rd : Nat → List Byte) : Option (Nat × List LimbVal) :=
  let fs := spillFields rd
  if fs.any (fun f => bit f 15) then none
  else
    let l := spillLimbs fs
    let ls := (List.range l).flatMap (fun b => let bs := rd b; (List.range 64).map (fun j => bytesAt bs (8 * j) 8))
    some (l, spillDecode fs ls)

/-- The cells of a resumed output tile. -/
def resumeCells (vs : List LimbVal) : Sparse Cell := relist {} 0 (vs.map (·.cell))

/-- A billet of its spill region that a RESUME has read. -/
def Tile.resumeBillet (x : Tile) (id b : Nat) : List Byte := (x.arrival (.resume id b)).getD []

/-- A started RESUME reads its spill region: first the cell fields, then the limb billets that they imply; a cell field with its reserved bit set aborts it (R119). MATRIX_SPILL_LAST then stays as it was (DESIGN CHOICE, log entry 45). -/
def resumePump (t : Nat) (q : QEntry) (e : MapEntry) (s : State) : State :=
  match e.resolve (mDest q.cmd) 656 with
  | .error r => faultMat t q r s
  | .ok (st, i) =>
    let ask := fun (f first n : Nat) (s : State) =>
      forAll (rangeFrom first n) (fun b s => postRead t .feedA st (i + b) (.resume q.id b) s)
        (s.modTile t (·.modMat q.id (fun q => { q with asked := sset q.asked f n })))
    let x := s.tile t
    if sgetD q.asked 0 0 = 0 then ask 0 640 16 s
    else if q.kDone ≠ 0 || (rangeFrom 640 16).any (fun b => (x.arrival (.resume q.id b)).isNone) then s
    else
      let fs := spillFields (x.resumeBillet q.id)
      if fs.any (fun f => bit f 15) then faultMat t q 0x01 s
      else
        let l := spillLimbs fs
        ask 1 0 l (s.modTile t (·.modMat q.id (fun q => { q with kDone := l + 1 })))

/-- A RESUME that has the array and has read its region loads the cells and opens the output tile (R119). -/
def resumeTile (t : Nat) (q : QEntry) (s : State) : State :=
  let x := s.tile t
  if q.kDone = 0 || (List.range (q.kDone - 1)).any (fun b => (x.arrival (.resume q.id b)).isNone) then s
  else
    match readSpill (x.resumeBillet q.id) with
    | none => faultMat t q 0x01 s
    | some (l, vs) =>
      let s1 := modMatrix t (fun m => { m.close with
        isOpen := true, cells := resumeCells vs
        spillLast := spillLast l true false q.slot (flaggedCells vs) }) s
      working t q.slot (spillCycles l) (doneMat t q.id (s1.modTile t (·.dropReqs (·.ofMat q.id))))

/-- The four feeders ask for a command. -/
def Tile.feedCmd (x : Tile) (cycle : Nat) (e : MapEntry) (id : Nat) : Tile := (List.range 4).foldl (fun x f => Tile.feedAll 16 cycle e id f x) x

/-- A started command asks for what its feeders have room for. -/
def feedOne (t : Nat) (q : QEntry) (s : State) : State :=
  match (s.tile t).entry q.slot with
  | none => s
  | some e =>
    if e.ctx ≠ q.ctx then s
    else if mOp q.cmd = 5 then resumePump t q e s
    else if q.steps then s.modTile t (·.feedCmd (s.tileCycle t) e q.id)
    else s

/-- The feeders of the started commands ask for what they have room for, in queue order (R92). -/
def feedPump (t : Nat) (s : State) : State := forAll ((s.tile t).matQ.filter (fun q => q.started && !q.done)) (feedOne t) s

/-! ### The rows (R85) -/

/-- What the command that has the array does when it is of that OP. -/
def arrayWork (t op : Nat) (s : State) : State :=
  match (s.tile t).matNext with
  | none => s
  | some q =>
    if mOp q.cmd ≠ op || !q.started then s
    else
      match headEntry s t (some q) with
      | .go q e ctx =>
        match op with
        | 2 => drainTile t q e ctx s
        | 4 => spillTile t q e s
        | 5 => resumeTile t q s
        | 6 => working t q.slot 1 (doneMat t q.id (modMatrix t (·.close) s))
        | _ => accumulate t q e ctx s
      | _ => s

/-- A row of the matrix engine: the next command starts when it is of that OP and may; the one that has the array goes on when it is of that OP; then the feeders ask for more. -/
def matrixRow (t op : Nat) (ecc : Check) (s : State) : State := feedPump t (arrayWork t op (startMat t op ecc s))

/-- ACCUMULATE (R67, R85): applies K_STEPS K-steps to the open output tile. -/
def execAccumulate (t : TileId) (ecc : Check) (s : State) : Host.Outcome State Fault Refusal := .next (matrixRow t 1 ecc s)
/-- DRAIN (R85, R93): rounds the open output tile once, writes it out and closes it. -/
def execDrain (site : Site) (s : State) : Host.Outcome State Fault Refusal := .next (matrixRow site.val 2 site.ecc s)
/-- ACCUMULATE_DRAIN (R85): ACCUMULATE followed by DRAIN, as one command. -/
def execAccumulateDrain (t : TileId) (ecc : Check) (s : State) : Host.Outcome State Fault Refusal := .next (matrixRow t 3 ecc s)
/-- SPILL (R85, R118): writes the open output tile losslessly to its spill region and closes it. -/
def execSpill (site : Site) (s : State) : Host.Outcome State Fault Refusal := .next (matrixRow site.val 4 site.ecc s)
/-- RESUME (R85, R119): reads a spilled output tile back into the cells and opens it. -/
def execResume (t : TileId) (ecc : Check) (s : State) : Host.Outcome State Fault Refusal := .next (matrixRow t 5 ecc s)
/-- DISCARD (R85, R97): every cell and flag is cleared and the output tile closes. -/
def execDiscard (site : Site) (s : State) : Host.Outcome State Fault Refusal := .next (matrixRow site.val 6 site.ecc s)

/-! ### Completion (R97) -/

/-- Writes of a command still wait for their grants, or its contributions for their additions (R94, R97). -/
def Tile.matBusy (x : Tile) (q : QEntry) : Bool :=
  x.reqs.any (fun r => r.dst = .drain q.id) || x.merges.any (fun m => m.org = .scale q.id)
    || x.rick.adds.any (fun a => a.src = some q.id)

/-- MATRIX_COMMAND_COMPLETE (R88, R97): the oldest command whose effect is whole leaves the queue and posts its counter add; it need not be the head, since a drain's writes overlap the commands behind it. -/
def execMatrixCommandComplete (t : TileId) (s : State) : Host.Outcome State Fault Refusal :=
  .next <|
    let x := s.tile t
    match x.matQ.find? (fun q => q.done && (q.faulted || !x.matBusy q)) with
    | none => s
    | some q =>
      if s.tileLit t then
        completeEntry t 0 q (s.modTile t (fun x => { x with matQ := x.matQ.erase q, drains := x.drains.filter (fun d => d.cmd ≠ q.id) }))
      else s

/-! ### Causes of a frozen cycle (R98, R99) -/

/-- The output tile counts as open: it is, or a SPILL, a RESUME or a DISCARD occupies the array (R98). -/
def Tile.arrayOpen (x : Tile) : Bool := x.matrix.isOpen || (x.matrix.owner.isSome && decide (4 ≤ x.matrix.op))

/-- The array works in this cycle: a drain row can be read, a K-step can be applied, or a SPILL, a RESUME or a DISCARD occupies it (R98). -/
def Tile.arrayWorks (x : Tile) : Bool :=
  match x.matNext with
  | none => false
  | some q => q.started && (if x.matrix.draining then x.rowFits q else !q.steps || x.stepReady q q.kDone)

/-- The first cause of R99 that holds in this cycle: 0 while no output tile is open, when the array works, or when only the writes of a drain that has left the array go on (R98). DESIGN CHOICE (log entry 50): a held feeder read and a backed-up drain freeze the array while such writes go on (R96, R99), and every other wait is then promotion-only. -/
def Tile.freezeCause (x : Tile) : Nat :=
  if !x.arrayOpen || x.arrayWorks then 0
  else if x.reqs.any (fun r => r.feeds.isSome && x.reqHeld r) then 1
  else if x.matrix.draining then 5
  else if x.matQ.any (fun q => q.done && x.matBusy q) then 0
  else
    match x.matNext with
    | none => 6
    | some q =>
      if !q.started then 6
      else if x.feedMissing q q.kDone 0 then 2
      else if x.feedMissing q q.kDone 1 then 3
      else 4

end Sys2Proof.Machine
end

