-- ==== Sys2Proof/Machine/Vector.lean ====
section
/-! DEFINITION. The vector engine (05_operand_case_tables.md R138 to R150, R452): its command, the checks at enqueue and at start, and one row for each VOP. -/

namespace Sys2Proof.Machine

/-! ### The vector command (R138) -/

def vOp (c : BitVec 256) : Nat := cf c 8 0 8
def vType (c : BitVec 256) : Nat := cf c 9 0 2
def vRound (c : BitVec 256) : Nat := cf c 9 2 2
def vImm (c : BitVec 256) : Bool := bit c.toNat 76
def vOut (c : BitVec 256) : Nat := cf c 10 0 4
def vIn (c : BitVec 256) : Nat := cf c 10 4 4
def vScaled (c : BitVec 256) : Bool := bit c.toNat 88
def vCount (c : BitVec 256) : Nat := cf c 12 0 16
def vSrc (c : BitVec 256) (n : Nat) : Nat := cf c (14 + 2 * n) 0 16
def vDest (c : BitVec 256) : Nat := cf c 20 0 16
def vDestScale (c : BitVec 256) : Nat := cf c 22 0 16
def vSrTag (c : BitVec 256) : Nat := cf c 24 0 16
def vShift (c : BitVec 256) : Int := signed 9 (cf c 26 0 9)
def vImmVal (c : BitVec 256) : Nat := cf c 28 0 32

def vWiden (c : BitVec 256) : Bool := vOp c = 0x20
def vNarrow (c : BitVec 256) : Bool := vOp c = 0x21
/-- Operations of R142 and R145 by their number of operands; 0 for a code that is neither. -/
def vOperands (v : Nat) : Nat :=
  if v = 4 then 3
  else if v = 1 || v = 2 || v = 3 || v = 5 || v = 6 || v = 9 || v = 0xA || v = 0xB then 2
  else if v = 7 || v = 8 || (0x10 ≤ v && v ≤ 0x19) then 1
  else 0

/-- Bits of a source element, and of a result element. -/
def vSrcBits (c : BitVec 256) : Nat := if vWiden c then fmtBits (vIn c) else if vType c = 0 then 32 else 16
def vDstBits (c : BitVec 256) : Nat := if vWiden c then 32 else if vNarrow c then outBits (vOut c) else vSrcBits c
/-- Elements of the command (R140), result billets, and billets of scales read or written (R147, R148). -/
def vElems (c : BitVec 256) : Nat := vCount c * 4096 / vSrcBits c
def vDstBillets (c : BitVec 256) : Nat := vCount c * vDstBits c / vSrcBits c
def vScaleBillets (c : BitVec 256) : Nat := ceilDiv (ceilDiv (vElems c) 32) 512
/-- Billets that SRC1 names: a second operand, or scales. -/
def vSrc1Billets (c : BitVec 256) : Nat :=
  if vWiden c then (if vScaled c then vScaleBillets c else 0)
  else if 2 ≤ vOperands (vOp c) && !vImm c then vCount c else 0
def vUsesSrc1 (c : BitVec 256) : Bool := if vWiden c then vScaled c else 2 ≤ vOperands (vOp c) && !vImm c
def vUsesScale (c : BitVec 256) : Bool := vNarrow c && outMx (vOut c)

/-- The checks of a vector command at enqueue (R139, R451). -/
def vectorChecks (e : MapEntry) (c : BitVec 256) : List (Bool × Nat) :=
  let v := vOp c
  let nar := vNarrow c
  let wid := vWiden c
  syncChecks e.ctrSize c ++
  [ (vOperands v = 0 && !nar && !wid, 0x01)
  , (2 ≤ vType c || cf c 9 5 3 ≠ 0 || cf c 11 1 7 ≠ 0 || cf c 26 9 7 ≠ 0 || vRound c = 3, 0x01)
  , (!nar && (vRound c ≠ 0 || vOut c ≠ 0 || cf c 24 0 32 ≠ 0), 0x01)
  , (!wid && (vIn c ≠ 0 || vScaled c), 0x01)
  , (wid && 9 < vIn c, 0x01)
  , (nar && 0xB ≤ vOut c && vOut c ≤ 0xE, 0x01)
  , (!vUsesSrc1 c && vSrc c 1 ≠ 0, 0x01)
  , (v ≠ 4 && vSrc c 2 ≠ 0, 0x01)
  , (!vUsesScale c && vDestScale c ≠ 0, 0x01)
  , (!nar && !vImm c && vImmVal c ≠ 0, 0x01)
  , ((bilOf (vSrc c 0)).isNone || (bilOf (vDest c)).isNone, 0x01)
  , (vUsesSrc1 c && (bilOf (vSrc c 1)).isNone, 0x01)
  , (v = 4 && (bilOf (vSrc c 2)).isNone, 0x01)
  , (vUsesScale c && (bilOf (vDestScale c)).isNone, 0x01)
  , (vCount c = 0xFFFF, 0x04)
  , (vImm c && vOperands v < 2, 0x02)
  , (nar && (vOut c = 0 || vOut c = 0xF || (vOut c = 1 && vType c = 1)), 0x02)
  , (nar && outMx (vOut c) && cf c 26 0 9 ≠ 0, 0x02)
  , (wid && (vType c ≠ 0 || (vScaled c && 8 ≤ vIn c)), 0x02)
  , (vCount c * vDstBits c % vSrcBits c ≠ 0, 0x02) ]

/-! ### Queue -/

/-- Runs the head of the vector queue when its VOP is the row's. -/
def withVector (t op : Nat) (s : State) (f : QEntry → MapEntry → Ctx → State) : State :=
  let q := (s.tile t).vecQ.head?
  if q.any (fun q => vOp q.cmd = op && !q.done) then
    match headEntry s t q with
    | .idle => s
    | .saturated c => ctxFault t c 0x07 0x0B (s.modTile t (fun x => { x with vecQ := x.vecQ.drop 1 }))
    | .go q e c => f q e c
  else s

def setVecHead (t : Nat) (q : QEntry) (s : State) : State := s.modTile t (fun x => { x with vecQ := q :: x.vecQ.drop 1 })

/-- The command is refused at start (R139). -/
def refuseVec (t : Nat) (q : QEntry) (code : Nat) (s : State) : State :=
  ctxFault t q.ctx 0x03 code (s.modTile t (fun x => { x with vecQ := x.vecQ.drop 1 }))

/-- The command starts. -/
def startVec (t : Nat) (q : QEntry) (s : State) : State :=
  if q.started then s else startLatch t 1 q (setVecHead t (startedEntry s t q) s)

/-- The command has presented every result. -/
def doneVec (t : Nat) (s : State) : State :=
  s.modTile t (fun x => match x.vecQ with
    | q :: r => { x with vecQ := { q with done := true } :: r }
    | [] => x)

/-- Flags of a command, with LAST_VOP, in VECTOR_FLAGS of its context (R150). -/
def Tile.raiseFlags (x : Tile) (slot vop f : Nat) : Tile :=
  if f = 0 then x
  else
    let new := fun (v : BitVec 32) => (v ||| BitVec.ofNat 32 f) &&& 0xFFFF00FF ||| BitVec.ofNat 32 (vop <<< 8)
    if x.run = some slot then { x with vflags := new x.vflags }
    else { x with banks := smod x.banks slot {} (fun b => { b with vflags := new b.vflags }) }

/-! ### Sources -/

/-- Physical billets of `n` billets from a billet address; none outside the slice. -/
def MapEntry.bils (e : MapEntry) (a n : Nat) : List (StoreId × Nat) :=
  match e.resolve a n with
  | .ok (st, i) => (List.range n).map (fun k => (st, i + k))
  | .error _ => []

/-- Source billets that a command reads for its n-th billet of elements, each with the number of its operand: 0 to 2, and 3 for a billet of scales, which serves 16,384 elements (R140, R147, R452). -/
def vGroup (e : MapEntry) (c : BitVec 256) (n : Nat) : List (Nat × StoreId × Nat) :=
  let at' := fun (k j : Nat) (bs : List (StoreId × Nat)) => ((bs[j]?).map (fun p => (k, p))).toList
  let per := 4 * vSrcBits c
  at' 0 n (e.bils (vSrc c 0) (vCount c))
    ++ (if vWiden c then (if n % per = 0 then at' 3 (n / per) (e.bils (vSrc c 1) (vSrc1Billets c)) else [])
        else at' 1 n (e.bils (vSrc c 1) (vSrc1Billets c)))
    ++ (if vOp c = 4 then at' 2 n (e.bils (vSrc c 2) (vCount c)) else [])

/-- A read of the vector engine. -/
def ReqDst.isVecSrc : ReqDst → Bool
  | .vecSrc _ => true
  | _ => false

/-- The billets of operand `k` that have arrived, in element order. -/
def Tile.vecBytes (x : Tile) (k n : Nat) : List Byte := (List.range n).flatMap (fun g => (x.arrival (.vecSrc (4 * g + k))).getD [])

/-- A range that leaves the slice at start (R43, R139). -/
def vecRefusal (e : MapEntry) (c : BitVec 256) : Option Nat :=
  let past := fun (a n : Nat) => match e.resolve a n with | .ok _ => false | .error _ => true
  pickCode
    [ (past (vSrc c 0) (vCount c), 0x05)
    , (vUsesSrc1 c && past (vSrc c 1) (vSrc1Billets c), 0x05)
    , (vOp c = 4 && past (vSrc c 2) (vCount c), 0x05)
    , (past (vDest c) (vDstBillets c), 0x05)
    , (vUsesScale c && past (vDestScale c) (vScaleBillets c), 0x05) ]

/-- Elements of `w` bits of billets taken as one little-endian value. -/
def elemsOf (bs : List Byte) (w : Nat) : List Nat :=
  let v := leNat bs
  (List.range (8 * bs.length / w)).map (fun n => bf v (w * n) w)

/-- Results of a command, from the source billets that have arrived, as elements with their flags, and the scale bytes of an MX conversion. -/
def vecResults (x : Tile) (q : QEntry) (seed : BitVec 64) (superstep : Nat) : List Nat × List Nat × Nat :=
  let c := q.cmd
  let w := vSrcBits c
  let f := typeFmt (vType c)
  let s0 := elemsOf (x.vecBytes 0 (vCount c)) w
  if vWiden c then
    let sc := if vScaled c then elemsOf (x.vecBytes 3 (vCount c)) 8 else []
    let rs := (s0.zip (List.range s0.length)).map (fun p =>
      widenElem (vIn c) p.1 (if vScaled c then some (sc.getD (p.2 / 32) 0) else none))
    (rs.map (·.1), [], orAll (rs.map (·.2)))
  else if vNarrow c then
    let ws := (s0.zip (List.range s0.length)).map (fun p =>
      ((f.decode p.1).scale (vShift c),
        if vRound c = 2 then stochastic seed superstep (vSrTag c) (bf (vImmVal c + p.2) 0 32) 0x80000000 else 0))
    if outMx (vOut c) then
      let bl := (List.range (ws.length / 32)).map (fun b => narrowBlock (vOut c) (vRound c) ((ws.drop (32 * b)).take 32))
      (bl.flatMap (·.2.1), bl.map (·.1), orAll (bl.map (·.2.2)))
    else
      let rs := ws.map (fun p => narrowElem (vOut c) (vRound c) p.2 p.1)
      (rs.map (·.1), [], orAll (rs.map (·.2)))
  else
    let s1 := elemsOf (x.vecBytes 1 (vCount c)) w
    let s2 := elemsOf (x.vecBytes 2 (vCount c)) w
    let imm := fp32.decode (vImmVal c)
    let rs := (s0.zip (List.range s0.length)).map (fun p =>
      vecElem (vOp c) (vType c) p.1 (f.decode p.1)
        (if vImm c then imm else f.decode (s1.getD p.2 0)) (f.decode (s2.getD p.2 0)))
    (rs.map (·.1), [], orAll (rs.map (·.2)))

/-- Presents the results at their banks, and the tail of the scale bytes at the merge buffer (R148). -/
def vecWrite (t : Nat) (e : MapEntry) (c : BitVec 256) (es scales : List Nat) (s : State) : State :=
  let bs := natLe (512 * vDstBillets c) (packElems (vDstBits c) es)
  let s1 := forAll ((e.bils (vDest c) (vDstBillets c)).zip (List.range (vDstBillets c))) (fun p s =>
    postWrite t .vector p.1.1 p.1.2 ((bs.drop (512 * p.2)).take 512) .vector s) s
  if vUsesScale c then
    let sb := scales.map (BitVec.ofNat 8)
    forAll ((e.bils (vDestScale c) (vScaleBillets c)).zip (List.range (vScaleBillets c))) (fun p s =>
      let b := (sb.drop (512 * p.2)).take 512
      if b.length = 512 then postWrite t .vector p.1.1 p.1.2 b .vector s else queueMerge t p.1.1 p.1.2 0 b .cvtTail s) s1
  else s1

/-- The reads for the next billet of elements are presented. -/
def vecAsk (t : Nat) (e : MapEntry) (q : QEntry) (s : State) : State :=
  forAll (vGroup e q.cmd q.kDone) (fun p s => postRead t .vector p.2.1 p.2.2 (.vecSrc (4 * q.kDone + p.1)) s)
    (setVecHead t { q with kDone := q.kDone + 1 } s)

/-- The head command of the vector queue with that VOP starts; then it presents the reads of its next billet of elements once those before have been granted, and when every source billet has arrived it presents its results: each element is read before the result that replaces it (R140, R452). COUNT 0 is a no-op. `ecc` is the check of the queue entry that the start reads (R409). -/
def vectorRow (t op : Nat) (ecc : Check) (s : State) : State :=
  withVector t op s fun q e ctx =>
    let c := q.cmd
    if q.started then
      let x := s.tile t
      if q.kDone < vCount c then
        if x.reqs.all (fun r => !r.dst.isVecSrc) then vecAsk t e q s else s
      else if x.noneAsked (·.isVecSrc) then
        let (es, scales, f) := vecResults x q ctx.seed ctx.superstep
        doneVec t ((vecWrite t e c es scales (s.modTile t (·.dropReqs (·.isVecSrc)))).modTile t (·.raiseFlags q.slot op f))
      else s
    else
      match tileEcc t ecc s with
      | (none, s') => s'
      | (some s1, _) =>
        if vCount c = 0 then doneVec t (startVec t q s1)
        else
          match vecRefusal e c with
          | some r => refuseVec t q r s1
          | none =>
            let s2 := startVec t q s1
            match (s2.tile t).vecQ.head? with
            | some q1 => vecAsk t e q1 s2
            | none => s2

/-! ### The rows -/

/-- ADD (R142): src0 + src1. -/
def execAdd (t : TileId) (ecc : Check) (s : State) : Host.Outcome State Fault Refusal := .next (vectorRow t 0x01 ecc s)
/-- SUB (R142): src0 − src1. -/
def execSub (t : TileId) (ecc : Check) (s : State) : Host.Outcome State Fault Refusal := .next (vectorRow t 0x02 ecc s)
/-- MUL (R142): src0 × src1. -/
def execMul (t : TileId) (ecc : Check) (s : State) : Host.Outcome State Fault Refusal := .next (vectorRow t 0x03 ecc s)
/-- FMA (R142): src0 × src1 + src2, rounded once. -/
def execFma (t : TileId) (ecc : Check) (s : State) : Host.Outcome State Fault Refusal := .next (vectorRow t 0x04 ecc s)
/-- MIN (R142): the IEEE 754-2019 minimum. -/
def execMin (t : TileId) (ecc : Check) (s : State) : Host.Outcome State Fault Refusal := .next (vectorRow t 0x05 ecc s)
/-- MAX (R142): the IEEE 754-2019 maximum. -/
def execMax (t : TileId) (ecc : Check) (s : State) : Host.Outcome State Fault Refusal := .next (vectorRow t 0x06 ecc s)
/-- ABS (R142): src0 with its sign bit clear. -/
def execAbs (t : TileId) (ecc : Check) (s : State) : Host.Outcome State Fault Refusal := .next (vectorRow t 0x07 ecc s)
/-- NEG (R142): src0 with its sign bit inverted. -/
def execNeg (t : TileId) (ecc : Check) (s : State) : Host.Outcome State Fault Refusal := .next (vectorRow t 0x08 ecc s)
/-- CMP_LT (R142): 1.0 where src0 < src1, else +0. -/
def execCmpLt (t : TileId) (ecc : Check) (s : State) : Host.Outcome State Fault Refusal := .next (vectorRow t 0x09 ecc s)
/-- CMP_LE (R142): 1.0 where src0 ≤ src1, else +0. -/
def execCmpLe (t : TileId) (ecc : Check) (s : State) : Host.Outcome State Fault Refusal := .next (vectorRow t 0x0A ecc s)
/-- CMP_EQ (R142): 1.0 where src0 = src1, else +0. -/
def execCmpEq (t : TileId) (ecc : Check) (s : State) : Host.Outcome State Fault Refusal := .next (vectorRow t 0x0B ecc s)
/-- RCP (R145): 1/x. -/
def execRcp (t : TileId) (ecc : Check) (s : State) : Host.Outcome State Fault Refusal := .next (vectorRow t 0x10 ecc s)
/-- SQRT (R145): √x. -/
def execSqrt (t : TileId) (ecc : Check) (s : State) : Host.Outcome State Fault Refusal := .next (vectorRow t 0x11 ecc s)
/-- RSQRT (R145): 1/√x. -/
def execRsqrt (t : TileId) (ecc : Check) (s : State) : Host.Outcome State Fault Refusal := .next (vectorRow t 0x12 ecc s)
/-- EXP (R145): eˣ. -/
def execExp (t : TileId) (ecc : Check) (s : State) : Host.Outcome State Fault Refusal := .next (vectorRow t 0x13 ecc s)
/-- EXP2 (R145): 2ˣ. -/
def execExp2 (t : TileId) (ecc : Check) (s : State) : Host.Outcome State Fault Refusal := .next (vectorRow t 0x14 ecc s)
/-- EXPM1 (R145): eˣ − 1. -/
def execExpm1 (t : TileId) (ecc : Check) (s : State) : Host.Outcome State Fault Refusal := .next (vectorRow t 0x15 ecc s)
/-- LOG (R145): ln x. -/
def execLog (t : TileId) (ecc : Check) (s : State) : Host.Outcome State Fault Refusal := .next (vectorRow t 0x16 ecc s)
/-- LOG2 (R145): log₂ x. -/
def execLog2 (t : TileId) (ecc : Check) (s : State) : Host.Outcome State Fault Refusal := .next (vectorRow t 0x17 ecc s)
/-- TANH (R145): tanh x by the sequence of R146. -/
def execTanh (t : TileId) (ecc : Check) (s : State) : Host.Outcome State Fault Refusal := .next (vectorRow t 0x18 ecc s)
/-- SIGMOID (R145): 1/(1 + e⁻ˣ) by the sequence of R146. -/
def execSigmoid (t : TileId) (ecc : Check) (s : State) : Host.Outcome State Fault Refusal := .next (vectorRow t 0x19 ecc s)
/-- CVT_WIDEN (R147): elements of IN_FORMAT as FP32, with scales when SCALED. -/
def execCvtWiden (t : TileId) (ecc : Check) (s : State) : Host.Outcome State Fault Refusal := .next (vectorRow t 0x20 ecc s)
/-- CVT_NARROW (R148): elements as OUT_FORMAT, with MX scales. -/
def execCvtNarrow (t : TileId) (ecc : Check) (s : State) : Host.Outcome State Fault Refusal := .next (vectorRow t 0x21 ecc s)

/-! ### Completion (R452) -/

/-- VECTOR_COMMAND_COMPLETE (R452): the head, whose last write has been granted, scale bytes and tail included, leaves the queue and posts its counter add. -/
def execVectorCommandComplete (t : TileId) (s : State) : Host.Outcome State Fault Refusal :=
  .next <|
    match (s.tile t).vecQ with
    | [] => s
    | q :: r =>
      if s.tileLit t && q.done && (q.faulted || (s.tile t).quiet .vector .cvtTail) then
        completeEntry t 1 q (s.modTile t (fun x => { x with vecQ := r }))
      else s

end Sys2Proof.Machine
end

