-- ==== Sys2Proof/Machine/Barriers.lean ====
section
/-! DEFINITION. What a tile core issues to its engines and barriers: ENQUEUE, the sync-counter instructions, and the exchange and boundary barriers of a partition (02 R36 to R39, 06 R160 to R166, 08 R204 to R206, 11 R279). -/

namespace Sys2Proof.Machine

/-! ### ENQUEUE (R36, R37, R279) -/

/-- Entries of a queue in use, and its depth (R37). -/
def Tile.queueUse (x : Tile) : Engine → Nat
  | .matrix => x.matQ.length
  | .vector => x.vecQ.length
  | .dma => x.dmaUse
  | .rick => x.rickQ.length
def queueDepth : Engine → Nat
  | .matrix => 16
  | .vector => 32
  | .dma => 64
  | .rick => 16

/-- FEATURES bits whose operation class a command belongs to (R279). -/
def featureBits (eng : Engine) (c : BitVec 256) : List Nat :=
  match eng with
  | .matrix =>
    let acc := mOp c = 1 || mOp c = 3
    let drn := mOp c = 2 || mOp c = 3
    (if acc then [if mWide c then 1 else 0] else []) ++ (if acc && (mTurn c false || mTurn c true) then [2] else [])
      ++ (if drn && (mRick c || mOut c = 0xF) then [3] else [])
  | .vector => []
  | .dma => if dTranspose c then [2] else []
  | .rick => 3 :: (if rOp c = 3 && rDestKind c = 1 then [5] else [])

/-- The checks of a command at enqueue. -/
def engineChecks (e : MapEntry) (eng : Engine) (c : BitVec 256) : List (Bool × Nat) :=
  match eng with
  | .matrix => matrixChecks e c
  | .vector => vectorChecks e c
  | .dma => dmaChecks e c
  | .rick => rickChecks e c

/-- Block of an engine (R405). -/
def engineBlock : Engine → Nat
  | .matrix => 0x02
  | .vector => 0x03
  | .dma => 0x04
  | .rick => 0x05

/-- Puts a command at the end of its queue, with the tile's next command number. -/
def Tile.push (x : Tile) (eng : Engine) (q0 : QEntry) : Tile :=
  let q := { q0 with id := x.nextCmd }
  let y := { x with nextCmd := x.nextCmd + 1 }
  match eng with
  | .matrix => { y with matQ := x.matQ ++ [q] }
  | .vector => { y with vecQ := x.vecQ ++ [q] }
  | .dma => { y with dmaQ := x.dmaQ ++ [q] }
  | .rick => { y with rickQ := x.rickQ ++ [q] }

/-- ENQUEUE (R36): one command into its engine's queue after the static checks; with a full queue the core stalls. -/
def execEnqueue (t : TileId) (eng : Engine) (cmd : CoreCmd) (s : State) : Host.Outcome State Fault Refusal :=
  .next <|
    match coreIssue s t (fun st => st = .none || st = .queueFull eng) with
    | none => s
    | some (slot, e) =>
      let x := s.tile t
      let feats := match s.ctx e.ctx with | some c => c.features | none => 0
      if !cmd.mapOk then ctxFault t e.ctx 0x01 0x18 s
      else if queueDepth eng ≤ x.queueUse eng then s.modTile t (·.setStall (.queueFull eng))
      else
        match pickCode (engineChecks e eng cmd.bits ++ [((featureBits eng cmd.bits).any (fun b => !bit feats b), 0x07)]) with
        | some c => ctxFault t e.ctx (engineBlock eng) c s
        | none => s.setTile t ((x.setStall .none).push eng { ctx := e.ctx, slot := slot, cmd := cmd.bits })

/-! ### Counter instructions (R160) -/

/-- CTR_WAIT (R157, R160): the core stalls until the counter meets the value; an ID beyond the window or a saturated counter is refused. -/
def execCtrWait (t : TileId) (rs rt : Fin 32) (s : State) : Host.Outcome State Fault Refusal :=
  .next <|
    match coreIssue s t (fun st => st = .none || st = .ctrWait) with
    | none => s
    | some (slot, e) =>
      let x := s.tile t
      let v := (x.reg slot rs).toNat
      if e.ctrSize ≤ v then ctxFault t e.ctx 0x07 0x06 s
      else
        match x.waits e v (x.reg slot rt).toNat with
        | .saturated => ctxFault t e.ctx 0x07 0x0B s
        | .met => s.setTile t (x.setStall .none)
        | .unmet => s.setTile t (x.setStall .ctrWait)

/-- CTR_ADD (R160): posts an add of 1 to 255. -/
def execCtrAdd (t : TileId) (id val : BitVec 8) (s : State) : Host.Outcome State Fault Refusal :=
  .next <|
    match coreIssue s t freeCore with
    | none => s
    | some (slot, e) =>
      if e.ctrSize ≤ id.toNat then ctxFault t e.ctx 0x07 0x06 s
      else if val = 0 then ctxFault t e.ctx 0x07 0x02 s
      else postAdd t e.ctx slot id.toNat val.toNat s

/-- CTR_READ (R160): the counter's 48-bit value, zero-extended. -/
def execCtrRead (t : TileId) (rd : Fin 32) (id : BitVec 8) (s : State) : Host.Outcome State Fault Refusal :=
  .next <|
    match coreIssue s t freeCore with
    | none => s
    | some (slot, e) =>
      if e.ctrSize ≤ id.toNat then ctxFault t e.ctx 0x07 0x06 s
      else s.modTile t (fun x => x.setReg slot rd ((x.counter (e.counter id.toNat)).setWidth 64))

/-! ### Rebase (R153, R164 to R166) -/

/-- Adds that operations of a context have still to post on a tile, by virtual ID; a rick stream may post to any counter of its window (R153). -/
def Tile.addsDue (x : Tile) (n : Nat) : List Nat × Bool :=
  let cmds := (x.ops.filter (fun o => o.ctx = n && !o.host)).map (·.cmd) ++ (x.dmaQ.filter (fun q => q.ctx = n)).map (·.cmd)
  ( (cmds.filter (fun c => addValue c ≠ 0)).map addId ++ (cmds.filter (fun c => (dOp c = 3 || dOp c = 4) && dSlotAddVal c ≠ 0)).map dSlotAddId
      ++ ((x.ksl.filter (fun k => k.ctx = n && k.addVal ≠ 0)).map (·.addId))
  , x.rick.streams.any (fun p => p.2.defined && p.2.ctx = n) )

/-- An operation that posts into the window of a context is outstanding on a tile (R153). -/
def Tile.postsFor (x : Tile) (c : Nat) : Bool := let (ids, all) := x.addsDue c; ids ≠ [] || all

/-- A context is at a quiescent boundary (R164). -/
def State.quiescent (s : State) (n : Nat) (c : Ctx) : Bool := !c.onTiles && c.tiles.all (fun t => !(s.tile t).postsFor n)

/-- What a rebase does on a tile (R165). -/
def Tile.rebase (x : Tile) (e : MapEntry) (fill slot : Nat) : Tile :=
  let y := (rangeFrom e.ctrBase e.ctrSize).foldl (fun x p =>
    if x.sat.getLsbD p then
      { x with ctr := sset x.ctr p (BitVec.ofNat 48 (fill % 2 ^ 24)), sat := x.sat &&& ~~~(BitVec.ofNat 64 (2 ^ p)) }
    else { x with ctr := sset x.ctr p (BitVec.ofNat 48 ((x.counter p).toNat % 2 ^ 24)) }) x
  { y with rebaseSlot := slot, rebaseDone := true, rebaseDefer := false }

/-- REBASE_APPLY (R165, R166): a waiting rebase is carried out once the context is at a quiescent boundary. -/
def execRebaseApply (n : CtxId) (s : State) : Host.Outcome State Fault Refusal :=
  .next <|
    match s.ctx n with
    | none => s
    | some c =>
      match c.rebase with
      | none => s
      | some fill =>
        if s.quiescent n c then
          (forAll c.tiles (fun t s => s.modTile t (·.rebase c.entry fill c.slot)) s).modCtx n (fun c => { c with rebase := none })
        else s

/-! ### Barriers (R39, R204 to R206) -/

/-- BARRIER_ARRIVAL (R39): the core executes the barrier-arrival instruction and stalls in it. -/
def execBarrierArrival (t : TileId) (s : State) : Host.Outcome State Fault Refusal :=
  .next <|
    match coreIssue s t freeCore with
    | none => s
    | some _ => s.modTile t (·.setStall .barrier)

/-- The conditions of R39 for a context on a tile. -/
def Tile.settled (x : Tile) (c : Nat) : Bool :=
  let none := fun (q : List QEntry) => q.all (fun e => e.ctx ≠ c)
  none x.matQ && none x.vecQ && none x.dmaQ && none x.rickQ
    && x.ops.all (fun o => o.ctx ≠ c || o.stream || o.host) && x.ksl.all (fun k => k.ctx ≠ c)

/-- Arrival of a tile at the barrier in progress of its context. -/
def Ctx.arrive (c : Ctx) (t cycle : Nat) : Ctx := { c with arrived := if c.arrived.contains t then c.arrived else c.arrived ++ [t], lastArr := cycle }

/-- EXCHANGE_BARRIER_ARRIVAL (R205): the conditions of R39 hold, and the tile arrives with the PLAN_ID it has selected. -/
def execExchangeBarrierArrival (t : TileId) (s : State) : Host.Outcome State Fault Refusal :=
  .next <|
    match coreIssue s t (fun st => st = .barrier), (s.tile t).runCtx with
    | some _, some n =>
      let x := s.tile t
      if x.settled n then
        (s.setTile t { (x.setStall .exchange) with exch := { x.exch with phase := 1 }, arrivedAt := (s.region (regionOf t)).cycles }).modCtx n (fun c =>
          { (c.arrive t (s.ctxCycles c)) with
            barrier := 1
            planIds := c.planIds ++ [x.exch.planId]
            firstArr := if c.arrived = [] then s.ctxCycles c else c.firstArr
            lastExArr := s.ctxCycles c })
      else s
    | _, _ => s

/-- The release of a partition into its exchange phase: plan offsets start at 0, and tiles without a plan arrive at the boundary barrier (R204, R206). -/
def releaseExchange (n : Nat) (c : Ctx) (s : State) : State :=
  let s1 := forAll c.tiles (fun t s => s.modTile t (fun x => { x with
    exch := { x.exch with phase := if x.exch.plan.isSome then 2 else 3, offset := 0, slip := 0, holding := none, ended := false } })) s
  let idle := c.tiles.filter (fun t => (s.tile t).exch.plan.isNone)
  sendArrives n (s1.modCtx n (fun c => { c with barrier := 2, arrived := idle, planIds := [], exRel := s.ctxCycles c, lastArr := s.ctxCycles c }))

/-- A cluster node's participation mask mismatches its complement: the release is withheld and the context stops (R411). -/
def maskMismatch (n node : Nat) (s : State) : State :=
  markStop n (faultCode 0x0B 0x18) (recordFault (pageKey 0x20 node) 0x0B 0x18 (s.modCluster node (fun k => { k with maskError := true })))

/-- EXCHANGE_RELEASE (R204, R205): with every tile arrived and one PLAN_ID the partition is released; differing PLAN_IDs are a plan mismatch that stops the context. -/
def execExchangeRelease (n : CtxId) (badNode : Option (Fin 96)) (s : State) : Host.Outcome State Fault Refusal :=
  .next <|
    match s.ctx n with
    | none => s
    | some c =>
      if s.statues || c.st ≠ .running || c.stop.isSome || c.barrier ≠ 1 || !c.allIn then s
      else
        match badNode.filter (fun k => c.clusters.contains k.val) with
        | some k => maskMismatch n k s
        | none =>
          if c.planIds.all (fun p => some p = c.planIds.head?) then releaseExchange n c s
          else
            let fc := faultCode 0x0B 0x0E
            forAll c.tiles (fun t s => stopOnTile t n fc s) (recordFault (pageKey 0x20 (c.clusters.headD 0)) 0x0B 0x0E s)

/-- The plan of a tile is over: END has fallen due, every send has injected its last flit and every receive is complete (R206). -/
def ExchSt.isOver (e : ExchSt) : Bool :=
  e.ended && e.ents.all (fun p => p.kind = 7 || p.done || (p.sends && p.due && p.left = p.count))

/-- BOUNDARY_BARRIER_ARRIVAL (R206): the tile has ended its exchange phase and arrives at the boundary barrier; the adds of its last sends are posted. -/
def execBoundaryBarrierArrival (t : TileId) (s : State) : Host.Outcome State Fault Refusal :=
  .next <|
    let x := s.tile t
    match exchCtx s t with
    | none => s
    | some (_, m, c) =>
      if x.exch.phase = 2 && c.barrier = 2 && x.exch.isOver then
        sendArrives m.ctx (((finishSends t s).modTile t (fun x => { x with exch := { x.exch with phase := 3 } })).modCtx m.ctx (fun c => c.arrive t (s.ctxCycles c)))
      else s

end Sys2Proof.Machine
end

