-- ==== Sys2Proof/Machine/Stoker.lean ====
section
/-! DEFINITION. The stokers: records and the optimiser step, buckets and their rounds, fingerprints and the replica check (10_training_state.md R246 to R270). -/

namespace Sys2Proof.Machine

/-! ### FP32 steps (R141, R249) -/

def fmaEnc (a b c : Nat) : Nat := (fp32.encode ((fp32.decode a).fma (fp32.decode b) (fp32.decode c)).1).1
/-- Correctly rounded quotient of FP32 encodings; a NaN for operations IEEE 754 gives no number. -/
def divEnc (a b : Nat) : Nat :=
  match fp32.decode a, fp32.decode b with
  | .fin n m e, .fin n' m' e' =>
    if m' = 0 then (if m = 0 then fp32.quiet else 0x7F800000 + fp32.sgn (n != n'))
    else
      let k := Nat.log2 m' + 64
      let (q, x) := sticky ((m <<< k) / m') ((m <<< k) % m' ≠ 0) (e - e' - k)
      (fp32.ieee 0 0 (n != n') q x).1
  | .fin n _ _, .inf n' => fp32.sgn (n != n')
  | .inf n, .fin n' _ _ => 0x7F800000 + fp32.sgn (n != n')
  | _, _ => fp32.quiet
def sqrtEnc (a : Nat) : Nat := (funcBase 0x11 a).1
def oneEnc : Nat := 0x3F800000
/-- An encoding is NaN or infinite. -/
def notFinite (x : Nat) : Bool := bf x 23 8 = 255

/-! ### Descriptor (R257) -/

def dsOpt (d : BitVec 512) : Nat := bf d.toNat 0 2
def dsWork (d : BitVec 512) : Nat := bf d.toNat 2 2
def dsStep (d : BitVec 512) : Nat := bf d.toNat 32 32
def dsWord (d : BitVec 512) (byte : Nat) : Nat := bf d.toNat (8 * byte) 32

/-! ### One record (R246 to R255) -/

/-- The outcome of one record. -/
inductive Applied where
  | malformed
  | nonfinite
  | done (record work scale : List Byte) (saturated : Bool)

/-- The record is malformed (R248). -/
def recordBad (r : List Byte) : Bool :=
  let scaleBad := fun (c : Nat) => bf c 10 5 = 31 || (bit c 15 && bf c 0 15 ≠ 0)
  (List.range 32).any (fun i => notFinite (bytesAt r (4 * i) 4)) || (List.range 32).any (fun i => bf (bytesAt r (128 + i) 1) 0 7 = 0x7F)
    || scaleBad (bytesAt r 192 2) || scaleBad (bytesAt r 194 2) || (r.drop 196).any (· ≠ 0)

/-- Block scale exponent of R253 for the largest magnitude: the smallest k in −24 to 15 with lim × 2^k ≥ X, or 15; none when X = 0. -/
def momentScale (lim : Nat) (xs : List Nat) : Option Int :=
  let big := xs.foldl (fun m x => max m (absEnc x)) 0
  match fp32.decode big with
  | .fin _ m e =>
    if m = 0 then none
    else some ((((List.range 40).map (fun (i : Nat) => (i : Int) - 24)).find? (fun k =>
      match (Fp.fin false lim k).cmp (.fin false m e) with | some c => decide (0 ≤ c) | none => false)).getD 15)
  | _ => some 15

/-- FP16 encoding of 2^k, or of +0. -/
def scaleEnc (k : Option Int) : Nat :=
  match k with
  | none => 0
  | some k => if -14 ≤ k then (k + 15).toNat <<< 10 else 1 <<< (k + 24).toNat

/-- E4M3 code of a first moment, and 8-bit code of a second one, with saturation (R253). -/
def mCode (k : Option Int) (x : Nat) : Nat × Bool :=
  match k with
  | none => (0, false)
  | some k => let (c, f) := narrowElem 4 0 0 ((fp32.decode x).scale (-k)); (c, bit f 4)
def vCode (k : Option Int) (x : Nat) : Nat × Bool :=
  match k, fp32.decode x with
  | some k, .fin _ m e => let (c, _) := roundAt 0 0 m (e - k) 0; (min c 255, decide (255 < c))
  | _, _ => (0, false)

/-- One parameter: w2, m1 and, for AdamW, r1 (R249 to R252). -/
def updateParam (d : BitVec 512) (w m r gin : Nat) : Nat × Nat × Option Nat :=
  let lr := dsWord d 8
  let b1 := dsWord d 16
  let b2 := dsWord d 20
  let g := mulEnc gin (dsWord d 32)
  let w1 := fmaEnc (negEnc (dsWord d 28)) w w
  let n1 := addEnc oneEnc (negEnc b1)
  if dsOpt d = 0 then
    let m1 := fmaEnc b1 m (mulEnc n1 g)
    let v1 := fmaEnc b2 (mulEnc r r) (mulEnc (addEnc oneEnc (negEnc b2)) (mulEnc g g))
    let r1 := sqrtEnc v1
    let q := divEnc m1 (fmaEnc r1 (dsWord d 12) (dsWord d 24))
    (fmaEnc (negEnc lr) q w1, m1, some r1)
  else if dsOpt d = 1 then
    let c := fmaEnc b1 m (mulEnc n1 g)
    let u := match (fp32.decode c).cmp (.fin false 0 0) with
      | some k => if k = 0 then 0 else if 0 < k then oneEnc else negEnc oneEnc
      | none => fp32.quiet
    (fmaEnc (negEnc lr) u w1, fmaEnc b2 m (mulEnc (addEnc oneEnc (negEnc b2)) g), none)
  else
    let m1 := fmaEnc b1 m g
    (fmaEnc (negEnc lr) m1 w1, m1, none)

/-- Working copy of 32 weights: elements and scale byte (R255). -/
def workCopy (fmt : Nat) (ws : List Nat) : List Byte × List Byte :=
  match fmt with
  | 1 => (ws.flatMap (fun w => natLe 2 (bf16.encode (fp32.decode w)).1), [])
  | 2 => let (x, es, _) := narrowBlock 4 0 (ws.map (fun w => (fp32.decode w, 0))); (natLe 32 (packElems 8 es), natLe 1 x)
  | 3 => let (x, es, _) := narrowBlock 8 0 (ws.map (fun w => (fp32.decode w, 0))); (natLe 16 (packElems 4 es), natLe 1 x)
  | _ => ([], [])

/-- One optimiser step of a record (R247 to R255). -/
def applyRecord (d : BitVec 512) (r : List Byte) (gs : List Word) : Applied :=
  if recordBad r then .malformed
  else
    let ms := fp16.decode (bytesAt r 192 2)
    let vs := fp16.decode (bytesAt r 194 2)
    let us := (List.range 32).map (fun i =>
      let m := (fp32.encode ((elemVal 0 (bytesAt r (128 + i) 1)).mul ms).1).1
      let v := (fp32.encode ((Fp.fin false (bytesAt r (160 + i) 1) 0).mul vs).1).1
      updateParam d (bytesAt r (4 * i) 4) m v (gs.getD i 0).toNat)
    if gs.any (fun g => notFinite g.toNat) || us.any (fun u => notFinite u.1 || notFinite u.2.1 || u.2.2.any notFinite) then .nonfinite
    else
      let k := momentScale 448 (us.map (·.2.1))
      let mc := us.map (fun u => mCode k u.2.1)
      let adam := dsOpt d = 0
      let j := momentScale 255 (us.map (fun u => u.2.2.getD 0))
      let vc := us.map (fun u => vCode j (u.2.2.getD 0))
      let vBytes := if adam then vc.flatMap (fun p => natLe 1 p.1) else (r.drop 160).take 32
      let vScale := if adam then natLe 2 (scaleEnc j) else (r.drop 194).take 2
      let (wb, sb) := workCopy (dsWork d) (us.map (·.1))
      .done (us.flatMap (fun u => natLe 4 u.1) ++ mc.flatMap (fun p => natLe 1 p.1) ++ vBytes ++ natLe 2 (scaleEnc k) ++ vScale ++ List.replicate 60 0)
        wb sb (mc.any (·.2) || (adam && vc.any (·.2)))

/-! ### Fingerprints (R267) -/

/-- CRC-64/ECMA-182 of one more byte. -/
def crcByte (c : Nat) (b : Byte) : Nat :=
  (List.range 8).foldl (fun c _ => if bit c 63 then (2 * c) % 2 ^ 64 ^^^ 0x42F0E1EBA9EA3693 else 2 * c) (c ^^^ (b.toNat <<< 56))

/-- CRC-64 of a byte string. -/
def crc64 (bs : List Byte) : BitVec 64 := BitVec.ofNat 64 (bs.foldl crcByte 0)

/-- Record index within the bucket counts for the stack of its address. -/
def Bucket.hereCount (s : State) (b : Bucket) (k : Nat) : Nat := ((List.range b.records).filter (fun r => recordStack s b r = k)).length

/-- Lowest stack that holds records of a list. -/
def lowestStack (s : State) (b : Bucket) (rs : List Nat) : Nat := (rs.map (recordStack s b)).foldl min 31

/-! ### Rounds (R256, R258, R263, R264) -/

/-- The checks of a bucket's ranges for its context (R256): outside the apertures, on a fenced stack, or over another bucket's ranges. -/
def rangeChecks (s : State) (n : Nat) (c : Ctx) (rs : List (Nat × Nat)) : List (Bool × Nat) :=
  [ (rs.any (fun r => !inAperture c r.1 r.2), 0x06)
  , (s.buckets.any (fun p => p.1 ≠ n && p.2.ranges.any (fun q => rs.any (fun r => rangesMeet r.1 r.2 q.1 q.2))), 0x02)
  , (rs.any (fun r => (s.stacksOf r.1 r.2).any s.stackFenced), 0x09) ]

/-- Fields of a descriptor that are reserved or that OPT does not use are nonzero (R257). -/
def descReserved (d : BitVec 512) : Bool :=
  let v := d.toNat
  bf v 4 28 ≠ 0 || bf v 288 32 ≠ 0 || bf v 368 16 ≠ 0 || bf v 432 80 ≠ 0 || dsOpt d = 3
    || (dsOpt d ≠ 0 && (dsWord d 12 ≠ 0 || dsWord d 24 ≠ 0)) || (dsOpt d = 2 && dsWord d 20 ≠ 0)

/-- A round starts: the descriptor is read once and checked; one that fails R257 or R256 fails the round (R258). -/
def startRound (n : Nat) (s : State) : State :=
  match s.bucket n with
  | none => s
  | some b =>
    let d := BitVec.ofNat 512 (leNat (s.hbmRead b.descAddr 64))
    let s1 := touchRange b.descAddr 64 s
    let s2 := s1.setBucket n { b with
      st := .running, desc := d, startTick := s.cad.count.toNat, doneRecs := [], parts := [], nonfinite := [], malformed := [], saturated := [] }
    let bad := match s.ctx b.ctx with
      | none => some 0x07
      | some c => pickCode ((descReserved d, 0x01) :: rangeChecks s n c (workRanges d b.records))
    match bad with
    | none => s2
    | some code => failRound n (recordFault (pageKey 0x3C (lowestStack s b (List.range b.records))) 0x0F code s2)

/-- A hold of its model has taken effect for a bucket: its context has come to the boundary at which the hold applies (R270). -/
def State.modelHeld (s : State) (b : Bucket) : Bool := (s.ctx b.ctx).any (·.held)

/-- Staged packets of a bucket, over all stacks. -/
def State.stagedFor (s : State) (n : Nat) : Bool := s.hbmStacks.any (fun p => p.2.staged.any (fun q => q.bucket = n))

/-- A ready bucket with staged packets whose model is not held starts its next round (R261, R270). -/
def nextRound (n : Nat) (s : State) : State :=
  match s.bucket n with
  | none => s
  | some b => if b.st = .ready && s.stagedFor n && !s.modelHeld b then startRound n s else s

/-- HANDOFF_PACKET_ARRIVAL (R258, R260, R264, R294): the oldest hand-off packet reaches the stoker of its record's stack and is staged; the first of a round starts it; packets of a bucket that is removed or failed are discarded. `ecc` is the check of the staging queue (R409). -/
def execHandoffPacketArrival (ecc : Ecc) (s : State) : Host.Outcome State Fault Refusal :=
  .next <|
    match s.handoffs with
    | [] => s
    | p :: r =>
      let s1 := ({ s with handoffs := r }).modTile p.src (fun x => { x with rick := { x.rick with unaccepted := x.rick.unaccepted - 1 } })
      match s.bucket p.bucket with
      | none => s1
      | some b =>
        if b.st = .failed then s1
        else
          let k := recordStack s b p.recNo
          match ecc with
          | .uncorrectable => fenceStack k (faultCode 0x0F 0x10) (failRound p.bucket (recordFault (pageKey 0x3C k) 0x0F 0x10 s1))
          | e =>
            let s2 := if e = .corrected then recordFault (pageKey 0x3C k) 0x0F 0x14 s1 else s1
            nextRound p.bucket (s2.modStack k (fun q => { q with staged := q.staged ++ [p] }))

/-- Books a record as applied or skipped: its CRC joins the stack's partial (R267). RECORDS_APPLIED counts the records applied (R263, R273). -/
def bookRecord (n k recNo : Nat) (crc : BitVec 64) (applied : Bool) (f : Bucket → Bucket) (s : State) : State :=
  (s.modBucket n (fun b => f { b with doneRecs := b.doneRecs ++ [recNo], parts := smod b.parts k 0 (· + crc) })).modStack k
    (fun q => { q with applied := q.applied + BitVec.ofNat 64 (b2n applied) })

/-- A capture in course notes what a stoker round writes into its context's HBM (R395). -/
def noteStoked (a n : Nat) (s : State) : State :=
  let cap := s.forn.cap
  if cap.st = 2 && (cap.active.bind s.ctx).any (fun c => inAperture c a n) then
    { s with forn := { s.forn with cap := { cap with stoked := cap.stoked ++ [(a, n)] } } }
  else s

/-- STOKER_RECORD_APPLY (R246 to R255, R261): the stoker of a stack applies the oldest staged packet of a bucket whose record has not been updated in the round in progress. A banked stack is woken; a held model's bucket waits. -/
def execStokerRecordApply (k : StackId) (n : Fin 1024) (ecc : HbmEcc) (s : State) : Host.Outcome State Fault Refusal :=
  .next <|
    match s.bucket n with
    | none => s
    | some b =>
      match (s.stack k).staged.find? (fun p => p.bucket = n.val && !b.doneRecs.contains p.recNo) with
      | none => s
      | some p =>
        if b.st ≠ .running || s.statues || s.stackFenced k then s
        else if (s.stack k).st ≠ .active then touchStack k s
        else
          let a := b.base + 256 * p.recNo
          let s1 := (touchStack k s).modStack k (fun q => { q with staged := q.staged.erase p })
          match hbmFetch a 256 ecc s1 with
          | (false, s2) => markStop b.ctx (faultCode 0x0E 0x12) s2
          | (true, s2) =>
            let old := s.hbmRead a 256
            match applyRecord b.desc old p.vals with
            | .malformed => bookRecord n k p.recNo (crc64 old) false (fun b => { b with malformed := smod b.malformed k 0 (satAdd 16 · 1) }) s2
            | .nonfinite => bookRecord n k p.recNo (crc64 old) false (fun b => { b with nonfinite := smod b.nonfinite k 0 (satAdd 16 · 1) }) s2
            | .done new work scale sat =>
              let d := b.desc.toNat
              let wa := bf d 320 48 + work.length * p.recNo
              let sa := bf d 384 48 + p.recNo
              let far := fun (x m : Nat) => ((pieces s.granule 2 x m).map (fun q => if dieOfStack (s.stackOf q.1) = dieOfStack k then 0 else linesOf q.1 q.2)).sum
              let s3 := noteStoked wa work.length <| noteStoked sa scale.length <|
                ((touchRange wa work.length (touchRange sa scale.length s2)).hbmWrite a new |>.hbmWrite wa work).hbmWrite sa scale
              let s4 := s3.modStack k (fun q => { q with
                remoteW := q.remoteW + BitVec.ofNat 64 (far wa work.length + far sa scale.length)
                satRecords := q.satRecords + BitVec.ofNat 64 (b2n sat) })
              bookRecord n k p.recNo (crc64 new) true (fun b => if sat then { b with saturated := smod b.saturated k 0 (satAdd 16 · 1) } else b) s4

/-- ROUND_COMPLETE (R261, R263, R267): every record of the bucket has been applied or skipped; the fingerprint is formed, the round counted, and a round whose packets already wait starts. -/
def execRoundComplete (n : Fin 1024) (s : State) : Host.Outcome State Fault Refusal :=
  .next <|
    match s.bucket n with
    | none => s
    | some b =>
      if b.st ≠ .running || b.doneRecs.length ≠ b.records then s
      else
        let f := (b.parts.map (·.2)).foldl (· + ·) 0
        let fp : FpRound := { round := b.round + 1, total := f, parts := b.parts, step := dsStep b.desc }
        let s1 := s.setBucket n { b with
          st := .ready, round := b.round + 1, fps := (fp :: b.fps).take 4, lastNon := b.nonfinite, lastMal := b.malformed }
        nextRound n (postEvent 0x05 b.ctx 0
          (natLe 2 n ++ natLe 1 b.ctx ++ natLe 1 0 ++ natLe 4 fp.step ++ natLe 8 fp.round ++ natLe 8 f.toNat) s1)

/-- ROUND_TIMEOUT (R263): a round still in progress WATCHDOG_TICKS cadence ticks after its start fails with a class T fault. -/
def execRoundTimeout (n : Fin 1024) (s : State) : Host.Outcome State Fault Refusal :=
  .next <|
    match s.bucket n with
    | none => s
    | some b =>
      if b.st = .running && b.startTick + s.forn.watchdog ≤ s.cad.count.toNat then
        let left := (List.range b.records).filter (fun r => !b.doneRecs.contains r)
        failRound n (recordFault (pageKey 0x3C (lowestStack s b left)) 0x0F 0x2B s)
      else s

/-! ### Replica check (R268, R269) -/

/-- Both buckets hold their records at the same offsets on the same stacks. -/
def sameLayout (s : State) (a b : Bucket) : Bool :=
  a.records = b.records && (List.range a.records).all (fun r => recordStack s a r = recordStack s b r
    && s.localAddr (a.base + 256 * r) - s.localAddr a.base = s.localAddr (b.base + 256 * r) - s.localAddr b.base)

/-- Lowest stack whose partials differ. -/
def firstDiffering (a b : FpRound) : Nat :=
  ((List.range 32).find? (fun k => sgetD a.parts k 0 ≠ sgetD b.parts k 0)).getD 0xFF

/-- The partner's fingerprint of a round: from its bucket in this package, or as it came over the cord. -/
def partnerPrint (s : State) (b : Bucket) (r : Nat) : Option FpRound :=
  if b.partnerCtx = 0xFF then b.partnerFps.find? (fun f => f.round = r)
  else (s.bucket b.partner).bind (fun p => p.fps.find? (fun f => f.round = r))

/-- FINGERPRINT_COMPARE (R268, R269): a round due for comparison that both partners have completed is compared; a difference is logged, posted, and holds the model at its next boundaries. A cord partner's layout is not carried by its frame, so whether it matches is a free value (log entry 4). -/
def execFingerprintCompare (n : Fin 1024) (s : State) : Host.Outcome State Fault Refusal :=
  .next <|
    match s.bucket n with
    | none => s
    | some b =>
      match b.fps.reverse.find? (fun f => 0 < b.checkEvery && f.round % b.checkEvery = 0 && decide (b.compared < f.round) && (partnerPrint s b f.round).isSome) with
      | none => s
      | some f =>
        let s1 := s.setBucket n { b with compared := f.round, partnerFps := b.partnerFps.filter (fun g => decide (f.round < g.round)) }
        match partnerPrint s b f.round with
        | none => s1
        | some g =>
          if f.total = g.total then s1
          else
            let cross := b.partnerCtx = 0xFF
            let (v, s2) := if cross then s1.draw else (0, s1)
            let same := if cross then v.getLsbD 0 else (s.bucket b.partner).any (sameLayout s b)
            let rec_ := natLe 2 n ++ natLe 1 b.ctx ++ natLe 1 (if cross then 0xFF else b.partnerCtx) ++ natLe 4 f.step ++ natLe 8 f.round
              ++ natLe 8 f.total.toNat ++ natLe 8 g.total.toNat ++ natLe 1 (if same then firstDiffering f g else 0xFF)
              ++ natLe 1 (b2n same + 2 * b2n cross) ++ natLe 6 s.cad.count.toNat ++ List.replicate 24 0
            let s3 := postEvent 0x06 b.ctx 0 (rec_.take 40) { s2 with
              mismatches := ({ bytes := rec_ } :: s2.mismatches).take 64
              mismLost := if 64 ≤ s2.mismatches.length then s2.mismLost + 1 else s2.mismLost }
            match s.ctx b.ctx with
            | some c => dueHold c.model s3
            | none => s3

end Sys2Proof.Machine
end

