-- ==== Sys2Proof/Machine/Contexts.lean ====
section
/-! DEFINITION. Commands of the submission rings, and the life of a context: its record and image, creation, channels, and removal (11_contexts_and_task_graphs.md R274 to R287, R293). -/

namespace Sys2Proof.Machine

/-! ### Commands of the rings (R286, R287, R329) -/

/-- The ring whose command the dispatcher takes next: the rings in turn, after the one it took last (R287). -/
def State.nextRing (s : State) : Option Nat :=
  ((rangeFrom (s.evl.turn + 1) 16).map (· % 16)).find? (fun r => (s.ring r).sqEn && (s.ring r).sqHead ≠ (s.ring r).sqTail)

/-- The 64 bytes of a ring's next command. -/
def State.ringCmd (s : State) (r : Nat) : List Byte :=
  s.hostRead ((s.ring r).sqAt + 64 * ((s.ring r).sqHead.toNat % 2 ^ (s.ring r).sqLog)) 64

def cmdOpcode (c : List Byte) : Nat := bytesAt c 0 1
def cmdCtx (c : List Byte) : Nat := bytesAt c 8 1
def cmdBucket (c : List Byte) : Nat := bytesAt c 8 2

/-- Bytes of a command that its opcode uses (R286). -/
def operandBytesOf (op : Nat) : List Nat :=
  match op with
  | 1 => rangeFrom 8 8
  | 3 => rangeFrom 8 12
  | 7 => [8, 12, 13, 14]
  | 8 => [8, 9, 10] ++ rangeFrom 16 12 ++ rangeFrom 32 16
  | 9 => [8, 9]
  | 11 => [8, 9, 10] ++ rangeFrom 12 8 ++ rangeFrom 24 8
  | _ => [8]

/-- A byte that the command does not use is nonzero (R6, R286). -/
def cmdReserved (c : List Byte) : Bool :=
  let used := [0, 4, 5, 6, 7] ++ operandBytesOf (cmdOpcode c)
  (List.range 64).any (fun i => !used.contains i && c.getD i 0 ≠ 0)

/-- PAYLOAD of a command completion; `ctx` and `graph` are the numbers that CREATE_CONTEXT and SUBMIT_GRAPH name (R329). -/
def donePayload (c : List Byte) (ctx graph : Nat) : List Byte :=
  let op := cmdOpcode c
  natLe 1 op ++ natLe 1 (if op = 1 then ctx else if op = 2 || op = 7 then cmdCtx c else 0xFF)
    ++ natLe 1 (if op = 3 then graph else if op = 4 || op = 5 || op = 6 then cmdCtx c else 0xFF)
    ++ natLe 1 (if op = 10 then cmdCtx c else 0xFF) ++ natLe 2 (if op = 8 || op = 9 || op = 11 then cmdBucket c else 0xFFFF)

/-- Posts the completion event of a ring's command (R287). -/
def complete (r : Nat) (c : List Byte) (ctx graph fc : Nat) (s : State) : State :=
  postTo r 0x01 r fc (bytesAt c 4 4) (donePayload c ctx graph) s

/-- Completes a command without fault. -/
def accept (r : Nat) (c : List Byte) (s : State) : State := complete r c 0xFF 0xFF 0 s

/-- A refused command changes nothing but its completion (R287, R412). -/
def reject (r : Nat) (c : List Byte) (code : Nat) (s : State) : State := complete r c 0xFF 0xFF (faultCode 0x14 code) s

/-- A ring whose next command has been taken: its HEAD has moved on, and its turn is over (R287). -/
def tookCommand (r : Nat) (s : State) : State :=
  let g := s.ring r
  let s1 := (s.cacheLine (g.sqAt + 64 * (g.sqHead.toNat % 2 ^ g.sqLog))).modRing r (fun g => { g with sqHead := g.sqHead + 1 })
  { s1 with evl := { s1.evl with turn := r } }

/-- Takes the command of a ring for the row of one opcode: the ring must be next in turn; a reserved opcode or field is refused whichever row finds it. -/
def withCommand (r op : Nat) (s : State) (f : List Byte → State → State) : State :=
  if s.nextRing ≠ some r then s
  else
    let c := s.ringCmd r
    let o := cmdOpcode c
    let s2 := tookCommand r s
    if o = 0 || 11 < o then reject r c 0x01 s2
    else if o ≠ op then s
    else if cmdReserved c then reject r c 0x01 s2
    else f c s2

/-- A table of the control complex has an uncorrectable word: every live context stops, and CREATE_CONTEXT is refused until reset (R409). -/
def tablesFail (s : State) : State :=
  let s1 := forAll (s.ctxs.map (·.1)) (fun c s => markStop c (faultCode 0x14 0x10) s) (recordFault (pageKey 0x60 0) 0x14 0x10 s)
  { s1 with ctlFail := true }

/-- A command that reads the dispatcher, bucket and context tables, under their code (R409): a corrected word is recorded, and on an uncorrectable one the command is refused. -/
def withTables (r : Checked RingId) (op : Nat) (s : State) (f : List Byte → State → State) : State :=
  withCommand r.val op s fun c s =>
    match r.ecc with
    | .clean => f c s
    | .corrected => f c (recordFault (pageKey 0x60 0) 0x14 0x14 s)
    | .uncorrectable => reject r.val c 0x07 (tablesFail s)

/-- The dispatcher's read of HBM: a range outside HBM, or on a fenced stack (R177, R419). -/
def hbmChecks (s : State) (a n : Nat) : List (Bool × Nat) :=
  [ (hbmBytes < a + n, 0x06), ((s.stacksOf a n).any s.stackFenced, 0x09) ]

/-! ### The context record (R275) -/

/-- The context a record describes, before its image is read. -/
def recordCtx (r : List Byte) : Ctx :=
  { slot := bf (bytesAt r 1 1) 0 3, prio := bf (bytesAt r 2 1) 0 3, model := bf (bytesAt r 3 1) 0 6
    px := bf (bytesAt r 4 1) 0 4, py := bf (bytesAt r 5 1) 0 3, pw := bf (bytesAt r 6 1) 0 4, ph := bf (bytesAt r 7 1) 0 4
    seed := BitVec.ofNat 64 (bytesAt r 8 8)
    entry :=
      { ctx := bf (bytesAt r 0 1) 0 6
        wpBase := bytesAt r 16 2, wpSize := bytesAt r 18 2, tiBase := bytesAt r 20 2, tiSize := bytesAt r 22 2
        emBase := bytesAt r 24 2, emSize := bytesAt r 26 2, imBase := bf (bytesAt r 28 1) 0 7, imSize := bytesAt r 29 1
        ctrBase := bf (bytesAt r 30 1) 0 6, ctrSize := bf (bytesAt r 31 1) 0 7
        spill := bit (bytesAt r 34 1) 0, spillBase := bytesAt r 32 2, rickBase := bytesAt r 36 2, rickN := bytesAt r 38 2 }
    apertures := ((List.range 4).map (fun a => (bytesAt r (48 + 16 * a) 6, bytesAt r (56 + 16 * a) 8))).filter (fun p => p.2 ≠ 0)
    cordPorts := bytesAt r 112 2 }

/-- IMAGE_ADDR of a record. -/
def recordImage (r : List Byte) : Nat := bytesAt r 40 6

/-- A reserved bit of a record is nonzero. -/
def recordReserved (r : List Byte) : Bool :=
  [(0, 6), (1, 3), (2, 3), (3, 6), (4, 4), (5, 3), (6, 4), (7, 4), (28, 7), (30, 6), (31, 7), (34, 1), (35, 0)].any
      (fun p => bf (bytesAt r p.1 1) p.2 8 ≠ 0)
    || bytesAt r 46 2 ≠ 0 || (List.range 4).any (fun a => bytesAt r (54 + 16 * a) 2 ≠ 0) || bytesAt r 114 14 ≠ 0

/-- Two ranges of nonzero length meet. -/
def overlap (a n b m : Nat) : Bool := decide (0 < n) && decide (0 < m) && rangesMeet a n b m

/-- Slices or windows of two contexts on one tile overlap (R52, R152). -/
def entriesMeet (a b : MapEntry) : Bool :=
  overlap a.wpBase a.wpSize b.wpBase b.wpSize || overlap a.tiBase a.tiSize b.tiBase b.tiSize || overlap a.emBase a.emSize b.emBase b.emSize
    || overlap a.imBase a.imSize b.imBase b.imSize || overlap a.ctrBase a.ctrSize b.ctrBase b.ctrSize

/-- Two apertures of one context overlap (R276). -/
def aperturesMeet : List (Nat × Nat) → Bool
  | [] => false
  | p :: ps => ps.any (fun q => overlap p.1 p.2 q.1 q.2) || aperturesMeet ps

/-- The partition lies on the package (R276). -/
def Ctx.onGrid (c : Ctx) : Bool := decide (0 < c.pw) && decide (0 < c.ph) && decide (c.px + c.pw ≤ 12) && decide (c.py + c.ph ≤ 8)

/-- A slot counts as held on a tile while its map or its running context names it (R276, R413). -/
def Tile.slotHeld (x : Tile) (k : Nat) : Bool := shas x.map k || x.run = some k

/-- Contexts created whose map load waits (R153) on a tile of a partition: their slots, slices and windows are taken. -/
def State.waitingMaps (s : State) (ts : List Nat) : List Ctx :=
  (s.ctxs.map (·.2)).filter (fun c => c.mapRetry.isSome && ts.any c.hasTile)

/-- The checks of a context record (R19, R51, R52, R152, R274 to R276, R349, R353, R382, R409, R423, R446). -/
def recordChecks (s : State) (r : List Byte) (c : Ctx) : List (Bool × Nat) :=
  let e := c.entry
  let ts := if c.onGrid then c.tiles else []
  [ (recordReserved r, 0x01)
  , (!e.spill && e.spillBase ≠ 0, 0x01)
  , (!s.boot.ready || s.statues || s.ctlFail || s.sec.erasing || s.pins.thermLatch || s.boot.crossFail || s.sec.recFailed ≠ [], 0x07)
  , ((s.ctx e.ctx).isSome || decide (64 ≤ s.ctxs.length), 0x07)
  , (ts.any (fun t => (s.tile t).slotHeld c.slot) || (s.waitingMaps ts).any (fun q => q.slot = c.slot), 0x07)
  , (ts.any (fun t => (s.region (regionOf t)).st = .dark), 0x07)
  , ((List.range 16).any (fun p => bit c.cordPorts p && s.portFenced p), 0x09)
  , (decide (12 < c.pw) || decide (8 < c.ph) || c.pw = 0 || c.ph = 0, 0x02)
  , (decide (11 < c.px) || decide (7 < c.py) || decide (12 < c.px + c.pw) || decide (8 < c.py + c.ph), 0x06)
  , ([e.wpBase, e.tiBase, e.emBase, e.spillBase, e.rickBase].any (fun v => v % 8 ≠ 0), 0x03)
  , ([e.wpSize, e.tiSize, e.emSize, e.rickN].any (fun v => v % 8 ≠ 0), 0x02)
  , (decide (8192 < e.wpBase + e.wpSize) || decide (4096 < e.tiBase + e.tiSize) || decide (2048 < e.emBase + e.emSize), 0x05)
  , (e.imSize = 0 || decide (128 < e.imSize) || decide (64 < e.ctrSize), 0x02)
  , (decide (128 < e.imBase + e.imSize) || decide (64 < e.ctrBase + e.ctrSize), 0x05)
  , (e.spill && decide (e.emSize < e.spillBase + 656), 0x05)
  , (e.rickN ≠ 0 && decide (e.emSize < e.rickBase + e.rickN), 0x05)
  , (e.spill && overlap e.rickBase e.rickN e.spillBase 656, 0x02)
  , (recordImage r % 4096 ≠ 0, 0x03)
  , (c.apertures.any (fun p => p.1 % 4096 ≠ 0), 0x03)
  , (c.apertures.any (fun p => p.2 % 4096 ≠ 0), 0x02)
  , (c.apertures.any (fun p => decide (hbmBytes < p.1 + p.2)), 0x06)
  , (aperturesMeet c.apertures || c.apertures.any (fun p => s.forn.inPit p.1 p.2), 0x02)
  , (ts.any (fun t => s.regionFenced (regionOf t)), 0x09)
  , (ts.any (fun t => (s.tile t).map.any (fun p => entriesMeet p.2 e)) || (s.waitingMaps ts).any (fun q => entriesMeet q.entry e), 0x02) ]

/-! ### The context image (R278 to R280) -/

/-- Next 64-byte boundary. -/
def up64 (n : Nat) : Nat := ceilDiv n 64 * 64

/-- Offset and length of the code and of the entry table of section `k`, from the body's start. The manual gives the four fields, 16 bytes in all; the model takes 32 bits for each (log entry 14). -/
def sectionAt (body : List Byte) (tiles k : Nat) : Nat × Nat × Nat × Nat :=
  let o := up64 (2 * tiles) + 16 * k
  (bytesAt body o 4, bytesAt body (o + 4) 4, bytesAt body (o + 8) 4, bytesAt body (o + 12) 4)

/-- Sections of an image. -/
def imageSections (h body : List Byte) (tiles : Nat) : List (Nat × Nat × Nat × Nat) :=
  (List.range (bytesAt h 16 2)).map (sectionAt body tiles)

/-- Start of the code sections in the body: the first 64-byte boundary after the section table (R278). -/
def codeStart (secs tiles : Nat) : Nat := up64 (up64 (2 * tiles) + 16 * secs)

/-- A code section or an entry table that is not empty lies before the part of the code sections, or no section starts on the boundary at which the part begins (R278). -/
def sectionsMisplaced (secs : List (Nat × Nat × Nat × Nat)) (tiles : Nat) : Bool :=
  let parts := (secs.flatMap (fun q => [(q.1, q.2.1), (q.2.2.1, q.2.2.2)])).filter (fun p => p.2 ≠ 0)
  let first := codeStart secs.length tiles
  parts.any (fun p => decide (p.1 < first)) || (parts ≠ [] && parts.all (fun p => p.1 ≠ first))

/-- Start of the channel table in the body: the first 64-byte boundary after the sections. -/
def chanTable (secs : List (Nat × Nat × Nat × Nat)) (tiles : Nat) : Nat :=
  up64 (secs.foldl (fun m q => max m (max (q.1 + q.2.1) (q.2.2.1 + q.2.2.2))) (up64 (2 * tiles) + 16 * secs.length))

/-- One channel-table entry of 16 bytes (R280); the manual names its fields and gives no layout (log entry 14). -/
def chanEnt (b : List Byte) : ChanEnt :=
  { ep := bytesAt b 0 1, recv := bit (bytesAt b 1 1) 0, tile := bytesAt b 2 2, peerCtx := bytesAt b 4 1, peerEp := bytesAt b 5 1
    peerTile := bytesAt b 6 2, ringBase := bytesAt b 8 2, ringBillets := bytesAt b 10 2, addId := bytesAt b 12 1, addVal := bytesAt b 13 1 }

/-- The channel table of an image, as bytes of each entry. -/
def chanBytes (h body : List Byte) (tiles : Nat) : List (List Byte) :=
  let o := chanTable (imageSections h body tiles) tiles
  (List.range (bytesAt h 18 1)).map (fun i => (body.drop (o + 16 * i)).take 16)

/-- The checks of an image against its record (R278, R280); `sigOk` is the verdict on SIGNATURE. -/
def imageChecks (s : State) (c : Ctx) (h body : List Byte) (sigOk : Bool) : List (Bool × Nat) :=
  let n := 16 * c.pw * c.ph
  let secs := imageSections h body n
  let len := body.length
  [ (bytesAt h 0 4 ≠ 0x4E594C50 || bytesAt h 4 1 ≠ 1 || bytesAt h 6 2 ≠ 1, 0x02)
  , (bytesAt h 19 1 ≠ 0 || bytesAt h 22 2 ≠ 0 || bytesAt h 160 96 ≠ 0, 0x01)
  , (bytesAt h 5 1 ≠ 1 && bytesAt h 5 1 ≠ 2, 0x02)
  , (decide (64 ≤ bytesAt h 8 8), 0x02)
  , (bytesAt h 20 1 ≠ c.pw || bytesAt h 21 1 ≠ c.ph, 0x02)
  , (bytesAt h 16 2 = 0 || decide (256 < bytesAt h 16 2) || decide (32 < bytesAt h 18 1), 0x02)
  , (decide (1024 * c.entry.imSize < bytesAt h 24 4), 0x02)
  , (digest body ≠ BitVec.ofNat 512 (bytesAt h 32 64), 0x02)
  , (s.sec.imagePol && (bytesAt h 96 64 = 0 || s.sec.ownKey.isNone || !sigOk), 0x02)
  , (decide (len < up64 (2 * n) + 16 * secs.length), 0x05)
  , (secs.any (fun q => decide (len < q.1 + q.2.1) || decide (len < q.2.2.1 + q.2.2.2)), 0x05)
  , (secs.any (fun q => decide (bytesAt h 24 4 < q.2.1 + q.2.2.2) || q.2.2.2 % 4 ≠ 0), 0x02)
  , (sectionsMisplaced secs n, 0x02)
  , ((List.range n).any (fun k => decide (secs.length ≤ bytesAt body (2 * k) 2)), 0x02)
  , (bytesAt h 18 1 ≠ 0 && decide (len < chanTable secs n + 16 * bytesAt h 18 1), 0x05) ]

/-- The context with what its image gives it. -/
def withImage (s : State) (c : Ctx) (h body : List Byte) (sigOk : Bool) : Ctx :=
  let n := 16 * c.pw * c.ph
  let secs := imageSections h body n
  { c with
    table := bytesAt h 5 1, features := bytesAt h 8 8, digest := BitVec.ofNat 512 (bytesAt h 32 64)
    signed := bytesAt h 96 64 ≠ 0 && s.sec.ownKey.isSome && sigOk
    sections := secs.map (fun q => (List.range (q.2.2.2 / 4)).map (fun i => bytesAt body (q.2.2.1 + 4 * i) 4))
    codeLens := secs.map (fun q => q.2.1)
    tileMap := (List.range n).map (fun k => bytesAt body (2 * k) 2)
    chans := (chanBytes h body n).map chanEnt
    interlock := bytesAt h 5 1 = 1 }

/-- Bytes of a code section, its code and then its entry table (R280; log entry 43). -/
def sectionCode (body : List Byte) (tiles k : Nat) : List Byte :=
  let q := sectionAt body tiles k
  (body.drop q.1).take q.2.1 ++ (body.drop q.2.2.1).take q.2.2.2

/-! ### Channel bindings (R224 to R226, R280) -/

/-- The context of a number, where the one being created already counts. -/
def liveOr (s : State) (n : Nat) (c : Ctx) (k : Nat) : Option Ctx := if k = n then some c else s.ctx k

/-- Two channel-table entries name each other in opposite roles. -/
def chanPair (n : Nat) (a : ChanEnt) (m : Nat) (b : ChanEnt) : Bool :=
  a.recv != b.recv && a.peerCtx = m && a.peerTile = b.tile && a.peerEp = b.ep && b.peerCtx = n && b.peerTile = a.tile && b.peerEp = a.ep

/-- Receive rings of one tile overlap, or an endpoint is named twice. -/
def chansMeet : List ChanEnt → Bool × Bool
  | [] => (false, false)
  | a :: r =>
    let q := chansMeet r
    (q.1 || r.any (fun b => a.tile = b.tile && a.recv && b.recv && overlap a.ringBase a.ringBillets b.ringBase b.ringBillets),
     q.2 || r.any (fun b => a.tile = b.tile && a.ep = b.ep))

/-- A context that is not bound yet, as its peer or its map load is waited for, names an endpoint of a tile (R225, R280). -/
def State.namesEp (s : State) (t ep : Nat) : Bool :=
  s.ctxs.any (fun p => p.2.st = .pending && p.2.chans.any (fun b => p.2.tiles.getD b.tile 0 = t && b.ep = ep))

/-- The checks of a channel table (R225, R226, R280). An endpoint of a tile belongs to one context: one that is bound, or that a context waiting for its binding names, is not named again. -/
def chanChecks (s : State) (n : Nat) (c : Ctx) (raw : List (List Byte)) : List (Bool × Nat) :=
  let e := c.entry
  let meets := chansMeet c.chans
  [ (raw.any (fun b => bf (bytesAt b 1 1) 1 7 ≠ 0 || bytesAt b 14 2 ≠ 0), 0x01)
  , (c.chans.any (fun a => !a.recv && (a.ringBase ≠ 0 || a.ringBillets ≠ 0 || a.addId ≠ 0 || a.addVal ≠ 0)), 0x01)
  , (c.chans.any (fun a => decide (31 < a.ep) || decide (31 < a.peerEp) || decide (63 < a.peerCtx) || decide (1535 < a.peerTile) || decide (c.tiles.length ≤ a.tile)), 0x06)
  , (c.chans.any (fun a => a.recv && (a.ringBillets = 0 || decide (4096 < a.ringBillets))), 0x02)
  , (c.chans.any (fun a => a.recv && decide (e.tiSize < a.ringBase + a.ringBillets)), 0x05)
  , (c.chans.any (fun a => a.recv && a.addVal ≠ 0 && decide (e.ctrSize ≤ a.addId)), 0x06)
  , (meets.1 || meets.2, 0x02)
  , (c.chans.any (fun a => let t := c.tiles.getD a.tile 0; (sgetD (s.tile t).eps a.ep {}).valid || s.namesEp t a.ep), 0x07)
  , (s.ctxs.any (fun p => p.2.chans.any (fun b => b.peerCtx = n && (sgetD (s.tile (p.2.tiles.getD b.tile 0)).eps b.ep {}).valid)), 0x07)
  , (c.chans.any (fun a => (liveOr s n c a.peerCtx).any (fun p => !p.chans.any (chanPair n a a.peerCtx))), 0x02)
  , (s.ctxs.any (fun p => p.2.chans.any (fun b => b.peerCtx = n && !c.chans.any (fun a => chanPair n a p.1 b))), 0x02) ]

/-- Binds one entry of a context to its peer's (R224, R229). -/
def bindChan (c : Ctx) (a : ChanEnt) (p : Ctx) (s : State) : State :=
  match p.chans.find? (fun b => b.tile = a.peerTile && b.ep = a.peerEp) with
  | none => s
  | some b =>
    s.modTile (c.tiles.getD a.tile 0) (fun x => { x with eps := sset x.eps a.ep (
      { valid := true, recv := a.recv, slot := c.slot, peerEp := a.peerEp, peerTile := p.tiles.getD a.peerTile 0,
        ringBase := a.ringBase, ringBillets := a.ringBillets, peerRing := b.ringBillets,
        free := if a.recv then 0 else 8 * b.ringBillets, addId := a.addId, addVal := a.addVal } : Endpoint) })

/-- A live context whose map is loaded: one whose map load waits has no endpoint yet (R153). -/
def State.loaded (s : State) (n : Nat) : Option Ctx := (s.ctx n).filter (·.mapRetry.isNone)

/-- Every peer of a context is live. -/
def State.peersLive (s : State) (c : Ctx) : Bool := c.chans.all (fun a => (s.loaded a.peerCtx).isSome)

/-- Binds the channels of a context that has become live, both ends, and lets contexts whose peers are all live enter IDLE (R280). -/
def bindContext (n : Nat) (s : State) : State :=
  match s.loaded n with
  | none => s
  | some c =>
    let s1 := forAll c.chans (fun a s => match s.loaded a.peerCtx with | some p => bindChan c a p s | none => s) s
    let s2 := forAll s1.ctxs (fun p s => if p.1 = n || p.2.mapRetry.isSome then s else
      forAll (p.2.chans.filter (fun b => b.peerCtx = n)) (fun b s => bindChan p.2 b c s) s) s1
    { s2 with ctxs := s2.ctxs.map (fun p => if p.2.st = .pending && p.2.mapRetry.isNone && s2.peersLive p.2 then (p.1, { p.2 with st := .idle }) else p) }

/-! ### CREATE_CONTEXT (R276, R277) -/

/-- A tile takes a context into its map: counters, flags, per-context counters and carousels of the slot start afresh, and its code section fills the instruction slice (R152, R178, R277, R379). A table-1 image sets TABLE_INTERLOCK of its tiles (R223); DESIGN CHOICE (log entry 51): at the load, over the value of a context that runs there. -/
def Tile.install (x : Tile) (c : Ctx) (len : Nat) (code : List Byte) : Tile :=
  let e := { c.entry with codeLen := len }
  let clear := (rangeFrom e.ctrBase e.ctrSize).foldl (fun x p => { x with ctr := sdel x.ctr p, sat := x.sat &&& ~~~(BitVec.ofNat 64 (2 ^ p)) }) x
  { clear with
    map := sset x.map c.slot e
    store := memWrite x.store (storeOff .imem + 1024 * e.imBase) code
    banks := smod x.banks c.slot {} (fun b => { b with vflags := 0 })
    cars := x.cars.filter (fun p => p.1 / 16 ≠ c.slot)
    pctx := x.pctx.filter (fun p => p.1 / 64 ≠ c.slot)
    matrix := { x.matrix with slotOpen := x.matrix.slotOpen &&& ~~~(BitVec.ofNat 8 (2 ^ c.slot)) }
    exch := if c.interlock then { x.exch with interlock := true } else x.exch }

/-- A context of 4 or more clusters takes the tag caches of its clusters that no live context owns, cleared (R390). -/
def takeCaches (n : Nat) (c : Ctx) (s : State) : State :=
  if c.pw * c.ph < 4 then s
  else forAll c.clusters (fun k s => s.modCluster k (fun q => if q.owner.isNone then { q with owner := some n, tags := [] } else q)) s

/-- An operation of a context that has left the map posts to a counter of a window (R153). -/
def Tile.oldPosts (x : Tile) (base size : Nat) : Bool :=
  x.gone.any (fun g =>
    let (ids, all) := x.addsDue g.1
    ids.any (fun v => decide (v < g.2.2) && decide (base ≤ g.2.1 + v) && decide (g.2.1 + v < base + size)) || (all && overlap base size g.2.1 g.2.2))

/-- A window would take a counter to which an operation of an earlier context still posts (R153). -/
def State.mapWaits (s : State) (c : Ctx) : Bool :=
  decide (0 < c.entry.ctrSize) && c.tiles.any (fun t => (s.tile t).oldPosts c.entry.ctrBase c.entry.ctrSize)

/-- Loads a context into the maps of its tiles, with the code of its image, and binds its channels. -/
def loadContext (n : Nat) (image : List Byte) (s : State) : State :=
  match s.ctx n with
  | none => s
  | some c =>
    let ts := c.tiles
    let s1 := forAll (ts.zip c.tileMap) (fun p s =>
      s.modTile p.1 (·.install c (c.codeLens.getD p.2 0) (sectionCode image ts.length p.2))) s
    bindContext n (takeCaches n c s1)

/-- Body of the image at an address. -/
def State.imageBody (s : State) (a : Nat) : List Byte := s.hbmRead (a + 256) (bytesAt (s.hbmRead a 256) 28 4)

/-- The checks of a CREATE_CONTEXT, in stages: the record's address, the record, the image's header, its body and channels. -/
def createRefusal (s : State) (a : Nat) (r : List Byte) (sigOk : Bool) : Option Nat :=
  match pickCode ((a % 64 ≠ 0, 0x03) :: hbmChecks s a 128) with
  | some k => some k
  | none =>
    let c := recordCtx r
    let i := recordImage r
    match pickCode (recordChecks s r c ++ hbmChecks s i 256) with
    | some k => some k
    | none =>
      let h := s.hbmRead i 256
      match pickCode (hbmChecks s (i + 256) (bytesAt h 28 4)) with
      | some k => some k
      | none =>
        let body := s.imageBody i
        match pickCode (imageChecks s c h body sigOk) with
        | some k => some k
        | none => pickCode (chanChecks s c.entry.ctx (withImage s c h body sigOk) (chanBytes h body (16 * c.pw * c.ph)))

/-- Context number a CREATE_CONTEXT names, 0xFF when its record cannot be read. -/
def createCtx (a : Nat) (r : List Byte) : Nat := if a % 64 ≠ 0 || hbmBytes < a + 128 then 0xFF else bf (bytesAt r 0 1) 0 6

/-! ### Removal (R293) -/

/-- A task of a graph is running, or ready and able to run (R290, R293). -/
def State.taskPending (s : State) (n : Nat) : Bool :=
  s.graphs.any (fun p => (p.2.st = .running || p.2.st = .paused) && p.2.tasks.any (fun t => t.ctx = n && (t.st = .running || (t.st = .waiting && t.dep = 0))))

/-- STREAM_STOP for every stream of a context (R184, R413). -/
def stopStreams (n : Nat) (ts : List Nat) (s : State) : State :=
  forAll ts (fun t s => forAll (((s.tile t).ops.filter (fun o => o.ctx = n && o.stream && !o.host)).map (·.id)) (fun id s => stopStream t id s) s) s

/-- DESTROY_CONTEXT (R293, R403): accepted with no task running or ready and no bucket left; its streams are stopped and the command waits. -/
def execDestroyContext (r : RingId) (s : State) : Host.Outcome State Fault Refusal :=
  .next <| withCommand r 2 s fun c s =>
    let n := cmdCtx c
    match s.ctx n with
    | none => reject r c (if 63 < n then 0x06 else 0x07) s
    | some k =>
      if s.statues || k.destroy.isSome || k.mapRetry.isSome || s.taskPending n || k.task.isSome || s.buckets.any (fun p => p.2.ctx = n) then reject r c 0x07 s
      else (stopStreams n k.tiles s).modCtx n (fun k => { k with destroy := some { ring := r, tag := BitVec.ofNat 32 (bytesAt c 4 4), step := 2 } })

/-- Nothing that posts into the window of a context is outstanding on its tiles outside fenced regions, and no started stream is left there (R184, R293 step 2). -/
def State.drained (s : State) (n : Nat) (c : Ctx) : Bool :=
  c.tiles.all (fun t => s.regionFenced (regionOf t) || !((s.tile t).postsFor n || (s.tile t).ops.any (fun o => o.ctx = n && !o.host)))

/-- Unbinds the endpoints of a role of a context. -/
def unbind (c : Ctx) (recv : Bool) (s : State) : State :=
  forAll (c.chans.filter (fun a => a.recv = recv)) (fun a s => s.modTile (c.tiles.getD a.tile 0) (fun x => { x with eps := sdel x.eps a.ep })) s

/-- A receive endpoint of a context waits for its sender: the sender's context is live and not itself waiting at step 3 (R225, R293). -/
def State.recvWaits (s : State) (c : Ctx) : Bool :=
  c.chans.any (fun a => a.recv && (s.ctx a.peerCtx).any (fun p => !(p.destroy.any (fun d => d.step = 3)) && (sgetD (s.tile (p.tiles.getD a.peerTile 0)).eps a.peerEp {}).valid))

/-- A context leaves a tile's map; the window of one with operations outstanding is kept with them (R153). -/
def Tile.unmap (x : Tile) (n : Nat) (c : Ctx) : Tile :=
  { x with
    map := x.map.filter (fun p => p.2.ctx ≠ n)
    gone := if x.postsFor n then sset x.gone n (c.entry.ctrBase, c.entry.ctrSize) else sdel x.gone n }

/-- Takes a context off every tile's map, frees its tag caches and its number (R60, R390). -/
def removeContext (n : Nat) (c : Ctx) (s : State) : State :=
  let s1 : State := forAll c.tiles (fun t s => s.modTile t (·.unmap n c)) s
  let s2 := { s1 with clusters := s1.clusters.map (fun (p : Nat × Cluster) => if p.2.owner = some n then (p.1, { p.2 with owner := none }) else p) }
  { s2 with ctxs := sdel s2.ctxs n }

end Sys2Proof.Machine
end

