-- ==== Sys2Proof/Machine/Schedule.lean ====
section
/-! DEFINITION. Task graphs and placement: ready order, zero-step tasks, failures, context switches, and the start of tasks on free partitions (11_contexts_and_task_graphs.md R282 to R292). -/

namespace Sys2Proof.Machine

/-! ### Graphs (R288 to R292) -/

/-- A graph is in flight (R287). -/
def Graph.inFlight (g : Graph) : Bool := g.st = .running || g.st = .paused

/-- A replica-mismatch hold stops a graph: some context of its tasks belongs to a held model (R270, R291). -/
def State.graphHeld (s : State) (g : Graph) : Bool := g.tasks.any (fun t => (s.ctx t.ctx).any (fun c => s.holds.contains c.model))

/-- Tasks of a graph may start. -/
def State.graphOn (s : State) (g : Graph) : Bool := g.st = .running && !s.graphHeld g

/-- Task `i` of graph `g`. -/
def State.task (s : State) (g i : Nat) : Option Task := (s.graph g).tasks[i]?

def modTask (g i : Nat) (f : Task → Task) (s : State) : State :=
  s.modGraph g (fun k => { k with tasks := k.tasks.modify i f })

/-- Tasks not yet completed. -/
def Graph.remaining (g : Graph) : Nat := (g.tasks.filter (fun t => t.st ≠ .done)).length

/-- A graph fails (R292): its tasks do not run any further, and an event names the task and the fault. -/
def failGraph (g i n fc : Nat) (s : State) : State :=
  if !(s.graph g).inFlight then s
  else
    let s1 := s.modGraph g (fun k => { k with st := .failed })
    let s2 := { s1 with ctxs := s1.ctxs.map (fun p => if p.2.task.any (fun q => q.1 = g) && !p.2.onTiles then (p.1, { p.2 with task := none, ran := 0 }) else p) }
    postEvent 0x04 n fc (natLe 1 g ++ natLe 1 n ++ natLe 2 i) s2

/-- A cancelled graph is freed once no task of it runs (R291). -/
def settleCancel (s : State) : State :=
  let busy := fun (g : Nat) => s.ctxs.any (fun p => p.2.onTiles && p.2.task.any (fun q => q.1 = g))
  let hit := (s.graphs.filter (fun p => p.2.cancel && p.2.st = .paused && !busy p.1)).map (·.1)
  { s with
    graphs := s.graphs.map (fun p => if hit.contains p.1 then (p.1, { p.2 with st := .cancelled }) else p)
    ctxs := s.ctxs.map (fun p => if p.2.task.any (fun q => hit.contains q.1) then (p.1, { p.2 with task := none, ran := 0 }) else p) }

/-- One decrement of a dependency count; none when its complement does not match (R289, R411). -/
def Task.decrement (u : Task) : Option Task := if u.depErr = 0 then some { u with dep := u.dep - 1 } else none

/-- The counts of the successors of a completed task go down by 1, up to one whose complement does not match. -/
def decrementAll : List Task → List Nat → Option (List Task)
  | ts, [] => some ts
  | ts, j :: js =>
    match ts[j]? with
    | none => decrementAll ts js
    | some u =>
      match u.decrement with
      | none => none
      | some v => decrementAll (ts.set j v) js

/-- A task completes (R290): its event, its successors' counts, and the graph's completion. A count that does not match its complement is a class I fault and fails the graph (R289, R411). -/
def taskDone (g i : Nat) (s : State) : State :=
  match s.task g i with
  | none => s
  | some t =>
    let s1 := modTask g i (fun t => { t with st := .done }) s
    let step := match s.ctx t.ctx with | some c => c.superstep | none => 0
    let s2 := if t.event then postEvent 0x02 t.ctx 0 (natLe 1 g ++ natLe 1 t.ctx ++ natLe 2 i ++ natLe 4 0 ++ natLe 6 step) s1 else s1
    if !(s2.graph g).inFlight || (s2.graph g).cancel then s2
    else
      match decrementAll (s2.graph g).tasks t.succ with
      | none => failGraph g i t.ctx (faultCode 0x14 0x18) (recordFault (pageKey 0x60 0) 0x14 0x18 s2)
      | some ts =>
        let s3 := s2.modGraph g (fun k => { k with tasks := ts })
        if (s3.graph g).remaining = 0 then
          postEvent 0x03 0xFF 0 (natLe 1 g) (s3.modGraph g (fun k => { k with st := .complete }))
        else s3

/-! ### Ready tasks (R290) -/

/-- A task in the order of R290: what precedes is smaller. -/
structure Ready where
  prio : Nat
  order : Nat
  idx : Nat
  graph : Nat
  ctx : Nat
deriving DecidableEq, Repr

/-- `a` precedes `b`: priority of the context, then the graph's submission, then the task index. -/
def Ready.before (a b : Ready) : Bool :=
  decide (b.prio < a.prio) || (a.prio = b.prio && (decide (a.order < b.order) || (a.order = b.order && decide (a.idx < b.idx))))

/-- Puts a task in its place. -/
def Ready.insert (a : Ready) : List Ready → List Ready
  | [] => [a]
  | b :: r => if a.before b then a :: b :: r else b :: a.insert r

/-- A context can take a task: it is off its tiles, and neither pending, stopped, held, being removed, nor waiting for a rebase; a context that is to run a replay takes a task of one superstep (R166, R274, R280, R283, R396). -/
def Ctx.takes (c : Ctx) (t : Task) (g i : Nat) : Bool :=
  !c.onTiles && c.st ≠ .pending && c.st ≠ .stopped && !c.held && c.stop.isNone && c.destroy.isNone && c.rebase.isNone && !c.parkOut
    && (match c.task with
        | some q => decide (q = (g, i))
        | none => t.st = .waiting && t.dep = 0)
    && (c.replay.isNone || t.steps = 1)

/-- The ready tasks whose contexts can take them, in the order of R290; a task that has begun is taken up again before others of its context. -/
def State.readyTasks (s : State) : List Ready :=
  (s.graphs.filter (fun p => s.graphOn p.2)).foldl (fun acc p =>
    (p.2.tasks.zipIdx).foldl (fun acc q =>
      match s.ctx q.1.ctx with
      | some c =>
        if c.takes q.1 p.1 q.2 then
          Ready.insert { prio := c.prio, order := p.2.order, idx := q.2, graph := p.1, ctx := q.1.ctx } acc
        else acc
      | none => acc) acc) []

/-- The first ready task that has no superstep to run (R288). -/
def State.zeroTask (s : State) : Option (Nat × Nat) :=
  (s.graphs.filter (fun p => s.graphOn p.2)).findSome? (fun p =>
    (p.2.tasks.zipIdx.find? (fun q => q.1.st = .waiting && q.1.dep = 0 && q.1.steps = 0)).map (fun q => (p.1, q.2)))

/-- Tasks without supersteps complete at once. -/
def zeroTasks : Nat → State → State
  | 0, s => s
  | n + 1, s =>
    match s.zeroTask with
    | none => s
    | some (g, i) => zeroTasks n (taskDone g i s)

/-- Tasks in all graphs. -/
def State.taskCount (s : State) : Nat := (s.graphs.map (fun p => p.2.tasks.length)).sum

/-! ### Switching (R120, R284, R285) -/

/-- Bank of a billet of the spill region of a map entry. -/
def MapEntry.spillBank (e : MapEntry) (b : Nat) : Nat := bankOf .ember (e.emBase + e.spillBase + b)

/-- Code of the fault of a tile that cannot give up its running context: its open output tile has no spill region (R120), or a billet of the spill lies in a bank that is not lit (R62). -/
def Tile.leaveFault (x : Tile) : Option Nat :=
  match x.run.bind x.entry with
  | none => none
  | some e =>
    if !x.matrix.isOpen then none
    else if !e.spill then some 0x07
    else if (spillImage x.matrix.values).2.any (fun p => !x.bankOpen (e.spillBank p.1)) then some 0x08
    else none

/-- A tile is without its running context, whose VECTOR_FLAGS are saved (R35, R150). DESIGN CHOICE (log entry 51): VECTOR_FLAGS reads 0 on a tile that runs no context. -/
def Tile.leave (x : Tile) (k : Nat) : Tile :=
  { x with
    run := none, coreSt := 0, stall := .none, vflags := 0
    banks := smod x.banks k {} (fun b => { b with vflags := x.vflags })
    exch := { x.exch with phase := 0, holding := none, plan := none, planId := 0xFFFF, entries := 0, next := 0, read := 0, ents := [], ended := false } }

/-- The open output tile of a slot is spilled (R118, R120). -/
def Tile.spillOut (x : Tile) (k : Nat) (e : MapEntry) : Tile :=
  let vs := x.matrix.values
  let (l, img) := spillImage vs
  let z := img.foldl (fun (x : Tile) p => x.writeAt .ember (e.emBase + e.spillBase + p.1) 0 p.2) x
  { z with matrix := { x.matrix.close with
      spillLast := spillLast l false true k (flaggedCells vs)
      slotOpen := x.matrix.slotOpen ||| BitVec.ofNat 8 (2 ^ k) } }

/-- A tile gives up its running context: an open output tile is spilled, which works the array (R98). Answers the cycles of the spill. -/
def switchOut (t : Nat) (s : State) : Nat × State :=
  let x := s.tile t
  match x.run with
  | none => (0, s)
  | some k =>
    let y := x.leave k
    match x.entry k with
    | none => (0, s.setTile t y)
    | some e =>
      if !x.matrix.isOpen then (0, s.setTile t y)
      else
        let l := spillCycles (spillImage x.matrix.values).1
        (l + 5, working t k l (s.setTile t (y.spillOut k e)))

/-- What the spill region of a context holds on a tile. -/
def Tile.spilled (x : Tile) (c : Ctx) : Option (Nat × List LimbVal) :=
  readSpill (fun b => x.billet .ember (c.entry.emBase + c.entry.spillBase + b))

/-- A tile takes up a context: its register bank is selected and VECTOR_FLAGS restored. Answers the cycles of the resume that follows when the slot has a spilled output tile (R284, R285). -/
def switchIn (t : Nat) (c : Ctx) (s : State) : Nat × State :=
  let x := s.tile t
  let k := c.slot
  let y := { (x.setStall .exchange) with
    run := some k, coreSlot := k, stopped := false
    vflags := (sgetD x.banks k {}).vflags
    exch := { x.exch with interlock := c.interlock, table := c.table, phase := 0 } }
  let cost := match x.spilled c with
    | some (l, _) => spillCycles l + 3
    | none => spillCycles 0 + 3
  (if x.matrix.slotOpen.getLsbD k then cost else 0, s.setTile t y)

/-- Billets of its spill region that the resume of a switch reads: the cell fields and the limb billets they imply (R119). -/
def Tile.resumeReads (x : Tile) (c : Ctx) : List Nat := rangeFrom 640 16 ++ (match x.spilled c with | some (l, _) => List.range l | none => [])

/-- A read of the resume of a switch is held by a range entry or a merge of its billet (R55, R58). -/
def Tile.resumeHeld (x : Tile) (c : Ctx) : Bool :=
  x.matrix.slotOpen.getLsbD c.slot
    && (x.resumeReads c).any (fun b =>
      let i := c.entry.emBase + c.entry.spillBase + b
      x.inRange none .ember i || x.merges.any (fun m => m.store = .ember && m.bil = i))

/-- The check finds an error in a billet that the resume of a switch reads (R45): a corrected one is counted and owes its write-back, an uncorrectable one stops the tile. -/
def resumeEcc (c : Ctx) (f : Checked (TileId × Fin 656)) (s : State) : State :=
  let t := f.val.1.val
  let x := s.tile t
  if !(c.hasTile t && x.matrix.slotOpen.getLsbD c.slot && (x.resumeReads c).contains f.val.2.val) then s
  else
    match tileEcc t (checkOf f.ecc) s with
    | (none, s') => s'
    | (some s1, _) =>
      if f.ecc = .corrected then
        s1.modTile t (·.oweBack (c.entry.spillBank f.val.2.val) (c.entry.emBase + c.entry.spillBase + f.val.2.val))
      else s1

/-- The resume of a switch: the spilled output tile is read back, which works the array (R98), and is open. A bank that is not lit, or a cell field with its reserved bit set, stops the context on that tile, and the output tile stays closed (R62, R119, R120). -/
def switchResume (t : Nat) (n : Nat) (c : Ctx) (s : State) : State :=
  let x := s.tile t
  let k := c.slot
  if !x.matrix.slotOpen.getLsbD k then s
  else if (x.resumeReads c).any (fun b => !x.bankOpen (c.entry.spillBank b)) then ctxFault t n 0x02 0x08 s
  else
    match x.spilled c with
    | none => ctxFault t n 0x02 0x01 s
    | some (l, vs) =>
      working t k (spillCycles l) (s.setTile t { x with matrix := { x.matrix.close with
        isOpen := true, cells := resumeCells vs
        spillLast := spillLast l true true k (flaggedCells vs)
        slotOpen := x.matrix.slotOpen &&& ~~~(BitVec.ofNat 8 (2 ^ k)) } })

/-- SWITCH_LAST. -/
def switchWord (cycles out inn : Nat) (spilled resumed idle : Bool) : Word :=
  BitVec.ofNat 32 (min cycles 0x7FF + out <<< 11 + inn <<< 17 + b2n spilled <<< 23 + b2n resumed <<< 24 + b2n idle <<< 25)

/-- What a boundary hands to the placement: the outgoing context and the spill cycles of its tiles. -/
abbrev Outgoing := Option (Nat × List (Nat × Nat))

/-- Spill cycles an outgoing context has spent on a tile. -/
def outCost (o : Outgoing) (t : Nat) : Nat := match o with | some (_, cs) => sgetD cs t 0 | none => 0

/-- Every tile of a partition is free of a running context (R282); a stopped context that ran keeps its tiles (R413). -/
def State.partitionFree (s : State) (c : Ctx) : Bool := c.tiles.all (fun t => (s.tile t).run.isNone)

/-- The regions of a partition are lit and not parked, and none is in its clock switch, which a context that joins the group would meet half way (R22, R306, R310; log entry 42). -/
def State.partitionLit (s : State) (c : Ctx) : Bool :=
  c.regions.all (fun r => (s.region r).st = .lit && !(s.region r).parked && !(s.region r).changing && !s.regionFenced r)

/-- A dispatch onto banked regions that are not parked lights them (R306). -/
def lightFor (c : Ctx) (s : State) : State :=
  forAll c.regions (fun r s => s.modRegion r (fun g =>
    if g.st = .banked && !g.parked && !s.regionFenced r && !s.pins.thermLatch then { g with st := .transition, goal := .lit } else g)) s

/-- A task starts or goes on: its context is switched in on its free partition, and the release follows the switch (R284, R290). -/
def startTask (r : Ready) (c : Ctx) (o : Outgoing) (s : State) : State :=
  let fresh := c.task.isNone
  let (cost, res, s1) := c.tiles.foldl (fun (acc : Nat × Bool × State) t =>
    let q := switchIn t c acc.2.2
    (max acc.1 (outCost o t + 4 + q.1), acc.2.1 || 0 < q.1, q.2)) (0, false, s)
  let shares := match o with | some (_, cs) => c.tiles.any (fun t => shas cs t) | none => false
  let spilled := shares && (match o with | some (_, cs) => cs.any (fun p => p.2 ≠ 0) | none => false)
  let s2 := s1.modCtx r.ctx (fun k => { k with
    st := .running, task := some (r.graph, r.idx), ran := if fresh then 0 else k.ran, sinceIn := 0, onTiles := true
    bound := .switching, switchedIn := true, barrier := 0, arrived := [], planIds := [] })
  let s3 := modTask r.graph r.idx (fun t => { t with st := .running }) s2
  { s3 with switchLast := switchWord cost (if shares then (o.map (·.1)).getD 0 else 0) r.ctx spilled res false }

/-- Goes through the ready tasks in order: a task starts when its partition is free; otherwise its clusters stay reserved for it (R283). -/
def placeTasks (o : Outgoing) : List Ready → List Nat → State → State
  | [], _, s => s
  | r :: rs, blocked, s =>
    match s.ctx r.ctx with
    | none => placeTasks o rs blocked s
    | some c =>
      if c.onTiles || c.task.any (fun q => q ≠ (r.graph, r.idx)) then placeTasks o rs blocked s
      else if c.clusters.any (fun k => blocked.contains k) || !s.partitionFree c then placeTasks o rs (blocked ++ c.clusters) s
      else if !s.partitionLit c then placeTasks o rs (blocked ++ c.clusters) (lightFor c s)
      else placeTasks o rs blocked (startTask r c o s)

/-- STATE of a context that is off its tiles: PAUSED while it is held or a paused graph has work for it, else IDLE (R274, R291). -/
def State.restState (s : State) (n : Nat) (c : Ctx) : CtxState :=
  let stuck := s.graphs.any (fun p => p.2.inFlight && !s.graphOn p.2 && p.2.tasks.any (fun t => t.ctx = n && t.st ≠ .done))
  if c.held || stuck then .paused else .idle

/-- Contexts off their tiles show IDLE or PAUSED. -/
def settleStates (s : State) : State :=
  { s with ctxs := s.ctxs.map (fun p =>
      if !p.2.onTiles && (p.2.st = .idle || p.2.st = .paused || p.2.st = .running) then (p.1, { p.2 with st := s.restState p.1 p.2 }) else p) }

/-- The dispatcher looks for tasks to start (R282, R283, R290); nothing starts while Statues is raised (R400). -/
def scheduleFrom (o : Outgoing) (s : State) : State :=
  let s1 := settleCancel s
  let s2 := if s1.statues then s1 else zeroTasks (s1.taskCount + 1) s1
  let s3 := if s2.statues then s2 else placeTasks o s2.readyTasks [] s2
  settleStates s3

def schedule (s : State) : State := scheduleFrom none s

/-! ### SUBMIT_GRAPH and the graph commands (R286 to R291) -/

/-- One task descriptor with its successors (R288). -/
def taskOf (s : State) (b : List Byte) : Task :=
  let n := bytesAt b 10 2
  let own := (List.range (min n 4)).map (fun j => bytesAt b (12 + 2 * j) 2)
  let more := if 4 < n then
      let l := s.hbmRead (bytesAt b 20 6) (2 * (n - 4))
      (List.range (n - 4)).map (fun j => bytesAt l (2 * j) 2)
    else []
  { ctx := bytesAt b 0 1, event := bit (bytesAt b 1 1) 0, entry := bytesAt b 2 2, steps := bytesAt b 4 4, dep := BitVec.ofNat 16 (bytesAt b 8 2)
    succ := own ++ more, quantum := bytesAt b 28 2 }

/-- Entries of the shortest entry table a context's tiles have. -/
def Ctx.entryCount (c : Ctx) : Nat := (c.tileMap.map (fun k => (c.sections.getD k []).length)).foldl min 0x10000

/-- The checks of one task descriptor (R288, R289). -/
def taskChecks (s : State) (total i : Nat) (b : List Byte) : List (Bool × Nat) :=
  let t := taskOf s b
  let n := bytesAt b 10 2
  let live := (s.ctx t.ctx).filter (fun c => c.st ≠ .stopped && c.mapRetry.isNone)
  [ (bf (bytesAt b 0 1) 6 2 ≠ 0 || bf (bytesAt b 1 1) 1 7 ≠ 0 || bytesAt b 26 2 ≠ 0 || bytesAt b 30 2 ≠ 0, 0x01)
  , ((List.range 4).any (fun j => decide (n ≤ j) && bytesAt b (12 + 2 * j) 2 ≠ 0) || (n ≤ 4 && bytesAt b 20 6 ≠ 0), 0x01)
  , (t.steps = 0xFFFFFFFF, 0x04)
  , (live.isNone, 0x07)
  , (live.any (fun c => decide (c.entryCount ≤ t.entry)), 0x05)
  , (t.succ.any (fun j => decide (j ≤ i) || decide (total ≤ j)), 0x02) ]
  ++ (if 4 < n then hbmChecks s (bytesAt b 20 6) (2 * (n - 4)) else [])

/-- A dependency count differs from the references to the task (R289). -/
def depsWrong (ts : List Task) : Bool :=
  let refs := ts.flatMap (·.succ)
  ts.zipIdx.any (fun p => p.1.dep.toNat ≠ (refs.filter (· = p.2)).length)

/-- Lowest graph number not in flight. -/
def State.freeGraph (s : State) : Option Nat := (List.range 16).find? (fun g => !(s.graph g).inFlight)

/-- SUBMIT_GRAPH (R287 to R289): the whole graph is read and checked, gets a number, and its ready tasks are placed. -/
def execSubmitGraph (r : Checked RingId) (s : State) : Host.Outcome State Fault Refusal :=
  .next <| withTables r 3 s fun c s =>
    let a := bytesAt c 8 8
    let n := bytesAt c 16 4
    match pickCode ([(n = 0 || 65536 < n, 0x02), (a % 64 ≠ 0, 0x03), (s.freeGraph.isNone, 0x07)] ++ hbmChecks s a (32 * n)) with
    | some k => reject r.val c k s
    | none =>
      let raw := (List.range n).map (fun i => s.hbmRead (a + 32 * i) 32)
      let ts := raw.map (taskOf s)
      match pickCode (raw.zipIdx.flatMap (fun p => taskChecks s n p.2 p.1) ++ [(depsWrong ts, 0x02)]), s.freeGraph with
      | some k, _ => reject r.val c k s
      | none, none => s
      | none, some g =>
        let s1 := touchRange a (32 * n) s
        schedule (complete r.val c 0xFF g 0 { s1 with
          graphs := sset s1.graphs g { st := .running, order := s1.graphOrder, tasks := ts }
          graphOrder := s1.graphOrder + 1 })

/-- A command on a graph: refused when the graph is not in flight. -/
def graphCommand (r op : Nat) (s : State) (bad : Graph → Bool) (f : Graph → Graph) : State :=
  withCommand r op s fun c s =>
    let g := cmdCtx c
    if 15 < g then reject r c 0x06 s
    else if !(s.graph g).inFlight || bad (s.graph g) then reject r c 0x07 s
    else schedule (accept r c (s.modGraph g f))

/-- CANCEL_GRAPH (R291): acts as a pause, and frees the graph once no task of it is running. -/
def execCancelGraph (r : RingId) (s : State) : Host.Outcome State Fault Refusal :=
  .next (graphCommand r 4 s (fun _ => false) (fun g => { g with st := .paused, cancel := true }))

/-- PAUSE_GRAPH (R291): no further task of the graph starts. -/
def execPauseGraph (r : RingId) (s : State) : Host.Outcome State Fault Refusal :=
  .next (graphCommand r 5 s (fun _ => false) (fun g => { g with st := .paused }))

/-- RESUME_GRAPH (R291): the graph's tasks are eligible again; a cancelled graph is not resumed. -/
def execResumeGraph (r : RingId) (s : State) : Host.Outcome State Fault Refusal :=
  .next (graphCommand r 6 s (·.cancel) (fun g => { g with st := .running }))

/-! ### Contexts: creation, retry, removal, stop -/

/-- CREATE_CONTEXT (R274 to R280): record and image are checked before anything changes; then the map is loaded. A map whose counters still have adds outstanding waits for CONTEXT_MAP_RETRY (R153). -/
def execCreateContext (r : Checked RingId) (sigOk : Bool) (s : State) : Host.Outcome State Fault Refusal :=
  .next <| withTables r 1 s fun c s =>
    let a := bytesAt c 8 8
    let rec_ := s.hbmRead a 128
    let num := createCtx a rec_
    match createRefusal s a rec_ sigOk with
    | some k => complete r.val c num 0xFF (faultCode 0x14 k) s
    | none =>
      let i := recordImage rec_
      let body := s.imageBody i
      let k := withImage s (recordCtx rec_) (s.hbmRead i 256) body sigOk
      let s1 := touchRange a 128 (touchRange i (256 + body.length) s)
      let k' := { k with st := .pending, loggedAt := s.ctxCycles k }
      if s.mapWaits k then
        recordFault (pageKey 0x60 0) 0x14 0x07
          (s1.setCtx num { k' with mapRetry := some (r.val, BitVec.ofNat 32 (bytesAt c 4 4), i) })
      else schedule (complete r.val c num 0xFF 0 (loadContext num body (s1.setCtx num k')))

/-- CONTEXT_MAP_RETRY (R153): the map load of a context is tried again once the operations that post to its counters have completed. -/
def execContextMapRetry (n : CtxId) (s : State) : Host.Outcome State Fault Refusal :=
  .next <|
    match s.ctx n with
    | none => s
    | some c =>
      match c.mapRetry with
      | none => s
      | some (r, tag, i) =>
        if s.mapWaits c then s
        else
          let s1 := s.setCtx n { c with mapRetry := none }
          let cmd := natLe 4 1 ++ natLe 4 tag.toNat
          schedule (complete r cmd n 0xFF 0 (loadContext n (s.imageBody i) s1))

/-- DESTROY_CONTEXT_COMPLETE (R293 steps 2 to 4): outstanding operations have ended and the channels can be unbound, so the context leaves every map and its command completes. -/
def execDestroyContextComplete (n : CtxId) (s : State) : Host.Outcome State Fault Refusal :=
  .next <|
    match s.ctx n with
    | none => s
    | some c =>
      match c.destroy with
      | none => s
      | some d =>
        if !s.drained n c then s
        else
          let s1 := (unbind c false s).modCtx n (fun c => { c with destroy := some { d with step := 3 } })
          if s1.recvWaits c then s1
          else
            let cmd := natLe 4 2 ++ natLe 4 d.tag.toNat ++ natLe 1 n
            schedule (complete d.ring cmd 0xFF 0xFF 0 (removeContext n c (unbind c true s1)))

/-- Graphs in flight in which a task of a context is running or ready, with that task (R292). -/
def State.graphsOf (s : State) (n : Nat) : List (Nat × Nat) :=
  (s.graphs.filter (fun p => p.2.inFlight)).filterMap (fun p =>
    (p.2.tasks.zipIdx.find? (fun q => q.1.ctx = n && (q.1.st = .running || (q.1.st = .waiting && q.1.dep = 0)))).map (fun q => (p.1, q.2)))

/-- A parked group on which no context runs any longer is banked: its contexts are switched out, or have stopped (R306, R310). Flits that wait to leave such a region are refused (R198). -/
def parkSettle (s : State) : State :=
  let busy := fun (r : Nat) => s.ctxs.any (fun p => p.2.onTiles && p.2.st ≠ .stopped && p.2.regions.contains r)
  let now := (s.regions.filter (fun p => p.2.parked && p.2.st = .lit && !busy p.1)).map (·.1)
  forAll now (fun r s => refuseWaiting r 0x07 (s.modRegion r (fun g => { g with st := .transition, goal := .banked }))) s

/-- A context enters STOPPED (R292, R413): every tile of its partition starts nothing more of it, its streams stop, and the graphs of its tasks fail with the code. -/
def stopContext (n fc : Nat) (s : State) : State :=
  match s.ctx n with
  | none => s
  | some c =>
    if c.st = .stopped then s
    else
      let s1 := forAll c.tiles (fun t s => s.modTile t (·.stopCtx n)) s
      let s2 := stopStreams n c.tiles (s1.setCtx n { c with st := .stopped, task := none, ran := 0, bound := .none, sysTicks := none, stop := none })
      schedule (parkSettle (forAll (s.graphsOf n) (fun q s => failGraph q.1 q.2 n fc s) s2))

/-- CONTEXT_STOP (R413): the dispatcher acts on a stop that a fault has marked. -/
def execContextStop (n : CtxId) (s : State) : Host.Outcome State Fault Refusal :=
  .next <|
    match s.ctx n with
    | none => s
    | some c =>
      match c.stop with
      | none => s
      | some fc => stopContext n fc s

/-! ### Rebase, buckets and holds -/

/-- REBASE (R166): the request is taken at once at a quiescent boundary, else deferred to the next one. DESIGN CHOICE (log entry 48): a second request for a context whose earlier one still waits takes its place, or, at a quiescent boundary, is carried out at once while the earlier one goes on waiting for REBASE_APPLY. -/
def execRebase (r : RingId) (s : State) : Host.Outcome State Fault Refusal :=
  .next <| withCommand r 7 s fun c s =>
    let n := cmdCtx c
    match s.ctx n with
    | none => reject r c (if 63 < n then 0x06 else 0x07) s
    | some k =>
      if k.st = .stopped || k.mapRetry.isSome then reject r c 0x07 s
      else
        let fill := bytesAt c 12 3
        accept r c <|
          if s.quiescent n k then forAll k.tiles (fun t s => s.modTile t (·.rebase k.entry fill k.slot)) s
          else
            forAll k.tiles (fun t s => s.modTile t (fun x => { x with rebaseSlot := k.slot, rebaseDone := false, rebaseDefer := true }))
              (s.modCtx n (fun k => { k with rebase := some fill }))

/-- DEFINE_BUCKET (R256, R268): record range, working ranges and descriptor are checked against the context's apertures, fenced stacks and the other buckets. -/
def execDefineBucket (r : Checked RingId) (s : State) : Host.Outcome State Fault Refusal :=
  .next <| withTables r 8 s fun c s =>
    let n := cmdBucket c
    let k : Bucket :=
      { ctx := bytesAt c 10 1, base := bytesAt c 16 8, records := bytesAt c 24 4, descAddr := bytesAt c 32 8, checkEvery := bytesAt c 40 4
        partner := bytesAt c 44 2, partnerCtx := bytesAt c 46 1, partnerPort := bytesAt c 47 1 }
    let d := BitVec.ofNat 512 (leNat (s.hbmRead k.descAddr 64))
    let live := s.ctx k.ctx
    let pre := pickCode (
      [ (decide (1023 < n) || decide (63 < k.ctx) || decide (1023 < k.partner) || (decide (63 < k.partnerCtx) && k.partnerCtx ≠ 0xFF) || decide (15 < k.partnerPort), 0x06)
      , ((s.bucket n).isSome || live.isNone || live.any (fun q => q.st = .stopped || q.mapRetry.isSome || q.destroy.isSome), 0x07)
      , (decide (k.records < 4096) || decide (262144 < k.records), 0x02)
      , (k.base % 256 ≠ 0 || k.descAddr % 64 ≠ 0, 0x03) ] ++ hbmChecks s k.descAddr 64)
    match pre, live with
    | some code, _ => reject r.val c code s
    | none, none => reject r.val c 0x07 s
    | none, some q =>
      match pickCode ((!inAperture q k.descAddr 64, 0x06) :: rangeChecks s n q ((k.base, k.bytes) :: workRanges d k.records)) with
      | some code => reject r.val c code s
      | none => accept r.val c ((touchRange k.descAddr 64 s).setBucket n { k with desc := d })

/-- REMOVE_BUCKET (R294): any round ends, staged packets are discarded, the entry goes; accepted in any state of a defined bucket. -/
def execRemoveBucket (r : RingId) (s : State) : Host.Outcome State Fault Refusal :=
  .next <| withCommand r 9 s fun c s =>
    let n := cmdBucket c
    match s.bucket n with
    | none => reject r c (if 1023 < n then 0x06 else 0x07) s
    | some _ =>
      accept r c { s with
        buckets := sdel s.buckets n
        hbmStacks := s.hbmStacks.map (fun p => (p.1, { p.2 with staged := p.2.staged.filter (fun q => q.bucket ≠ n) })) }

/-- RELEASE_HOLD (R270, R291): a model's hold ends; its graphs are eligible again, and buckets with staged packets start their rounds. -/
def execReleaseHold (r : RingId) (s : State) : Host.Outcome State Fault Refusal :=
  .next <| withCommand r 10 s fun c s =>
    let m := cmdCtx c
    if 63 < m then reject r c 0x06 s
    else
      let s1 := { s with
        holds := s.holds.filter (· ≠ m), holdsDue := s.holdsDue.filter (· ≠ m)
        ctxs := s.ctxs.map (fun p => if p.2.model = m then (p.1, { p.2 with held := false }) else p) }
      schedule (forAll (s1.buckets.map (·.1)) nextRound (accept r c s1))

/-- LOCATE (R271): the CRC-64 of each named record of a held bucket that lies on the named stack is written to the buffer, 8 bytes a record; the buffer lies in an aperture of a context of the bucket's model. -/
def execLocate (r : RingId) (s : State) : Host.Outcome State Fault Refusal :=
  .next <| withCommand r 11 s fun c s =>
    let n := cmdBucket c
    let k := bytesAt c 10 1
    let first := bytesAt c 12 4
    let count := bytesAt c 16 4
    let a := bytesAt c 24 8
    match s.bucket n with
    | none => reject r c (if 1023 < n then 0x06 else 0x07) s
    | some b =>
      let own := (s.ctx b.ctx).any (fun k => s.ctxs.any (fun p => p.2.model = k.model && inAperture p.2 a (8 * count)))
      let recs := (rangeFrom first count)
      match pickCode (
        [ (count = 0 || decide (65536 < count), 0x02)
        , (decide (31 < k), 0x06)
        , (decide (b.records < first + count), 0x05)
        , (!own, 0x06)
        , (a % 8 ≠ 0, 0x03)
        , (!s.modelHeld b, 0x07)
        , (s.stackFenced k || (s.stacksOf a (8 * count)).any s.stackFenced, 0x09) ]) with
      | some code => reject r c code s
      | none =>
        let here := recs.filter (fun i => recordStack s b i = k)
        accept r c (forAll here.zipIdx (fun p s => s.hbmWrite (a + 8 * p.2) (natLe 8 (crc64 (s.hbmRead (b.base + 256 * p.1) 256)).toNat))
          (touchStack k (touchRange a (8 * count) s)))

end Sys2Proof.Machine
end

