-- ==== Sys2Proof/Machine/Boundary.lean ====
section
/-! DEFINITION. The superstep boundary: the phase-log entry, snapshots and step captures, holds, the switch decision, step changes, stagger delays and the release, in the order of R30. -/

namespace Sys2Proof.Machine

/-! ### The phase log (R272, R273) -/

/-- B, the cycles from the last arrival to the release (R204). -/
def Ctx.barrierCycles (c : Ctx) : Nat :=
  16 + 4 * (c.pw + c.ph) + 6 * (b2n (decide (c.px < 6) && decide (6 < c.px + c.pw)) + b2n (decide (c.py < 4) && decide (4 < c.py + c.ph)))

/-- The tile with the largest value, the lowest tile on a tie. -/
def worstTile (xs : List (Nat × Nat)) : Nat × Nat := xs.foldl (fun m x => if m.2 < x.2 then x else m) (xs.headD (0, 0))

/-- FROZEN cycles of a tile in the superstep. -/
def Ctx.frozenOf (s : State) (c : Ctx) (t : Nat) : Nat := (sgetD (s.tile t).cum 0x01 0).toNat - sgetD c.frozen0 t 0
/-- Late-arrival cycles of a tile in the superstep. -/
def Ctx.lateOf (s : State) (c : Ctx) (t : Nat) : Nat := (sgetD (s.tile t).cum 0x25 0).toNat - sgetD c.late0 t 0

/-- Cycles a system barrier waited for its ARRIVEs after the local last arrival (R341). -/
def Ctx.sysWait (c : Ctx) : Nat := if c.cordPorts = 0 then 0 else c.sysMet - c.lastArr

/-- Cycles of a tile's clock between the last release of its context and its arrival at the exchange barrier. All regions of a step group count the same cycles from a release on (R309). -/
def Ctx.computeOf (s : State) (c : Ctx) (t : Nat) : Nat := (s.tile t).arrivedAt - sgetD c.rel0 (regionOf t) 0

/-- The 64-byte entry for the ending superstep (R272). -/
def phaseEntry (s : State) (n : Nat) (c : Ctx) : List Byte :=
  let (slow, compute) := worstTile (c.tiles.map (fun t => (t, Ctx.computeOf s c t)))
  let frozen := c.tiles.map (fun t => Ctx.frozenOf s c t)
  let fields := [compute, c.lastArr - c.exRel, c.lastExArr - c.firstArr + c.barrierCycles + c.boundCyc + c.sysWait,
    (c.tiles.map (fun t => Ctx.lateOf s c t)).sum, frozen.foldl max 0, (c.tiles.map (fun t => (s.tile t).exch.slip)).foldl max 0]
  let f := fun (i : Nat) => natLe 4 (min (fields.getD i 0) 0xFFFFFFFF)
  let step := (s.region (c.regions.headD 0)).step
  let flags := b2n c.stepChanged + 2 * b2n c.switchedIn + 4 * b2n c.staggered + 8 * b2n (s.cad.st = .holdover) + 16 * b2n c.interlock
    + 32 * b2n (fields.any (fun v => decide (0xFFFFFFFF < v))) + 64 * step
  natLe 6 s.cad.count.toNat ++ natLe 1 n ++ natLe 1 flags ++ natLe 6 c.superstep ++ natLe 2 slow
    ++ f 0 ++ f 1 ++ f 2 ++ f 3 ++ natLe 8 frozen.sum ++ f 4 ++ f 5 ++ natLe 8 c.boundCyc ++ natLe 8 0

/-- Step 1 of R30: the entry goes into the ring of the phase log, over the oldest (R273); nothing is written while the ash pit is disabled (R382). -/
def logPhase (n : Nat) (c : Ctx) (s : State) : State :=
  let s1 := s.modCtx n (fun c => { c with loggedAt := s.ctxCycles c, stepChanged := false, switchedIn := false, staggered := false })
  let f := s.forn
  if !f.pitOn || f.phaseBytes = 0 then s1
  else
    let next := f.phaseNext + 64
    let wraps := f.phaseBytes ≤ next
    { (s1.hbmWrite (f.base + phaseOff + f.phaseNext) (phaseEntry s n c)) with
      forn := { f with phaseNext := if wraps then 0 else next, phaseWraps := f.phaseWraps + b2n wraps } }

/-! ### Snapshots (R391 to R393) -/

def Snap.ctx (q : Snap) : Nat := bf q.ctrl.toNat 2 6
def Snap.byTick (q : Snap) : Bool := bit q.ctrl.toNat 1
def Snap.store (q : Snap) : StoreId := storeOfCode (bf q.ctrl.toNat 8 2)
def Snap.oneTile (q : Snap) : Bool := bit q.ctrl.toNat 10
def Snap.tile (q : Snap) : Nat := bf q.ctrl.toNat 11 11
def Snap.trigger (q : Snap) : Nat := q.trigLo.toNat + bf q.trigHi.toNat 0 16 <<< 32
def Snap.label (q : Snap) : Nat := bf q.trigHi.toNat 16 16
def Snap.first (q : Snap) : Nat := bf q.rng.toNat 0 13
def Snap.count (q : Snap) : Nat := bf q.rng.toNat 13 14

/-- The debug policy in force, a committed one from the next Statues on (R350), is CLOSED or SEALED (R354): no snapshot and no capture. -/
def State.policyShut (s : State) : Bool := s.sec.debugIn = 2 || s.sec.debugIn = 3

/-- A request ends without having been taken. -/
def endSnap (i st : Nat) (s : State) : State :=
  { s with forn := { s.forn with snaps := smod s.forn.snaps i {} (fun q => { q with st := st, ctrl := q.ctrl &&& 0xFFFFFFFE, fired := false }) } }

/-- Takes one snapshot that is due: the record with its billets is written, and the boundary waits until HBM has accepted them (R392); without room, or with the policy shut, it is abandoned (R392, R393). -/
def takeSnap (n : Nat) (c : Ctx) (i : Nat) (s : State) : State :=
  let q := sgetD s.forn.snaps i {}
  if s.policyShut then endSnap i 6 s
  else
    let ts := if q.oneTile then [c.tiles.getD q.tile 0] else c.tiles
    let len := 64 + ts.length * q.count * 512
    match reserveRecord len s with
    | (none, s1) => endSnap i 5 s1
    | (some a, s1) =>
      let seq := s1.forn.recSeq
      let head := varHeader 0x04 0 n i q.label len c.superstep [] s1
      let s2 := s1.hbmWrite a head
      let s3 := forAll ts.zipIdx (fun p s => s.hbmWrite (a + 64 + p.2 * q.count * 512)
        (memRead (s.tile p.1).store (bilOff q.store (c.entry.base q.store + q.first)) (q.count * 512))) s2
      nextSeq { s3 with forn := { s3.forn with snaps := smod s3.forn.snaps i {} (fun q => { q with st := 2, seq := seq % 2 ^ 29, addr := a }) } }

/-- A request is due at the boundary that ends the context's superstep. -/
def Snap.due (q : Snap) (n : Nat) (c : Ctx) : Bool :=
  q.st = 1 && q.ctx = n && (if q.byTick then q.fired else decide (q.trigger = c.superstep))

/-! ### Step capture and replay records (R394 to R397) -/

/-- Bytes that a capture holds for a tile: slices, register bank, window, tables, stream and endpoint states, and an open output tile in spill form (R394; log entry 16). -/
def captureBytes (x : Tile) (c : Ctx) : Nat :=
  let e := c.entry
  512 * (e.wpSize + e.tiSize + e.emSize + 2 * e.imSize) + 32 * 8 + 8 + 8 * e.ctrSize + 8 + 16 * 8 + 4 + 4 * 64 + 32 * 32
    + (if x.matrix.isOpen then 656 * 512 else 0)

/-- Bytes of a capture record. -/
def State.captureLen (s : State) (c : Ctx) : Nat :=
  let cap := s.forn.cap
  64 + (cap.tiles.map (fun p => captureBytes p.2 c)).sum + (cap.arrivals.map (fun a => 16 + a.bytes.length)).sum

/-- Cycles of the SPILL and RESUME by which a capture records an open output tile (R120, R394). -/
def Tile.captureCycles (x : Tile) : Nat :=
  if x.matrix.isOpen then
    let l := spillCycles (spillImage x.matrix.values).1
    l + 5 + (l + 3)
  else 0

/-- A tile whose state a capture records: its instruction slice is read through the billet port (R64), and an open output tile is spilled and resumed, which works the array (R98, R394). -/
def captureTile (c : Ctx) (t : Nat) (s : State) : State :=
  let x := s.tile t
  let s1 := imageReads t (2 * c.entry.imBase) (2 * c.entry.imSize) s
  if x.matrix.isOpen then
    let l := spillCycles (spillImage x.matrix.values).1
    working t c.slot (2 * l) (s1.modTile t (fun x => { x with matrix := { x.matrix with cells := resumeCells x.matrix.values } }))
  else s1

/-- The capture starts at the boundary that ends superstep S − 1 (R394); what it costs counts in BOUNDARY_CYCLES. -/
def startCapture (n : Nat) (c : Ctx) (s : State) : State :=
  let cap := s.forn.cap
  if cap.st ≠ 1 || bf cap.ctrl.toNat 1 6 ≠ n || c.superstep + 1 ≠ cap.stepLo.toNat + bf cap.stepHi.toNat 0 16 <<< 32 then s
  else if s.policyShut then { s with forn := { s.forn with cap := { cap with st := 6, ctrl := cap.ctrl &&& 0xFFFFFFFE } } }
  else
    let cost := (c.tiles.map (fun t => (s.tile t).captureCycles)).foldl max 0
    let s1 : State := { s with forn := { s.forn with cap := { cap with
      st := 2, active := some n, saved := some c, superstep := c.superstep + 1, arrivals := [], stoked := []
      tiles := c.tiles.map (fun t => (t, s.tile t)) } } }
    forAll c.tiles (captureTile c) (s1.modCtx n (fun c => { c with extraCyc := c.extraCyc + cost }))

/-- The capture closes at the boundary that ends superstep S; without room in the record area it is abandoned with INCOMPLETE (R395). -/
def closeCapture (n : Nat) (c : Ctx) (s : State) : State :=
  let cap := s.forn.cap
  if cap.st ≠ 2 || cap.active ≠ some n || cap.superstep ≠ c.superstep then s
  else
    let len := s.captureLen c
    let fits := s.forn.pitOn && (s.forn.place (recLen len)).isSome
    let seq := s.forn.recSeq
    let s1 := if fits then freeRecord 0x05 0 n len c.superstep s else freeRecord 0x05 2 n 64 c.superstep s
    let cap' : Capture := { s1.forn.cap with
      st := if fits then 3 else 5, active := none, ctrl := cap.ctrl &&& 0xFFFFFFFE, seq := seq % 2 ^ 29, fresh := c.ran = 0
      off := (s1.forn.recs.getLast?).elim 0 (·.1) }
    { s1 with forn := { s1.forn with cap := cap', caps := if fits then s1.forn.caps ++ [cap'] else s1.forn.caps } }

/-- A replay ends with its task's superstep: the output record is written (R397). -/
def closeReplay (n : Nat) (c : Ctx) (s : State) : State :=
  if c.replay.isNone then s
  else
    let cap := s.forn.cap
    let s1 := freeRecord 0x06 0 n (64 + (cap.output.map (fun a => 16 + a.bytes.length)).sum) c.superstep s
    { s1.modCtx n (fun c => { c with replay := none }) with forn := { s1.forn with cap := { s1.forn.cap with output := [], toTake := [], replayCtrl := s1.forn.cap.replayCtrl &&& 0xFFFFFFFE } } }

/-! ### Step 5: frequency steps (R21, R22, R307) -/

/-- Regions joined to a set by a context that runs on both. -/
def growGroup (s : State) (rs : List Nat) : List Nat :=
  (s.ctxs.filter (fun p => p.2.onTiles && p.2.st = .running && p.2.regions.any (fun r => rs.contains r))).foldl
    (fun rs p => rs ++ p.2.regions.filter (fun r => !rs.contains r)) rs

/-- The step group of a region (R21). -/
def State.stepGroup (s : State) (r : Nat) : List Nat := (List.range 24).foldl (fun rs _ => growGroup s rs) [r]

/-- Contexts that run on a group. -/
def State.groupCtxs (s : State) (rs : List Nat) : List Nat :=
  (s.ctxs.filter (fun p => p.2.onTiles && p.2.st = .running && p.2.regions.any (fun r => rs.contains r))).map (·.1)

/-- A step change of the group is asked for and can be taken: going up, its voltage has settled (R307). -/
def State.stepDue (s : State) (rs : List Nat) : Bool :=
  rs.any (fun r => match (s.region r).wantStep with
    | some k => decide ((s.region r).step < k) || (s.region r).settled
    | none => false)

/-- The step request of a group is withdrawn, to be made again at the next boundary (R22). -/
def withdrawStep (rs : List Nat) (s : State) : State :=
  forAll rs (fun r s => s.modRegion r (fun g => { g with wantStep := none, again := g.wantStep.or g.again, settled := true, changing := false })) s

/-- A withdrawn request of a group is made again (R22). -/
def askAgain (rs : List Nat) (s : State) : State :=
  if rs.any (fun r => (s.region r).wantStep.isSome) then s
  else forAll rs (fun r s => s.modRegion r (fun g => { g with wantStep := g.again, again := none })) s

/-- The regions of a list stand at differing steps. -/
def State.stepsDiffer (s : State) (rs : List Nat) : Bool := rs.any (fun r => (s.region r).step ≠ (s.region (rs.headD 0)).step)

/-! ### Step 7: the release -/

/-- The boundary release (R204, R206, R281, R290): the superstep number grows, the selected plan lapses, every tile goes on, a fresh task at its entry. -/
def releaseBoundary (n : Nat) (s : State) : State :=
  match s.ctx n with
  | none => s
  | some c =>
    let entry := (c.task.bind (fun q => s.task q.1 q.2)).map (·.entry)
    let fresh := c.ran = 0 && !c.keepPc
    let tile := fun (p : Nat × Nat) (s : State) => s.modTile p.1 (fun x => { (x.setStall .none) with
      banks := match entry with
        | some k => if fresh then smod x.banks c.slot {} (fun b => { b with pc := (c.sections.getD p.2 []).getD k 0 }) else x.banks
        | none => x.banks
      exch := { x.exch with phase := 0, holding := none, plan := none, planId := 0xFFFF, entries := 0, next := 0, read := 0, ents := [], ended := false } })
    let s1 := forAll (c.tiles.zip c.tileMap) tile s
    s1.setCtx n { c with
      superstep := (c.superstep + b2n c.ended) % 2 ^ 48
      ended := false, keepPc := false
      bound := .none, stepSince := none, barrier := 0, arrived := [], planIds := [], arriveIn := [], arriveOut := [], sysTicks := none, wdTicks := 0
      boundCyc := s.ctxCycles c - c.loggedAt + c.extraCyc
      extraCyc := 0
      rel0 := c.regions.map (fun r => (r, (s.region r).cycles))
      frozen0 := c.tiles.map (fun t => (t, (sgetD (s.tile t).cum 0x01 0).toNat))
      late0 := c.tiles.map (fun t => (t, (sgetD (s.tile t).cum 0x25 0).toNat)) }

/-- Step 6 of R30 (R314): a target ahead by at most STAGGER_MAX is consumed and holds the context until then; one already passed is missed; one further ahead is kept. -/
def staggerStep (n : Nat) (s : State) : State :=
  match s.ctx n with
  | none => s
  | some c =>
    match c.target with
    | none => releaseBoundary n s
    | some t =>
      if t ≤ s.us then releaseBoundary n (s.setCtx n { c with target := none })
      else if t - s.us ≤ bf s.pwr.stagCfg.toNat 0 8 then s.setCtx n { c with bound := .stagger, heldFor := some t, target := none }
      else releaseBoundary n s

/-- A context has begun to run on regions that were apart: all the regions of the group take the largest of their duties (R309), and where they stand at differing steps they are to run at the lowest frequency among them (R21; log entry 42). -/
def joinSteps (rs : List Nat) (s : State) : State :=
  let k := (rs.map (fun r => (s.region r).step)).foldl max 0
  let d := (rs.map (fun r => (s.region r).duty)).foldl max 0
  let s1 := forAll rs (fun r s => s.modRegion r (fun g => { g with duty := d })) s
  if !s.stepsDiffer rs then s1
  else forAll rs (fun r s => s.modRegion r (fun g => { g with wantStep := some k, again := none, settled := true })) s1

/-- The clock switch of a group begins once every context that runs on it is held at its boundary (R22). -/
def grantStep (rs : List Nat) (s : State) : State :=
  if s.stepDue rs && (s.groupCtxs rs).all (fun k => (s.ctx k).any (fun q => q.bound = .stepHold)) then
    forAll rs (fun r s => s.modRegion r (fun g => { g with changing := true })) s
  else s

/-- Step 5 of R30 (R21, R22, R307): the context is held for a step change that its group can take, until every context of the group stands at its boundary. -/
def frequencyStep (n : Nat) (s : State) : State :=
  match s.ctx n with
  | none => s
  | some c =>
    let rs := s.stepGroup (c.regions.headD 0)
    let s1 := joinSteps rs (askAgain rs s)
    if !s1.stepDue rs then staggerStep n s1
    else grantStep rs (s1.modCtx n (fun c => { c with bound := .stepHold, stepSince := some s.us }))

/-- Contexts of a group that are held for its step change. -/
def State.stepHeld (s : State) (rs : List Nat) : List Nat := (s.groupCtxs rs).filter (fun k => (s.ctx k).any (fun q => q.bound = .stepHold))

/-- Groups whose last other context has left no longer wait for it (R22); with every context of a group at its boundary, regions that stand apart are asked for one step again. -/
def grantSteps (s : State) : State :=
  forAll (s.ctxs.filter (fun p => p.2.bound = .stepHold)) (fun p s =>
    let r := p.2.regions.headD 0
    let rs := s.stepGroup r
    if (s.region r).changing || (s.stepHeld rs).length < (s.groupCtxs rs).length then s else grantStep rs (joinSteps rs (askAgain rs s))) s

/-- A context held at its boundary goes on without a step change; one whose own regions stand at differing steps stays held until they are at one step (R21; log entry 42). -/
def letGo (go : Nat → State → State) (n : Nat) (s : State) : State :=
  match s.ctx n with
  | none => s
  | some c => if s.stepsDiffer c.regions then s.setCtx n { c with stepSince := none } else go n s

/-! ### Step 4: the switch decision (R283) -/

/-- The next task of the same context that is ready, in the order of R290. -/
def State.ownNext (s : State) (n : Nat) (c : Ctx) : Option (Nat × Nat) :=
  if c.rebase.isSome then none
  else
    let rs := (s.graphs.filter (fun p => s.graphOn p.2)).foldl (fun acc p =>
      (p.2.tasks.zipIdx).foldl (fun acc q =>
        if q.1.ctx = n && q.1.st = .waiting && q.1.dep = 0 && (c.replay.isNone || q.1.steps = 1) then
          Ready.insert { prio := c.prio, order := p.2.order, idx := q.2, graph := p.1, ctx := n } acc
        else acc) acc) []
    rs.head?.map (fun r => (r.graph, r.idx))

/-- The task the context goes on with; none when it is switched out: its task is over and no other is ready, its graph is paused or held, or a ready task that outranks it, or has waited out the QUANTUM `quantum` of the task it ran, needs one of its clusters (R283). -/
def State.goesOn (s : State) (n : Nat) (c : Ctx) (quantum : Nat) : Option (Nat × Nat) :=
  let cand := match c.task with
    | some q => if s.graphOn (s.graph q.1) then some q else none
    | none => s.ownNext n c
  match cand with
  | none => none
  | some q =>
    let due := decide (quantum ≠ 0) && decide (quantum ≤ c.sinceIn)
    let rival := s.readyTasks.any (fun r => (s.ctx r.ctx).any (fun k => k.clusters.any (fun m => c.clusters.contains m))
      && (decide (c.prio < r.prio) || (due && decide (c.prio ≤ r.prio))))
    if c.held || c.parkOut || rival then none else some q

/-- QUANTUM of the task a context runs, 0 when it runs none. -/
def State.quantumOf (s : State) (c : Ctx) : Nat := match c.task.bind (fun q => s.task q.1 q.2) with | some t => t.quantum | none => 0

/-- The tile of a list that cannot give up its context, with the code of the fault (R62, R120). DESIGN CHOICE (log entry 47): with several such tiles the fault is recorded, and the context stops, on the lowest of them alone; no tile then switches. -/
def leaveFault (ts : List Nat) (s : State) : Option (Nat × Nat) := ts.findSome? (fun t => ((s.tile t).leaveFault).map (fun k => (t, k)))

/-- Switches a context out (R284): spill and register step on every tile, with the cycles of each. -/
def leaveTiles (ts : List Nat) (s : State) : List (Nat × Nat) × State :=
  ts.foldl (fun acc t => let q := switchOut t acc.2; (sset acc.1 t q.1, q.2)) ([], s)

/-- The partition of a context is given up, and the dispatcher places what is ready. -/
def switchAway (n : Nat) (c : Ctx) (s : State) : State :=
  match leaveFault c.tiles s with
  | some (t, k) => ctxFault t n 0x02 k s
  | none =>
    let (costs, s1) := leaveTiles c.tiles s
    let s2 := parkSettle (s1.modCtx n (fun c => { c with
      onTiles := false, bound := .none, barrier := 0, arrived := [], planIds := [], arriveIn := [], arriveOut := [], sysTicks := none, wdTicks := 0
      parkOut := false
      task := c.task.filter (fun q => (s1.graph q.1).inFlight) }))
    let s3 := scheduleFrom (some (n, costs)) s2
    if s3.partitionFree c then
      { s3 with switchLast := switchWord ((costs.map (·.2)).foldl max 0 + 4) n 0 (costs.any (fun p => p.2 ≠ 0)) false true }
    else s3

/-- The books of an ended superstep: a task that has run its count completes; a dependency count whose complement does not match fails the graph (R289, R290, R411). -/
def endSuperstep (n : Nat) (c : Ctx) (depOk : Bool) (s : State) : State :=
  match c.task with
  | none => s
  | some (g, i) =>
    let s1 := s.setCtx n { c with ran := c.ran + 1, sinceIn := c.sinceIn + 1, ended := true }
    match s1.task g i with
    | none => s1
    | some t =>
      if c.ran + 1 < t.steps then s1
      else
        let s2 := closeReplay n c (s1.modCtx n (fun c => { c with task := none, ran := 0 }))
        taskDone g i (if depOk then s2 else forAll (t.succ.take 1) (fun j s => modTask g j (fun u => { u with depErr := 1 }) s) s2)

/-- Steps 3 to 7 of R30. -/
def boundaryRest (n : Nat) (depOk : Bool) (s : State) : State :=
  match s.ctx n with
  | none => s
  | some c0 =>
    let s1 := if s.holdsDue.contains c0.model || s.holds.contains c0.model then holdCtx n s else s
    match s1.ctx n with
    | none => s1
    | some c1 =>
      let s2 := endSuperstep n c1 depOk s1
      let s3 := zeroTasks (s2.taskCount + 1) s2
      match s3.ctx n with
      | none => s3
      | some c =>
        match s3.goesOn n c (s1.quantumOf c1) with
        | none => switchAway n c s3
        | some q =>
          let s4 := if c.task = some q then s3
            else modTask q.1 q.2 (fun t => { t with st := .running }) (s3.setCtx n { c with task := some q, ran := 0, sinceIn := 0 })
          schedule (frequencyStep n s4)

/-- A boundary of the context can act: it runs, is not stopped, and Statues is not raised (R400). -/
def State.atBoundary (s : State) (n : Nat) (b : BoundStage) : Option Ctx :=
  (s.ctx n).filter (fun c => c.st = .running && c.onTiles && c.stop.isNone && !s.statues && c.bound = b)

/-- BOUNDARY_ACTIONS (R30): the last tile has arrived at the boundary barrier; the actions due are taken in order, up to one that holds the boundary. `badNode` is a cluster node whose participation mask mismatches (R411), `depOk` the check of the dependency counts decremented. -/
def execBoundaryActions (n : CtxId) (badNode : Option (Fin 96)) (depOk : Bool) (s : State) : Host.Outcome State Fault Refusal :=
  .next <|
    match s.atBoundary n .none with
    | none => s
    | some c =>
      if !s.boundaryMet c then s
      else
        match badNode.filter (fun k => c.clusters.contains k.val) with
        | some k => maskMismatch n k s
        | none =>
          let s1 := logPhase n c s
          let due := (s1.forn.snaps.filter (fun p => p.2.due n c)).map (·.1)
          let s2 := startCapture n c (closeCapture n c (forAll due (takeSnap n c) s1))
          if s2.forn.snaps.any (fun p => p.2.st = 2 && p.2.ctx = n) then s2.modCtx n (fun c => { c with bound := .snapshot })
          else boundaryRest n depOk s2

/-- SNAPSHOT_COMPLETE (R392): HBM has accepted every billet of the snapshots taken at the boundary, which proceeds. -/
def execSnapshotComplete (n : CtxId) (depOk : Bool) (s : State) : Host.Outcome State Fault Refusal :=
  .next <|
    match s.atBoundary n .snapshot with
    | none => s
    | some _ =>
      let s1 : State := { s with forn := { s.forn with snaps := s.forn.snaps.map (fun (p : Nat × Snap) =>
        if p.2.st = 2 && p.2.ctx = n then (p.1, { p.2 with st := 3, ctrl := p.2.ctrl &&& 0xFFFFFFFE, fired := false }) else p) } }
      boundaryRest n depOk (s1.modCtx n (fun c => { c with bound := .none }))

/-- CONTEXT_SWITCH_COMPLETE (R120, R284): the slowest tile has finished its switch, whose reads no range entry or merge holds (R55, R58): spilled output tiles are open again, and steps 5 to 7 follow for the incoming context. A map entry that the switch reads may not match its complement (R277, R411), and the billets that it reads pass their check (R45). -/
def execContextSwitchComplete (q : SwitchEnd) (s : State) : Host.Outcome State Fault Refusal :=
  .next <|
    let n := q.ctx
    match s.atBoundary n .switching with
    | none => s
    | some c =>
      match q.badMap.filter (fun t => c.hasTile t) with
      | some t => ctxFault t n 0x01 0x18 s
      | none =>
        if c.tiles.any (fun t => (s.tile t).resumeHeld c) then s
        else
          let s0 := forAll q.found (resumeEcc c) s
          if (s0.atBoundary n .switching).isNone || c.regions.any s0.regionFenced then s0
          else
            let s1 := forAll c.tiles (fun t s => switchResume t n c s) s0
            if (s1.ctx n).any (fun c => c.stop.isSome) then s1 else frequencyStep n s1

/-- STEP_CHANGE_COMPLETE (R307): the clock-switch hold ends, the group runs at the new step, and its boundaries proceed. -/
def execStepChangeComplete (r : RegionId) (s : State) : Host.Outcome State Fault Refusal :=
  .next <|
    let rs := s.stepGroup r
    match rs.findSome? (fun k => (s.region k).wantStep) with
    | none => s
    | some k =>
      if !(s.region r).changing || s.statues then s
      else
        let down := rs.any (fun j => decide ((s.region j).step < k))
        let held := s.stepHeld rs
        let s1 := forAll rs (fun j s => s.modRegion j (fun g => { g with step := k, wantStep := none, again := none, settled := true, changing := false, highSince := if 16 ≤ g.duty then some s.us else none, zeroSince := none })) s
        let m := s1.pwr.cur
        let s2 := { s1 with pwr := { s1.pwr with cur := if down then { m with downs := satAdd 16 m.downs 1 } else { m with ups := satAdd 16 m.ups 1 } } }
        schedule (forAll held (fun n s => letGo staggerStep n (s.modCtx n (fun c => { c with stepChanged := true }))) s2)

/-- The step-change hold of a context would exceed STAGGER_MAX (R22). -/
def State.stepLate (s : State) (n : Nat) : Bool :=
  (s.ctx n).any (fun c => c.stepSince.any (fun t => decide (t + bf s.pwr.stagCfg.toNat 0 8 ≤ s.us)))

/-- STEP_HOLD_TIMEOUT (R22): a hold that would exceed STAGGER_MAX withdraws the request, and the contexts it holds proceed. -/
def execStepHoldTimeout (r : RegionId) (s : State) : Host.Outcome State Fault Refusal :=
  .next <|
    let rs := s.stepGroup r
    let held := s.stepHeld rs
    if !held.any s.stepLate || (s.region r).changing || s.statues then s
    else forAll held (letGo staggerStep) (withdrawStep rs s)

/-- A context whose target has come is released as aligned; a target that it got while it was held for this one stays for its next boundary. -/
def alignRelease (n : Nat) (s : State) : State :=
  releaseBoundary n (s.modCtx n (fun c => { c with target := if c.heldFor.isSome then c.target else none, heldFor := none, staggered := true }))

/-- STAGGER_TARGET_REACHED (R314 to R316): contexts held for a target that has come are released as aligned, step-change holds are cut short, and SYNC_OUT rises. -/
def execStaggerTargetReached (s : State) : Host.Outcome State Fault Refusal :=
  .next <|
    let can := fun (p : Nat × Ctx) => p.2.st = .running && p.2.onTiles && p.2.stop.isNone
    let come := fun (t : Option Nat) => t.any (fun t => decide (t ≤ s.us))
    let waiting := (s.ctxs.filter (fun p => can p && p.2.bound = .stagger && come p.2.heldFor)).map (·.1)
    let cut := (s.ctxs.filter (fun p => can p && p.2.bound = .stepHold && come p.2.target && p.2.regions.all (fun r => !(s.region r).changing))).map (·.1)
    if s.statues || (waiting = [] && cut = []) then s
    else
      let s1 := forAll waiting alignRelease s
      let s2 := forAll cut (fun n s =>
        match s.ctx n with
        | none => s
        | some c =>
          if c.bound ≠ .stepHold then s
          else
            let rs := s.stepGroup (c.regions.headD 0)
            let others := (s.stepHeld rs).filter (fun k => !cut.contains k)
            forAll others (letGo staggerStep) (letGo alignRelease n (withdrawStep rs s))) s1
      { s2 with pins := { s2.pins with syncOut := true } }

end Sys2Proof.Machine
end

