-- ==== Sys2Proof/Machine/Cadence.lean ====
section
/-! DEFINITION. The cadence unit: edges, minutes, holdover, the compare slots and what each device slot does, the envelope in force, the tally of a minute, and stagger triggers (12_cadence_and_power.md R296 to R305, R313 to R320). -/

namespace Sys2Proof.Machine

/-- Ticks of a cadence minute (R296). -/
def State.tpm (s : State) : Nat := 60 * s.sec.nominal

/-- The period, in 10 ns, is within 1 % of 1 / NOMINAL_HZ (R296). -/
def nearNominal (nominal p : Nat) : Bool := decide (99000000 ≤ p * nominal) && decide (p * nominal ≤ 101000000)
/-- A pulse width of a normal tick (R296). -/
def tickWidth (p h : Nat) : Bool := decide (10 * p ≤ 100 * h) && decide (100 * h ≤ 35 * p)
/-- A pulse width of a tick and minute mark (R296). -/
def markWidth (p h : Nat) : Bool := decide (45 * p ≤ 100 * h) && decide (100 * h ≤ 75 * p)

/-- The mean of the qualified periods in 1/64 of a reference period; the nominal period before the first (R297, R299). -/
def State.meanPeriod (s : State) : Nat :=
  let ps := s.cad.periods
  if ps = [] then 6400000000 / s.sec.nominal else 64 * ps.sum / ps.length

/-! ### The envelope in force (R304, R305, R312) -/

/-- Entry with the lowest ceiling, the first on a tie. -/
def lowestEntry (t : List EnvEntry) : Nat :=
  (t.zipIdx.foldl (fun (m : Nat × Nat) p => if p.1.ceiling < m.1 then (p.1.ceiling, p.2) else m) ((t.headD {}).ceiling, 0)).2

/-- Index of the entry in force in a minute (R304). -/
def entryIndex (t : List EnvEntry) (align : Option (Nat × Nat)) (m : Nat) : Nat :=
  match align with
  | some (m0, i) => if m0 ≤ m then (i + m - m0) % t.length else lowestEntry t
  | none => lowestEntry t

/-- The alignment that governs a minute: the newest from its minute M on, the one it replaces before. -/
def State.alignAt (s : State) (m : Nat) : Option (Nat × Nat) :=
  match s.cad.align with
  | some (m0, i) => if m0 ≤ m then some (m0, i) else s.cad.alignOld
  | none => none

/-- The entry in force. -/
def State.envEntry (s : State) : EnvEntry := s.pwr.env.getD s.pwr.entry {}

/-- The entry of the minute that the next mark opens, minute 0 before the first, of the table that will be in force then (R297, R304, R305). -/
def State.nextEntry (s : State) : EnvEntry :=
  let t := s.pwr.envNext.getD s.pwr.env
  let m := if s.cad.opened then s.cad.minute + 1 else 0
  t.getD (entryIndex t (s.alignAt m) m) {}

/-- The ceiling in force (R312). -/
def State.ceilingInForce (s : State) : Nat :=
  let a := min s.envEntry.ceiling s.sec.ceiling
  if s.cad.fallback then min a s.pwr.fallbackW else a

/-- The working ceiling C(t) (R305). -/
def State.workingC (s : State) : Nat :=
  if s.pwr.lead then min s.ceilingInForce s.nextEntry.ceiling else s.ceilingInForce

/-- Sets bits of the FLAGS of the open tally (R318). -/
def flagTally (f : Nat) (s : State) : State := { s with pwr := { s.pwr with cur := { s.pwr.cur with flags := s.pwr.cur.flags ||| f } } }

/-! ### Compare slots (R302, R303) -/

def State.slot (s : State) (n : Nat) : Slot := sgetD s.cad.slots n {}
def State.modSlot (s : State) (n : Nat) (f : Slot → Slot) : State := { s with cad := { s.cad with slots := smod s.cad.slots n {} f } }

def State.stagSource (s : State) : Bool := bit s.pwr.stagCfg.toNat 8
def State.stagPeriod (s : State) : Nat := bf s.pwr.stagCfg.toNat 16 16

/-- A fingerprint of a bucket with a cord partner is due for comparison and has not been sent (R268, R342). -/
def Bucket.toSend (b : Bucket) : List FpRound :=
  if b.partnerCtx = 0xFF then b.fps.filter (fun f => 0 < b.checkEvery && f.round % b.checkEvery = 0 && decide (b.fpSent < f.round)) else []

/-- A snapshot request waits for its tick (R392). -/
def Snap.waits (q : Snap) : Bool := q.st = 1 && q.byTick && !q.fired

/-- COMPARE of slot 2 while it waits for its expected mark (R302, R305). -/
def State.leadAt (s : State) : Option Nat :=
  if s.cad.expected = s.cad.ledFor then none else s.cad.expected.map (· - s.pwr.leadTicks)

/-- A device slot fires on the tick with this count, or on the next one where the value the device sets lies at or below it (R303); slots 0 and 1 fire with the minute (R302). -/
def State.deviceFires (s : State) (k n : Nat) : Bool :=
  match k with
  | 2 => s.leadAt.any (fun t => decide (t ≤ n))
  | 3 => s.stagSource && decide (0 < s.stagPeriod) && n % s.stagPeriod = 0
  | 4 => s.forn.snaps.any (fun p => p.2.waits && decide (p.2.trigger ≤ n))
  | 5 => s.buckets.any (fun p => p.2.toSend ≠ [])
  | 6 => decide (0 < s.forn.counterPeriod) && n % s.forn.counterPeriod = 0
  | 7 => true
  | _ => false

/-- A device slot that fires does so late: its COMPARE lies below the count (R303). -/
def State.deviceLate (s : State) (k n : Nat) : Bool :=
  match k with
  | 2 => s.leadAt.any (fun t => decide (t < n))
  | 4 => s.forn.snaps.any (fun p => p.2.waits && decide (p.2.trigger < n))
  | _ => false

/-- A software slot fires on the tick with this count (R303). -/
def Slot.fires (x : Slot) (n : Nat) : Bool := x.enable && (x.due || x.compare.toNat = n)

/-- Whether a slot fires on the tick with this count. -/
def State.slotFires (s : State) (k n : Nat) : Bool := if k < 8 then s.deviceFires k n else (s.slot k).fires n

/-- A slot fires: its action waits for its row. -/
def fireSlot (k : Nat) (s : State) : State := s.modSlot k (fun x => { x with fire := true, fired := true, due := false })

/-- A slot fires on a tick: a device slot notes that it is late, and slot 2 is armed for the next mark (R302, R303). -/
def tickSlot (k : Nat) (s : State) : State :=
  let late := k < 8 && s.deviceLate k s.cad.count.toNat
  let s1 := fireSlot k (s.modSlot k (fun x => { x with late := x.late || late }))
  if k = 2 then { s1 with cad := { s1.cad with ledFor := s1.cad.expected } } else s1

/-- The slots that fire on a tick. -/
def fireSlots (s : State) : State :=
  forAll ((List.range 16).filter (fun k => s.slotFires k s.cad.count.toNat)) tickSlot s

/-- A slot's action is taken: it has fired, and no lower slot of the same tick waits (R303). -/
def State.slotActs (s : State) (k : Nat) : Bool := (s.slot k).fire && (List.range k).all (fun j => !(s.slot j).fire)

/-- The action of a slot that acts. -/
def onSlot (k : Nat) (s : State) (f : State → State) : State :=
  if s.slotActs k then f (s.modSlot k (fun x => { x with fire := false })) else s

/-! ### Minutes (R28, R297, R298, R342) -/

/-- Difference of two counts. -/
def apart (a b : Nat) : Nat := (a - b) + (b - a)

/-- The check of R28: a link that was UP at the last mark and still is, and whose last count lies more than 2 ticks from the own count at the same mark, puts the package out of system cadence. The flag clears only at a mark; DESIGN CHOICE (log entry 40): where the agreeing counts come in after the own mark, at the following one. -/
def cadenceCheck (mark : Bool) (s : State) : State :=
  let bad := s.links.any (fun p => p.2.joins && p.2.lastCad.any (fun v => decide (2 < apart v.1 v.2)))
  let s1 := { s with cad := { s.cad with outSys := bad || (!mark && s.cad.outSys) } }
  let s2 := if bad then flagTally 4 s1 else s1
  if bad && !s.cad.outSys then recordFault (pageKey 0x50 0) 0x12 0x33 s2 else s2

/-- Links that send CADENCE at a mark. -/
def State.carryingLinks (s : State) : List Nat := (List.range 32).filter (fun l => s.linkExists l && (s.link l).carries)

/-- The cadence count at the last mark. -/
def State.lastMark (s : State) : Nat := s.pwr.cur.endTick.getD s.cad.openTick

/-- The own count at the mark that a CADENCE word is compared with: the mark that is due within 2 ticks, else the last one (R28; log entry 40). -/
def State.ownMark (s : State) : Nat :=
  let n := s.cad.count.toNat
  if !s.cad.opened then n
  else match s.cad.expected with
    | some e => if e ≤ n + 2 then e else s.lastMark
    | none => s.lastMark

/-- What every closing or opening mark does: CADENCE goes out, and the counts are compared; a count that came in just before the mark is compared with this one. The links UP now take part from here on (R342). -/
def sendCadence (n prev : Nat) (s : State) : State :=
  let s1 := { s with links := s.links.map (fun (p : Nat × Link) => (p.1, { p.2 with joins := p.2.st = .up, lastCad := p.2.lastCad.map (fun v => if prev < v.2 then (v.1, n) else v) })) }
  cadenceCheck true (forAll s1.carryingLinks (fun l s => sendWord l 0x05 0 n s) s1)

/-- The counts of a fresh minute; energy not reported carries over (R317). -/
def State.freshMinute (s : State) : Minute :=
  { energy := s.pwr.cur.energy, openUs := s.us, flags := 2 * b2n s.cad.fallback + 4 * b2n s.cad.outSys }

/-- The first mark after lock opens minute 0 (R297). -/
def openMinute (n : Nat) (s : State) : State :=
  let s1 := { s with
    cad := { s.cad with opened := true, minute := 0, openTick := n, expected := some (n + s.tpm) }
    pwr := { s.pwr with cur := s.freshMinute } }
  sendCadence n n (fireSlot 0 s1)

/-- The open minute closes at a tick: the roll and the tally wait for slots 0 and 1 (R298, R302). -/
def closeMinute (n flags : Nat) (s : State) : State :=
  let s1 := flagTally flags { s with
    cad := { s.cad with minute := (s.cad.minute + 1) % 2 ^ 32, expected := some (n + s.tpm) }
    pwr := { s.pwr with cur := { s.pwr.cur with endTick := some n } } }
  sendCadence n s.lastMark (fireSlot 1 (fireSlot 0 s1))

/-- A minute mark at the current count is judged (R298); a real one ends the fallback once holdover has ended (R300). -/
def judgeMark (gen : Bool) (s : State) : State :=
  let n := s.cad.count.toNat
  let s0 := if !gen && s.cad.st = .locked && s.cad.fallback then { s with cad := { s.cad with fallback := false } } else s
  if !s0.cad.opened then openMinute n s0
  else
    match s0.cad.expected with
    | none => closeMinute n 0 s0
    | some e =>
      if apart n e ≤ 2 then closeMinute n (if n = e then 0 else 8) s0
      else
        let m := s0.pwr.cur
        let s1 := { s0 with pwr := { s0.pwr with cur := { m with strays := satAdd 16 m.strays 1 } } }
        if s0.cad.stray.any (fun q => n = q + s0.tpm) then closeMinute n 8 { s1 with cad := { s1.cad with stray := none } }
        else { s1 with cad := { s1.cad with stray := some n } }

/-- One tick: the count grows, slots fire, and a mark is judged. -/
def tickOnce (mark gen : Bool) (s : State) : State :=
  let m := s.pwr.cur
  let s1 := { s with
    cad := { s.cad with count := s.cad.count + 1 }
    pwr := if gen then { s.pwr with cur := { m with holdTicks := satAdd 32 m.holdTicks 1, flags := m.flags ||| 1 } } else s.pwr }
  let s2 := fireSlots s1
  if mark then judgeMark gen s2 else s2

/-- CADENCE_EDGE (R296 to R299): a rising edge with its period from the previous one and the width of its pulse, in 10 ns. Sixteen consecutive qualified edges lock the unit or end holdover; from then on each counts. -/
def execCadenceEdge (period high : Nat) (s : State) : Host.Outcome State Fault Refusal :=
  .next <| if !s.awake then s else
    let c := s.cad
    let isTick := tickWidth period high
    let isMark := markWidth period high
    let c1 := { c with
      allPeriods := (period :: c.allPeriods).take 64
      badRun := if isTick || isMark then 0 else min (c.badRun + 1) 3 }
    if !(nearNominal s.sec.nominal period && (isTick || isMark)) then { s with cad := { c1 with qualRun := 0 } }
    else
      let c2 := { c1 with periods := (period :: c.periods).take 64, lastQual := s.us, qualRun := min (c.qualRun + 1) 16 }
      if c.st = .locked then tickOnce isMark false { s with cad := c2 }
      else if c2.qualRun < 16 then { s with cad := c2 }
      else { s with cad := { c2 with st := .locked, badRun := 0, allPeriods := [], holdSince := none } }

/-- What entering holdover does (R299, R300): generated marks follow the expected one, TPM ticks on when there is none. -/
def enterHoldover (s : State) : State :=
  let c := s.cad
  recordFault (pageKey 0x50 0) 0x12 0x31 { s with cad := { c with
    st := .holdover, holdSince := some s.us, qualRun := 0, badRun := 0
    expected := some (c.expected.getD (c.count.toNat + s.tpm)) } }

/-- ACQUIRE_TIMEOUT (R297): 1 s after reset the unit has not locked and enters holdover at NOMINAL_HZ. -/
def execAcquireTimeout (s : State) : Host.Outcome State Fault Refusal :=
  .next <| if s.cad.st = .acquiring && 1000000 ≤ s.us then enterHoldover { s with cad := { s.cad with periods := [] } } else s

/-- MINUTE_MARK_MISSING (R298): no mark has come by the expected tick + 2, and the minute closes. -/
def execMinuteMarkMissing (s : State) : Host.Outcome State Fault Refusal :=
  .next <|
    let n := s.cad.count.toNat
    if s.cad.opened && s.cad.expected.any (fun e => decide (e + 2 ≤ n)) then closeMinute n 16 s else s

/-- The causes of holdover (R299). -/
def State.holdoverDue (s : State) : Bool :=
  let c := s.cad
  decide (4000000 ≤ (s.us - c.lastQual) * s.sec.nominal) || 3 ≤ c.badRun
    || (c.allPeriods.length = 64 && !(decide (64 * 99000000 ≤ c.allPeriods.sum * s.sec.nominal) && decide (c.allPeriods.sum * s.sec.nominal ≤ 64 * 101000000)))

/-- HOLDOVER_ENTRY (R299): silence, malformed pulses or drift put the locked unit into holdover. -/
def execHoldoverEntry (s : State) : Host.Outcome State Fault Refusal :=
  .next <| if s.cad.st = .locked && s.holdoverDue then enterHoldover s else s

/-- GENERATED_TICK (R299): in holdover a tick is generated, with a minute mark where one is expected. -/
def execGeneratedTick (s : State) : Host.Outcome State Fault Refusal :=
  .next <|
    if s.cad.st = .holdover then tickOnce (s.cad.expected = some (s.cad.count.toNat + 1)) true s else s

/-- FALLBACK_TIMEOUT (R300): after 60 s of holdover the fallback ceiling applies. -/
def execFallbackTimeout (s : State) : Host.Outcome State Fault Refusal :=
  .next <|
    if s.cad.st = .holdover && !s.cad.fallback && s.cad.holdSince.any (fun t => decide (60000000 + t ≤ s.us)) then
      flagTally 2 (recordFault (pageKey 0x58 0) 0x13 0x32 { s with cad := { s.cad with fallback := true } })
    else s

/-! ### Slots 0 to 2: the minute roll, the tally, the lead -/

/-- ENVELOPE_MINUTE_ROLL (R302, R304): slot 0 fires; a committed table comes into force, and the entry of the new minute. -/
def execEnvelopeMinuteRoll (s : State) : Host.Outcome State Fault Refusal :=
  .next <| onSlot 0 s fun s =>
    let p := s.pwr
    let e := s.envEntry
    let t := p.envNext.getD p.env
    { s with pwr := { p with
      cur := if p.cur.endTick.isSome then { p.cur with rolled := some (p.entry, e.ceiling, e.ramp, p.versionIn) } else p.cur
      env := t, envNext := none, versionIn := p.version
      entry := entryIndex t (s.alignAt s.cad.minute) s.cad.minute
      lead := false } }

/-- POWER_KEY_ID (R318): first 8 bytes of the SHA-512 of a public key (R346). -/
def keyId (k : BitVec 256) : Nat := leNat ((sha512 (natLe 32 k.toNat)).take 8)

/-- The tally of the minute that ended, without its signature (R318). -/
def State.tallyBody (s : State) (endTick : Nat) : List Byte :=
  let p := s.pwr
  let m := p.cur
  let seq := p.seq + 1
  let gap := p.tallies.any (fun q => q.1 = seq % 1440 && decide (p.fetched < (seq - 1440) % 2 ^ 32))
  let lost := if gap then satAdd 32 p.lost 1 else p.lost
  let (ix, ceil, ramp, ver) := m.rolled.getD (p.entry, s.envEntry.ceiling, s.envEntry.ramp, p.versionIn)
  let flags := m.flags ||| (32 * b2n p.partialStart + 64 * b2n p.restart + 128 * b2n gap + 256 * b2n (m.exceed ≠ 0)
    + 1024 * b2n s.cad.align.isNone + 2048 * b2n (m.ramp ≠ 0))
  let cs := match s.cad.st with | .locked => 0 | .holdover => 1 | .acquiring => 2
  natLe 2 1 ++ natLe 2 flags ++ natLe 4 lost ++ natLe 8 seq ++ natLe 6 s.cad.openTick ++ natLe 2 0
    ++ natLe 4 (endTick - s.cad.openTick) ++ natLe 4 ((s.cad.minute + 2 ^ 32 - 1) % 2 ^ 32) ++ natLe 8 (m.energy / 1000)
    ++ natLe 4 (m.peak / 1000) ++ natLe 4 (min m.peakEnd 0xFFFFFFFF) ++ natLe 2 ix ++ natLe 2 ceil ++ natLe 2 ramp ++ natLe 2 m.lowest ++ natLe 4 ver
    ++ natLe 4 m.exceed ++ natLe 4 m.ramp ++ natLe 4 m.dutyEv ++ natLe 2 m.downs ++ natLe 2 m.ups ++ natLe 2 m.parks
    ++ natLe 2 m.banks ++ natLe 4 m.thermal ++ natLe 1 cs ++ natLe 1 0 ++ natLe 2 m.strays ++ natLe 4 m.holdTicks
    ++ natLe 8 (match p.powerKey with | some k => keyId k | none => 0) ++ List.replicate 28 0 ++ natLe 64 p.digest.toNat

/-- TALLY_CLOSE (R302, R317 to R320): slot 1 fires; the record of the minute that ended is formed, and the next minute's counts begin. -/
def execTallyClose (s : State) : Host.Outcome State Fault Refusal :=
  .next <| onSlot 1 s fun s =>
    match s.pwr.cur.endTick with
    | none => s
    | some e =>
      if !s.powerRuns then s else
      let body := s.tallyBody e
      let fresh := { s.freshMinute with energy := s.pwr.cur.energy % 1000 }
      { s with
        cad := { s.cad with openTick := e }
        pwr := { s.pwr with
          closing := some body, closeGen := s.sec.powerGen, cur := fresh
          restart := false, partialStart := false, exceeded := false, unreach := false } }

/-- TALLY_SIGNED (R317 to R320): the closed tally is signed by the power key, placed in the ring with its complement, and is the head of the chain; its event is posted. -/
def execTallySigned (s : State) : Host.Outcome State Fault Refusal :=
  .next <|
    match s.pwr.closing with
    | none => s
    | some body =>
      let (sig, s1) := match s.pwr.powerKey with
        | some _ => (Config.sign s.pwr.closeGen body, s)
        | none => ((List.range 64).map (fun i => Config.recordByte s.freeCtr i), { s with freeCtr := s.freeCtr + 1 })
      let rec_ := body ++ (sig ++ List.replicate 64 0).take 64
      let seq := bytesAt body 8 8
      let s2 := { s1 with pwr := { s1.pwr with
        closing := none, tallies := sset s1.pwr.tallies (seq % 1440) rec_, tallyBad := s1.pwr.tallyBad.filter (· ≠ seq % 1440)
        seq := seq, digest := digest rec_, lost := bytesAt body 4 4 } }
      postEvent 0x08 0xFF 0 (natLe 8 seq ++ natLe 4 (bytesAt body 28 4) ++ natLe 2 (bytesAt body 2 2)) s2

/-- ENVELOPE_LEAD (R305): slot 2 fires, and the next entry's ceiling joins C(t); a mark that came on the same tick has rolled the minute that the lead was for. -/
def execEnvelopeLead (s : State) : Host.Outcome State Fault Refusal :=
  .next <| onSlot 2 s fun s => { s with pwr := { s.pwr with lead := s.pwr.lead || s.cad.expected = s.cad.ledFor } }

/-! ### Stagger triggers (R313, R315) -/

/-- A stagger trigger: every running context that is not excluded takes the new target, which replaces one it still holds (R313). A context that is being held for a target has consumed it: an earlier new one cuts the hold short (R315), and a later one waits for its next boundary (log entry 41). -/
def staggerTrigger (s : State) : State :=
  if !s.envEntry.stagger then { s with pwr := { s.pwr with ignored := satAdd 32 s.pwr.ignored 1 } }
  else
    let t := s.us + s.envEntry.offset
    { s with ctxs := s.ctxs.map (fun (p : Nat × Ctx) =>
        if p.2.st = .running && p.2.onTiles && p.2.stop.isNone && !s.pwr.exclude.getLsbD p.1 then
          (p.1, if p.2.heldFor.any (fun h => decide (t ≤ h)) then { p.2 with heldFor := some t, target := none } else { p.2 with target := some t })
        else p) }

/-- STAGGER_SLOT_FIRE (R313): slot 3 fires. -/
def execStaggerSlotFire (s : State) : Host.Outcome State Fault Refusal := .next <| onSlot 3 s staggerTrigger

/-- SYNC_IN_EDGE (R313): a rising edge on SYNC_IN is a trigger while it is the source. -/
def execSyncInEdge (s : State) : Host.Outcome State Fault Refusal :=
  .next <| if s.stagSource || !s.awake then s else staggerTrigger s

/-! ### Slots 4 to 15 -/

/-- SNAPSHOT_TICK_TRIGGER (R392): slot 4 fires; requests whose tick has come wait for their context's next boundary. -/
def execSnapshotTickTrigger (s : State) : Host.Outcome State Fault Refusal :=
  .next <| onSlot 4 s fun s =>
    { s with forn := { s.forn with snaps := s.forn.snaps.map (fun (p : Nat × Snap) =>
        if p.2.waits && decide (p.2.trigger ≤ s.cad.count.toNat) then (p.1, { p.2 with fired := true }) else p) } }

/-- The control-complex frame of a fingerprint (R342): bucket, round count, F and the 32 partials, in whole lines. -/
def printFrame (n : Nat) (f : FpRound) : List Byte :=
  natLe 8 n ++ natLe 8 f.round ++ natLe 8 f.total.toNat
    ++ (List.range 32).flatMap (fun k => natLe 8 (sgetD f.parts k 0).toNat) ++ List.replicate 40 0

/-- Sends the fingerprints of a bucket that wait, oldest first, while its link carries traffic and has credit. -/
def sendPrints (n : Nat) (s : State) : State :=
  match s.bucket n with
  | none => s
  | some b =>
    forAll b.toSend.reverse (fun f s =>
      let l := 2 * b.partnerPort
      if (s.link l).carries && (s.link l).canSend 2 && ((s.bucket n).any (fun b => decide (b.fpSent < f.round))) then
        (sendFrame l 2 b.ctx 0 (printFrame n f) s).modBucket n (fun b => { b with fpSent := f.round })
      else s) s

/-- REPLICA_CHECK_SEND (R342): slot 5 fires, and waiting fingerprints go to their cord partners. -/
def execReplicaCheckSend (s : State) : Host.Outcome State Fault Refusal :=
  .next <| onSlot 5 s fun s => forAll (s.buckets.map (·.1)) sendPrints s

/-- Body of a counter snapshot (R386). -/
def State.counterBody (s : State) : List Byte :=
  let w := fun (v : BitVec 64) => natLe 8 v.toNat
  (List.range 1536).flatMap (fun t => (List.range 52).flatMap (fun i => w (s.cumCounter t i)))
    ++ (List.range 32).flatMap (fun k =>
      let q := s.stack k
      w q.satRecords ++ w q.remoteW ++ w q.applied ++ (List.range 8).flatMap (fun b => w (s.stackBin k b)))
    ++ (List.range 32).flatMap (fun l =>
      (List.range 8).flatMap (fun i => if s.linkExists l then w (sgetD (s.link l).cnt i 0) else w 0))

/-- COUNTER_SNAPSHOT (R386): slot 6 fires, and a counter-snapshot record is written to the ash pit. -/
def execCounterSnapshot (s : State) : Host.Outcome State Fault Refusal :=
  .next <| onSlot 6 s fun s =>
    let len := 643904
    match reserveRecord len s with
    | (none, s1) => s1
    | (some a, s1) => nextSeq (s1.hbmWrite a (varHeader 0x03 0 0xFF 0 0 len 0 [] s1 ++ s.counterBody))

/-- TIMEOUT_TICK (R302, R341, R399): slot 7 fires on every tick; the watchdog of each running context and the timeout of each system barrier advance. -/
def execTimeoutTick (s : State) : Host.Outcome State Fault Refusal :=
  .next <| onSlot 7 s fun s =>
    { s with ctxs := s.ctxs.map (fun (p : Nat × Ctx) =>
        (p.1, { p.2 with
          wdTicks := if p.2.st = .running then p.2.wdTicks + 1 else p.2.wdTicks
          sysTicks := p.2.sysTicks.map (· + 1) })) }

/-- SOFTWARE_SLOT_FIRE (R302, R303): a software slot's firing posts its event; a PERIOD moves COMPARE on, and one that still lies at or below the count fires on the next tick with LATE. -/
def execSoftwareSlotFire (k : SlotId) (s : State) : Host.Outcome State Fault Refusal :=
  .next <|
    if k.val < 8 then s
    else onSlot k s fun s =>
      let x := s.slot k
      let s1 := postEvent 0x07 0xFF 0 (natLe 8 k ++ natLe 6 x.compare.toNat) s
      if x.period = 0 then s1
      else
        let c := x.compare + x.period.setWidth 48
        let past := decide (c.toNat ≤ s.cad.count.toNat)
        s1.modSlot k (fun x => { x with compare := c, due := past, late := x.late || past })

end Sys2Proof.Machine
end

