-- ==== Sys2Proof/Machine/Cords.lean ====
section
/-! DEFINITION. Cord links: states, the handshake, frames and control words received, quarantine, rekeying and system barriers (13_evl_and_cords.md R332 to R342). -/

namespace Sys2Proof.Machine

/-! ### States (R335, R339, R340) -/

/-- CORD_STATE.STATE of a state. -/
def linkCode : LinkState → Nat
  | .absent => 0
  | .training => 1
  | .authenticating => 2
  | .up => 3
  | .degraded => 4
  | .quarantined => 5

/-- Page of the port of a link. -/
def cordPage (l : Nat) : Nat := pageKey 0x40 (l / 2)

/-- A link changes state, and its event is posted; `reason` is that of an entry to QUARANTINED (R329). Sends that wait for a link which no longer carries traffic are discarded at the port (R339). -/
def setLinkState (l : Nat) (new : LinkState) (reason : Nat) (s : State) : State :=
  let old := (s.link l).st
  let carry := new = .up || new = .degraded
  let s1 := s.modLink l (fun k => { k with
    st := new
    joins := k.joins && new = .up
    upSince := if carry then some (k.upSince.getD s.us) else none
    degSince := if new = .degraded then some s.us else none })
  let s2 := postEvent 0x0A l 0 (natLe 1 l ++ natLe 1 (linkCode old) ++ natLe 1 (linkCode new) ++ natLe 1 reason) s1
  if carry then s2 else forAll (s2.tiles.map (·.1)) pumpSends s2

/-- A control word is an ARRIVE word. -/
def isArrive (w : BitVec 64) : Bool := w.toNat % 256 = 4

/-- Of the control words that wait, those that a link keeps while it carries no traffic: the ARRIVE words of barriers in progress (R341). -/
def Link.arrives (k : Link) : List (BitVec 64) := k.ctlOut.filter isArrive

/-- Back-off of the n-th quarantine in a row, in us (R340). -/
def backoffUs (n : Nat) : Nat := 1000000 * 2 ^ (min n 11 - 1)

/-- A link enters QUARANTINED for a reason (1 handshake, 2 tag rate, 3 complement, 4 protocol), with its fault; frames not delivered are discarded (R339, R340). -/
def quarantine (l reason code : Nat) (s : State) : State :=
  let n := min 11 ((s.link l).quars + 1)
  let s1 := recordFault (cordPage l) 0x10 code s
  let s2 := s1.modLink l (fun k => { k with quars := n, reason := reason, backoffEnd := s.us + backoffUs n, rxQ := [], ctlOut := k.arrives, rekey := 0 })
  setLinkState l .quarantined reason s2

/-- The mode of a port changes: the second link appears or goes (R332). -/
def applySplit (p : Nat) (s : State) : State :=
  let q := s.port p
  if q.split = q.splitWant then s
  else
    let s1 := s.modPort p (fun q => { q with split := q.splitWant })
    s1.setLink (2 * p + 1) { enable := (s1.link (2 * p + 1)).enable, timeout := (s1.link (2 * p + 1)).timeout, cnt := (s1.link (2 * p + 1)).cnt }

/-- No link of a port carries, trains or authenticates. -/
def State.portQuiet (s : State) (p : Nat) : Bool :=
  [2 * p, 2 * p + 1].all (fun l => !s.linkExists l || (s.link l).st = .absent || (s.link l).st = .quarantined)

/-- The words of a control frame. -/
def CordFrame.words (f : CordFrame) : List (BitVec 64) := (List.range (f.bytes.length / 16)).map (fun i => BitVec.ofNat 64 (bytesAt f.bytes (16 * i) 8))

/-- The bytes of a control frame: each word with its complement (R334). -/
def wordBytes (ws : List (BitVec 64)) : List Byte := ws.flatMap (fun w => natLe 8 w.toNat ++ natLe 8 (~~~w).toNat)

/-- A frame as it is sent again after a retraining, under its new number. DESIGN CHOICE (log entry 29): of a control frame the ARRIVE words; the others speak of numbers, credits and keys before the retraining, and a frame left without a word carries an ACK of no frame. -/
def CordFrame.renew (f : CordFrame) (seq : Nat) : CordFrame :=
  let ws := f.words.filter isArrive
  { f with
    seq := seq, replays := 0
    bytes := if f.cls ≠ 3 then f.bytes else wordBytes (if ws = [] then [ctlWord 0x01 0 (2 ^ 24 - 1)] else ws) }

/-- A link enters TRAINING: a mode change that waits takes effect, numbers and credits restart, and frames not acknowledged stay to be sent again. Frames received stay for the tiles that have not taken them, and those that the partner sends again because their ACK has not left are counted, so that each is delivered once (R322, R332, R334, R335). -/
def enterTraining (l : Nat) (s : State) : State :=
  let s1 := applySplit (l / 2) s
  if !s1.linkExists l then s1
  else
    let s2 := s1.modLink l (fun k => { k with
      rxNext := 0, ackLeft := 0, again := (k.rxNext + 2 ^ 24 - k.ackLeft) % 2 ^ 24 + k.again, twice := false
      rxQ := k.rxQ.map (fun f => { f with kept := true }), granted := [], ctlOut := k.arrives, lastCad := none, rekey := 0
      helloSent := [], helloGot := [], proofSent := [], proofOk := false, confSent := none, confGot := false
      txQ := k.txQ.zipIdx.map (fun p => p.1.renew p.2)
      txNext := k.txQ.length
      credit := k.txQ.foldl (fun m f => if f.cls = 3 then m else smod m f.cls 0 (· + 1)) [] })
    setLinkState l .training 0 s2

/-- A link that exists, is enabled and whose port is not fenced (R335, R366). -/
def State.linkFree (s : State) (l : Nat) : Bool := s.linkExists l && (s.link l).enable && !s.portFenced (l / 2) && !s.boot.crossFail

/-- CORD_SIGNAL_DETECT (R335): signal on an ABSENT link's lanes; the microcode of the ports runs from stage 3 on (R361). -/
def execCordSignalDetect (l : LinkId) (s : State) : Host.Outcome State Fault Refusal :=
  .next <|
    if s.linkFree l && (s.link l).st = .absent && 3 ≤ s.boot.stage then enterTraining l (s.modLink l (fun k => { k with signal := true })) else s

/-- The HELLO that this package sends (R336 step 1; log entries 9 and 13): key, certificate, nonce, X25519 value, microcode version and port mode. -/
def State.ownHello (s : State) (l : Nat) : List Byte :=
  natLe 32 s.sec.identPub.toNat ++ (s.sec.identCert ++ List.replicate 128 0).take 128
    ++ (List.range 32).map (fun i => Config.recordByte s.freeCtr i)
    ++ (Config.ephemeral l (s.link l).keyGen ++ List.replicate 32 0).take 32
    ++ natLe 4 (sgetD s.boot.running 3 0) ++ natLe 1 (b2n (s.port (l / 2)).split)

/-- HELLO goes out, with a fresh nonce and a fresh X25519 key (R336 step 1, R337). -/
def sendHello (l : Nat) (s : State) : State :=
  let h := s.ownHello l
  { s.modLink l (fun k => { k with helloSent := h, keyGen := k.keyGen + 1 }) with freeCtr := s.freeCtr + 1 }

/-- CORD_FEC_LOCK (R335, R336): FEC locks, at half width when lanes failed, and HELLO goes out. -/
def execCordFecLock (l : LinkId) (half : Bool) (s : State) : Host.Outcome State Fault Refusal :=
  .next <|
    if (s.link l).st ≠ .training || !s.linkExists l then s
    else setLinkState l .authenticating 0 (sendHello l (s.modLink l (fun k => { k with half := half })))

/-- CORD_TRAINING_TIMEOUT (R335): no lock within 100 ms. -/
def execCordTrainingTimeout (l : LinkId) (s : State) : Host.Outcome State Fault Refusal :=
  .next <| if (s.link l).st = .training then setLinkState l .absent 0 s else s

/-- CORD_SIGNAL_LOST (R335): a training link goes to ABSENT, one that carries traffic to TRAINING. -/
def execCordSignalLost (l : LinkId) (s : State) : Host.Outcome State Fault Refusal :=
  .next <|
    let s1 := s.modLink l (fun k => { k with signal := false })
    if (s.link l).st = .training then setLinkState l .absent 0 s1
    else if (s.link l).carries then enterTraining l s1
    else s1

/-! ### The handshake (R336) -/

def helloKey (h : List Byte) : BitVec 256 := BitVec.ofNat 256 (bytesAt h 0 32)
def helloVersion (h : List Byte) : Nat := bytesAt h 224 4
def helloMode (h : List Byte) : Nat := bytesAt h 228 1

/-- SHA-512 of the two HELLO messages, the one of the lower identity key first. -/
def helloDigest (a b : List Byte) : List Byte :=
  if beNat (a.take 32) < beNat (b.take 32) then sha512 (a ++ b) else sha512 (b ++ a)

/-- The partner policy accepts an identity (R356). -/
def State.partnerOk (s : State) (id : Nat) : Bool := !s.sec.allowList || s.sec.partners.any (fun p => p.toNat = id)

/-- The checks of step 2 on a HELLO whose certificate verifies or not. -/
def State.helloOk (s : State) (l : Nat) (h : List Byte) (certOk : Bool) : Bool :=
  let (lo, hi) := sgetD s.runBank.peers 18 (0, 0xFFFFFFFF)
  certOk && s.partnerOk (keyId (helloKey h)) && decide (lo ≤ helloVersion h) && decide (helloVersion h ≤ hi)
    && helloMode h = b2n (s.port (l / 2)).split

/-- Handshake frames are due: the link authenticates, or a rekey's exchange goes on (R336, R337). -/
def Link.shakes (k : Link) : Bool := k.st = .authenticating || (k.carries && (k.rekey = 1 || k.rekey = 3))

/-- A handshake frame that is not due is a protocol violation on a link that carries traffic (R339); a link in another state has no traffic. -/
def strayHandshake (l : Nat) (s : State) : State :=
  if (s.link l).carries then quarantine l 4 0x24 s else s

/-- HELLO (R336, R337): the partner's HELLO is checked, and PROOF goes out, signed over the two HELLO messages; `certOk` is the verification of the partner's certificate. -/
def execHello (l : LinkId) (frame : List Byte) (certOk : Bool) (s : State) : Host.Outcome State Fault Refusal :=
  .next <|
    if !(s.link l).shakes then strayHandshake l s
    else if s.helloOk l frame certOk then
      s.modLink l (fun k => { k with helloGot := frame, proofSent := Config.sign 0 (helloDigest k.helloSent frame) })
    else quarantine l 1 0x25 s

/-- Frames of the replay buffer go out again, under the key (R334, R335, R386). -/
def Link.resend (k : Link) (n : Nat) : Link := { k with frames := k.frames + n, cnt := smod k.cnt 2 0 (· + BitVec.ofNat 64 n) }

/-- The link is authenticated both ways: it carries traffic (R336 step 5), and the frames not acknowledged are sent again (R335). -/
def linkUp (l : Nat) (s : State) : State :=
  let k := s.link l
  let s1 := s.modLink l (fun k => Link.resend { k with partnerId := BitVec.ofNat 64 (keyId (helloKey k.helloGot)) } k.txQ.length)
  setLinkState l (if k.half then .degraded else .up) 0 s1

/-- VALUE of CONFIRM: the first 6 bytes of the digest of the two HELLO messages (R334). -/
def Link.confValue (k : Link) : Nat := leNat ((helloDigest k.helloSent k.helloGot).take 6)

/-- The PROOF holds, and keys are derived (R336 step 4). In a handshake the counts of frames under the key start again with it; in a rekey each direction goes over to the new key with its REKEY word of step 2 (R337). -/
def newKey (k : Link) : Link :=
  if k.st = .authenticating then { k with proofOk := true, frames := 0, framesRx := 0 } else { k with proofOk := true }

/-- PROOF (R336, R337): the partner's signature over the two HELLO messages is verified and keys are derived. In a handshake CONFIRM goes out under the new key, in a rekey the word of step 2, behind which frames go under it; `sigOk` is the verification, with a shared secret that is not all zeros. -/
def execProof (l : LinkId) (_frame : List Byte) (sigOk : Bool) (s : State) : Host.Outcome State Fault Refusal :=
  .next <|
    let k := s.link l
    if !k.shakes then strayHandshake l s
    else if k.helloGot = [] || !sigOk then quarantine l 1 0x25 s
    else if k.st = .authenticating then
      s.modLink l (fun k => { newKey k with
        confSent := some (ctlWord 0x07 0 k.confValue), frames := 1, cnt := smod k.cnt 0 0 (· + 1) })
    else sendWord l 0x06 2 0 (s.modLink l (fun k => { newKey k with rekey := if k.rekey = 3 then 0 else 2 }))

/-! ### Control words (R334, R411) -/

def wordOf (w : BitVec 128) : Nat := bf w.toNat 0 64
def wordArg (w : BitVec 128) : Nat := bf w.toNat 8 8
def wordValue (w : BitVec 128) : Nat := bf w.toNat 16 48
/-- The word is followed by its bitwise complement. -/
def wordOk (w : BitVec 128) : Bool := w.extractLsb' 64 64 = ~~~(w.extractLsb' 0 64)

/-- KIND of a control word. -/
def wordKind (w : BitVec 128) : Nat := bf w.toNat 0 8

/-- A frame under the key has been received (R337, R386). -/
def frameIn (l : Nat) (s : State) : State :=
  s.modLink l (fun k => { k with framesRx := k.framesRx + 1, cnt := smod k.cnt 1 0 (· + 1) })

/-- Where a frame with that SEQ stands to the next one expected (R334): it is the one, it lies behind it, ahead of it, or outside the window. -/
inductive SeqPlace where
  | due | behind | ahead | outside
deriving DecidableEq, Repr

/-- Place of a SEQ on a link. -/
def Link.place (k : Link) (seq : Nat) : SeqPlace :=
  let d := (seq + 2 ^ 24 - k.rxNext) % 2 ^ 24
  if d = 0 then .due else if 2 ^ 23 ≤ d then .behind else if 512 < d then .outside else .ahead

/-- ACK goes out for the last frame received in order (R334). -/
def sendAck (l : Nat) (s : State) : State := sendWord l 0x01 0 (((s.link l).rxNext + 2 ^ 24 - 1) % 2 ^ 24) s

/-- The frame expected has come in: the next one is. One that came in before a retraining already, without its ACK leaving, is not delivered twice (R322, R335). -/
def frameNext (l : Nat) (s : State) : State :=
  s.modLink l (fun k => { k with rxNext := (k.rxNext + 1) % 2 ^ 24, again := k.again - 1, twice := decide (0 < k.again) })

/-- What a frame does that is not the one expected: one behind is acknowledged again, one ahead makes a replay be asked for, and one outside the window is a protocol violation (R322, R334, R339). -/
def outOfOrder (l : Nat) (p : SeqPlace) (s : State) : State :=
  match p with
  | .due => s
  | .behind => sendAck l s
  | .ahead => sendWord l 0x02 0 (s.link l).rxNext s
  | .outside => quarantine l 4 0x22 s

/-- A frame that carries a word other than ACK is acknowledged; one of ACK words only is not, or two ends would acknowledge each other without end (log entry 29). -/
def ackWord (l kind : Nat) (s : State) : State := if kind = 1 then s else sendAck l s

/-- A control word of KIND `kind` reaches a link that carries traffic. One whose complement does not match quarantines the link, and so does an unknown KIND (R339); a word of another known KIND is another row's. The frame that carries it is taken in the order of its SEQ (R334), once for its first word; a word of a frame that is not taken, or taken before a retraining already, does nothing. -/
def onWord (l kind : Nat) (w : CordWord) (s : State) (f : State → State) : State :=
  let k := s.link l
  if !k.carries then s
  else if !wordOk w.bits then quarantine l 3 0x18 s
  else if wordKind w.bits = 0 || 7 < wordKind w.bits then quarantine l 4 0x24 s
  else if wordKind w.bits ≠ kind then s
  else if w.first then
    if k.place w.seq.toNat = .due then
      let s2 := ackWord l kind (frameNext l (frameIn l s))
      if 0 < k.again then s2 else f s2
    else outOfOrder l (k.place w.seq.toNat) (frameIn l s)
  else if w.seq + 1 = BitVec.ofNat 24 k.rxNext && !k.twice then f (ackWord l kind s)
  else s

/-- CONFIRM (R336 step 5): a word whose tag verifies and whose VALUE matches completes the handshake, once PROOF has been verified. -/
def execConfirm (l : LinkId) (word : BitVec 128) (tagOk : Bool) (s : State) : Host.Outcome State Fault Refusal :=
  .next <|
    let k := s.link l
    if k.st ≠ .authenticating then strayHandshake l s
    else if !wordOk word then quarantine l 3 0x18 s
    else if k.confSent.isNone || !tagOk || wordKind word ≠ 0x07 || wordValue word ≠ k.confValue then quarantine l 1 0x25 s
    else linkUp l (frameIn l (s.modLink l (fun k => { k with confGot := true })))

/-- AUTHENTICATION_TIMEOUT (R335): 50 ms have passed in AUTHENTICATING. -/
def execAuthenticationTimeout (l : LinkId) (s : State) : Host.Outcome State Fault Refusal :=
  .next <| if (s.link l).st = .authenticating then quarantine l 1 0x25 s else s

/-- ACK (R334): frames up to VALUE have been received in order and leave the replay buffer. -/
def execAck (l : LinkId) (word : CordWord) (s : State) : Host.Outcome State Fault Refusal :=
  .next <| onWord l 0x01 word s fun s =>
    let v := wordValue word.bits % 2 ^ 24
    s.modLink l (fun k =>
      if k.txQ.any (fun f => f.seq = v) then { k with txQ := (k.txQ.dropWhile (fun f => f.seq ≠ v)).drop 1 } else k)

/-- Frames of a list of times that lie within the last `n` us. -/
def within (us n : Nat) (ts : List Nat) : Nat := (ts.filter (fun t => us < t + n)).length

/-- The retry rate of the last second is above 1 frame in 10^5 (R335). -/
def Link.rateHigh (k : Link) (us : Nat) : Bool := decide (within us 1000000 k.sentTimes < 100000 * within us 1000000 k.retryTimes)

/-- REPLAY (R322, R334, R335): the frames from VALUE on are sent again. A frame no longer held, or one replayed 16 times, sends the link to TRAINING; a high retry rate degrades it. The replay buffer is read under its code, and its frames go through the cipher: an uncorrectable error there, or in the microcode, fences the port (R364, R409). -/
def execReplay (l : LinkId) (word : Checked CordWord) (s : State) : Host.Outcome State Fault Refusal :=
  .next <| onWord l 0x02 word.val s fun s =>
    let v := wordValue word.val.bits % 2 ^ 24
    let held := (s.link l).txQ.any (fun f => f.seq = v)
    let s := if held && word.ecc = .corrected then recordFault (pageKey 0x40 (l / 2)) 0x10 0x14 s else s
    let k := s.link l
    if held && word.ecc = .uncorrectable then raiseFence 2 (l / 2) (faultCode 0x10 0x10) (recordFault (pageKey 0x40 (l / 2)) 0x10 0x10 s)
    else if !held then (if v = k.txNext then s else enterTraining l s)
    else
      let old := k.txQ.takeWhile (fun f => f.seq ≠ v)
      let new := (k.txQ.dropWhile (fun f => f.seq ≠ v)).map (fun f => { f with replays := f.replays + 1 })
      let n := new.length
      let s1 := s.modLink l (fun k => { k.resend n with
        txQ := old ++ new
        retryTimes := List.replicate n s.us ++ k.retryTimes.filter (fun t => s.us < 10000000 + t) })
      if new.any (fun f => 16 ≤ f.replays) then enterTraining l s1
      else if k.st = .up && (s1.link l).rateHigh s.us then setLinkState l .degraded 0 s1
      else s1

/-- CREDIT (R334): frame credits of a class come back, and sends that waited go on. -/
def execCredit (l : LinkId) (word : CordWord) (s : State) : Host.Outcome State Fault Refusal :=
  .next <| onWord l 0x03 word s fun s =>
    if 2 < wordArg word.bits then quarantine l 4 0x24 s
    else
      let s1 := s.modLink l (fun k => { k with credit := smod k.credit (wordArg word.bits) 0 (· - wordValue word.bits) })
      forAll (s1.tiles.map (·.1)) pumpSends s1

/-- A frame or word for a context that is not live, or that does not permit the port, or names a tile outside the partition, is discarded (R338). -/
def discardCord (l : Nat) (s : State) : State :=
  recordFault (cordPage l) 0x10 0x20 (s.modLink l (fun k => { k with discarded := satAdd 32 k.discarded 1 }))

/-- ARRIVE (R341): counts toward the system barrier of its context, and is passed on; another superstep number is a protocol violation. -/
def execArrive (l : LinkId) (word : CordWord) (s : State) : Host.Outcome State Fault Refusal :=
  .next <| onWord l 0x04 word s fun s =>
    let n := wordArg word.bits
    match s.ctx n with
    | none => discardCord l s
    | some c =>
      if !c.permits l then discardCord l s
      else if wordValue word.bits ≠ c.superstep then quarantine l 4 0x26 s
      else sendArrives n (s.modCtx n (fun c => { c with sysMet := s.ctxCycles c, arriveIn := if c.arriveIn.contains l.val then c.arriveIn else c.arriveIn ++ [l.val] }))

/-- CADENCE (R28, R342): the partner's count at its mark is taken and compared. -/
def execCadence (l : LinkId) (word : CordWord) (s : State) : Host.Outcome State Fault Refusal :=
  .next <| onWord l 0x05 word s fun s =>
    let s1 := s.modLink l (fun k => { k with lastCad := some (wordValue word.bits, s.ownMark) })
    if s1.cad.opened then cadenceCheck false s1 else s1

/-! ### Rekeying (R337) -/

/-- REKEY (R337): step 1 is answered and starts a fresh exchange of HELLO and PROOF; step 2 says that the partner's frames go under the new key from here on. -/
def execRekey (l : LinkId) (word : CordWord) (s : State) : Host.Outcome State Fault Refusal :=
  .next <| onWord l 0x06 word s fun s =>
    let k := s.link l
    if wordArg word.bits = 1 && k.rekey = 0 then sendHello l (sendWord l 0x06 1 0 (s.modLink l (fun k => { k with rekey := 1, helloGot := [], proofOk := false })))
    else if wordArg word.bits = 1 && k.rekey = 1 then s
    else if wordArg word.bits = 2 && k.rekey = 1 then s.modLink l (fun k => { k with rekey := 3, framesRx := 0 })
    else if wordArg word.bits = 2 && k.rekey = 2 then s.modLink l (fun k => { k with rekey := 0, framesRx := 0 })
    else quarantine l 4 0x24 s

/-- REKEY_START (R337): 2^31 frames have gone under one key in either direction; the word of step 1 and a HELLO with a fresh X25519 value go out. -/
def execRekeyStart (l : LinkId) (s : State) : Host.Outcome State Fault Refusal :=
  .next <|
    let k := s.link l
    if k.carries && k.rekey = 0 && (2 ^ 31 ≤ k.frames || 2 ^ 31 ≤ k.framesRx) then
      sendHello l (sendWord l 0x06 1 0 (s.modLink l (fun k => { k with rekey := 1, helloGot := [], proofOk := false })))
    else s

/-! ### Data frames (R333, R338, R339) -/

def frameKind (f : List Byte) : Nat := bf (bytesAt f 0 1) 0 2
def frameClass (f : List Byte) : Nat := bf (bytesAt f 0 1) 2 2
def frameSeq (f : List Byte) : Nat := bytesAt f 1 3
def frameCtx (f : List Byte) : Nat := bf (bytesAt f 4 1) 0 6
def frameLines (f : List Byte) : Nat := bf (bytesAt f 5 1) 0 6
def frameMatch (f : List Byte) : Nat := bytesAt f 6 2
def framePayload (f : List Byte) : List Byte := ((f.drop 16).take (64 * frameLines f) ++ List.replicate (64 * frameLines f) 0).take (64 * frameLines f)

/-- The frame counts as passed on: its credit goes back to the partner. -/
def giveCredit (l cls : Nat) (s : State) : State :=
  sendWord l 0x03 cls 1 (s.modLink l (fun k => { k with granted := smod k.granted cls 0 (· - 1) }))

/-- A fingerprint frame of the partner's control complex reaches the buckets whose partner it names (R268, R342). -/
def takePrint (l : Nat) (f : CordFrame) (s : State) : State :=
  let b := bytesAt f.bytes 0 2
  let fp : FpRound := { round := bytesAt f.bytes 8 8, total := BitVec.ofNat 64 (bytesAt f.bytes 16 8)
                        parts := (List.range 32).map (fun k => (k, BitVec.ofNat 64 (bytesAt f.bytes (24 + 8 * k) 8))) }
  { s with buckets := s.buckets.map (fun (p : Nat × Bucket) =>
      if p.2.partnerCtx = 0xFF && p.2.partner = b && p.2.partnerPort = l / 2 && p.2.ctx = f.ctx then (p.1, { p.2 with partnerFps := fp :: p.2.partnerFps.filter (fun g => decide (p.2.compared < g.round) && g.round ≠ fp.round) }) else p) }

/-- Delivers a frame received in order (R338): plan data wait for a CORD_RECV, rick packets pass to the tile's rick on VN-L, and the control complex takes its own. -/
def deliverFrame (l : Nat) (f : CordFrame) (s : State) : State :=
  match s.ctx f.ctx with
  | none => giveCredit l f.cls (discardCord l s)
  | some c =>
    let m := f.tag % 2048
    if !c.permits l || (f.cls ≠ 2 && 16 * c.pw * c.ph ≤ m) then giveCredit l f.cls (discardCord l s)
    else if f.cls = 0 then s.modLink l (fun k => { k with rxQ := k.rxQ ++ [f] })
    else if f.cls = 1 then
      let t := c.relTile m
      giveCredit l 1 (inject t ((flitBytes f.bytes).map (fun b => { vn := .l, src := 4096 + l, dst := t, ctx := f.ctx, body := .rickData, bytes := b })) s)
    else giveCredit l 2 (takePrint l f s)

/-- CORD_DATA_FRAME_RECEIVE (R333, R334, R338, R339): a data frame as plaintext, with the check of its GCM tag. -/
def execCordDataFrameReceive (l : LinkId) (frame : List Byte) (tagOk : Bool) (s : State) : Host.Outcome State Fault Refusal :=
  .next <|
    let k := s.link l
    if !k.carries then s
    else if !tagOk then
      let ts := s.us :: k.tagTimes.filter (fun t => s.us < 1000000 + t)
      let s1 := s.modLink l (fun k => { k with tagFail := satAdd 32 k.tagFail 1, tagTimes := ts })
      if 8 < ts.length then quarantine l 2 0x23 s1 else sendWord l 0x02 0 k.rxNext s1
    else
      let s1 := frameIn l s
      let cls := frameClass frame
      if frameKind frame ≠ 0 || cls = 3 then quarantine l 4 0x24 s1
      else if k.place (frameSeq frame) ≠ .due then outOfOrder l (k.place (frameSeq frame)) s1
      else if classCredits cls ≤ sgetD k.granted cls 0 then quarantine l 4 0x21 s1
      else
        let f : CordFrame := { cls := cls, seq := frameSeq frame, ctx := frameCtx frame, tag := frameMatch frame, bytes := framePayload frame }
        let s2 := sendAck l (frameNext l (s1.modLink l (fun k => { k with granted := smod k.granted cls 0 (· + 1) })))
        if 0 < k.again then giveCredit l cls s2 else deliverFrame l f s2

/-! ### Recovery, quarantine and barriers -/

/-- CORD_DEGRADED_RECOVERY (R335): a full-width link whose retry rate has stayed below 1 in 10^6 for 10 s returns to UP. -/
def execCordDegradedRecovery (l : LinkId) (s : State) : Host.Outcome State Fault Refusal :=
  .next <|
    let k := s.link l
    if k.st = .degraded && !k.half && k.degSince.any (fun t => decide (10000000 + t ≤ s.us))
        && 1000000 * within s.us 10000000 k.retryTimes < max 1 (within s.us 10000000 k.sentTimes) then
      setLinkState l .up 0 s
    else s

/-- QUARANTINE_BACKOFF_EXPIRY (R340): the back-off has elapsed. -/
def execQuarantineBackoffExpiry (l : LinkId) (s : State) : Host.Outcome State Fault Refusal :=
  .next <| if (s.link l).st = .quarantined && (s.link l).backoffEnd ≤ s.us && s.linkFree l then enterTraining l s else s

/-- QUARANTINE_COUNT_RESET (R340): after 600 s UP or DEGRADED, n returns to 0. -/
def execQuarantineCountReset (l : LinkId) (s : State) : Host.Outcome State Fault Refusal :=
  .next <|
    let k := s.link l
    if k.carries && k.upSince.any (fun t => decide (600000000 + t ≤ s.us)) then s.modLink l (fun k => { k with quars := 0 }) else s

/-- SYSTEM_BARRIER_TIMEOUT (R341, R407): T ticks have passed since the local last arrival without every ARRIVE; the context stops with a class T fault, recorded on the lowest port on which ARRIVE is missing. -/
def execSystemBarrierTimeout (n : CtxId) (s : State) : Host.Outcome State Fault Refusal :=
  .next <|
    match s.ctx n with
    | none => s
    | some c =>
      match c.sysTicks with
      | none => s
      | some k =>
        let missing := (s.ctxLinks c).filter (fun l => !c.arriveIn.contains l)
        if k < c.sysT || missing = [] then s
        else stopContext n (faultCode 0x10 0x29) (recordFault (cordPage (missing.headD 0)) 0x10 0x29 s)

/-! ### CORD_CONFIG (R332, R335, R340) -/

/-- ENABLE: 0 holds the link in ABSENT; on a fenced port the link stays there whatever ENABLE says (R366). -/
def writeEnable (l : Nat) (on : Bool) (s : State) : State :=
  let s1 := s.modLink l (fun k => { k with enable := on })
  if on || (s.link l).st = .absent then s1
  else setLinkState l .absent 0 (s1.modLink l (fun k => { k with ctlOut := k.arrives, rekey := 0 }))

/-- SPLIT: takes effect at once when no link of the port carries traffic, else at its next entry to TRAINING. -/
def writeSplit (p : Nat) (on : Bool) (s : State) : State :=
  let s1 := s.modPort p (fun q => { q with splitWant := on })
  if s1.portQuiet p then applySplit p s1 else s1

/-- RELEASE: a write of 1 ends a quarantine early; n is kept. -/
def writeRelease (l : Nat) (s : State) : State :=
  if (s.link l).st = .quarantined && s.linkFree l then enterTraining l s else s

/-- A write of CORD_CONFIG of a link: its fields in the order SPLIT, RELEASE, ENABLE, so that a released port trains in the mode written with it (R332); SPLIT only at the first link's offset. -/
def writeCordConfig (l : Nat) (v : Word) (s : State) : State :=
  let s1 := if l % 2 = 0 then writeSplit (l / 2) (v.getLsbD 1) s else s
  let s2 := if v.getLsbD 2 then writeRelease l s1 else s1
  if v.getLsbD 0 ≠ (s2.link l).enable then writeEnable l (v.getLsbD 0) s2 else s2

end Sys2Proof.Machine
end

