-- ==== Sys2Proof/Machine/Evl.lean ====
section
/-! DEFINITION. The EVL port: training, frames, bulk requests and snoops (13_evl_and_cords.md R321 to R327). -/

namespace Sys2Proof.Machine

/-! ### Training (R321, R322) -/

/-- The first width, with its first lane group, whose four-lane groups all train: 16, then 8, then 4 lanes. -/
def evlWidth (lanes : BitVec 4) : Option (Nat × Nat) :=
  ([(0, [0, 1, 2, 3]), (1, [0, 1]), (1, [2, 3]), (2, [0]), (2, [1]), (2, [2]), (2, [3])].find?
    (fun p => p.2.all (fun g => lanes.getLsbD g))).map (fun p => (p.1, p.2.headD 0))

/-- One try at training; `lanes` says which groups of four lanes train. A change of width is posted. -/
def trainEvl (lanes : BitVec 4) (s : State) : State :=
  match evlWidth lanes with
  | none => { s with evl := { s.evl with tried := true } }
  | some (w, g) =>
    let e := s.evl
    let s1 := { s with evl := { e with
      up := true, width := w, group := g, tried := false
      rxNext := 0, rxWant := none, rxTries := 0, txNext := 0, txOldest := 0, replays := [], credits := [] } }
    if e.width = w && e.group = g then s1 else postEvent 0x0B 0xFF 0 (natLe 1 w ++ natLe 1 g) s1

/-- EVL trains from stage 3 on, and in RECOVERY, where the boot ROM offers the management channel (R362, R368, R371). -/
def State.evlServes (s : State) : Bool := (decide (3 ≤ s.stageNow) || s.boot.recovery) && !s.summary.dead && s.awake

/-- EVL_TRAINING (R321, R362): from stage 3 on, the link is trained. -/
def execEvlTraining (lanes : BitVec 4) (s : State) : Host.Outcome State Fault Refusal :=
  .next <| if s.evlServes && !s.evl.up && !s.evl.tried then trainEvl lanes s else s

/-- EVL_TRAINING_RETRY (R321): a link on which no width trained is tried again. -/
def execEvlTrainingRetry (lanes : BitVec 4) (s : State) : Host.Outcome State Fault Refusal :=
  .next <| if s.evlServes && !s.evl.up && s.evl.tried then trainEvl lanes s else s

/-- The link retrains: it is down until training succeeds (R322). Bulk requests without a completion fail: those that wait are not applied at all, and writes under way are applied fully, with no completion (R323). -/
def evlRetrain (s : State) : State :=
  { s with
    evl := { s.evl with
      up := false, tried := false, retrains := satAdd 32 s.evl.retrains 1
      waiting := s.evl.waiting.filter (fun w => match w with | .bulk .. => false | .bell .. => true) }
    tiles := s.tiles.map (fun p => if p.2.ops.any (·.host) then (p.1, { p.2 with ops := p.2.ops.map (fun o => if o.host then { o with lost := true } else o) }) else p) }

/-! ### Frames (R322, R324) -/

/-- `a` is later than or equal to `b`, by their difference modulo 2^32. -/
def seqLater (a b : Word) : Bool := decide ((a - b).toNat < 2 ^ 31)

/-- Units of a channel that the P1536 grants: coherent lines, bulk lines of write data, management requests (R324). -/
def evlGrant (chan : Nat) : Nat := if chan = 0 then 128 else if chan = 1 then 1024 else 16

/-- One frame goes out; the replay buffer holds the last 1,024. -/
def Evl.sendOne (e : Evl) : Evl :=
  let n := e.txNext + 1
  let old := if 1024 < (n - e.txOldest).toNat then e.txOldest + 1 else e.txOldest
  { e with txNext := n, txOldest := old, replays := e.replays.filter (fun p => p.1 ≠ e.txNext.toNat && decide ((BitVec.ofNat 32 p.1 - old).toNat < 1024)) }

/-- Frames held from one on. -/
def Evl.heldFrom (e : Evl) (n : Word) : List Nat := (List.range (e.txNext - n).toNat).map (fun i => (n + BitVec.ofNat 32 i).toNat)

/-- A replay request of the host; none when the link must retrain: the frame is no longer held, or has been replayed 8 times. -/
def Evl.replay (e : Evl) (n : Word) : Option Evl :=
  if (e.txNext - e.txOldest).toNat ≤ (n - e.txOldest).toNat then none
  else
    let fs := e.heldFrom n
    let m := fs.foldl (fun m f => smod m f 0 (· + 1)) e.replays
    if fs.any (fun f => 8 ≤ sgetD m f 0) then none else some { e with replays := m }

/-- The host asks for a replay from a frame: the buffer is read under its code (R409). -/
def evlReplayTo (n : Checked Word) (s : State) : Option State :=
  let s1 := if n.ecc = .corrected then recordFault (pageKey 0x48 0) 0x11 0x14 s else s
  if n.ecc = .uncorrectable then none
  else
    match s1.evl.replay n.val with
    | none => none
    | some e => some { s1 with evl := e }

/-- What a frame that FEC delivered asks of the replay buffer; none when the link must retrain. -/
def evlAsked (good : Bool) (want : Option (Checked Word)) (s : State) : Option State :=
  match want with
  | none => some s
  | some n => if good then evlReplayTo n s else some s

/-- The frame expected is asked for again. One that comes in again after a request and fails again has been replayed once more; after 8 times the link retrains (R322). -/
def evlAskAgain (again : Bool) (s : State) : State :=
  let e := s.evl
  let tries := if again && e.rxWant = some e.rxNext then e.rxTries + 1 else e.rxTries
  if 8 ≤ tries then evlRetrain s else { s with evl := Evl.sendOne { e with rxWant := some e.rxNext, rxTries := tries } }

/-- EVL_FRAME_RECEIVE (R322, R324): a frame of the host with its sequence number, whether FEC delivered it, its channel, the units of that channel that it takes, and the frame the host asks to be replayed, if any, with the check of the replay buffer (R409). A frame that takes more units than the credit left is an overrun. Write data hold their credit until their request is accepted; line and management requests are answered as they come (log entry 39). -/
def execEvlFrameReceive (seq : Word) (good : Bool) (chan : Fin 3) (units : Nat) (want : Option (Checked Word)) (s : State) : Host.Outcome State Fault Refusal :=
  .next <|
    if !s.evl.up then s
    else
      match evlAsked good want s with
      | none => evlRetrain s
      | some s1 =>
        let e := s1.evl
        if good && seq = e.rxNext then
          if evlGrant chan < sgetD e.credits chan 0 + units then evlRetrain (recordFault (pageKey 0x48 0) 0x11 0x21 s1)
          else { s1 with evl := Evl.sendOne { e with
            rxNext := e.rxNext + 1, rxAck := seq, rxWant := none, rxTries := 0
            credits := if chan = 1 then smod e.credits 1 0 (· + units) else e.credits } }
        else if good && !seqLater seq e.rxNext then { s1 with evl := e.sendOne }
        else evlAskAgain (seq = e.rxNext) s1

/-! ### Bulk requests (R326, R419) -/

def bWrite (h : BitVec 128) : Bool := h.getLsbD 0
def bCtx (h : BitVec 128) : Nat := bf h.toNat 8 6
def bTag (h : BitVec 128) : Nat := bf h.toNat 16 16
def bLines (h : BitVec 128) : Nat := bf h.toNat 32 16
def bAddr (h : BitVec 128) : Nat := bf h.toNat 64 48
def bBytes (h : BitVec 128) : Nat := 64 * bLines h

/-- First address of the store windows, and the bytes they take (R419). -/
def windowBase : Nat := 0x080000000000
def windowBytes : Nat := 1536 * 0x800000

/-- Tile, store, first physical billet, byte of it, and billets of a range of a store window; none where the window is reserved (R44). -/
def windowPlace (a n : Nat) : Option (Nat × StoreId × Nat × Nat × Nat) :=
  let part := bf a 20 3
  let out := fun (st : StoreId) (o : Nat) => some (bf a 23 20, st, o / 512, o % 512, ceilDiv (o % 512 + n) 512)
  if part < 4 then out .woodpile (bf a 0 22)
  else if part < 6 then out .tinder (bf a 0 21)
  else if part = 6 then out .ember (bf a 0 20)
  else if bf a 17 3 = 0 then out .imem (bf a 0 17)
  else none

/-- The request targets a store window. -/
def bWindow (h : BitVec 128) : Bool := decide (windowBase ≤ bAddr h) && decide (bAddr h < windowBase + windowBytes)
/-- The request targets HBM. -/
def bHbm (h : BitVec 128) : Bool := decide (bAddr h + bBytes h ≤ hbmBytes)

/-- The checks of a store range: the context named has a slice that holds it (R53), the access is of whole billets (R42), its region is not fenced, and it does not write the instruction slice of the context that runs on the tile (R64). -/
def windowChecks (s : State) (h : BitVec 128) : List (Bool × Nat) :=
  match windowPlace (bAddr h) (bBytes h) with
  | none => [(true, 0x06)]
  | some (t, st, i, off, n) =>
    let x := s.tile t
    match (x.slotOf (bCtx h)).bind x.entry with
    | none => [(true, 0x06)]
    | some e =>
      [ (off ≠ 0 || bBytes h % 512 ≠ 0, 0x03)
      , (decide (i < e.base st) || decide (e.base st + e.size st ≤ i), 0x06)
      , (decide (e.base st ≤ i) && decide (i < e.base st + e.size st) && decide (e.base st + e.size st < i + n), 0x05)
      , (bWrite h && st = .imem && x.slotOf (bCtx h) = x.run, 0x07)
      , (s.regionFenced (regionOf t), 0x09) ]

/-- CODE of the first failing check of a bulk request (R326, R382, R451). -/
def bulkRefusal (s : State) (h : BitVec 128) : Option Nat :=
  let a := bAddr h
  let n := bBytes h
  let named := bCtx h ≠ 0x3F
  let live := s.ctx (bCtx h)
  pickCode (
    [ (bf h.toNat 1 7 ≠ 0 || bf h.toNat 14 2 ≠ 0 || bf h.toNat 48 16 ≠ 0 || bf h.toNat 112 16 ≠ 0, 0x01)
    , (bLines h = 0 || decide (64 < bLines h), 0x02)
    , (a % 64 ≠ 0, 0x03)
    , (decide (4096 < a % 4096 + n), 0x05)
    , (!bHbm h && !bWindow h, 0x06)
    , (named && live.isNone, 0x07)
    , (named && bHbm h && live.any (fun c => !inAperture c a n), 0x06)
    , (!named && bWindow h, 0x06)
    , (!named && bHbm h && s.ctxs.any (fun p => p.2.apertures.any (fun q => rangesMeet a n q.1 q.2)), 0x06)
    , (bHbm h && bWrite h && s.bucketHeld a n, 0x07)
    , (bHbm h && (s.stack (s.stackOf a)).st = .untrained, 0x07)
    , (bHbm h && s.stackFenced (s.stackOf a), 0x09) ]
    ++ (if named && bWindow h && live.isSome then windowChecks s h else []))

/-- The completion of a bulk request. -/
def bulkDone (h : BitVec 128) (fc : Nat) (bs : List Byte) (s : State) : State :=
  { s with bulk := { tag := bTag h, code := fc, bytes := bs } }

/-- A bulk request of HBM: a banked stack is woken by it; a write lands whole, a read returns its lines, or none on an uncorrectable one. -/
def bulkHbm (h : BitVec 128) (data : List Byte) (ecc : HbmEcc) (s : State) : State :=
  let a := bAddr h
  let s1 := touchStack (s.stackOf a) s
  if bWrite h then bulkDone h 0 [] (s1.hbmWrite a ((data ++ List.replicate (bBytes h) 0).take (bBytes h)))
  else
    match ecc with
    | .clean => bulkDone h 0 (s.hbmRead a (bBytes h)) s1
    | .corrected => bulkDone h 0 (s.hbmRead a (bBytes h)) (hbmCorrected a s1)
    | .uncorrectable i r => bulkDone h (faultCode 0x0E 0x12) [] (hbmUncorrectables (failedLines a (bBytes h) i r) s1)

/-- A bulk request of a store window is accepted: a descriptor of the target tile, with its range entry when it writes (R54 to R56, R326). -/
def bulkStore (h : BitVec 128) (data : List Byte) (s : State) : State :=
  match windowPlace (bAddr h) (bBytes h) with
  | none => s
  | some (t, st, i, _, n) =>
    let x := s.tile t
    let w := bWrite h
    let id := x.nextOp
    let o : DmaOp := { id := id, ctx := bCtx h, slot := (x.slotOf (bCtx h)).getD 0, cmd := 0, start := s.cycle, host := true, physBase := i, store := st
                       issued := n, tag := bTag h, len := bBytes h, wr := w }
    let s1 := s.modTile t (fun x =>
      let y := { x with nextOp := id + 1, ops := x.ops ++ [o] }
      if w then y.addRange id st i n else y)
    forAll (List.range n) (fun k s =>
      if w then postWrite t .dma st (i + k) (((data ++ List.replicate (bBytes h) 0).drop (512 * k)).take 512) (.dma id k) s
      else postRead t .dma st (i + k) (.dma id k) s) s1

/-- It is a doorbell of a ring. -/
def EvlWait.bellOf (r : Nat) : EvlWait → Bool
  | .bulk .. => false
  | .bell q _ => q = r

/-- It is a bulk write. -/
def EvlWait.writes : EvlWait → Bool
  | .bulk h _ _ => bWrite h
  | .bell _ _ => false

/-- It is a bulk request. -/
def EvlWait.isBulk : EvlWait → Bool
  | .bulk .. => true
  | .bell .. => false

/-- A bulk write into a store window has not completed. -/
def State.bulkWrites (s : State) : Bool := s.tiles.any (fun p => p.2.ops.any (fun o => o.host && o.wr))

/-- Host reads of store windows that are outstanding (R324). -/
def State.hostReads (s : State) : Nat := (s.tiles.map (fun p => (p.2.ops.filter (fun o => o.host && !o.wr)).length)).sum

/-- Tile whose range table has no entry for a write of a store window (R56). -/
def State.rangeFull (s : State) (h : BitVec 128) : Option Nat :=
  match windowPlace (bAddr h) (bBytes h) with
  | some (t, st, _, _, _) => if bWindow h && bWrite h && decide (8 ≤ (s.tile t).rangeUse st) then some t else none
  | none => none

/-- A bulk request can be accepted: a write not before the writes that came earlier are in place (R327), nor while its range table is full (R56), a read of a store not while 512 are outstanding (R324), and a request of HBM not while a thermal trip has banked the stacks (R446). -/
def State.bulkCan (s : State) (blocked : Bool) (h : BitVec 128) : Bool :=
  !(bWrite h && (blocked || s.bulkWrites)) && (s.rangeFull h).isNone
    && !(bWindow h && !bWrite h && decide (512 ≤ s.hostReads)) && !(bHbm h && s.pins.thermLatch)

/-- Accepts or refuses a bulk request; the credit of its write data returns (R324, R326). -/
def acceptBulk (h : BitVec 128) (data : List Byte) (ecc : HbmEcc) (s : State) : State :=
  let s1 := if bWrite h then { s with evl := { s.evl with credits := smod s.evl.credits 1 0 (· - bLines h) } } else s
  match bulkRefusal s h with
  | some code => bulkDone h (faultCode 0x11 code) [] s1
  | none => if bWindow h then bulkStore h data s1 else bulkHbm h data ecc s1

/-- Takes the bulk requests that can be accepted, in arrival order; a write that must wait keeps back the writes behind it (R327). -/
def takeBulk : List EvlWait → Bool → State → List EvlWait × State
  | [], _, s => ([], s)
  | .bell r v :: ws, blocked, s => let (k, s1) := takeBulk ws blocked s; (.bell r v :: k, s1)
  | .bulk h d e :: ws, blocked, s =>
    if s.bulkCan blocked h then takeBulk ws blocked (acceptBulk h d e s)
    else let (k, s1) := takeBulk ws (blocked || bWrite h) s; (.bulk h d e :: k, s1)

/-- The bulk requests that wait go on as far as they can. -/
def pumpBulk (s : State) : State :=
  if s.evl.waiting = [] then s
  else
    let (k, s1) := takeBulk s.evl.waiting false s
    { s1 with evl := { s1.evl with waiting := k } }

/-- BULK_REQUEST (R326): a host bulk read or write is checked and carried out, or refused with a completion. One that must wait does so in arrival order (R56, R324, R327). -/
def execBulkRequest (head : BitVec 128) (data : List Byte) (ecc : HbmEcc) (s : State) : Host.Outcome State Fault Refusal :=
  .next <|
    if !s.evl.up then s
    else if (bulkRefusal s head).isSome then acceptBulk head data ecc s
    else pumpBulk { s with evl := { s.evl with waiting := s.evl.waiting ++ [.bulk head data ecc] } }

/-! ### The host-memory window (R325, R409) -/

/-- COHERENT_SNOOP (R325): a snoop of a line is answered: whether the control complex holds it, which it then gives up. With `line` the host takes the line to write it, and host memory has its new bytes. A cache word that fails its check is fetched again and recorded as corrected. -/
def execCoherentSnoop (addr : Nat) (line : Option (List Byte)) (ecc : Ecc) (s : State) : Host.Outcome State Fault Refusal :=
  .next <|
    let e := s.evl
    let inside := e.up && decide (e.winBase ≤ addr) && decide (addr < e.winBase + 4096 * e.winSize)
    let hit := inside && e.cache.contains (addr / 64)
    let s1 := { s with evl := { e with cache := e.cache.filter (· ≠ addr / 64) }, snoop := { bytes := [BitVec.ofNat 8 (b2n hit)] } }
    let s2 := match line with
      | some bs => if inside then s1.hostWrite (addr / 64 * 64) ((bs ++ List.replicate 64 0).take 64) else s1
      | none => s1
    if hit && ecc ≠ .clean then recordFault (pageKey 0x48 0) 0x11 0x14 s2 else s2

end Sys2Proof.Machine
end

