-- ==== Sys2Proof/Machine/Power.lean ====
section
/-! DEFINITION. The power manager: samples and averages, the working limit, duty, step requests, parking, the exceed counts, region transitions, idle stacks and temperatures (12_cadence_and_power.md R306 to R312, 19_package_and_pins.md R445, R446). -/

namespace Sys2Proof.Machine

/-! ### Averages (R310) -/

/-- The draw of the last `n` samples, scaled to `n` samples when fewer have been taken since reset. -/
def drawSum (n : Nat) (xs : List Nat) : Nat :=
  let ys := xs.take n
  if ys = [] then 0 else n * ys.sum / ys.length

/-- D10 in tenths of a W. -/
def Power.d10 (p : Power) : Nat := drawSum 10 p.samples
/-- D1ms in thousandths of a W. -/
def Power.d1ms (p : Power) : Nat := drawSum 1000 p.samples
/-- Lowest D10 of the preceding 1 ms, in tenths of a W. -/
def Power.lowD10 (p : Power) : Nat := p.d10s.foldl min (p.d10s.headD 0)

/-- RAIL_SAMPLE (R310, R317): one sample of the draw in W, 1 us after the one before; its energy in uJ belongs to the open minute. -/
def execRailSample (watts : Nat) (s : State) : Host.Outcome State Fault Refusal :=
  .next <| if !s.awake then s else
    let p := { s.pwr with samples := (watts :: s.pwr.samples).take 1000 }
    let m := p.cur
    let d := p.d1ms
    let us := s.us + 1
    let top := m.peak < d
    { s with
      us := us
      hbmStacks := s.hbmStacks.map (fun (p : Nat × Stack) =>
        let b := binOf p.2.staged.length 65536
        (p.1, if b = 0 then p.2 else { p.2 with hist := smod p.2.hist b 0 (· + 100) }))
      pwr := { p with
        d10s := (p.d10 :: p.d10s).take 1000
        cur := { m with energy := satAdd 64 m.energy watts, peak := if top then d else m.peak, peakEnd := if top then us - m.openUs else m.peakEnd } } }

/-! ### Temperatures (R311, R445) -/

/-- 100, 98, 95 and 93 degrees in units of 0.125 degrees. -/
def hotAt : Nat := 800
def coolAt : Nat := 784
def stackHotAt : Nat := 760
def stackCoolAt : Nat := 744

/-- 105 degrees: the trip (R446). -/
def tripAt : Nat := 840

/-- One new sensor reading: keys 0 to 23 are regions, 32 to 35 base dies, 64 to 95 stacks (log entry 8). -/
def takeTemp (p : Nat × Nat) (s : State) : State :=
  let t := p.2 % 2048
  if p.1 < 24 then
    s.modRegion p.1 (fun g => { g with temp := t, peak := max g.peak t, hot := if hotAt ≤ t then true else if t < coolAt then false else g.hot })
  else if 32 ≤ p.1 && p.1 < 36 then s.modDie (p.1 - 32) (fun d => { d with temp := t, peak := max d.peak t })
  else if 64 ≤ p.1 && p.1 < 96 then s.modStack (p.1 - 64) (fun k => { k with temp := t, peak := max k.peak t, refresh2 := decide (stackHotAt ≤ t) })
  else s

/-- THERM_ALERT_N, and with it SMB_ALERT_N, asserts (R445, R449). -/
def thermAlert (s : State) : State := { s with pins := { s.pins with thermAlert := true } }

/-- A thermal trip (R446): its fault is recorded, every region and stack is banked, the alert is latched, and every running context stops. -/
def tripAll (s : State) : State :=
  let fc := faultCode 0x13 0x30
  let s2 := recordFault (pageKey 0x58 0) 0x13 0x30 s
  let s3 := forAll (List.range 24) (fun j s => refuseWaiting j 0x07 (s.modRegion j (fun g =>
    if g.st = .dark then { g with request := 0 } else { g with st := .banked, goal := .banked, request := 0 }))) s2
  let s4 := forAll (List.range 32) (fun k s => s.modStack k (fun q => if q.st = .untrained then q else { q with st := .banked })) s3
  let run := (s4.ctxs.filter (fun p => p.2.onTiles && p.2.st = .running)).map (·.1)
  forAll run (fun c s => markStop c fc s) { s4 with pins := { s4.pins with thermAlert := true, thermLatch := true } }

/-- Sensor readings and what their thresholds ask for (R445): a region at 100 degrees or a stack at 95 asserts THERM_ALERT_N, and a junction, of a region or of a base die, at 105 trips, unless a trip has latched already. -/
def takeTemps (ts : List (Nat × Nat)) (s : State) : State :=
  let s1 := forAll ts takeTemp s
  let any := fun (lo hi at_ : Nat) => ts.any (fun p => decide (lo ≤ p.1) && decide (p.1 < hi) && decide (at_ ≤ p.2 % 2048))
  let s2 := if any 0 24 hotAt || any 64 96 stackHotAt then thermAlert s1 else s1
  if (any 0 24 tripAt || any 32 36 tripAt) && !s2.pins.thermLatch then tripAll s2 else s2

/-! ### Step groups -/

/-- Regions that duty acts on. -/
def Region.works (g : Region) : Bool := g.st = .lit && !g.parked

/-- Every step group, each by its regions, in order of their lowest region (R21). -/
def State.allGroups (s : State) : List (List Nat) :=
  (List.range 24).foldl (fun gs r => if gs.any (fun g => g.contains r) then gs else gs ++ [s.stepGroup r]) []

/-- The lit, unparked step groups, each by its regions, in order of their lowest region. -/
def State.groups (s : State) : List (List Nat) :=
  ((List.range 24).filter (fun r => (s.region r).works)).foldl (fun gs r =>
    if gs.any (fun g => g.contains r) then gs else gs ++ [s.stepGroup r]) []

def State.groupDuty (s : State) (rs : List Nat) : Nat := (rs.map (fun r => (s.region r).duty)).foldl max 0
def State.groupStep (s : State) (rs : List Nat) : Nat := (rs.map (fun r => (s.region r).step)).foldl max 0
/-- A region of the group that is not dark has reached 100 degrees and not fallen below 98 (R311). -/
def State.groupHot (s : State) (rs : List Nat) : Bool := rs.any (fun r => (s.region r).hot && (s.region r).st ≠ .dark)

/-- Changes every region of a group. -/
def modGroup (rs : List Nat) (f : Region → Region) (s : State) : State := forAll rs (fun r s => s.modRegion r f) s

/-! ### The rules over longer periods (R310) -/

/-- A group with no context running on it has no boundary to wait for and takes its step change at once (R22). -/
def idleStep (rs : List Nat) (s : State) : State :=
  if s.groupCtxs rs ≠ [] then s
  else
  let s := askAgain rs s
  match rs.findSome? (fun r => (s.region r).wantStep) with
  | none => s
  | some k =>
    if !s.stepDue rs then s
    else
      let down := decide (s.groupStep rs < k)
      let m := s.pwr.cur
      let s1 := { s with pwr := { s.pwr with cur := if down then { m with downs := satAdd 16 m.downs 1 } else { m with ups := satAdd 16 m.ups 1 } } }
      modGroup rs (fun g => { g with step := k, wantStep := none, again := none, settled := true, highSince := if 16 ≤ g.duty then some s.us else none, zeroSince := none }) s1

/-- Step requests of one group after its duty has been set. `low` says that D1ms < 0.85 L. -/
def stepRules (low : Bool) (rs : List Nat) (s : State) : State :=
  let d := s.groupDuty rs
  let k := s.groupStep rs
  let now := s.us
  let s1 := modGroup rs (fun g => { g with
    settled := true
    highSince := if 16 ≤ d then some (g.highSince.getD now) else none
    zeroSince := if d = 0 && low then some (g.zeroSince.getD now) else none }) s
  let since := fun (f : Region → Option Nat) (n : Nat) => rs.all (fun r => (f (s1.region r)).any (fun t => decide (t + n ≤ now)))
  let free := rs.all (fun r => (s1.region r).wantStep.isNone && (s1.region r).again.isNone)
  let s2 :=
    if !free then s1
    else if rs.any (fun r => (s1.region r).step ≠ k) then modGroup rs (fun g => { g with wantStep := some k }) s1
    else if k < 3 && since (·.highSince) 1000 then modGroup rs (fun g => { g with wantStep := some (k + 1) }) s1
    else if 0 < k && since (·.zeroSince) 10000 then modGroup rs (fun g => { g with wantStep := some (k - 1), settled := false }) s1
    else s1
  idleStep rs s2

/-- A group can be parked: no producer stream of a resident context has started, and no channel or FORWARD stream of a context outside the group has its peer there (R310). -/
def State.parkable (s : State) (rs : List Nat) : Bool :=
  let inside := fun (c : Ctx) => c.regions.any (fun r => rs.contains r)
  let here := (s.ctxs.filter (fun p => inside p.2)).map (·.1)
  let streams := (rs.flatMap regionTiles).any (fun t => (s.tile t).ops.any (fun o => o.stream && here.contains o.ctx))
  let peers := s.ctxs.any (fun p => !inside p.2 && p.2.chans.any (fun e => here.contains e.peerCtx))
  let fwd := s.tiles.any (fun x => x.2.rick.streams.any (fun q => q.2.defined && q.2.forward && !here.contains q.2.ctx && rs.contains (regionOf q.2.peerTile)))
  !streams && !peers && !fwd

/-- Highest priority of a context running on a group, plus 1; 0 when none runs. -/
def State.groupPrio (s : State) (rs : List Nat) : Nat :=
  ((s.groupCtxs rs).map (fun n => match s.ctx n with | some c => c.prio + 1 | none => 0)).foldl max 0

/-- The group that is parked next: the lowest priority, then the highest region ID. -/
def State.parkChoice (s : State) : Option (List Nat) :=
  (s.groups.filter s.parkable).foldl (fun best g =>
    match best with
    | none => some g
    | some b => if s.groupPrio g ≤ s.groupPrio b then some g else some b) none

/-- Parks a group: its running contexts are switched out at their next boundaries, and its regions then banked. -/
def parkGroup (rs : List Nat) (s : State) : State :=
  let cs := s.groupCtxs rs
  let m := s.pwr.cur
  let s1 := { modGroup rs (fun g => { g with parked := true }) s with
    pwr := { s.pwr with parked := rs :: s.pwr.parked, lastPark := s.us, cur := { m with parks := satAdd 16 m.parks 1 } } }
  parkSettle (forAll cs (fun n s => s.modCtx n (fun c => { c with parkOut := true })) s1)

/-- The last group parked returns at F3; a region of it that has been fenced meanwhile stays as its fence left it (R310, R366). -/
def unparkGroup (s : State) : State :=
  match s.pwr.parked with
  | [] => s
  | rs :: more =>
    let s0 := modGroup rs (fun g => { g with parked := false, step := 3, wantStep := none, again := none }) s
    let s1 := modGroup (rs.filter (fun r => !s.regionFenced r)) (fun g => { g with
      st := if g.st = .banked || (g.st = .transition && g.goal = .banked) then .transition else g.st
      goal := if g.st = .banked || (g.st = .transition && g.goal = .banked) then .lit else g.goal }) s0
    { s1 with
      pwr := { s1.pwr with parked := more, lastPark := s.us }
      ctxs := s1.ctxs.map (fun (p : Nat × Ctx) => if p.2.regions.any (fun r => rs.contains r) then (p.1, { p.2 with parkOut := false }) else p) }

/-- Every unparked group stands at F3 with duty 56/64. -/
def State.allDeep (s : State) : Bool := s.groups.all (fun g => s.groupStep g = 3 && s.groupDuty g = 56)

/-- Parking and unparking (R310). -/
def parkRules (s : State) : State :=
  let p := s.pwr
  let held := fun (f : Option Nat) => f.any (fun t => decide (10000 + t ≤ s.us))
  let free := decide (10000 + p.lastPark ≤ s.us)
  if s.allDeep && held p.over98 && s.envEntry.park && free then
    match s.parkChoice with
    | some g => parkGroup g s
    | none => s
  else if held p.under7 && free && !s.pins.thermLatch then unparkGroup s
  else s

/-! ### The evaluation -/

/-- Duty of a group after the first action whose condition holds, and the thermal rise (R310, R311). -/
def newDuty (act : Nat) (hot : Bool) (d : Nat) : Nat :=
  let a := if act = 1 then d + 4 else if act = 2 then d + 1 else if act = 3 && !hot then d - 1 else d
  min 56 (if hot then a + 1 else a)

/-- The action of an evaluation for a working ceiling of `l` and readings `d10` and `dms`: 1 raises the duty by 4, 2 by 1, 3 lowers it by 1, 0 leaves it (R310). -/
def dutyAction (l d10 dms : Nat) : Nat :=
  if l < d10 then 1 else if 98 * l < 100 * d10 then 2 else if 100 * d10 < 90 * l && dms < 90 * l then 3 else 0

/-- The limit of an evaluation, in tenths of a watt: the working ceiling, or what the ramp allows over the lowest reading (R310). -/
def State.evalLimit (s : State) : Nat := min (10 * s.workingC) (s.pwr.lowD10 + 10 * s.envEntry.ramp)

/-- Every group takes its duty: actions 1 and 2 are for the lit, unparked ones, the third for every group, and a hot region raises that of its group in any case (R310, R311). -/
def applyDuty (act : Nat) (s : State) : State :=
  forAll s.allGroups (fun g u =>
    let a := if act = 3 || g.any (fun r => (s.region r).works) then act else 0
    modGroup g (fun r => { r with duty := newDuty a (s.groupHot g) (s.groupDuty g) }) u) s

/-- What the evaluation keeps: its time, the limit, how long the readings have been over 98 % or under 70 % of it, and the counts of the tally (R305, R310, R315). -/
def noteEvaluation (l dms : Nat) (anyHot : Bool) (s : State) : State :=
  let p := s.pwr
  let c := s.workingC
  let above := decide (1000 * s.ceilingInForce < dms)
  { s with pwr := { p with
    evalUs := s.us, limit := l / 10, ceil := c, exceeded := p.exceeded || above
    over98 := if 98 * l < 100 * p.d10 then some (p.over98.getD s.us) else none
    under7 := if dms < 70 * l then some (p.under7.getD s.us) else none
    cur := { p.cur with
      lowest := min p.cur.lowest c
      exceed := satAdd 32 p.cur.exceed (b2n above)
      ramp := satAdd 32 p.cur.ramp (b2n (decide (p.lowD10 + 10 * s.envEntry.ramp < p.d10)))
      dutyEv := satAdd 32 p.cur.dutyEv (b2n (s.regions.any (fun q => decide (0 < q.2.duty))))
      thermal := satAdd 32 p.cur.thermal (b2n anyHot) } } }

/-- No action is left: every group is at its deepest, the reading is above the ceiling, and some group can not be parked (R310). -/
def State.unreachable (s : State) : Bool :=
  s.allDeep && decide (10 * s.workingC < s.pwr.d10) && (!s.envEntry.park || s.groups.any (fun g => !s.parkable g))

/-- POWER_EVALUATION (R305, R310 to R312): every 10 us the limit is formed, the first action whose condition holds is taken, the longer rules follow, and the counts of the tally are kept. -/
def execPowerEvaluation (temps : List (Nat × Nat)) (s : State) : Host.Outcome State Fault Refusal :=
  .next <|
    if s.us < s.pwr.evalUs + 10 || !s.powerRuns then s
    else
      let s0 := takeTemps temps s
      let l := s0.evalLimit
      let d := s0.pwr.d1ms
      let s1 := noteEvaluation l d (s0.allGroups.any s0.groupHot) (applyDuty (dutyAction l s0.pwr.d10 d) s0)
      let s2 := forAll s0.groups (stepRules (decide (d < 85 * l))) s1
      let s3 := if s2.unreachable then flagTally 512 { s2 with pwr := { s2.pwr with unreach := true } } else s2
      let s4 := parkRules s3
      if 9200000 < d then recordFault (pageKey 0x58 0) 0x13 0x34 s4 else s4

/-! ### Transitions of regions and stacks -/

/-- What a tile keeps when its region goes dark: the cumulative counts, which reset alone clears (R23, R379), and its router, which lies outside the gated domain and goes on forwarding (R198). Its banks are dark. -/
def Tile.goneDark (x : Tile) : Tile :=
  { ({} : Tile) with
    cum := x.cum, hist := x.hist, router := { x.router with inj := [] }
    bankSt := (List.range 88).map (fun b => (b, { st := .dark })) }

/-- A tile whose region is lit again: its dark banks wake, but for those that a gate register keeps dark (R63, R306). -/
def Tile.wakeBanks (x : Tile) : Tile :=
  { x with bankSt := x.bankSt.map (fun p =>
      let gated := (sgetD x.gate (if p.1 < 64 then p.1 / 32 else 2) 0).getLsbD (if p.1 < 64 then p.1 % 32 else p.1 - 64)
      if p.2.st = .dark && !gated then (p.1, { p.2 with st := .waking }) else p) }

/-- REGION_TRANSITION_COMPLETE (R306, R431): a region reaches the state its transition leads to; one that goes dark loses its tiles' state, and of a lit one the dark banks wake and it can take contexts. -/
def execRegionTransitionComplete (r : RegionId) (s : State) : Host.Outcome State Fault Refusal :=
  .next <|
    let g := s.region r
    if g.st ≠ .transition then s
    else
      let s1 := s.setRegion r { g with st := g.goal, request := 0, duty := if g.goal = .dark then 0 else g.duty, step := if g.goal = .dark then 3 else g.step }
      match g.goal with
      | .dark => forAll (regionTiles r) (fun t s => s.modTile t Tile.goneDark) s1
      | .lit => schedule (forAll ((regionTiles r).filter (fun t => shas s1.tiles t)) (fun t s => s.modTile t Tile.wakeBanks) s1)
      | _ => s1

/-- STACK_IDLE_BANK (R308): with BANK_STACKS set, an active stack with no request for 100 us is banked. -/
def execStackIdleBank (k : StackId) (s : State) : Host.Outcome State Fault Refusal :=
  .next <|
    if s.envEntry.bank && (s.stack k).st = .active && (s.stack k).lastReq + 100 ≤ s.us then
      let m := s.pwr.cur
      { s.modStack k (fun q => { q with st := .banked }) with
        pwr := { s.pwr with cur := { m with banks := satAdd 16 m.banks 1 } } }
    else s

/-- 64-byte lines of a stack. -/
def stackLines : Nat := 2 ^ 30

/-- PATROL_SCRUB (R177, R409): the scrub reads one line of a trained stack. What it finds is recorded, and does not count towards the fence of the stack; the last line ends a pass. An internal fault of the controller or sequencer, which the scrub runs through, fences the stack (R364; log entry 25). -/
def execPatrolScrub (k : StackId) (line : Nat) (ecc : ScrubCheck) (s : State) : Host.Outcome State Fault Refusal :=
  .next <|
    if (s.stack k).st = .untrained || stackLines ≤ line then s
    else
      let last := line + 1 = stackLines
      let s1 := s.modStack k (fun q => { q with
        progress := if last then 0 else (line + 1) <<< 16 / stackLines
        passes := if last then satAdd 16 q.passes 1 else q.passes })
      match ecc with
      | .clean => s1
      | .corrected => recordFault (pageKey 0x38 k) 0x0E 0x16 (s1.modStack k (fun q => { q with corrected := q.corrected + 1 }))
      | .internal => fenceStack k (faultCode 0x0E 0x10) (recordFault (pageKey 0x38 k) 0x0E 0x10 s1)
      | .uncorrectable =>
        recordFault (pageKey 0x38 k) 0x0E 0x12 (s1.modStack k (fun q => { q with
          uncorrected := satAdd 32 q.uncorrected 1, lastUe := BitVec.ofNat 32 (line + 2 ^ 30) }))

/-- STACK_HOT (R445): a stack at 95 degrees or above has its refresh rate doubled, and THERM_ALERT_N asserts. In reset the pin is released (R447). -/
def execStackHot (k : StackId) (temp : Nat) (s : State) : Host.Outcome State Fault Refusal :=
  .next <| if s.awake then takeTemps [(64 + k, temp)] s else s

/-- THERMAL_TRIP (R445, R446): a junction, of a region or of a base die, reports 105 degrees or more. The part is not in reset (R442). -/
def execThermalTrip (j : JunctionId) (temp : Nat) (s : State) : Host.Outcome State Fault Refusal :=
  .next <| if s.awake then takeTemps [(if j.val < 24 then j.val else j.val + 8, temp)] s else s

/-- THERM_ALERT_RELEASE (R445): every junction is below 98 degrees and every stack below 93, and no trip has latched the alert. -/
def execThermAlertRelease (s : State) : Host.Outcome State Fault Refusal :=
  .next <|
    let cool := (List.range 24).all (fun r => decide ((s.region r).temp < coolAt)) && (List.range 4).all (fun d => decide ((s.die d).temp < coolAt))
      && (List.range 32).all (fun k => decide ((s.stack k).temp < stackCoolAt))
    if cool && !s.pins.thermLatch then { s with pins := { s.pins with thermAlert := false } } else s

end Sys2Proof.Machine
end

