-- ==== Sys2Proof/Machine/Roles.lean ====
section
/-! DEFINITION. Signed role commands, the Settings Store, the audit log and attestation (R343 to R360, 14_roles_settings_trust.md). -/

namespace Sys2Proof.Machine

/-! ### The settings

Numbers of the settings in the model: 0 NOMINAL_HZ, 1 FALLBACK_W, 2 LEAD_TICKS, 3 STAGGER_CFG, 4 the envelope table, 5 ENVELOPE_CEILING, 6 the Operator key, 7 the Owner key, 8 the attestation key, 9 IMAGE_POLICY, 10 DEBUG_POLICY, 11 PARTNER_POLICY, 12 the partner identities, 13 the power key (log entry 17). -/

/-- Setting of a staged register, by page class × 4096 + offset (R426, R430). -/
def regSetting (k : Nat) : Option Nat :=
  if k = 0x50104 then some 0
  else if k = 0x5810C then some 1
  else if k = 0x58110 then some 2
  else if k = 0x58114 then some 3
  else if k = 0x6813C then some 5
  else if k = 0x68130 then some 9
  else if k = 0x68134 then some 10
  else if k = 0x68138 then some 11
  else none

/-- Register of a setting. -/
def settingReg (i : Nat) : Nat :=
  if i = 0 then 0x50104 else if i = 1 then 0x5810C else if i = 2 then 0x58110 else if i = 3 then 0x58114
  else if i = 5 then 0x6813C else if i = 9 then 0x68130 else if i = 10 then 0x68134 else 0x68138

/-- Role that owns a setting (R343): 1 Operator, 2 Owner. -/
def settingRole (i : Nat) : Nat := if i ≤ 6 || i = 13 then 1 else 2

/-- A register's value without its reserved bits (R6). -/
def regMask (i : Nat) (v : Word) : Word :=
  if i = 0 then v &&& 0x1FFFF
  else if i = 3 then v &&& 0xFFFF01FF
  else if i = 9 || i = 11 then v &&& 1
  else if i = 10 then v &&& 3
  else v &&& 0xFFFF

/-- A register's value lies in its range (R296, R300, R314, R352). -/
def regRange (i : Nat) (v : Word) : Bool :=
  let n := (regMask i v).toNat
  if i = 0 then decide (1000 ≤ n) && decide (n ≤ 100000)
  else if i = 1 || i = 5 then decide (400 ≤ n) && decide (n ≤ 8000)
  else if i = 3 then decide (bf n 0 8 ≤ 200) && decide (1 ≤ bf n 16 16)
  else true

/-- The committed value of a register setting (R430). -/
def State.settingWord (s : State) (i : Nat) : Word :=
  if i = 0 then BitVec.ofNat 32 s.sec.nominal
  else if i = 1 then BitVec.ofNat 32 s.pwr.fallbackW
  else if i = 2 then BitVec.ofNat 32 s.pwr.leadTicks
  else if i = 3 then s.pwr.stagCfg
  else if i = 5 then BitVec.ofNat 32 s.sec.ceiling
  else if i = 9 then BitVec.ofNat 32 (b2n s.sec.imagePol)
  else if i = 10 then BitVec.ofNat 32 s.sec.debugPol
  else BitVec.ofNat 32 (b2n s.sec.allowList)

/-- The bytes of an envelope table (R304). -/
def envBytes (t : List EnvEntry) : List Byte :=
  t.flatMap (fun e => natLe 2 e.ceiling ++ natLe 2 e.ramp ++ natLe 2 e.offset
    ++ natLe 1 (b2n e.stagger + 2 * b2n e.bank + 4 * b2n e.park) ++ natLe 1 0)

/-- The committed envelope table (R304): the one that waits for the next mark when there is one. -/
def State.envCommitted (s : State) : List EnvEntry := s.pwr.envNext.getD s.pwr.env

/-- The bytes of a key, none for no key. -/
def keyBytes (k : Option (BitVec 256)) : List Byte :=
  match k with
  | some k => natLe 32 k.toNat
  | none => []

/-- Key ID of a binding, 0 when none. -/
def boundId (k : Option (BitVec 256)) : Nat :=
  match k with
  | some k => keyId k
  | none => 0

/-- The bytes of a list of identities. -/
def idBytes (ids : List (BitVec 64)) : List Byte := ids.flatMap (fun k => natLe 8 k.toNat)

/-- The committed bytes of a setting. -/
def State.settingBytes (s : State) (i : Nat) : List Byte :=
  if i = 4 then envBytes s.envCommitted
  else if i = 6 then keyBytes s.sec.opKey
  else if i = 7 then keyBytes s.sec.ownKey
  else if i = 8 then keyBytes s.sec.attKey
  else if i = 12 then idBytes s.sec.partners
  else if i = 13 then keyBytes s.pwr.powerKey
  else natLe 4 (s.settingWord i).toNat

/-- Notches a setting has left, none for a setting without notches (R352). -/
def Security.notches (k : Security) (i : Nat) : Option Nat :=
  if i = 5 then some k.nCeil
  else if i = 6 then some k.nOp
  else if i = 7 then some k.nOwn
  else if i = 10 then some k.nDebug
  else none

/-- A setting loses a notch (R352); SEALED takes them all (R354). -/
def Security.notch (k : Security) (i : Nat) : Security :=
  if i = 5 then { k with nCeil := k.nCeil - 1 }
  else if i = 6 then { k with nOp := k.nOp - 1 }
  else if i = 7 then { k with nOwn := k.nOwn - 1 }
  else if i = 10 then { k with nDebug := if k.debugPol = 3 then 0 else k.nDebug - 1 }
  else k

/-! ### Staged changes (R350) -/

/-- The changes a role has staged. -/
def Security.staged (k : Security) (role : Nat) : Staged := if role = 1 then k.stOp else k.stOwn

/-- Replaces the changes a role has staged. -/
def Security.setStaged (k : Security) (role : Nat) (w : Staged) : Security :=
  if role = 1 then { k with stOp := w } else { k with stOwn := w }

/-- Number of changes staged (STAGED_COUNT). -/
def Staged.count (w : Staged) : Nat :=
  w.regs.length + b2n w.env.isSome + w.keys.length + b2n w.power + b2n w.partners.isSome

/-- A list of pairs with one replaced or added. -/
def putPair {α : Type} (xs : List (Nat × α)) (k : Nat) (v : α) : List (Nat × α) := xs.filter (fun p => p.1 ≠ k) ++ [(k, v)]

/-- The staged key of a setting 6, 7 or 8. -/
def Staged.key (w : Staged) (i : Nat) : Option (Option (BitVec 256)) := (w.keys.find? (fun p => p.1 = i)).map (·.2)

/-- The bytes a staged change gives a setting, none when it has no staged change. -/
def Staged.bytes (w : Staged) (i : Nat) : Option (List Byte) :=
  if i = 4 then w.env.map envBytes
  else if i = 6 || i = 7 || i = 8 then (w.key i).map keyBytes
  else if i = 12 then w.partners.map idBytes
  else if i = 13 then (if w.power then some [] else none)
  else (w.regs.find? (fun p => p.1 = settingReg i)).map (fun p => natLe 4 p.2.toNat)

/-- Settings whose staged value is a change: it differs from the committed one, or the record has failed (R349, R350). -/
def Staged.changes (s : State) (w : Staged) : List Nat :=
  (List.range 14).filter (fun i =>
    match w.bytes i with
    | none => false
    | some bs => i = 13 || bs ≠ s.settingBytes i || s.sec.recFailed.contains i)

/-- Why a STORE of these changes is refused, as a CODE (R349, R350 step 1, R352, R358): a notch that is not there, an entry of the table it leaves above the absolute ceiling it leaves, a full log. -/
def storeRefusal (s : State) (w : Staged) (entries : Nat) : Option Nat :=
  let cs := w.changes s
  let ceil := if cs.contains 5 then (w.regs.find? (fun p => p.1 = settingReg 5)).elim s.sec.ceiling (fun p => p.2.toNat) else s.sec.ceiling
  let table := if cs.contains 4 then w.env.getD [] else s.envCommitted
  if cs.any (fun i => (s.sec.notches i).any (fun n => n = 0 || s.sec.recFailed.contains i)) then some 0x0A
  else if (cs.contains 4 || cs.contains 5) && table.any (fun e => decide (ceil < e.ceiling)) then some 0x0A
  else if 1024 < s.sec.audit.length + cs.length + entries then some 0x0F
  else none

/-- A read of a record finds that copy A differs from its complement: copy B is taken, and A rewritten. With `both` the record has failed: it is reported, and CREATE_CONTEXT is refused until its role stores a new value (R349, R411). -/
def settingBad (i : Nat) (both : Bool) (s : State) : State :=
  if both then
    let s1 := recordFault (pageKey 0x68 0) 0x15 0x19 s
    { s1 with
      sec := { s1.sec with recFailed := nub (s1.sec.recFailed ++ [i]) }
      summary := { s1.summary with failedRec := (Config.recordId i).toNat } }
  else recordFault (pageKey 0x68 0) 0x15 0x18 s

/-! ### The audit log (R357, R358) -/

/-- Fresh free bytes (log entry 4). -/
def freeBytes (n : Nat) (s : State) : List Byte × State :=
  ((List.range n).map (fun i => Config.recordByte s.freeCtr i), { s with freeCtr := s.freeCtr + 1 })

/-- An entry as a read gives it: one that differs from its complement reads as zero (R411). -/
def Security.auditRead (k : Security) (e : List Byte) : List Byte :=
  if k.auditBad.contains (bytesAt e 0 4) then List.replicate 128 0 else e

/-- Digest of the newest entry, zeros when there is none. -/
def State.auditHead (s : State) : List Byte :=
  match s.sec.audit.getLast? with
  | some e => sha512 (s.sec.auditRead e)
  | none => List.replicate 64 0

/-- The newest entry is checked before another is chained to it (R411). -/
def checkHead (s : State) : State :=
  if s.sec.audit.getLast?.any (fun e => s.sec.auditBad.contains (bytesAt e 0 4)) then recordFault (pageKey 0x68 0) 0x15 0x18 s else s

/-- Appends an entry with the next SEQUENCE. -/
def appendAudit (rec role kind notches : Nat) (nonce signer value : List Byte) (s : State) : State :=
  let e := natLe 4 s.sec.auditSeq ++ natLe 2 rec ++ natLe 1 role ++ natLe 1 kind ++ natLe 6 s.cad.count.toNat ++ natLe 2 notches
    ++ nonce ++ signer ++ (value ++ List.replicate 32 0).take 32 ++ s.auditHead
  let s1 := checkHead s
  { s1 with sec := { s1.sec with audit := s1.sec.audit ++ [e], auditSeq := s1.sec.auditSeq + 1 } }

/-! ### Commit (R350, R353 to R356, R373, R374) -/

/-- Every carrying link whose partner fails the partner policy is quarantined (R350, R356). -/
def recheckPartners (s : State) : State :=
  forAll s.carryingLinks (fun l s => if s.partnerOk (s.link l).partnerId.toNat then s else quarantine l 1 0x25 s) s

/-- A setting takes its staged value (R350). -/
def commitValue (w : Staged) (i : Nat) (s : State) : State :=
  let v := ((w.regs.find? (fun p => p.1 = settingReg i)).map (·.2)).getD 0
  if i = 0 then flagTally 1 { s with sec := { s.sec with nominal := v.toNat }, cad := { s.cad with st := .acquiring, qualRun := 0, expected := none } }
  else if i = 1 then { s with pwr := { s.pwr with fallbackW := v.toNat } }
  else if i = 2 then { s with pwr := { s.pwr with leadTicks := v.toNat } }
  else if i = 3 then { s with pwr := { s.pwr with stagCfg := v } }
  else if i = 4 then { s with pwr := { s.pwr with envNext := w.env, version := (s.pwr.version + 1) % 2 ^ 32 } }
  else if i = 5 then { s with sec := { s.sec with ceiling := v.toNat } }
  else if i = 6 then { s with sec := { s.sec with opKey := (w.key 6).join } }
  else if i = 7 then { s with sec := { s.sec with ownKey := (w.key 7).join } }
  else if i = 8 then { s with sec := { s.sec with attKey := (w.key 8).join } }
  else if i = 9 then { s with sec := { s.sec with imagePol := v.getLsbD 0 } }
  else if i = 10 then { s with sec := { s.sec with debugPol := v.toNat } }
  else if i = 11 then { s with sec := { s.sec with allowList := v.getLsbD 0 } }
  else if i = 12 then { s with sec := { s.sec with partners := w.partners.getD [] } }
  else
    let g := s.sec.powerGen + 1
    let body := natLe 32 (Config.powerPublic g).toNat ++ natLe 8 (boundId s.sec.opKey) ++ natLe 8 s.pwr.seq ++ natLe 64 s.pwr.digest.toNat
    { s with
      sec := { s.sec with powerGen := g, powerCert := (Config.powerCert body (Config.sign 0 (sha512 body)) ++ List.replicate 128 0).take 128 }
      pwr := { s.pwr with powerKey := some (Config.powerPublic g) } }

/-- One changed record: its value, its notch, its audit entry (R350, R352, R357). -/
def commitOne (r : StoreRun) (i : Nat) (s : State) : State :=
  let s1 := commitValue r.work i s
  let s2 := { s1 with sec := { s1.sec.notch i with recFailed := s1.sec.recFailed.filter (· ≠ i) } }
  appendAudit (Config.recordId i).toNat r.role 1 ((s2.sec.notches i).getD 0xFFFF) (natLe 8 r.nonce.toNat) (natLe 8 r.signer.toNat)
    ((sha512 (Config.recordValue i (s2.settingBytes i))).take 32) s2

/-- The first STORE after a migration writes both copies in the new schema, raises each floor, and clears the old ash-pit header, at the next enable where the ash pit is disabled and nothing is written to it (R373, R374, R382). -/
def endMigration (s : State) : State :=
  let k := s.sec
  let s1 := if !s.boot.migrated then s else
    { s with
      boot := { s.boot with migrated := false, floor := (List.range 5).foldl (fun f i => sset f i (max (sgetD f i 0) (sgetD s.runBank.floors i 0))) s.boot.floor }
      sec := { k with schemaA := s.runBank.schema, schemaB := s.runBank.schema } }
  if !s1.sec.pitOld then s1
  else if s1.forn.pitOn then clearOldHeader s1
  else { s1 with sec := { s1.sec with pitClear := true } }

/-- Commits the changes of a run, writes the chain head and the ash-pit header (R320, R350, R384). -/
def commitRun (r : StoreRun) (s : State) : State :=
  let cs := r.work.changes s
  let s1 := forAll cs (commitOne r) s
  let s2 := { s1 with sec := { s1.sec with chainSeq := s1.pwr.seq, chainDig := s1.pwr.digest } }
  let s3 := if cs.contains 11 || cs.contains 12 then recheckPartners s2 else s2
  writeHeader (endMigration s3)

/-! ### The order of STOREs and releases -/

/-- What a release commits: no Owner key, no attestation key, no partner identities (R353). -/
def releaseWork : Staged := { keys := [(7, none), (8, none)], partners := some [] }

/-- LAST_REFUSAL (R347). -/
def noteRefusal (code op role step : Nat) (s : State) : State :=
  { s with sec := { s.sec with refusal := BitVec.ofNat 32 (faultCode 0x15 code) ||| BitVec.ofNat 32 (op % 256) <<< 16 ||| BitVec.ofNat 32 role <<< 24 ||| BitVec.ofNat 32 step <<< 26 } }

/-- Why a run cannot start: for a release also a live context, no Owner notch (R353), or an Owner-key record that has failed and is frozen (R349). -/
def runRefusal (s : State) (r : StoreRun) : Option Nat :=
  if r.release then
    if s.ctxs ≠ [] || s.sec.nOwn = 0 || s.sec.recFailed.contains 7 then some 0x0A
    else if 1024 < s.sec.audit.length + (releaseWork.changes s).length + 1 then some 0x0F
    else none
  else storeRefusal s (s.sec.staged r.role) 0

/-- Starts the first of the waiting runs that its checks allow; a refused STORE leaves its changes staged (R350). -/
def startRuns : List StoreRun → State → State
  | [], s => { s with sec := { s.sec with run := none, waiting := [], erasing := false } }
  | r :: rs, s =>
    match runRefusal s r with
    | some code =>
      let s1 := noteRefusal code (if r.release then 7 else 4) r.role 7 s
      startRuns rs (if code = 0x0F then { s1 with sec := { s1.sec with auditFull := true } } else s1)
    | none =>
      let k := s.sec
      if r.release then { s with sec := { k with run := some { r with work := releaseWork }, waiting := rs, erasing := true } }
      else { s with sec := { (k.setStaged r.role {}) with run := some { r with work := k.staged r.role }, waiting := rs, erasing := false } }

/-- A run joins the queue; it starts at once when none is in progress. -/
def queueRun (r : StoreRun) (s : State) : State :=
  if s.sec.run.isSome then { s with sec := { s.sec with waiting := s.sec.waiting ++ [r] } } else startRuns [r] s

/-- The completion event of a STORE or a release, on the ring EVT_ROUTE names for type 0x01 (R350; log entry 18). -/
def storeEvent (r : StoreRun) (s : State) : State :=
  postEvent 0x01 0xFF 0 (natLe 1 (if r.release then 7 else 4) ++ natLe 1 0xFF ++ natLe 1 0xFF ++ natLe 1 0xFF ++ natLe 2 0xFFFF) s

/-- The security block works on: the part is out of reset, and stage 2 has resolved the journal (R350, R442, R443). -/
def State.storesRun (s : State) : Bool := s.awake && decide (2 ≤ s.boot.stage) && !s.summary.dead

/-- STORE_COMPLETE (R350): the changes take effect, and the next STORE that waits starts. -/
def execStoreComplete (s : State) : Host.Outcome State Fault Refusal :=
  .next <|
    match s.sec.run with
    | none => s
    | some r => if r.release || !s.storesRun then s else startRuns s.sec.waiting (storeEvent r (commitRun r s))

/-- Every HBM byte, store billet, instruction slice and the ash pit, with the records and captures it holds, become zero (R353 step 2). -/
def eraseTenant (s : State) : State :=
  { s with
    hbm := []
    tiles := s.tiles.map (fun (p : Nat × Tile) => (p.1, { p.2 with store := [] }))
    forn := { s.forn with
      recs := [], recOldest := s.forn.recNext, caps := []
      cap := { s.forn.cap with tiles := [], saved := none, arrivals := [], toTake := [], output := [] } } }

/-- OWNER_RELEASE_COMPLETE (R353, R357): the erasure has ended; the bindings, the allow-list and STAGGER_EXCLUDE are cleared as a STORE of the Operator, which takes one Owner notch. -/
def execOwnerReleaseComplete (s : State) : Host.Outcome State Fault Refusal :=
  .next <|
    match s.sec.run with
    | none => s
    | some r =>
      if !r.release || !s.storesRun then s
      else
        let s1 := eraseTenant { s with pwr := { s.pwr with exclude := 0 } }
        let s2 := commitRun r s1
        let s3 := if s1.sec.ownKey.isSome then s2 else { s2 with sec := s2.sec.notch 7 }
        let (v, s4) := freeBytes 34 s3
        let s5 := appendAudit (leNat (v.drop 32)) 1 2 s4.sec.nOwn (natLe 8 r.nonce.toNat) (natLe 8 r.signer.toNat) v s4
        startRuns s5.sec.waiting (storeEvent r s5)

/-! ### Role commands (R346 to R348) -/

def rcRole (b : List Byte) : Nat := bf (bytesAt b 2 1) 0 2
def rcOp (b : List Byte) : Nat := bytesAt b 4 2
def rcLen (b : List Byte) : Nat := bytesAt b 6 2
def rcNonce (b : List Byte) : Nat := bytesAt b 8 8
def rcTime (b : List Byte) : Nat := bytesAt b 16 6
def rcBody (b : List Byte) : List Byte := (b.drop 64).take (rcLen b)
/-- Whether `n` bytes from byte `a` on are all 0. -/
def zeros (b : List Byte) (a n : Nat) : Bool := ((b.drop a).take n).all (fun x => x = 0)

/-- Step 1 of R347: FORMAT, reserved fields and LENGTH. -/
def rcForm (b : List Byte) : Bool :=
  let body := up64 (64 + rcLen b)
  bytesAt b 0 2 = 1 && bf (bytesAt b 2 1) 2 6 = 0 && rcRole b ≠ 0 && zeros b 3 1 && decide (rcLen b ≤ 3968)
    && zeros b 22 2 && zeros b 32 32 && b.length = body + 64 && zeros b (64 + rcLen b) (body - (64 + rcLen b))

/-- Key bound for a role (R343, R346). -/
def State.roleKey (s : State) (role : Nat) : Option (BitVec 256) :=
  if role = 1 then s.sec.opKey else if role = 2 then s.sec.ownKey else s.sec.attKey

/-- Key a role command is checked against (R347 step 3): the bound key; with none bound, the new key of a first BIND_KEY of KIND 1 from the sideband or KIND 2, and for its STORE the key so staged (R351; log entry 19). -/
def State.signerKey (s : State) (sideband : Bool) (b : List Byte) : Option (BitVec 256) :=
  match s.roleKey (rcRole b) with
  | some k => some k
  | none =>
    let body := rcBody b
    let kind := bytesAt body 0 1
    if rcOp b = 6 && ((rcRole b = 1 && kind = 1 && sideband) || (rcRole b = 2 && kind = 2)) then some (BitVec.ofNat 256 (bytesAt body 32 32))
    else if rcOp b = 4 && rcRole b = 1 then (s.sec.stOp.key 6).join
    else if rcOp b = 4 && rcRole b = 2 then (s.sec.stOwn.key 7).join
    else none

/-- Items of a WRITE_REGS body: register key and value. -/
def regItems (body : List Byte) : List (Nat × Word) :=
  (List.range (body.length / 16)).map (fun i =>
    (bytesAt body (16 * i) 8, BitVec.ofNat 32 (bytesAt body (16 * i + 8) 4)))

/-- Page class × 4096 + offset of an address in the register space of instance 0, none elsewhere. -/
def itemKey (a : Nat) : Option Nat :=
  let r := bf a 0 32
  if a >>> 32 = 0x0F00 && bf r 12 12 = 0 then some (4096 * bf r 24 8 + bf r 0 12) else none

/-- A WRITE_REGS item is valid for a role: it names an RL register of the role, with a value in its range (R348, R426). -/
def itemOk (role : Nat) (p : Nat × Word) : Bool :=
  match itemKey p.1 with
  | none => false
  | some k =>
    if k = 0x58118 || k = 0x5811C then role = 2
    else match regSetting k with
      | some i => settingRole i = role && regRange i p.2
      | none => false

/-- Envelope entries of a STAGE_ENVELOPE body, from byte 8 on (R304, R348). -/
def envItems (body : List Byte) : List EnvEntry :=
  (List.range (body.length / 8 - 1)).map (fun i =>
    let a := 8 * (i + 1)
    let f := bytesAt body (a + 6) 1
    { ceiling := bytesAt body a 2, ramp := bytesAt body (a + 2) 2, offset := bytesAt body (a + 4) 2
      stagger := bit f 0, bank := bit f 1, park := bit f 2 })

/-- An entry's fields lie in their ranges (R304). -/
def EnvEntry.ok (e : EnvEntry) : Bool :=
  decide (400 ≤ e.ceiling) && decide (e.ceiling ≤ 8000) && decide (10 ≤ e.ramp) && decide (e.ramp ≤ 8000) && decide (e.offset ≤ 10000)

/-- The table a STAGE_ENVELOPE leaves staged: FIRST replaces it, otherwise the entries are appended. -/
def envStaged (s : State) (body : List Byte) : List EnvEntry :=
  if bit (bytesAt body 0 1) 0 then envItems body else s.sec.stOp.env.getD [] ++ envItems body

/-- Audit entry an AUDIT_ACK names, by its place in the log: the sequence and the digest match (R358). -/
def State.ackPlace (s : State) (body : List Byte) : Option Nat :=
  (List.range s.sec.audit.length).find? (fun i =>
    let e := s.sec.audit.getD i []
    bytesAt e 0 4 = bytesAt body 0 4 && sha512 e = (body.drop 64).take 64)

/-- Setting a BIND_KEY of a KIND concerns. -/
def kindSetting (kind : Nat) : Nat := if kind = 1 then 6 else if kind = 2 then 7 else 8

/-- Step 6 of R347: the opcode is permitted to the role, and the body is valid (R348, R351, R353, R358). DESIGN CHOICE: R348 gives the entry index I of ENVELOPE_ALIGN no range, and every 16-bit value is taken (log entry 24). -/
def rcBodyOk (s : State) (b : List Byte) (chk : RoleCheck) : Bool :=
  let role := rcRole b
  let body := rcBody b
  let n := body.length
  if rcOp b = 1 then
    (role = 1 || role = 2) && decide (16 ≤ n) && n % 16 = 0 && decide (n ≤ 3968)
      && (List.range (n / 16)).all (fun i => zeros body (16 * i + 12) 4) && (regItems body).all (itemOk role)
  else if rcOp b = 2 then
    role = 1 && decide (16 ≤ n) && n % 8 = 0 && decide (bytesAt body 0 8 ≤ 1)
      && (List.range (n / 8 - 1)).all (fun i => decide (bytesAt body (8 * (i + 1) + 6) 2 < 8)) && (envItems body).all (·.ok)
      && decide ((envStaged s body).length ≤ 1440)
  else if rcOp b = 3 then role = 1 && n = 6
  else if rcOp b = 4 || rcOp b = 5 then (role = 1 || role = 2) && n = 0
  else if rcOp b = 6 then
    let kind := bytesAt body 0 1
    decide (1 ≤ kind) && decide (kind ≤ 4) && role = (if kind = 1 then 1 else 2) && n = 128 && zeros body 1 31
      && (if kind = 4 then zeros body 32 96 else chk.poss)
  else if rcOp b = 7 then role = 1 && n = 0 && s.ctxs = []
  else if rcOp b = 8 then role = 1 && n = 0
  else if rcOp b = 9 then role = 1 && n = 128 && zeros body 4 60 && chk.entry && (s.ackPlace body).any (fun i => !s.sec.auditBad.contains (bytesAt (s.sec.audit.getD i []) 0 4))
  else if rcOp b = 10 then role = 2 && n % 8 = 0 && decide (n ≤ 512)
  else if rcOp b = 11 then role = 3 && n = 32
  else false

/-- The first check of R347 that fails, as its step. -/
def rcStep (s : State) (sideband : Bool) (b : List Byte) (chk : RoleCheck) : Option Nat :=
  let n := rcNonce b
  let t := rcTime b
  let now := s.cad.count.toNat
  if !rcForm b then some 1
  else if bytesAt b 24 8 ≠ keyId s.sec.identPub then some 2
  else if (s.signerKey sideband b).isNone || !chk.sig then some 3
  else if n < (sgetD s.sec.nonces (rcRole b) 0).toNat || n = 2 ^ 64 - 1 then some 4
  else if now < t || 2 * s.tpm < now - t then some 5
  else if !rcBodyOk s b chk then some 6
  else none

/-- The reply to a role command, on the path by which it arrived (R331, R433, R449). -/
def roleReply (sideband : Bool) (code : Nat) (bs : List Byte) (s : State) : State :=
  if sideband then { s with sec := { s.sec with replyCode := code, reply := bs, replyAt := 0 } } else s.answer code bs

/-! ### Attestation (R360) -/

/-- FLAGS of a report. -/
def State.attFlags (s : State) (owner : Bool) : Nat :=
  b2n owner + 2 * b2n (s.cad.st = .holdover) + 4 * b2n s.sec.opKey.isSome + 8 * b2n s.sec.ownKey.isSome
    + 16 * b2n (s.sec.debugPol = 3)
    + 32 * b2n (s.fences.regions ≠ 0 || s.fences.hbmStacks ≠ 0 || s.fences.ports ≠ 0 || s.fences.dies ≠ 0)

/-- Number of a context's state (R274). -/
def ctxCode : CtxState → Nat
  | .pending => 1
  | .idle => 2
  | .running => 3
  | .paused => 4
  | .stopped => 5

/-- The Owner section: 72 bytes for each live context. -/
def State.ownerSection (s : State) : List Byte :=
  s.ctxs.flatMap (fun p => natLe 1 p.1 ++ natLe 1 (ctxCode p.2.st) ++ natLe 6 0 ++ natLe 64 p.2.digest.toNat)

/-- Bytes 0 to 703 of a report, sampled in one instant. -/
def State.attBody (s : State) (nonce : List Byte) (owner : Bool) : List Byte :=
  let k := s.sec
  let bank := s.runBank
  natLe 2 1 ++ natLe 2 (s.attFlags owner) ++ natLe 1 0xB0 ++ natLe 1 2 ++ natLe 1 k.debugPol ++ natLe 1 0
    ++ natLe 8 (keyId k.identPub) ++ (nonce ++ List.replicate 32 0).take 32 ++ natLe 6 s.cad.count.toNat ++ natLe 2 s.pwr.entry
    ++ natLe 4 s.pwr.version ++ natLe 2 k.ceiling ++ natLe 2 0
    ++ (List.range 5).flatMap (fun i => natLe 64 (sgetD bank.digests i 0).toNat)
    ++ (Config.settingsDigest ((List.range 14).map (fun i => (i, s.settingBytes i, (k.notches i).getD 0))) ++ List.replicate 64 0).take 64
    ++ s.auditHead ++ sha512 (envBytes s.envCommitted)
    ++ natLe 4 s.fences.regions.toNat ++ natLe 4 s.fences.hbmStacks.toNat ++ natLe 2 s.fences.ports.toNat ++ natLe 6 0
    ++ natLe 8 (boundId k.opKey) ++ natLe 8 (boundId k.ownKey) ++ natLe 8 (boundId s.pwr.powerKey) ++ natLe 24 0
    ++ (if owner then sha512 s.ownerSection else List.replicate 64 0)

/-- Starts a report. -/
def startReport (nonce : List Byte) (owner sideband : Bool) (s : State) : State :=
  let a : AttBuild := { body := s.attBody nonce owner, owner := owner, sideband := sideband, ownerPart := if owner then s.ownerSection else [] }
  { s with sec := { s.sec with attBuild := s.sec.attBuild ++ [a], attSt := if owner then s.sec.attSt else 1 } }

/-- ATTEST_REPORT_READY (R360, R433): the oldest report being built is signed by the identity key; one of ATTEST_OWNER goes into the reply, any other into ATTEST_DATA. -/
def execAttestReportReady (s : State) : Host.Outcome State Fault Refusal :=
  .next <|
    match s.sec.attBuild with
    | [] => s
    | a :: rest =>
      let rep := a.body ++ (Config.sign 0 (sha512 a.body) ++ List.replicate 64 0).take 64
      let s1 := { s with sec := { s.sec with attBuild := rest } }
      if a.owner then roleReply a.sideband 0 (rep ++ a.ownerPart) s1
      else { s1 with sec := { s1.sec with attData := rep, attSt := 2 } }

/-! ### What each opcode does -/

/-- Signer of a command: the key ID of the key it is checked against. -/
def signerId (s : State) (sideband : Bool) (b : List Byte) : BitVec 64 := BitVec.ofNat 64 (boundId (s.signerKey sideband b))

/-- WRITE_REGS: RL registers at once, others staged (R348, R350). -/
def doWriteRegs (b : List Byte) (s : State) : State :=
  forAll (regItems (rcBody b)) (fun p s =>
    match itemKey p.1 with
    | none => s
    | some k =>
      if k = 0x58118 then { s with pwr := { s.pwr with exclude := (s.pwr.exclude &&& 0xFFFFFFFF00000000) ||| p.2.setWidth 64 } }
      else if k = 0x5811C then { s with pwr := { s.pwr with exclude := (s.pwr.exclude &&& 0x00000000FFFFFFFF) ||| (p.2.setWidth 64 <<< 32) } }
      else match regSetting k with
        | none => s
        | some i =>
          let w := s.sec.staged (rcRole b)
          { s with sec := s.sec.setStaged (rcRole b) { w with regs := putPair w.regs k (regMask i p.2) } }) s

/-- STAGE_ENVELOPE (R304, R348). -/
def doStageEnvelope (b : List Byte) (s : State) : State :=
  { s with sec := { s.sec with stOp := { s.sec.stOp with env := some (envStaged s (rcBody b)) } } }

/-- ENVELOPE_ALIGN (R304): minute M and entry I; a minute at or after M takes its entry at once. -/
def doEnvelopeAlign (b : List Byte) (s : State) : State :=
  let body := rcBody b
  let s1 := { s with cad := { s.cad with align := some (bytesAt body 0 4, bytesAt body 4 2), alignOld := s.alignAt s.cad.minute } }
  { s1 with pwr := { s1.pwr with entry := entryIndex s1.pwr.env (s1.alignAt s1.cad.minute) s1.cad.minute } }

/-- STORE (R350). -/
def doStore (sideband : Bool) (b : List Byte) (s : State) : State :=
  queueRun { role := rcRole b, nonce := BitVec.ofNat 64 (rcNonce b), signer := signerId s sideband b } s

/-- DISCARD (R350). -/
def doDiscard (b : List Byte) (s : State) : State := { s with sec := s.sec.setStaged (rcRole b) {} }

/-- BIND_KEY (R351): stages a new key, or the clearing of the attestation binding. -/
def doBindKey (b : List Byte) (s : State) : State :=
  let body := rcBody b
  let kind := bytesAt body 0 1
  let w := s.sec.staged (rcRole b)
  let key : Option (BitVec 256) := if kind = 4 then none else some (BitVec.ofNat 256 (bytesAt body 32 32))
  { s with sec := s.sec.setStaged (rcRole b) { w with keys := putPair w.keys (kindSetting kind) key } }

/-- OWNER_RELEASE (R353). -/
def doOwnerRelease (sideband : Bool) (b : List Byte) (s : State) : State :=
  queueRun { role := 1, nonce := BitVec.ofNat 64 (rcNonce b), signer := signerId s sideband b, release := true } s

/-- POWER_KEY_BIND (R355). -/
def doPowerKeyBind (s : State) : State := { s with sec := { s.sec with stOp := { s.sec.stOp with power := true } } }

/-- AUDIT_ACK (R358): the entries up to the acknowledged one give way to one summary entry, whose PREV_DIGEST is the acknowledged entry's digest. -/
def doAuditAck (sideband : Bool) (b : List Byte) (s : State) : State :=
  let body := rcBody b
  match s.ackPlace body with
  | none => s
  | some i =>
    let k := s.sec
    let (nonce, s1) := freeBytes 8 s
    let e := natLe 4 k.auditSeq ++ natLe 2 0xFFFF ++ natLe 1 1 ++ natLe 1 3 ++ natLe 6 s.cad.count.toNat ++ natLe 2 0xFFFF
      ++ nonce ++ natLe 8 (signerId s sideband b).toNat ++ natLe 4 (i + 1) ++ List.replicate 28 0 ++ (body.drop 64).take 64
    { s1 with sec := { k with audit := k.audit.drop (i + 1) ++ [e], auditSeq := k.auditSeq + 1, auditFull := false } }

/-- STAGE_PARTNERS (R348). -/
def doStagePartners (b : List Byte) (s : State) : State :=
  let body := rcBody b
  let ids := (List.range (body.length / 8)).map (fun i => BitVec.ofNat 64 (bytesAt body (8 * i) 8))
  { s with sec := { s.sec with stOwn := { s.sec.stOwn with partners := some ids } } }

/-- ATTEST_OWNER (R360). -/
def doAttestOwner (sideband : Bool) (b : List Byte) (s : State) : State := startReport (rcBody b) true sideband s

/-- The effect of an accepted command, by opcode. -/
def roleEffect (sideband : Bool) (b : List Byte) (s : State) : State :=
  if rcOp b = 1 then doWriteRegs b s
  else if rcOp b = 2 then doStageEnvelope b s
  else if rcOp b = 3 then doEnvelopeAlign b s
  else if rcOp b = 4 then doStore sideband b s
  else if rcOp b = 5 then doDiscard b s
  else if rcOp b = 6 then doBindKey b s
  else if rcOp b = 7 then doOwnerRelease sideband b s
  else if rcOp b = 8 then doPowerKeyBind s
  else if rcOp b = 9 then doAuditAck sideband b s
  else if rcOp b = 10 then doStagePartners b s
  else doAttestOwner sideband b s

/-- The services of R368 answer: from stage 3 on, or in RECOVERY, while the security block works (R362, R371). -/
def State.serves (s : State) : Bool := (decide (3 ≤ s.stageNow) || s.boot.recovery) && !s.summary.dead && s.awake

/-- The nonce of the role moves on before the command acts (R347). -/
def advanceNonce (b : List Byte) (s : State) : State :=
  { s with sec := { s.sec with nonces := sset s.sec.nonces (rcRole b) (BitVec.ofNat 64 (rcNonce b + 1)) } }

/-- An AUDIT_ACK reads the entry it names; one that differs from its complement is noted (R411). -/
def noteEntry (b : List Byte) (chk : RoleCheck) (s : State) : State :=
  let q := bytesAt (rcBody b) 0 4
  if rcOp b = 9 && rcRole b = 1 && !chk.entry && s.sec.audit.any (fun e => bytesAt e 0 4 = q) then
    let s1 := recordFault (pageKey 0x68 0) 0x15 0x18 s
    { s1 with sec := { s1.sec with auditBad := nub (s1.sec.auditBad ++ [q]) } }
  else s

/-- The newest entry as the command's change will find it; one that differs from its complement is noted, and its fault recorded before another is chained to it (R357, R411). -/
def noteHead (chk : RoleCheck) (s : State) : State :=
  match s.sec.audit.getLast? with
  | some e => if chk.head then s else { s with sec := { s.sec with auditBad := nub (s.sec.auditBad ++ [bytesAt e 0 4]) } }
  | none => s

/-- A role command is refused: LAST_REFUSAL and the reply carry the code, and nothing changes (R347, R412). -/
def refuseRole (sideband : Bool) (b : List Byte) (step : Nat) (s : State) : State :=
  roleReply sideband (faultCode 0x15 0x0A) [] (noteRefusal 0x0A (rcOp b) (rcRole b) step s)

/-- A role command (R347): checked in order, its nonce advanced, then carried out. A STORE or release refused by its own checks replies with that refusal. -/
def roleCommand (sideband : Bool) (b : List Byte) (chk : RoleCheck) (s : State) : State :=
  match rcStep s sideband b chk with
  | some step => refuseRole sideband b step (if step = 6 then noteEntry b chk s else s)
  | none =>
    let s1 := roleEffect sideband b (noteHead chk (advanceNonce b { s with sec := { s.sec with refusal := 0 } }))
    let code := bf s1.sec.refusal.toNat 0 16
    let s2 := if code = 0 then { s1 with sec := { s1.sec with refusal := s.sec.refusal } } else s1
    if rcOp b = 11 then s2 else roleReply sideband code [] s2

/-- A command with that opcode is checked and carried out; other bytes are no such command. -/
def roleRow (op : Nat) (sideband : Bool) (b : List Byte) (chk : RoleCheck) (s : State) : State :=
  if s.serves && rcOp b = op then roleCommand sideband b chk s else s

/-- ROLE_COMMAND (R346, R347). -/
def execRoleCommand (sideband : Bool) (b : List Byte) (chk : RoleCheck) (s : State) : Host.Outcome State Fault Refusal :=
  .next <| if s.serves then roleCommand sideband b chk s else s

/-- WRITE_REGS (R348). -/
def execWriteRegs (sideband : Bool) (b : List Byte) (chk : RoleCheck) (s : State) : Host.Outcome State Fault Refusal := .next <| roleRow 1 sideband b chk s
/-- STAGE_ENVELOPE (R304, R348). -/
def execStageEnvelope (sideband : Bool) (b : List Byte) (chk : RoleCheck) (s : State) : Host.Outcome State Fault Refusal := .next <| roleRow 2 sideband b chk s
/-- ENVELOPE_ALIGN (R304). -/
def execEnvelopeAlign (sideband : Bool) (b : List Byte) (chk : RoleCheck) (s : State) : Host.Outcome State Fault Refusal := .next <| roleRow 3 sideband b chk s
/-- STORE (R350). -/
def execStore (sideband : Bool) (b : List Byte) (chk : RoleCheck) (s : State) : Host.Outcome State Fault Refusal := .next <| roleRow 4 sideband b chk s
/-- DISCARD (R350). -/
def execDiscardStaged (sideband : Bool) (b : List Byte) (chk : RoleCheck) (s : State) : Host.Outcome State Fault Refusal := .next <| roleRow 5 sideband b chk s
/-- BIND_KEY (R351). -/
def execBindKey (sideband : Bool) (b : List Byte) (chk : RoleCheck) (s : State) : Host.Outcome State Fault Refusal := .next <| roleRow 6 sideband b chk s
/-- OWNER_RELEASE (R353). -/
def execOwnerRelease (sideband : Bool) (b : List Byte) (chk : RoleCheck) (s : State) : Host.Outcome State Fault Refusal := .next <| roleRow 7 sideband b chk s
/-- POWER_KEY_BIND (R355). -/
def execPowerKeyBind (sideband : Bool) (b : List Byte) (chk : RoleCheck) (s : State) : Host.Outcome State Fault Refusal := .next <| roleRow 8 sideband b chk s
/-- AUDIT_ACK (R358). -/
def execAuditAck (sideband : Bool) (b : List Byte) (chk : RoleCheck) (s : State) : Host.Outcome State Fault Refusal := .next <| roleRow 9 sideband b chk s
/-- STAGE_PARTNERS (R348). -/
def execStagePartners (sideband : Bool) (b : List Byte) (chk : RoleCheck) (s : State) : Host.Outcome State Fault Refusal := .next <| roleRow 10 sideband b chk s
/-- ATTEST_OWNER (R360). -/
def execAttestOwner (sideband : Bool) (b : List Byte) (chk : RoleCheck) (s : State) : Host.Outcome State Fault Refusal := .next <| roleRow 11 sideband b chk s

/-! ### ATTEST_CTRL (R345, R360, R433) -/

/-- A write of ATTEST_CTRL: REQUEST starts a report with the nonce of ATTEST_NONCE, or is refused while one is being built. -/
def writeAttest (v : Word) (s : State) : State :=
  if !v.getLsbD 0 then s.answer 0 []
  else if s.sec.attSt = 1 then refuseAccess (pageKey 0x68 0) 0x15 0x07 s
  else (startReport ((List.range 8).flatMap (fun i => natLe 4 (sgetD s.sec.attNonce i 0).toNat)) false false s).answer 0 []

/-- ATTEST_REQUEST (R433): the sideband has no register access (R9). -/
def execAttestRequest (src : Source) (v : Word) (s : State) : Host.Outcome State Fault Refusal :=
  .next <|
    if !s.serves then s
    else if src = .sideband then refuseAccess (pageKey 0x68 0) 0x15 0x07 s
    else writeAttest v s

end Sys2Proof.Machine
end

