-- ==== Sys2Proof/Machine/Boot.lean ====
section
/-! DEFINITION. Reset, start-up, migration and the darkening of fenced regions (R361 to R374, R442, R443; 15_start_and_update.md, 19_package_and_pins.md). -/

namespace Sys2Proof.Machine

/-! ### Reset (R27, R361, R367, R443) -/

/-- The address that names the same byte of the same stack under another granule (R420). -/
def regrain (g g' a : Nat) : Nat :=
  let q := a >>> g
  let l := (q / 32) <<< g + a % 2 ^ g
  ((l >>> g') * 32 + q % 32) <<< g' + l % 2 ^ g'

/-- HBM under another granule: no data moves, so each byte goes under the address that now names it (R420). -/
def regrainMem (g g' : Nat) (m : Memory) : Memory :=
  if g = g' then m else m.foldl (fun n p => memPut n (regrain g g' p.1) p.2) []

/-- What the Settings Store keeps of the security block across a reset; an open journal stays for stage 2 (R350). -/
def Security.kept (k : Security) : Security :=
  { k with
    stOp := {}, stOwn := {}, waiting := []
    run := match k.run with
      | some r => if r.release then none else some r
      | none => none
    auditSel := 0, debugIn := k.debugPol, recFailed := [], refusal := 0, attNonce := [], attSt := 0, attBuild := [], attData := []
    reply := [], replyCode := 0, replyAt := 0, chunks := [], erasing := false }

/-- The package after a reset: the Settings Store and the flash survive (R27, R371), host memory is the host's, and HBM keeps its bytes unless power was lost (R384). -/
def resetPackage (keep : Bool) (s : State) : State :=
  let r := State.reset
  { r with
    pending := s.pending
    freeCtr := s.freeCtr
    hostMem := s.hostMem
    hbm := if keep then regrainMem s.granule r.granule s.hbm else []
    sec := s.sec.kept
    boot := { r.boot with active := s.boot.active, bank := s.boot.active, bankA := s.boot.bankA, bankB := s.boot.bankB, floor := s.boot.floor }
    pins := { r.pins with pwrOk := s.pins.pwrOk, resetN := s.pins.resetN }
    pwr := { r.pwr with
      env := s.envCommitted, version := s.pwr.version, versionIn := s.pwr.version, entry := lowestEntry s.envCommitted
      fallbackW := s.pwr.fallbackW, leadTicks := s.pwr.leadTicks, stagCfg := s.pwr.stagCfg, powerKey := s.pwr.powerKey
      seq := s.sec.chainSeq, digest := s.sec.chainDig } }

/-- RESET_N_ASSERT (R443): the package enters reset at once. -/
def execResetNAssert (s : State) : Host.Outcome State Fault Refusal :=
  .next <| let s1 := resetPackage true s
    { s1 with pins := { s1.pins with resetN := false } }

/-- RESET_N_RELEASE (R361): stage 1; the control complex leaves reset. -/
def execResetNRelease (s : State) : Host.Outcome State Fault Refusal :=
  .next <| if s.pins.resetN then s else { s with pins := { s.pins with resetN := true } }

/-- POWER_OK_RISE (R442): the reset that a low PWR_OK forces ends. -/
def execPowerOkRise (s : State) : Host.Outcome State Fault Refusal :=
  .next <| { s with pins := { s.pins with pwrOk := true } }

/-- POWER_LOSS (R443): PWR_OK falls or a rail leaves regulation; the package is in reset, and what is not in the Settings Store or the flash is lost (R27). -/
def execPowerLoss (s : State) : Host.Outcome State Fault Refusal :=
  .next <| let s1 := resetPackage false s
    { s1 with pins := { s1.pins with pwrOk := false } }

/-! ### Stages (R361, R370 to R373) -/

/-- A flash bank. -/
def Boot.flash (b : Boot) (i : Nat) : FwBank := if i = 0 then b.bankA else b.bankB
/-- Replaces a flash bank. -/
def Boot.setFlash (b : Boot) (i : Nat) (k : FwBank) : Boot := if i = 0 then { b with bankA := k } else { b with bankB := k }

/-- The work of stage `n` has ended, and the next stage is in progress (R361). -/
def enterStage (n : Nat) (s : State) : State := { s with boot := { s.boot with stage := n, since := s.us, late := false } }

/-- The boot ROM takes a bank (R371): its signature and digests hold, no image lies below its floor, and its schema does not lie below that of the committed records. -/
def State.bankOk (s : State) (i : Nat) (ok : Bool) : Bool :=
  let k := s.boot.flash i
  ok && k.manifest && (List.range 5).all (fun j => decide (sgetD s.boot.floor j 0 ≤ sgetD k.vers j 0))
    && decide (min s.sec.schemaA s.sec.schemaB ≤ k.schema)

/-- The bank tried first: the PENDING one, otherwise the ACTIVE one (R371). -/
def Boot.firstBank (b : Boot) : Nat := if b.bankA.st = .pending then 0 else if b.bankB.st = .pending then 1 else b.active

/-- The bank chosen, the other VALID one when the first is refused; none is RECOVERY. -/
def State.chooseBank (s : State) (aOk bOk : Bool) : Option Nat :=
  let ok := fun i => s.bankOk i (if i = 0 then aOk else bOk)
  let i := s.boot.firstBank
  if ok i then some i
  else if (s.boot.flash (1 - i)).st = .valid && ok (1 - i) then some (1 - i)
  else none

/-- The open journal (R350): with both copies complete it is replayed, otherwise discarded. -/
def resolveJournal (complete : Bool) (s : State) : State :=
  match s.sec.run with
  | none => s
  | some r =>
    let s1 := { s with sec := { s.sec with run := none } }
    if complete then commitRun r s1 else s1

/-- Stage 2 reads the records: those of which copy A fails, and those of which both copies do (R349). -/
def readRecords (badA bad : List (Fin 14)) (s : State) : State :=
  forAll bad (fun i s => settingBad i true s) (forAll badA (fun i s => settingBad i false s) s)

/-- The boot takes a bank, or enters RECOVERY (R371). -/
def takeBank (c : Option Nat) (s : State) : State :=
  match c with
  | some i => { s with boot := { s.boot with bank := i } }
  | none => { s with boot := { s.boot with recovery := true } }

/-- BOOT_ROM_STAGE (R361, R368, R371): stage 2. `romOk` is the test of the ROM and the security block, `journal` whether an open journal is complete, `aOk` and `bOk` the verification of the banks' manifests and images, `badA` and `bad` the records that fail in copy A or in both. -/
def execBootRomStage (romOk journal aOk bOk : Bool) (badA bad : List (Fin 14)) (s : State) : Host.Outcome State Fault Refusal :=
  .next <|
    if s.boot.stage ≠ 1 || !s.awake then s
    else
      let s1 := enterStage 2 s
      if !romOk then { s1 with summary := { s1.summary with dead := true } }
      else
        let s2 := readRecords badA bad (resolveJournal journal s1)
        takeBank (s2.chooseBank aOk bOk) s2

/-- The package resets itself to leave a PENDING bank, which is marked INVALID, and shows REVERTED; BOOT_FAULT goes on naming what failed (R372, R373). -/
def revertBoot (s : State) : State :=
  let b := s.boot.setFlash s.boot.bank { s.boot.flash s.boot.bank with st := .invalid }
  let s1 := resetPackage true { s with boot := b }
  { s1 with boot := { s1.boot with reverted := true, fault := s.boot.fault } }

/-- Start-up fails at stage 3 or 4 (R372): a PENDING bank is left; otherwise the other VALID bank is booted if there is one, and if not RECOVERY is entered (R371). -/
def bootFault (fc : Nat) (s : State) : State :=
  let i := s.boot.bank
  let s1 := { s with boot := { s.boot with fault := fc } }
  if (s.boot.flash i).st = .pending then revertBoot s1
  else if (s.boot.flash (1 - i)).st = .valid && s.bankOk (1 - i) true then { s1 with boot := { s1.boot with bank := 1 - i, stage := 2 } }
  else { s1 with boot := { s1.boot with recovery := true, stage := 2 } }

/-- The boot goes on: it has a bank, and the part is not dead. -/
def State.boots (s : State) (n : Nat) : Bool := s.boot.stage = n && !s.boot.recovery && !s.summary.dead && s.awake

/-- The fault code of a failure of stage 3 or 4 that the manual does not name, from a free value: some block and some condition with its own class (R404 to R406; log entry 4). -/
def someFault (v : Nat) : Nat := faultCode (v % 25) (faultCodes.getD (v / 25 % faultCodes.length) 0x10)

/-- FIRMWARE_LOAD_STAGE (R361): stage 3; `ok` says that the manifest and every image hold. -/
def execFirmwareLoadStage (ok : Bool) (s : State) : Host.Outcome State Fault Refusal :=
  .next <|
    if !s.boots 2 then s
    else if ok then
      let s1 := enterStage 3 s
      { s1 with boot := { s1.boot with running := s1.runBank.vers } }
    else
      let (v, s1) := s.draw
      bootFault (someFault v.toNat) s1

/-- MIGRATION_STAGE (R373, R374): stage 4; copy A and the ash-pit header are migrated when the booted bank is newer. `ok` says that it meets no fault. -/
def execMigrationStage (ok : Bool) (s : State) : Host.Outcome State Fault Refusal :=
  .next <|
    if !s.boots 3 then s
    else
      let k := s.runBank
      let need := decide (max s.sec.schemaA s.sec.schemaB < k.schema)
      if need && 1024 ≤ s.sec.audit.length then bootFault (faultCode 0x15 0x0F) s
      else if !ok then
        let (v, s1) := s.draw
        bootFault (someFault v.toNat) s1
      else
        let s1 := enterStage 4 s
        let s2 := if !need then { s1 with boot := { s1.boot with migrated := decide (s1.sec.schemaB < s1.sec.schemaA && s1.sec.schemaA ≤ k.schema) } }
          else
            let (v, s') := freeBytes 48 { s1 with sec := { s1.sec with schemaA := k.schema }, boot := { s1.boot with migrated := true } }
            appendAudit 0xFFFE 0 4 0xFFFF (v.take 8) ((v.drop 8).take 8) (v.drop 16) s'
        if k.ashFmt = s2.sec.pitFmt then s2
        else { s2 with sec := { s2.sec with pitFmt := k.ashFmt, pitSlot := 1 - s2.sec.pitSlot, pitOld := true } }

/-- State of a region that passes stage 5: lit, or banked while a thermal trip holds (R361, R446). -/
def State.startState (s : State) : RegionState := if s.pins.thermLatch then .banked else .lit

/-- A failed training, self-test or loopback is a fault of its own, on the page of its unit (R406, R407; log entry 25); its fence follows. -/
def testFailed (cls inst blk : Nat) (s : State) : State := recordFault (pageKey cls inst) blk 0x13 s

/-- CROSSING_TRAINING_STAGE (R361, R365): stage 5; the regions are lit at F3. `failed` names regions of which a crossing failed three times: the fault is of their dies, and then every region is fenced. -/
def execCrossingTrainingStage (failed : List RegionId) (s : State) : Host.Outcome State Fault Refusal :=
  .next <|
    if !s.boots 4 then s
    else
      let s1 := forAll (List.range 24) (fun r s => s.modRegion r (fun g => { g with st := s.startState, goal := s.startState, step := 3 })) (enterStage 5 s)
      let s2 := forAll (List.range 4) (fun d s => s.modDie d (fun x => { x with trained := failed.all (fun r => dieOfRegion r ≠ d) })) s1
      if failed = [] then s2
      else
        let s3 := forAll ((List.range 4).filter (fun d => failed.any (fun r => dieOfRegion r = d))) (fun d s => testFailed 0x30 d 0x0D s) s2
        let s4 := forAll (List.range 24) (fun r s => raiseFence 0 r (faultCode 0x0D 0x13) s) s3
        { s4 with boot := { s4.boot with crossFail := true } }

/-- HBM_TRAINING_STAGE (R361, R364): stage 6; stacks that fail are recorded and fenced, and the others are active, or banked while a thermal trip holds (R446). After a failed crossing no stack enters service (R365, R368). -/
def execHbmTrainingStage (failed : BitVec 32) (s : State) : Host.Outcome State Fault Refusal :=
  .next <|
    if !s.boots 5 then s
    else
      if s.boot.crossFail then enterStage 6 s
      else forAll (List.range 32) (fun k s =>
        if failed.getLsbD k then fenceStack k (faultCode 0x0E 0x13) (testFailed 0x38 k 0x0E (s.modStack k (fun q => { q with trainFailed := true })))
        else s.modStack k (fun q => { q with st := if s.pins.thermLatch then .banked else .active })) (enterStage 6 s)

/-- SELF_TEST_STAGE (R363, R364): stage 7, once the power limit admits a region; regions and ports that fail are recorded and fenced, a die of which the self-test cannot confine a base-die fault to one region too, and every bank is left zeroed and lit. `ports` has a bit per port and, from bit 16 on, one per die. After a failed crossing there is nothing to test (R365). -/
def execSelfTestStage (regions : BitVec 24) (ports : BitVec 20) (s : State) : Host.Outcome State Fault Refusal :=
  .next <|
    if s.boots 6 && s.boot.crossFail then enterStage 7 s
    else if !s.boots 6 || 10 * s.workingC < s.pwr.d10 + 2500 then s
    else
      let s1 := { enterStage 7 s with tiles := s.tiles.map (fun (p : Nat × Tile) => (p.1, { p.2 with store := [], bankSt := [] })) }
      let s2 := forAll (List.range 24) (fun r s => if regions.getLsbD r then raiseFence 0 r (faultCode 0x0C 0x13) (testFailed 0x28 r 0x0C s) else s) s1
      let s3 := forAll (List.range 4) (fun d s => if ports.getLsbD (16 + d) then raiseFence 3 d (faultCode 0x0D 0x13) (testFailed 0x30 d 0x0D s) else s) s2
      forAll (List.range 16) (fun p s => if ports.getLsbD p then raiseFence 2 p (faultCode 0x10 0x13) (testFailed 0x40 p 0x10 s) else s) s3

/-- DEVICE_READY (R361, R372): stage 8; a PENDING bank becomes ACTIVE. -/
def execDeviceReady (s : State) : Host.Outcome State Fault Refusal :=
  .next <|
    if !s.boots 7 then s
    else
      let s1 := enterStage 8 s
      let b : Boot := { s1.boot with ready := true, ms := s1.us / 1000 }
      let k : FwBank := b.flash b.bank
      { s1 with boot := if k.st = .pending then { b.setFlash b.bank { k with st := .valid } with active := b.bank } else b }

/-- Limit of the stage in progress after stage n has ended, in us (R361). -/
def stageLimit (n : Nat) : Nat :=
  if n = 1 then 100000 else if n = 2 then 450000 else if n = 3 then 50000 else if n = 4 then 20000
  else if n = 5 then 1000000 else 600000

/-- START_STAGE_TIMEOUT (R361, R372, R406): the stage in progress has run over its limit. -/
def execStartStageTimeout (s : State) : Host.Outcome State Fault Refusal :=
  .next <|
    let b := s.boot
    if 6 < b.stage || b.late || b.recovery || s.summary.dead || s.us < b.since + stageLimit b.stage then s
    else
      let fc := faultCode 0x17 0x2A
      let s1 := recordFault (pageKey 0x78 0) 0x17 0x2A s
      let s2 := { s1 with boot := { s1.boot with late := true, fault := fc } }
      if (b.stage = 2 || b.stage = 3) && (b.flash b.bank).st = .pending then revertBoot s2 else s2

/-- PENDING_BOOT_TIMEOUT (R372): a boot from a PENDING bank has not reached stage 8 in 5 s. -/
def execPendingBootTimeout (s : State) : Host.Outcome State Fault Refusal :=
  .next <|
    if s.boot.stage < 8 && 2 ≤ s.boot.stage && (s.boot.flash s.boot.bank).st = .pending && 5000000 ≤ s.us then revertBoot s else s

/-- FENCED_REGION_DARK (R366 step 3): 1 s after its fence, or at the end of a scan-out that covers it, a fenced region goes dark. -/
def execFencedRegionDark (r : RegionId) (s : State) : Host.Outcome State Fault Refusal :=
  .next <|
    let g := s.region r
    if g.st = .banked && s.regionFenced r && (s.forn.stSt = 3 || g.fencedAt.any (fun t => decide (1000000 + t ≤ s.us))) then
      forAll (regionTiles r) (fun t s => s.modTile t Tile.goneDark)
        (s.setRegion r { g with st := .dark, goal := .dark, request := 0, duty := 0, step := 3 })
    else s

end Sys2Proof.Machine
end

