-- ==== Sys2Proof/Machine/Update.lean ====
section
/-! DEFINITION. Firmware update sessions (R375 to R378, 15_start_and_update.md). -/

namespace Sys2Proof.Machine

/-- Update order of the kinds (R375). -/
def updateOrder : List Nat := [2, 3, 4, 0, 1]

/-- Place of a kind in the update order. -/
def orderOf (k : Nat) : Nat := (updateOrder.zipIdx.find? (fun p => p.1 = k)).elim 5 (·.2)

/-- The bank that is not ACTIVE (R378). -/
def Boot.spare (b : Boot) : Nat := 1 - b.active

/-- Largest VERSION, the top of a range that a bank does not state. -/
def noPeers : Nat × Nat := (0, 2 ^ 32 - 1)

/-! ### The manifest (R376) -/

/-- Entry k of a manifest is well formed. -/
def entryOk (m : List Byte) (k : Nat) : Bool :=
  let a := 64 + 128 * k
  let len := bytesAt m (a + 8) 4
  decide (bytesAt m a 1 ≤ 1) && zeros m (a + 1) 3 && zeros m (a + 120) 8
    && (bytesAt m a 1 = 0 || (decide (1 ≤ len) && decide (len ≤ 0x800000)))

/-- MAGIC, FORMAT, reserved bytes and entries. -/
def manifestOk (m : List Byte) : Bool :=
  bytesAt m 0 4 = 0x464E4D46 && bytesAt m 4 2 = 1 && zeros m 10 54 && (List.range 5).all (entryOk m)

/-- What a manifest says, over what the bank holds for images it does not replace. -/
def readManifest (m : List Byte) (k : FwBank) : FwBank :=
  let ps := (List.range 5).filter (fun i => bytesAt m (64 + 128 * i) 1 = 1)
  let upd := fun (α : Type) (old : Sparse α) (f : Nat → α) => ps.foldl (fun o i => sset o i (f (64 + 128 * i))) old
  { k with
    vers := upd Nat k.vers (fun a => bytesAt m (a + 4) 4)
    lengths := upd Nat k.lengths (fun a => bytesAt m (a + 8) 4)
    floors := upd Nat k.floors (fun a => bytesAt m (a + 12) 4)
    digests := upd (BitVec 512) k.digests (fun a => BitVec.ofNat 512 (bytesAt m (a + 16) 64))
    peers := ps.foldl (fun o i => (List.range 5).foldl (fun o j =>
      sset o (5 * i + j) (bytesAt m (64 + 128 * i + 80 + 8 * j) 4, bytesAt m (64 + 128 * i + 84 + 8 * j) 4)) o) k.peers
    present := ps, schema := bytesAt m 6 2, ashFmt := bytesAt m 8 2 }

/-! ### Update blocks (R377) -/

def ubOp (b : List Byte) : Nat := bytesAt b 0 1
def ubKind (b : List Byte) : Nat := bytesAt b 1 1
def ubOffset (b : List Byte) : Nat := bytesAt b 4 4
def ubLength (b : List Byte) : Nat := bytesAt b 8 4
/-- The data of a block. -/
def ubData (b : List Byte) : List Byte := (b.drop 128).take (ubLength b)
/-- Header fields of any block: reserved bytes are 0. -/
def ubHeader (op : Nat) (b : List Byte) : Bool := ubOp b = op && zeros b 2 2 && zeros b 12 52
/-- A block with its data messages: LENGTH in range and every message there. -/
def ubWhole (b : List Byte) : Bool :=
  decide (1 ≤ ubLength b) && decide (ubLength b ≤ 0x10000) && b.length = 128 + 4096 * ceilDiv (ubLength b) 4096
/-- BLOCK_DIGEST holds. -/
def ubDigest (b : List Byte) : Bool := sha512 (ubData b) = (b.drop 64).take 64

/-- A block is refused: its flag in UPDATE_STATUS (0 PEER, 1 DIGEST, 2 ROLLBACK, 3 ORDER, 4 none) and its code in the answer; the session stays open (R378, R412). -/
def refuseBlock (flag code : Nat) (s : State) : State :=
  let k := s.boot.session
  ({ s with boot := { s.boot with session := { k with flags := k.flags ||| BitVec.ofNat 4 (2 ^ flag) } } }).answer (faultCode 0x18 code) []

/-- Changes the session. -/
def modSession (f : Session → Session) (s : State) : State := { s with boot := { s.boot with session := f s.boot.session } }
/-- Changes the bank being written. -/
def modSpare (f : FwBank → FwBank) (s : State) : State :=
  { s with boot := s.boot.setFlash s.boot.spare (f (s.boot.flash s.boot.spare)) }

/-! ### Sessions (R378) -/

/-- The next kind that may begin: the first PRESENT kind in update order that has not begun. -/
def Session.nextKind (k : Session) : Option Nat :=
  match k.man with
  | none => none
  | some m => updateOrder.find? (fun i => m.present.contains i && !k.begun.contains i)

/-- The images pair (R378 step 4): every version of the set lies in every other image's range. -/
def pairs (man bank : FwBank) (begun all : List Nat) : Bool :=
  let ver := fun i => if begun.contains i then sgetD man.vers i 0 else sgetD bank.vers i 0
  let range := fun j i => if begun.contains j then sgetD man.peers (5 * j + i) noPeers else sgetD bank.peers (5 * j + i) noPeers
  all.all (fun i => all.all (fun j => i = j || (decide ((range j i).1 ≤ ver i) && decide (ver i ≤ (range j i).2))))

/-- Images a pairing is checked over: all five, or in RECOVERY, where nothing was copied, those begun. -/
def State.pairSet (s : State) (begun : List Nat) : List Nat := if s.boot.recovery then begun else [0, 1, 2, 3, 4]

/-- A finished image matches its DIGEST (R378 step 5). -/
def State.imageWhole (s : State) (m : FwBank) (k : Nat) : Bool :=
  digest (memRead (sgetD (s.boot.flash s.boot.spare).images k []) 0 (sgetD m.lengths k 0)) = sgetD m.digests k 0

/-- UPDATE_BEGIN (R378 step 1): the other bank is marked INVALID, and the ACTIVE bank's images are copied into it; in RECOVERY nothing is copied. -/
def execUpdateBegin (b : List Byte) (s : State) : Host.Outcome State Fault Refusal :=
  .next <|
    if !s.serves then s
    else if !ubHeader 1 b then refuseBlock 4 0x01 s
    else if s.boot.session.st ≠ 0 && s.boot.session.st ≠ 4 then refuseBlock 4 0x07 s
    else
      let s1 := modSpare (fun k => { k with st := .invalid }) s
      (modSession (fun k => { st := if s.boot.recovery then 2 else 1, flags := k.flags }) s1).answer 0 []

/-- UPDATE_COPY_COMPLETE (R378 step 1): the copy ends, and the session is open. -/
def execUpdateCopyComplete (s : State) : Host.Outcome State Fault Refusal :=
  .next <|
    if s.boot.session.st ≠ 1 then s
    else
      let a := s.boot.flash s.boot.active
      modSession (fun k => { k with st := 2 }) (modSpare (fun _ => { a with st := .invalid }) s)

/-- The manifest block (R378 step 2). -/
def manifestBlock (b : List Byte) (sigOk : Bool) (s : State) : State :=
  let m := ubData b
  if ubOffset b ≠ 0 || ubLength b ≠ 768 || !manifestOk m then refuseBlock 4 0x02 s
  else if !ubDigest b then refuseBlock 1 0x02 s
  else if !sigOk then refuseBlock 4 0x02 s
  else
    let k := readManifest m (s.boot.flash s.boot.spare)
    if k.present.any (fun i => decide (sgetD k.vers i 0 < sgetD s.boot.floor i 0)) then refuseBlock 2 0x02 s
    else if s.boot.recovery && k.present.length ≠ 5 then refuseBlock 4 0x02 s
    else (modSession (fun q => { q with man := some k }) s).answer 0 []

/-- An image block (R378 steps 3 to 5). -/
def imageBlock (m : FwBank) (b : List Byte) (s : State) : State :=
  let q := s.boot.session
  let k := ubKind b
  let len := sgetD m.lengths k 0
  let stop := ubOffset b <<< 16 + ubLength b
  let fresh := !q.begun.contains k
  if !ubDigest b then refuseBlock 1 0x02 s
  else if 5 ≤ k || !m.present.contains k then refuseBlock 3 0x02 s
  else if q.begun.any (fun i => decide (orderOf k < orderOf i)) || (fresh && q.nextKind ≠ some k) then refuseBlock 3 0x07 s
  else if len < stop then refuseBlock 4 0x05 s
  else if ubLength b ≠ 0x10000 && stop ≠ len then refuseBlock 4 0x02 s
  else if fresh && (q.begun.head?).any (fun i => !s.imageWhole m i) then refuseBlock 1 0x02 s
  else if fresh && !pairs m (s.boot.flash s.boot.spare) (k :: q.begun) (s.pairSet (k :: q.begun)) then refuseBlock 0 0x02 s
  else
    let s1 := modSpare (fun f => { f with images := smod f.images k [] (fun i => memWrite i (ubOffset b <<< 16) (ubData b)) }) s
    (modSession (fun q => { q with begun := if fresh then k :: q.begun else q.begun }) s1).answer 0 []

/-- The session is abandoned, and the bank is left INVALID (R378 step 7). -/
def abandonUpdate (s : State) : State :=
  if s.boot.session.st = 1 || s.boot.session.st = 2 then (modSession (fun k => { flags := k.flags }) s).answer 0 []
  else refuseBlock 4 0x07 s

/-- UPDATE_BLOCK (R377, R378): a manifest or image block; `sigOk` is the check of the manifest's signature. One whose OP is ABORT is checked as any header, and abandons the session. -/
def execUpdateBlock (b : List Byte) (sigOk : Bool) (s : State) : Host.Outcome State Fault Refusal :=
  .next <|
    if !s.serves then s
    else if ubOp b = 4 then (if ubHeader 4 b then abandonUpdate s else refuseBlock 4 0x01 s)
    else if s.boot.session.st ≠ 2 then refuseBlock 4 0x07 s
    else if !ubHeader 2 b then refuseBlock 4 0x01 s
    else if !ubWhole b then refuseBlock 4 0x02 s
    else
      match s.boot.session.man with
      | none => if ubKind b = 0xF then manifestBlock b sigOk s else refuseBlock 3 0x07 s
      | some m => if ubKind b = 0xF then refuseBlock 3 0x07 s else imageBlock m b s

/-- UPDATE_END (R378 steps 5 and 6): the last image and the whole set are checked, the manifest is written, and the bank is PENDING. -/
def execUpdateEnd (b : List Byte) (s : State) : Host.Outcome State Fault Refusal :=
  .next <|
    let q := s.boot.session
    if !s.serves then s
    else if q.st ≠ 2 then refuseBlock 4 0x07 s
    else if !ubHeader 3 b then refuseBlock 4 0x01 s
    else
      match q.man with
      | none => refuseBlock 3 0x07 s
      | some m =>
        let f := s.boot.flash s.boot.spare
        if q.nextKind ≠ none then refuseBlock 3 0x07 s
        else if (q.begun.head?).any (fun i => !s.imageWhole m i) then refuseBlock 1 0x02 s
        else if !pairs m f q.begun (s.pairSet q.begun) then refuseBlock 0 0x02 s
        else
          (modSession (fun k => { st := 4, flags := k.flags }) (modSpare (fun _ => { m with images := f.images, st := .pending, manifest := true }) s)).answer 0 []

/-- UPDATE_ABORT (R378 step 7): an ABORT header whose reserved bytes are 0. -/
def execUpdateAbort (s : State) : Host.Outcome State Fault Refusal :=
  .next <| if s.serves then abandonUpdate s else s

end Sys2Proof.Machine
end

