-- ==== Sys2Proof/Machine/Read.lean ====
section
/-! DEFINITION. What a read of each register returns (R419 to R434, and the register tables of every chapter). A read of these registers changes nothing but the shadows of R167 and R434. -/

namespace Sys2Proof.Machine

/-! ### Pages (R421, R422) -/

/-- Instances of a class, 0 for a class the map does not list. -/
def classCount (cls : Nat) : Nat :=
  if cls = 0x10 || cls = 0x11 || cls = 0x12 || cls = 0x13 then 1536
  else if cls = 0x20 then 96
  else if cls = 0x28 then 24
  else if cls = 0x30 then 4
  else if cls = 0x38 || cls = 0x3C then 32
  else if cls = 0x40 then 16
  else if cls = 0x48 || cls = 0x50 || cls = 0x58 || cls = 0x60 || cls = 0x68 || cls = 0x70 || cls = 0x78 then 1
  else 0

/-- A register address: class, instance and offset. -/
def regPlace (a : Nat) : Option (Nat × Nat × Nat) :=
  let r := bf a 0 32
  let cls := bf r 24 8
  let inst := bf r 12 12
  if a >>> 32 = 0x0F00 && decide (inst < classCount cls) then some (cls, inst, bf r 0 12) else none

/-- Block of a page, as it stands in fault codes (R405); on the tile pages that of the register. -/
def pageBlock (cls off : Nat) : Nat :=
  if cls = 0x10 then (if 0x180 ≤ off && off < 0x1A0 then 0x02 else if off = 0x1A0 then 0x03 else if 0x200 ≤ off then 0x04 else if 0x120 ≤ off then 0x06 else 0x01)
  else if cls = 0x11 then 0x01
  else if cls = 0x12 then 0x07
  else if cls = 0x13 then (if 0x600 ≤ off then 0x05 else if 0x130 ≤ off then 0x09 else 0x08)
  else if cls = 0x20 then 0x0B
  else if cls = 0x28 then 0x0C
  else if cls = 0x30 then 0x0D
  else if cls = 0x38 then 0x0E
  else if cls = 0x3C then 0x0F
  else if cls = 0x40 then 0x10
  else if cls = 0x48 then 0x11
  else if cls = 0x50 then 0x12
  else if cls = 0x58 then 0x13
  else if cls = 0x60 then 0x14
  else if cls = 0x68 then 0x15
  else if cls = 0x70 then 0x16
  else 0x17

/-- Region that holds the unit of a page of classes 0x10 to 0x28. -/
def pageRegion (cls inst : Nat) : Option Nat :=
  if 0x10 ≤ cls && cls ≤ 0x13 then some (regionOf inst)
  else if cls = 0x20 then some (6 * (inst / 12 / 2) + inst % 12 / 2)
  else if cls = 0x28 then some inst
  else none

/-- Bits of fields at their places. -/
def pack (fs : List (Nat × Nat)) : Word := BitVec.ofNat 32 ((fs.map (fun p => p.2 <<< p.1)).sum)

/-- Low or high word of a 64-bit value. -/
def half (v : Nat) (hi : Bool) : Word := BitVec.ofNat 32 (if hi then v / 2 ^ 32 else v)

/-! ### The common head (R424 to R426) -/

/-- Whether registers of a page are staged (STATUS.STAGED, R350). -/
def State.pageStaged (s : State) (cls : Nat) : Bool :=
  let w := fun (k : Staged) => k.regs.any (fun p => p.1 / 4096 = cls)
  w s.sec.stOp || w s.sec.stOwn

/-- Whether the unit of a page is fenced (STATUS.FENCED). -/
def State.pageFenced (s : State) (cls inst : Nat) : Bool :=
  match pageRegion cls inst with
  | some r => s.regionFenced r
  | none =>
    if cls = 0x30 then s.fences.dies.getLsbD inst
    else if cls = 0x38 || cls = 0x3C then s.stackFenced inst
    else if cls = 0x40 then s.portFenced inst
    else false

/-- Power state of the unit of a page: banked, dark. -/
def State.pagePower (s : State) (cls inst : Nat) : Bool × Bool :=
  match pageRegion cls inst with
  | some r => ((s.region r).st = .banked, (s.region r).st = .dark)
  | none => if cls = 0x38 || cls = 0x3C then ((s.stack inst).st = .banked, false) else (false, false)

/-- STATUS. -/
def State.pageStatus (s : State) (cls inst : Nat) : Word :=
  let p := s.page (pageKey cls inst)
  let (banked, dark) := s.pagePower cls inst
  pack [ (0, b2n (p.fault ≠ 0)), (1, b2n (s.pageFenced cls inst)), (2, b2n banked), (3, b2n dark), (4, b2n (s.pageStaged cls))
       , (5, b2n (p.pendM.isSome || p.pendR.isSome || p.pendC.isSome)) ]

/-- ROLE (R426). -/
def roleWord (cls : Nat) : Word := if cls = 0x50 then 0x5 else if cls = 0x58 then 0x1189 else if cls = 0x68 then 0x13C6 else 0

/-- CAPS. -/
def capsWord (cls : Nat) : Word :=
  let role := cls = 0x50 || cls = 0x58 || cls = 0x68
  pack [ (0, b2n (cls = 0x11 || cls = 0x3C || cls = 0x40)), (1, b2n (cls = 0x28 || cls = 0x30)), (2, b2n role), (3, b2n role)
       , (8, classCount cls - 1), (20, if cls = 0x10 then 0x3F else 0) ]

/-- A register of the head. -/
def State.readHead (s : State) (cls inst off : Nat) : Word :=
  let p := s.page (pageKey cls inst)
  if off = 0x000 then pack [(0, 0xB0), (8, 1), (12, inst), (24, cls)]
  else if off = 0x004 then capsWord cls
  else if off = 0x00C then s.pageStatus cls inst
  else if off = 0x010 then p.fault.setWidth 32
  else if off = 0x014 then p.mask.setWidth 32
  else if off = 0x018 then pack [(0, p.code), (16, p.count)]
  else if off = 0x01C then roleWord cls
  else if off = 0x020 then pack [(0, b2n p.mismatch), (1, p.lastOff), (13, b2n p.pendM.isSome), (14, b2n p.pendR.isSome), (15, b2n p.pendC.isSome)]
  else 0

/-- A register of a counter window (R428): LATCH_SEL, LATCH_INFO, START and END. -/
def readWindow (sel : BitVec 64) (info : Word) (start stop : Sparse (BitVec 64)) (off : Nat) : Word :=
  if off = 0x040 then half sel.toNat false
  else if off = 0x044 then half sel.toNat true
  else if off = 0x048 then info
  else if 0x050 ≤ off && off < 0x0D0 then
    let n := (off - 0x050) / 16
    let v := (sgetD (if (off - 0x050) / 8 % 2 = 0 then start else stop) n 0).toNat
    half v (off / 4 % 2 = 1)
  else 0

/-! ### Tile pages -/

/-- BANK_DARK bits of a gate register's banks (R61, R63, R65). -/
def Tile.darkWord (x : Tile) (first n : Nat) : Word :=
  pack ((List.range n).map (fun j => (j, b2n ((x.bank (first + j)).st = .dark || (x.bank (first + j)).st = .waking || (x.bank (first + j)).st = .zeroing))))

/-- CAROUSEL_DEF of a carousel (R183). -/
def Tile.carDef (x : Tile) (k : Nat) : Word :=
  match x.car k with
  | none => 0
  | some c => pack [(0, c.base), (16, c.slots), (20, c.slotBillets), (27, 1)]

/-- CAROUSEL_PTR of a carousel. -/
def Tile.carPtr (x : Tile) (k : Nat) : Word :=
  match x.car k with
  | none => 0
  | some c => pack [ (0, c.head), (4, c.tail), (8, c.filled), (12, b2n c.prod.isSome), (13, b2n c.cons.isSome)
                   , (14, b2n (c.prod.isSome && c.filled = c.slots)), (15, b2n (c.cons.isSome && c.filled = 0)) ]

/-- Billets a stream has still to fetch; for GATHER, index billets still to be read. -/
def Tile.streamLeft (x : Tile) (o : DmaOp) : Nat :=
  if dOp o.cmd = 4 then
    dLength o.cmd - o.idxRead
  else
    match x.opCar o with
    | none => 0
    | some (_, c) => o.slotTotal c * c.slotBillets - o.issued

/-- STREAM_STATUS of a table entry (R184). DESIGN CHOICE (log entry 44): the started streams stand in the table in the order of their starts, so that an entry moves down when an earlier stream completes. -/
def Tile.streamWord (x : Tile) (i : Nat) : Word :=
  match x.streams[i]? with
  | none => 0
  | some o => pack [(0, 1), (1, b2n (dOp o.cmd = 4)), (2, b2n o.stopping), (3, o.slot), (6, dCar o.cmd), (12, min (x.streamLeft o) 0xFFFFF)]

/-- CORE_STATE. -/
def Tile.coreWord (x : Tile) : Word := pack [(0, x.coreSt), (2, x.coreSlot), (16, (sgetD x.banks x.coreSlot {}).pc)]

/-- QUEUE_STATUS. -/
def Tile.queueWord (x : Tile) : Word := pack [(0, x.matQ.length), (5, x.vecQ.length), (11, x.dmaUse), (18, x.rickQ.length)]

/-- RANGE_STATUS. -/
def Tile.rangeWord (x : Tile) : Word := pack [(0, x.rangeUse .woodpile), (4, x.rangeUse .tinder), (8, x.rangeUse .ember)]

/-- MATRIX_STATUS. -/
def Tile.matrixWord (x : Tile) : Word :=
  let m := x.matrix
  pack [ (0, b2n m.isOpen), (1, m.op), (4, b2n (m.cause ≠ 0)), (5, m.cause), (8, if m.fmtValid then m.fmtA else 0)
       , (12, if m.fmtValid then m.fmtB else 0), (16, m.drainRow), (22, b2n m.draining), (23, b2n m.fmtValid) ]

/-- The tile control page, class 0x10. -/
def State.read10 (s : State) (t off : Nat) : Word :=
  let x := s.tile t
  if off = 0x100 then x.queueWord
  else if off = 0x104 then x.coreWord
  else if off = 0x120 then sgetD x.gate 0 0
  else if off = 0x124 then sgetD x.gate 1 0
  else if off = 0x128 then sgetD x.gate 2 0
  else if off = 0x130 then x.darkWord 0 32
  else if off = 0x134 then x.darkWord 32 32
  else if off = 0x138 then x.darkWord 64 24
  else if off = 0x13C then
    pack [(0, b2n (x.bankSt.any (fun p => p.2.st = .closing || p.2.st = .waking || p.2.st = .zeroing))), (1, b2n x.gateRefused)]
  else if off = 0x140 then x.rangeWord
  else if off = 0x180 then x.matrixWord
  else if off = 0x184 then BitVec.ofNat 32 x.matrix.ksteps
  else if off = 0x188 then x.matrix.slotOpen.setWidth 32
  else if off = 0x18C then x.matrix.spillLast
  else if off = 0x190 then x.matrix.drainFlags
  else if off = 0x1A0 then x.vflags
  else if off = 0x200 then x.carSel
  else if off = 0x204 then x.carDef (16 * bf x.carSel.toNat 4 3 + bf x.carSel.toNat 0 4)
  else if off = 0x208 then x.carPtr (16 * bf x.carSel.toNat 4 3 + bf x.carSel.toNat 0 4)
  else if 0x210 ≤ off && off < 0x230 then x.streamWord ((off - 0x210) / 4)
  else if off = 0x230 then BitVec.ofNat 32 x.ksl.length
  else 0

/-- The tile counters page, class 0x11 (R379 to R381). -/
def State.read11 (s : State) (t off : Nat) : Word :=
  let x := s.tile t
  let hi := off / 4 % 2 = 1
  if 0x100 ≤ off && off < 0x2A0 then half (s.cumCounter t ((off - 0x100) / 8)).toNat hi
  else if off = 0x400 then BitVec.ofNat 32 x.pctxSel
  else if 0x500 ≤ off && off < 0x6A0 then half (x.latchWord x.pctxSel ((off - 0x500) / 8)).toNat hi
  else if off = 0x6A0 then x.histSel
  else if 0x700 ≤ off && off < 0x900 then half (s.histBin t ((off - 0x700) / 64) ((off - 0x700) / 8 % 8)).toNat hi
  else readWindow x.latchSel x.latchInfo x.latchStart x.latchEnd off

/-- The counter a queue's head waits on, when it is not met (WAIT_STATUS). -/
def Tile.headWait (x : Tile) (q : List QEntry) : Option Nat :=
  match q.find? (fun e => !e.done) with
  | none => none
  | some e =>
    if e.started || !waitEn e.cmd then none
    else match x.entry e.slot with
      | none => none
      | some m => if x.cmdWait m e.cmd = .unmet then some (m.counter (waitId e.cmd)) else none

/-- WAIT_STATUS. -/
def Tile.waitWord (x : Tile) : Word :=
  let f := fun (at_ : Nat) (w : Option Nat) => [(at_, b2n w.isSome), (at_ + 1, w.getD 0)]
  pack (f 0 (x.headWait x.matQ) ++ f 7 (x.headWait x.vecQ) ++ f 14 (x.headWait x.dmaQ) ++ f 21 (x.headWait x.rickQ)
    ++ [(28, b2n (x.stall = .ctrWait))])

/-- The tile sync page, class 0x12. -/
def State.read12 (s : State) (t off : Nat) : Word :=
  let x := s.tile t
  if 0x100 ≤ off && off < 0x300 then half (x.counter ((off - 0x100) / 8)).toNat (off / 4 % 2 = 1)
  else if off = 0x300 then half x.sat.toNat false
  else if off = 0x304 then half x.sat.toNat true
  else if 0x310 ≤ off && off < 0x330 then
    match x.entry ((off - 0x310) / 4) with
    | none => 0
    | some e => pack [(0, e.ctrBase), (6, e.ctrSize), (13, 1)]
  else if off = 0x340 then x.waitWord
  else if off = 0x344 then BitVec.ofNat 32 x.strayAdds
  else if off = 0x348 then pack [(0, x.rebaseSlot), (3, b2n x.rebaseDone), (4, b2n x.rebaseDefer)]
  else 0

/-- EXCH_STATUS. -/
def Tile.exchWord (x : Tile) : Word :=
  pack [(0, x.exch.phase), (2, b2n x.exch.holding.isSome), (3, b2n x.exch.interlock), (8, x.exch.table), (16, 2)]

/-- CH_BLOCKED. -/
def Tile.blockedWord (x : Tile) : Word :=
  match x.chBlocked with
  | none => 0
  | some (e, slots, need) => pack [(0, 1), (1, e), (6, b2n slots), (7, need)]

/-- Step and duty of the routers of a region: those of a region that is not lit, or is fenced, run at F3 (R198, R200). DESIGN CHOICE (log entry 12): so do those of a region in transition, whose TRANSIT reads 0. -/
def State.routerClock (s : State) (r : Nat) : Nat × Nat :=
  let g := s.region r
  if g.st = .lit && !s.regionFenced r then (g.step, g.duty) else (3, 0)

/-- Neighbouring region's step differs across a port: ROUTER_STATUS.ASYNC (R200, R309). -/
def State.asyncBit (s : State) (t p : Nat) : Bool :=
  let x := tileX t
  let y := tileY t
  let u : Option Nat :=
    if p = 0 then (if y < 31 then some (tileAt x (y + 1)) else none)
    else if p = 1 then (if 0 < y then some (tileAt x (y - 1)) else none)
    else if p = 2 then (if x < 47 then some (tileAt (x + 1) y) else none)
    else (if 0 < x then some (tileAt (x - 1) y) else none)
  u.any (fun v => s.routerClock (regionOf v) ≠ s.routerClock (regionOf t))

/-- ROUTER_STATUS. -/
def State.routerWord (s : State) (t : Nat) : Word :=
  let r := regionOf t
  let g := s.region r
  pack ([(0, b2n (g.st = .banked || g.st = .dark || s.regionFenced r)), (5, b2n (s.tile t).router.uncorrected)]
    ++ (List.range 4).map (fun p => (p + 1, b2n (s.asyncBit t p))))

/-- EP_CONFIG to EP_STALL of an endpoint, by word. -/
def Endpoint.word (k : Endpoint) (w : Nat) : Word :=
  if w = 0 then pack [(0, b2n k.valid), (1, b2n k.recv), (2, k.slot), (5, k.peerEp), (10, k.peerTile)]
  else if w = 1 then pack [(0, k.ringBase), (13, k.ringBillets)]
  else if w = 2 then pack [(0, k.pos), (16, k.free)]
  else if w = 3 then pack [(0, k.addId), (8, k.addVal)]
  else if w = 4 then BitVec.ofNat 32 k.messages
  else if w = 5 then BitVec.ofNat 32 k.stall
  else 0

/-- The tile exchange page, class 0x13. -/
def State.read13 (s : State) (t off : Nat) : Word :=
  let x := s.tile t
  if off = 0x100 then x.exchWord
  else if off = 0x104 then pack [(0, x.exch.planId), (16, x.exch.next)]
  else if off = 0x108 then BitVec.ofNat 32 x.exch.offset
  else if off = 0x10C then BitVec.ofNat 32 x.exch.slip
  else if off = 0x110 then pack [(0, x.exch.lastEntry), (13, b2n x.exch.lastCord), (16, x.exch.lastCycles)]
  else if off = 0x120 then s.routerWord t
  else if off = 0x130 then x.blockedWord
  else if off = 0x134 then BitVec.ofNat 32 x.chStray
  else if off = 0x138 then BitVec.ofNat 32 x.rick.stray
  else if 0x200 ≤ off && off < 0x600 then (sgetD x.eps ((off - 0x200) / 32) {}).word (off % 32 / 4)
  else if 0x600 ≤ off && off < 0x640 then
    let k := x.stream ((off - 0x600) / 16)
    let w := off % 16 / 4
    if w = 0 then pack [(0, b2n k.defined), (1, b2n k.forward), (2, k.slot), (5, b2n k.finishing), (6, b2n k.stopped), (7, min x.rick.input.length 64)]
    else if w = 1 then BitVec.ofNat 32 k.arrived
    else if w = 2 then BitVec.ofNat 32 k.sideUsed
    else 0
  else 0

/-! ### Clusters, regions, dies -/

/-- South-west tile of a cluster (R14). -/
def clusterTile (k : Nat) : Nat := tileAt (4 * (k % 12)) (4 * (k / 12))

/-- Context whose barrier is in progress on a cluster (BARRIER_NODE). -/
def State.barrierCtx (s : State) (k : Nat) : Option (Nat × Ctx) := s.ctxs.find? (fun p => p.2.barrier ≠ 0 && p.2.clusters.contains k)

/-- The cluster page, class 0x20. -/
def State.read20 (s : State) (k off : Nat) : Word :=
  let q := s.cluster k
  let x := s.tile (clusterTile k)
  let slots := fun (first : Nat) => pack ((List.range 4).map (fun j =>
    match x.entry (first + j) with
    | none => (8 * j, 0)
    | some e => (8 * j, e.ctx + 128)))
  if off = 0x100 then pack [(0, (x.map.map (fun p => 2 ^ p.1)).sum), (8, q.owner.getD 0), (14, b2n q.owner.isSome)]
  else if off = 0x104 then slots 0
  else if off = 0x108 then slots 4
  else if off = 0x10C then
    match s.barrierCtx k with
    | none => pack [(24, b2n q.maskError)]
    | some (n, c) =>
      pack ([(16, c.barrier), (18, n), (24, b2n q.maskError)]
        ++ (c.arrived.filter (fun t => clusterOf t = k)).map (fun t => (4 * (tileY t % 4) + tileX t % 4, 1)))
  else if 0x400 ≤ off && off < 0x800 then (if q.owner.isSome then sgetD q.tags ((off - 0x400) / 4) 0 else 0)
  else 0

/-- A temperature register. -/
def tempWord (temp peak : Nat) : Word := pack [(0, temp), (11, peak)]

/-- Number of a region's state (REGION_STATE). -/
def regionCode : RegionState → Nat
  | .lit => 0
  | .banked => 1
  | .dark => 2
  | .transition => 3

/-- The region page, class 0x28. -/
def State.read28 (s : State) (r off : Nat) : Word :=
  let g := s.region r
  if off = 0x100 then
    pack [ (0, regionCode g.st), (2, g.step), (4, g.duty), (10, b2n g.parked), (11, b2n (s.regionFenced r))
         , (12, (s.stepGroup r).foldl min r) ]
  else if off = 0x104 then tempWord g.temp g.peak
  else if off = 0x108 then BitVec.ofNat 32 g.request
  else if off = 0x10C then ~~~(BitVec.ofNat 32 g.request)
  else if off = 0x110 then half g.held.toNat false
  else if off = 0x114 then half g.held.toNat true
  else 0

/-- The die page, class 0x30. -/
def State.read30 (s : State) (d off : Nat) : Word :=
  let q := s.die d
  if off = 0x100 then
    pack [(0, b2n (d = 0)), (1, b2n q.trained), (2, bf s.fences.hbmStacks.toNat (8 * d) 8), (10, bf s.fences.ports.toNat (4 * d) 4)]
  else if off = 0x104 then tempWord q.temp q.peak
  else if off = 0x110 then BitVec.ofNat 32 s.granule
  else if off = 0x114 then ~~~(BitVec.ofNat 32 s.granule)
  else 0

/-! ### Stacks, stokers, cord ports -/

/-- Number of a stack's state (HBM_STATUS). -/
def stackCode : StackState → Nat
  | .untrained => 0
  | .active => 1
  | .banked => 2
  | .waking => 3

/-- Lines of a range of HBM that lie on a stack. -/
def State.linesAt (s : State) (k a n : Nat) : Nat :=
  ((pieces s.granule (n / 2 ^ s.granule + 2) a n).map (fun p => if s.stackOf p.1 = k then linesOf p.1 p.2 else 0)).sum

/-- HBM ranges that a tile has requested and whose data is still to come: of its started commands and its KGETs. A replay requests nothing (R397). -/
def State.tileReads (s : State) (x : Tile) : List (Nat × Nat) :=
  (x.ops.filter (fun o => !s.replays o.ctx)).flatMap (·.readsOut)
    ++ (x.ksl.filter (fun k => !k.put && !k.sent && !s.replays k.ctx)).map (fun k => (k.addr, k.len))

/-- Line requests in flight at a stack (HBM_STATUS.INFLIGHT): reads whose data is still to come, and writes not yet accepted. -/
def State.inflight (s : State) (k : Nat) : Nat :=
  let reads := s.tiles.flatMap (fun p => s.tileReads p.2)
  min (((reads ++ s.hbmQ.map (fun w => (w.addr, w.bytes.length))).map (fun p => s.linesAt k p.1 p.2)).sum) 4096

/-- The HBM controller page, class 0x38. -/
def State.read38 (s : State) (k off : Nat) : Word :=
  let q := s.stack k
  if off = 0x100 then pack [(0, stackCode q.st), (2, b2n q.trainFailed), (16, s.inflight k)]
  else if off = 0x108 then half q.corrected.toNat false
  else if off = 0x10C then half q.corrected.toNat true
  else if off = 0x110 then BitVec.ofNat 32 q.uncorrected
  else if off = 0x118 then pack [(0, q.progress), (16, q.passes)]
  else if off = 0x11C then tempWord q.temp q.peak
  else if off = 0x120 then q.lastUe
  else 0

/-- BUCKET_STATE.STATE (R264, R270). -/
def State.bucketCode (s : State) (b : Bucket) : Nat :=
  if b.st = .failed then 4 else if s.modelHeld b then 3 else if b.st = .running then 2 else 1

/-- A 64-bit counter of a stoker by its ID in the window (R428). -/
def State.stokerCounter (s : State) (k id : Nat) : BitVec 64 :=
  let q := s.stack k
  if id = 6 then q.satRecords else if id = 7 then q.remoteW else if id = 8 then q.applied
  else if 16 ≤ id && id < 24 then s.stackBin k (id - 16) else 0

/-- The stoker of a stack is applying a record: the oldest staged packet of a round in progress whose record it may update (STOKER_STATUS.ACTIVE). -/
def State.applying (s : State) (k : Nat) : Bool :=
  !s.statues && s.stackReady k
    && (s.stack k).staged.any (fun p => (s.bucket p.bucket).any (fun b => b.st = .running && !b.doneRecs.contains p.recNo))

/-- The stoker page, class 0x3C. -/
def State.read3C (s : State) (k off : Nat) : Word :=
  let q := s.stack k
  let b := s.bucket q.bucketSel
  let hi := off / 4 % 2 = 1
  if off = 0x100 then
    pack [ (0, b2n (s.applying k)), (1, b2n (q.st = .banked)), (2, b2n (q.st = .waking)), (3, b2n (s.stackFenced k))
         , (4, b2n (q.staged.any (fun p => (s.bucket p.bucket).any s.modelHeld))) ]
  else if off = 0x104 then BitVec.ofNat 32 q.staged.length
  else if off = 0x110 then BitVec.ofNat 32 q.bucketSel
  else if 0x114 ≤ off && off < 0x12C then
    match b with
    | none => 0
    | some b =>
      if off = 0x114 then pack [(0, s.bucketCode b), (3, b.ctx), (9, b.hereCount s k)]
      else if off = 0x118 then BitVec.ofNat 32 b.round
      else if off = 0x11C then BitVec.ofNat 32 (b.doneRecs.filter (fun r => recordStack s b r = k)).length
      else if off = 0x120 then half ((b.fps.head?).elim 0 (fun f => (sgetD f.parts k 0).toNat)) false
      else if off = 0x124 then half ((b.fps.head?).elim 0 (fun f => (sgetD f.parts k 0).toNat)) true
      else pack [(0, sgetD b.lastNon k 0), (16, sgetD b.lastMal k 0)]
  else if 0x130 ≤ off && off < 0x1C0 then half (s.stokerCounter k ((off - 0x100) / 8)).toNat hi
  else readWindow q.latchSel 0 q.latchStart q.latchEnd off

/-- A 64-bit counter of a cord port by its ID in the window (R428). -/
def State.cordCounter (s : State) (p id : Nat) : BitVec 64 :=
  let h := id / 16
  let n := id % 16
  if h < 2 && 4 ≤ n && n < 12 && s.linkExists (2 * p + h) then sgetD (s.link (2 * p + h)).cnt (n - 4) 0 else 0

/-- CORD_STATE of a link (R335, R340). -/
def State.cordWord (s : State) (l : Nat) : Word :=
  let k := s.link l
  let left := if k.st = .quarantined then ceilDiv (k.backoffEnd - s.us) 1000 else 0
  pack [(0, linkCode k.st), (3, b2n k.half), (4, k.quars), (8, k.reason), (12, min left 0xFFFFF)]

/-- The cord port page, class 0x40. -/
def State.read40 (s : State) (p off : Nat) : Word :=
  let q := s.port p
  if 0x100 ≤ off && off < 0x200 then
    let h := (off - 0x100) / 0x80
    let l := 2 * p + h
    let k := s.link l
    let o := off - 0x80 * h
    if !s.linkExists l then 0
    else if o = 0x100 then s.cordWord l
    else if o = 0x104 then pack [(0, b2n k.enable), (1, if h = 0 then b2n q.splitWant else 0)]
    else if o = 0x108 then half k.partnerId.toNat false
    else if o = 0x10C then half k.partnerId.toNat true
    else if o = 0x110 then BitVec.ofNat 32 k.timeout
    else if o = 0x114 then BitVec.ofNat 32 k.tagFail
    else if o = 0x118 then BitVec.ofNat 32 k.discarded
    else if o = 0x11C then BitVec.ofNat 32 k.dropped
    else if o < 0x160 then half (s.cordCounter p ((off - 0x100) / 8)).toNat (off / 4 % 2 = 1)
    else 0
  else readWindow q.latchSel 0 q.latchStart q.latchEnd off

/-! ### EVL, cadence, power -/

/-- The EVL page, class 0x48. -/
def State.read48 (s : State) (off : Nat) : Word :=
  let e := s.evl
  if off = 0x100 then pack [(0, b2n e.up), (1, e.width), (3, e.group)]
  else if off = 0x104 then BitVec.ofNat 32 e.retrains
  else if off = 0x108 then half e.winBase false
  else if off = 0x10C then half e.winBase true
  else if off = 0x110 then BitVec.ofNat 32 e.winSize
  else if 0x120 ≤ off && off < 0x130 then sgetD e.route ((off - 0x120) / 4) 0
  else if 0x200 ≤ off && off < 0x600 then
    let g := s.ring ((off - 0x200) / 64)
    let o := off % 64
    if o = 0x00 then half g.sqBase false
    else if o = 0x04 then half g.sqBase true
    else if o = 0x08 then pack [(0, b2n g.sqEn), (1, g.sqLog)]
    else if o = 0x0C then g.sqTail
    else if o = 0x10 then g.sqHead
    else if o = 0x18 then half g.eqBase false
    else if o = 0x1C then half g.eqBase true
    else if o = 0x20 then pack [(0, b2n g.eqEn), (1, g.eqLog)]
    else if o = 0x24 then g.eqHead
    else if o = 0x28 then g.eqTail
    else if o = 0x2C then BitVec.ofNat 32 g.eqDropped
    else 0
  else 0

/-- Next multiple of a period after a count. -/
def nextMultiple (p n : Nat) : Nat := (n / p + 1) * p

/-- Tick at which a device slot next fires, none when no firing is due (R302). -/
def State.deviceNext (s : State) (k : Nat) : Option Nat :=
  let n := s.cad.count.toNat
  if k = 0 || (k = 1 && s.cad.opened) then s.cad.expected.map (fun e => max e (min (n + 1) (e + 2)))
  else if k = 1 then none
  else if k = 2 then
    match s.leadAt with
    | some t => some (max t (n + 1))
    | none => s.cad.expected.map (fun e => max (e + s.tpm - s.pwr.leadTicks) (e + 1))
  else if k = 3 then (if s.stagSource && 0 < s.stagPeriod then some (nextMultiple s.stagPeriod n) else none)
  else if k = 4 then
    match (s.forn.snaps.filter (fun p => p.2.waits)).map (fun p => max p.2.trigger (n + 1)) with
    | [] => none
    | t :: ts => some (ts.foldl min t)
  else if k = 5 then (if s.buckets.any (fun p => p.2.toSend ≠ []) then some (n + 1) else none)
  else if k = 6 then (if 0 < s.forn.counterPeriod then some (nextMultiple s.forn.counterPeriod n) else none)
  else some (n + 1)

/-- A register of a compare slot (R302, R303). -/
def State.slotWord (s : State) (k w : Nat) : Word :=
  let x := s.slot k
  let dev := k < 8
  let next := s.deviceNext k
  let enable := if dev then next.isSome else x.enable
  let period : Word := if dev then (if k = 7 then 1 else if k = 3 && s.stagSource then BitVec.ofNat 32 s.stagPeriod else if k = 6 then BitVec.ofNat 32 s.forn.counterPeriod else 0) else x.period
  let cmp := if dev then next.getD 0 else x.compare.toNat
  if w = 0 then pack [(0, b2n enable), (1, b2n x.late), (2, b2n x.fired)]
  else if w = 1 then period
  else half cmp (w = 3)

/-- The cadence page, class 0x50. -/
def State.read50 (s : State) (off : Nat) : Word :=
  let c := s.cad
  if off = 0x100 then
    pack [ (0, match c.st with | .acquiring => 0 | .locked => 1 | .holdover => 2), (2, b2n c.fallback), (3, b2n c.outSys), (4, b2n c.align.isSome) ]
  else if off = 0x104 then BitVec.ofNat 32 s.sec.nominal
  else if off = 0x108 then half c.count.toNat false
  else if off = 0x10C then half c.count.toNat true
  else if off = 0x110 then BitVec.ofNat 32 c.minute
  else if off = 0x114 then BitVec.ofNat 32 s.meanPeriod
  else if 0x200 ≤ off && off < 0x300 then s.slotWord ((off - 0x200) / 16) (off % 16 / 4)
  else 0

/-- PWR_STATUS.ACTION: the deepest measure in force (R310). -/
def State.action (s : State) : Nat :=
  if s.pwr.parked ≠ [] then 3
  else if s.regions.any (fun p => p.2.works && decide (0 < p.2.step)) then 2
  else if s.regions.any (fun p => p.2.works && decide (0 < p.2.duty)) then 1 else 0

/-- The power manager page, class 0x58. -/
def State.read58 (s : State) (off : Nat) : Word :=
  let p := s.pwr
  if off = 0x100 then
    pack [ (0, s.action), (2, b2n p.exceeded), (3, b2n p.unreach), (4, b2n p.lead), (5, b2n (s.regions.any (fun q => q.2.hot)))
         , (6, b2n s.cad.outSys), (7, p.entry) ]
  else if off = 0x104 then pack [(0, min (p.d10 / 10) 0xFFFF), (16, min (p.d1ms / 1000) 0xFFFF)]
  else if off = 0x108 then pack [(0, p.limit), (16, p.ceil)]
  else if off = 0x10C then BitVec.ofNat 32 p.fallbackW
  else if off = 0x110 then BitVec.ofNat 32 p.leadTicks
  else if off = 0x114 then p.stagCfg
  else if off = 0x118 then half p.exclude.toNat false
  else if off = 0x11C then half p.exclude.toNat true
  else if off = 0x120 then BitVec.ofNat 32 p.seq
  else if off = 0x124 then BitVec.ofNat 32 p.fetched
  else if off = 0x128 then BitVec.ofNat 32 p.sel
  else if 0x400 ≤ off && off < 0x500 then (if p.tallyBad.contains p.sel then 0 else BitVec.ofNat 32 (bytesAt (sgetD p.tallies p.sel []) (off - 0x400) 4))
  else 0

/-! ### Dispatcher, security, forensics, mailbox -/

/-- Number of a graph's state (GRAPH_STATE). -/
def graphCode : GraphState → Nat
  | .free => 0
  | .running => 2
  | .paused => 3
  | .complete => 4
  | .failed => 5
  | .cancelled => 6

/-- The dispatcher page, class 0x60. -/
def State.read60 (s : State) (off : Nat) : Word :=
  if off = 0x100 then
    pack [ (0, s.ctxs.length), (7, (s.graphs.filter (fun p => p.2.inFlight)).length)
         , (12, ((s.graphs.filter (fun p => p.2.inFlight)).map (fun p => (p.2.tasks.filter (fun t => t.st = .waiting && t.dep = 0)).length)).sum) ]
  else if off = 0x104 then BitVec.ofNat 32 s.ctxSel
  else if off = 0x118 then BitVec.ofNat 32 s.graphSel
  else if off = 0x11C then
    let g := s.graph s.graphSel
    pack [(0, graphCode g.st), (3, g.remaining)]
  else if off = 0x120 then s.switchLast
  else
    match s.ctx s.ctxSel with
    | none => 0
    | some c =>
      if off = 0x108 then
        pack [ (0, ctxCode c.st), (3, c.slot), (6, c.prio), (9, c.model), (15, b2n c.interlock), (16, b2n c.rebase.isSome), (17, b2n c.held)
             , (18, b2n c.signed) ]
      else if off = 0x10C then half c.superstep false
      else if off = 0x110 then half c.superstep true
      else if off = 0x114 then pack [(0, c.px), (4, c.py), (7, c.pw), (11, c.ph)]
      else 0

/-- The security and settings page, class 0x68. -/
def State.read68 (s : State) (off : Nat) : Word :=
  let k := s.sec
  let hi := off / 4 % 2 = 1
  if off = 0x100 then
    pack [ (0, b2n k.opKey.isSome), (1, b2n k.ownKey.isSome), (2, b2n k.attKey.isSome), (3, b2n k.run.isSome), (4, b2n k.auditFull)
         , (5, b2n (k.recFailed ≠ [])) ]
  else if off = 0x104 then pack [(0, k.nOp), (5, k.nOwn), (12, k.nCeil), (18, k.nDebug)]
  else if 0x108 ≤ off && off < 0x120 then half (sgetD k.nonces ((off - 0x100) / 8) 0).toNat hi
  else if off = 0x120 then pack [(0, k.audit.length), (11, bytesAt (k.audit.headD []) 0 4 % 2 ^ 21)]
  else if off = 0x128 then BitVec.ofNat 32 k.auditSel
  else if off = 0x130 then s.settingWord 9
  else if off = 0x134 then s.settingWord 10
  else if off = 0x138 then pack [(0, b2n k.allowList), (1, k.partners.length)]
  else if off = 0x13C then s.settingWord 5
  else if off = 0x140 then k.refusal
  else if off = 0x144 then BitVec.ofNat 32 (if s.runBank.schema < k.schemaA then k.schemaB else k.schemaA)
  else if off = 0x148 then pack [(0, min k.stOp.count 255), (8, min k.stOwn.count 255)]
  else if 0x150 ≤ off && off < 0x158 then half (keyId k.identPub) hi
  else if 0x158 ≤ off && off < 0x160 then half (boundId s.pwr.powerKey) hi
  else if 0x160 ≤ off && off < 0x168 then half (boundId k.opKey) hi
  else if 0x168 ≤ off && off < 0x170 then half (boundId k.ownKey) hi
  else if 0x180 ≤ off && off < 0x1A0 then sgetD k.attNonce ((off - 0x180) / 4) 0
  else if off = 0x1A4 then BitVec.ofNat 32 k.attSt
  else if 0x200 ≤ off && off < 0x280 then BitVec.ofNat 32 (bytesAt (k.auditRead (k.audit.getD k.auditSel [])) (off - 0x200) 4)
  else if 0x400 ≤ off && off < 0x700 then BitVec.ofNat 32 (bytesAt k.attData (off - 0x400) 4)
  else if 0x700 ≤ off && off < 0x780 then BitVec.ofNat 32 (bytesAt k.identCert (off - 0x700) 4)
  else if 0x780 ≤ off then BitVec.ofNat 32 (if s.pwr.powerKey.isSome then bytesAt k.powerCert (off - 0x780) 4 else 0)
  else 0

/-- STATUES_STATUS. -/
def Forensics.statusWord (f : Forensics) : Word :=
  pack [(0, f.stSt), (2, f.cause), (5, b2n f.truncated), (6, b2n f.limited), (7, f.stCtx)]

/-- The forensics and ash-pit page, class 0x70. -/
def State.read70 (s : State) (off : Nat) : Word :=
  let f := s.forn
  if off = 0x100 then half f.base false
  else if off = 0x104 then half f.base true
  else if off = 0x108 then f.ctrl
  else if off = 0x10C then BitVec.ofNat 32 f.counterPeriod
  else if off = 0x110 then f.traceCtrl
  else if off = 0x114 then half f.traceCtx.toNat false
  else if off = 0x118 then half f.traceCtx.toNat true
  else if off = 0x11C then f.tagKey
  else if off = 0x120 then f.tagVal
  else if off = 0x124 then BitVec.ofNat 32 f.watchdog
  else if off = 0x12C then f.statusWord
  else if 0x200 ≤ off && off < 0x280 then
    let q := sgetD f.snaps ((off - 0x200) / 32) {}
    let o := off % 32
    if o = 0x00 then q.ctrl else if o = 0x04 then q.trigLo else if o = 0x08 then q.trigHi else if o = 0x0C then q.rng
    else if o = 0x10 then pack [(0, q.st), (3, q.seq)] else 0
  else if off = 0x280 then f.cap.ctrl
  else if off = 0x284 then f.cap.stepLo
  else if off = 0x288 then f.cap.stepHi
  else if off = 0x28C then pack [(0, f.cap.st), (3, f.cap.seq)]
  else if off = 0x290 then f.cap.replayCtrl
  else 0

/-- BOOT_STATUS. -/
def State.bootWord (s : State) : Word :=
  let b := s.boot
  pack [ (0, s.stageNow), (4, b2n b.ready), (5, b2n b.recovery), (6, b.bank), (7, b2n b.reverted), (8, b2n b.migrated), (9, b2n b.crossFail)
       , (16, b.fault) ]

/-- The fault summary (R408); a part that failed its stage 2 test holds it at a fixed code (R368). -/
def State.summaryBytes (s : State) : List Byte :=
  let u := s.summary
  if u.dead then natLe 2 0x25D3 ++ natLe 2 0x25D3 ++ natLe 44 0
  else
    natLe 2 u.first ++ natLe 2 u.last ++ (List.range 7).flatMap (fun i => natLe 2 (sgetD u.counts (i + 1) 0))
      ++ natLe 2 s.bootWord.toNat ++ natLe 4 s.fences.regions.toNat ++ natLe 4 s.fences.hbmStacks.toNat ++ natLe 2 s.fences.ports.toNat
      ++ natLe 1 s.fences.dies.toNat ++ natLe 1 s.forn.statusWord.toNat ++ natLe 2 u.failedRec ++ natLe 14 0

/-- VERSION of a kind in the PENDING bank, 0 when none. -/
def State.pendingVer (s : State) (k : Nat) : Nat :=
  if s.boot.bankA.st = .pending then sgetD s.boot.bankA.vers k 0
  else if s.boot.bankB.st = .pending then sgetD s.boot.bankB.vers k 0 else 0

/-- The control-processor mailbox page, class 0x78; FAULT_SUMMARY with its shadow (R434). -/
def State.read78 (s : State) (off : Nat) : Word :=
  let b := s.boot
  if off = 0x100 then s.bootWord
  else if off = 0x104 then BitVec.ofNat 32 b.ms
  else if off = 0x110 then s.fences.regions.setWidth 32
  else if off = 0x114 then s.fences.hbmStacks
  else if off = 0x118 then pack [(0, s.fences.ports.toNat), (16, s.fences.dies.toNat)]
  else if off = 0x11C then s.fences.last
  else if off = 0x120 then
    let q := b.session
    pack [(0, q.st), (3, q.nextKind.getD 0), (6, q.flags.toNat)]
  else if 0x140 ≤ off && off < 0x154 then BitVec.ofNat 32 (sgetD b.running ((off - 0x140) / 4) 0)
  else if 0x160 ≤ off && off < 0x174 then BitVec.ofNat 32 (s.pendingVer ((off - 0x160) / 4))
  else if off = 0x200 then BitVec.ofNat 32 (bytesAt s.summaryBytes 0 4)
  else if 0x204 ≤ off && off < 0x230 then BitVec.ofNat 32 (bytesAt (s.summary.shadow.getD s.summaryBytes) (off - 0x200) 4)
  else 0

/-! ### One word -/

/-- A word of a page beyond its head. -/
def State.readBody (s : State) (cls inst off : Nat) : Word :=
  if cls = 0x10 then s.read10 inst off
  else if cls = 0x11 then s.read11 inst off
  else if cls = 0x12 then s.read12 inst off
  else if cls = 0x13 then s.read13 inst off
  else if cls = 0x20 then s.read20 inst off
  else if cls = 0x28 then s.read28 inst off
  else if cls = 0x30 then s.read30 inst off
  else if cls = 0x38 then s.read38 inst off
  else if cls = 0x3C then s.read3C inst off
  else if cls = 0x40 then s.read40 inst off
  else if cls = 0x48 then s.read48 off
  else if cls = 0x50 then s.read50 off
  else if cls = 0x58 then s.read58 off
  else if cls = 0x60 then s.read60 off
  else if cls = 0x68 then s.read68 off
  else if cls = 0x70 then s.read70 off
  else s.read78 off

/-- The tile and cluster pages of a dark region answer ID, CAPS and STATUS only (R423). -/
def State.pageShut (s : State) (cls inst : Nat) : Bool := cls ≤ 0x20 && (s.pagePower cls inst).2

/-- The word a read returns. Pages of classes 0x10 to 0x30 read 0 before stage 5 (R362). -/
def State.readWord (s : State) (cls inst off : Nat) : Word :=
  if s.stageNow < 5 && cls ≤ 0x30 then 0
  else if off < 0x040 then (if s.pageShut cls inst && off ≠ 0x000 && off ≠ 0x004 && off ≠ 0x00C then 0 else s.readHead cls inst off)
  else if s.pageShut cls inst then 0
  else s.readBody cls inst off

end Sys2Proof.Machine
end

