-- ==== Sys2Proof/Machine/Access.lean ====
section
/-! DEFINITION. What every register write passes before it takes effect (R7, R9, R362, R419, R422, R423, R429), and the latches of the counter windows (R428). -/

namespace Sys2Proof.Machine

/-! ### The path to a register -/

/-- A request that names no register, or is misaligned with no page to record it on: the fault goes to the mailbox page (R7, R419, R422). -/
def badAccess (code : Nat) (s : State) : State := refuseAccess (pageKey 0x78 0) 0x00 code s

/-- Why a write to a page is refused whatever it writes: a page that does not answer before stage 5 (R362), one that Statues holds (R429), or one of a dark region (R423). -/
def State.writeBar (s : State) (cls inst off : Nat) : Bool :=
  (s.stageNow < 5 && cls ≤ 0x30) || (s.statues && cls ≤ 0x28)
    || (s.pageShut cls inst && off ≠ 0x000 && off ≠ 0x004 && off ≠ 0x00C)

/-- Refuses a write of a register: class S on its page. -/
def refuseWrite (cls inst off code : Nat) (s : State) : State := refuseAccess (pageKey cls inst) (pageBlock cls off) code s

/-- A write reaches its page: no path works before stage 3 (R362). -/
def withPage (cls inst off : Nat) (s : State) (f : State → State) : State :=
  if !s.serves then s
  else if s.writeBar cls inst off then refuseWrite cls inst off 0x07 s
  else f s

/-- A write reaches a register that software may write: the sideband has no general register access (R9, R419). -/
def withReg (src : Source) (cls inst off : Nat) (s : State) (f : State → State) : State :=
  withPage cls inst off s fun s => if src = .sideband then refuseWrite cls inst off 0x07 s else f s

/-- A write is done. -/
def State.done (s : State) : State := s.answer 0 []

/-- A write that is checked first: refused with a code, or carried out. -/
def checkedWrite (cls inst off : Nat) (checks : List (Bool × Nat)) (s : State) (f : State → State) : State :=
  match pickCode checks with
  | some code => refuseWrite cls inst off code s
  | none => (f s).done

/-! ### Counter windows (R428) -/

/-- Bits 47 to 0 of the 8 counters that LATCH_SEL selects. -/
def latchVals (sel : BitVec 64) (f : Nat → BitVec 64) : Sparse (BitVec 64) :=
  (List.range 8).map (fun n => (n, (f (bf sel.toNat (8 * n) 8)) &&& 0xFFFFFFFFFFFF))

/-- CTRL.LATCH_START or LATCH_END of a page; on pages without a CTRL window the bits are reserved. -/
def latchPage (cls inst : Nat) (atEnd : Bool) (s : State) : State :=
  if cls = 0x3C then
    s.modStack inst (fun q =>
      let v := latchVals q.latchSel (s.stokerCounter inst)
      if atEnd then { q with latchEnd := v } else { q with latchStart := v })
  else if cls = 0x40 then
    s.modPort inst (fun q =>
      let v := latchVals q.latchSel (s.cordCounter inst)
      if atEnd then { q with latchEnd := v } else { q with latchStart := v })
  else s

/-- A write of 1 to a latch bit of CTRL at an address. -/
def latchAt (src : Source) (addr : Nat) (atEnd : Bool) (s : State) : State :=
  match regPlace addr with
  | none => if s.serves then badAccess 0x06 s else s
  | some (cls, inst, off) =>
    if off ≠ 0x008 then s
    else withReg src cls inst off s fun s => (latchPage cls inst atEnd s).done

/-- CTRL_LATCH_START (R428): the selected counters are latched into START. -/
def execCtrlLatchStart (src : Source) (addr : Nat) (s : State) : Host.Outcome State Fault Refusal :=
  .next (latchAt src addr false s)

/-- CTRL_LATCH_END (R428): the selected counters are latched into END. -/
def execCtrlLatchEnd (src : Source) (addr : Nat) (s : State) : Host.Outcome State Fault Refusal :=
  .next (latchAt src addr true s)

end Sys2Proof.Machine
end

