-- ==== Sys2Proof/Machine/Channels.lean ====
section
/-! DEFINITION. Loose channels: endpoints, messages, receive rings and credits (09_channels_and_ricks.md R224 to R234). -/

namespace Sys2Proof.Machine

def Tile.ep (x : Tile) (n : Nat) : Endpoint := sgetD x.eps n {}
def Tile.modEp (x : Tile) (n : Nat) (f : Endpoint → Endpoint) : Tile := { x with eps := smod x.eps n {} f }

/-! ### Sending (R228 to R230) -/

def chSrc (p : BitVec 64) : Nat := bf p.toNat 0 16
def chLen (p : BitVec 64) : Nat := bf p.toNat 16 16
def chEp (p : BitVec 64) : Nat := bf p.toNat 32 5
def chAddId (p : BitVec 64) : Nat := bf p.toNat 37 8
def chAddVal (p : BitVec 64) : Nat := bf p.toNat 45 8

/-- Lines of a message with that payload (R226). -/
def msgLines (len : Nat) : Nat := ceilDiv (16 + len) 64

/-- Message or skip-marker header (R227). -/
def msgHeader (len : Nat) (skip : Bool) (ep t seq user lines : Nat) : List Byte :=
  natLe 2 len ++ natLe 1 (b2n skip) ++ natLe 1 ep ++ natLe 2 t ++ natLe 2 seq ++ natLe 4 user ++ natLe 4 lines

/-- The checks of a CH_SEND (R228, R451). -/
def chChecks (x : Tile) (slot : Nat) (e : MapEntry) (p : BitVec 64) : List (Bool × Nat) :=
  let k := x.ep (chEp p)
  let past := match e.resolve (chSrc p) (ceilDiv (chLen p) 512) with | .ok _ => false | .error _ => true
  [ (bf p.toNat 53 11 ≠ 0 || (bilOf (chSrc p)).isNone, 0x01)
  , (chLen p = 0xFFFF, 0x04)
  , (past || (k.valid && 8 * k.peerRing < msgLines (chLen p)), 0x05)
  , (chAddVal p ≠ 0 && e.ctrSize ≤ chAddId p, 0x06)
  , (!(k.valid && !k.recv && k.slot = slot), 0x07) ]

/-- Puts flits of a message on VN-L; in a replay those that leave the partition go to its output (R397). -/
def sendLines (t ctx : Nat) (dst : Nat) (lines : List (FlitBody × List Byte)) (s : State) : State :=
  if s.replays ctx && !((s.ctx ctx).any (fun c => c.hasTile dst)) then replayOutput t 2 (lines.flatMap (·.2)) s
  else inject t (lines.map (fun p => { vn := .l, src := t, dst := dst, ctx := ctx, body := p.1, bytes := p.2 })) s

/-- What the core may be stalled on when it tries a CH_SEND again. -/
def chStall : Stall → Bool
  | .none => true
  | .chSend _ => true
  | .chSlots _ => true
  | _ => false

/-- Lines of the skip marker that goes before a message of `l` lines: those up to the end of the ring when the message does not fit there (R229). -/
def Endpoint.skipLines (k : Endpoint) (l : Nat) : Nat := if 8 * k.peerRing - k.pos < l then 8 * k.peerRing - k.pos else 0

/-- Lines of a message that can go: all of them once its payload is whole, so that they enter VN-L one behind the other (R226; DESIGN CHOICE, log entry 49). -/
def SendMsg.ready (m : SendMsg) : Nat := if m.bytes.length = 16 + m.len then m.lines else 0

/-- Line `j` of a message or skip marker as a flit's body and bytes (R226). -/
def SendMsg.line (m : SendMsg) (j : Nat) : FlitBody × List Byte :=
  (.line m.peerEp (if m.skip then 0 else m.id) (j + 1 = m.lines), ((m.bytes ++ List.replicate 64 0).drop (64 * j)).take 64)

/-- A message has earlier lines of its channel before it (R230). -/
def Tile.chBehind (x : Tile) (m : SendMsg) : Bool := x.msgs.any (fun p => p.ep = m.ep && decide (p.id < m.id) && decide (p.sent < p.lines))

/-- A message is given up: what its billets wait for and its place go with it. -/
def Tile.dropMsg (x : Tile) (id : Nat) : Tile :=
  { x.dropReqs (fun d => match d with | .chSrc i _ => i = id | _ => false) with msgs := x.msgs.filter (fun m => m.id ≠ id) }

/-- CODE of the refusal of lines that a tile sends to a tile; lines that leave the partition of a replay go nowhere (R198, R397). -/
def lineRefusal (s : State) (ctx dst : Nat) : Option Nat :=
  if s.replays ctx && !((s.ctx ctx).any (fun c => c.hasTile dst)) then none else sendRefusal s dst

/-- Takes in the billets of a message that have arrived, in order, and sends the lines that can go, or meets the refusal of their destination (R198); a skip marker is then over. -/
def pumpMsg (t id : Nat) (s : State) : State :=
  let x := s.tile t
  match x.msgs.find? (fun m => m.id = id) with
  | none => s
  | some m =>
    let k := (m.bytes.length - 16) / 512
    let more := (rangeFrom k (ceilDiv m.len 512 - k)).map (fun j => x.arrival (.chSrc id j))
    let got := more.takeWhile (·.isSome)
    let m1 := { m with bytes := (m.bytes ++ got.flatMap (fun (b : Option (List Byte)) => b.getD [])).take (16 + m.len) }
    let n := if x.chBehind m then m.sent else m1.ready
    match (if m.sent < n then lineRefusal s m.ctx m.peer else none) with
    | some c => ctxFault t m.ctx 0x09 c (s.modTile t (·.dropMsg id))
    | none =>
      let s1 := sendLines t m.ctx m.peer ((rangeFrom m.sent (n - m.sent)).map m1.line) s
      s1.modTile t (fun x => { x with
        msgs := if m.skip && n = m.lines then x.msgs.erase m else x.msgs.replace m { m1 with sent := n }
        arrived := x.arrived.filter (fun a => match a.1 with | .chSrc i j => i ≠ id || decide (k + got.length ≤ j) | _ => true) })

/-- Sends what the messages of a tile have, oldest first. -/
def pumpMsgs (t : Nat) (s : State) : State := forAll ((s.tile t).msgs.map (·.id)) (fun id s => pumpMsg t id s) s

/-- Messages not yet fully injected that hold one of the 4 places of the channel unit (R230). -/
def Tile.msgUse (x : Tile) : Nat := (x.msgs.filter (fun m => !m.skip)).length

/-- The skip marker is sent behind what its channel still sends, and its lines are taken. DESIGN CHOICE (log entry 12): its USER is 0, and the SEQ of a channel starts at 0. -/
def sendSkip (t ctx slot n : Nat) (k : Endpoint) (lines : Nat) (s : State) : State :=
  let m : SendMsg := { ep := n, ctx := ctx, slot := slot, id := (s.tile t).nextOp, peer := k.peerTile, peerEp := k.peerEp, skip := true, lines := 1, bytes := msgHeader 0 true n t k.seq 0 lines }
  pumpMsgs t (s.modTile t (fun x => { x.modEp n (fun k => { k with free := k.free - lines, pos := 0 }) with msgs := x.msgs ++ [m], nextOp := m.id + 1 }))

/-- The core stalls in a CH_SEND for want of `need` lines, or of a send slot. -/
def chWait (t n : Nat) (st : Stall) (slots : Bool) (need : Nat) (s : State) : State :=
  s.modTile t (fun x => { x.setStall st with chBlocked := some (n, slots, need) })

/-- A CH_SEND lets the core run. -/
def Tile.chGo (x : Tile) : Tile := { x.setStall .none with chBlocked := none }

/-- The message of `l` lines takes its lines, its number and a place of the channel unit, which reads its billets at position 5 of R49 (R230); to a tile outside a replay's partition no lines are taken (R397). -/
def sendMessage (t slot : Nat) (e : MapEntry) (outside : Bool) (user : Nat) (p : BitVec 64) (k : Endpoint) (src : StoreId × Nat) (s : State) : State :=
  let n := chEp p
  let l := msgLines (chLen p)
  let id := (s.tile t).nextOp
  let s1 := s.modTile t (fun x =>
    { x.chGo.modEp n (fun k => { k with
        free := if outside then k.free else k.free - l
        pos := if outside then k.pos else (k.pos + l) % (8 * k.peerRing)
        seq := (k.seq + 1) % 65536
        messages := satAdd 32 k.messages 1 }) with
      msgs := x.msgs ++ [{ ep := n, ctx := e.ctx, slot := slot, id := id, addId := chAddId p, addVal := chAddVal p, peer := k.peerTile, peerEp := k.peerEp, lines := l, len := chLen p, bytes := msgHeader (chLen p) false n t k.seq user l }]
      nextOp := id + 1 })
  forAll (List.range (ceilDiv (chLen p) 512)) (fun j s => postRead t .dma src.1 (src.2 + j) (.chSrc id j) s) s1

/-- CH_SEND (R228 to R230): a skip marker when the ring's end is too near, then the message; the core stalls for FREE and for a place of the channel unit. `ecc` is the check of the send buffer (R409). -/
def execChSend (t : TileId) (rs rt : Fin 32) (ecc : Check) (s : State) : Host.Outcome State Fault Refusal :=
  .next <|
    match coreIssue s t chStall with
    | none => s
    | some (slot, e) =>
      let x := s.tile t
      let p := x.reg slot rs
      let n := chEp p
      let k := x.ep n
      let l := msgLines (chLen p)
      let outside := s.replays e.ctx && !((s.ctx e.ctx).any (fun c => c.hasTile k.peerTile))
      let skip := if outside then 0 else k.skipLines l
      match pickCode (chChecks x slot e p) with
      | some c => ctxFault t e.ctx 0x09 c s
      | none =>
        if chLen p = 0 then
          postAdd t e.ctx slot (chAddId p) (chAddVal p) (s.modTile t (fun x => x.chGo.modEp n (fun k => { k with messages := satAdd 32 k.messages 1 })))
        else
          match (if outside then none else sendRefusal s k.peerTile) with
          | some c => ctxFault t e.ctx 0x09 c s
          | none =>
            if 4 ≤ x.msgUse then chWait t n (.chSlots n) true l s
            else if k.free < skip then chWait t n (.chSend n) false skip s
            else
              let s1 := if skip = 0 then s else sendSkip t e.ctx slot n k skip s
              if !outside && k.free - skip < l then chWait t n (.chSend n) false l s1
              else
                match e.resolve (chSrc p) (ceilDiv (chLen p) 512) with
                | .error c => ctxFault t e.ctx 0x09 c s1
                | .ok src =>
                  match tileEcc t ecc s1 with
                  | (none, s') => s'
                  | (some s2, _) => sendMessage t slot e outside (bf (x.reg slot rt).toNat 0 32) p k src s2

def FlitBody.isLine : FlitBody → Bool
  | .line _ _ _ => true
  | _ => false
def FlitBody.isCredit : FlitBody → Bool
  | .credit _ _ => true
  | _ => false
/-- A flit carries a line of message `msg`. -/
def FlitBody.ofMsg : FlitBody → Nat → Bool
  | .line _ k _, msg => k = msg
  | _, _ => false

/-- CH_SEND_COMPLETE (R230): the last flit of a message has entered the local port; the slot frees and the add is posted. -/
def execChSendComplete (t : TileId) (msg : Nat) (s : State) : Host.Outcome State Fault Refusal :=
  .next <|
    let x := s.tile t
    match x.msgs.find? (fun m => m.id = msg) with
    | none => s
    | some m =>
      let waiting := m.sent < m.lines || x.router.inj.any (fun f => f.src = t && f.body.ofMsg msg)
      if waiting || !s.tileLit t then s
      else postAdd t m.ctx m.slot m.addId m.addVal (s.setTile t { x with msgs := x.msgs.erase m })

/-! ### Receiving (R231 to R233) -/

/-- Returns freed lines to the sender in one credit flit (R232). -/
def creditBack (t : Nat) (k : Endpoint) (ctx lines : Nat) (s : State) : State :=
  if lines = 0 || (s.replays ctx && !((s.ctx ctx).any (fun c => c.hasTile k.peerTile))) then s
  else
    match sendRefusal s k.peerTile with
    | some c => ctxFault t ctx 0x09 c s
    | none => inject t [{ vn := .l, src := t, dst := k.peerTile, ctx := ctx, body := .credit k.peerEp lines }] s

/-- Skip markers at the head are consumed: their lines are freed and the head moves to line 0. A marker with no message before it has nothing that a release would name, so it goes at once (log entry 12). -/
def Endpoint.dropSkips (k : Endpoint) : Endpoint × Nat :=
  match k.inbox with
  | m :: r => if m.skip then ({ k with inbox := r, pos := 0, free := k.free - m.lines }, m.lines) else (k, 0)
  | [] => (k, 0)

/-- Writes the collected lines of a billet: all 8 as a billet, fewer through the merge buffer (R231). -/
def flushLines (t n : Nat) (e : MapEntry) (s : State) : State :=
  let k := (s.tile t).ep n
  match k.part with
  | [] => s
  | (l, _) :: _ =>
    let bs := k.part.flatMap (·.2)
    let bil := e.base .tinder + k.ringBase + l / 8
    let s1 := s.modTile t (·.modEp n (fun k => { k with part := [] }))
    if bs.length = 512 then postWrite t .dma .tinder bil bs (.chan n) s1
    else queueMerge t .tinder bil (64 * (l % 8)) bs (.chan n) s1

/-- A line of a message or a skip marker lands at its endpoint. -/
def takeLine (t n : Nat) (bytes : List Byte) (last : Bool) (e : MapEntry) (s : State) : State :=
  let k := (s.tile t).ep n
  let ring := 8 * k.ringBillets
  let first := !(k.inbox.any (fun m => m.left ≠ 0))
  if first && bit (bytesAt bytes 2 1) 0 then
    let lines := bytesAt bytes 12 4
    let bil := e.base .tinder + k.ringBase + k.wline / 8
    let s1 := queueMerge t .tinder bil (64 * (k.wline % 8)) (bytes.take 16) (.chan n) s
    let (k', freed) := ({ k with wline := 0, free := k.free + lines, inbox := k.inbox ++ [{ line := k.wline, lines := lines, skip := true }] } : Endpoint).dropSkips
    creditBack t k e.ctx freed (s1.modTile t (fun x => { x with eps := sset x.eps n k' }))
  else
    let lines := bytesAt bytes 12 4
    let inbox :=
      if first then k.inbox ++ [{ line := k.wline, lines := lines, len := bytesAt bytes 0 2, left := lines - 1 }]
      else k.inbox.map (fun m => if m.left ≠ 0 then { m with left := m.left - 1 } else m)
    let s1 := s.modTile t (·.modEp n (fun k => { k with
      inbox := inbox, part := k.part ++ [(k.wline, bytes)]
      free := if first then k.free + lines else k.free
      wline := (k.wline + 1) % ring }))
    if last || k.wline % 8 = 7 then flushLines t n e s1 else s1

/-- A channel flit for an endpoint that is not bound is discarded, counted and logged (R233). -/
def strayChannel (t : Nat) (s : State) : State :=
  tileFault t 0x09 0x20 (s.modTile t (fun x => { x with chStray := satAdd 32 x.chStray 1 }))

/-- Map entry of the context that holds an endpoint of that role. -/
def Tile.epEntry (x : Tile) (n : Nat) (recv : Bool) : Option MapEntry :=
  let k := x.ep n
  if k.valid && k.recv = recv then x.entry k.slot else none

/-- CHANNEL_LINE_ARRIVAL (R194, R199, R231, R233): the next line of a channel at this tile lands in its receive ring; a running replay takes the recorded lines instead (R397). -/
def execChannelLineArrival (site : Site) (s : State) : Host.Outcome State Fault Refusal :=
  .next <|
    let t := site.val
    let cap := s.forn.cap
    if s.statues then s
    else
      match (if (s.tile t).runCtx.any s.replays then cap.toTake.find? (fun a => a.tile = t.val && a.kind = 3) else none) with
      | some a =>
        let s1 := { s with forn := { s.forn with cap := { cap with toTake := cap.toTake.erase a } } }
        match (s.tile t).epEntry (bytesAt a.bytes 0 1) true with
        | some e => takeLine t (bytesAt a.bytes 0 1) (a.bytes.drop 2) (bytesAt a.bytes 1 1 = 1) e s1
        | none => s1
      | none =>
        match takeLoose t FlitBody.isLine (flitOf site.ecc) s with
        | none => s
        | some (none, s1) => s1
        | some (some f, s1) =>
          match f.body with
          | .line n _ last =>
            match (s.tile t).epEntry n true with
            | none => strayChannel t s1
            | some e =>
              if site.ecc = .mapMismatch then mapMismatch t (some e.ctx) s1 else
              let outside := !((s.ctx e.ctx).any (fun c => c.hasTile f.src))
              let s2 := if outside then captureArrival e.ctx t 3 (natLe 1 n ++ natLe 1 (b2n last) ++ f.bytes) s1 else s1
              takeLine t n f.bytes last e s2
          | _ => s1

/-- MESSAGE_DELIVERED (R231): the last line of the oldest message not yet delivered has been written; the arrival add is posted and the message counted. -/
def execMessageDelivered (t : TileId) (ep : Fin 32) (s : State) : Host.Outcome State Fault Refusal :=
  .next <|
    let x := s.tile t
    let k := x.ep ep
    match x.epEntry ep true, k.inbox.find? (fun m => !m.skip && !m.delivered) with
    | some e, some m =>
      if m.left ≠ 0 || !x.quiet (.chan ep) (.chan ep) then s
      else
        postAdd t e.ctx k.slot k.addId k.addVal (s.setTile t ((x.count (some k.slot) 0x2E 1).modEp ep (fun k => { k with
          inbox := k.inbox.replace m { m with delivered := true }
          messages := satAdd 32 k.messages 1 })))
    | _, _ => s

/-- What a core instruction on a receive endpoint acts on; an endpoint that is not one of the running context's is refused (log entry 12). -/
def chRecv (t ep : Nat) (s : State) (f : Nat → MapEntry → Endpoint → State) : State :=
  match coreIssue s t freeCore with
  | none => s
  | some (slot, e) =>
    let k := (s.tile t).ep ep
    if k.valid && k.recv && k.slot = slot then f slot e k else ctxFault t e.ctx 0x09 0x07 s

/-- CH_PEEK (R232): offset and LENGTH of the head message, and whether it is delivered; with no delivered message the manual gives bits [31:0] no value, so they are free (log entry 4). -/
def execChPeek (t : TileId) (ep rd : Fin 32) (s : State) : Host.Outcome State Fault Refusal :=
  .next <| chRecv t ep s fun slot _ k =>
    match k.inbox with
    | m :: _ =>
      if m.delivered then s.modTile t (·.setReg slot rd (BitVec.ofNat 64 (m.line + m.len <<< 16 + 1 <<< 32)))
      else let (v, s1) := s.draw; s1.modTile t (·.setReg slot rd (BitVec.ofNat 64 (bf v.toNat 0 32)))
    | [] => let (v, s1) := s.draw; s1.modTile t (·.setReg slot rd (BitVec.ofNat 64 (bf v.toNat 0 32)))

/-- CH_RELEASE (R232): frees the head message's lines, and those of a skip marker behind it; with no delivered message at the head it is refused. -/
def execChRelease (t : TileId) (ep : Fin 32) (s : State) : Host.Outcome State Fault Refusal :=
  .next <| chRecv t ep s fun _ e k =>
    match k.inbox with
    | m :: r =>
      if m.delivered then
        let (k', skipped) := ({ k with inbox := r, free := k.free - m.lines, pos := (m.line + m.lines) % (8 * k.ringBillets) } : Endpoint).dropSkips
        creditBack t k e.ctx (m.lines + skipped) (s.modTile t (fun x => { x with eps := sset x.eps ep k' }))
      else ctxFault t e.ctx 0x09 0x07 s
    | [] => ctxFault t e.ctx 0x09 0x07 s

/-- CREDIT_FLIT_ARRIVAL (R194, R199, R232): FREE of the send endpoint grows by the freed lines. -/
def execCreditFlitArrival (site : Site) (s : State) : Host.Outcome State Fault Refusal :=
  .next <|
    let t := site.val
    if s.statues then s
    else
      match takeLoose t FlitBody.isCredit (flitOf site.ecc) s with
      | none => s
      | some (none, s1) => s1
      | some (some f, s1) =>
        match f.body with
        | .credit n lines =>
          match (s.tile t).epEntry n false with
          | none => strayChannel t s1
          | some e =>
            if site.ecc = .mapMismatch then mapMismatch t (some e.ctx) s1
            else s1.modTile t (·.modEp n (fun k => { k with free := k.free + lines }))
        | _ => s1

end Sys2Proof.Machine
end

