-- ==== Sys2Proof/Machine/Banks.lean ====
section
/-! DEFINITION. The banks of a tile: grants and what they do, read returns, corrected write-backs, merges, and bank gating (02_tile_and_stores.md R45 to R63). -/

namespace Sys2Proof.Machine

/-! ### Arbitration (R48, R49, R64, R174) -/

/-- Place of a command of that engine in the order of their starts. -/
def BankReq.start (r : BankReq) : Nat :=
  match r.dst with
  | .dma op _ => op
  | .index op _ => op
  | .kput id => id
  | _ => 0

/-- The engine serves `a` before `b`: by part, then commands in start order, then by age (R174). -/
def dmaBefore (a b : BankReq) : Bool :=
  a.part < b.part || (a.part = b.part && (a.start < b.start || (a.start = b.start && a.seq < b.seq)))

/-- The engine, which reads and writes at most 1 billet a cycle, presents this request; a plan entry is read before any other billet (R174). -/
def Tile.dmaTurn (x : Tile) (cycle : Nat) (r : BankReq) : Bool :=
  r.who ≠ .dma || (!(r.wr.isNone && x.planTurn cycle) && !x.dmaUsed cycle r.wr.isSome && (x.dmaReady cycle r.wr.isSome).all (fun q => !dmaBefore q r))

/-- Requests that are presented at a bank in this cycle. -/
def Tile.waiting (x : Tile) (cycle b : Nat) : List BankReq := x.reqs.filter (fun r => r.bank = b && x.ready r && x.dmaTurn cycle r)

/-- `a` is granted before `b`, which is older when they rank equally: a requester that has lost 16 cycles first, then the order of R49; the instruction memory's billet port knows no order but age (R64). -/
def before (a b : BankReq) : Bool :=
  let s := fun (r : BankReq) => if 16 ≤ r.lost then 0 else 1
  if a.bank = 88 then s a < s b else s a < s b || (s a = s b && whoRank a.who < whoRank b.who)

/-- The request a bank grants next. -/
def leader : List BankReq → Option BankReq
  | [] => none
  | r :: rs =>
    match leader rs with
    | none => some r
    | some q => if before q r then some q else some r

/-- Requesters whose far accesses the bond field has carried in this cycle. -/
def Tile.bondUsers (x : Tile) (cycle : Nat) : List Requester := if x.bond.1 = cycle then x.bond.2 else []

/-- `a` of bank `i` ranks above `b` of bank `j` at the bond field (R48). -/
def bondBefore (a : BankReq) (i : Nat) (b : BankReq) (j : Nat) : Bool :=
  before a b || (!before b a && (a.since < b.since || (a.since = b.since && i < j)))

/-- The bond field carries the leading request of far bank `b`: at most 2 a cycle, the two that rank highest (R48). -/
def Tile.bondCarries (x : Tile) (cycle b : Nat) (r : BankReq) : Bool :=
  if b < 64 || b = 88 then true
  else
    let above := (rangeFrom 64 24).filter (fun j =>
      j ≠ b && x.bankFree cycle j && (x.bank j).writeback = [] &&
        (match leader (x.waiting cycle j) with
          | some q => bondBefore q j r b
          | none => false))
    (x.bondUsers cycle).length + above.length < 2

/-- A request of an addition to an ember billet (R241). -/
def BankReq.ofEmber (r : BankReq) : Bool :=
  match r.dst with
  | .ember _ => true
  | _ => false

/-- Requesters among waiting requests other than the one granted; the rick itself where a further segment of a stream shares its bank (R241). -/
def losers (rs : List BankReq) (g : BankReq) : List Requester :=
  requesters.filter (fun w => if w = g.who then g.ofEmber && rs.any (fun r => r.ofEmber && r.dst ≠ g.dst) else rs.any (fun r => r.who = w))

/-- Conflicts that a grant counts for the DMA/carousel engine: parts of it that wait because another part is served, and a request that loses at the billet port (R64, R174). -/
def Tile.dmaLosers (x : Tile) (cycle b : Nat) (r : BankReq) : Nat :=
  (if r.who = .dma then ((List.range 3).filter (fun p => p ≠ r.part && (x.dmaReady cycle r.wr.isSome).any (fun q => q.part = p))).length else 0)
    + b2n (b = 88 && 1 < (x.waiting cycle b).length)

/-- The bank's books after a grant: the request leaves, losers count a conflict and a lost cycle (R49), a far grant uses the bond field (R48), the DMA/carousel engine its read or its write (R174), and a write to a billet takes the place of its pending write-back (R45). -/
def Tile.granted (x : Tile) (cycle b : Nat) (r : BankReq) : Tile :=
  let rs := x.waiting cycle b
  let reqs := (x.reqs.map (fun q =>
    if q.bank = b && rs.contains q then (if q.who = r.who then { q with lost := 0 } else { q with lost := q.lost + 1 }) else q)).erase { r with lost := 0 }
  let y := (if b = 88 then [] else losers rs r).foldl (fun x w => x.count x.run (conflictId w) 1) { x with reqs := reqs }
  let z := y.count y.run (conflictId .dma) (x.dmaLosers cycle b r)
  let k := z.bank b
  { z.setBank b { k with
      lastGrant := cycle + 1
      lastWho := some r.who
      writeback := if r.wr.isSome then k.writeback.filter (· ≠ r.bil) else k.writeback } with
    bond := if 64 ≤ b && b < 88 then (cycle, x.bondUsers cycle ++ [r.who]) else x.bond
    dmaBus := if r.who = .dma then (cycle, !r.wr.isSome || x.dmaUsed cycle false, r.wr.isSome || x.dmaUsed cycle true) else x.dmaBus }

/-- At the end of a cycle a far bank that was in the spacing after a grant to another requester (a write-back is a grant to none), or that lost the bond field to another, counts a conflict for its waiting requesters; a loss at the bond field is a lost cycle (R48, R49). -/
def Tile.tickBank (cycle : Nat) (x : Tile) (b : Nat) : Tile :=
  let rs := x.reqs.filter (fun r => r.bank = b && x.ready r)
  let k := x.bank b
  let ws := fun (p : Requester → Bool) => requesters.filter (fun w => p w && rs.any (fun r => r.who = w))
  let conflict := fun (l : List Requester) (x : Tile) => l.foldl (fun x w => x.count x.run (conflictId w) 1) x
  if rs = [] then x
  else if k.lastGrant = cycle && cycle ≠ 0 then conflict (ws (fun w => k.lastWho.any (· ≠ w))) x
  else if x.bankFree cycle b && k.lastGrant ≤ cycle && 2 ≤ (x.bondUsers cycle).length then
    let lost := ws (fun w => (x.bondUsers cycle).any (· ≠ w))
    conflict lost { x with reqs := x.reqs.map (fun r => if r.bank = b && rs.contains r && lost.contains r.who then { r with lost := r.lost + 1 } else r) }
  else x

/-- The far banks at the end of a cycle, and what the rings of the tile published and consumed in it (R180). -/
def Tile.tickStores (cycle : Nat) (x : Tile) : Tile :=
  let far := nub ((x.reqs.map (·.bank)).filter (fun b => 64 ≤ b && b < 88))
  let y := far.foldl (Tile.tickBank cycle) x
  { y with cars := y.cars.map (fun (p : Nat × Carousel) => (p.1, p.2.settle)) }

/-! ### Refusals by a closed bank (R62) -/

/-- Context of the rick command or stream that a request of the rick acts for. -/
def Tile.rickCtx (x : Tile) (d : ReqDst) : Option Nat :=
  match d with
  | .ember b => (x.rick.works.find? (fun w => w.bil = b)).map (fun w => (x.stream w.stream).ctx)
  | .side n => some (x.stream n).ctx
  | _ => x.rickQ.head?.map (·.ctx)

/-- Merge that holds an entry of the buffer for a billet (R58). -/
def Tile.mergeOf (x : Tile) (st : StoreId) (i : Nat) : Option MergeEntry :=
  x.merges.find? (fun m => m.store = st && m.bil = i && m.stage ≠ .queued)

/-- Context and block of the requester of a request. -/
def reqOwner (x : Tile) (r : BankReq) : Option Nat × Nat :=
  let mat := fun (c : Nat) => ((x.matCmd c).map (·.ctx), 0x02)
  match r.dst with
  | .dma op _ => ((x.op op).map (·.ctx), 0x04)
  | .index op _ => ((x.op op).map (·.ctx), 0x04)
  | .kput id => ((x.ksl.find? (fun k => k.id = id)).map (·.ctx), 0x04)
  | .chan ep => (((x.entry (sgetD x.eps ep {}).slot).map (·.ctx)), 0x09)
  | .chSrc id _ => ((x.msgs.find? (fun m => m.id = id)).map (·.ctx), 0x09)
  | .send _ _ => (x.runCtx, 0x08)
  | .recv _ _ => (x.runCtx, 0x08)
  | .feed c _ _ => mat c
  | .resume c _ => mat c
  | .drain c => mat c
  | .vecSrc _ => (x.vecQ.head?.map (·.ctx), 0x03)
  | .vector => (x.vecQ.head?.map (·.ctx), 0x03)
  | .rickSrc _ => (x.rickCtx r.dst, 0x05)
  | .ember _ => (x.rickCtx r.dst, 0x05)
  | .side _ => (x.rickCtx r.dst, 0x05)
  | .rick => (x.rickCtx r.dst, 0x05)
  | .coreReg _ _ _ => (x.runCtx, 0x01)
  | .merge =>
    match x.mergeOf r.store r.bil with
    | some m =>
      match m.org with
      | .kget id => ((x.ksl.find? (fun k => k.id = id)).map (·.ctx), 0x04)
      | .chan ep => ((x.entry (sgetD x.eps ep {}).slot).map (·.ctx), 0x09)
      | .scale c => mat c
      | .cvtTail => (x.vecQ.head?.map (·.ctx), 0x03)
      | .rick => (x.rickQ.head?.map (·.ctx), 0x05)
      | .core => (x.runCtx, 0x01)
    | none => (none, 0x06)
  | .none => (none, 0x06)

/-- The first queue entry ends with a fault, and so posts no add (R62). -/
def failHead (q : List QEntry) : List QEntry :=
  match q with
  | [] => []
  | e :: r => if e.started then { e with faulted := true, done := true } :: r else e :: r

/-- The head vector command ends with a fault and asks for nothing more (R452). DESIGN CHOICE (log entry 45): results that it has presented and that no bank has granted yet are not written. -/
def Tile.failVec (x : Tile) : Tile := { x.dropReqs (fun d => d.isVecSrc || d = .vector) with vecQ := failHead x.vecQ }
/-- The head rick command ends with a fault and asks for nothing more (R452); what it has presented and no bank has granted is not written (log entry 45). -/
def Tile.failRick (x : Tile) : Tile := { x.dropReqs (fun d => d.isRickSrc || d = .rick) with rickQ := failHead x.rickQ }

/-- What the origin of a sub-billet write makes of its refusal. -/
def Tile.failMerge (x : Tile) (m : MergeEntry) : Tile :=
  let y := { x with merges := x.merges.erase m }
  match m.org with
  | .kget id => y.modK id (fun k => { k with done := true, failed := true })
  | .scale c => y.failMat c
  | .cvtTail => y.failVec
  | .rick => y.failRick
  | _ => y

/-- What the origin of a request makes of its refusal: a DMA descriptor or an engine's command ends faulted, an addition is given up. -/
def Tile.failReq (x : Tile) (r : BankReq) : Tile :=
  match r.dst with
  | .dma op _ =>
    { (x.modOp op (fun o => { o with faulted := true })).dropReqs (·.ofOp op) with ranges := x.ranges.filter (fun e => e.op ≠ op) }
  | .index op _ => (x.modOp op (fun o => { o with faulted := true })).dropReqs (·.ofOp op)
  | .kput id => x.modK id (fun k => { k with done := true, failed := true })
  | .coreReg _ _ _ => x.setStall .none
  | .chSrc id _ => x.dropMsg id
  | .feed c _ _ => x.failMat c
  | .resume c _ => x.failMat c
  | .drain c => x.failMat c
  | .vecSrc _ => x.failVec
  | .vector => x.failVec
  | .rickSrc _ => x.failRick
  | .rick => x.failRick
  | .ember b => { x with rick := { x.rick with works := x.rick.works.filter (fun w => w.bil ≠ b) } }
  | .side n => { x with rick := { x.rick with sides := match x.rick.sides.find? (fun a => a.cont.stream = n) with | some a => x.rick.sides.erase a | none => x.rick.sides } }
  | .merge => match x.mergeOf r.store r.bil with | some m => x.failMerge m | none => x
  | _ => x

/-- A request is refused with a bank-dark fault (R62): the refused access is dropped, its origin ends faulted, and the requester's context stops on the tile. -/
def refuseDark (t : Nat) (r : BankReq) (s : State) : State :=
  let x := s.tile t
  let (c, blk) := reqOwner x r
  let hostOp : Option Nat := match r.dst with
    | .dma op _ => if (x.op op).any (fun o => o.host) then some op else none
    | _ => none
  let s1 := s.modTile t (fun x => ({ x with reqs := x.reqs.erase r } : Tile).failReq r)
  match hostOp, c with
  | some op, _ => (tileFault t blk 0x08 s1).modTile t (·.modOp op (fun o => { o with code := faultCode blk 0x08 }))
  | none, some c => ctxFault t c blk 0x08 s1
  | none, none => tileFault t blk 0x08 s1

/-! ### What a grant does -/

/-- Billets of a stream written with none before them outstanding. -/
def DmaOp.advance : Nat → DmaOp → DmaOp
  | 0, o => o
  | fuel + 1, o => if o.got.contains o.written then DmaOp.advance fuel { o with got := o.got.erase o.written, written := o.written + 1 } else o

/-- Physical billets of a slot of a ring. -/
def slotBils (e : MapEntry) (c : Carousel) (j : Nat) : List Nat := rangeFrom (e.base c.place.1 + c.place.2 + j * c.slotBillets) c.slotBillets

/-- A slot that a stream begun before the capture publishes is recorded whole, behind its carousel and its add (R395). -/
def captureSlot (t : Nat) (o : DmaOp) (key : Nat) (s : State) : State :=
  let x := s.tile t
  match x.car key, x.entry o.slot with
  | some c, some e =>
    if s.begunBefore t o.id then
      captureArrival o.ctx t 7 (natLe 1 (key % 16) ++ natLe 1 (dSlotAddId o.cmd) ++ natLe 1 (dSlotAddVal o.cmd)
        ++ (slotBils e c c.nextSlot).flatMap (x.billet c.place.1)) s
    else s
  | _, _ => s

/-- The replay of a slot that a stream begun before S published: as soon as its ring has a free slot, the recorded slot is put there and published, and its add posted (R397). -/
def replaySlot (t n : Nat) (s : State) : State :=
  let x := s.tile t
  match s.ctx n, s.forn.cap.toTake.find? (fun a => a.tile = t && a.kind = 7) with
  | some k, some a =>
    let key := carKey k.slot (bytesAt a.bytes 0 1)
    match x.car key, x.entry k.slot with
    | some c, some e =>
      if c.slots ≤ c.full then s
      else
        let put := fun (x : Tile) (p : Nat × Nat) => x.writeAt c.place.1 p.1 0 ((a.bytes.drop (3 + 512 * p.2)).take 512)
        postAdd t n k.slot (bytesAt a.bytes 1 1) (bytesAt a.bytes 2 1)
          ({ s with forn := { s.forn with cap := { s.forn.cap with toTake := s.forn.cap.toTake.erase a } } }.modTile t
            (fun x => ((slotBils e c c.nextSlot).zipIdx.foldl put x).modCar key (·.publish)))
    | _, _ => s
  | _, _ => s

/-- Billet `k` of a started command has been written: in a stream, the last billet of a slot, when every earlier one is written too, publishes the slot and posts its add (R179, R185). -/
def billetWritten (t op k : Nat) (s : State) : State :=
  match (s.tile t).op op with
  | none => s
  | some o =>
    if !o.stream then s.modTile t (·.modOp op (fun o => { o with written := o.written + 1 }))
    else
      match (s.tile t).opCar o with
      | none => s
      | some (key, c) =>
        let o1 := DmaOp.advance (o.got.length + 1) { o with got := o.got ++ [k] }
        let n := o1.written / c.slotBillets - o.pub
        forAll (List.range n) (fun _ s =>
          postAdd t o.ctx o.slot (dSlotAddId o.cmd) (dSlotAddVal o.cmd)
            ((captureSlot t o key s).modTile t (fun x => (x.modCar key (·.publish)).modOp op (fun o => { o with pub := o.pub + 1 }))))
          (s.modTile t (·.modOp op (fun _ => o1)))

/-- The merge of a billet that holds an entry of the buffer goes to a stage. -/
def Tile.mergeTo (x : Tile) (st : StoreId) (i : Nat) (g : MergeStage) : Tile :=
  { x with merges := x.merges.map (fun m => if m.store = st && m.bil = i && m.stage ≠ .queued then { m with stage := g } else m) }

/-- A granted write lands in its store, and is counted for what it belongs to. -/
def applyWrite (t : Nat) (r : BankReq) (bs : List Byte) (s : State) : State :=
  let s1 := s.modTile t (·.writeAt r.store r.bil 0 bs)
  match r.dst with
  | .dma op k => billetWritten t op k s1
  | .merge => s1.modTile t (·.mergeTo r.store r.bil .granted)
  | .recv n _ => s1.modTile t (·.modEnt n (fun e => { e with wrote := e.wrote + 1 }))
  | d => s1.modTile t (rickWritten d)

/-- The read of a ring billet is granted, which consumes the billet (R179). -/
def Tile.consume (x : Tile) (r : BankReq) : Tile :=
  match r.car with
  | some k => x.modCar k (·.take)
  | none => x

/-- STORE_ACCESS_GRANT (R46 to R49, R62): the bank grants its leading request, unless a corrected billet waits to be written back (R45). -/
def execStoreAccessGrant (t : TileId) (b : Fin 89) (s : State) : Host.Outcome State Fault Refusal :=
  .next <|
    let x := s.tile t
    let now := s.tileCycle t
    match leader (x.waiting now b) with
    | none => s
    | some r =>
      if !x.bankFree now b || (x.bank b).writeback ≠ [] || !x.bondCarries now b r || (b.val = 88 && x.planTurn now) then s
      else if !(x.bankOpen b || (r.acc && (x.bank b).st = .closing)) then refuseDark t r s
      else
        let s1 := s.modTile t (·.granted now b r)
        match r.wr with
        | some bs => applyWrite t r bs s1
        | none =>
          let image := x.billet r.store r.bil
          s1.modTile t (fun x => ({ x with reads := x.reads ++ [{ r with readyAt := now + bankLatency b, data := image }] } : Tile).consume r)

/-! ### Read returns (R45, R46) -/

/-- The read of billet `k` of a DMA command has returned: to the host, to the store of an UNLOAD, or on to HBM (R174, R326). -/
def opData (t : Nat) (o : DmaOp) (k : Nat) (bs : List Byte) (s : State) : State :=
  let up := fun (o : DmaOp) => { o with written := o.written + 1 }
  if o.host then s.modTile t (·.modOp o.id (fun o => { up o with buf := overlay o.buf (512 * k) bs }))
  else if dOp o.cmd = 5 then postWrite t .dma o.store (o.physBase + k) bs (.dma o.id k) s
  else pumpOp t o.id (s.modTile t (fun x => { x with arrived := x.arrived ++ [(.dma o.id k, bs)] }))

/-- A KPUT's billet has returned: the bytes it names set out to HBM (R191, R193). -/
def kputData (t : Nat) (k : KSlot) (data : List Byte) (s : State) : State :=
  let bs := (data.drop k.off).take k.len
  let s1 := s.modTile t (·.modK k.id (fun k => { k with sent := true }))
  if s.replays k.ctx then (replayOutput t 1 bs s1).modTile t (·.modK k.id (fun k => { k with done := true }))
  else sendWrite { addr := k.addr, bytes := bs, ctx := k.ctx, org := .kput t k.id } (kRequest t k (1 + ceilDiv k.len 64) s1)

/-- Gives a billet to what asked for it; an engine's waits with the engine. -/
def deliver (t : Nat) (r : BankReq) (s : State) : State :=
  let x := s.tile t
  match r.dst with
  | .coreReg slot reg d =>
    s.modTile t (fun x => (x.setReg slot reg (BitVec.ofNat 64 (bytesAt r.data (8 * d) 8))).setStall .none)
  | .dma op k =>
    match x.op op with
    | none => s
    | some o => opData t o k r.data s
  | .index op _ =>
    let ws := (List.range 128).map (fun j => BitVec.ofNat 32 (bytesAt r.data (4 * j) 4))
    pumpOp t op (s.modTile t (·.modOp op (fun o => { o with idxs := o.idxs ++ ws })))
  | .merge =>
    match x.merges.find? (fun m => m.store = r.store && m.bil = r.bil && m.stage = .reading) with
    | none => s
    | some m =>
      postWrite t .merge r.store r.bil (overlay r.data m.off m.bytes) .merge (s.modTile t (·.mergeTo r.store r.bil .writing))
  | .kput id =>
    match x.ksl.find? (fun k => k.id = id) with
    | none => s
    | some k => kputData t k r.data s
  | .send n k => pumpSends t (s.modTile t (·.modEnt n (fun e => { e with buf := e.buf ++ [(k, r.data)] })))
  | .none => s
  | .chSrc id _ => pumpMsg t id (s.modTile t (fun x => { x with arrived := x.arrived ++ [(r.dst, r.data)] }))
  | d => s.modTile t (fun x => { x with arrived := x.arrived ++ [(d, r.data)] })

/-- STORE_READ_DATA_RETURN (R45, R46): the oldest granted read whose latency has passed delivers its billet; a corrected billet is to be written back unless a write has replaced it. -/
def execStoreReadDataReturn (t : TileId) (ecc : Ecc) (s : State) : Host.Outcome State Fault Refusal :=
  .next <|
    let x := s.tile t
    match x.reads.find? (fun r => r.readyAt ≤ s.tileCycle t) with
    | none => s
    | some r =>
      let s0 := s.modTile t (fun x => { x with reads := x.reads.erase r })
      match ecc with
      | .clean => deliver t r s0
      | .corrected =>
        let slot := (reqOwner x r).1.bind x.slotOf
        let s1 := storeCorrected t slot s0
        let s2 := if x.billet r.store r.bil = r.data then
            s1.modTile t (·.oweBack r.bank r.bil) else s1
        deliver t r s2
      | .uncorrectable =>
        let s1 := match r.dst with
          | .dma op _ => s0.modTile t (fun x => if (x.op op).any (fun o => o.host) then x.modOp op (fun o => { o with faulted := true, code := faultCode 0x06 0x10 }) else x)
          | _ => s0
        tileUncorrectable t s1

/-- CORRECTED_BILLET_WRITEBACK (R45): the bank spends its grant on the oldest corrected billet, whose data stays as it was read. -/
def execCorrectedBilletWriteback (t : TileId) (b : Fin 89) (s : State) : Host.Outcome State Fault Refusal :=
  .next <|
    let x := s.tile t
    let k := x.bank b
    if k.writeback ≠ [] && x.bankFree (s.tileCycle t) b then
      s.setTile t (x.setBank b { k with writeback := k.writeback.drop 1, lastGrant := s.tileCycle t + 1, lastWho := none })
    else s

/-! ### Merges (R58) -/

/-- SUB_BILLET_WRITE (R58, R191): the oldest write that waits at a store, of a billet with no merge in progress and no earlier KPUT that still reads it, takes one of the 4 entries of its merge buffer and reads its billet. -/
def execSubBilletWrite (t : TileId) (st : StoreId) (s : State) : Host.Outcome State Fault Refusal :=
  .next <|
    let x := s.tile t
    if 4 ≤ (x.merges.filter (fun m => m.store = st && m.stage ≠ .queued)).length then s
    else
      match x.merges.find? (fun m => m.store = st && m.stage = .queued && !x.inMerge st m.bil && !x.kputWaits st m.bil m.seq) with
      | none => s
      | some m =>
        let s1 := s.setTile t { x with merges := x.merges.replace m { m with stage := .reading } }
        postRead t .merge st m.bil .merge s1

/-- MERGE_COMPLETE (R58): the oldest merge of a store whose write-back has been granted leaves the buffer; the bytes of a KGET are then in place. The check is that of the buffer entry (R409). -/
def execMergeComplete (site : Checked TileId) (st : StoreId) (s : State) : Host.Outcome State Fault Refusal :=
  .next <|
    let t := site.val
    match (s.tile t).merges.find? (fun m => m.store = st && m.stage = .granted) with
    | none => s
    | some m =>
      match tileEcc t (checkOf site.ecc) s with
      | (none, s') => s'
      | (some s1, _) =>
        s1.modTile t (fun x =>
          let y := { x with merges := x.merges.erase m }
          match m.org with
          | .kget id => y.modK id (fun k => { k with done := true })
          | _ => y)

/-! ### Bank gating (R60 to R63, R65) -/

/-- A bank lies inside a slice of the tile's context map (R60); a slice of no billets holds none. -/
def Tile.bankMapped (x : Tile) (b : Nat) : Bool :=
  let (st, first, n) := bankBillets b
  x.map.any (fun p => 0 < p.2.size st && rangesMeet (p.2.base st) (p.2.size st) first n)

/-- Banks a gate register names: near 0 to 31, near 32 to 63, far 0 to 23 (R65). -/
def gateBanks (reg : Nat) : Nat × Nat := if reg = 0 then (0, 32) else if reg = 1 then (32, 32) else (64, 24)

/-- A closing bank takes note of what it has accepted: the requests that are ready there, of which at most 8 are writes (R61). A read that is held reaches the bank only when it is free (R55). -/
def Tile.acceptAll (x : Tile) (b : Nat) : Tile :=
  { x with reqs := (x.reqs.foldl (fun (a : List BankReq × Nat) r =>
      if r.bank = b && x.ready r && (r.wr.isNone || a.2 < 8) then (a.1 ++ [{ r with acc := true }], a.2 + b2n r.wr.isSome) else (a.1 ++ [r], a.2)) ([], 0)).1 }

/-- One bank's gate bit is written (R60, R61, R63). DESIGN CHOICE (log entry 46): a bank whose bit is cleared while it is still closing is lit at once and keeps its contents; the request to gate a bank that is waking or zeroing, outside every slice, has no effect on it, so that it ends lit with its bit reading 1. -/
def Tile.gateBank (x : Tile) (cycle b : Nat) (dark : Bool) : Tile :=
  let k := x.bank b
  if dark then
    if k.st = .dark || k.st = .closing then x
    else if x.bankMapped b then { x with gateRefused := true }
    else if k.st = .lit then (x.acceptAll b).setBank b { k with st := .closing, closedAt := cycle }
    else x
  else
    match k.st with
    | .closing => x.setBank b { k with st := .lit }
    | .dark => x.setBank b { k with st := .waking }
    | _ => x

/-- A gate register as a value: a refused bank keeps its bit clear (R60). -/
def Tile.gateValue (x : Tile) (reg : Nat) (v : Word) : Word :=
  let (first, n) := gateBanks reg
  (List.range n).foldl (fun w j =>
    let st := (x.bank (first + j)).st
    let refused := st ≠ .dark && st ≠ .closing && x.bankMapped (first + j)
    if v.getLsbD j && !refused then w ||| BitVec.ofNat 32 (2 ^ j) else w) 0

/-- A write of a gate register by the control processor: each bank's bit is a request (R60, R61, R63). -/
def Tile.writeGate (x : Tile) (cycle reg : Nat) (val : Word) : Tile :=
  let (first, n) := gateBanks reg
  let y := (List.range n).foldl (fun y j => y.gateBank cycle (first + j) (val.getLsbD j)) x
  { y with gate := sset y.gate reg (x.gateValue reg val) }

/-- BANK_POWER_OFF (R61): a closed bank whose accepted accesses have all been served is dark, and its contents are lost. -/
def execBankPowerOff (t : TileId) (b : Fin 88) (s : State) : Host.Outcome State Fault Refusal :=
  .next <|
    let x := s.tile t
    let k := x.bank b
    if k.st = .closing && x.reqs.all (fun r => r.bank ≠ b || !r.acc) && x.reads.all (fun r => r.bank ≠ b) then
      s.setTile t (x.setBank b { k with st := .dark, writeback := [] })
    else s

/-- BANK_POWER_RESTORED (R63): power is back and zeroing begins. -/
def execBankPowerRestored (t : TileId) (b : Fin 88) (s : State) : Host.Outcome State Fault Refusal :=
  .next <|
    let x := s.tile t
    if (x.bank b).st = .waking then s.setTile t (x.setBank b { x.bank b with st := .zeroing }) else s

/-- BANK_WAKE_COMPLETE (R63): every billet has been written to zero, and the bank is lit. -/
def execBankWakeComplete (t : TileId) (b : Fin 88) (s : State) : Host.Outcome State Fault Refusal :=
  .next <|
    let x := s.tile t
    let (st, first, n) := bankBillets b
    if (x.bank b).st = .zeroing then
      s.setTile t { x.setBank b { x.bank b with st := .lit } with
        store := x.store.filter (fun p => p.1 < bilOff st first || bilOff st (first + n) ≤ p.1) }
    else s

end Sys2Proof.Machine
end

