-- ==== Sys2Proof/Machine/Forensics.lean ====
section
/-! DEFINITION. The ash pit's enable and header, tag loads, snapshot and capture requests, replays, and Statues with its scan-out and RECOVER (R382 to R403; 16_forensics.md). -/

namespace Sys2Proof.Machine

/-! ### The ash pit (R382, R384) -/

/-- A header slot that holds a header: the scan area's fields are kept through a new enable (R384). -/
def Forensics.takeHeader (f : Forensics) (h : List Byte) : Forensics :=
  let fl := bytesAt h 6 2
  if h.take 4 = [0x41, 0x53, 0x48, 0x50] then
    { f with
      scanValid := bit fl 2, scanTrunc := bit fl 3, scanInc := bit fl 4, scanWritten := bytesAt h 112 8, stTick := bytesAt h 120 6
      hdrCause := bytesAt h 126 2 }
  else f

/-- The checks of an enable, with the control word already in place (R382). -/
def enableChecks (g : Forensics) (s : State) : List (Bool × Nat) :=
  [ (decide (hbmBytes < g.base + g.pitBytes), 0x06)
  , (!g.fits, 0x02)
  , (s.ctxs ≠ [] || (s.stacksOf g.base g.pitBytes).any (fun k => (s.stack k).st = .untrained), 0x07)
  , ((s.stacksOf g.base g.pitBytes).any s.stackFenced, 0x09) ]

/-- A write of ASHPIT_CTRL: while ENABLE is 1 it can only be cleared; an enable restarts the record area and the phase log, and after a change of format takes the old header over into the new slot (R374, R382, R384). -/
def writeAshCtrl (v : Word) (s : State) : State :=
  let f := s.forn
  let on := v.getLsbD 12
  if f.pitOn then
    checkedWrite 0x70 0 0x108 [(on || s.ctxs ≠ [], 0x07)] s fun s =>
      let s1 := writeHeader s
      { s1 with forn := { s1.forn with ctrl := s1.forn.ctrl &&& 0xFFFFEFFF } }
  else
    let g : Forensics := { f with ctrl := v }
    let range := [(bf v.toNat 0 11 = 0 || decide (1024 < bf v.toNat 0 11) || bf v.toNat 13 11 = 0, 0x02)]
    if !on then checkedWrite 0x70 0 0x108 range s fun s => { s with forn := g }
    else
      checkedWrite 0x70 0 0x108 (range ++ enableChecks g s) s fun s =>
        let slot := if s.sec.pitOld then 1 - s.sec.pitSlot else s.sec.pitSlot
        let k := { g.takeHeader (s.hbmRead (g.base + 4096 * slot) 128) with
          phaseNext := 0, phaseWraps := 0, recNext := 0, recOldest := 0, recs := [], caps := [] }
        let s1 := writeHeader { s with forn := k }
        if s1.sec.pitClear then clearOldHeader s1 else s1

/-- ASHPIT_ENABLE_WRITE (R382). -/
def execAshpitEnableWrite (src : Source) (v : Word) (s : State) : Host.Outcome State Fault Refusal :=
  .next (withReg src 0x70 0 0x108 s (writeAshCtrl v))

/-- ASHPIT_HEADER_REWRITE (R384): the control complex rewrites the valid header slot. -/
def execAshpitHeaderRewrite (s : State) : Host.Outcome State Fault Refusal :=
  .next <| if s.awake then writeHeader s else s

/-! ### Tag loads (R390) -/

/-- Clusters whose tag cache a context owns. -/
def State.cachesOf (s : State) (n : Nat) : List Nat := (s.clusters.filter (fun p => p.2.owner = some n)).map (·.1)

/-- A write of TAG_LOAD_VALUE: the entry TAG_LOAD_KEY names takes it in every cache the context owns; bits [31:28] stay 0 (R6, R390). -/
def writeTag (v : Word) (s : State) : State :=
  let n := bf s.forn.tagKey.toNat 0 6
  let tag := bf s.forn.tagKey.toNat 6 8
  let few := (s.ctx n).all (fun c => decide (c.pw * c.ph < 4))
  let w := v &&& 0x0FFFFFFF
  checkedWrite 0x70 0 0x120 [(few || s.cachesOf n = [], 0x07)] s fun s =>
    forAll (s.cachesOf n) (fun k s => s.modCluster k (fun q => { q with tags := sset q.tags tag w }))
      { s with forn := { s.forn with tagVal := w } }

/-- TAG_LOAD (R390). -/
def execTagLoad (src : Source) (v : Word) (s : State) : Host.Outcome State Fault Refusal :=
  .next (withReg src 0x70 0 0x120 s (writeTag v))

/-! ### Snapshot and capture requests (R391, R394) -/

/-- The checks of arming a snapshot request (R391). -/
def armChecks (q : Snap) (s : State) : List (Bool × Nat) :=
  let live := s.ctx q.ctx
  [ (bf q.ctrl.toNat 8 2 = 3, 0x01)
  , (live.any (fun c => decide (c.entry.size q.store < q.first + q.count)), 0x05)
  , (live.any (fun c => q.oneTile && decide (c.tiles.length ≤ q.tile)), 0x06)
  , (q.count = 0 || decide (8192 < q.count), 0x02)
  , (live.isNone || s.policyShut || live.any (fun c => !q.byTick && decide (q.trigger < c.superstep)), 0x07) ]

/-- A write of SNAP_CTRL: ARM arms the request or is refused; a request that waits can be taken back (R391). -/
def writeSnap (n : Nat) (v : Word) (s : State) : State :=
  let q := sgetD s.forn.snaps n {}
  let q' : Snap := { q with ctrl := v &&& 0x003FFFFF }
  let arm := v.getLsbD 0
  let busy := q.st = 2 || (arm && q.st = 1)
  checkedWrite 0x70 0 (0x200 + 32 * n) ((busy, 0x07) :: (if arm then armChecks q' s else [])) s fun s =>
    let st := if arm then 1 else if q.st = 1 then 0 else q.st
    { s with forn := { s.forn with snaps := sset s.forn.snaps n { q' with st := st, fired := false, addr := 0 } } }

/-- SNAPSHOT_ARM (R391). -/
def execSnapshotArm (src : Source) (n : Fin 4) (v : Word) (s : State) : Host.Outcome State Fault Refusal :=
  .next (withReg src 0x70 0 (0x200 + 32 * n) s (writeSnap n v))

/-- S of a capture request. -/
def Capture.trigger (c : Capture) : Nat := c.stepLo.toNat + bf c.stepHi.toNat 0 16 <<< 32

/-- A write of CAP_CTRL: ARM arms the capture under the rules of R391; one capture can be armed at a time (R394). -/
def writeCapture (v : Word) (s : State) : State :=
  let c := s.forn.cap
  let arm := v.getLsbD 0
  let live := s.ctx (bf v.toNat 1 6)
  let busy := c.st = 2 || (arm && c.st = 1)
  let bad := arm && (live.isNone || s.policyShut || live.any (fun k => decide (c.trigger ≤ k.superstep)))
  checkedWrite 0x70 0 0x280 [(busy || bad, 0x07)] s fun s =>
    { s with forn := { s.forn with cap := { s.forn.cap with ctrl := v &&& 0x7F, st := if arm then 1 else if c.st = 1 then 0 else c.st } } }

/-- CAPTURE_ARM (R394). -/
def execCaptureArm (src : Source) (v : Word) (s : State) : Host.Outcome State Fault Refusal :=
  .next (withReg src 0x70 0 0x280 s (writeCapture v))

/-! ### Replay (R396) -/

/-- Copies `n` bytes of one byte memory over another's. -/
def memCopy (src : Memory) (a n : Nat) (dst : Memory) (b : Nat) : Memory :=
  (src.filter (fun p => a ≤ p.1 && decide (p.1 < a + n))).foldl (fun m p => memPut m (b + p.1 - a) p.2)
    (dst.filter (fun p => decide (p.1 < b) || b + n ≤ p.1))

/-- The slices of a captured tile, put where the diagnostic context has its own. -/
def copySlices (y : Tile) (e e' : MapEntry) (x : Tile) : Tile :=
  let part := fun (m : Memory) (st : StoreId) => memCopy y.store (bilOff st (e.base st)) (512 * e.size st) m (bilOff st (e'.base st))
  let m := part (part (part x.store .woodpile) .tinder) .ember
  { x with store := memCopy y.store (storeOff .imem + 1024 * e.imBase) (1024 * e.imSize) m (storeOff .imem + 1024 * e'.imBase) }

/-- Register bank, window and carousels of a captured tile. -/
def copySlot (y : Tile) (e e' : MapEntry) (k k' : Nat) (x : Tile) : Tile :=
  let bank : CoreBank := { sgetD y.banks k {} with vflags := y.vflags }
  let ctr := (List.range e.ctrSize).foldl (fun m j => sset m (e'.ctrBase + j) (y.counter (e.ctrBase + j))) x.ctr
  let sat := (List.range e.ctrSize).foldl (fun (w : BitVec 64) j =>
    let b := BitVec.ofNat 64 (2 ^ (e'.ctrBase + j))
    if y.sat.getLsbD (e.ctrBase + j) then w ||| b else w &&& ~~~b) x.sat
  let cars := (y.cars.filter (fun p => p.1 / 16 = k)).foldl (fun m p => sset m (16 * k' + p.1 % 16) { p.2 with prod := none, cons := none })
    (x.cars.filter (fun p => p.1 / 16 ≠ k'))
  { x with banks := sset x.banks k' bank, ctr := ctr, sat := sat, cars := cars }

/-- The tile of the diagnostic partition at the place of a tile of the captured one; a tile outside stays as it is. -/
def mapTile (c d : Ctx) (t : Nat) : Nat :=
  if c.hasTile t then tileAt (tileX t - 4 * c.px + 4 * d.px) (tileY t - 4 * c.py + 4 * d.py) else t

/-- Rick streams of the captured context. -/
def ownStreams (y : Tile) (n : Nat) : List (Nat × RickStream) := y.rick.streams.filter (fun p => p.2.defined && p.2.ctx = n)

/-- Rick streams and endpoints of a captured tile. -/
def copyTables (y : Tile) (c d : Ctx) (n n' : Nat) (x : Tile) : Tile :=
  let shift := fun (b : Nat) => b - c.entry.emBase + d.entry.emBase
  let streams := (ownStreams y n).foldl (fun m p => sset m p.1
    { p.2 with slot := d.slot, ctx := n', base := shift p.2.base, sideBase := shift p.2.sideBase, peerTile := mapTile c d p.2.peerTile }) x.rick.streams
  let eps := (y.eps.filter (fun p => p.2.valid && p.2.slot = c.slot)).foldl (fun m p => sset m p.1
    { p.2 with slot := d.slot, peerTile := mapTile c d p.2.peerTile }) x.eps
  { x with rick := { x.rick with streams := streams }, eps := eps }

/-- An open output tile of a captured tile: its spill image goes into the diagnostic context's spill region. -/
def copyOpen (y : Tile) (d : Ctx) (x : Tile) : Tile :=
  if !y.matrix.isOpen then { x with matrix := { x.matrix with slotOpen := x.matrix.slotOpen &&& ~~~(BitVec.ofNat 8 (2 ^ d.slot)) } }
  else
    let (_, img) := spillImage y.matrix.values
    let z := img.foldl (fun (x : Tile) p => x.writeAt .ember (d.entry.emBase + d.entry.spillBase + p.1) 0 p.2) x
    { z with matrix := { z.matrix with slotOpen := z.matrix.slotOpen ||| BitVec.ofNat 8 (2 ^ d.slot) } }

/-- Loads one captured tile into the tile of the diagnostic partition at its place. -/
def loadTile (c d : Ctx) (n n' : Nat) (p : Nat × Tile) (s : State) : State :=
  s.modTile (mapTile c d p.1) (fun x =>
    copyOpen p.2 d (copyTables p.2 c d n n' (copySlot p.2 c.entry d.entry c.slot d.slot (copySlices p.2 c.entry d.entry x))))

/-- What the diagnostic context must share with the captured one (R396). -/
def replayMatch (c d : Ctx) : Bool :=
  c.digest = d.digest && c.pw = d.pw && c.ph = d.ph && c.entry.wpSize = d.entry.wpSize && c.entry.tiSize = d.entry.tiSize
    && c.entry.emSize = d.entry.emSize && c.entry.imSize = d.entry.imSize && c.entry.ctrSize = d.entry.ctrSize && c.seed = d.seed

/-- A rick stream that the capture defines is in use by another context on a tile of the diagnostic partition. -/
def streamTaken (k : Capture) (c d : Ctx) (n n' : Nat) (s : State) : Bool :=
  k.tiles.any (fun p => (ownStreams p.2 n).any (fun q => let r := (s.tile (mapTile c d p.1)).stream q.1; r.defined && r.ctx ≠ n'))

/-- Loads a capture into the diagnostic context, whose superstep number becomes S (R396). -/
def loadReplay (k : Capture) (c d : Ctx) (n n' : Nat) (s : State) : State :=
  let s1 := forAll k.tiles (loadTile c d n n') s
  let s2 := s1.setCtx n' { d with superstep := k.superstep, replay := some k.seq, keepPc := !k.fresh }
  { s2 with forn := { s2.forn with cap := { s2.forn.cap with
      toTake := k.arrivals.map (fun a => { a with tile := mapTile c d a.tile }), output := [] } } }

/-- A write of REPLAY_CTRL: ARM loads the capture it names into the diagnostic context, or is refused (R396). -/
def writeReplay (v : Word) (s : State) : State :=
  let set := fun (s : State) => { s with forn := { s.forn with cap := { s.forn.cap with replayCtrl := v } } }
  let n' := bf v.toNat 1 6
  if !v.getLsbD 0 then
    checkedWrite 0x70 0 0x290 [(s.ctxs.any (fun p => p.2.replay.isSome && p.2.onTiles), 0x07)] s fun s =>
      set { s with ctxs := s.ctxs.map (fun (p : Nat × Ctx) => (p.1, { p.2 with replay := none, keepPc := false })) }
  else
    match s.forn.caps.find? (fun k => k.seq = bf v.toNat 7 25), s.ctx n' with
    | some k, some d =>
      match k.saved, k.saved.bind (fun c => (k.tiles.head?.bind (fun p => (p.2.entry c.slot).map (·.ctx)))) with
      | some c, some n =>
        checkedWrite 0x70 0 0x290
          [ (!replayMatch c d || (!d.entry.spill && k.tiles.any (fun p => p.2.matrix.isOpen)), 0x02)
          , (d.st ≠ .idle || d.task.isSome || s.ctxs.any (fun p => p.2.replay.isSome) || streamTaken k c d n n' s, 0x07) ] s
          fun s => schedule (set (loadReplay k c d n n' s))
      | _, _ => refuseWrite 0x70 0 0x290 0x02 s
    | none, _ => refuseWrite 0x70 0 0x290 0x02 s
    | _, none => refuseWrite 0x70 0 0x290 0x07 s

/-- REPLAY_ARM (R396). -/
def execReplayArm (src : Source) (v : Word) (s : State) : Host.Outcome State Fault Refusal :=
  .next (withReg src 0x70 0 0x290 s (writeReplay v))

/-! ### Raising Statues (R399, R400) -/

/-- Statues is raised for a cause, named as in CAUSE; one that is raised already only takes the cause. -/
def raiseStatues (cause n : Nat) (s : State) : State :=
  let f := s.forn
  let dogs := if cause = 2 then [n] else []
  if s.statues then { s with forn := { f with
    cause := f.cause ||| cause, hdrCause := f.cause ||| cause, stCtxs := f.stCtxs ++ dogs
    stCtx := if cause = 2 && f.cause &&& 2 = 0 then n else f.stCtx } }
  else
    let s1 := abandonRecords (fun _ => true) 4 s
    { s1 with
      forn := { s1.forn with
        stSt := 1, cause := cause, stCtx := if cause = 2 then n else 0, stCtxs := dogs, truncated := false, limited := false
        stPolicy := s1.sec.debugPol, stTick := s1.cad.count.toNat, hdrCause := cause }
      sec := { s1.sec with debugIn := s1.sec.debugPol }
      pins := { s1.pins with stopOut := true } }

/-- STATUES_STOP_WRITE (R399). -/
def execStatuesStopWrite (src : Source) (s : State) : Host.Outcome State Fault Refusal :=
  .next (withReg src 0x70 0 0x128 s (fun s => (raiseStatues 1 0 s).done))

/-- STOP_IN_EDGE (R400, R447): ignored in reset. -/
def execStopInEdge (s : State) : Host.Outcome State Fault Refusal :=
  .next <| if s.awake then raiseStatues 4 0 s else s

/-- SUPERSTEP_WATCHDOG_EXPIRY (R399): a running context's superstep has run for WATCHDOG_TICKS. -/
def execSuperstepWatchdogExpiry (n : CtxId) (s : State) : Host.Outcome State Fault Refusal :=
  .next <|
    match s.ctx n with
    | none => s
    | some c =>
      if c.st ≠ .running || c.wdTicks < s.forn.watchdog then s
      else raiseStatues 2 n (recordFault (pageKey 0x70 0) 0x16 0x28 (s.setCtx n { c with wdTicks := 0 }))

/-! ### The scan-out (R401, R402) -/

/-- Bytes of the scan-out under a debug policy, and whether kilns and stores are left out. -/
def scanTotal (limited : Bool) : Nat := if limited then 25 * 0x100000 else 11461 * 0x100000

/-- Writes bytes of the scan area, as far as they fit. -/
def scanPut (off : Nat) (bs : List Byte) (s : State) : State :=
  s.hbmWrite (s.forn.base + s.forn.scanOff + off) (bs.take (s.forn.scanBytes - off))

/-- Zeros a part of the scan area, as far as it lies there. -/
def scanZero (off n : Nat) (s : State) : State :=
  let a := s.forn.base + s.forn.scanOff + off
  let k := min n (s.forn.scanBytes - off)
  { s with hbm := s.hbm.filter (fun p => decide (p.1 < a) || a + k ≤ p.1) }

/-- Bytes whose meaning the manual gives and whose layout it does not: free, by scan offset (log entry 4). -/
def scanFree (k off n : Nat) : List Byte := (List.range n).map (fun i => Config.recordByte k (off + i))

/-- A part of a block, written at an offset: zeros where the scan-out meets an uncorrectable word in it (R418). The tile is then marked in the control block, whose bytes are free. -/
def scanSeen (k off : Nat) (bs : List Byte) : List Byte := if Config.scanBad k off then List.replicate bs.length 0 else bs

/-- Commands of a queue at 32 bytes each, in a queue of `n` places; places without a command are free. -/
def scanQueue (k off n : Nat) (cmds : List (BitVec 256)) : List Byte :=
  let bs := (cmds.take n).flatMap (fun c => natLe 32 c.toNat)
  scanSeen k off (bs ++ scanFree k (off + bs.length) (32 * n - bs.length))

/-- CORE_STATE and the program counter of a slot, in 8 bytes. -/
def Tile.slotState (x : Tile) (j : Nat) : List Byte :=
  let pc := (sgetD x.banks j {}).pc
  natLe 4 (pack [(0, if x.coreSlot = j then x.coreSt else 0), (2, j), (16, pc)]).toNat ++ natLe 4 pc

/-- A tile block of 16 KiB (R402); `o` is its scan offset. -/
def tileBlock (k o : Nat) (x : Tile) : List Byte :=
  let w := fun (v : Word) => natLe 4 v.toNat
  let pad := fun (bs : List Byte) (n : Nat) => bs ++ List.replicate (n - bs.length) (0 : Byte)
  let banks := (List.range 8).flatMap (fun j => (List.range 32).flatMap (fun r => natLe 8 (x.reg j r).toNat))
  let regs := w x.queueWord ++ w x.coreWord ++ w x.waitWord ++ w x.blockedWord ++ w x.exchWord ++ w (BitVec.ofNat 32 x.exch.offset)
    ++ w x.matrixWord ++ w x.rangeWord
  let ctrs := (List.range 64).flatMap (fun p => natLe 8 ((x.counter p).toNat + if x.sat.getLsbD p then 2 ^ 63 else 0))
  let queues := scanQueue k (o + 0xC00) 16 (x.matQ.map (·.cmd)) ++ scanQueue k (o + 0xE00) 32 (x.vecQ.map (·.cmd))
    ++ scanQueue k (o + 0x1200) 64 ((x.ops.filter (fun d => !d.host)).map (·.cmd) ++ x.dmaQ.map (·.cmd)) ++ scanQueue k (o + 0x1A00) 16 (x.rickQ.map (·.cmd))
  let cars := scanSeen k (o + 0x1C00) ((List.range 128).flatMap (fun j => w (x.carDef j) ++ w (x.carPtr j)))
  let eps := (List.range 32).flatMap (fun e => pad ((List.range 6).flatMap (fun j => w ((sgetD x.eps e {}).word j))) 32)
  let flits := (List.range 20).flatMap (fun j => natLe 1 (sgetD x.router.bufs j []).length)
  let pctx := match x.run with
    | none => []
    | some sl => (List.range 52).flatMap (fun i => natLe 8 (x.latchWord sl i).toNat)
  pad (pad (pad (banks ++ (List.range 8).flatMap x.slotState ++ regs) 0x880 ++ ctrs ++ scanFree k (o + 0xA80) 0x180 ++ queues ++ cars ++ eps
    ++ scanFree k (o + 0x2400) 0x100 ++ flits) 0x2600 ++ pctx) 0x4000

/-- The parts of the scan area that belong to one tile; a tile of a dark region is written as zeros (R401). The instruction memory is read through its billet port (R64). A billet with an uncorrectable word is written as zeros (R418). -/
def scanTile (k : Nat) (limited : Bool) (t : Nat) (s : State) : State :=
  let x := s.tile t
  let dark := (s.region (regionOf t)).st = .dark
  let block := 0x100000 + 0x4000 * t
  let kiln := 25 * 0x100000 + 656 * 512 * t
  let store := 517 * 0x100000 + 0x720000 * t
  if dark then
    let s1 := scanZero block 0x4000 s
    if limited then s1 else scanZero store 0x720000 (scanZero kiln (656 * 512) s1)
  else
    let s1 := scanPut block (tileBlock k block x) s
    if limited then s1
    else
      let s2 := (spillImage x.matrix.values).2.foldl (fun s p => scanPut (kiln + 512 * p.1) p.2 s) s1
      let s3 := scanZero store 0x720000 s2
      (x.store.filter (fun p => decide (p.1 < 0x720000) && !Config.scanBad k (store + p.1 / 512 * 512))).foldl
        (fun s p => scanPut (store + p.1) [p.2] s) (imageReads t 0 256 s3)

/-- The scan area with what fits of the package's state. -/
def scanAll (limited : Bool) (s : State) : State :=
  let k := s.freeCtr
  let s1 := { scanPut 0 (scanFree k 0 0x100000) s with freeCtr := k + 1 }
  forAll (List.range 1536) (scanTile k limited) s1

/-- SCAN_OUT_START (R400 to R402): what was issued has drained, and the scan-out writes the state that the debug policy in force when Statues was raised allows. While the ash pit is disabled nothing is written (R382). -/
def execScanOutStart (s : State) : Host.Outcome State Fault Refusal :=
  .next <|
    if s.forn.stSt ≠ 1 then s
    else
      let limited := decide (2 ≤ s.forn.stPolicy)
      let f : Forensics := { s.forn with stSt := 2, limited := limited }
      if !f.pitOn then { s with forn := f }
      else
        let total := scanTotal limited
        let cut := decide (f.scanBytes < total)
        let s1 := writeHeader { s with forn := { f with
          scanValid := false, scanInc := true, truncated := cut, scanTrunc := cut, hdrCause := f.cause } }
        let s2 := scanAll limited s1
        { s2 with forn := { s2.forn with scanWritten := min total f.scanBytes } }

/-- SCAN_OUT_END (R403): the header is written, every live context stops, its graphs fail, and the forensics event is posted; without a watchdog among the causes the condition 0x2C is recorded with it (R406, R407). -/
def execScanOutEnd (s : State) : Host.Outcome State Fault Refusal :=
  .next <|
    if s.forn.stSt ≠ 2 then s
    else
      let f := s.forn
      let dog := bit f.cause 1
      let s1 : State := { s with forn := { f with stSt := 3, scanValid := f.pitOn || f.scanValid, scanInc := if f.pitOn then false else f.scanInc, hdrCause := f.cause } }
      let s2 := writeHeader s1
      let stop := fun (p : Nat × Ctx) (s : State) => stopContext p.1 (if dog && f.stCtxs.contains p.1 then faultCode 0x16 0x28 else faultCode 0x16 0x2C) s
      let s3 := forAll s2.ctxs stop s2
      if dog then postEvent 0x09 0xFF (faultCode 0x16 0x28) (faultPayload (pageKey 0x70 0) 6 0) s3
      else recordFault (pageKey 0x70 0) 0x16 0x2C s3

/-! ### RECOVER (R403) -/

/-- A tile after RECOVER: queues, mesh buffers, kindling slots, streams, rick streams and the open output tile are gone; carousels stay defined and are empty. -/
def Tile.recover (x : Tile) : Tile :=
  { x with
    run := none, coreSt := 0, stall := .none, stopped := false
    reqs := [], reads := [], arrived := [], ranges := [], merges := [], drains := []
    matQ := [], vecQ := [], dmaQ := [], rickQ := []
    matrix := { x.matrix.close with owner := none, op := 0, draining := false, drainRow := 0, out := [], outN := 0, scales := [] }
    cars := x.cars.map (fun (p : Nat × Carousel) => (p.1, { p.2 with head := 0, tail := 0, filled := 0, prod := none, cons := none, headUsed := 0, pubs := 0, takes := 0 }))
    ops := [], ksl := [], msgs := [], chBlocked := none
    exch := { x.exch with phase := 0, holding := none, plan := none, planId := 0xFFFF, entries := 0, next := 0, read := 0, ents := [], ended := false, deliver := [], heldArr := false }
    router := { x.router with bufs := [], inj := [], lost := [] }
    rick := { ({} : RickSt) with stray := x.rick.stray } }

/-- RECOVER ends Statues: tiles and paths to HBM are cleared, the stopped contexts keep their slices, STOP_OUT falls, and the dispatcher accepts commands again. -/
def recover (s : State) : State :=
  let s1 : State := { s with
    tiles := s.tiles.map (fun (p : Nat × Tile) => (p.1, p.2.recover))
    hbmQ := [], handoffs := []
    ctxs := s.ctxs.map (fun (p : Nat × Ctx) => (p.1, { p.2 with
      onTiles := false, removed := true, stop := none, bound := .none, barrier := 0, arrived := [], planIds := [], arriveIn := [], arriveOut := [], sysTicks := none, wdTicks := 0 }))
    forn := { s.forn with stSt := 0 }
    pins := { s.pins with stopOut := false } }
  schedule s1

/-- A write of 1 to STATUES_CTRL.RECOVER: it acts once the package is stopped. -/
def writeRecover (s : State) : State :=
  if s.forn.stSt = 3 then (recover s).done else s.done

/-- RECOVER (R403). -/
def execRecover (src : Source) (s : State) : Host.Outcome State Fault Refusal :=
  .next (withReg src 0x70 0 0x128 s writeRecover)

end Sys2Proof.Machine
end

