-- ==== Sys2Proof/Machine/Registers.lean ====
section
/-! DEFINITION. Register accesses (R6 to R10, R419 to R434): what a write of each register does, mirrored pairs, and the reads that capture a shadow. -/

namespace Sys2Proof.Machine

/-! ### Mirrored pairs (R8, R427) -/

/-- Pending value of a source on a page. -/
def Page.pend (p : Page) (src : Source) : Option (Nat × Word) :=
  match src with
  | .host => p.pendM
  | .sideband => p.pendR
  | .cp => p.pendC

def Page.setPend (p : Page) (src : Source) (v : Option (Nat × Word)) : Page :=
  match src with
  | .host => { p with pendM := v }
  | .sideband => { p with pendR := v }
  | .cp => { p with pendC := v }

/-- A write of the value word is held as its source's pending value. -/
def mirrorValue (src : Source) (cls inst off : Nat) (v : Word) (s : State) : State :=
  (s.modPage (pageKey cls inst) (·.setPend src (some (off, v)))).done

/-- A pair fails: class I on the page, MISMATCH and the offset of its value word. -/
def mirrorFail (cls inst off : Nat) (s : State) : State :=
  (recordFault (pageKey cls inst) (pageBlock cls off) 0x18
    (s.modPage (pageKey cls inst) (fun p => { p with mismatch := true, lastOff := off }))).done

/-- A write of the complement word at `off` + 4: the pending value of its source commits, or the pair fails. -/
def mirrorCommit (src : Source) (cls inst off : Nat) (comp : Word) (f : Word → State → State) (s : State) : State :=
  let s1 := s.modPage (pageKey cls inst) (·.setPend src none)
  match (s.page (pageKey cls inst)).pend src with
  | none => mirrorFail cls inst off s1
  | some (o, v) => if o = off && comp = ~~~v then (f v s1).done else mirrorFail cls inst off s1

/-- A committed REGION_REQUEST (R306, R431): the control processor lights or darkens the region, or refuses and records the refusal. -/
def regionRequest (r : Nat) (v : Word) (s : State) : State :=
  let g := s.region r
  let no := fun (code : Nat) => recordFault (pageKey 0x28 r) 0x0C code s
  let start := fun (goal : RegionState) => refuseWaiting r 0x07 (s.setRegion r { g with st := .transition, goal := goal, request := bf v.toNat 0 2 })
  match bf v.toNat 0 2 with
  | 0 => s
  | 1 =>
    if s.regionFenced r || g.st = .transition || s.pins.thermLatch then no 0x07
    else if g.st = .dark then start .lit else s
  | 2 =>
    if s.ctxs.any (fun p => p.2.regions.contains r) || g.st = .transition then no 0x07
    else if g.st = .dark then s else start .dark
  | _ => no 0x01

/-- A committed MEM_MAP (R432): a new granule takes effect on a quiet package. No data moves, so addresses name other bytes (R420). -/
def memMap (v : Word) (s : State) : State :=
  let g := bf v.toNat 0 4
  let no := fun (code : Nat) => recordFault (pageKey 0x30 0) 0x0D code s
  if g < 12 then no 0x02
  else if 16 < g then no 0x02
  else if s.ctxs ≠ [] || s.buckets ≠ [] || s.forn.pitOn || s.tiles.any (fun p => p.2.ops.any (·.host)) || s.evl.waiting.any (·.isBulk) then no 0x07
  else { s with granule := g, hbm := regrainMem s.granule g s.hbm }

/-- A write of a mirrored word. -/
def mirrorWrite (src : Source) (cls inst off : Nat) (v : Word) (s : State) : State :=
  if cls = 0x30 && inst ≠ 0 then refuseWrite cls inst off 0x07 s
  else if off % 8 = 0 then mirrorValue src cls inst off v s
  else mirrorCommit src cls inst (off - 4) v (if cls = 0x28 then regionRequest inst else memMap) s

/-- Offsets of mirrored words. -/
def mirrored (cls off : Nat) : Bool := (cls = 0x28 && (off = 0x108 || off = 0x10C)) || (cls = 0x30 && (off = 0x110 || off = 0x114))

/-! ### Rings (R327, R328) -/

/-- The doorbell of a submission ring: refused for a ring that is not enabled, and when it would put more than 2^k commands in the ring. -/
def doorbell (r : Nat) (v : Word) (s : State) : State :=
  let g := s.ring r
  checkedWrite 0x48 0 (0x20C + 64 * r) [(!g.sqEn, 0x07), (decide (2 ^ g.sqLog < (v - g.sqHead).toNat), 0x0F)] s fun s =>
    s.modRing r (fun g => { g with sqTail := v })

/-- Bulk writes that wait, or that have not completed. -/
def State.writesDue (s : State) : Bool :=
  s.bulkWrites || s.evl.waiting.any (·.writes)

/-- A write of SQ_TAIL: it takes effect once every bulk write that arrived before it is in place (R327), and after an earlier one of the ring that still waits. -/
def writeTail (r : Nat) (v : Word) (s : State) : State :=
  if s.writesDue || s.evl.waiting.any (·.bellOf r) then State.done { s with evl := { s.evl with waiting := s.evl.waiting ++ [.bell r v] } } else doorbell r v s

/-- Doorbells with no bulk write before them take effect, in arrival order. -/
def takeBells : List EvlWait → State → List EvlWait × State
  | [], s => ([], s)
  | .bell r v :: ws, s => takeBells ws (doorbell r v s)
  | .bulk h d e :: ws, s =>
    if bWrite h then (.bulk h d e :: ws, s)
    else let (k, s1) := takeBells ws s; (.bulk h d e :: k, s1)

/-- What waits on the EVL goes on: bulk requests, then the doorbells whose writes are in place (R327). -/
def pumpEvl (s : State) : State :=
  if s.evl.waiting = [] then s
  else
    let s1 := pumpBulk s
    if s1.bulkWrites then s1
    else
      let (k, s2) := takeBells s1.evl.waiting s1
      { s2 with evl := { s2.evl with waiting := k } }

/-- A ring lies wholly in the host-memory window (R325). -/
def State.inWindow (s : State) (a n : Nat) : Bool := decide (s.evl.winBase ≤ a) && decide (a + n ≤ s.evl.winBase + 4096 * s.evl.winSize)

/-- A write of SQ_CTRL or EQ_CTRL (R328): refused while the ring is enabled; an enable checks the size and the place of the ring. -/
def writeRing (r : Nat) (event : Bool) (v : Word) (s : State) : State :=
  let g := s.ring r
  let on := v.getLsbD 0
  let k := bf v.toNat 1 5
  let base := if event then g.eqBase else g.sqBase
  let size := decide (k < 4) || decide (16 < k)
  checkedWrite 0x48 0 ((if event then 0x220 else 0x208) + 64 * r)
    [ (!(if event then g.eqEn else g.sqEn) && on && !size && !s.inWindow base (64 * 2 ^ k), 0x06)
    , (!(if event then g.eqEn else g.sqEn) && on && size, 0x02)
    , (if event then g.eqEn else g.sqEn, 0x07) ] s fun s =>
    s.modRing r (fun g => if event then { g with eqEn := on, eqLog := k, eqAt := base } else { g with sqEn := on, sqLog := k, sqAt := base })

/-- Replaces the low or high word of a 64-bit value. -/
def setHalf (old : Nat) (hi : Bool) (v : Nat) : Nat := if hi then bf old 0 32 + (v % 2 ^ 32) <<< 32 else (old >>> 32) <<< 32 + v % 2 ^ 32

/-- A half of a base address: bits 31 to 12 in the low word, 47 to 32 in the high. -/
def setBase (old : Nat) (hi : Bool) (v : Word) : Nat := setHalf old hi (if hi then bf v.toNat 0 16 else (v &&& 0xFFFFF000).toNat)

/-- A register of a ring pair that software writes. -/
def ringReg (r o : Nat) (v : Word) (s : State) : State :=
  if o = 0x00 then (s.modRing r (fun g => { g with sqBase := setBase g.sqBase false v })).done
  else if o = 0x04 then (s.modRing r (fun g => { g with sqBase := setBase g.sqBase true v })).done
  else if o = 0x08 then writeRing r false v s
  else if o = 0x0C then writeTail r v s
  else if o = 0x18 then (s.modRing r (fun g => { g with eqBase := setBase g.eqBase false v })).done
  else if o = 0x1C then (s.modRing r (fun g => { g with eqBase := setBase g.eqBase true v })).done
  else if o = 0x20 then writeRing r true v s
  else (s.modRing r (fun g => { g with eqHead := v })).done

/-! ### Compare slots of software (R302, R303) -/

/-- COMPARE is set: an enabled slot is re-armed at the new value, and one already passed fires on the next tick with LATE. -/
def setCompare (k : Nat) (c : BitVec 48) (s : State) : State :=
  let past := decide (c.toNat ≤ s.cad.count.toNat)
  (s.modSlot k (fun x => { x with
    compare := c
    due := if x.enable then past else x.due
    late := x.late || (x.enable && past) })).done

/-- A write of one word of COMPARE, with the other as it stands; the device's slots are read-only. -/
def writeCompare (k : Nat) (hi : Bool) (v : Word) (s : State) : State :=
  setCompare k (BitVec.ofNat 48 (setHalf (s.slot k).compare.toNat hi v.toNat)) s

/-- A write of SLOT_CTRL: ENABLE arms or disarms the slot, LATE and FIRED are cleared by 1. -/
def writeSlotCtrl (k : Nat) (v : Word) (s : State) : State :=
  let on := v.getLsbD 0
  (s.modSlot k (fun x =>
    let past := on && !x.enable && decide (x.compare.toNat ≤ s.cad.count.toNat)
    { x with
      enable := on
      due := if on then x.due || past else false
      late := (x.late && !v.getLsbD 1) || past
      fired := x.fired && !v.getLsbD 2 })).done

/-! ### Registers by page -/

/-- Two LATCH_SEL words. -/
def setSel (sel : BitVec 64) (off : Nat) (v : Word) : BitVec 64 := BitVec.ofNat 64 (setHalf sel.toNat (off = 0x044) v.toNat)

/-- The head registers software writes: FAULT, FAULT_MASK, the latches of CTRL and MISMATCH (R424, R425). -/
def headReg (cls inst off : Nat) (v : Word) (s : State) : State :=
  let k := pageKey cls inst
  if off = 0x008 then
    let s1 := if v.getLsbD 0 then latchPage cls inst false s else s
    (if v.getLsbD 1 then latchPage cls inst true s1 else s1).done
  else if off = 0x010 then (s.modPage k (fun p => { p with fault := p.fault &&& ~~~(v.setWidth 8 &&& 0xFE) })).done
  else if off = 0x014 then (s.modPage k (fun p => { p with mask := (v.setWidth 8 &&& 0xFC) ||| 2 })).done
  else (if v.getLsbD 0 then s.modPage k (fun p => { p with mismatch := false }) else s).done

/-- Endpoint registers, which the control processor writes (R224): a new binding starts with an empty ring. -/
def epReg (t e w : Nat) (v : Word) (s : State) : State :=
  let n := v.toNat
  let k := (s.tile t).ep e
  if w = 0 then
    let on := bit n 0
    let peer := bf n 10 11
    let q : Endpoint := if on && !k.valid then { ringBase := k.ringBase, ringBillets := k.ringBillets, addId := k.addId, addVal := k.addVal } else k
    let lines := ((s.tile peer).ep (bf n 5 5)).ringBillets
    let q' : Endpoint := { q with valid := on, recv := bit n 1, slot := bf n 2 3, peerEp := bf n 5 5, peerTile := peer }
    let q'' : Endpoint := if on && !k.valid then { q' with peerRing := lines, free := if bit n 1 then 0 else 8 * lines } else q'
    (s.modTile t (fun x => { x with eps := sset x.eps e q'' })).done
  else if w = 1 then
    checkedWrite 0x13 t (0x204 + 32 * e) [(k.recv && (bf n 13 13 = 0 || decide (4096 < bf n 13 13)), 0x02)] s fun s =>
      s.modTile t (fun x => { x with eps := sset x.eps e { k with ringBase := bf n 0 13, ringBillets := bf n 13 13 } })
  else (s.modTile t (fun x => { x with eps := sset x.eps e { k with addId := bf n 0 8, addVal := bf n 8 8 } })).done

/-- Registers of the forensics page that software writes (R382 to R403). -/
def fornReg (off : Nat) (v : Word) (s : State) : State :=
  let f := s.forn
  let set := fun (g : Forensics) => ({ s with forn := g }).done
  let base := fun (hi : Bool) =>
    checkedWrite 0x70 0 off [(f.pitOn, 0x07)] s fun s =>
      { s with forn := { f with base := setHalf f.base hi (if hi then bf v.toNat 0 16 else (v &&& 0xFC000000).toNat) } }
  if off = 0x100 then base false
  else if off = 0x104 then base true
  else if off = 0x108 then writeAshCtrl v s
  else if off = 0x10C then set { f with counterPeriod := v.toNat }
  else if off = 0x110 then set { f with traceCtrl := v &&& 0x3F }
  else if off = 0x114 || off = 0x118 then set { f with traceCtx := BitVec.ofNat 64 (setHalf f.traceCtx.toNat (off = 0x118) v.toNat) }
  else if off = 0x11C then set { f with tagKey := v &&& 0x3FFF }
  else if off = 0x120 then writeTag v s
  else if off = 0x124 then checkedWrite 0x70 0 off [(v = 0, 0x02)] s fun s => { s with forn := { f with watchdog := v.toNat } }
  else if off = 0x128 then
    let s1 := if v.getLsbD 0 then (raiseStatues 1 0 s).done else s.done
    if v.getLsbD 1 then writeRecover s1 else s1
  else if off = 0x280 then writeCapture v s
  else if off = 0x284 then set { f with cap := { f.cap with stepLo := v } }
  else if off = 0x288 then set { f with cap := { f.cap with stepHi := v &&& 0xFFFF } }
  else if off = 0x290 then writeReplay v s
  else
    let n := (off - 0x200) / 32
    let o := off % 32
    let snap := fun (g : Snap → Snap) => set { f with snaps := smod f.snaps n {} g }
    if o = 0x00 then writeSnap n v s
    else if o = 0x04 then snap (fun q => { q with trigLo := v })
    else if o = 0x08 then snap (fun q => { q with trigHi := v })
    else snap (fun q => { q with rng := v &&& 0x07FFFFFF })

/-- Offsets of the forensics page that software writes. -/
def fornWritable (off : Nat) : Bool :=
  [0x100, 0x104, 0x108, 0x10C, 0x110, 0x114, 0x118, 0x11C, 0x120, 0x124, 0x128, 0x280, 0x284, 0x288, 0x290].contains off
    || (decide (0x200 ≤ off) && decide (off < 0x280) && decide (off % 32 < 0x10))

/-- Role-locked registers (R9, R426). -/
def roleLocked (cls off : Nat) : Bool :=
  (cls = 0x50 && off = 0x104) || (cls = 0x58 && decide (0x10C ≤ off) && decide (off < 0x120))
    || (cls = 0x68 && (off = 0x130 || off = 0x134 || off = 0x138 || off = 0x13C))

/-- Registers whose writes belong to the control processor (R9, R65, R224). -/
def cpOnly (cls off : Nat) : Bool :=
  (cls = 0x10 && (off = 0x120 || off = 0x124 || off = 0x128))
    || (cls = 0x13 && decide (0x200 ≤ off) && decide (off < 0x600) && (off % 32 = 0 || off % 32 = 4 || off % 32 = 12))

/-- Registers of pages 0x10 to 0x13 that software writes. -/
def tileReg (cls t off : Nat) (v : Word) (s : State) : State :=
  let set := fun (f : Tile → Tile) => (s.modTile t f).done
  if cls = 0x10 then
    if off = 0x200 then set (fun x => { x with carSel := v &&& 0x7F })
    else if off = 0x13C then set (fun x => { x with gateRefused := x.gateRefused && !v.getLsbD 1 })
    else if off = 0x1A0 then set (fun x => { x with vflags := x.vflags &&& ~~~(v &&& 0x3F) })
    else set (·.writeGate (s.tileCycle t) ((off - 0x120) / 4) v)
  else if cls = 0x11 then
    if off = 0x400 then set (fun x => { x with pctxSel := bf v.toNat 0 3 })
    else if off = 0x6A0 then set (fun x => { x with histSel := v &&& 0xFFF })
    else set (fun x => { x with latchSel := setSel x.latchSel off v })
  else epReg t ((off - 0x200) / 32) (off % 32 / 4) v s

/-- Offsets of pages 0x10 to 0x13 that software writes. -/
def tileWritable (cls off : Nat) : Bool :=
  (cls = 0x10 && (off = 0x200 || off = 0x13C || off = 0x1A0)) || (cls = 0x11 && (off = 0x400 || off = 0x6A0 || off = 0x040 || off = 0x044))
    || cpOnly cls off

/-- Registers of the pages from 0x3C on, but for forensics: a write, or none where the offset holds nothing that software writes. -/
def unitReg (cls inst off : Nat) (v : Word) (s : State) : Option State :=
  let n := v.toNat
  if cls = 0x3C then
    if off = 0x040 || off = 0x044 then some (s.modStack inst (fun q => { q with latchSel := setSel q.latchSel off v })).done
    else if off = 0x110 then some (s.modStack inst (fun q => { q with bucketSel := bf n 0 10 })).done
    else none
  else if cls = 0x40 then
    let h := if 0x180 ≤ off then 1 else 0
    let l := 2 * inst + h
    if off = 0x040 || off = 0x044 then some (s.modPort inst (fun q => { q with latchSel := setSel q.latchSel off v })).done
    else if !s.linkExists l then none
    else if off = 0x104 || off = 0x184 then some (writeCordConfig l v s).done
    else if off = 0x110 || off = 0x190 then
      some (checkedWrite 0x40 inst off [(n = 0, 0x02)] s fun s => s.modLink l (fun k => { k with timeout := n }))
    else none
  else if cls = 0x48 then
    if off = 0x108 || off = 0x10C then some ({ s with evl := { s.evl with winBase := setBase s.evl.winBase (off = 0x10C) v } }).done
    else if off = 0x110 then
      some (checkedWrite 0x48 0 off [(n = 0 || decide (0x1000000 < n), 0x02)] s fun s => { s with evl := { s.evl with winSize := n } })
    else if 0x120 ≤ off && off < 0x130 then some ({ s with evl := { s.evl with route := sset s.evl.route ((off - 0x120) / 4) v } }).done
    else if 0x200 ≤ off && off < 0x600 && [0x00, 0x04, 0x08, 0x0C, 0x18, 0x1C, 0x20, 0x24].contains (off % 64) then
      some (ringReg ((off - 0x200) / 64) (off % 64) v s)
    else none
  else if cls = 0x50 then
    let k := (off - 0x200) / 16
    if off < 0x280 || 0x300 ≤ off then none
    else if off % 16 = 0 then some (writeSlotCtrl k v s)
    else if off % 16 = 4 then some (s.modSlot k (fun x => { x with period := v })).done
    else some (writeCompare k (off % 16 = 12) v s)
  else if cls = 0x58 then
    if off = 0x124 then some ({ s with pwr := { s.pwr with fetched := n } }).done
    else if off = 0x128 then some (checkedWrite 0x58 0 off [(decide (1439 < n), 0x02)] s fun s => { s with pwr := { s.pwr with sel := n } })
    else none
  else if cls = 0x60 then
    if off = 0x104 then some ({ s with ctxSel := bf n 0 6 }).done
    else if off = 0x118 then some ({ s with graphSel := bf n 0 4 }).done
    else none
  else if cls = 0x68 then
    if off = 0x128 then some ({ s with sec := { s.sec with auditSel := bf n 0 10 } }).done
    else if 0x180 ≤ off && off < 0x1A0 then
      some (checkedWrite 0x68 0 off [(s.sec.attSt = 1, 0x07)] s fun s =>
        { s with sec := { s.sec with attNonce := sset s.sec.attNonce ((off - 0x180) / 4) v } })
    else if off = 0x1A0 then some (writeAttest v s)
    else none
  else if cls = 0x78 then
    if off = 0x120 then some (modSession (fun q => { q with flags := q.flags &&& ~~~(BitVec.ofNat 4 (bf n 6 4)) }) s).done
    else none
  else none

/-- A 32-bit write of a register (R9, R422): one that is read-only, or that no table lists, is left alone without a fault. -/
def regWrite (src : Source) (cls inst off : Nat) (v : Word) (s : State) : State :=
  let reg := withReg src cls inst off s
  if off < 0x040 then
    if off = 0x008 || off = 0x010 || off = 0x014 || off = 0x020 then reg (headReg cls inst off v)
    else withPage cls inst off s (·.done)
  else if roleLocked cls off then withPage cls inst off s (refuseWrite cls inst off 0x07)
  else if cpOnly cls off && src ≠ .cp then withPage cls inst off s (refuseWrite cls inst off 0x07)
  else if mirrored cls off then reg (mirrorWrite src cls inst off v)
  else if cls ≤ 0x13 then (if tileWritable cls off then reg (tileReg cls inst off v) else withPage cls inst off s (·.done))
  else if cls = 0x70 then (if fornWritable off then reg (fornReg off v) else withPage cls inst off s (·.done))
  else match unitReg cls inst off v s with
    | none => withPage cls inst off s (·.done)
    | some s' => reg (fun _ => s')

/-- The answer of the first of two accesses stands when it is a refusal. -/
def twoAnswers (first second : State) : State := if first.mgmt.code ≠ 0 then { second with mgmt := first.mgmt } else second

/-- A register access with its size and address checked (R7, R419, R422): refused with a code, or carried out. -/
def atPlace (addr size : Nat) (s : State) (bad : Nat → State) (f : Nat → Nat → Nat → State) : State :=
  if !s.serves then s
  else if (size ≠ 4 && size ≠ 8) || addr % size ≠ 0 then bad 0x03
  else match regPlace addr with
    | none => bad 0x06
    | some (cls, inst, off) => f cls inst off

/-- A write at a register address. -/
def atRegister (addr size : Nat) (s : State) (f : Nat → Nat → Nat → State) : State := atPlace addr size s (fun c => badAccess c s) f

/-- A read at a register address: one that is refused returns 0 (R7). -/
def atRead (addr size : Nat) (s : State) (f : Nat → Nat → Nat → State) : State :=
  atPlace addr size s (fun c => (badAccess c s).answer (faultCode 0x00 c) (List.replicate size 0)) f

/-- REGISTER_WRITE (R7 to R10): a write of 4 or 8 bytes; of 8 bytes, the low word first, but both words of a COMPARE together (R303). -/
def execRegisterWrite (src : Source) (addr size : Nat) (val : BitVec 64) (s : State) : Host.Outcome State Fault Refusal :=
  .next <| atRegister addr size s fun cls inst off =>
    let lo := val.setWidth 32
    let hi := (val >>> 32).setWidth 32
    if size = 4 then regWrite src cls inst off lo s
    else if cls = 0x50 && 0x280 ≤ off && off < 0x300 && off % 16 = 8 then
      withReg src cls inst off s (setCompare ((off - 0x200) / 16) (val.setWidth 48))
    else
      let s1 := regWrite src cls inst off lo s
      twoAnswers s1 (regWrite src cls inst (off + 4) hi s1)

/-! ### Rows of their own -/

/-- MIRROR_VALUE_WRITE (R427): the value word of a mirrored pair. -/
def execMirrorValueWrite (src : Source) (addr : Nat) (v : Word) (s : State) : Host.Outcome State Fault Refusal :=
  .next <| atRegister addr 4 s fun cls inst off =>
    if mirrored cls off && off % 8 = 0 then withReg src cls inst off s (mirrorWrite src cls inst off v) else s

/-- REGION_MAKE_LIT (R431): the complement word of a REGION_REQUEST that asks for lit. -/
def execRegionMakeLit (src : Source) (r : RegionId) (comp : Word) (s : State) : Host.Outcome State Fault Refusal :=
  .next (withReg src 0x28 r 0x10C s (mirrorWrite src 0x28 r 0x10C comp))

/-- REGION_MAKE_DARK (R431): the complement word of a REGION_REQUEST that asks for dark. -/
def execRegionMakeDark (src : Source) (r : RegionId) (comp : Word) (s : State) : Host.Outcome State Fault Refusal :=
  .next (withReg src 0x28 r 0x10C s (mirrorWrite src 0x28 r 0x10C comp))

/-- MEM_MAP_WRITE (R432): the complement word of MEM_MAP. -/
def execMemMapWrite (src : Source) (d : Fin 4) (comp : Word) (s : State) : Host.Outcome State Fault Refusal :=
  .next (withReg src 0x30 d 0x114 s (mirrorWrite src 0x30 d 0x114 comp))

/-- SQ_TAIL_WRITE (R327, R328). -/
def execSqTailWrite (src : Source) (r : RingId) (v : Word) (s : State) : Host.Outcome State Fault Refusal :=
  .next (withReg src 0x48 0 (0x20C + 64 * r) s (writeTail r v))

/-- RING_CTRL_WRITE (R328). -/
def execRingCtrlWrite (src : Source) (r : RingId) (event : Bool) (v : Word) (s : State) : Host.Outcome State Fault Refusal :=
  .next (withReg src 0x48 0 ((if event then 0x220 else 0x208) + 64 * r) s (writeRing r event v))

/-- COMPARE_WRITE (R303): one word of a software slot's COMPARE; the device's slots are read-only (R302). -/
def execCompareWrite (src : Source) (k : SlotId) (hi : Bool) (v : Word) (s : State) : Host.Outcome State Fault Refusal :=
  .next <| if k.val < 8 then withPage 0x50 0 0x208 s (·.done) else withReg src 0x50 0 (0x208 + 16 * k) s (writeCompare k hi v)

/-- SLOT_CTRL_WRITE (R303): the control of a software slot. -/
def execSlotCtrlWrite (src : Source) (k : SlotId) (v : Word) (s : State) : Host.Outcome State Fault Refusal :=
  .next <| if k.val < 8 then withPage 0x50 0 0x200 s (·.done) else withReg src 0x50 0 (0x200 + 16 * k) s (writeSlotCtrl k v)

/-- A write of CORD_CONFIG of a link that exists. -/
def cordConfig (src : Source) (l : Nat) (v : Word) (s : State) : State :=
  if s.linkExists l then withReg src 0x40 (l / 2) (0x104 + 0x80 * (l % 2)) s (fun s => (writeCordConfig l v s).done)
  else withPage 0x40 (l / 2) 0x184 s (·.done)

/-- CORD_ENABLE_WRITE (R335). -/
def execCordEnableWrite (src : Source) (l : LinkId) (v : Word) (s : State) : Host.Outcome State Fault Refusal :=
  .next (cordConfig src l v s)

/-- CORD_SPLIT_WRITE (R332). -/
def execCordSplitWrite (src : Source) (p : PortId) (v : Word) (s : State) : Host.Outcome State Fault Refusal :=
  .next (cordConfig src (2 * p) v s)

/-- QUARANTINE_RELEASE (R340). -/
def execQuarantineRelease (src : Source) (l : LinkId) (v : Word) (s : State) : Host.Outcome State Fault Refusal :=
  .next (cordConfig src l v s)

/-- BANK_GATE_WRITE (R60, R65): only the control processor may write the gate registers. -/
def execBankGateWrite (src : Source) (t : TileId) (reg : Fin 3) (v : Word) (s : State) : Host.Outcome State Fault Refusal :=
  .next (regWrite src 0x10 t (0x120 + 4 * reg) v s)

/-! ### Reads that capture a shadow (R167, R379, R434) -/

/-- A 32-bit register of a 64-bit counter on pages 0x11 and 0x12: the offset is that of its low word. -/
def loWord (cls off : Nat) : Bool :=
  off % 8 = 0 && ((cls = 0x12 && decide (0x100 ≤ off) && decide (off < 0x300))
    || (cls = 0x11 && ((decide (0x050 ≤ off) && decide (off < 0x0D0)) || (decide (0x100 ≤ off) && decide (off < 0x2A0))
      || (decide (0x500 ≤ off) && decide (off < 0x6A0)) || (decide (0x700 ≤ off) && decide (off < 0x900)))))

/-- The high words that reads of low words have captured on page 0x11 or 0x12. -/
def Tile.shadow (x : Tile) (cls : Nat) : Sparse Word := if cls = 0x12 then x.ctrShadow else x.cumShadow

/-- Sets them. -/
def Tile.setShadow (x : Tile) (cls : Nat) (v : Sparse Word) : Tile :=
  if cls = 0x12 then { x with ctrShadow := v } else { x with cumShadow := v }

/-- What a 32-bit read of a counter's high word returns: the shadow that a read of its low word left, else the live bits (R167). -/
def State.readHigh (s : State) (cls inst off : Nat) : Word := (sget ((s.tile inst).shadow cls) off).getD (s.readWord cls inst off)

/-- Setting of which a register shows the committed record, by page class and offset (R349, R430). -/
def recordReg (cls off : Nat) : Option Nat := regSetting (4096 * cls + off)

/-- A register shows a word that is held with its complement: the selected tally, the selected entry of the audit log, or a setting (R411). -/
def heldWord (cls off : Nat) : Bool :=
  (cls = 0x58 && decide (0x400 ≤ off) && decide (off < 0x500)) || (cls = 0x68 && decide (0x200 ≤ off) && decide (off < 0x280)) || (recordReg cls off).isSome

/-- The check of such a word on a read (R319, R349, R357, R411): a tally or audit entry that differs from its complement is a class I fault, and reads as zero from then on. -/
def checkWord (cls off : Nat) (ecc : Ecc) (s : State) : State :=
  let q := bytesAt (s.sec.audit.getD s.sec.auditSel []) 0 4
  match recordReg cls off with
  | some i => if ecc = .clean then s else settingBad i (ecc = .uncorrectable) s
  | none =>
    if cls = 0x58 then
      if (sget s.pwr.tallies s.pwr.sel).isNone || (ecc = .clean && !s.pwr.tallyBad.contains s.pwr.sel) then s
      else recordFault (pageKey 0x58 0) 0x13 0x18 { s with pwr := { s.pwr with tallyBad := nub (s.pwr.tallyBad ++ [s.pwr.sel]) } }
    else if s.sec.audit.length ≤ s.sec.auditSel || (ecc = .clean && !s.sec.auditBad.contains q) then s
    else recordFault (pageKey 0x68 0) 0x15 0x18 { s with sec := { s.sec with auditBad := nub (s.sec.auditBad ++ [q]) } }

/-- A read of 4 or 8 bytes of a register. -/
def State.readBytes (s : State) (cls inst off size : Nat) : List Byte :=
  natLe 4 (s.readWord cls inst off).toNat ++ if size = 8 then natLe 4 (s.readWord cls inst (off + 4)).toNat else []

/-- COUNT_LO_READ (R167, R379): a read of a counter. One of 64 bits returns it as one value; one of 32 bits of the low word returns it and captures the high word, which the next read of the high word returns. The table has no other row for a read, so one of a word held with its complement, which every read checks (R411), is given here too. -/
def execCountLoRead (read : WordRead) (s : State) : Host.Outcome State Fault Refusal :=
  .next <| atRead read.addr read.size s fun cls inst off =>
    let a := off / 8 * 8
    if heldWord cls off then
      let s1 := checkWord cls off read.check s
      s1.answer 0 (s1.readBytes cls inst off read.size)
    else if !loWord cls a then s
    else
      let lo := s.readWord cls inst a
      let hi := s.readWord cls inst (a + 4)
      if read.size = 8 then s.answer 0 (s.readBytes cls inst a 8)
      else if off = a then (s.modTile inst (fun x => x.setShadow cls (sset (x.shadow cls) (a + 4) hi))).answer 0 (natLe 4 lo.toNat)
      else (s.modTile inst (fun x => x.setShadow cls (sdel (x.shadow cls) off))).answer 0 (natLe 4 (s.readHigh cls inst off).toNat)

/-- FAULT_SUMMARY_READ (R434): a read of the word at 0x200 captures the whole record; reads of the others return what was captured, or else the live record. -/
def execFaultSummaryRead (addr size : Nat) (s : State) : Host.Outcome State Fault Refusal :=
  .next <| atRead addr size s fun cls _ off =>
    if cls ≠ 0x78 || off < 0x200 || 0x230 ≤ off then s
    else
      let s1 := if off = 0x200 then { s with summary := { s.summary with shadow := some s.summaryBytes } } else s
      s1.answer 0 (((s1.summary.shadow.getD s1.summaryBytes).drop (off - 0x200)).take size)

end Sys2Proof.Machine
end

