-- ==== Sys2Proof/Machine/Pins.lean ====
section
/-! DEFINITION. The sideband on SMBus, JTAG, and the end of a SYNC_OUT pulse (R316, R447 to R450; 19_package_and_pins.md). -/

namespace Sys2Proof.Machine

/-! ### SMBus (R362, R449) -/

/-- Target address of the part on SMBus: the straps are read at stage 2, from which on the sideband answers (R362, R447, R449). -/
def State.smbAddr (s : State) : Option Nat := if s.awake && decide (2 ≤ s.stageNow) then some (0x58 + Config.smbStraps.toNat) else none

/-- The sideband answers: identity, temperatures and status, but on a part whose stage 2 test failed only the fault summary (R362, R368). -/
def State.sideband (s : State) : Bool := s.smbAddr.isSome && !s.summary.dead

/-- A block read answers its bytes. -/
def smbAnswer (f : State → List Byte) (s : State) : State := if s.sideband then { s with smb := { bytes := f s } } else s

/-- SMBUS_READ_BOOT_STATUS: code 0x00. -/
def execSmbusReadBootStatus (s : State) : Host.Outcome State Fault Refusal :=
  .next (smbAnswer (fun s => natLe 4 s.bootWord.toNat) s)

/-- SMBUS_READ_IDENTITY: code 0x01, the identity certificate. -/
def execSmbusReadIdentity (s : State) : Host.Outcome State Fault Refusal :=
  .next (smbAnswer (fun s => (s.sec.identCert ++ List.replicate 128 0).take 128) s)

/-- The highest of the temperatures of a kind of unit. -/
def hottest (n : Nat) (f : Nat → Nat) : Nat := ((List.range n).map f).foldl max 0

/-- SMBUS_READ_TEMPERATURES: code 0x02, the hottest region, base die and stack. -/
def execSmbusReadTemperatures (s : State) : Host.Outcome State Fault Refusal :=
  .next (smbAnswer (fun s => natLe 2 (hottest 24 (fun r => (s.region r).temp)) ++ natLe 2 (hottest 4 (fun d => (s.die d).temp))
    ++ natLe 2 (hottest 32 (fun k => (s.stack k).temp))) s)

/-- SMBUS_READ_FAULT_SUMMARY: code 0x03; it releases SMB_ALERT_N, which stays asserted while THERM_ALERT_N is. -/
def execSmbusReadFaultSummary (s : State) : Host.Outcome State Fault Refusal :=
  .next (if s.smbAddr.isSome then { s with smb := { bytes := s.summaryBytes }, pins := { s.pins with smbAlert := false } } else s)

/-- SMB_ALERT_N is asserted (R449). -/
def Pins.smbAlertN (p : Pins) : Bool := p.smbAlert || p.thermAlert

/-- SMBUS_ROLE_CHUNK: code 0x10; chunk 0 starts a command, a chunk out of order discards what has come, and the LAST chunk submits it. A block whose PEC fails is discarded, and one of more than 240 bytes after the index is no chunk and discards what has come (log entry 25). -/
def execSmbusRoleChunk (blk : SmbBlock) (chk : RoleCheck) (s : State) : Host.Outcome State Fault Refusal :=
  .next <|
    match blk.bytes with
    | [] => s
    | h :: data =>
      if !s.serves || !blk.pecOk then s
      else if 240 < data.length then { s with sec := { s.sec with chunks := [] } }
      else
        let n := bf h.toNat 0 7
        let held := if n = 0 then [] else s.sec.chunks
        let with_ := fun (cs : List (List Byte)) => { s with sec := { s.sec with chunks := cs } }
        if n ≠ held.length then with_ []
        else if h.getLsbD 7 then roleCommand true ((held ++ [data]).flatten) chk (with_ [])
        else with_ (held ++ [data])

/-- The reply as it is returned: the fault code, then the data. -/
def Security.replyBytes (k : Security) : List Byte := natLe 2 k.replyCode ++ k.reply

/-- SMBUS_ROLE_REPLY: code 0x11, the next chunk of the reply; after the last one the reply starts over. -/
def execSmbusRoleReply (s : State) : Host.Outcome State Fault Refusal :=
  .next <|
    if !s.serves then s
    else
      let r := s.sec.replyBytes
      let n := s.sec.replyAt
      let last := r.length ≤ 240 * (n + 1)
      { s with
        smb := { bytes := natLe 1 (n + if last then 128 else 0) ++ (r.drop (240 * n)).take 240 }
        sec := { s.sec with replyAt := if last then 0 else n + 1 } }

/-! ### JTAG and SYNC_OUT -/

/-- JTAG_ACCESS (R354, R447, R450): nothing while TRST_N or the package is in reset. Operation 0 is boundary scan, 1 identification, 2 tile-state access, which only the policy OPEN permits; a committed policy is in force from the next Statues on (R350). What is shifted out has no layout in the manual: it is free (log entry 4). -/
def execJtagAccess (op : JtagOp) (s : State) : Host.Outcome State Fault Refusal :=
  .next <|
    if !op.trstN || !s.awake || 2 < op.kind then s
    else if op.kind = 2 && s.sec.debugIn ≠ 0 then { s with jtag := { code := faultCode 0x00 0x07 } }
    else
      let (v, s1) := s.draw
      { s1 with jtag := { bytes := natLe 8 v.toNat } }

/-- SYNC_OUT_PULSE_END (R316): 1 us after it rose, SYNC_OUT falls. -/
def execSyncOutPulseEnd (s : State) : Host.Outcome State Fault Refusal :=
  .next { s with pins := { s.pins with syncOut := false } }

end Sys2Proof.Machine
end

