-- ==== Sys2Proof/Machine/Dispatch.lean ====
section
/-! DEFINITION. Which meaning each command has. -/

namespace Sys2Proof.Machine

def exec (i : Instr) (s : State) : Host.Outcome State Fault Refusal :=
  match i with
  | .registerWrite src addr size val => Sys2Proof.Machine.execRegisterWrite src addr size val s
  | .countLoRead read => Sys2Proof.Machine.execCountLoRead read s
  | .faultSummaryRead addr size => Sys2Proof.Machine.execFaultSummaryRead addr size s
  | .mirrorValueWrite src addr val => Sys2Proof.Machine.execMirrorValueWrite src addr val s
  | .regionMakeLit src region comp => Sys2Proof.Machine.execRegionMakeLit src region comp s
  | .regionMakeDark src region comp => Sys2Proof.Machine.execRegionMakeDark src region comp s
  | .memMapWrite src die comp => Sys2Proof.Machine.execMemMapWrite src die comp s
  | .enqueue tile eng cmd => Sys2Proof.Machine.execEnqueue tile eng cmd s
  | .barrierArrival tile => Sys2Proof.Machine.execBarrierArrival tile s
  | .exchangeBarrierArrival tile => Sys2Proof.Machine.execExchangeBarrierArrival tile s
  | .exchangeRelease ctx badNode => Sys2Proof.Machine.execExchangeRelease ctx badNode s
  | .boundaryBarrierArrival tile => Sys2Proof.Machine.execBoundaryBarrierArrival tile s
  | .boundaryActions ctx badNode depOk => Sys2Proof.Machine.execBoundaryActions ctx badNode depOk s
  | .contextSwitchComplete done => Sys2Proof.Machine.execContextSwitchComplete done s
  | .stepChangeComplete region => Sys2Proof.Machine.execStepChangeComplete region s
  | .stepHoldTimeout region => Sys2Proof.Machine.execStepHoldTimeout region s
  | .staggerTargetReached => Sys2Proof.Machine.execStaggerTargetReached s
  | .scalarLoad tile rd bil dword => Sys2Proof.Machine.execScalarLoad tile rd bil dword s
  | .scalarStore tile rs bil off => Sys2Proof.Machine.execScalarStore tile rs bil off s
  | .instructionFetch tile target mapOk ecc => Sys2Proof.Machine.execInstructionFetch tile target mapOk ecc s
  | .storeAccessGrant tile bank => Sys2Proof.Machine.execStoreAccessGrant tile bank s
  | .storeReadDataReturn tile ecc => Sys2Proof.Machine.execStoreReadDataReturn tile ecc s
  | .correctedBilletWriteback tile bank => Sys2Proof.Machine.execCorrectedBilletWriteback tile bank s
  | .subBilletWrite tile store => Sys2Proof.Machine.execSubBilletWrite tile store s
  | .mergeComplete site store => Sys2Proof.Machine.execMergeComplete site store s
  | .bankGateWrite src tile reg val => Sys2Proof.Machine.execBankGateWrite src tile reg val s
  | .bankPowerOff tile bank => Sys2Proof.Machine.execBankPowerOff tile bank s
  | .bankPowerRestored tile bank => Sys2Proof.Machine.execBankPowerRestored tile bank s
  | .bankWakeComplete tile bank => Sys2Proof.Machine.execBankWakeComplete tile bank s
  | .accumulate tile ecc => Sys2Proof.Machine.execAccumulate tile ecc s
  | .drain site => Sys2Proof.Machine.execDrain site s
  | .accumulateDrain tile ecc => Sys2Proof.Machine.execAccumulateDrain tile ecc s
  | .spill site => Sys2Proof.Machine.execSpill site s
  | .resume tile ecc => Sys2Proof.Machine.execResume tile ecc s
  | .discard site => Sys2Proof.Machine.execDiscard site s
  | .matrixCommandComplete tile => Sys2Proof.Machine.execMatrixCommandComplete tile s
  | .add tile ecc => Sys2Proof.Machine.execAdd tile ecc s
  | .sub tile ecc => Sys2Proof.Machine.execSub tile ecc s
  | .mul tile ecc => Sys2Proof.Machine.execMul tile ecc s
  | .fma tile ecc => Sys2Proof.Machine.execFma tile ecc s
  | .min tile ecc => Sys2Proof.Machine.execMin tile ecc s
  | .max tile ecc => Sys2Proof.Machine.execMax tile ecc s
  | .abs tile ecc => Sys2Proof.Machine.execAbs tile ecc s
  | .neg tile ecc => Sys2Proof.Machine.execNeg tile ecc s
  | .cmpLt tile ecc => Sys2Proof.Machine.execCmpLt tile ecc s
  | .cmpLe tile ecc => Sys2Proof.Machine.execCmpLe tile ecc s
  | .cmpEq tile ecc => Sys2Proof.Machine.execCmpEq tile ecc s
  | .rcp tile ecc => Sys2Proof.Machine.execRcp tile ecc s
  | .sqrt tile ecc => Sys2Proof.Machine.execSqrt tile ecc s
  | .rsqrt tile ecc => Sys2Proof.Machine.execRsqrt tile ecc s
  | .exp tile ecc => Sys2Proof.Machine.execExp tile ecc s
  | .exp2 tile ecc => Sys2Proof.Machine.execExp2 tile ecc s
  | .expm1 tile ecc => Sys2Proof.Machine.execExpm1 tile ecc s
  | .log tile ecc => Sys2Proof.Machine.execLog tile ecc s
  | .log2 tile ecc => Sys2Proof.Machine.execLog2 tile ecc s
  | .tanh tile ecc => Sys2Proof.Machine.execTanh tile ecc s
  | .sigmoid tile ecc => Sys2Proof.Machine.execSigmoid tile ecc s
  | .cvtWiden tile ecc => Sys2Proof.Machine.execCvtWiden tile ecc s
  | .cvtNarrow tile ecc => Sys2Proof.Machine.execCvtNarrow tile ecc s
  | .vectorCommandComplete tile => Sys2Proof.Machine.execVectorCommandComplete tile s
  | .ctrWait tile rs rt => Sys2Proof.Machine.execCtrWait tile rs rt s
  | .ctrAdd tile id val => Sys2Proof.Machine.execCtrAdd tile id val s
  | .ctrRead tile rd id => Sys2Proof.Machine.execCtrRead tile rd id s
  | .rebaseApply ctx => Sys2Proof.Machine.execRebaseApply ctx s
  | .copyIn site => Sys2Proof.Machine.execCopyIn site s
  | .copyOut site => Sys2Proof.Machine.execCopyOut site s
  | .streamIn site => Sys2Proof.Machine.execStreamIn site s
  | .gather site => Sys2Proof.Machine.execGather site s
  | .unload site => Sys2Proof.Machine.execUnload site s
  | .carouselSet site => Sys2Proof.Machine.execCarouselSet site s
  | .streamStop site => Sys2Proof.Machine.execStreamStop site s
  | .hbmReadDataReturn tile op k ecc => Sys2Proof.Machine.execHbmReadDataReturn tile op k ecc s
  | .hbmWriteAccept stack ecc => Sys2Proof.Machine.execHbmWriteAccept stack ecc s
  | .dmaCommandComplete tile op => Sys2Proof.Machine.execDmaCommandComplete tile op s
  | .stackWakeComplete stack => Sys2Proof.Machine.execStackWakeComplete stack s
  | .stackIdleBank stack => Sys2Proof.Machine.execStackIdleBank stack s
  | .patrolScrub stack line ecc => Sys2Proof.Machine.execPatrolScrub stack line ecc s
  | .kget tile rs rt => Sys2Proof.Machine.execKget tile rs rt s
  | .kput tile rs rt => Sys2Proof.Machine.execKput tile rs rt s
  | .kindlingComplete tile id => Sys2Proof.Machine.execKindlingComplete tile id s
  | .exchSelect tile pos ecc => Sys2Proof.Machine.execExchSelect tile pos ecc s
  | .planEntryRead tile ecc => Sys2Proof.Machine.execPlanEntryRead tile ecc s
  | .sendReadAhead tile entry => Sys2Proof.Machine.execSendReadAhead tile entry s
  | .planEntryDue site => Sys2Proof.Machine.execPlanEntryDue site s
  | .sendComplete tile entry => Sys2Proof.Machine.execSendComplete tile entry s
  | .flitForward tile port ecc => Sys2Proof.Machine.execFlitForward tile port ecc s
  | .flitArrival tile => Sys2Proof.Machine.execFlitArrival tile s
  | .receiveComplete tile entry => Sys2Proof.Machine.execReceiveComplete tile entry s
  | .chSend tile rs rt ecc => Sys2Proof.Machine.execChSend tile rs rt ecc s
  | .chSendComplete tile msg => Sys2Proof.Machine.execChSendComplete tile msg s
  | .chPeek tile ep rd => Sys2Proof.Machine.execChPeek tile ep rd s
  | .chRelease tile ep => Sys2Proof.Machine.execChRelease tile ep s
  | .channelLineArrival site => Sys2Proof.Machine.execChannelLineArrival site s
  | .messageDelivered tile ep => Sys2Proof.Machine.execMessageDelivered tile ep s
  | .creditFlitArrival site => Sys2Proof.Machine.execCreditFlitArrival site s
  | .define site => Sys2Proof.Machine.execDefine site s
  | .contribute tile ecc => Sys2Proof.Machine.execContribute tile ecc s
  | .finish tile ecc => Sys2Proof.Machine.execFinish tile ecc s
  | .release site => Sys2Proof.Machine.execRelease site s
  | .rickCommandComplete tile => Sys2Proof.Machine.execRickCommandComplete tile s
  | .rickPacketArrival tile => Sys2Proof.Machine.execRickPacketArrival tile s
  | .rickAddition tile ecc => Sys2Proof.Machine.execRickAddition tile ecc s
  | .handoffCredit tile => Sys2Proof.Machine.execHandoffCredit tile s
  | .handoffPacketArrival ecc => Sys2Proof.Machine.execHandoffPacketArrival ecc s
  | .stokerRecordApply stack bucket ecc => Sys2Proof.Machine.execStokerRecordApply stack bucket ecc s
  | .roundComplete bucket => Sys2Proof.Machine.execRoundComplete bucket s
  | .roundTimeout bucket => Sys2Proof.Machine.execRoundTimeout bucket s
  | .fingerprintCompare bucket => Sys2Proof.Machine.execFingerprintCompare bucket s
  | .createContext ring sigOk => Sys2Proof.Machine.execCreateContext ring sigOk s
  | .destroyContext ring => Sys2Proof.Machine.execDestroyContext ring s
  | .destroyContextComplete ctx => Sys2Proof.Machine.execDestroyContextComplete ctx s
  | .contextMapRetry ctx => Sys2Proof.Machine.execContextMapRetry ctx s
  | .submitGraph ring => Sys2Proof.Machine.execSubmitGraph ring s
  | .cancelGraph ring => Sys2Proof.Machine.execCancelGraph ring s
  | .pauseGraph ring => Sys2Proof.Machine.execPauseGraph ring s
  | .resumeGraph ring => Sys2Proof.Machine.execResumeGraph ring s
  | .rebase ring => Sys2Proof.Machine.execRebase ring s
  | .defineBucket ring => Sys2Proof.Machine.execDefineBucket ring s
  | .removeBucket ring => Sys2Proof.Machine.execRemoveBucket ring s
  | .releaseHold ring => Sys2Proof.Machine.execReleaseHold ring s
  | .locate ring => Sys2Proof.Machine.execLocate ring s
  | .sqTailWrite src ring val => Sys2Proof.Machine.execSqTailWrite src ring val s
  | .ringCtrlWrite src ring event val => Sys2Proof.Machine.execRingCtrlWrite src ring event val s
  | .contextStop ctx => Sys2Proof.Machine.execContextStop ctx s
  | .cadenceEdge period high => Sys2Proof.Machine.execCadenceEdge period high s
  | .acquireTimeout => Sys2Proof.Machine.execAcquireTimeout s
  | .minuteMarkMissing => Sys2Proof.Machine.execMinuteMarkMissing s
  | .holdoverEntry => Sys2Proof.Machine.execHoldoverEntry s
  | .generatedTick => Sys2Proof.Machine.execGeneratedTick s
  | .fallbackTimeout => Sys2Proof.Machine.execFallbackTimeout s
  | .compareWrite src slot hi val => Sys2Proof.Machine.execCompareWrite src slot hi val s
  | .slotCtrlWrite src slot val => Sys2Proof.Machine.execSlotCtrlWrite src slot val s
  | .envelopeMinuteRoll => Sys2Proof.Machine.execEnvelopeMinuteRoll s
  | .tallyClose => Sys2Proof.Machine.execTallyClose s
  | .tallySigned => Sys2Proof.Machine.execTallySigned s
  | .envelopeLead => Sys2Proof.Machine.execEnvelopeLead s
  | .staggerSlotFire => Sys2Proof.Machine.execStaggerSlotFire s
  | .syncInEdge => Sys2Proof.Machine.execSyncInEdge s
  | .snapshotTickTrigger => Sys2Proof.Machine.execSnapshotTickTrigger s
  | .replicaCheckSend => Sys2Proof.Machine.execReplicaCheckSend s
  | .counterSnapshot => Sys2Proof.Machine.execCounterSnapshot s
  | .timeoutTick => Sys2Proof.Machine.execTimeoutTick s
  | .softwareSlotFire slot => Sys2Proof.Machine.execSoftwareSlotFire slot s
  | .railSample watts => Sys2Proof.Machine.execRailSample watts s
  | .powerEvaluation temps => Sys2Proof.Machine.execPowerEvaluation temps s
  | .regionTransitionComplete region => Sys2Proof.Machine.execRegionTransitionComplete region s
  | .superstepWatchdogExpiry ctx => Sys2Proof.Machine.execSuperstepWatchdogExpiry ctx s
  | .evlTraining lanes => Sys2Proof.Machine.execEvlTraining lanes s
  | .evlTrainingRetry lanes => Sys2Proof.Machine.execEvlTrainingRetry lanes s
  | .evlFrameReceive seq good chan units want => Sys2Proof.Machine.execEvlFrameReceive seq good chan units want s
  | .bulkRequest head data ecc => Sys2Proof.Machine.execBulkRequest head data ecc s
  | .coherentSnoop addr line ecc => Sys2Proof.Machine.execCoherentSnoop addr line ecc s
  | .cordSignalDetect link => Sys2Proof.Machine.execCordSignalDetect link s
  | .cordFecLock link half => Sys2Proof.Machine.execCordFecLock link half s
  | .cordTrainingTimeout link => Sys2Proof.Machine.execCordTrainingTimeout link s
  | .cordSignalLost link => Sys2Proof.Machine.execCordSignalLost link s
  | .hello link frame certOk => Sys2Proof.Machine.execHello link frame certOk s
  | .proof link frame sigOk => Sys2Proof.Machine.execProof link frame sigOk s
  | .confirm link word tagOk => Sys2Proof.Machine.execConfirm link word tagOk s
  | .authenticationTimeout link => Sys2Proof.Machine.execAuthenticationTimeout link s
  | .cordDataFrameReceive link frame tagOk => Sys2Proof.Machine.execCordDataFrameReceive link frame tagOk s
  | .ack link word => Sys2Proof.Machine.execAck link word s
  | .replay link word => Sys2Proof.Machine.execReplay link word s
  | .credit link word => Sys2Proof.Machine.execCredit link word s
  | .arrive link word => Sys2Proof.Machine.execArrive link word s
  | .cadence link word => Sys2Proof.Machine.execCadence link word s
  | .rekey link word => Sys2Proof.Machine.execRekey link word s
  | .rekeyStart link => Sys2Proof.Machine.execRekeyStart link s
  | .cordDegradedRecovery link => Sys2Proof.Machine.execCordDegradedRecovery link s
  | .quarantineBackoffExpiry link => Sys2Proof.Machine.execQuarantineBackoffExpiry link s
  | .quarantineCountReset link => Sys2Proof.Machine.execQuarantineCountReset link s
  | .systemBarrierTimeout ctx => Sys2Proof.Machine.execSystemBarrierTimeout ctx s
  | .cordEnableWrite src link val => Sys2Proof.Machine.execCordEnableWrite src link val s
  | .cordSplitWrite src port val => Sys2Proof.Machine.execCordSplitWrite src port val s
  | .quarantineRelease src link val => Sys2Proof.Machine.execQuarantineRelease src link val s
  | .roleCommand sideband bytes chk => Sys2Proof.Machine.execRoleCommand sideband bytes chk s
  | .writeRegs sideband bytes chk => Sys2Proof.Machine.execWriteRegs sideband bytes chk s
  | .stageEnvelope sideband bytes chk => Sys2Proof.Machine.execStageEnvelope sideband bytes chk s
  | .envelopeAlign sideband bytes chk => Sys2Proof.Machine.execEnvelopeAlign sideband bytes chk s
  | .store sideband bytes chk => Sys2Proof.Machine.execStore sideband bytes chk s
  | .storeComplete => Sys2Proof.Machine.execStoreComplete s
  | .discardStaged sideband bytes chk => Sys2Proof.Machine.execDiscardStaged sideband bytes chk s
  | .bindKey sideband bytes chk => Sys2Proof.Machine.execBindKey sideband bytes chk s
  | .ownerRelease sideband bytes chk => Sys2Proof.Machine.execOwnerRelease sideband bytes chk s
  | .ownerReleaseComplete => Sys2Proof.Machine.execOwnerReleaseComplete s
  | .powerKeyBind sideband bytes chk => Sys2Proof.Machine.execPowerKeyBind sideband bytes chk s
  | .auditAck sideband bytes chk => Sys2Proof.Machine.execAuditAck sideband bytes chk s
  | .stagePartners sideband bytes chk => Sys2Proof.Machine.execStagePartners sideband bytes chk s
  | .attestOwner sideband bytes chk => Sys2Proof.Machine.execAttestOwner sideband bytes chk s
  | .attestRequest src val => Sys2Proof.Machine.execAttestRequest src val s
  | .attestReportReady => Sys2Proof.Machine.execAttestReportReady s
  | .powerOkRise => Sys2Proof.Machine.execPowerOkRise s
  | .resetNAssert => Sys2Proof.Machine.execResetNAssert s
  | .resetNRelease => Sys2Proof.Machine.execResetNRelease s
  | .powerLoss => Sys2Proof.Machine.execPowerLoss s
  | .bootRomStage romOk journal aOk bOk badA bad => Sys2Proof.Machine.execBootRomStage romOk journal aOk bOk badA bad s
  | .firmwareLoadStage ok => Sys2Proof.Machine.execFirmwareLoadStage ok s
  | .migrationStage ok => Sys2Proof.Machine.execMigrationStage ok s
  | .crossingTrainingStage failed => Sys2Proof.Machine.execCrossingTrainingStage failed s
  | .hbmTrainingStage failed => Sys2Proof.Machine.execHbmTrainingStage failed s
  | .selfTestStage regions ports => Sys2Proof.Machine.execSelfTestStage regions ports s
  | .deviceReady => Sys2Proof.Machine.execDeviceReady s
  | .startStageTimeout => Sys2Proof.Machine.execStartStageTimeout s
  | .pendingBootTimeout => Sys2Proof.Machine.execPendingBootTimeout s
  | .fencedRegionDark region => Sys2Proof.Machine.execFencedRegionDark region s
  | .updateBegin bytes => Sys2Proof.Machine.execUpdateBegin bytes s
  | .updateCopyComplete => Sys2Proof.Machine.execUpdateCopyComplete s
  | .updateBlock bytes sigOk => Sys2Proof.Machine.execUpdateBlock bytes sigOk s
  | .updateEnd bytes => Sys2Proof.Machine.execUpdateEnd bytes s
  | .updateAbort => Sys2Proof.Machine.execUpdateAbort s
  | .ashpitEnableWrite src val => Sys2Proof.Machine.execAshpitEnableWrite src val s
  | .ashpitHeaderRewrite => Sys2Proof.Machine.execAshpitHeaderRewrite s
  | .ctrlLatchStart src addr => Sys2Proof.Machine.execCtrlLatchStart src addr s
  | .ctrlLatchEnd src addr => Sys2Proof.Machine.execCtrlLatchEnd src addr s
  | .tagLoad src val => Sys2Proof.Machine.execTagLoad src val s
  | .snapshotArm src req val => Sys2Proof.Machine.execSnapshotArm src req val s
  | .snapshotComplete ctx depOk => Sys2Proof.Machine.execSnapshotComplete ctx depOk s
  | .captureArm src val => Sys2Proof.Machine.execCaptureArm src val s
  | .replayArm src val => Sys2Proof.Machine.execReplayArm src val s
  | .statuesStopWrite src => Sys2Proof.Machine.execStatuesStopWrite src s
  | .stopInEdge => Sys2Proof.Machine.execStopInEdge s
  | .scanOutStart => Sys2Proof.Machine.execScanOutStart s
  | .scanOutEnd => Sys2Proof.Machine.execScanOutEnd s
  | .recover src => Sys2Proof.Machine.execRecover src s
  | .thermalTrip junction temp => Sys2Proof.Machine.execThermalTrip junction temp s
  | .stackHot stack temp => Sys2Proof.Machine.execStackHot stack temp s
  | .smbusReadBootStatus => Sys2Proof.Machine.execSmbusReadBootStatus s
  | .smbusReadIdentity => Sys2Proof.Machine.execSmbusReadIdentity s
  | .smbusReadTemperatures => Sys2Proof.Machine.execSmbusReadTemperatures s
  | .smbusReadFaultSummary => Sys2Proof.Machine.execSmbusReadFaultSummary s
  | .smbusRoleChunk bytes chk => Sys2Proof.Machine.execSmbusRoleChunk bytes chk s
  | .smbusRoleReply => Sys2Proof.Machine.execSmbusRoleReply s
  | .jtagAccess op => Sys2Proof.Machine.execJtagAccess op s
  | .syncOutPulseEnd => Sys2Proof.Machine.execSyncOutPulseEnd s
  | .thermAlertRelease => Sys2Proof.Machine.execThermAlertRelease s

end Sys2Proof.Machine
end

