-- ==== Sys2Proof/Machine/Tick.lean ====
section
/-! DEFINITION. One cycle of the clocks, which is what the package does while no command waits (log entry 7): the cycle counters of the tiles, the plan offset, the histograms, what drains by itself. -/

namespace Sys2Proof.Machine

/-! ### The matrix engine (R98, R99) -/

/-- IDLE of the context that runs gains a cycle; the cumulative IDLE is derived (`State.cumCounter`). -/
def Tile.countIdle (x : Tile) : Tile :=
  match x.run with
  | some k => { x with pctx := smod x.pctx (64 * k + 8) 0 (satAdd 48 · 1) }
  | none => x

/-- Working cycles are counted by the matrix rows; a tick counts the idle and the frozen ones, and keeps the cause in MATRIX_STATUS. -/
def Tile.tickMatrix (cause : Nat) (x : Tile) : Tile :=
  let y := if cause = 0 then x else x.countFrozen x.run cause 1
  let z := { y with matrix := { y.matrix with cause := cause } }
  if x.arrayOpen then { z with nonIdle := z.nonIdle + 1 } else z.countIdle

/-! ### Waits (R379) -/

/-- Requesters whose read waits for a range entry, a merge or a drain range (R55, R58, R96). -/
def Tile.rangeHolds (x : Tile) : Nat :=
  (requesters.filter (fun w => x.reqs.any (fun r => r.who = w && r.wr.isNone && x.reqHeld r))).length

/-- The resume of a context switch is held on a tile (R55, R58). -/
def State.resumeHeld (s : State) (t : Nat) : Bool :=
  match (s.tile t).runCtx.bind s.ctx with
  | some c => c.bound = .switching && (s.tile t).resumeHeld c
  | none => false

/-- Counter of the wait that the head of the DMA queue is in: attachment of a producer or a consumer (R181), a place in the stream table (R184) or in a range table (R56). -/
def Tile.dmaHeadWait (s : State) (t : Nat) : Option Nat :=
  let x := s.tile t
  match headEntry s t x.dmaQ.head? with
  | .go q e _ =>
    let car := fun (n : Nat) => (x.car (carKey q.slot n)).getD {}
    let op := dOp q.cmd
    let full := match e.resolve (dStore q.cmd) (dLength q.cmd) with
      | .ok (st, _) => decide (8 ≤ x.rangeUse st)
      | .error _ => false
    if dLength q.cmd = 0 then none
    else if op = 1 then (if full then some 0x19 else none)
    else if op = 3 || op = 4 then
      if (car (dCar q.cmd)).prod.isSome || (op = 4 && x.streams.any (fun o => dOp o.cmd = 4)) then some 0x1D
      else if op = 4 && (car (dIndexCar q.cmd)).cons.isSome then some 0x33
      else if 8 ≤ x.streams.length then some 0x1E
      else none
    else if op = 5 then
      if (car (dCar q.cmd)).cons.isSome then some 0x33 else if full then some 0x19 else none
    else none
  | _ => none

/-- The tile at which the next bulk write waits for an entry of a range table (R56). -/
def State.bulkFull (s : State) : Option Nat :=
  match s.evl.waiting.find? (·.writes) with
  | some (.bulk h _ _) => if s.bulkWrites then none else s.rangeFull h
  | _ => none

/-- A started stream finds its ring full: the next slot it would fill is not free (R182). -/
def Tile.ringFull (x : Tile) (o : DmaOp) : Bool :=
  o.stream && !o.faulted && (x.opCar o).any (fun (p : Nat × Carousel) =>
    if dOp o.cmd = 4 then decide (o.pub < o.slotTotal p.2) && decide (p.2.slots ≤ p.2.full)
    else decide (o.unit * o.asked < o.slotTotal p.2 * p.2.slotBillets) && x.unitsWanted o = 0 && decide (p.2.slots ≤ p.2.full))

/-- The next row of a GATHER that it could request now (R186). -/
def Tile.rowWanted (x : Tile) (o : DmaOp) : Bool :=
  match x.opCar o, o.idxs.drop o.asked with
  | some (_, c), i :: _ => o.stopAt.isNone && i ≠ padIndex && decide (i.toNat < dRows o.cmd) && decide (o.asked < gatherRoom o c)
  | _, _ => false

/-- A started command has a request to send and finds the 512 line requests of its engine in flight (R174). -/
def Tile.lineWait (x : Tile) (o : DmaOp) : Bool :=
  !o.host && !o.faulted &&
    match dOp o.cmd with
    | 1 => 0 < x.unitsWanted o && decide (x.lineRoom < 8 * o.unit)
    | 2 => x.opArrived o.id ≠ [] && decide (x.lineRoom < 8)
    | 3 => 0 < x.unitsWanted o && decide (x.lineRoom < 8 * o.unit)
    | 4 => x.rowWanted o && decide (x.lineRoom < dRowUnits o.cmd)
    | _ => false

/-- An UNLOAD, or a GATHER that wants indices, finds its ring empty (R182). -/
def Tile.ringEmpty (x : Tile) (o : DmaOp) : Bool :=
  if o.host then false
  else if dOp o.cmd = 5 then
    decide (o.issued < dLength o.cmd) && (x.car (carKey o.slot (dCar o.cmd))).any (fun c => c.filled = 0)
  else if dOp o.cmd = 4 then
    o.stopAt.isNone && o.idxs = [] && decide (o.idxRead < dLength o.cmd) && (x.car (carKey o.slot (dIndexCar o.cmd))).any (fun c => c.filled = 0)
      && !x.indexOut o.id
  else false

/-- A read in flight of a started command, or of a kindling slot, is held by a bucket's round (R263). -/
def State.opBucketHeld (s : State) (o : DmaOp) : Bool := o.readsOut.any (fun p => s.bucketHeld p.1 p.2)

def State.bucketHolds (s : State) (x : Tile) : Nat :=
  if s.buckets = [] then 0
  else (x.ops.filter s.opBucketHeld).length + (x.ksl.filter (fun k => !k.put && !k.sent && s.bucketHeld k.addr k.len)).length

/-- The head FINISH waits for its stream (R244), or for a credit (R260). -/
def Tile.finishWait (s : State) (t : Nat) : Option Nat :=
  let x := s.tile t
  if x.rick.waitCredit.isSome then some 0x30
  else
    match headEntry s t x.rickQ.head? with
    | .go q _ _ =>
      let k := x.stream (rStream q.cmd)
      if rOp q.cmd = 3 && !q.done && k.arrived ≠ k.expect then some 0x2F else none
    | _ => none

/-- Index of an engine among the QUEUE_FULL counters. -/
def engineIndex : Engine → Nat
  | .matrix => 0
  | .vector => 1
  | .dma => 2
  | .rick => 3

/-- Counter of what the core is stalled on (R36, R39, R160, R191, R205, R229, R230). -/
def Tile.stallCounter (x : Tile) : Option Nat :=
  match x.stall with
  | .queueFull eng => some (0x0A + engineIndex eng)
  | .barrier => some 0x0E
  | .exchange => if x.exch.phase = 1 then some 0x0E else if x.exch.phase = 0 then none else some 0x0F
  | .ctrWait => some 0x10
  | .kindling => some 0x20
  | .chSend _ => some 0x2D
  | .chSlots _ => some 0x2D
  | _ => none

/-- A due send on the mesh that has not injected its last flit. -/
def PlanEnt.sending (e : PlanEnt) : Bool := (e.kind = 1 || e.kind = 3) && e.due && !e.done && decide (e.left < e.count)

/-- Due sends whose next flit was planned for this cycle or an earlier one and does not enter in it (R213). -/
def Tile.sendLate (x : Tile) : Nat :=
  (x.exch.ents.filter (fun e => e.sending && decide (e.sent ≤ e.age) && x.exch.portEnt ≠ some e.idx)).length

/-- Every wait of a tile in this cycle, as counter and number. -/
def Tile.waitsNow (s : State) (t : Nat) : List (Nat × Nat) :=
  let x := s.tile t
  let one := fun (o : Option Nat) => match o with | some i => [(i, 1)] | none => []
  let n := fun (i k : Nat) => if k = 0 then [] else [(i, k)]
  one x.stallCounter ++ n 0x18 (x.rangeHolds + b2n (s.resumeHeld t)) ++ one (Tile.dmaHeadWait s t) ++ n 0x19 (b2n (s.bulkFull = some t))
    ++ n 0x1B (x.ops.filter x.ringFull).length ++ n 0x1C (x.ops.filter x.ringEmpty).length ++ n 0x1F (x.ops.filter x.lineWait).length
    ++ n 0x24 x.sendLate ++ n 0x26 (b2n (x.exch.heldArr || s.cordHeld t)) ++ one (Tile.finishWait s t) ++ n 0x31 (s.bucketHolds x)

/-- The stalled cycle of a send endpoint (R229, R230). -/
def Tile.tickEndpoint (x : Tile) : Tile :=
  let up := fun (n : Nat) => x.modEp n (fun k => { k with stall := satAdd 32 k.stall 1 })
  match x.stall with
  | .chSend n => up n
  | .chSlots n => up n
  | _ => x

/-! ### The plan offset (R213, R216) -/

/-- P grows by 1, or stays while a receive holds it, which counts a late cycle; in the cycle after that receive is complete it goes on, and the entries behind it fall due. It does not pass the CYCLE of an entry that has not yet fallen due, or has not been read. -/
def Tile.tickOffset (x : Tile) : Tile :=
  let h := x.exch
  if h.phase < 2 || h.plan.isNone then x
  else if h.holding.any (fun n => (x.ent n).any (·.done)) then { x with exch := { h with holding := none, offset := (h.offset + 1) % 2 ^ 24 } }
  else if h.holding.isSome then
    { x.count x.run 0x25 1 with exch := { h with slip := satAdd 24 h.slip 1, lastCycles := satAdd 16 h.lastCycles 1 } }
  else
    let free := if h.entries ≤ h.next then true
      else match x.ent h.next with
        | some e => decide (h.offset < e.cycle)
        | none => false
    if free then { x with exch := { h with offset := (h.offset + 1) % 2 ^ 24 } } else x

/-- The sends grow older by a cycle, and the local port is free for the next flit (R213). -/
def Tile.tickSends (x : Tile) : Tile :=
  if x.exch.ents = [] && x.exch.portEnt.isNone then x
  else { x with exch := { x.exch with portEnt := none, ents := x.exch.ents.map (fun e => if e.sending then { e with age := e.age + 1 } else e) } }

/-! ### Histograms (R381) -/

/-- Occupancy and capacity of the queue of histogram `q`. -/
def Tile.queueLevel (x : Tile) (q : Nat) : Nat × Nat :=
  let sel := x.histSel.toNat
  match q with
  | 0 => (x.matQ.length, 16)
  | 1 => (x.vecQ.length, 32)
  | 2 => (x.dmaUse, 64)
  | 3 => (x.rickQ.length, 16)
  | 4 => (x.ksl.length, 16)
  | 5 => match x.car (carKey (bf sel 4 3) (bf sel 0 4)) with | some c => (c.filled, c.slots) | none => (0, 1)
  | 6 => let k := x.ep (bf sel 7 5); if k.valid && k.recv then (k.free, 8 * k.ringBillets) else (0, 1)
  | _ => (x.rick.input.length, 64)

/-- One bin of each histogram gains 1; bin 0 is kept as the rest of the cycles. -/
def Tile.tickHist (x : Tile) : Tile :=
  (List.range 8).foldl (fun y q =>
    let l := x.queueLevel q
    let b := binOf l.1 l.2
    if b = 0 then y else { y with hist := smod y.hist (8 * q + b) 0 (· + 1) }) x

/-! ### One cycle -/

/-- A trace record leaves the buffer of a tile and is written to the record area (R387, R398). -/
def drainTrace (t : Nat) (s : State) : State :=
  match (s.tile t).trace with
  | [] => s
  | r :: rest =>
    if s.recordBusy || !s.forn.pitOn then s
    else writeRecord r.bytes (s.modTile t (fun x => { (x.count none 0x2A 2) with trace := rest }))

/-- The units of a tile present what they now can: its DMA commands, its matrix feeders, its channel unit and its exchange unit. -/
def pumpUnits (t : Nat) (s : State) : State := pumpSends t (pumpMsgs t (feedPump t (pumpTile t s)))

/-- A cycle of a tile whose clock runs. -/
def tickTile (t : Nat) (s : State) : State :=
  let waits := Tile.waitsNow s t
  pumpUnits t (drainTrace t (s.modTile t (fun x =>
    let y := waits.foldl (fun (x : Tile) (w : Nat × Nat) => x.count x.run w.1 w.2) (x.tickMatrix x.freezeCause)
    ((y.tickEndpoint.tickOffset).tickSends.tickHist).tickStores (s.tileCycle t))))

/-- A cycle of a tile that Statues has stopped: its clock runs on, so its cycles and its histograms count (R98, R381). -/
def tickStopped (t : Nat) (s : State) : State := s.modTile t (fun x => (x.tickMatrix x.freezeCause).tickHist)

/-- In a replay the slots that earlier streams published appear in their rings as these have room (R397). -/
def tickReplay (s : State) : State :=
  forAll (s.ctxs.filter (fun p => s.replays p.1)) (fun p s => forAll p.2.tiles (fun t s => replaySlot t p.1 s) s) s

/-- The clock of a lit region is held in this period, by duty (R309). -/
def State.dutyHeld (s : State) (r : Nat) : Bool := decide (s.cycle % 64 < (s.region r).duty)

/-- A lit region's clock moves on by a cycle, or a held period is counted. -/
def tickRegion (r : Nat) (s : State) : State :=
  if (s.region r).st ≠ .lit then s
  else if s.dutyHeld r then s.modRegion r (fun q => { q with held := q.held + 1 })
  else s.modRegion r (fun q => { q with cycles := q.cycles + 1 })

/-- SEQ after the last frame that ACK words among these acknowledge. -/
def ackOf (ws : List (BitVec 64)) (old : Nat) : Nat := ws.foldl (fun n w => if w.toNat % 256 = 1 then (bf w.toNat 16 24 + 1) % 2 ^ 24 else n) old

/-- Control words that wait leave in one control frame of up to 8 words, which takes a SEQ and a place in the replay buffer (R334). Behind the REKEY word of step 2 frames go under the new key (R337). -/
def sendControl (l : Nat) (s : State) : State :=
  let k := s.link l
  let ws := k.ctlOut.take 8
  if k.ctlOut = [] || !k.carries || 512 ≤ k.txQ.length then s
  else s.setLink l { k with
    ctlOut := k.ctlOut.drop 8
    txQ := k.txQ ++ [{ cls := 3, seq := k.txNext, bytes := wordBytes ws }]
    txNext := (k.txNext + 1) % 2 ^ 24
    ackLeft := ackOf ws k.ackLeft
    frames := if ws.contains (ctlWord 0x06 2 0) then 0 else k.frames + 1
    sentTimes := s.us :: k.sentTimes.filter (fun t => s.us < 10000000 + t)
    cnt := smod k.cnt 0 0 (· + 1) }

/-- What one cycle does: nothing while the package is held in reset. -/
def tick (s : State) : State :=
  if !s.awake then s
  else
    let ts := (s.tiles.map (·.1)).filter (fun t => s.tileLit t && !s.dutyHeld (regionOf t))
    let s0 := if s.statues then s else tickReplay s
    let s1 := forAll ts (if s.statues then tickStopped else tickTile) s0
    let s2 := forAll (List.range 24) tickRegion s1
    let s3 := forAll (s.links.map (·.1)) sendControl s2
    let s4 := grantSteps (pumpEvl s3)
    { s4 with cycle := s4.cycle + 1 }

end Sys2Proof.Machine
end

