-- ==== Sys2Proof/Safety.lean ====
section
/-! DEFINITION. The terms in which claims about the package are stated: what it means that a command completes, and the invariants that every step keeps. -/

namespace Sys2Proof.Machine

/-- The command answers a next state, of which `post` holds. -/
def Completes (c : Instr) (s : State) (post : State → Prop) : Prop :=
  ∃ u, exec c s = .next u ∧ post u

/-- `u` differs from `s` in tile `t` at most. -/
def State.OnlyTile (s u : State) (t : Nat) : Prop := u = s.setTile t (u.tile t)

/-- Every byte memory of the package is in its one canonical form: HBM, the host memory of the window, and the stores of every tile. -/
def State.memOk (s : State) : Prop :=
  s.hbm.wf = true ∧ s.hostMem.wf = true ∧ ∀ p ∈ s.tiles, p.2.store.wf = true

/-- What nothing undoes, a reset and a power loss included: the notches of the notched settings only go down (R352), NEXT_NONCE of each role (R347) and the version floors of the images (R373) only go up. -/
def State.Lasts (s u : State) : Prop :=
  u.sec.nOp ≤ s.sec.nOp ∧ u.sec.nOwn ≤ s.sec.nOwn ∧ u.sec.nCeil ≤ s.sec.nCeil ∧ u.sec.nDebug ≤ s.sec.nDebug
    ∧ (∀ role, (sgetD s.sec.nonces role 0).toNat ≤ (sgetD u.sec.nonces role 0).toNat)
    ∧ (∀ img, sgetD s.boot.floor img 0 ≤ sgetD u.boot.floor img 0)

/-- The vector commands with their VOP (R142, R145, R147, R148). -/
def vectorCommands (t : TileId) (ecc : Check) : List (Instr × Nat) :=
  [(.add t ecc, 0x01), (.sub t ecc, 0x02), (.mul t ecc, 0x03), (.fma t ecc, 0x04), (.min t ecc, 0x05), (.max t ecc, 0x06),
   (.abs t ecc, 0x07), (.neg t ecc, 0x08), (.cmpLt t ecc, 0x09), (.cmpLe t ecc, 0x0A), (.cmpEq t ecc, 0x0B), (.rcp t ecc, 0x10),
   (.sqrt t ecc, 0x11), (.rsqrt t ecc, 0x12), (.exp t ecc, 0x13), (.exp2 t ecc, 0x14), (.expm1 t ecc, 0x15), (.log t ecc, 0x16),
   (.log2 t ecc, 0x17), (.tanh t ecc, 0x18), (.sigmoid t ecc, 0x19), (.cvtWiden t ecc, 0x20), (.cvtNarrow t ecc, 0x21)]

/-- The commands of a submission ring with their opcode (R286), CREATE_CONTEXT with either verdict on its signature, and those that read the tables of the control complex with each outcome of that check (R409). -/
def ringCommands (r : RingId) (e : Ecc) : List (Instr × Nat) :=
  [(.createContext ⟨r, e⟩ true, 1), (.createContext ⟨r, e⟩ false, 1), (.destroyContext r, 2), (.submitGraph ⟨r, e⟩, 3), (.cancelGraph r, 4), (.pauseGraph r, 5),
   (.resumeGraph r, 6), (.rebase r, 7), (.defineBucket ⟨r, e⟩, 8), (.removeBucket r, 9), (.releaseHold r, 10), (.locate r, 11)]

end Sys2Proof.Machine
end

