-- ==== Sys2Proof/Certificates/Slice0/Obligations.lean ====
section
/-! DEFINITION. The statements for the provers, from the rules of the spec. -/

open Sys2Proof Sys2Proof.Machine

/-- What each instruction of the core leaves, for every form of its operands that the rules let through (R35, R40, R58, R64, R152, R157 to R160). The unchanged rest of the package is part of each equation. -/
def Obligations.CoreInstructionsComplete : Prop :=
  (∀ (s : State) (t : TileId) (slot : Nat) (e : MapEntry) (rd : Fin 32) (bil : BitVec 16) (d : Nat) (st : StoreId) (i : Nat),
    coreIssue s t freeCore = some (slot, e) → d < 64 → e.resolve bil.toNat 1 = .ok (st, i) →
    exec (.scalarLoad t rd bil (8 * d)) s = .next (s.setTile t
      { (s.tile t).post (s.tileCycle t) { who := .core, store := st, bil := i, dst := .coreReg slot rd d } with stall := .load, coreSt := 1 })) ∧
  (∀ (s : State) (t : TileId) (slot : Nat) (e : MapEntry) (rs : Fin 32) (bil : BitVec 16) (d : Nat) (st : StoreId) (i : Nat),
    coreIssue s t freeCore = some (slot, e) → d < 64 → e.resolve bil.toNat 1 = .ok (st, i) →
    exec (.scalarStore t rs bil (8 * d)) s = .next (s.setTile t { s.tile t with
      merges := (s.tile t).merges ++ [{ store := st, bil := i, off := 8 * d, bytes := natLe 8 ((s.tile t).reg slot rs).toNat, org := .core, seq := (s.tile t).nextReq }]
      nextReq := (s.tile t).nextReq + 1 })) ∧
  (∀ (s : State) (t : TileId) (slot : Nat) (e : MapEntry) (target : Option Nat),
    coreIssue s t freeCore = some (slot, e) →
    let pc := target.getD (sgetD (s.tile t).banks slot {}).pc
    4 * pc < 1024 * e.imSize → 4 * pc < e.codeLen →
    exec (.instructionFetch t target true .clean) s = .next (s.setTile t { s.tile t with
      fetched := BitVec.ofNat 32 (leNat (memRead (s.tile t).store (storeOff .imem + 1024 * e.imBase + 4 * pc) 4))
      coreSlot := slot
      banks := sset (s.tile t).banks slot { sgetD (s.tile t).banks slot {} with pc := pc + 1 } })) ∧
  (∀ (s : State) (t : TileId) (slot : Nat) (e : MapEntry) (id val : BitVec 8),
    coreIssue s t freeCore = some (slot, e) → id.toNat < e.ctrSize → val ≠ 0 →
    ((s.tile t).counter (e.ctrBase + id.toNat)).toNat + val.toNat < 2 ^ 48 →
    exec (.ctrAdd t id val) s = .next (s.setTile t { s.tile t with
      ctr := sset (s.tile t).ctr (e.ctrBase + id.toNat)
        (BitVec.ofNat 48 (((s.tile t).counter (e.ctrBase + id.toNat)).toNat + val.toNat)) })) ∧
  (∀ (s : State) (t : TileId) (slot : Nat) (e : MapEntry) (id val : BitVec 8),
    coreIssue s t freeCore = some (slot, e) → id.toNat < e.ctrSize → val ≠ 0 →
    2 ^ 48 ≤ ((s.tile t).counter (e.ctrBase + id.toNat)).toNat + val.toNat →
    exec (.ctrAdd t id val) s = .next (s.setTile t { s.tile t with
      ctr := sset (s.tile t).ctr (e.ctrBase + id.toNat) (BitVec.ofNat 48 (2 ^ 48 - 1))
      sat := (s.tile t).sat ||| BitVec.ofNat 64 (2 ^ (e.ctrBase + id.toNat)) })) ∧
  (∀ (s : State) (t : TileId) (slot : Nat) (e : MapEntry) (rd : Fin 32) (id : BitVec 8),
    coreIssue s t freeCore = some (slot, e) → id.toNat < e.ctrSize →
    Completes (.ctrRead t rd id) s fun u =>
      s.OnlyTile u t ∧ { u.tile t with banks := (s.tile t).banks } = s.tile t ∧
      (u.tile t).reg slot rd = (if rd.val = 0 then 0 else ((s.tile t).counter (e.ctrBase + id.toNat)).setWidth 64) ∧
      ∀ k r, (k ≠ slot ∨ r ≠ rd.val) → (u.tile t).reg k r = (s.tile t).reg k r) ∧
  (∀ (s : State) (t : TileId) (slot : Nat) (e : MapEntry) (rs rt : Fin 32),
    coreIssue s t (fun st => st = .none || st = .ctrWait) = some (slot, e) →
    ((s.tile t).reg slot rs).toNat < e.ctrSize → (s.tile t).sat.getLsbD (e.ctrBase + ((s.tile t).reg slot rs).toNat) = false →
    exec (.ctrWait t rs rt) s = .next (s.setTile t { s.tile t with
      stall := if waitMet ((s.tile t).counter (e.ctrBase + ((s.tile t).reg slot rs).toNat)) ((s.tile t).reg slot rt).toNat then .none else .ctrWait
      coreSt := 1 }))

/-- What ENQUEUE and the barrier-arrival instruction leave (R36, R37, R39, R279). -/
def Obligations.EnqueueCompletes : Prop :=
  (∀ (s : State) (t : TileId) (eng : Engine) (cmd : BitVec 256) (slot : Nat) (e : MapEntry),
    coreIssue s t (fun st => st = .none || st = .queueFull eng) = some (slot, e) →
    (s.tile t).queueUse eng < queueDepth eng → pickCode (engineChecks e eng cmd) = none →
    (∀ b ∈ featureBits eng cmd, ∃ c, s.ctx e.ctx = some c ∧ bit c.features b = true) →
    exec (.enqueue t eng ⟨cmd, true⟩) s = .next (s.setTile t
      (({ s.tile t with stall := .none, coreSt := 1 } : Tile).push eng { ctx := e.ctx, slot := slot, cmd := cmd }))) ∧
  (∀ (s : State) (t : TileId) (eng : Engine) (cmd : BitVec 256) (slot : Nat) (e : MapEntry),
    coreIssue s t (fun st => st = .none || st = .queueFull eng) = some (slot, e) →
    queueDepth eng ≤ (s.tile t).queueUse eng →
    exec (.enqueue t eng ⟨cmd, true⟩) s = .next (s.setTile t { s.tile t with stall := .queueFull eng, coreSt := 2 })) ∧
  (∀ (s : State) (t : TileId) (slot : Nat) (e : MapEntry), coreIssue s t freeCore = some (slot, e) →
    exec (.barrierArrival t) s = .next (s.setTile t { s.tile t with stall := .barrier, coreSt := 3 }))

/-- What a grant and a read return leave (R45 to R49, R61, R62, R179). -/
def Obligations.BankAccessCompletes : Prop :=
  (∀ (s : State) (t : TileId) (b : Fin 89) (r : BankReq),
    leader ((s.tile t).waiting (s.tileCycle t) b) = some r → (s.tile t).bankFree (s.tileCycle t) b = true → ((s.tile t).bank b).writeback = [] →
    (s.tile t).bondCarries (s.tileCycle t) b r = true → (b.val = 88 → (s.tile t).planTurn (s.tileCycle t) = false) →
    let takes := (s.tile t).bankOpen b = true ∨ r.acc = true ∧ ((s.tile t).bank b).st = .closing
    (takes → r.wr = none → exec (.storeAccessGrant t b) s = .next (s.setTile t (({ (s.tile t).granted (s.tileCycle t) b r with
      reads := ((s.tile t).granted (s.tileCycle t) b r).reads ++
        [{ r with readyAt := s.tileCycle t + bankLatency b, data := (s.tile t).billet r.store r.bil }] } : Tile).consume r))) ∧
    (takes → ∀ bs, r.wr = some bs → exec (.storeAccessGrant t b) s = .next (applyWrite t r bs (s.setTile t ((s.tile t).granted (s.tileCycle t) b r)))) ∧
    (¬ takes → exec (.storeAccessGrant t b) s = .next (refuseDark t r s))) ∧
  (∀ (s : State) (t : TileId) (r : BankReq), (s.tile t).reads.find? (fun r => r.readyAt ≤ (s.tileCycle t)) = some r →
    exec (.storeReadDataReturn t .clean) s = .next (deliver t r (s.setTile t { s.tile t with reads := (s.tile t).reads.erase r })) ∧
    (∀ slot reg d, r.dst = .coreReg slot reg d →
      exec (.storeReadDataReturn t .clean) s = .next (s.setTile t
        { ({ s.tile t with reads := (s.tile t).reads.erase r } : Tile).setReg slot reg (BitVec.ofNat 64 (bytesAt r.data (8 * d) 8)) with
          stall := .none, coreSt := 1 }))) ∧
  (∀ (s : State) (t : TileId) (b : Fin 89), ((s.tile t).bank b).writeback ≠ [] → (s.tile t).bankFree (s.tileCycle t) b = true →
    exec (.correctedBilletWriteback t b) s = .next (s.setTile t ((s.tile t).setBank b
      { (s.tile t).bank b with writeback := ((s.tile t).bank b).writeback.drop 1, lastGrant := s.tileCycle t + 1, lastWho := none })))

/-- What the merge buffer does (R58, R191). -/
def Obligations.MergeCompletes : Prop :=
  (∀ (s : State) (t : TileId) (st : StoreId) (m : MergeEntry),
    ((s.tile t).merges.filter (fun m => m.store = st && m.stage ≠ .queued)).length < 4 →
    (s.tile t).merges.find? (fun m => m.store = st && m.stage = .queued && !(s.tile t).inMerge st m.bil && !(s.tile t).kputWaits st m.bil m.seq) = some m →
    exec (.subBilletWrite t st) s = .next (s.setTile t (({ s.tile t with merges := (s.tile t).merges.replace m { m with stage := .reading } } : Tile).post
      (s.tileCycle t) { who := .merge, store := st, bil := m.bil, dst := .merge }))) ∧
  (∀ (s : State) (t : TileId) (st : StoreId) (m : MergeEntry),
    (s.tile t).merges.find? (fun m => m.store = st && m.stage = .granted) = some m →
    let y : Tile := { s.tile t with merges := (s.tile t).merges.erase m }
    exec (.mergeComplete ⟨t, .clean⟩ st) s = .next (s.setTile t (match m.org with
      | .kget id => y.modK id (fun k => { k with done := true })
      | .chan _ => y
      | .scale _ => y
      | .cvtTail => y
      | .rick => y
      | .core => y)))

/-- What gating a bank and waking it leave (R60, R61, R63). -/
def Obligations.BankGatingCompletes : Prop :=
  (∀ (s : State) (t : TileId) (b : Fin 88), ((s.tile t).bank b).st = .closing →
    (∀ r ∈ (s.tile t).reqs, r.bank = b → r.acc = false) → (∀ r ∈ (s.tile t).reads, r.bank ≠ b) →
    exec (.bankPowerOff t b) s = .next (s.setTile t ((s.tile t).setBank b { (s.tile t).bank b with st := .dark, writeback := [] }))) ∧
  (∀ (s : State) (t : TileId) (b : Fin 88), ((s.tile t).bank b).st = .waking →
    exec (.bankPowerRestored t b) s = .next (s.setTile t ((s.tile t).setBank b { (s.tile t).bank b with st := .zeroing }))) ∧
  (∀ (s : State) (t : TileId) (b : Fin 88), ((s.tile t).bank b).st = .zeroing →
    Completes (.bankWakeComplete t b) s fun u =>
      s.OnlyTile u t ∧ { u.tile t with bankSt := (s.tile t).bankSt, store := (s.tile t).store } = s.tile t ∧
      (u.tile t).bank b = { (s.tile t).bank b with st := .lit } ∧
      (∀ k : Nat, k ≠ b → (u.tile t).bank k = (s.tile t).bank k) ∧
      (let (st, first, n) := bankBillets b
       ∀ a, memByte (u.tile t).store a =
         if bilOff st first ≤ a ∧ a < bilOff st (first + n) then 0 else memByte (s.tile t).store a)) ∧
  (∀ (x : Tile) (cycle b : Nat),
    ((x.bank b).st = .lit → x.bankMapped b = false →
      (x.gateBank cycle b true) = (x.acceptAll b).setBank b { x.bank b with st := .closing, closedAt := cycle }) ∧
    ((x.bank b).st ≠ .dark → (x.bank b).st ≠ .closing → x.bankMapped b = true → (x.gateBank cycle b true) = { x with gateRefused := true }) ∧
    ((x.bank b).st = .dark → (x.gateBank cycle b false) = x.setBank b { x.bank b with st := .waking }))

/-- What the barriers of a partition do (R39, R204 to R206). -/
def Obligations.BarrierCommandsComplete : Prop :=
  (∀ (s : State) (t : TileId) (a : Nat × MapEntry) (n : Nat) (c : Ctx),
    coreIssue s t (fun st => st = .barrier) = some a → (s.tile t).runCtx = some n → (s.tile t).settled n = true → s.ctx n = some c →
    exec (.exchangeBarrierArrival t) s = .next ((s.setTile t { s.tile t with
        stall := .exchange, coreSt := 3, exch := { (s.tile t).exch with phase := 1 }, arrivedAt := (s.region (regionOf t)).cycles }).setCtx n
      { c with
        barrier := 1
        arrived := if c.arrived.contains t then c.arrived else c.arrived ++ [t.val]
        planIds := c.planIds ++ [(s.tile t).exch.planId]
        firstArr := if c.arrived = [] then s.ctxCycles c else c.firstArr
        lastArr := s.ctxCycles c, lastExArr := s.ctxCycles c })) ∧
  (∀ (s : State) (n : CtxId) (c : Ctx) (p : Nat),
    s.ctx n = some c → s.statues = false → c.st = .running → c.stop = none → c.barrier = 1 → (∀ t ∈ c.tiles, t ∈ c.arrived) →
    (∀ q ∈ c.planIds, q = p) →
    Completes (.exchangeRelease n none) s fun u =>
      (∀ t, u.tile t = if t ∈ c.tiles then { s.tile t with exch := { (s.tile t).exch with
        phase := if (s.tile t).exch.plan.isSome then 2 else 3, offset := 0, slip := 0, holding := none, ended := false } } else s.tile t) ∧
      u = { s with tiles := u.tiles, ctxs := u.ctxs, links := u.links }) ∧
  (∀ (s : State) (t : TileId) (slot : Nat) (m : MapEntry) (c : Ctx),
    exchCtx s t = some (slot, m, c) → (s.tile t).exch.phase = 2 → c.barrier = 2 → (s.tile t).exch.isOver = true →
    exec (.boundaryBarrierArrival t) s = .next (sendArrives m.ctx
      (((finishSends t s).modTile t (fun x => { x with exch := { x.exch with phase := 3 } })).modCtx m.ctx (fun c' => { c' with
        arrived := if c'.arrived.contains t then c'.arrived else c'.arrived ++ [t.val], lastArr := s.ctxCycles c' }))))

/-- R165: "Every counter of the window that is not saturated becomes C mod 2²⁴, its low 24 bits. Every saturated counter becomes the 24-bit fill value given in the request, and its flag is cleared." -/
def Obligations.RebaseKeepsCountersModulo : Prop :=
  (∀ (s : State) (n : CtxId) (c : Ctx) (fill : Nat), s.ctx n = some c → c.rebase = some fill → s.quiescent n c = true →
    Completes (.rebaseApply n) s fun u =>
      (∀ t, t ∉ c.tiles → u.tile t = s.tile t) ∧ u.ctx n = some { c with rebase := none } ∧
      (∀ m, m ≠ n.val → u.ctx m = s.ctx m) ∧ u = { s with tiles := u.tiles, ctxs := u.ctxs } ∧
      ∀ t ∈ c.tiles, c.tiles.Nodup → u.tile t = (s.tile t).rebase c.entry fill c.slot) ∧
  (∀ (x : Tile) (e : MapEntry) (fill slot p : Nat),
    let y := x.rebase e fill slot
    let inside := e.ctrBase ≤ p ∧ p < e.ctrBase + e.ctrSize
    (inside → x.sat.getLsbD p = false → y.counter p = BitVec.ofNat 48 ((x.counter p).toNat % 2 ^ 24)) ∧
    (inside → x.sat.getLsbD p = true → y.counter p = BitVec.ofNat 48 (fill % 2 ^ 24)) ∧
    (inside → y.sat.getLsbD p = false) ∧
    (¬ inside → y.counter p = x.counter p ∧ y.sat.getLsbD p = x.sat.getLsbD p) ∧
    y.rebaseDone = true ∧ y.rebaseSlot = slot ∧
    { y with ctr := x.ctr, sat := x.sat, rebaseSlot := x.rebaseSlot, rebaseDone := x.rebaseDone, rebaseDefer := x.rebaseDefer } = x)

/-- What the commands of the exchange unit leave (R206 to R216, R415). That an entry falls due at any offset from its CYCLE on, and that sends read ahead in entry order, is the model's choice (log entry 31). -/
def Obligations.PlanCommandsComplete : Prop :=
  (∀ (s : State) (t : TileId) (slot : Nat) (e : MapEntry) (pos : Nat),
    coreIssue s t freeCore = some (slot, e) →
    let h := imemBytes (s.tile t) e (16 * pos) 16
    let n := bytesAt h 0 2
    bytesAt h 3 9 = 0 → bytesAt h 14 2 = 0 → bytesAt h 12 2 ≠ 0xFFFF → 0 < n → n ≤ 8191 →
    (∃ c, s.ctx e.ctx = some c ∧ c.table = bytesAt h 2 1) → 16 * (pos + 1 + n) ≤ 1024 * e.imSize →
    exec (.exchSelect t pos .clean) s = .next (s.setTile t { s.tile t with exch := { (s.tile t).exch with
      plan := some pos, planId := bytesAt h 12 2, entries := n, next := 0, read := 0, ents := [], ended := false, holding := none } })) ∧
  (∀ (s : State) (t : TileId) (slot : Nat) (e : MapEntry) (c : Ctx) (pos : Nat),
    exchCtx s t = some (slot, e, c) → (s.tile t).exch.plan = some pos →
    let n := (s.tile t).exch.read
    let p : PlanEnt := { idx := n, raw := BitVec.ofNat 128 (leNat (imemBytes (s.tile t) e (16 * (pos + 1 + n)) 16)) }
    (s.tile t).planTurn (s.tileCycle t) = true →
    pickCode (entryChecks s t e c (s.tile t).exch.ents.getLast? (s.tile t).exch.entries p) = none →
    exec (.planEntryRead t .clean) s = .next ((s.modTile t (·.planGrant (s.tileCycle t))).modTile t
      (fun y => { y with exch := { y.exch with read := n + 1, ents := y.exch.ents ++ [p] } }))) ∧
  (∀ (s : State) (t : TileId) (n slot : Nat) (m : MapEntry) (c : Ctx) (e : PlanEnt),
    exchCtx s t = some (slot, m, c) → (s.tile t).ent n = some e → (s.tile t).exch.phase = 2 → e.sends = true → e.done = false →
    e.asked = 0 → (∀ f ∈ (s.tile t).exch.ents, f.idx < n → f.sends = true → f.asked = f.count) → e.cycle ≤ (s.tile t).exch.offset + 24 →
    exec (.sendReadAhead t n) s = .next (readAhead t n m s)) ∧
  (∀ (s : State) (t : TileId) (slot : Nat) (m : MapEntry) (c : Ctx) (e : PlanEnt),
    exchCtx s t = some (slot, m, c) → (s.tile t).ent (s.tile t).exch.next = some e → (s.tile t).exch.phase = 2 →
    (s.tile t).exch.holding = none → e.cycle ≤ (s.tile t).exch.offset →
    let y := (s.tile t).modEnt e.idx (fun e => { e with due := true })
    (e.kind = 7 → exec (.planEntryDue ⟨t, .clean⟩) s =
      .next (s.setTile t { y with exch := { y.exch with next := e.idx + 1, ended := true } })) ∧
    (e.kind ≠ 7 → e.count = 0 → exec (.planEntryDue ⟨t, .clean⟩) s =
      .next (entryDone t slot m.ctx e (s.setTile t { y with exch := { y.exch with next := e.idx + 1 } }))) ∧
    (e.count ≠ 0 → e.sends = true → exec (.planEntryDue ⟨t, .clean⟩) s =
      .next (pumpSends t (s.setTile t { y with exch := { y.exch with next := e.idx + 1 } }))) ∧
    (e.kind ≠ 7 → e.count ≠ 0 → e.sends = false → e.done = true → exec (.planEntryDue ⟨t, .clean⟩) s =
      .next (s.setTile t { y with exch := { y.exch with next := e.idx + 1 } })) ∧
    (e.kind ≠ 7 → e.count ≠ 0 → e.sends = false → e.done = false → exec (.planEntryDue ⟨t, .clean⟩) s =
      .next (s.setTile t { y with exch := { y.exch with
        next := e.idx + 1, holding := some e.idx, lastEntry := e.idx, lastCord := decide (e.kind = 6), lastCycles := 0 } }))) ∧
  (∀ (s : State) (t : TileId) (n slot : Nat) (m : MapEntry) (c : Ctx) (e : PlanEnt),
    exchRun s t = some (slot, m, c) → (s.tile t).ent n = some e → e.sends = true → e.due = true → e.done = false → e.left = e.count →
    exec (.sendComplete t n) s = .next (postAdd t m.ctx slot e.addId e.addVal
      (s.setTile t ((s.tile t).modEnt e.idx (fun e => { e with done := true }))))) ∧
  (∀ (s : State) (t : TileId) (n slot : Nat) (m : MapEntry) (c : Ctx) (e : PlanEnt),
    exchRun s t = some (slot, m, c) → (s.tile t).ent n = some e → e.recvs = true → e.done = false → 0 < e.count → e.wrote = e.count →
    exec (.receiveComplete t n) s = .next (postAdd t m.ctx slot e.addId e.addVal
      (s.setTile t ((s.tile t).modEnt e.idx (fun e => { e with done := true })))))

/-- What becomes of a flit (R195, R215, R217, R218). -/
def Obligations.FlitCommandsComplete : Prop :=
  (∀ (s : State) (t : TileId) (port : Fin 5) (i : Nat) (f : Flit), s.statues = false → portGrant s t port = some (i, f) →
    (port.val ≠ 4 ∨ f.loose = false) →
    Completes (.flitForward t port .clean) s fun u =>
      u = { s with tiles := u.tiles } ∧ (∀ k, k ≠ t.val → k ≠ neighbour t port → u.tile k = s.tile k) ∧
      (port.val ≠ 4 → neighbour t port ≠ t → (u.tile (neighbour t port)).router.buf (facing port) f.vn =
        (s.tile (neighbour t port)).router.buf (facing port) f.vn ++ [f]) ∧
      (port.val = 4 → f.vn = .s → (u.tile t).exch.deliver = (s.tile t).exch.deliver ++ [f]) ∧
      (port.val = 4 → f.vn ≠ .s → (u.tile t).rick.input = (s.tile t).rick.input ++ [f])) ∧
  (∀ (s : State) (t : TileId) (slot : Nat) (m : MapEntry) (c : Ctx) (f : Flit) (r : List Flit),
    exchRun s t = some (slot, m, c) → (s.tile t).exch.deliver = f :: r →
    (∀ e, matchFlit (s.tile t) c f = some e → Completes (.flitArrival t) s fun u =>
      s.OnlyTile u t ∧ (u.tile t).exch.deliver = r ∧ (u.tile t).exch.heldArr = false ∧
      (u.tile t).exch.ents.map (·.seen) = (s.tile t).exch.ents.map (fun q => if q.idx = e.idx then q.seen ++ [f.idx] else q.seen)) ∧
    (matchFlit (s.tile t) c f = none → exec (.flitArrival t) s =
      .next (takeCord t (s.setTile t { s.tile t with exch := { (s.tile t).exch with heldArr := true } })))) ∧
  (∀ (s : State) (t : TileId) (slot : Nat) (m : MapEntry) (c : Ctx), exchRun s t = some (slot, m, c) → (s.tile t).exch.deliver = [] →
    exec (.flitArrival t) s = .next (takeCord t s))

/-- What the start of each DMA command leaves (R169 to R187). A COPY_OUT reading at most 64 billets ahead is the model's choice (log entry 49). -/
def Obligations.DmaCommandsStart : Prop :=
  (∀ (s : State) (t : TileId) (q : QEntry) (e : MapEntry) (c : Ctx), (s.tile t).dmaQ.head? = some q → headEntry s t (some q) = .go q e c →
    dLength q.cmd = 0 →
    (dOp q.cmd = 1 → exec (.copyIn ⟨t, .clean⟩) s = .next (noopDma t q s)) ∧ (dOp q.cmd = 2 → exec (.copyOut ⟨t, .clean⟩) s = .next (noopDma t q s)) ∧
    (dOp q.cmd = 3 → exec (.streamIn ⟨t, .clean⟩) s = .next (noopDma t q s)) ∧ (dOp q.cmd = 4 → exec (.gather ⟨t, .clean⟩) s = .next (noopDma t q s)) ∧
    (dOp q.cmd = 5 → exec (.unload ⟨t, .clean⟩) s = .next (noopDma t q s))) ∧
  (∀ (s : State) (t : TileId) (q : QEntry) (e : MapEntry) (c : Ctx) (st : StoreId) (i : Nat),
    (s.tile t).dmaQ.head? = some q → headEntry s t (some q) = .go q e c → dOp q.cmd = 1 → 0 < dLength q.cmd →
    e.resolve (dStore q.cmd) (dLength q.cmd) = .ok (st, i) → hbmRefusal s q.ctx c q.cmd = none → (s.tile t).rangeUse st < 8 →
    exec (.copyIn ⟨t, .clean⟩) s = .next (pumpOp t (s.tile t).nextOp ((startOp t q { physBase := i, store := st } s).modTile t
      (·.addRange (s.tile t).nextOp st i (dLength q.cmd))))) ∧
  (∀ (s : State) (t : TileId) (q : QEntry) (e : MapEntry) (c : Ctx) (st : StoreId) (i : Nat),
    (s.tile t).dmaQ.head? = some q → headEntry s t (some q) = .go q e c → dOp q.cmd = 2 → 0 < dLength q.cmd →
    e.resolve (dStore q.cmd) (dLength q.cmd) = .ok (st, i) → hbmRefusal s q.ctx c q.cmd = none →
    exec (.copyOut ⟨t, .clean⟩) s = .next (pumpOp t (s.tile t).nextOp (startOp t q { physBase := i, store := st } s))) ∧
  (∀ (s : State) (t : TileId) (q : QEntry) (e : MapEntry) (c : Ctx) (y : Carousel),
    (s.tile t).dmaQ.head? = some q → headEntry s t (some q) = .go q e c → dOp q.cmd = 3 → 0 < dLength q.cmd →
    (s.tile t).car (carKey q.slot (dCar q.cmd)) = some y → dLength q.cmd % y.slotBillets = 0 →
    (dTranspose q.cmd = true → y.slotBillets % blockBillets (dWidth q.cmd) = 0) → hbmRefusal s q.ctx c q.cmd = none → y.prod = none →
    (s.tile t).streams.length < 8 →
    exec (.streamIn ⟨t, .clean⟩) s = .next (pumpOp t (s.tile t).nextOp ((startOp t q {} s).modTile t
      (·.modCar (carKey q.slot (dCar q.cmd)) (fun y => { y with prod := some (s.tile t).nextOp }))))) ∧
  (∀ (s : State) (t : TileId) (q : QEntry) (e : MapEntry) (c : Ctx) (y iy : Carousel),
    (s.tile t).dmaQ.head? = some q → headEntry s t (some q) = .go q e c → dOp q.cmd = 4 → 0 < dLength q.cmd →
    (s.tile t).car (carKey q.slot (dCar q.cmd)) = some y → (s.tile t).car (carKey q.slot (dIndexCar q.cmd)) = some iy →
    gatherRows y q.cmd ≠ 0 → iy.cons = none → y.prod = none → hbmRefusal s q.ctx c q.cmd = none → (s.tile t).streams.length < 8 →
    (∀ o ∈ (s.tile t).streams, dOp o.cmd ≠ 4) →
    exec (.gather ⟨t, .clean⟩) s = .next (pumpOp t (s.tile t).nextOp
      ((startOp t q {} s).modTile t (fun x =>
        (x.modCar (carKey q.slot (dCar q.cmd)) (fun y => { y with prod := some (s.tile t).nextOp })).modCar
          (carKey q.slot (dIndexCar q.cmd)) (fun y => { y with cons := some (.dma (s.tile t).nextOp) }))))) ∧
  (∀ (s : State) (t : TileId) (q : QEntry) (e : MapEntry) (c : Ctx) (st : StoreId) (i : Nat) (y : Carousel),
    (s.tile t).dmaQ.head? = some q → headEntry s t (some q) = .go q e c → dOp q.cmd = 5 → 0 < dLength q.cmd →
    e.resolve (dStore q.cmd) (dLength q.cmd) = .ok (st, i) → (s.tile t).car (carKey q.slot (dCar q.cmd)) = some y → y.cons = none →
    (s.tile t).rangeUse st < 8 →
    exec (.unload ⟨t, .clean⟩) s = .next (pumpOp t (s.tile t).nextOp ((startOp t q { physBase := i, store := st } s).modTile t (fun x =>
      (x.modCar (carKey q.slot (dCar q.cmd)) (fun y => { y with cons := some (.dma (s.tile t).nextOp) })).addRange
        (s.tile t).nextOp st i (dLength q.cmd))))) ∧
  (∀ (s : State) (t : TileId) (q : QEntry) (e : MapEntry) (c : Ctx) (p : StoreId × Nat),
    (s.tile t).dmaQ.head? = some q → headEntry s t (some q) = .go q e c → dOp q.cmd = 6 →
    e.resolve (dStore q.cmd) (dSlots q.cmd * dSlotBillets q.cmd) = .ok p →
    (∀ y, (s.tile t).car (carKey q.slot (dCar q.cmd)) = some y → y.prod = none ∧ y.cons = none) →
    exec (.carouselSet ⟨t, .clean⟩) s = .next ((startOp t q {} s).modTile t (fun x =>
      ({ x with reqs := x.reqs.map (fun r => if r.car = some (carKey q.slot (dCar q.cmd)) then { r with car := none } else r) } : Tile).setCar (carKey q.slot (dCar q.cmd))
      { base := dStore q.cmd, slots := dSlots q.cmd, slotBillets := dSlotBillets q.cmd }))) ∧
  (∀ (s : State) (t : TileId) (q : QEntry) (e : MapEntry) (c : Ctx) (y : Carousel),
    (s.tile t).dmaQ.head? = some q → headEntry s t (some q) = .go q e c → dOp q.cmd = 7 →
    (s.tile t).car (carKey q.slot (dCar q.cmd)) = some y →
    (y.prod = none → exec (.streamStop ⟨t, .clean⟩) s = .next (noopDma t q s)) ∧
    (∀ id, y.prod = some id → exec (.streamStop ⟨t, .clean⟩) s = .next (startOp t q {} (stopStream t id s))))

/-- R175, R177, R192: what an accepted write changes. -/
def Obligations.HbmWriteLands : Prop :=
  (∀ (s : State) (k : StackId) (w : HbmWrite), s.hbmQ.find? (fun w => s.stackOf w.addr = k && s.writeInOrder w) = some w →
    s.stackFenced k = false → (s.stack k).st = .active → s.bucketHeld w.addr w.bytes.length = false →
    Completes (.hbmWriteAccept k .clean) s fun u =>
      memRead u.hbm w.addr w.bytes.length = w.bytes ∧
      (∀ a, (a < w.addr ∨ w.addr + w.bytes.length ≤ a) → memByte u.hbm a = memByte s.hbm a) ∧
      u.hbmQ = s.hbmQ.erase w ∧ u = { s with tiles := u.tiles, hbmStacks := u.hbmStacks, hbm := u.hbm, hbmQ := u.hbmQ }) ∧
  (∀ (s : State) (k : StackId), (s.stack k).st = .waking → s.stackFenced k = false →
    exec (.stackWakeComplete k) s = .next (s.setStack k { s.stack k with st := .active }))

/-- What data read from HBM and the end of a command or a request leave (R174, R175, R189 to R192). KPUT reading as the DMA engine and STREAM_IN taking its data in order are the model's choices (log entry 32), and so are the VN-P flits counted (log entry 49). -/
def Obligations.HbmDataReturns : Prop :=
  (∀ (s : State) (t : TileId) (id k : Nat) (o : DmaOp) (m : MapEntry), (s.tile t).op id = some o → o.host = false → o.faulted = false →
    (s.tile t).entry o.slot = some m → s.replays o.ctx = false →
    let a := (unitRange o k).1
    let n := (unitRange o k).2
    let got := captureStoked t o a (s.hbmRead a n) (countVn t o.ctx .p (linesOf a n) ((touchRange a n s).modTile t (·.count (some o.slot) 0x22 n)))
    let u := unitData t 0 o (s.hbmRead a n) got
    (dOp o.cmd = 1 → k < o.asked → k ∉ o.got → s.hbmFenced a n = false → s.hbmReadable a n = true →
      exec (.hbmReadDataReturn t id k .clean) s = .next (pumpOp t id (copyInData t o k u.1 u.2)))) ∧
  (∀ (s : State) (t : TileId) (id k : Nat) (o : DmaOp) (m : MapEntry) (y : Carousel), (s.tile t).op id = some o → o.host = false →
    o.faulted = false → (s.tile t).entry o.slot = some m → s.replays o.ctx = false → dOp o.cmd = 3 →
    (s.tile t).car (carKey o.slot (dCar o.cmd)) = some y →
    let j := o.issued / o.unit
    let a := (unitRange o j).1
    let n := (unitRange o j).2
    let got := captureStoked t o a (s.hbmRead a n) (countVn t o.ctx .p (linesOf a n) ((touchRange a n s).modTile t (·.count (some o.slot) 0x22 n)))
    let u := unitData t 1 o (s.hbmRead a n) got
    o.issued + o.unit ≤ o.unit * o.asked → s.hbmFenced a n = false → s.hbmReadable a n = true →
    exec (.hbmReadDataReturn t id k .clean) s = .next (pumpOp t id (streamData t o y m u.1 u.2))) ∧
  (∀ (s : State) (t : TileId) (id k : Nat) (o : DmaOp) (m : MapEntry) (i : Word) (r : List Word), (s.tile t).op id = some o →
    o.host = false → o.faulted = false → (s.tile t).entry o.slot = some m → s.replays o.ctx = false → dOp o.cmd = 4 →
    o.idxs = i :: r → 0 < o.asked → i ≠ 0xFFFFFFFF →
    let n := dRowUnits o.cmd * 64
    let a := dHbm o.cmd + i.toNat * n
    let got := captureStoked t o a (s.hbmRead a n) (countVn t o.ctx .p (linesOf a n) ((touchRange a n s).modTile t (·.count (some o.slot) 0x22 n)))
    s.hbmFenced a n = false → s.hbmReadable a n = true →
    exec (.hbmReadDataReturn t id k .clean) s = .next (pumpOp t id ((noteArrival t 1 o (s.hbmRead a n) got).modTile t
      (·.modOp id (fun o => { o with idxs := r, asked := o.asked - 1, buf := o.buf ++ s.hbmRead a n }))))) ∧
  (∀ (s : State) (t : TileId) (id k : Nat) (j : KSlot), (s.tile t).op id = none → (s.tile t).ksl.find? (fun j => j.id = id) = some j →
    j.put = false → j.sent = false → (s.tile t).kOlder j (fun j => if j.put then j.done else j.sent) = false → s.replays j.ctx = false →
    s.hbmFenced j.addr j.len = false → s.hbmReadable j.addr j.len = true →
    exec (.hbmReadDataReturn t id k .clean) s = .next (queueMerge t j.store j.bil j.off (s.hbmRead j.addr j.len) (.kget j.id)
      ((captureArrival j.ctx t 2 (s.hbmRead j.addr j.len) (countVn t j.ctx .p (ceilDiv j.len 64) (touchRange j.addr j.len s))).modTile t
        (·.modK j.id (fun k => { k with sent := true }))))) ∧
  (∀ (s : State) (t : TileId) (id : Nat) (o : DmaOp), (s.tile t).op id = some o →
    (o.host = false → o.complete (s.tileCycle t) (s.tile t) = true → exec (.dmaCommandComplete t id) s = .next (pumpTile t (finishOp t o s))) ∧
    (o.host = true → o.written = o.issued → o.lost = false → exec (.dmaCommandComplete t id) s = .next { s.setTile t ((s.tile t).dropOp id) with
      bulk := { tag := o.tag, code := o.code, bytes := if o.wr || o.faulted then [] else o.buf.take o.len } })) ∧
  (∀ (s : State) (t : TileId) (slot : Nat) (e : MapEntry) (c : Ctx) (rs rt : Fin 32) (st : StoreId) (i : Nat),
    coreIssue s t (fun st => st = .none || st = .kindling) = some (slot, e) → s.ctx e.ctx = some c →
    let a := ((s.tile t).reg slot rs).toNat
    let p := (s.tile t).reg slot rt
    kindlingCheck s e c a p = none → kLength p ≠ 0 → s.hbmFenced a (kLength p) = false → (s.tile t).ksl.length < 16 →
    e.resolve (kBillet p) 1 = .ok (st, i) →
    let r := fun put => ({ id := (s.tile t).nextOp, put := put, ctx := e.ctx, slot := slot, addr := a, len := kLength p, store := st,
                           bil := i, off := kOffset p, addId := kAddId p, addVal := kAddVal p } : KSlot)
    let u := fun put => s.modTile t (fun x =>
      { x with stall := .none, coreSt := 1, ksl := x.ksl ++ [r put], nextOp := x.nextOp + 1 })
    exec (.kget t rs rt) s = .next (kRequest t (r false) 1 (u false)) ∧
    exec (.kput t rs rt) s = .next (postRead t .dma st i (.kput (s.tile t).nextOp) (u true))) ∧
  (∀ (s : State) (t : TileId) (id : Nat) (k : KSlot), (s.tile t).ksl.find? (fun j => j.id = id) = some k → k.done = true → k.failed = false →
    (s.tile t).kOlder k (fun _ => false) = false →
    exec (.kindlingComplete t id) s = .next (postAdd t k.ctx k.slot k.addId k.addVal
      (s.setTile t { s.tile t with ksl := (s.tile t).ksl.filter (fun j => j.id ≠ id) })))

/-- What CH_SEND and its completion leave (R226 to R230). Asking for all billets of the payload at once is the model's choice (log entry 49). -/
def Obligations.ChannelSendCompletes : Prop :=
  (∀ (s : State) (t : TileId) (slot : Nat) (e : MapEntry) (rs rt : Fin 32) (st : StoreId) (i : Nat),
    coreIssue s t chStall =
      some (slot, e) →
    let x := s.tile t
    let p := x.reg slot rs
    let n := chEp p
    let k := x.ep n
    let l := msgLines (chLen p)
    let skip := k.skipLines l
    let user := bf (x.reg slot rt).toNat 0 32
    let s1 := if skip = 0 then s else sendSkip t e.ctx slot n k skip s
    pickCode (chChecks x slot e p) = none → chLen p ≠ 0 → s.replays e.ctx = false → sendRefusal s k.peerTile = none → x.msgUse < 4 →
    skip + l ≤ k.free → e.resolve (chSrc p) (ceilDiv (chLen p) 512) = .ok (st, i) →
    (skip ≠ 0 → ∀ m ∈ x.msgs, sendRefusal s m.peer = none) →
    exec (.chSend t rs rt .clean) s = .next (sendMessage t slot e false user p k (st, i) s1) ∧
    Completes (.chSend t rs rt .clean) s fun u =>
      u = { s with tiles := u.tiles, forn := u.forn } ∧ (∀ r, r ≠ t.val → u.tile r = s.tile r) ∧ (skip = 0 → u.forn = s.forn) ∧
      (u.tile t).stall = .none ∧ (u.tile t).chBlocked = none ∧
      (u.tile t).nextOp = x.nextOp + (if skip = 0 then 1 else 2) ∧
      (u.tile t).msgs = (s1.tile t).msgs ++ [{
        ep := n, ctx := e.ctx, slot := slot, id := (s1.tile t).nextOp, addId := chAddId p, addVal := chAddVal p, peer := k.peerTile, peerEp := k.peerEp
        lines := l, len := chLen p, bytes := msgHeader (chLen p) false n t k.seq user l }] ∧
      (∃ rs, (u.tile t).reqs = (s1.tile t).reqs ++ rs ∧
        rs.map (fun r => (r.who, r.store, r.bil, r.wr.isSome, r.dst)) =
          (List.range (ceilDiv (chLen p) 512)).map (fun j => (Requester.dma, st, i + j, false, ReqDst.chSrc (s1.tile t).nextOp j))) ∧
      (u.tile t).ep n = { k with
        free := k.free - skip - l
        pos := ((if skip = 0 then k.pos else 0) + l) % (8 * k.peerRing)
        seq := (k.seq + 1) % 65536
        messages := satAdd 32 k.messages 1 }) ∧
  (∀ (s : State) (t : TileId) (slot : Nat) (e : MapEntry) (rs rt : Fin 32) (ecc : Check),
    coreIssue s t chStall =
      some (slot, e) →
    let p := (s.tile t).reg slot rs
    pickCode (chChecks (s.tile t) slot e p) = none → chLen p = 0 →
    exec (.chSend t rs rt ecc) s = .next (postAdd t e.ctx slot (chAddId p) (chAddVal p) (s.setTile t
      (({ s.tile t with stall := .none, coreSt := 1, chBlocked := none } : Tile).modEp (chEp p)
        (fun k => { k with messages := satAdd 32 k.messages 1 }))))) ∧
  (∀ (s : State) (t : TileId) (msg : Nat) (m : SendMsg), (s.tile t).msgs.find? (fun m => m.id = msg) = some m → s.tileLit t = true → m.lines ≤ m.sent →
    (∀ f ∈ (s.tile t).router.inj, f.src = t → f.body.ofMsg msg = false) →
    exec (.chSendComplete t msg) s = .next (postAdd t m.ctx m.slot m.addId m.addVal
      (s.setTile t { s.tile t with msgs := (s.tile t).msgs.erase m })))

/-- What the receive side of a channel does (R231 to R233). -/
def Obligations.ChannelReceiveCompletes : Prop :=
  (∀ (s : State) (t : TileId) (f : Flit) (s1 : State) (n id : Nat) (last : Bool), s.statues = false →
    (∀ c, (s.tile t).runCtx = some c → s.replays c = false) →
    takeLoose t FlitBody.isLine .clean s = some (some f, s1) → f.body = .line n id last →
    ((s.tile t).epEntry n true = none → exec (.channelLineArrival ⟨t, .clean⟩) s = .next (strayChannel t s1)) ∧
    (∀ e c, (s.tile t).epEntry n true = some e → s.ctx e.ctx = some c →
      (c.hasTile f.src = true → exec (.channelLineArrival ⟨t, .clean⟩) s = .next (takeLine t n f.bytes last e s1)) ∧
      (c.hasTile f.src = false → exec (.channelLineArrival ⟨t, .clean⟩) s =
        .next (takeLine t n f.bytes last e (captureArrival e.ctx t 3 (natLe 1 n ++ natLe 1 (b2n last) ++ f.bytes) s1))))) ∧
  (∀ (s : State) (t : TileId) (ep : Fin 32) (e : MapEntry) (m : Msg),
    let k := (s.tile t).ep ep
    (s.tile t).epEntry ep true = some e → k.inbox.find? (fun m => !m.skip && !m.delivered) = some m → m.left = 0 →
    (s.tile t).quiet (.chan ep) (.chan ep) = true →
    exec (.messageDelivered t ep) s = .next (postAdd t e.ctx k.slot k.addId k.addVal (s.setTile t
      (((s.tile t).count (some k.slot) 0x2E 1).modEp ep (fun k => { k with
        inbox := k.inbox.replace m { m with delivered := true }, messages := satAdd 32 k.messages 1 }))))) ∧
  (∀ (s : State) (t : TileId) (slot : Nat) (e : MapEntry) (ep rd : Fin 32),
    coreIssue s t freeCore = some (slot, e) → ((s.tile t).ep ep).valid = true → ((s.tile t).ep ep).recv = true → ((s.tile t).ep ep).slot = slot →
    (∀ m r, ((s.tile t).ep ep).inbox = m :: r → m.delivered = true →
      exec (.chPeek t ep rd) s = .next (s.setTile t ((s.tile t).setReg slot rd
        (BitVec.ofNat 64 (m.line + m.len <<< 16 + 1 <<< 32))))) ∧
    ((∀ m r, ((s.tile t).ep ep).inbox = m :: r → m.delivered = false) → Completes (.chPeek t ep rd) s fun u =>
      ∃ v : BitVec 64, v.toNat < 2 ^ 32 ∧ u = { s.setTile t ((s.tile t).setReg slot rd v) with freeCtr := s.freeCtr + 1 })) ∧
  (∀ (s : State) (t : TileId) (slot : Nat) (e : MapEntry) (ep : Fin 32) (m : Msg) (r : List Msg),
    coreIssue s t freeCore = some (slot, e) → ((s.tile t).ep ep).valid = true → ((s.tile t).ep ep).recv = true → ((s.tile t).ep ep).slot = slot →
    ((s.tile t).ep ep).inbox = m :: r → m.delivered = true →
    let k := (s.tile t).ep ep
    let k1 : Endpoint × Nat := Endpoint.dropSkips { k with inbox := r, free := k.free - m.lines, pos := (m.line + m.lines) % (8 * k.ringBillets) }
    exec (.chRelease t ep) s = .next (creditBack t k e.ctx (m.lines + k1.2) (s.setTile t { s.tile t with eps := sset (s.tile t).eps ep k1.1 }))) ∧
  (∀ (s : State) (t : TileId) (f : Flit) (s1 : State) (n lines : Nat) (e : MapEntry), s.statues = false →
    takeLoose t FlitBody.isCredit .clean s = some (some f, s1) → f.body = .credit n lines →
    (s.tile t).epEntry n false = some e →
    exec (.creditFlitArrival ⟨t, .clean⟩) s = .next (s1.modTile t (·.modEp n (fun k => { k with free := k.free + lines }))))

/-- What every vector command and its completion leave (R139, R140, R142, R145, R147, R148, R150, R452). One billet of each source at a time, and results presented once every billet has arrived, are the model's choices (log entries 33 and 49). -/
def Obligations.VectorCommandsComplete : Prop :=
  (∀ (s : State) (t : TileId) (q : QEntry) (e : MapEntry) (c : Ctx) (p : Instr × Nat), p ∈ vectorCommands t .clean →
    (s.tile t).vecQ.head? = some q → q.done = false → vOp q.cmd = p.2 → headEntry s t (some q) = .go q e c →
    (q.started = false → vCount q.cmd = 0 → exec p.1 s = .next (doneVec t (startVec t q s))) ∧
    (q.started = false → vCount q.cmd ≠ 0 → vecRefusal e q.cmd = none →
      exec p.1 s = .next (vecAsk t e (startedEntry s t q) (startVec t q s))) ∧
    (q.started = true → q.kDone < vCount q.cmd → (∀ r ∈ (s.tile t).reqs, r.dst.isVecSrc = false) → exec p.1 s = .next (vecAsk t e q s)) ∧
    (q.started = true → vCount q.cmd ≤ q.kDone → (s.tile t).noneAsked (·.isVecSrc) = true →
      let r := vecResults (s.tile t) q c.seed c.superstep
      exec p.1 s = .next (doneVec t ((vecWrite t e q.cmd r.1 r.2.1 (s.setTile t ((s.tile t).dropReqs (·.isVecSrc)))).modTile t (·.raiseFlags q.slot p.2 r.2.2))))) ∧
  (∀ (s : State) (t : TileId) (q : QEntry) (r : List QEntry), (s.tile t).vecQ = q :: r → s.tileLit t = true → q.done = true →
    (q.faulted = true ∨ (s.tile t).quiet .vector .cvtTail = true) →
    exec (.vectorCommandComplete t) s = .next (completeEntry t 1 q (s.setTile t { s.tile t with vecQ := r })))

/-- Algebraic laws that R141 and R142 give the vector elements on every operand: `a`, `b`, `c` are the values of the sources, `x` the bits of the first. -/
def Obligations.VectorArithmeticRules : Prop :=
  (∀ (ty x y : Nat) (a b c : Fp),
    vecElem 0x01 ty x a b c = vecElem 0x01 ty y b a c ∧ vecElem 0x03 ty x a b c = vecElem 0x03 ty y b a c) ∧
  (∀ (ty x : Nat) (a b c : Fp),
    ((vecElem 0x0A ty x a b c).1 = 0 ↔ (vecElem 0x09 ty x a b c).1 = 0 ∧ (vecElem 0x0B ty x a b c).1 = 0) ∧
    ((vecElem 0x09 ty x b a c).1 = 0 ∨ (vecElem 0x0A ty x a b c).1 = 0) ∧
    ((a = .nan ∨ b = .nan) → ∀ op ∈ [0x09, 0x0A, 0x0B], vecElem op ty x a b c = (0, 0)) ∧
    ((a = .nan ∨ b = .nan) → ∀ op ∈ [0x05, 0x06], vecElem op ty x a b c = ((typeFmt ty).quiet, 0))) ∧
  (∀ (ty x : Nat) (n : Bool) (m : Nat) (e : Int) (c : Fp), vecElem 0x02 ty x (.fin n m e) (.fin n m e) c = (0, 0)) ∧
  (∀ (ty x : Nat) (n k : Bool) (e : Int), vecElem 0x04 ty x (.fin n 0 e) (.inf k) .nan = ((typeFmt ty).quiet, flagInvalid)) ∧
  (∀ (ty x : Nat) (a b c a' b' c' : Fp), x < 2 ^ ((typeFmt ty).eb + (typeFmt ty).mb + 1) →
    vecElem 0x08 ty (vecElem 0x08 ty x a b c).1 a' b' c' = (x, 0) ∧
    vecElem 0x07 ty (vecElem 0x08 ty x a b c).1 a' b' c' = vecElem 0x07 ty x a b c)

/-- The special cases of R145 on FP32 encodings. -/
def Obligations.FunctionSpecialCases : Prop :=
  (∀ v ∈ [0x10, 0x11, 0x12, 0x13, 0x14, 0x15, 0x16, 0x17, 0x18, 0x19], ∀ x, fp32.decode x = .nan → funcEnc v x = (0x7FC00000, 0)) ∧
  (∀ r ∈ ([ (0x10, 0x80000000, 0, 0xFF800000, 2, 0x7F800000, 2, 0x00000000, 0), (0x11, 0x7FC00000, 1, 0x80000000, 0, 0x00000000, 0, 0x7F800000, 0),
      (0x12, 0x7FC00000, 1, 0xFF800000, 2, 0x7F800000, 2, 0x00000000, 0), (0x13, 0x00000000, 0, 0x3F800000, 0, 0x3F800000, 0, 0x7F800000, 0),
      (0x14, 0x00000000, 0, 0x3F800000, 0, 0x3F800000, 0, 0x7F800000, 0), (0x15, 0xBF800000, 0, 0x80000000, 0, 0x00000000, 0, 0x7F800000, 0),
      (0x16, 0x7FC00000, 1, 0xFF800000, 2, 0xFF800000, 2, 0x7F800000, 0), (0x17, 0x7FC00000, 1, 0xFF800000, 2, 0xFF800000, 2, 0x7F800000, 0),
      (0x18, 0xBF800000, 0, 0x80000000, 0, 0x00000000, 0, 0x3F800000, 0), (0x19, 0x00000000, 0, 0x3F000000, 0, 0x3F000000, 0, 0x3F800000, 0) ]
      : List (Nat × Nat × Nat × Nat × Nat × Nat × Nat × Nat × Nat)),
    match r with
    | (v, negInf, f1, negZero, f2, posZero, f3, posInf, f4) =>
      funcEnc v 0xFF800000 = (negInf, f1) ∧ funcEnc v 0x80000000 = (negZero, f2) ∧ funcEnc v 0 = (posZero, f3) ∧
        funcEnc v 0x7F800000 = (posInf, f4)) ∧
  (∀ v ∈ [0x16, 0x17], funcEnc v 0x3F800000 = (0, 0)) ∧
  (∀ v ∈ [0x11, 0x12, 0x16, 0x17], ∀ x m e, fp32.decode x = .fin true m e → m ≠ 0 → funcEnc v x = (0x7FC00000, flagInvalid))

/-- What the matrix commands and their completion leave (R85, R87, R88, R92, R93, R97, R118, R119). SPILL in one row, its writes as those of a drain, and RESUME and the K-steps applied as their operands have arrived are the model's choices (log entries 33 and 49). -/
def Obligations.MatrixCommandsComplete : Prop :=
  (∀ (s : State) (t : TileId) (q : QEntry) (e : MapEntry) (c : Ctx) (pre : List QEntry) (p : Instr × Nat),
    p ∈ [(.accumulate t .clean, 1), (.drain ⟨t, .clean⟩, 2), (.accumulateDrain t .clean, 3), (.spill ⟨t, .clean⟩, 4), (.resume t .clean, 5), (.discard ⟨t, .clean⟩, 6)] →
    (s.tile t).matStart = some (q, pre) → mOp q.cmd = p.2 → mayStart q pre = true → headEntry s t (some q) = .go q e c →
    startRefusal (s.tile t) e q ((s.tile t).openAfter pre) = none →
    exec p.1 s = .next (feedPump t (arrayWork t p.2 (beginMat t q e s)))) ∧
  (∀ (s : State) (t : TileId) (q : QEntry) (e : MapEntry) (c : Ctx), (s.tile t).matNext = some q → q.started = true →
    headEntry s t (some q) = .go q e c → (∀ n pre, (s.tile t).matStart = some (n, pre) → mOp n.cmd ≠ mOp q.cmd ∨ mayStart n pre = false) →
    let x := s.tile t
    let n := x.readySteps q
    let u := s.setTile t (x.applyKSteps q n)
    (x.matrix.isOpen = true → 0 < n → q.kDone + n < mK q.cmd →
      (mOp q.cmd = 1 → exec (.accumulate t .clean) s = .next (feedPump t u)) ∧
      (mOp q.cmd = 3 → exec (.accumulateDrain t .clean) s = .next (feedPump t u))) ∧
    (x.matrix.isOpen = true → 0 < n → mK q.cmd ≤ q.kDone + n →
      (mOp q.cmd = 1 → exec (.accumulate t .clean) s = .next (feedPump t (doneMat t q.id u))) ∧
      (mOp q.cmd = 3 → exec (.accumulateDrain t .clean) s = .next (feedPump t (drainTile t q e c u)))) ∧
    (mOp q.cmd = 2 → exec (.drain ⟨t, .clean⟩) s = .next (feedPump t (drainTile t q e c s))) ∧
    (mOp q.cmd = 4 → ∀ st i, e.resolve (mDest q.cmd) 656 = .ok (st, i) →
      let vs := x.matrix.values
      let img := spillImage vs
      exec (.spill ⟨t, .clean⟩) s = .next (feedPump t (working t q.slot (spillCycles img.1) (doneMat t q.id (forAll img.2
        (fun p s => postWrite t .drain st (i + p.1) p.2 (.drain q.id) s)
        (modMatrix t (fun m => { m.close with spillLast := spillLast img.1 false false q.slot (flaggedCells vs) }) s)))))) ∧
    (mOp q.cmd = 5 → ∀ l vs, q.kDone = l + 1 → (∀ b < l, (x.arrival (.resume q.id b)).isSome = true) →
      readSpill (x.resumeBillet q.id) = some (l, vs) →
      exec (.resume t .clean) s = .next (feedPump t (working t q.slot (spillCycles l) (doneMat t q.id ((modMatrix t (fun m => { m.close with
        isOpen := true, cells := resumeCells vs, spillLast := spillLast l true false q.slot (flaggedCells vs) }) s).modTile t (·.dropReqs (·.ofMat q.id))))))) ∧
    (mOp q.cmd = 6 → exec (.discard ⟨t, .clean⟩) s = .next (feedPump t (working t q.slot 1 (doneMat t q.id (modMatrix t (·.close) s)))))) ∧
  (∀ (s : State) (t : TileId) (q : QEntry), (s.tile t).matQ.find? (fun q => q.done && (q.faulted || !(s.tile t).matBusy q)) = some q →
    s.tileLit t = true →
    exec (.matrixCommandComplete t) s = .next (completeEntry t 0 q (s.setTile t { s.tile t with
      matQ := (s.tile t).matQ.erase q, drains := (s.tile t).drains.filter (fun d => d.cmd ≠ q.id) })))

/-- R86, R93, R94, R97: what one row of a drain to the store leaves, and what its end leaves, for an output format without scales. -/
def Obligations.DrainWritesAndCloses : Prop :=
  (∀ (s : State) (t : Nat) (q : QEntry) (e : MapEntry) (c : Ctx) (st : StoreId) (i : Nat),
    mRick q.cmd = false → outMx (mOut q.cmd) = false → e.resolve (mDest q.cmd) (outBillets (mOut q.cmd)) = .ok (st, i) →
    let u := drainOne t q e c s
    let x := s.tile t
    let y := u.tile t
    let d := x.matrix.drainRow
    let n := x.matrix.out.length + rowBytes (mOut q.cmd)
    s.OnlyTile u t ∧
    y.matrix.drainRow = d + 1 ∧ y.matrix.drainFlags = drainFlags x.matrix.drainFlags (x.matrix.rowValues d) ∧
    (∀ k : Nat, sgetD y.matrix.cells k {} = if k / 64 = d then {} else sgetD x.matrix.cells k {}) ∧
    (n < 512 → y.reqs = x.reqs ∧ y.matrix.outN = x.matrix.outN ∧ y.matrix.out.length = n) ∧
    (512 ≤ n → y.matrix.outN = x.matrix.outN + 1 ∧ y.matrix.out.length = n - 512 ∧
      ∃ r, y.reqs = x.reqs ++ [r] ∧ (r.who, r.store, r.bil, r.wr.map List.length, r.dst) =
        (Requester.drain, st, i + x.matrix.outN, some 512, ReqDst.drain q.id)) ∧
    y.store = x.store ∧ y.merges = x.merges ∧ y.cars = x.cars ∧ y.ctr = x.ctr) ∧
  (∀ (s : State) (t : Nat) (q : QEntry) (e : MapEntry) (c : Ctx), outMx (mOut q.cmd) = false →
    (s.tile t).matrix.draining = true → (s.tile t).matrix.drainRow = 64 → (s.tile t).matrix.owner = some q.id →
    drainTile t q e c s = doneMat t q.id (modMatrix t (·.close) s))

/-- R105, R107, R109, R126: exactness of the kiln and independence of the order of products. -/
def Obligations.KilnAddsExactly : Prop :=
  (∀ (c : Cell) (x : BitVec 640), (c.addKiln x).resolved = c.resolved + x ∧
    { c.addKiln x with limbs := c.limbs, carries := c.carries } = c) ∧
  (∀ (c : Cell) (w v p r : Bool) (a b a' b' : Fp),
    let y := (c.product w p a b).product v r a' b'
    let z := (c.product v r a' b').product w p a b
    y.resolved = z.resolved ∧ { y with limbs := z.limbs, carries := z.carries } = z)

/-- R127. -/
def Obligations.ZeroProductsAddNothing : Prop :=
  (∀ (c : Cell) (wide n1 n2 : Bool) (m1 m2 : Nat) (e1 e2 : Int), m1 = 0 ∨ m2 = 0 →
    c.product wide false (.fin n1 m1 e1) (.fin n2 m2 e2) = c) ∧
  (∀ (c : Cell), c.resolved = 0 → c.nan = false → c.posInf = false → c.negInf = false → c.overflow = false →
    ∀ (o mode r : Nat) (shift : Int), o ≤ 0xA → narrowElem o mode r (c.value.toFp.scale shift) = (0, 0))

/-- R115, R116, R117, R119: the limb-masked form and the spill image lose nothing. -/
def Obligations.SpillRoundTrip : Prop :=
  (∀ v : LimbVal, limbDecode v.field v.present = v) ∧
  (∀ (rd : Nat → List Byte) (vs : List LimbVal), vs.length = 4096 →
    (∀ p ∈ (spillImage vs).2, rd p.1 = p.2) →
    readSpill rd = some ((spillImage vs).1, vs))

/-- What the rick commands and their completion leave (R235 to R238, R241, R244, R453). CONTRIBUTE asking for one billet at a time and FINISH for four are the model's choice (log entry 49). -/
def Obligations.RickCommandsComplete : Prop :=
  (∀ (s : State) (t : TileId) (q : QEntry) (e : MapEntry) (c : Ctx), (s.tile t).rickQ.head? = some q → q.done = false →
    headEntry s t (some q) = .go q e c →
    let n := rStream q.cmd
    let x := s.tile t
    let k := x.stream n
    (rOp q.cmd = 1 → rForward q.cmd = true → k.defined = false →
      exec (.define ⟨t, .clean⟩) s = .next (rickDone t ((startRick t q s).modTile t (fun x => { x with rick := { x.rick with
        streams := sset x.rick.streams n { defined := true, forward := true, slot := q.slot, ctx := q.ctx, pitch := rPitch q.cmd,
                                           peerTile := rPeerTile q.cmd, peerStream := rPeerStream q.cmd } } })))) ∧
    (rOp q.cmd = 1 → rForward q.cmd = false → k.defined = false →
      let d : RickStream := {
        defined := true, slot := q.slot, ctx := q.ctx, remote := rRemote q.cmd, anchor := rAnchor q.cmd,
        elements := rElements q.cmd, pitch := rPitch q.cmd, first := rFirst q.cmd, base := e.emBase + bf (rBase q.cmd) 0 13,
        segGap := rSegGap q.cmd, sideBase := e.emBase + bf (rSideBase q.cmd) 0 13, sideEntries := rSideEntries q.cmd, expect := rExpect q.cmd }
      exec (.define ⟨t, .clean⟩) s = .next (rickDone t (clearWrites t d ((startRick t q s).modTile t (fun x =>
        { x with rick := { x.rick with streams := sset x.rick.streams n d } }))))) ∧
    (rOp q.cmd = 2 → q.started = false → rCount q.cmd = 0 → exec (.contribute t .clean) s = .next (rickDone t (startRick t q s))) ∧
    (rOp q.cmd = 2 → q.started = false → rCount q.cmd ≠ 0 → x.ownStream q = true → ∀ st i, e.resolve (rAddr q.cmd) (rCount q.cmd) = .ok (st, i) →
      k.holds (rFirst q.cmd) (128 * rCount q.cmd) = true →
      exec (.contribute t .clean) s = .next (rickAsk t ((List.range (rCount q.cmd)).map (fun j => (st, i + j))) 1 (startRick t q s))) ∧
    (rOp q.cmd = 2 → q.started = true → k.forward = false → ∀ bs, x.arrival (.rickSrc q.given) = some bs →
      let u := rickAsk t (rSources e q.cmd) 1 (contribute t q.ctx n (rFirst q.cmd + 128 * q.given) false (some q.id) (billetValues bs)
        ((setRickHead t { q with asked := sset q.asked 0 (q.given + 1) } s).modTile t (fun x => { x with
          arrived := x.arrived.filter (fun a => !a.1.isRickSrc || a.1 ≠ .rickSrc q.given) })))
      exec (.contribute t .clean) s = .next (if ((u.tile t).rickQ.head?).any (fun p => p.given = rCount q.cmd) then rickDone t u else u)) ∧
    (rOp q.cmd = 3 → q.started = false → finishRefusal s t q e = none →
      exec (.finish t .clean) s = .next ((startRick t q s).modTile t (·.modStream n (fun k => { k with finishing := true })))) ∧
    (rOp q.cmd = 3 → q.started = true → k.arrived = k.expect → x.rick.busy n = false →
      let res := finishResults x k q.cmd c.seed c.superstep
      (q.kDone < k.reads.length → exec (.finish t .clean) s = .next (rickAsk t (k.reads.map (fun b => (StoreId.ember, b))) 4 s)) ∧
      (q.kDone = k.reads.length → x.noneAsked (·.isRickSrc) = true →
        (rDestKind q.cmd = 0 →
          exec (.finish t .clean) s = .next (rickDone t (resetStream t n (storeResults t (e.emBase + bf (rAddr q.cmd) 0 13)
            (res.flatMap (natLe (if rOut q.cmd = 1 then 2 else 4))) s)))) ∧
        (rDestKind q.cmd = 1 →
          exec (.finish t .clean) s = .next ((setRickHead t { q with kDone := q.kDone + 1 } s).modTile t (fun x =>
            { x with rick := { x.rick with waitCredit := some 0 } }))) ∧
        (2 ≤ rDestKind q.cmd → rOut q.cmd ≠ 0xF →
          exec (.finish t .clean) s = .next (rickDone t (resetStream t n (sendPacket t q.ctx (rPeerTile q.cmd) (bf (rFirst q.cmd) 0 2) k.first false 0
            (res.map (fun r => fp32Limb (if rOut q.cmd = 1 then r <<< 16 else r))) s)))) ∧
        (2 ≤ rDestKind q.cmd → rOut q.cmd = 0xF →
          exec (.finish t .clean) s = .next (rickDone t (resetStream t n (sendPacket t q.ctx (rPeerTile q.cmd) (bf (rFirst q.cmd) 0 2) k.first true 0
            ((List.range k.elements).map (x.element k)) s)))))) ∧
    (rOp q.cmd = 4 → x.ownStream q = true → k.arrived = 0 → x.rick.busy n = false → (k.forward = true → s.inFlight t n = false) →
      exec (.release ⟨t, .clean⟩) s = .next (rickDone t ((startRick t q s).modTile t (fun x =>
        { x with rick := { x.rick with streams := sdel x.rick.streams n } }))))) ∧
  (∀ (s : State) (t : TileId) (q : QEntry) (r : List QEntry), (s.tile t).rickQ = q :: r → s.tileLit t = true →
    (q.faulted = true ∨ (q.done = true ∧ (s.tile t).rickQuiet q = true)) →
    exec (.rickCommandComplete t) s = .next (completeEntry t 3 q (s.setTile t { s.tile t with rickQ := r })))

/-- What arrivals at the combining queue, additions and credits leave (R239 to R243, R260, R453). -/
def Obligations.RickArrivalsComplete : Prop :=
  (∀ (s : State) (t : TileId), s.tileActs t = true →
    exec (.rickPacketArrival t) s = .next (forAll (s.tile t).rick.input (takeRickFlit t)
      (s.setTile t { s.tile t with rick := { (s.tile t).rick with input := [] } }))) ∧
  (∀ (s : State) (t : TileId) (a : Contrib) (r : List Contrib), (s.tile t).rick.adds = a :: r → (s.tile t).rick.works = [] →
    (s.tile t).rick.sides = [] → s.tileActs t = true →
    let x := s.tile t
    let k := x.stream a.stream
    let b := (k.word (a.elem - k.first)).1
    let same := fun (c : Contrib) => c.stream = a.stream && ((x.stream c.stream).word (c.elem - (x.stream c.stream).first)).1 = b
    let cs := x.rick.adds.filter same
    k.defined = true → k.stopped = false → k.arrived + cs.length ≤ k.expect →
    exec (.rickAddition t .clean) s = .next (postRead t .rick .ember b (.ember b) (s.setTile t { x with rick := { x.rick with
      streams := sset x.rick.streams a.stream { k with arrived := k.arrived + cs.length }
      adds := x.rick.adds.filter (fun c => !same c)
      works := [{ stream := a.stream, bil := b, conts := cs }] } }))) ∧
  (∀ (s : State) (t : TileId) (w : AddWork) (img img' : List Byte), (s.tile t).rick.works = [w] → (s.tile t).rick.adds = [] →
    (s.tile t).rick.sides = [] → s.tileActs t = true → w.wrote = false →
    let x := s.tile t
    x.arrival (.ember w.bil) = some img → addWords (x.stream w.stream) w.conts img = (img', []) →
    exec (.rickAddition t .clean) s = .next (postWrite t .rick .ember w.bil img' (.ember w.bil) (s.setTile t { x with
      arrived := x.arrived.filter (fun a => a.1 ≠ .ember w.bil)
      rick := { x.rick with works := [{ w with wrote := true }] } }))) ∧
  (∀ (s : State) (t : TileId) (a : SideAdd) (img : List Byte) (j : Nat) (used : Bool), (s.tile t).rick.sides = [a] → (s.tile t).rick.works = [] →
    (s.tile t).rick.adds = [] → s.tileActs t = true → a.cont.stream < 4 → a.wrote = false →
    let x := s.tile t
    let n := a.cont.stream
    let k := x.stream n
    let m := (a.cont.elem + a.probed) % k.sideEntries
    a.probed < k.sideEntries → x.arrival (.side n) = some img →
    sideFind img a.cont.elem m (min (4 - m % 4) (k.sideEntries - a.probed)) = some (j, used) →
    exec (.rickAddition t .clean) s = .next (postWrite t .rick .ember (k.sideBase + m / 4)
      (overlay img (128 * j) (sideBytes a.cont.elem ((if used then sideValue ((img.drop (128 * j)).take 128) else {}).add a.cont.value))) (.side n)
      (s.setTile t { x with
        arrived := x.arrived.filter (fun p => p.1 ≠ .side n)
        rick := { x.rick with
          sides := [{ a with wrote := true }]
          streams := sset x.rick.streams n { k with sideUsed := if used then k.sideUsed else k.sideUsed + 1 } } }))) ∧
  (∀ (s : State) (t : TileId) (q : QEntry) (e : MapEntry) (c : Ctx) (r : Nat) (b : Bucket), (s.tile t).rickQ.head? = some q →
    q.done = false → rOp q.cmd = 3 → headEntry s t (some q) = .go q e c → (s.tile t).rick.waitCredit = some r →
    s.replays q.ctx = false → s.bucket (bf (rFirst q.cmd) 0 10) = some b → c.held = false →
    let x := s.tile t
    let n := rStream q.cmd
    let k := x.stream n
    stagingUse s (recordStack s b (k.first / 32 + r)) < 65536 →
    let d := fun (i : Nat) => if rRound q.cmd = 2 then stochastic c.seed c.superstep (rSrTag q.cmd) (k.first + 32 * r + i) 0xC0000000 else 0
    let vals := (List.range 32).map (fun i => BitVec.ofNat 32 (finishValue 0 (rRound q.cmd) (d i) (x.element k (32 * r + i))))
    let u : State := { countVn t q.ctx .q 3 ((countVn t q.ctx .p 1 s).modTile t (fun x => { x with rick := { x.rick with unaccepted := x.rick.unaccepted + 1 } })) with
      handoffs := s.handoffs ++ [{ bucket := bf (rFirst q.cmd) 0 10, recNo := k.first / 32 + r, vals := vals, src := t }] }
    (32 * (r + 1) ≠ k.elements → exec (.handoffCredit t) s =
      .next (u.modTile t (fun x => { x with rick := { x.rick with waitCredit := some (r + 1) } }))) ∧
    (32 * (r + 1) = k.elements → exec (.handoffCredit t) s =
      .next (rickDone t (resetStream t n (u.modTile t (fun x => { x with rick := { x.rick with waitCredit := none } }))))))

/-- R239, R240: additions lose nothing. -/
def Obligations.RickAdditionExact : Prop :=
  (∀ (k : RickStream) (cs : List Contrib) (img : List Byte) (b r : Nat), img.length = 512 → -286 ≤ k.anchor → k.anchor ≤ 98 →
    k.elements / 64 ≤ k.segGap → r < k.elements → (k.word r).1 = b →
    (∀ c ∈ cs, k.first ≤ c.elem ∧ c.elem - k.first < k.elements ∧ (k.word (c.elem - k.first)).1 = b) →
    let p := addWords k cs img
    let value := fun (img : List Byte) => BitVec.ofInt 640 ((emberWord img (k.word r).2).toInt * 2 ^ (k.anchor + 286).toNat)
    let given := fun (l : List Contrib) => ((l.filter (fun c => c.elem = k.first + r)).map (·.value.limbs)).foldl (· + ·) (0 : BitVec 640)
    p.1.length = 512 ∧ value p.1 + given p.2 = value img + given cs ∧
    (∀ c ∈ cs, c ∉ p.2 → c.value.flags = 0)) ∧
  (∀ (img : List Byte) (e j : Nat) (v : LimbVal), img.length = 512 → e < 0xFFFFFFFF → j < 4 →
    let i := overlay img (128 * j) (sideBytes e v)
    i.length = 512 ∧ bytesAt i (128 * j) 4 = e ∧ sideValue ((i.drop (128 * j)).take 128) = v ∧
    (∀ m < 4, m ≠ j → (i.drop (128 * m)).take 128 = (img.drop (128 * m)).take 128)) ∧
  (∀ a b : LimbVal, (a.add b).limbs = a.limbs + b.limbs ∧ (a.add b).flags = a.flags ||| b.flags)

/-- What the stokers' commands leave (R258, R260, R261, R263, R264, R267 to R269). -/
def Obligations.StokerCommandsComplete : Prop :=
  (∀ (s : State) (p : Packet) (r : List Packet) (b : Bucket), s.handoffs = p :: r → s.bucket p.bucket = some b → b.st ≠ .failed →
    exec (.handoffPacketArrival .clean) s = .next (nextRound p.bucket
      ((({ s with handoffs := r } : State).modTile p.src (fun x => { x with rick := { x.rick with unaccepted := x.rick.unaccepted - 1 } })).modStack
        (recordStack s b p.recNo) (fun q => { q with staged := q.staged ++ [p] })))) ∧
  (∀ (s : State) (n : Fin 1024) (b : Bucket), s.bucket n = some b → b.st = .running → b.doneRecs.length = b.records →
    let f := (b.parts.map (·.2)).foldl (· + ·) 0
    let fp : FpRound := { round := b.round + 1, total := f, parts := b.parts, step := dsStep b.desc }
    exec (.roundComplete n) s = .next (nextRound n (postEvent 0x05 b.ctx 0
      (natLe 2 n ++ natLe 1 b.ctx ++ natLe 1 0 ++ natLe 4 (dsStep b.desc) ++ natLe 8 (b.round + 1) ++ natLe 8 f.toNat)
      (s.setBucket n { b with st := .ready, round := b.round + 1, fps := (fp :: b.fps).take 4, lastNon := b.nonfinite, lastMal := b.malformed })))) ∧
  (∀ (s : State) (n : Fin 1024) (b : Bucket), s.bucket n = some b → b.st = .running → b.startTick + s.forn.watchdog ≤ s.cad.count.toNat →
    let left := (List.range b.records).filter (fun r => !b.doneRecs.contains r)
    exec (.roundTimeout n) s = .next (failRound n (recordFault (pageKey 0x3C (lowestStack s b left)) 0x0F 0x2B s))) ∧
  (∀ (s : State) (n : Fin 1024) (b : Bucket) (f g : FpRound), s.bucket n = some b → b.partnerCtx ≠ 0xFF →
    b.fps.reverse.find? (fun f => 0 < b.checkEvery && f.round % b.checkEvery = 0 && decide (b.compared < f.round) && (partnerPrint s b f.round).isSome) = some f →
    partnerPrint s b f.round = some g →
    let s1 := s.setBucket n { b with compared := f.round, partnerFps := b.partnerFps.filter (fun g => decide (f.round < g.round)) }
    (f.total = g.total → exec (.fingerprintCompare n) s = .next s1) ∧
    (f.total ≠ g.total → ∀ c, s.ctx b.ctx = some c →
      let same := (s.bucket b.partner).any (sameLayout s b)
      let m := natLe 2 n ++ natLe 1 b.ctx ++ natLe 1 b.partnerCtx ++ natLe 4 f.step ++ natLe 8 f.round ++ natLe 8 f.total.toNat
        ++ natLe 8 g.total.toNat ++ natLe 1 (if same then firstDiffering f g else 0xFF) ++ natLe 1 (b2n same) ++ natLe 6 s.cad.count.toNat
        ++ List.replicate 24 0
      exec (.fingerprintCompare n) s = .next (dueHold c.model (postEvent 0x06 b.ctx 0 (m.take 40) { s1 with
        mismatches := ({ bytes := m } :: s.mismatches).take 64
        mismLost := if 64 ≤ s.mismatches.length then s.mismLost + 1 else s.mismLost }))))

/-- What STOKER_RECORD_APPLY leaves (R246, R248, R254, R255, R261, R267). RECORDS_APPLIED does not count a skipped record: log entry 34. -/
def Obligations.RecordApplyChangesItsRanges : Prop :=
  ∀ (s : State) (k : StackId) (n : Fin 1024) (b : Bucket) (p : Packet), s.bucket n = some b → b.st = .running → s.statues = false →
    s.stackFenced k = false → (s.stack k).st = .active →
    (s.stack k).staged.find? (fun p => p.bucket = n.val && !b.doneRecs.contains p.recNo) = some p →
    let a := b.base + 256 * p.recNo
    let old := s.hbmRead a 256
    Completes (.stokerRecordApply k n .clean) s fun u =>
      u = { s with hbm := u.hbm, hbmStacks := u.hbmStacks, buckets := u.buckets, forn := u.forn } ∧
      u.forn = { s.forn with cap := { s.forn.cap with stoked := u.forn.cap.stoked } } ∧ (s.forn.cap.st ≠ 2 → u.forn = s.forn) ∧
      (u.stack k).staged = (s.stack k).staged.erase p ∧
      (u.stack k).applied = (match applyRecord b.desc old p.vals with | .done _ _ _ _ => (s.stack k).applied + 1 | _ => (s.stack k).applied) ∧
      (∃ v, u.bucket n = some v ∧ v.doneRecs = b.doneRecs ++ [p.recNo] ∧ v.desc = b.desc ∧ v.st = .running ∧
        match applyRecord b.desc old p.vals with
        | .malformed => v.parts = smod b.parts k 0 (· + crc64 old) ∧ v.malformed = smod b.malformed k 0 (satAdd 16 · 1) ∧ u.hbm = s.hbm
        | .nonfinite => v.parts = smod b.parts k 0 (· + crc64 old) ∧ v.nonfinite = smod b.nonfinite k 0 (satAdd 16 · 1) ∧ u.hbm = s.hbm
        | .done new work scale sat =>
          let wa := bf b.desc.toNat 320 48 + work.length * p.recNo
          let sa := bf b.desc.toNat 384 48 + p.recNo
          v.parts = smod b.parts k 0 (· + crc64 new) ∧
          v.saturated = (if sat then smod b.saturated k 0 (satAdd 16 · 1) else b.saturated) ∧
          u.hbm = memWrite (memWrite (memWrite s.hbm a new) wa work) sa scale ∧
          ∀ c, (c < a ∨ a + new.length ≤ c) → (c < wa ∨ wa + work.length ≤ c) → (c < sa ∨ sa + scale.length ≤ c) →
            memByte u.hbm c = memByte s.hbm c)

/-- The eleven commands of the rings: `u` is the state with the command taken, `c` its 64 bytes (R166, R256, R270, R271, R276, R286 to R294). A REBASE while an earlier one waits (log entry 48) and LOCATE writing its CRCs without gaps (log entry 34) are the model's choices. -/
def Obligations.RingCommandsComplete : Prop :=
  ∀ (s : State) (r : RingId), s.nextRing = some r.val → cmdReserved (s.ringCmd r) = false →
    let c := s.ringCmd r
    let u := tookCommand r s
    (cmdOpcode c = 1 → ∀ sigOk, createRefusal u (bytesAt c 8 8) (u.hbmRead (bytesAt c 8 8) 128) sigOk = none →
      let d := u.hbmRead (bytesAt c 8 8) 128
      let n := createCtx (bytesAt c 8 8) d
      let i := recordImage d
      let k := withImage u (recordCtx d) (u.hbmRead i 256) (u.imageBody i) sigOk
      u.mapWaits k = false →
      exec (.createContext ⟨r, .clean⟩ sigOk) s = .next (schedule (complete r c n 0xFF 0 (loadContext n (u.imageBody i)
        ((touchRange (bytesAt c 8 8) 128 (touchRange i (256 + (u.imageBody i).length) u)).setCtx n
          { k with st := .pending, loggedAt := u.ctxCycles k }))))) ∧
    (cmdOpcode c = 2 → ∀ k, u.ctx (cmdCtx c) = some k → u.statues = false → k.destroy = none → k.mapRetry = none →
      u.taskPending (cmdCtx c) = false → k.task = none → (∀ p ∈ u.buckets, p.2.ctx ≠ cmdCtx c) →
      exec (.destroyContext r) s = .next ((stopStreams (cmdCtx c) k.tiles u).modCtx (cmdCtx c)
        (fun k => { k with destroy := some { ring := r, tag := BitVec.ofNat 32 (bytesAt c 4 4), step := 2 } }))) ∧
    (cmdOpcode c = 3 → ∀ g, u.freeGraph = some g →
      let a := bytesAt c 8 8
      let n := bytesAt c 16 4
      let raw := (List.range n).map (fun i => u.hbmRead (a + 32 * i) 32)
      pickCode ([(n = 0 || 65536 < n, 0x02), (a % 64 ≠ 0, 0x03), (false, 0x07)] ++ hbmChecks u a (32 * n)) = none →
      pickCode (raw.zipIdx.flatMap (fun p => taskChecks u n p.2 p.1) ++ [(depsWrong (raw.map (taskOf u)), 0x02)]) = none →
      exec (.submitGraph ⟨r, .clean⟩) s = .next (schedule (complete r c 0xFF g 0 { touchRange a (32 * n) u with
        graphs := sset u.graphs g { st := .running, order := u.graphOrder, tasks := raw.map (taskOf u) }
        graphOrder := u.graphOrder + 1 }))) ∧
    (cmdCtx c ≤ 15 → (u.graph (cmdCtx c)).inFlight = true →
      (cmdOpcode c = 4 → exec (.cancelGraph r) s = .next (schedule (accept r c (u.modGraph (cmdCtx c) (fun g => { g with st := .paused, cancel := true }))))) ∧
      (cmdOpcode c = 5 → exec (.pauseGraph r) s = .next (schedule (accept r c (u.modGraph (cmdCtx c) (fun g => { g with st := .paused }))))) ∧
      (cmdOpcode c = 6 → (u.graph (cmdCtx c)).cancel = false →
        exec (.resumeGraph r) s = .next (schedule (accept r c (u.modGraph (cmdCtx c) (fun g => { g with st := .running })))))) ∧
    (cmdOpcode c = 7 → ∀ k, u.ctx (cmdCtx c) = some k → k.st ≠ .stopped → k.mapRetry = none →
      (u.quiescent (cmdCtx c) k = true → exec (.rebase r) s = .next (accept r c
        (forAll k.tiles (fun t s => s.modTile t (·.rebase k.entry (bytesAt c 12 3) k.slot)) u))) ∧
      (u.quiescent (cmdCtx c) k = false → exec (.rebase r) s = .next (accept r c
        (forAll k.tiles (fun t s => s.modTile t (fun x => { x with rebaseSlot := k.slot, rebaseDone := false, rebaseDefer := true }))
          (u.modCtx (cmdCtx c) (fun k => { k with rebase := some (bytesAt c 12 3) })))))) ∧
    (cmdOpcode c = 8 → ∀ q, u.ctx (bytesAt c 10 1) = some q → q.st ≠ .stopped → q.mapRetry = none → q.destroy = none →
      let b : Bucket := {
        ctx := bytesAt c 10 1, base := bytesAt c 16 8, records := bytesAt c 24 4, descAddr := bytesAt c 32 8, checkEvery := bytesAt c 40 4,
        partner := bytesAt c 44 2, partnerCtx := bytesAt c 46 1, partnerPort := bytesAt c 47 1 }
      let d := BitVec.ofNat 512 (leNat (u.hbmRead b.descAddr 64))
      cmdBucket c ≤ 1023 → b.ctx ≤ 63 → b.partner ≤ 1023 → (b.partnerCtx ≤ 63 ∨ b.partnerCtx = 0xFF) → b.partnerPort ≤ 15 →
      u.bucket (cmdBucket c) = none → 4096 ≤ b.records → b.records ≤ 262144 → b.base % 256 = 0 → b.descAddr % 64 = 0 →
      b.descAddr + 64 ≤ hbmBytes → (u.stacksOf b.descAddr 64).any u.stackFenced = false →
      pickCode ((!inAperture q b.descAddr 64, 0x06) :: rangeChecks u (cmdBucket c) q ((b.base, b.bytes) :: workRanges d b.records)) = none →
      exec (.defineBucket ⟨r, .clean⟩) s = .next (accept r c ((touchRange b.descAddr 64 u).setBucket (cmdBucket c) { b with desc := d }))) ∧
    (cmdOpcode c = 9 → ∀ b, u.bucket (cmdBucket c) = some b →
      exec (.removeBucket r) s = .next (accept r c { u with
        buckets := sdel u.buckets (cmdBucket c)
        hbmStacks := u.hbmStacks.map (fun p => (p.1, { p.2 with staged := p.2.staged.filter (fun q => q.bucket ≠ cmdBucket c) })) })) ∧
    (cmdOpcode c = 10 → cmdCtx c ≤ 63 →
      let v : State := { u with
        holds := u.holds.filter (· ≠ cmdCtx c), holdsDue := u.holdsDue.filter (· ≠ cmdCtx c)
        ctxs := u.ctxs.map (fun p => if p.2.model = cmdCtx c then (p.1, { p.2 with held := false }) else p) }
      exec (.releaseHold r) s = .next (schedule (forAll (u.buckets.map (·.1)) nextRound (accept r c v)))) ∧
    (cmdOpcode c = 11 → ∀ b q, u.bucket (cmdBucket c) = some b → u.ctx b.ctx = some q →
      let k := bytesAt c 10 1
      let first := bytesAt c 12 4
      let count := bytesAt c 16 4
      let a := bytesAt c 24 8
      k ≤ 31 → count ≠ 0 → count ≤ 65536 → first + count ≤ b.records → (∃ p ∈ u.ctxs, p.2.model = q.model ∧ inAperture p.2 a (8 * count) = true) → a % 8 = 0 →
      u.modelHeld b = true → u.stackFenced k = false → (u.stacksOf a (8 * count)).any u.stackFenced = false →
      exec (.locate r) s = .next (accept r c (forAll ((rangeFrom first count).filter (fun i => recordStack u b i = k)).zipIdx
        (fun p s => s.hbmWrite (a + 8 * p.2) (natLe 8 (crc64 (s.hbmRead (b.base + 256 * p.1) 256)).toNat))
        (touchStack k (touchRange a (8 * count) u)))))

/-- R286, R287, R412: refusals of reserved opcodes and bytes. -/
def Obligations.ReservedRingCommandsRefused : Prop :=
  ∀ (s : State) (r : RingId) (e : Ecc) (i : Instr) (op : Nat), s.nextRing = some r.val →
    (i, op) ∈ ringCommands r e →
    let c := s.ringCmd r
    (cmdOpcode c = 0 ∨ 11 < cmdOpcode c ∨ (cmdOpcode c = op ∧ cmdReserved c = true)) →
    let u := tookCommand r s
    exec i s = .next (complete r c 0xFF 0xFF (faultCode 0x14 0x01) u) ∧
    ∀ v, exec i s = .next v → v = { s with evl := v.evl, hostMem := v.hostMem }

/-- The rest of a context's life (R153, R292, R293, R413). -/
def Obligations.ContextLifeCompletes : Prop :=
  (∀ (s : State) (n : CtxId) (c : Ctx) (r : Nat) (tag : Word) (i : Nat), s.ctx n = some c → c.mapRetry = some (r, tag, i) → s.mapWaits c = false →
    exec (.contextMapRetry n) s = .next (schedule (complete r (natLe 4 1 ++ natLe 4 tag.toNat) n 0xFF 0
      (loadContext n (s.imageBody i) (s.setCtx n { c with mapRetry := none }))))) ∧
  (∀ (s : State) (n : CtxId) (c : Ctx) (d : Destroy), s.ctx n = some c → c.destroy = some d → s.drained n c = true →
    let s1 := (unbind c false s).modCtx n (fun c => { c with destroy := some { d with step := 3 } })
    s1.recvWaits c = false →
    let v := removeContext n c (unbind c true s1)
    exec (.destroyContextComplete n) s = .next (schedule (complete d.ring (natLe 4 2 ++ natLe 4 d.tag.toNat ++ natLe 1 n) 0xFF 0xFF 0 v)) ∧
    v.ctx n = none ∧ (∀ t ∈ c.tiles, ∀ p ∈ (v.tile t).map, p.2.ctx ≠ n) ∧ (∀ p ∈ v.clusters, p.2.owner ≠ some n.val)) ∧
  (∀ (s : State) (n : CtxId) (c : Ctx) (fc : Nat), s.ctx n = some c → c.stop = some fc → c.st ≠ .stopped →
    let s1 := forAll c.tiles (fun t s => s.modTile t (·.stopCtx n)) s
    let s2 := stopStreams n c.tiles (s1.setCtx n { c with st := .stopped, task := none, ran := 0, bound := .none, sysTicks := none, stop := none })
    exec (.contextStop n) s = .next (schedule (parkSettle (forAll (s.graphsOf n) (fun q s => failGraph q.1 q.2 n fc s) s2))))

/-- What the commands of the boundary leave (R22, R30, R284, R307, R314 to R316, R392). The resume read at CONTEXT_SWITCH_COMPLETE (log entry 49) and the idle time that a step change restarts (log entry 27) are the model's choices. -/
def Obligations.BoundaryCommandsComplete : Prop :=
  (∀ (s : State) (n : CtxId) (c : Ctx) (depOk : Bool), s.atBoundary n .none = some c → s.boundaryMet c = true →
    let s1 := logPhase n c s
    let s2 := startCapture n c (closeCapture n c (forAll ((s1.forn.snaps.filter (fun p => p.2.due n c)).map (·.1)) (takeSnap n c) s1))
    ((∀ p ∈ s2.forn.snaps, ¬ (p.2.st = 2 ∧ p.2.ctx = n.val)) → exec (.boundaryActions n none depOk) s = .next (boundaryRest n depOk s2)) ∧
    (∀ p ∈ s2.forn.snaps, p.2.st = 2 → p.2.ctx = n.val →
      exec (.boundaryActions n none depOk) s = .next (s2.modCtx n (fun c => { c with bound := .snapshot })))) ∧
  (∀ (s : State) (n : CtxId) (c : Ctx) (depOk : Bool), s.atBoundary n .snapshot = some c →
    let s1 : State := { s with forn := { s.forn with snaps := s.forn.snaps.map (fun p =>
      if p.2.st = 2 && p.2.ctx = n.val then (p.1, { p.2 with st := 3, ctrl := p.2.ctrl &&& 0xFFFFFFFE, fired := false }) else p) } }
    exec (.snapshotComplete n depOk) s = .next (boundaryRest n depOk (s1.modCtx n (fun c => { c with bound := .none })))) ∧
  (∀ (s : State) (n : CtxId) (c : Ctx), s.atBoundary n .switching = some c → (∀ t ∈ c.tiles, (s.tile t).resumeHeld c = false) →
    (∀ r ∈ c.regions, s.regionFenced r = false) →
    let s1 := forAll c.tiles (fun t s => switchResume t n c s) s
    (∀ d, s1.ctx n = some d → d.stop = none) → exec (.contextSwitchComplete ⟨n, none, []⟩) s = .next (frequencyStep n s1)) ∧
  (∀ (s : State) (r : RegionId) (k : Nat), (s.stepGroup r).findSome? (fun j => (s.region j).wantStep) = some k →
    (s.region r).changing = true → s.statues = false →
    let rs := s.stepGroup r
    let s1 := forAll rs (fun j s => s.modRegion j (fun g => { g with
      step := k, wantStep := none, again := none, settled := true, changing := false, highSince := if 16 ≤ g.duty then some s.us else none, zeroSince := none })) s
    let m := s1.pwr.cur
    let m2 := if rs.any (fun j => decide ((s.region j).step < k)) then { m with downs := satAdd 16 m.downs 1 } else { m with ups := satAdd 16 m.ups 1 }
    exec (.stepChangeComplete r) s = .next (schedule (forAll (s.stepHeld rs)
      (fun n s => letGo staggerStep n (s.modCtx n (fun c => { c with stepChanged := true }))) { s1 with pwr := { s1.pwr with cur := m2 } }))) ∧
  (∀ (s : State) (r : RegionId), (∃ n ∈ s.stepHeld (s.stepGroup r), s.stepLate n = true) → (s.region r).changing = false → s.statues = false →
    exec (.stepHoldTimeout r) s = .next (forAll (s.stepHeld (s.stepGroup r)) (letGo staggerStep) (withdrawStep (s.stepGroup r) s))) ∧
  (∀ (s : State), s.statues = false →
    let can := fun (p : Nat × Ctx) => p.2.st = .running && p.2.onTiles && p.2.stop.isNone
    let waiting := (s.ctxs.filter (fun p => can p && p.2.bound = .stagger && p.2.heldFor.any (fun t => decide (t ≤ s.us)))).map (·.1)
    let cut := (s.ctxs.filter (fun p => can p && p.2.bound = .stepHold && p.2.target.any (fun t => decide (t ≤ s.us)) &&
      p.2.regions.all (fun r => !(s.region r).changing))).map (·.1)
    waiting ≠ [] ∨ cut ≠ [] →
    let v := forAll cut (fun n s =>
      match s.ctx n with
      | none => s
      | some c =>
        if c.bound ≠ .stepHold then s
        else
          let rs := s.stepGroup (c.regions.headD 0)
          forAll ((s.stepHeld rs).filter (fun k => !cut.contains k)) (letGo staggerStep) (letGo alignRelease n (withdrawStep rs s))) (forAll waiting alignRelease s)
    exec .staggerTargetReached s = .next { v with pins := { v.pins with syncOut := true } })

/-- R204, R206, R281, R290: what a release changes. -/
def Obligations.BoundaryReleases : Prop :=
  ∀ (s : State) (n : Nat) (c : Ctx), s.ctx n = some c → c.tiles.Nodup → c.tileMap.length = c.tiles.length →
    let u := releaseBoundary n s
    u = { s with tiles := u.tiles, ctxs := u.ctxs } ∧
    (∃ d, u.ctx n = some d ∧ d.superstep = (c.superstep + b2n c.ended) % 2 ^ 48 ∧ d.ended = false ∧ d.bound = .none ∧ d.barrier = 0 ∧
      d.arrived = [] ∧ d.task = c.task ∧ d.rel0 = c.regions.map (fun r => (r, (s.region r).cycles))) ∧
    (∀ k, k ≠ n → u.ctx k = s.ctx k) ∧
    (∀ t ∉ c.tiles, u.tile t = s.tile t) ∧
    ∀ t ∈ c.tiles, let x := s.tile t; let y := u.tile t
      y.stall = .none ∧ y.exch.phase = 0 ∧ y.exch.plan = none ∧ y.exch.ents = [] ∧ y.store = x.store ∧ y.ctr = x.ctr ∧ y.sat = x.sat ∧
      y.matQ = x.matQ ∧ y.vecQ = x.vecQ ∧ y.dmaQ = x.dmaQ ∧ y.rickQ = x.rickQ ∧ y.map = x.map ∧ y.run = x.run

/-- What the events of the cadence unit leave (R296 to R300). -/
def Obligations.CadenceEventsComplete : Prop :=
  (∀ (s : State) (p h : Nat), s.awake = true →
    let q := nearNominal s.sec.nominal p && (tickWidth p h || markWidth p h)
    let c1 := { s.cad with
      allPeriods := (p :: s.cad.allPeriods).take 64
      badRun := if tickWidth p h || markWidth p h then 0 else min (s.cad.badRun + 1) 3 }
    let c2 := { c1 with periods := (p :: s.cad.periods).take 64, lastQual := s.us, qualRun := min (s.cad.qualRun + 1) 16 }
    (q = false → exec (.cadenceEdge p h) s = .next { s with cad := { c1 with qualRun := 0 } }) ∧
    (q = true → s.cad.st = .locked → exec (.cadenceEdge p h) s = .next (tickOnce (markWidth p h) false { s with cad := c2 })) ∧
    (q = true → s.cad.st ≠ .locked → s.cad.qualRun < 15 → exec (.cadenceEdge p h) s = .next { s with cad := c2 }) ∧
    (q = true → s.cad.st ≠ .locked → 15 ≤ s.cad.qualRun →
      exec (.cadenceEdge p h) s = .next { s with cad := { c2 with st := .locked, badRun := 0, allPeriods := [], holdSince := none } })) ∧
  (∀ (s : State), s.cad.st = .acquiring → 1000000 ≤ s.us →
    exec .acquireTimeout s = .next (enterHoldover { s with cad := { s.cad with periods := [] } })) ∧
  (∀ (s : State), s.cad.st = .locked → s.holdoverDue = true → exec .holdoverEntry s = .next (enterHoldover s)) ∧
  (∀ (s : State), s.cad.st = .holdover →
    exec .generatedTick s = .next (tickOnce (s.cad.expected = some (s.cad.count.toNat + 1)) true s)) ∧
  (∀ (s : State) (e : Nat), s.cad.opened = true → s.cad.expected = some e → e + 2 ≤ s.cad.count.toNat →
    exec .minuteMarkMissing s = .next (closeMinute s.cad.count.toNat 16 s)) ∧
  (∀ (s : State) (t : Nat), s.cad.st = .holdover → s.cad.fallback = false → s.cad.holdSince = some t → 60000000 + t ≤ s.us →
    exec .fallbackTimeout s = .next (flagTally 2 (recordFault (pageKey 0x58 0) 0x13 0x32 { s with cad := { s.cad with fallback := true } })))

/-- What the actions of the compare slots leave: `took k s` is `s` with the firing of slot k taken (R268, R302 to R305, R313, R317 to R319, R386, R392, R399). -/
def Obligations.SlotActionsComplete : Prop :=
  let took := fun (k : Nat) (s : State) => s.modSlot k (fun x => { x with fire := false })
  (∀ (s : State), s.slotActs 0 = true → let u := took 0 s; let p := s.pwr
    exec .envelopeMinuteRoll s = .next { u with pwr := { p with
      cur := if p.cur.endTick.isSome then { p.cur with rolled := some (p.entry, s.envEntry.ceiling, s.envEntry.ramp, p.versionIn) } else p.cur
      env := p.envNext.getD p.env, envNext := none, versionIn := p.version
      entry := entryIndex (p.envNext.getD p.env) (s.alignAt s.cad.minute) s.cad.minute, lead := false } }) ∧
  (∀ (s : State) (e : Nat), s.slotActs 1 = true → s.pwr.cur.endTick = some e → s.powerRuns = true → let u := took 1 s; let b := s.tallyBody e
    exec .tallyClose s = .next { u with
      cad := { u.cad with openTick := e }
      pwr := { s.pwr with
        closing := some b, closeGen := s.sec.powerGen, cur := { s.freshMinute with energy := s.pwr.cur.energy % 1000 }
        restart := false, partialStart := false, exceeded := false, unreach := false } }) ∧
  (∀ (s : State) (b : List Byte) (k : BitVec 256), s.pwr.closing = some b → s.pwr.powerKey = some k →
    let r := b ++ (Config.sign s.pwr.closeGen b ++ List.replicate 64 0).take 64
    exec .tallySigned s = .next (postEvent 0x08 0xFF 0 (natLe 8 (bytesAt b 8 8) ++ natLe 4 (bytesAt b 28 4) ++ natLe 2 (bytesAt b 2 2))
      { s with pwr := { s.pwr with
        closing := none, tallies := sset s.pwr.tallies (bytesAt b 8 8 % 1440) r
        tallyBad := s.pwr.tallyBad.filter (· ≠ bytesAt b 8 8 % 1440), seq := bytesAt b 8 8, lost := bytesAt b 4 4, digest := digest r } })) ∧
  (∀ (s : State), s.slotActs 2 = true → exec .envelopeLead s = .next { took 2 s with pwr := { s.pwr with lead := s.pwr.lead || s.cad.expected = s.cad.ledFor } }) ∧
  (∀ (s : State), s.slotActs 3 = true → exec .staggerSlotFire s = .next (staggerTrigger (took 3 s))) ∧
  (∀ (s : State), s.stagSource = false → s.awake = true → exec .syncInEdge s = .next (staggerTrigger s)) ∧
  (∀ (s : State), s.slotActs 4 = true → exec .snapshotTickTrigger s = .next { took 4 s with forn := { s.forn with snaps := s.forn.snaps.map (fun p =>
      if p.2.waits && decide (p.2.trigger ≤ s.cad.count.toNat) then (p.1, { p.2 with fired := true }) else p) } }) ∧
  (∀ (s : State), s.slotActs 5 = true → exec .replicaCheckSend s = .next (forAll (s.buckets.map (·.1)) sendPrints (took 5 s))) ∧
  (∀ (s : State) (a : Nat) (v : State), s.slotActs 6 = true → reserveRecord 643904 (took 6 s) = (some a, v) →
    exec .counterSnapshot s = .next (nextSeq (v.hbmWrite a (varHeader 0x03 0 0xFF 0 0 643904 0 [] v ++ (took 6 s).counterBody)))) ∧
  (∀ (s : State), s.slotActs 7 = true → exec .timeoutTick s = .next { took 7 s with ctxs := s.ctxs.map (fun p =>
    (p.1, { p.2 with wdTicks := if p.2.st = .running then p.2.wdTicks + 1 else p.2.wdTicks, sysTicks := p.2.sysTicks.map (· + 1) })) }) ∧
  (∀ (s : State) (k : SlotId), 8 ≤ k.val → s.slotActs k = true →
    let x := (took k s).slot k
    let v := postEvent 0x07 0xFF 0 (natLe 8 k ++ natLe 6 x.compare.toNat) (took k s)
    let c := x.compare + x.period.setWidth 48
    let past := decide (c.toNat ≤ (took k s).cad.count.toNat)
    (x.period = 0 → exec (.softwareSlotFire k) s = .next v) ∧
    (x.period ≠ 0 → exec (.softwareSlotFire k) s = .next (v.modSlot k (fun x => { x with compare := c, due := past, late := x.late || past }))))

/-- R297, R299: what makes the cadence count grow. -/
def Obligations.CadenceCounts : Prop :=
  (∀ (s : State) (p h : Nat), Completes (.cadenceEdge p h) s fun u =>
    u.cad.count = s.cad.count + (if s.awake && s.cad.st = .locked && nearNominal s.sec.nominal p && (tickWidth p h || markWidth p h) then 1 else 0)) ∧
  (∀ (s : State), Completes .generatedTick s fun u => u.cad.count = s.cad.count + (if s.cad.st = .holdover then 1 else 0)) ∧
  ∀ (s : State), ∀ c ∈ [Instr.holdoverEntry, .acquireTimeout, .minuteMarkMissing, .fallbackTimeout],
    Completes c s fun u => u.cad.count = s.cad.count

/-- What the events of the power manager leave (R177, R306, R308, R310 to R312, R317, R445, R446). -/
def Obligations.PowerEventsComplete : Prop :=
  (∀ (s : State) (w : Nat), s.awake = true → Completes (.railSample w) s fun u =>
    u = { s with us := s.us + 1, hbmStacks := u.hbmStacks, pwr := u.pwr } ∧ u.pwr.samples = (w :: s.pwr.samples).take 1000 ∧
    u.pwr.cur.energy = satAdd 64 s.pwr.cur.energy w) ∧
  (∀ (s : State) (ts : List (Nat × Nat)), s.pwr.evalUs + 10 ≤ s.us → s.powerRuns = true →
    let s0 := takeTemps ts s
    let d := s0.pwr.d1ms
    let l := s0.evalLimit
    let s1 := noteEvaluation l d (s0.allGroups.any s0.groupHot) (applyDuty (dutyAction l s0.pwr.d10 d) s0)
    let s2 := forAll s0.groups (stepRules (decide (d < 85 * l))) s1
    let s3 := if s2.unreachable then flagTally 512 { s2 with pwr := { s2.pwr with unreach := true } } else s2
    (d ≤ 9200000 → exec (.powerEvaluation ts) s = .next (parkRules s3)) ∧
    (9200000 < d → exec (.powerEvaluation ts) s = .next (recordFault (pageKey 0x58 0) 0x13 0x34 (parkRules s3)))) ∧
  (∀ (s : State) (r : RegionId), (s.region r).st = .transition → let g := s.region r
    (g.goal = .dark → exec (.regionTransitionComplete r) s = .next (forAll (regionTiles r) (fun t s => s.modTile t Tile.goneDark)
      (s.setRegion r { g with st := .dark, request := 0, duty := 0, step := 3 }))) ∧
    (g.goal = .lit → exec (.regionTransitionComplete r) s = .next (schedule (forAll ((regionTiles r).filter (fun t => shas s.tiles t)) (fun t s => s.modTile t Tile.wakeBanks)
      (s.setRegion r { g with st := .lit, request := 0 })))) ∧
    (g.goal = .banked → exec (.regionTransitionComplete r) s = .next (s.setRegion r { g with st := .banked, request := 0 }))) ∧
  (∀ (s : State) (k : StackId), s.envEntry.bank = true → (s.stack k).st = .active → (s.stack k).lastReq + 100 ≤ s.us →
    exec (.stackIdleBank k) s = .next { s.setStack k { s.stack k with st := .banked } with
      pwr := { s.pwr with cur := { s.pwr.cur with banks := satAdd 16 s.pwr.cur.banks 1 } } }) ∧
  (∀ (s : State) (k : StackId) (l : Nat), (s.stack k).st ≠ .untrained → l < stackLines → let q := s.stack k
    (l + 1 < stackLines → exec (.patrolScrub k l .clean) s = .next (s.setStack k { q with progress := (l + 1) <<< 16 / stackLines })) ∧
    (l + 1 = stackLines → exec (.patrolScrub k l .clean) s = .next (s.setStack k { q with progress := 0, passes := satAdd 16 q.passes 1 }))) ∧
  (∀ (s : State) (k : StackId) (c : Nat), s.awake = true → stackHotAt ≤ c % 2048 →
    exec (.stackHot k c) s = .next { takeTemp (64 + k, c) s with pins := { s.pins with thermAlert := true } }) ∧
  (∀ (s : State) (j : JunctionId) (c : Nat), s.awake = true → s.pins.thermLatch = false → tripAt ≤ c % 2048 → Completes (.thermalTrip j c) s fun u =>
    u.pins.thermAlert = true ∧ u.pins.thermLatch = true) ∧
  (∀ (s : State), (∀ r < 24, (s.region r).temp < coolAt) → (∀ d < 4, (s.die d).temp < coolAt) → (∀ k < 32, (s.stack k).temp < stackCoolAt) →
    s.pins.thermLatch = false → exec .thermAlertRelease s = .next { s with pins := { s.pins with thermAlert := false } })

/-- R310, R311: the action of an evaluation and what it does to a duty. -/
def Obligations.DutyActionRules : Prop :=
  (∀ (l d m : Nat), (l < d → dutyAction l d m = 1) ∧ (d ≤ l → 98 * l < 100 * d → dutyAction l d m = 2) ∧
    (dutyAction l d m = 3 ↔ 100 * d < 90 * l ∧ m < 90 * l)) ∧
  (∀ (l d d' m a : Nat), d ≤ d' → a ≤ 56 → newDuty (dutyAction l d m) false a ≤ newDuty (dutyAction l d' m) false a) ∧
  (∀ (act a : Nat) (hot : Bool), newDuty act hot a ≤ 56) ∧
  (∀ (act a : Nat), a ≤ 55 → a < newDuty act true a) ∧
  (∀ (l d m a : Nat), a ≤ 56 → newDuty (dutyAction l d m) true a = min 56 (newDuty (if dutyAction l d m = 3 then 0 else dutyAction l d m) false a + 1))

/-- What the commands of the EVL port leave (R321, R322, R324 to R326). -/
def Obligations.EvlCommandsComplete : Prop :=
  (∀ (s : State) (v : BitVec 4), s.evlServes = true → s.evl.up = false →
    (s.evl.tried = false → exec (.evlTraining v) s = .next (trainEvl v s)) ∧ (s.evl.tried = true → exec (.evlTrainingRetry v) s = .next (trainEvl v s))) ∧
  (∀ (s s1 : State) (q : Word) (good : Bool) (c : Fin 3) (n : Nat) (want : Option (Checked Word)), s.evl.up = true → evlAsked good want s = some s1 →
    let e := s1.evl
    let used := sgetD e.credits c 0
    (good = true → q = e.rxNext → used + n ≤ evlGrant c → exec (.evlFrameReceive q good c n want) s = .next { s1 with evl := Evl.sendOne { e with
      rxNext := e.rxNext + 1, rxAck := q, rxWant := none, rxTries := 0
      credits := if c.val = 1 then smod e.credits 1 0 (· + n) else e.credits } }) ∧
    (good = true → q = e.rxNext → evlGrant c < used + n → exec (.evlFrameReceive q good c n want) s =
      .next (evlRetrain (recordFault (pageKey 0x48 0) 0x11 0x21 s1))) ∧
    (good = true → q ≠ e.rxNext → seqLater q e.rxNext = false → exec (.evlFrameReceive q good c n want) s = .next { s1 with evl := e.sendOne }) ∧
    ((good = false ∨ (q ≠ e.rxNext ∧ seqLater q e.rxNext = true)) →
      let tries := if q = e.rxNext ∧ e.rxWant = some e.rxNext then e.rxTries + 1 else e.rxTries
      (tries < 8 → exec (.evlFrameReceive q good c n want) s = .next { s1 with evl := Evl.sendOne { e with
        rxWant := some e.rxNext, rxTries := tries } }) ∧
      (8 ≤ tries → exec (.evlFrameReceive q good c n want) s = .next (evlRetrain s1)))) ∧
  (∀ (s : State) (q m : Word) (c : Fin 3) (n : Nat), s.evl.up = true →
    (∀ e, s.evl.replay m = some e → evlAsked true (some ⟨m, .clean⟩) s = some { s with evl := e }) ∧
    (s.evl.replay m = none → exec (.evlFrameReceive q true c n (some ⟨m, .clean⟩)) s = .next (evlRetrain s))) ∧
  (∀ (s : State) (h : BitVec 128) (data : List Byte), s.evl.up = true →
    let s1 : State := if bWrite h then { s with evl := { s.evl with credits := smod s.evl.credits 1 0 (· - bLines h) } } else s
    (∀ k, bulkRefusal s h = some k → exec (.bulkRequest h data .clean) s = .next { s1 with bulk := { tag := bTag h, code := faultCode 0x11 k, bytes := [] } }) ∧
    (bulkRefusal s h = none → s.evl.waiting = [] → s.bulkCan false h = true → bWindow h = true →
      exec (.bulkRequest h data .clean) s = .next (bulkStore h data s1)) ∧
    (bulkRefusal s h = none → s.evl.waiting = [] → s.bulkCan false h = true → bWindow h = false → bWrite h = false →
      exec (.bulkRequest h data .clean) s = .next { touchStack (s.stackOf (bAddr h)) s with
        bulk := { tag := bTag h, code := 0, bytes := s.hbmRead (bAddr h) (bBytes h) } }) ∧
    (bulkRefusal s h = none → s.evl.waiting = [] → s.bulkCan false h = true → bWindow h = false → bWrite h = true → data.length = bBytes h →
      exec (.bulkRequest h data .clean) s = .next { touchStack (s.stackOf (bAddr h)) s1 with
        bulk := { tag := bTag h, code := 0, bytes := [] }, hbm := memWrite s.hbm (bAddr h) data }) ∧
    (bulkRefusal s h = none → s.evl.waiting = [] → s.bulkCan false h = false →
      exec (.bulkRequest h data .clean) s = .next { s with evl := { s.evl with waiting := [.bulk h data .clean] } })) ∧
  (∀ (s : State) (a : Nat) (bs : List Byte), bs.length = 64 →
    let e := s.evl
    let inside := e.up = true ∧ e.winBase ≤ a ∧ a < e.winBase + 4096 * e.winSize
    let v : State := { s with
      evl := { e with cache := e.cache.filter (· ≠ a / 64) }
      snoop := { bytes := [BitVec.ofNat 8 (if inside ∧ a / 64 ∈ e.cache then 1 else 0)] } }
    exec (.coherentSnoop a none .clean) s = .next v ∧
    (inside → exec (.coherentSnoop a (some bs) .clean) s = .next { v with hostMem := memWrite s.hostMem (a / 64 * 64) bs }))

/-- What the commands of the handshake leave (R332, R335, R336, R339, R340). -/
def Obligations.CordHandshakeCompletes : Prop :=
  (∀ (s : State) (l : LinkId), s.linkFree l = true → (s.link l).st = .absent → 3 ≤ s.boot.stage →
    exec (.cordSignalDetect l) s = .next (enterTraining l (s.modLink l (fun k => { k with signal := true })))) ∧
  (∀ (s : State) (l : LinkId) (half : Bool), s.linkExists l = true → (s.link l).st = .training →
    exec (.cordFecLock l half) s = .next (setLinkState l .authenticating 0
      { s.setLink l { s.link l with half := half, helloSent := s.ownHello l, keyGen := (s.link l).keyGen + 1 } with freeCtr := s.freeCtr + 1 })) ∧
  (∀ (s : State) (l : LinkId), (s.link l).st = .training →
    exec (.cordTrainingTimeout l) s = .next (setLinkState l .absent 0 s) ∧
    exec (.cordSignalLost l) s = .next (setLinkState l .absent 0 (s.setLink l { s.link l with signal := false }))) ∧
  (∀ (s : State) (l : LinkId), (s.link l).carries = true →
    exec (.cordSignalLost l) s = .next (enterTraining l (s.setLink l { s.link l with signal := false }))) ∧
  (∀ (s : State) (l : LinkId) (h : List Byte) (ok : Bool), (s.link l).st = .authenticating →
    (s.helloOk l h ok = true → exec (.hello l h ok) s = .next (s.setLink l { s.link l with
      helloGot := h, proofSent := Config.sign 0 (helloDigest (s.link l).helloSent h) })) ∧
    (s.helloOk l h ok = false → exec (.hello l h ok) s = .next (quarantine l 1 0x25 s))) ∧
  (∀ (s : State) (l : LinkId) (h : List Byte), (s.link l).st = .authenticating →
    let k := s.link l
    let d := leNat ((helloDigest k.helloSent k.helloGot).take 6)
    (k.helloGot ≠ [] → exec (.proof l h true) s = .next (s.setLink l { k with
      proofOk := true, confSent := some (ctlWord 7 0 d), frames := 1, framesRx := 0, cnt := smod k.cnt 0 0 (· + 1) })) ∧
    exec (.proof l h false) s = .next (quarantine l 1 0x25 s)) ∧
  (∀ (s : State) (l : LinkId) (w : BitVec 128) (ok : Bool), (s.link l).st = .authenticating →
    let k := s.link l
    let d := leNat ((helloDigest k.helloSent k.helloGot).take 6)
    (wordOk w = false → exec (.confirm l w ok) s = .next (quarantine l 3 0x18 s)) ∧
    (wordOk w = true → (k.confSent = none ∨ ok = false ∨ wordKind w ≠ 7 ∨ wordValue w ≠ d) → exec (.confirm l w ok) s = .next (quarantine l 1 0x25 s)) ∧
    (wordOk w = true → k.confSent ≠ none → ok = true → wordKind w = 7 → wordValue w = d → exec (.confirm l w ok) s = .next
      (setLinkState l (if k.half then .degraded else .up) 0
        (s.setLink l { k with
          confGot := true, framesRx := k.framesRx + 1, frames := k.frames + k.txQ.length
          cnt := smod (smod k.cnt 1 0 (· + 1)) 2 0 (· + BitVec.ofNat 64 k.txQ.length), partnerId := BitVec.ofNat 64 (keyId (helloKey k.helloGot)) }))) ∧
    exec (.authenticationTimeout l) s = .next (quarantine l 1 0x25 s)) ∧
  (∀ (s : State) (l : LinkId) (t : Nat), let k := s.link l
    (k.st = .degraded → k.half = false → k.degSince = some t → 10000000 + t ≤ s.us →
      1000000 * within s.us 10000000 k.retryTimes < max 1 (within s.us 10000000 k.sentTimes) →
      exec (.cordDegradedRecovery l) s = .next (setLinkState l .up 0 s)) ∧
    (k.carries = true → k.upSince = some t → 600000000 + t ≤ s.us → exec (.quarantineCountReset l) s = .next (s.setLink l { k with quars := 0 }))) ∧
  (∀ (s : State) (src : Source) (l : LinkId) (v : Word), (s.link l).st = .quarantined → s.linkFree l = true →
    ((s.link l).backoffEnd ≤ s.us → exec (.quarantineBackoffExpiry l) s = .next (enterTraining l s)) ∧
    (src ≠ .sideband → s.serves = true → v.getLsbD 2 = true → v.getLsbD 0 = true →
      exec (.quarantineRelease src l v) s = .next (enterTraining l (if l.val % 2 = 0 then writeSplit (l.val / 2) (v.getLsbD 1) s else s)).done)) ∧
  (∀ (s : State) (src : Source) (l : LinkId), src ≠ .sideband → s.serves = true → s.linkExists l = true → (s.link l).enable = true →
    let s1 := if l.val % 2 = 0 then writeSplit (l.val / 2) false s else s
    exec (.cordEnableWrite src l 0) s = .next (writeEnable l false s1).done ∧ ((writeEnable l false s1).link l).enable = false ∧
    ((writeEnable l false s1).link l).st = .absent) ∧
  (∀ (s : State) (src : Source) (p : PortId), src ≠ .sideband → s.serves = true → (s.link (2 * p.val)).enable = true → s.portQuiet p = true →
    (s.port p).splitWant = false → (s.port p).split = false →
    Completes (.cordSplitWrite src p 3) s fun u => (u.port p).split = true ∧ (u.port p).splitWant = true ∧ u.linkExists (2 * p.val + 1) = true)

/-- What control words and frames leave (R322, R333 to R335, R337 to R339, R341, R342). Frames of ACK words that go unacknowledged, and the frame that a word names, are the model's choices (log entry 29). -/
def Obligations.CordTrafficCompletes : Prop :=
  (∀ (s : State) (l : LinkId) (q : CordWord), (s.link l).carries = true → wordOk q.bits = true → q.first = true →
    (s.link l).place q.seq.toNat = .due → (s.link l).again = 0 →
    let k := s.link l
    let w := q.bits
    let next := (k.rxNext + 1) % 2 ^ 24
    let took : Link := { k with framesRx := k.framesRx + 1, cnt := smod k.cnt 1 0 (· + 1), rxNext := next, twice := false }
    let got : Link := { took with ctlOut := k.ctlOut ++ [ctlWord 1 0 ((next + 2 ^ 24 - 1) % 2 ^ 24)] }
    let v := wordValue w % 2 ^ 24
    let new : List CordFrame := (k.txQ.dropWhile (fun f => f.seq ≠ v)).map (fun f => { f with replays := f.replays + 1 })
    let k2 : Link := { got with
      txQ := k.txQ.takeWhile (fun f => f.seq ≠ v) ++ new
      frames := k.frames + new.length
      cnt := smod got.cnt 2 0 (· + BitVec.ofNat 64 new.length)
      retryTimes := List.replicate new.length s.us ++ k.retryTimes.filter (fun t => s.us < 10000000 + t) }
    (wordKind w = 1 → (∃ f ∈ k.txQ, f.seq = v) →
      exec (.ack l q) s = .next (s.setLink l { took with txQ := (k.txQ.dropWhile (fun f => f.seq ≠ v)).drop 1 })) ∧
    (wordKind w = 2 → (∃ f ∈ k.txQ, f.seq = v) →
      (k.st = .degraded → (∀ f ∈ new, f.replays < 16) → exec (.replay l ⟨q, .clean⟩) s = .next (s.setLink l k2)) ∧
      ((∃ f ∈ new, 16 ≤ f.replays) → exec (.replay l ⟨q, .clean⟩) s = .next (enterTraining l (s.setLink l k2)))) ∧
    (wordKind w = 2 → (∀ f ∈ k.txQ, f.seq ≠ v) → v ≠ k.txNext → exec (.replay l ⟨q, .clean⟩) s = .next (enterTraining l (s.setLink l got))) ∧
    (wordKind w = 3 → 2 < wordArg w → exec (.credit l q) s = .next (quarantine l 4 0x24 (s.setLink l got))) ∧
    (wordKind w = 3 → wordArg w ≤ 2 → exec (.credit l q) s = .next (forAll (s.tiles.map (·.1)) pumpSends
      (s.setLink l { got with credit := smod k.credit (wordArg w) 0 (· - wordValue w) }))) ∧
    (wordKind w = 4 → ∀ c, s.ctx (wordArg w) = some c → c.permits l = true →
      (wordValue w = c.superstep → exec (.arrive l q) s = .next (sendArrives (wordArg w) ((s.setLink l got).setCtx (wordArg w)
        { c with sysMet := s.ctxCycles c, arriveIn := if c.arriveIn.contains l.val then c.arriveIn else c.arriveIn ++ [l.val] }))) ∧
      (wordValue w ≠ c.superstep → exec (.arrive l q) s = .next (quarantine l 4 0x26 (s.setLink l got)))) ∧
    (wordKind w = 5 → s.cad.opened = false → exec (.cadence l q) s = .next (s.setLink l { got with lastCad := some (wordValue w, s.ownMark) })) ∧
    (wordKind w = 6 → k.rekey = 0 → wordArg w = 1 → exec (.rekey l q) s = .next { s.setLink l { got with
      rekey := 1, helloGot := [], proofOk := false, ctlOut := got.ctlOut ++ [ctlWord 6 1 0], helloSent := s.ownHello l, keyGen := k.keyGen + 1 } with freeCtr := s.freeCtr + 1 }) ∧
    (wordKind w = 6 → k.rekey = 1 → wordArg w = 2 → exec (.rekey l q) s = .next (s.setLink l { got with rekey := 3, framesRx := 0 })) ∧
    (wordKind w = 6 → k.rekey = 2 → wordArg w = 2 → exec (.rekey l q) s = .next (s.setLink l { got with rekey := 0, framesRx := 0 }))) ∧
  (∀ (s : State) (l : LinkId) (q : CordWord), (s.link l).carries = true →
    (wordOk q.bits = false → exec (.ack l q) s = .next (quarantine l 3 0x18 s)) ∧
    (wordOk q.bits = true → (wordKind q.bits = 0 ∨ 7 < wordKind q.bits) → exec (.ack l q) s = .next (quarantine l 4 0x24 s)) ∧
    (wordOk q.bits = true → wordKind q.bits = 3 → q.first = true →
      ((s.link l).place q.seq.toNat = .behind → exec (.credit l q) s = .next (sendAck l (frameIn l s))) ∧
      ((s.link l).place q.seq.toNat = .ahead → exec (.credit l q) s = .next (sendWord l 2 0 (s.link l).rxNext (frameIn l s))) ∧
      ((s.link l).place q.seq.toNat = .outside → exec (.credit l q) s = .next (quarantine l 4 0x22 (frameIn l s))) ∧
      ((s.link l).place q.seq.toNat = .due → 0 < (s.link l).again → exec (.credit l q) s = .next (sendAck l (frameNext l (frameIn l s))))) ∧
    (wordOk q.bits = true → wordKind q.bits = 3 → q.first = false →
      (q.seq + 1 = BitVec.ofNat 24 (s.link l).rxNext → (s.link l).twice = false → wordArg q.bits ≤ 2 →
        let u := sendAck l s
        exec (.credit l q) s = .next (forAll (s.tiles.map (·.1)) pumpSends
          (u.setLink l { u.link l with credit := smod (s.link l).credit (wordArg q.bits) 0 (· - wordValue q.bits) }))) ∧
      ((s.link l).twice = true → exec (.credit l q) s = .next s))) ∧
  (∀ (s : State) (l : LinkId), let k := s.link l
    k.carries = true → k.rekey = 0 → (2 ^ 31 ≤ k.frames ∨ 2 ^ 31 ≤ k.framesRx) →
    exec (.rekeyStart l) s = .next { s.setLink l { k with
      rekey := 1, helloGot := [], proofOk := false, ctlOut := k.ctlOut ++ [ctlWord 6 1 0], helloSent := s.ownHello l, keyGen := k.keyGen + 1 } with freeCtr := s.freeCtr + 1 }) ∧
  (∀ (s : State) (l : LinkId) (h : List Byte), let k := s.link l
    k.carries = true → (k.rekey = 1 ∨ k.rekey = 3) →
    (s.helloOk l h true = true → exec (.hello l h true) s = .next (s.setLink l { k with
      helloGot := h, proofSent := Config.sign 0 (helloDigest k.helloSent h) })) ∧
    (k.helloGot ≠ [] → exec (.proof l h true) s = .next (s.setLink l { k with
      proofOk := true
      rekey := if k.rekey = 3 then 0 else 2, ctlOut := k.ctlOut ++ [ctlWord 6 2 0] }))) ∧
  (∀ (s : State) (l : LinkId) (b : List Byte), let k := s.link l
    k.carries = true →
    (frameKind b = 0 → frameClass b = 0 → frameSeq b = k.rxNext → sgetD k.granted 0 0 < 64 →
      let next := (k.rxNext + 1) % 2 ^ 24
      let k1 : Link := { k with
        framesRx := k.framesRx + 1, cnt := smod k.cnt 1 0 (· + 1), rxNext := next, again := k.again - 1, twice := decide (0 < k.again)
        granted := smod k.granted 0 0 (· + 1), ctlOut := k.ctlOut ++ [ctlWord 1 0 ((next + 2 ^ 24 - 1) % 2 ^ 24)] }
      (0 < k.again → exec (.cordDataFrameReceive l b true) s = .next (giveCredit l 0 (s.setLink l k1))) ∧
      (∀ c, k.again = 0 → s.ctx (frameCtx b) = some c → c.permits l = true → frameMatch b % 2048 < 16 * c.pw * c.ph →
        exec (.cordDataFrameReceive l b true) s = .next (s.setLink l { k1 with rxQ := k.rxQ ++
          [{ cls := 0, seq := k.rxNext, ctx := frameCtx b, tag := frameMatch b, bytes := framePayload b }] })) ∧
      (k.again = 0 → s.ctx (frameCtx b) = none →
        exec (.cordDataFrameReceive l b true) s = .next (giveCredit l 0 (discardCord l (s.setLink l k1))))) ∧
    ((k.tagTimes.filter (fun t => s.us < 1000000 + t)).length < 8 → exec (.cordDataFrameReceive l b false) s = .next (s.setLink l { k with
      tagFail := satAdd 32 k.tagFail 1, tagTimes := s.us :: k.tagTimes.filter (fun t => s.us < 1000000 + t)
      ctlOut := k.ctlOut ++ [ctlWord 2 0 k.rxNext] })) ∧
    (8 ≤ (k.tagTimes.filter (fun t => s.us < 1000000 + t)).length → exec (.cordDataFrameReceive l b false) s = .next (quarantine l 2 0x23 (s.setLink l { k with
      tagFail := satAdd 32 k.tagFail 1, tagTimes := s.us :: k.tagTimes.filter (fun t => s.us < 1000000 + t) })))) ∧
  (∀ (s : State) (n : CtxId) (c : Ctx) (k : Nat), s.ctx n = some c → c.sysTicks = some k → c.sysT ≤ k →
    let missing := (s.ctxLinks c).filter (fun l => !c.arriveIn.contains l)
    missing ≠ [] → exec (.systemBarrierTimeout n) s = .next
      (stopContext n (faultCode 0x10 0x29) (recordFault (cordPage (missing.headD 0)) 0x10 0x29 s)))

/-- R340: "The n-th consecutive quarantine of a link lasts 2^(n − 1) s, measured against the reference clock, for n from 1 to 11. The 11th and every later one last 1,024 s." -/
def Obligations.BackoffDoublesToCap : Prop :=
  (∀ n, 1 ≤ n → n ≤ 11 → backoffUs n = 1000000 * 2 ^ (n - 1)) ∧ (∀ n, 11 ≤ n → backoffUs n = 1000000 * 1024) ∧
  (∀ (s : State) (l r c : Nat), let u := quarantine l r c s
    let n := min 11 ((s.link l).quars + 1)
    { u.link l with dropped := (s.link l).dropped } = { s.link l with
      st := .quarantined, joins := false, quars := n, reason := r, backoffEnd := s.us + backoffUs n, rxQ := [], ctlOut := (s.link l).arrives, rekey := 0
      upSince := none, degSince := none } ∧
    ∀ m, m ≠ l → let k := s.link m
      (∃ new, (u.link m).txQ = k.txQ ++ new) ∧
      { u.link m with
        txQ := k.txQ, txNext := k.txNext, credit := k.credit, frames := k.frames, sentTimes := k.sentTimes, cnt := k.cnt, dropped := k.dropped } = k)

/-- R334, R335: frames not acknowledged stay, and go again from the oldest; their new numbers, and the ARRIVE words as all that goes again of a control frame, are the model's reading (log entry 29). -/
def Obligations.TrainingKeepsUnacknowledged : Prop :=
  ∀ (s : State) (l : Nat), s.linkExists l = true → (s.port (l / 2)).split = (s.port (l / 2)).splitWant →
    let u := enterTraining l s
    let k := u.link l
    k.st = .training ∧ k.txNext = (s.link l).txQ.length ∧ k.rxNext = 0 ∧ k.ackLeft = 0 ∧ k.twice = false ∧
    k.again = ((s.link l).rxNext + 2 ^ 24 - (s.link l).ackLeft) % 2 ^ 24 + (s.link l).again ∧
    k.rxQ = (s.link l).rxQ.map (fun f => { f with kept := true }) ∧ k.ctlOut = (s.link l).arrives ∧ k.helloGot = [] ∧ k.proofOk = false ∧
    k.confGot = false ∧ k.txQ.length = (s.link l).txQ.length ∧
    (∀ (i : Nat) (f : CordFrame), (s.link l).txQ[i]? = some f →
      (f.cls ≠ 3 → k.txQ[i]? = some { f with seq := i, replays := 0 }) ∧
      (f.cls = 3 → ∃ g, k.txQ[i]? = some g ∧ g = { f with seq := i, replays := 0, bytes := g.bytes } ∧
        g.words = if f.words.filter isArrive = [] then [ctlWord 1 0 (2 ^ 24 - 1)] else f.words.filter isArrive)) ∧
    ∀ m, m ≠ l → let k := s.link m
      (∃ new, (u.link m).txQ = k.txQ ++ new) ∧
      { u.link m with
        txQ := k.txQ, txNext := k.txNext, credit := k.credit, frames := k.frames, sentTimes := k.sentTimes, cnt := k.cnt, dropped := k.dropped } = k

/-- What each accepted role command leaves (R346 to R348, R350, R351, R353, R355, R358, R360). -/
def Obligations.RoleCommandsComplete : Prop :=
  ∀ (s : State) (sb : Bool) (b : List Byte) (chk : RoleCheck), s.serves = true → rcStep s sb b chk = none →
    let s1 := noteHead chk (advanceNonce b s)
    let body := rcBody b
    (rcOp b = 1 → exec (.writeRegs sb b chk) s = .next (roleReply sb 0 [] (doWriteRegs b s1))) ∧
    (rcOp b = 2 → exec (.stageEnvelope sb b chk) s = .next (roleReply sb 0 []
      { s1 with sec := { s1.sec with stOp := { s1.sec.stOp with env := some (envStaged s body) } } })) ∧
    (rcOp b = 3 → Completes (.envelopeAlign sb b chk) s fun u => u.cad.align = some (bytesAt body 0 4, bytesAt body 4 2) ∧
      u.cad.alignOld = s.alignAt s.cad.minute ∧ u.pwr = { s.pwr with entry := entryIndex s.pwr.env (u.alignAt s.cad.minute) s.cad.minute }) ∧
    (rcOp b = 4 → s.sec.run = none → storeRefusal s (s.sec.staged (rcRole b)) 0 = none →
      Completes (.store sb b chk) s fun u => u.sec.waiting = [] ∧ u.sec.staged (rcRole b) = {} ∧ u.sec.erasing = false ∧
        u.sec.run = some { role := rcRole b, nonce := BitVec.ofNat 64 (rcNonce b), signer := signerId s sb b, work := s.sec.staged (rcRole b) }) ∧
    (rcOp b = 5 → exec (.discardStaged sb b chk) s = .next (roleReply sb 0 [] { s1 with sec := s1.sec.setStaged (rcRole b) {} })) ∧
    (rcOp b = 6 → exec (.bindKey sb b chk) s = .next (roleReply sb 0 [] { s1 with sec := s1.sec.setStaged (rcRole b) { s1.sec.staged (rcRole b) with
      keys := putPair (s1.sec.staged (rcRole b)).keys (kindSetting (bytesAt body 0 1))
        (if bytesAt body 0 1 = 4 then none else some (BitVec.ofNat 256 (bytesAt body 32 32))) } })) ∧
    (rcOp b = 7 → s.sec.run = none → s.ctxs = [] → s.sec.nOwn ≠ 0 → s.sec.audit.length ≤ 1000 →
      Completes (.ownerRelease sb b chk) s fun u => u.sec.erasing = true ∧
        u.sec.run = some { role := 1, nonce := BitVec.ofNat 64 (rcNonce b), signer := signerId s sb b, work := releaseWork, release := true }) ∧
    (rcOp b = 8 → exec (.powerKeyBind sb b chk) s = .next (roleReply sb 0 []
      { s1 with sec := { s1.sec with stOp := { s1.sec.stOp with power := true } } })) ∧
    (rcOp b = 9 → Completes (.auditAck sb b chk) s fun u => ∃ (i : Nat) (e : List Byte), s.ackPlace body = some i ∧
      u.sec.audit = s.sec.audit.drop (i + 1) ++ [e] ∧ u.sec.auditSeq = s.sec.auditSeq + 1 ∧ u.sec.auditFull = false) ∧
    (rcOp b = 10 → exec (.stagePartners sb b chk) s = .next (roleReply sb 0 [] { s1 with sec := { s1.sec with stOwn := { s1.sec.stOwn with
      partners := some ((List.range (body.length / 8)).map (fun i => BitVec.ofNat 64 (bytesAt body (8 * i) 8))) } } })) ∧
    (rcOp b = 11 → exec (.attestOwner sb b chk) s = .next (startReport body true sb s1)) ∧
    (∀ c ∈ [Instr.writeRegs sb b chk, .stageEnvelope sb b chk, .envelopeAlign sb b chk, .store sb b chk, .discardStaged sb b chk, .bindKey sb b chk,
        .ownerRelease sb b chk, .powerKeyBind sb b chk, .auditAck sb b chk, .stagePartners sb b chk, .attestOwner sb b chk][rcOp b - 1]?,
      exec (.roleCommand sb b chk) s = exec c s)

/-- R347: "The first check that fails refuses the command with a class S fault, records it in LAST_REFUSAL and changes nothing." -/
def Obligations.FailedCheckRefusesRoleCommand : Prop :=
  ∀ (s : State) (sb : Bool) (b : List Byte) (chk : RoleCheck) (k : Nat), s.serves = true → rcStep s sb b chk = some k →
    let v := if k = 6 then noteEntry b chk s else s
    (rcOp b ≠ 9 ∨ chk.entry = true → v = s) ∧
    Completes (.roleCommand sb b chk) s fun u =>
      u = { v with sec := { v.sec with refusal := u.sec.refusal, replyCode := u.sec.replyCode, reply := u.sec.reply, replyAt := u.sec.replyAt }, mgmt := u.mgmt } ∧
      u.sec.refusal.extractLsb' 0 16 = BitVec.ofNat 16 (faultCode 0x15 0x0A) ∧ classOf 0x0A = 5 ∧
      u.sec.refusal.extractLsb' 16 8 = BitVec.ofNat 8 (rcOp b) ∧ u.sec.refusal.extractLsb' 24 2 = BitVec.ofNat 2 (rcRole b) ∧
      u.sec.refusal.extractLsb' 26 3 = BitVec.ofNat 3 k ∧ 1 ≤ k ∧ k ≤ 6 ∧
      (k ≤ 1 ↔ rcForm b = false) ∧ (2 < k → bytesAt b 24 8 = keyId s.sec.identPub) ∧ (3 < k → (s.signerKey sb b).isSome = true ∧ chk.sig = true) ∧
      (4 < k → (sgetD s.sec.nonces (rcRole b) 0).toNat ≤ rcNonce b ∧ rcNonce b ≠ 2 ^ 64 - 1) ∧
      (5 < k → rcTime b ≤ s.cad.count.toNat ∧ s.cad.count.toNat - rcTime b ≤ 2 * s.tpm ∧ rcBodyOk s b chk = false)

/-- R347: a nonce accepted once is never accepted again while the nonce of its role does not go back. -/
def Obligations.AcceptedNonceIsSpent : Prop :=
  ∀ (s u v : State) (sb sb' : Bool) (b b' : List Byte) (chk chk' : RoleCheck), s.serves = true → rcStep s sb b chk = none →
    exec (.roleCommand sb b chk) s = .next u → rcRole b' = rcRole b → rcNonce b' = rcNonce b →
    (sgetD u.sec.nonces (rcRole b) 0).toNat ≤ (sgetD v.sec.nonces (rcRole b) 0).toNat → rcStep v sb' b' chk' ≠ none

/-- What completes a STORE, a release and a report (R350, R353, R360, R433). -/
def Obligations.StoresAndReportsComplete : Prop :=
  (∀ (s : State) (r : StoreRun), s.storesRun = true → s.sec.run = some r → r.release = false → s.sec.waiting = [] → Completes .storeComplete s fun u =>
    u = { storeEvent r (commitRun r s) with sec := { (storeEvent r (commitRun r s)).sec with run := none, waiting := [], erasing := false } } ∧
    (r.work = {} → ∀ i < 14, u.settingBytes i = s.settingBytes i)) ∧
  (∀ (s : State) (r : StoreRun), s.storesRun = true → s.sec.run = some r → r.release = true → s.sec.waiting = [] → s.forn.pitOn = false → Completes .ownerReleaseComplete s fun u =>
    u.hbm = [] ∧ (∀ t, (u.tile t).store = []) ∧ u.pwr.exclude = 0 ∧ u.sec.run = none) ∧
  (∀ (s : State) (src : Source) (v : Word), src ≠ .sideband → s.serves = true → v.getLsbD 0 = true →
    let nonce := (List.range 8).flatMap (fun i => natLe 4 (sgetD s.sec.attNonce i 0).toNat)
    (s.sec.attSt ≠ 1 → exec (.attestRequest src v) s = .next ((startReport nonce false false s).answer 0 [])) ∧
    (s.sec.attSt = 1 → exec (.attestRequest src v) s = .next (refuseAccess (pageKey 0x68 0) 0x15 0x07 s))) ∧
  (∀ (s : State) (a : AttBuild) (rest : List AttBuild), s.sec.attBuild = a :: rest →
    let rep := a.body ++ (Config.sign 0 (sha512 a.body) ++ List.replicate 64 0).take 64
    (a.owner = false → exec .attestReportReady s = .next { s with sec := { s.sec with attBuild := rest, attData := rep, attSt := 2 } }) ∧
    (a.owner = true → exec .attestReportReady s = .next
      (roleReply a.sideband 0 (rep ++ a.ownerPart) { s with sec := { s.sec with attBuild := rest } })))

/-- R352, R354: notches only fall, one at a time, and a STORE that needs one that is not there is refused. -/
def Obligations.NotchesOnlyFall : Prop :=
  (∀ (k : Security) (i j : Nat), i ≠ j → (k.notch i).notches j = k.notches j) ∧
  (∀ (k : Security) (i n : Nat), k.notches i = some n → (i ≠ 10 ∨ k.debugPol ≠ 3) → (k.notch i).notches i = some (n - 1)) ∧
  (∀ (k : Security), k.debugPol = 3 → (k.notch 10).notches 10 = some 0) ∧
  (∀ (s : State) (r : StoreRun) (i : Nat), (∀ j, (commitOne r i s).sec.notches j = ((commitValue r.work i s).sec.notch i).notches j) ∧
    ∀ j, (commitValue r.work i s).sec.notches j = s.sec.notches j) ∧
  (∀ (s : State) (w : Staged) (n i : Nat), i ∈ w.changes s → s.sec.notches i = some 0 → storeRefusal s w n = some 0x0A) ∧
  (∀ (s : State) (sb : Bool) (b : List Byte) (chk : RoleCheck) (k : Nat), s.serves = true → rcStep s sb b chk = none → rcOp b = 4 →
    s.sec.run = none → s.sec.waiting = [] → storeRefusal s (s.sec.staged (rcRole b)) 0 = some k → Completes (.store sb b chk) s fun u =>
      (∀ i < 14, u.settingBytes i = s.settingBytes i) ∧ (∀ j, u.sec.notches j = s.sec.notches j) ∧ u.sec.audit = s.sec.audit ∧
      (∀ r, u.sec.staged r = s.sec.staged r) ∧ u.sec.run = none)

/-- What reset, power and the stages of start-up leave (R361, R363 to R366, R371 to R373, R442, R443). -/
def Obligations.StartStagesComplete : Prop :=
  (∀ s : State, exec .powerOkRise s = .next { s with pins := { s.pins with pwrOk := true } } ∧
    (s.pins.resetN = false → exec .resetNRelease s = .next { s with pins := { s.pins with resetN := true } }) ∧
    (∀ c ∈ [Instr.resetNAssert, .powerLoss], Completes c s fun u => u.boot.stage = 1 ∧ u.ctxs = [] ∧ u.tiles = [] ∧ u.buckets = [] ∧
      u.regions = [] ∧ u.graphs = [] ∧ u.awake = false)) ∧
  (∀ (s : State) (j a b : Bool), s.boot.stage = 1 → s.awake = true → s.sec.run = none →
    let s1 := enterStage 2 s
    (∀ i, s1.chooseBank a b = some i → exec (.bootRomStage true j a b [] []) s = .next { s1 with boot := { s1.boot with bank := i } }) ∧
    (s1.chooseBank a b = none → exec (.bootRomStage true j a b [] []) s = .next { s1 with boot := { s1.boot with recovery := true } }) ∧
    exec (.bootRomStage false j a b [] []) s = .next { s1 with summary := { s1.summary with dead := true } }) ∧
  (∀ s : State, s.boots 2 = true → exec (.firmwareLoadStage true) s = .next { s with
    boot := { s.boot with stage := 3, since := s.us, late := false, running := s.runBank.vers } }) ∧
  (∀ s : State, s.boots 3 = true → s.runBank.schema ≤ max s.sec.schemaA s.sec.schemaB → s.runBank.ashFmt = s.sec.pitFmt →
    exec (.migrationStage true) s = .next { s with boot := { s.boot with
      stage := 4, since := s.us, late := false, migrated := decide (s.sec.schemaB < s.sec.schemaA ∧ s.sec.schemaA ≤ s.runBank.schema) } }) ∧
  (∀ s : State, s.boots 3 = true → max s.sec.schemaA s.sec.schemaB < s.runBank.schema → s.sec.audit.length < 1024 →
    Completes (.migrationStage true) s fun u => u.boot.stage = 4 ∧ u.boot.migrated = true ∧ u.sec.schemaA = s.runBank.schema ∧
      u.sec.schemaB = s.sec.schemaB ∧ u.sec.audit.length = s.sec.audit.length + 1) ∧
  (∀ s : State, s.boots 4 = true → Completes (.crossingTrainingStage []) s fun u => u.boot.stage = 5 ∧ u.fences = s.fences ∧
    (∀ r < 24, (u.region r).st = (if s.pins.thermLatch then .banked else .lit) ∧ (u.region r).step = 3) ∧ ∀ d < 4, (u.die d).trained = true) ∧
  (∀ (s : State) (r : RegionId) (rs : List RegionId), s.boots 4 = true → Completes (.crossingTrainingStage (r :: rs)) s fun u =>
    u.boot.stage = 5 ∧ u.boot.crossFail = true ∧ (∀ i < 24, u.fences.regions.getLsbD i = true) ∧
    ∀ d < 4, (r :: rs).any (fun i => dieOfRegion i = d) = true → (u.page (pageKey 0x30 d)).fault.getLsbD 2 = true) ∧
  (∀ s : State, s.boots 5 = true → s.boot.crossFail = false → Completes (.hbmTrainingStage 0) s fun u => u.boot.stage = 6 ∧ u.fences = s.fences ∧
    ∀ k < 32, (u.stack k).st = if s.pins.thermLatch then .banked else .active) ∧
  (∀ (s : State) (f : BitVec 32), s.boots 5 = true → s.boot.crossFail = false → Completes (.hbmTrainingStage f) s fun u => u.boot.stage = 6 ∧
    (∀ k < 32, (f.getLsbD k = true → u.fences.hbmStacks.getLsbD k = true ∧ (u.stack k).trainFailed = true ∧
        (u.page (pageKey 0x38 k)).fault.getLsbD 2 = true ∧ (s.fences.hbmStacks.getLsbD k = false → (u.stack k).st = .banked)) ∧
      (f.getLsbD k = false → u.fences.hbmStacks.getLsbD k = s.fences.hbmStacks.getLsbD k ∧
        (u.stack k).st = if s.pins.thermLatch then .banked else .active)) ∧
    ∀ d < 4, (∀ j < 8, f.getLsbD (8 * d + j) = true ∧ s.fences.hbmStacks.getLsbD (8 * d + j) = false) → u.fences.dies.getLsbD d = true) ∧
  (∀ s : State, s.boot.crossFail = true →
    (s.boots 5 = true → exec (.hbmTrainingStage 0) s = .next { s with boot := { s.boot with stage := 6, since := s.us, late := false } }) ∧
    (s.boots 6 = true → exec (.selfTestStage 0 0) s = .next { s with boot := { s.boot with stage := 7, since := s.us, late := false } })) ∧
  (∀ s : State, s.boots 6 = true → s.boot.crossFail = false → s.pwr.d10 + 2500 ≤ 10 * s.workingC → exec (.selfTestStage 0 0) s = .next { s with
    boot := { s.boot with stage := 7, since := s.us, late := false }
    tiles := s.tiles.map (fun p => (p.1, { p.2 with store := [], bankSt := [] })) }) ∧
  (∀ (s : State) (f : BitVec 24) (p : BitVec 20), s.boots 6 = true → s.boot.crossFail = false → s.pwr.d10 + 2500 ≤ 10 * s.workingC →
    Completes (.selfTestStage f p) s fun u => u.boot.stage = 7 ∧ (∀ t, (u.tile t).store = []) ∧
      (∀ i < 24, f.getLsbD i = true → u.fences.regions.getLsbD i = true ∧ (u.page (pageKey 0x28 i)).fault.getLsbD 2 = true) ∧
      (∀ i < 24, f.getLsbD i = false → p.getLsbD (16 + dieOfRegion i) = false → u.fences.regions.getLsbD i = s.fences.regions.getLsbD i) ∧
      (∀ d < 4, u.fences.dies.getLsbD d = (s.fences.dies.getLsbD d || p.getLsbD (16 + d)) ∧
        (p.getLsbD (16 + d) = true → (u.page (pageKey 0x30 d)).fault.getLsbD 2 = true ∧
          (s.fences.dies.getLsbD d = false → ∀ i ∈ dieRegions d, u.fences.regions.getLsbD i = true))) ∧
      ∀ i < 16, u.fences.ports.getLsbD i = (s.fences.ports.getLsbD i || p.getLsbD i) ∧
        (p.getLsbD i = true → (u.page (pageKey 0x40 i)).fault.getLsbD 2 = true)) ∧
  (∀ s : State, s.boots 7 = true → Completes .deviceReady s fun u => u = { s with boot := u.boot } ∧ u.boot.stage = 8 ∧ u.boot.ready = true ∧
    u.boot.ms = s.us / 1000 ∧ ((s.boot.flash s.boot.bank).st = .pending → s.boot.bank < 2 →
      u.boot.active = s.boot.bank ∧ (u.boot.flash s.boot.bank).st = .valid ∧
      u.boot.flash (1 - s.boot.bank) = s.boot.flash (1 - s.boot.bank))) ∧
  (∀ s : State, let b := s.boot
    b.stage ≤ 6 → b.late = false → b.recovery = false → s.summary.dead = false → b.since + stageLimit b.stage ≤ s.us →
    ((b.stage ≠ 2 ∧ b.stage ≠ 3) ∨ (b.flash b.bank).st ≠ .pending → exec .startStageTimeout s = .next
      { recordFault (pageKey 0x78 0) 0x17 0x2A s with boot := { b with late := true, fault := faultCode 0x17 0x2A } }) ∧
    ((b.stage = 2 ∨ b.stage = 3) → (b.flash b.bank).st = .pending → Completes .startStageTimeout s fun u =>
      u.boot.reverted = true ∧ u.boot.stage = 1 ∧ u.boot.fault = faultCode 0x17 0x2A ∧ (u.boot.flash b.bank).st = .invalid)) ∧
  (∀ s : State, s.boot.stage < 8 → 2 ≤ s.boot.stage → (s.boot.flash s.boot.bank).st = .pending → s.boot.bank < 2 → 5000000 ≤ s.us →
    Completes .pendingBootTimeout s fun u => u.boot.reverted = true ∧ u.boot.stage = 1 ∧ (u.boot.flash s.boot.bank).st = .invalid) ∧
  (∀ (s : State) (r : RegionId) (t : Nat), (s.region r).st = .banked → s.regionFenced r = true → (s.region r).fencedAt = some t → 1000000 + t ≤ s.us →
    Completes (.fencedRegionDark r) s fun u => (u.region r).st = .dark ∧ (u.region r).duty = 0 ∧ ∀ q, q ≠ r.val → u.region q = s.region q)

/-- R27, R349, R350, R370: what survives a reset. -/
def Obligations.ResetKeepsStoredSettings : Prop :=
  let kept := fun (s u : State) =>
    (∀ i < 14, u.settingBytes i = s.settingBytes i) ∧ (∀ i, u.sec.notches i = s.sec.notches i) ∧ u.sec.nonces = s.sec.nonces ∧
    u.sec.audit = s.sec.audit ∧ u.sec.auditSeq = s.sec.auditSeq ∧
    u.boot.active = s.boot.active ∧ u.boot.floor = s.boot.floor ∧ u.boot.session = {} ∧ u.sec.stOp = {} ∧ u.sec.stOwn = {} ∧
    u.sec.waiting = [] ∧ u.hostMem = s.hostMem ∧ u.pending = s.pending
  (∀ (s : State) (c : Instr), c = .resetNAssert ∨ c = .powerLoss → Completes c s fun u =>
    kept s u ∧ u.boot.bankA = s.boot.bankA ∧ u.boot.bankB = s.boot.bankB ∧ (c = .powerLoss → u.hbm = [])) ∧
  (∀ s : State, s.boot.stage < 8 → 2 ≤ s.boot.stage → (s.boot.flash s.boot.bank).st = .pending → s.boot.bank < 2 → 5000000 ≤ s.us →
    Completes .pendingBootTimeout s fun u => kept s u ∧ u.boot.flash (1 - s.boot.bank) = s.boot.flash (1 - s.boot.bank) ∧
      u.boot.flash s.boot.bank = { s.boot.flash s.boot.bank with st := .invalid })

/-- What the update commands leave (R375 to R378). -/
def Obligations.UpdateCommandsComplete : Prop :=
  (∀ (s : State) (b : List Byte), s.serves = true → ubHeader 1 b = true → (s.boot.session.st = 0 ∨ s.boot.session.st = 4) →
    Completes (.updateBegin b) s fun u => u.boot.session = { st := if s.boot.recovery then 2 else 1, flags := s.boot.session.flags } ∧
      u.boot.flash s.boot.spare = { s.boot.flash s.boot.spare with st := .invalid } ∧ u = { s with boot := u.boot, mgmt := u.mgmt } ∧ u.mgmt.code = 0) ∧
  (∀ s : State, s.boot.session.st = 1 → Completes .updateCopyComplete s fun u => u.boot.session = { s.boot.session with st := 2 } ∧
    u.boot.flash s.boot.spare = { s.boot.flash s.boot.active with st := .invalid } ∧ u = { s with boot := u.boot }) ∧
  (∀ (s : State) (b : List Byte), s.serves = true → s.boot.session.st = 2 → ubHeader 2 b = true → ubWhole b = true → ubDigest b = true →
    (s.boot.session.man = none → ubKind b = 0xF → ubOffset b = 0 → ubLength b = 768 → manifestOk (ubData b) = true →
      let k := readManifest (ubData b) (s.boot.flash s.boot.spare)
      (∀ i ∈ k.present, sgetD s.boot.floor i 0 ≤ sgetD k.vers i 0) → s.boot.recovery = false →
      exec (.updateBlock b true) s = .next (({ s with boot := { s.boot with session := { s.boot.session with man := some k } } } : State).answer 0 [])) ∧
    (∀ m, s.boot.session.man = some m → ubKind b < 5 → ubKind b ∈ m.present → s.boot.session.begun.head? = some (ubKind b) →
      (∀ i ∈ s.boot.session.begun, Machine.orderOf i ≤ Machine.orderOf (ubKind b)) → ubLength b = 0x10000 →
      ubOffset b <<< 16 + ubLength b ≤ sgetD m.lengths (ubKind b) 0 →
      Completes (.updateBlock b true) s fun u => u.boot.session = s.boot.session ∧ u.mgmt.code = 0 ∧
        u.boot.flash s.boot.spare = { s.boot.flash s.boot.spare with
          images := smod (s.boot.flash s.boot.spare).images (ubKind b) [] (fun i => memWrite i (ubOffset b <<< 16) (ubData b)) })) ∧
  (∀ (s : State) (b : List Byte) (m : FwBank), s.serves = true → s.boot.session.st = 2 → ubHeader 3 b = true → s.boot.session.man = some m →
    let q := s.boot.session
    q.nextKind = none → (∀ i, q.begun.head? = some i → s.imageWhole m i = true) →
    pairs m (s.boot.flash s.boot.spare) q.begun (s.pairSet q.begun) = true →
    Completes (.updateEnd b) s fun u => u.boot.session = { st := 4, flags := q.flags } ∧ u.mgmt.code = 0 ∧
      u.boot.flash s.boot.spare = { m with images := (s.boot.flash s.boot.spare).images, st := .pending, manifest := true }) ∧
  (∀ s : State, s.serves = true → (s.boot.session.st = 1 ∨ s.boot.session.st = 2) → Completes .updateAbort s fun u =>
    u.boot.session = { flags := s.boot.session.flags } ∧ u.mgmt.code = 0 ∧ u.boot.bankA = s.boot.bankA ∧ u.boot.bankB = s.boot.bankB) ∧
  (∀ (s : State) (b : List Byte) (ok : Bool), s.serves = true → ubOp b = 4 → ubHeader 4 b = true → exec (.updateBlock b ok) s = exec .updateAbort s) ∧
  (∀ (s u : State) (c : Instr) (b : List Byte) (ok : Bool), s.boot.active < 2 →
    c ∈ [Instr.updateBegin b, .updateCopyComplete, .updateBlock b ok, .updateEnd b, .updateAbort] → exec c s = .next u →
    u.boot.flash s.boot.active = s.boot.flash s.boot.active ∧ u.boot.active = s.boot.active ∧ u.boot.floor = s.boot.floor)

/-- Which register accesses are refused, and what recording a fault changes (R7, R9, R407, R408, R419, R422, R425, R449). -/
def Obligations.RegisterAccessRules : Prop :=
  (∀ (s : State) (src : Source) (a n : Nat) (v : BitVec 64), s.serves = true →
    ((n ≠ 4 ∧ n ≠ 8) ∨ a % n ≠ 0 → exec (.registerWrite src a n v) s = .next (refuseAccess (pageKey 0x78 0) 0 0x03 s)) ∧
    ((n = 4 ∨ n = 8) → a % n = 0 → regPlace a = none → exec (.registerWrite src a n v) s = .next (refuseAccess (pageKey 0x78 0) 0 0x06 s))) ∧
  faultCode 0 0x03 = 0x5003 ∧ faultCode 0 0x06 = 0x5006 ∧
  (∀ (cls inst off : Nat), cls < 256 → inst < 4096 → off < 4096 →
    regPlace ((0x0F00 <<< 32) + (cls <<< 24) + (inst <<< 12) + off) = if inst < classCount cls then some (cls, inst, off) else none) ∧
  (∀ (s : State) (key blk code : Nat), let u := refuseAccess key blk code s
    u.mgmt = { code := faultCode blk code, bytes := [] } ∧
    u = { s with pages := u.pages, summary := u.summary, pins := u.pins, evl := u.evl, hostMem := u.hostMem, mgmt := u.mgmt }) ∧
  (∀ (s : State) (a n : Nat), s.serves = true → ((n ≠ 4 ∧ n ≠ 8) ∨ a % n ≠ 0) → Completes (.faultSummaryRead a n) s fun u =>
    u.mgmt = { code := 0x5003, bytes := List.replicate n 0 }) ∧
  (∀ (s : State) (src : Source) (a cls inst off : Nat) (v : BitVec 64), s.serves = true → a % 4 = 0 → regPlace a = some (cls, inst, off) → 0x40 ≤ off →
    s.writeBar cls inst off = false →
    (roleLocked cls off = true → exec (.registerWrite src a 4 v) s = .next (refuseAccess (pageKey cls inst) (pageBlock cls off) 0x07 s)) ∧
    (roleLocked cls off = false → cpOnly cls off = true → src ≠ .cp →
      exec (.registerWrite src a 4 v) s = .next (refuseAccess (pageKey cls inst) (pageBlock cls off) 0x07 s)) ∧
    (0x3C ≤ cls → cls ≠ 0x70 → roleLocked cls off = false → unitReg cls inst off (v.setWidth 32) s = none →
      exec (.registerWrite src a 4 v) s = .next (s.answer 0 []))) ∧
  (∀ (s : State) (src : Source) (a cls inst off : Nat) (v : BitVec 64), s.serves = true → a % 8 = 0 → regPlace a = some (cls, inst, off) → cls ≠ 0x50 →
    let s1 := regWrite src cls inst off (v.setWidth 32) s
    let s2 := regWrite src cls inst (off + 4) ((v >>> 32).setWidth 32) s1
    exec (.registerWrite src a 8 v) s = .next (if s1.mgmt.code ≠ 0 then { s2 with mgmt := s1.mgmt } else s2)) ∧
  (∀ (s : State) (key blk code : Nat), let u := recordFault key blk code s
    let fc := faultCode blk code
    let cls := classOf code
    let p := s.page key
    let q := u.page key
    let before := [2, 3, 7, 6, 4, 5, 1].takeWhile (· ≠ cls)
    u = { s with pages := u.pages, summary := u.summary, pins := u.pins, evl := u.evl, hostMem := u.hostMem } ∧
    (∀ k, k ≠ key → u.page k = s.page k) ∧
    q = { p with fault := q.fault, code := q.code, count := q.count } ∧ q.fault = p.fault ||| BitVec.ofNat 8 (2 ^ cls) ∧ q.count = min (p.count + 1) 0xFFFF ∧
    ((∀ k ∈ before, p.fault.getLsbD k = false) → q.code = fc) ∧ ((∃ k ∈ before, p.fault.getLsbD k = true) → q.code = p.code) ∧
    u.summary = { s.summary with first := u.summary.first, last := fc, counts := u.summary.counts } ∧
    u.summary.first = (if s.summary.first = 0 ∧ cls ∈ [2, 3, 6] then fc else s.summary.first) ∧
    sgetD u.summary.counts cls 0 = min (sgetD s.summary.counts cls 0 + 1) 0xFFFF ∧
    (∀ k, k ≠ cls → sgetD u.summary.counts k 0 = sgetD s.summary.counts k 0) ∧
    u.pins = { s.pins with smbAlert := s.pins.smbAlert || decide (cls ∈ [2, 3, 6]) } ∧
    (p.mask.getLsbD cls = true ∨ cls = 1 → u.evl = s.evl ∧ u.hostMem = s.hostMem) ∧
    (p.mask.getLsbD cls = false → cls ≠ 1 → ∃ w : State, w = { s with pages := w.pages, summary := w.summary, pins := w.pins } ∧
      u = postEvent 0x09 0xFF fc (faultPayload key cls 0) w))

/-- What register accesses leave (R319, R357, R411; R8, R9, R60, R167, R302, R303, R327, R328, R427, R428, R431, R432, R434). -/
def Obligations.RegisterCommandsComplete : Prop :=
  (∀ (s u : State) (src : Source) (a cls inst off : Nat) (v : BitVec 64), s.serves = true → src ≠ .sideband → a % 4 = 0 →
    regPlace a = some (cls, inst, off) → 0x40 ≤ off → 0x3C ≤ cls → cls ≠ 0x70 → roleLocked cls off = false →
    unitReg cls inst off (v.setWidth 32) s = some u → exec (.registerWrite src a 4 v) s = .next u) ∧
  (∀ (s : State) (src : Source) (r : RegionId), src ≠ .sideband → s.serves = true → 5 ≤ s.stageNow → s.statues = false →
    let k := pageKey 0x28 r
    (∀ (a : Nat) (v : Word), a % 4 = 0 → regPlace a = some (0x28, r.val, 0x108) →
      exec (.mirrorValueWrite src a v) s = .next ((s.modPage k (·.setPend src (some (0x108, v)))).answer 0 [])) ∧
    (∀ (v : Word), (s.page k).pend src = some (0x108, v) →
      let s1 := s.modPage k (·.setPend src none)
      (bf v.toNat 0 2 = 1 → s.regionFenced r = false → s.pins.thermLatch = false → (s.region r).st = .dark →
        exec (.regionMakeLit src r (~~~v)) s = .next ((refuseWaiting r 0x07 (s1.setRegion r { s.region r with st := .transition, goal := .lit, request := 1 })).answer 0 [])) ∧
      (bf v.toNat 0 2 = 2 → (∀ p ∈ s.ctxs, r.val ∉ p.2.regions) → ((s.region r).st = .lit ∨ (s.region r).st = .banked) →
        exec (.regionMakeDark src r (~~~v)) s = .next ((refuseWaiting r 0x07 (s1.setRegion r { s.region r with st := .transition, goal := .dark, request := 2 })).answer 0 [])) ∧
      (∀ w, w ≠ ~~~v → exec (.regionMakeLit src r w) s = .next ((recordFault k 0x0C 0x18
        (s1.modPage k (fun p => { p with mismatch := true, lastOff := 0x108 }))).answer 0 [])))) ∧
  (∀ (s : State) (src : Source) (v : Word), src ≠ .sideband → s.serves = true → 5 ≤ s.stageNow →
    (s.page (pageKey 0x30 0)).pend src = some (0x110, v) → 12 ≤ bf v.toNat 0 4 → s.ctxs = [] → s.buckets = [] → s.forn.pitOn = false →
    (∀ p ∈ s.tiles, ∀ o ∈ p.2.ops, o.host = false) → (∀ w ∈ s.evl.waiting, w.isBulk = false) →
    Completes (.memMapWrite src 0 (~~~v)) s fun u => u.granule = bf v.toNat 0 4 ∧ u.hbm = regrainMem s.granule (bf v.toNat 0 4) s.hbm ∧
      u = { s with granule := u.granule, hbm := u.hbm, pages := u.pages, mgmt := u.mgmt }) ∧
  (∀ (s : State) (src : Source) (r : RingId) (v : Word), src ≠ .sideband → s.serves = true →
    (s.writesDue = false → (∀ w ∈ s.evl.waiting, w.bellOf r = false) → (s.ring r).sqEn = true →
      (v - (s.ring r).sqHead).toNat ≤ 2 ^ (s.ring r).sqLog →
      exec (.sqTailWrite src r v) s = .next ((s.modRing r (fun g => { g with sqTail := v })).answer 0 [])) ∧
    (s.writesDue = true ∨ (∃ w ∈ s.evl.waiting, w.bellOf r = true) →
      exec (.sqTailWrite src r v) s = .next (({ s with evl := { s.evl with waiting := s.evl.waiting ++ [.bell r v] } } : State).answer 0 []))) ∧
  (∀ (s : State) (src : Source) (r : RingId) (v : Word), src ≠ .sideband → s.serves = true → v.getLsbD 0 = true →
    let k := bf v.toNat 1 5
    4 ≤ k → k ≤ 16 → let g := s.ring r
    (g.sqEn = false → s.inWindow g.sqBase (64 * 2 ^ k) = true →
      exec (.ringCtrlWrite src r false v) s = .next ((s.modRing r (fun g => { g with sqEn := true, sqLog := k, sqAt := g.sqBase })).answer 0 [])) ∧
    (g.eqEn = false → s.inWindow g.eqBase (64 * 2 ^ k) = true →
      exec (.ringCtrlWrite src r true v) s = .next ((s.modRing r (fun g => { g with eqEn := true, eqLog := k, eqAt := g.eqBase })).answer 0 []))) ∧
  (∀ (s : State) (src : Source) (k : SlotId) (hi : Bool) (v : Word), src ≠ .sideband → s.serves = true → 8 ≤ k.val → let x := s.slot k
    (let c := BitVec.ofNat 48 (setHalf x.compare.toNat hi v.toNat)
      let past := decide (c.toNat ≤ s.cad.count.toNat)
      exec (.compareWrite src k hi v) s = .next ((s.modSlot k (fun x => { x with
        compare := c, due := if x.enable then past else x.due, late := x.late || (x.enable && past) })).answer 0 [])) ∧
    (v = 1 → x.enable = false → exec (.slotCtrlWrite src k v) s = .next ((s.modSlot k (fun x => { x with
      enable := true
      due := x.due || decide (x.compare.toNat ≤ s.cad.count.toNat)
      late := x.late || decide (x.compare.toNat ≤ s.cad.count.toNat) })).answer 0 []))) ∧
  (∀ (s : State) (t : TileId) (reg : Fin 3) (v : Word), s.serves = true → s.writeBar 0x10 t (0x120 + 4 * reg.val) = false →
    exec (.bankGateWrite .cp t reg v) s = .next ((s.modTile t (·.writeGate (s.tileCycle t) reg v)).answer 0 []) ∧
    exec (.bankGateWrite .host t reg v) s = .next (refuseAccess (pageKey 0x10 t) 0x06 0x07 s)) ∧
  (∀ (s : State) (src : Source) (a i : Nat), src ≠ .sideband → s.serves = true →
    (regPlace a = some (0x3C, i, 0x008) → let v := latchVals (s.stack i).latchSel (s.stokerCounter i)
      exec (.ctrlLatchStart src a) s = .next ((s.modStack i (fun q => { q with latchStart := v })).answer 0 []) ∧
      exec (.ctrlLatchEnd src a) s = .next ((s.modStack i (fun q => { q with latchEnd := v })).answer 0 [])) ∧
    (regPlace a = some (0x40, i, 0x008) → let v := latchVals (s.port i).latchSel (s.cordCounter i)
      exec (.ctrlLatchStart src a) s = .next ((s.modPort i (fun q => { q with latchStart := v })).answer 0 []) ∧
      exec (.ctrlLatchEnd src a) s = .next ((s.modPort i (fun q => { q with latchEnd := v })).answer 0 []))) ∧
  (∀ (s : State) (a t off : Nat) (e : Ecc), s.serves = true → loWord 0x12 off = true →
    let lo := s.readWord 0x12 t off
    let hi := s.readWord 0x12 t (off + 4)
    (a % 4 = 0 → regPlace a = some (0x12, t, off) → Completes (.countLoRead ⟨a, 4, e⟩) s fun u =>
      (u.tile t).ctrShadow = sset (s.tile t).ctrShadow (off + 4) hi ∧ u.mgmt = { code := 0, bytes := natLe 4 lo.toNat } ∧ u = { s with tiles := u.tiles, mgmt := u.mgmt }) ∧
    (a % 8 = 0 → regPlace a = some (0x12, t, off) → exec (.countLoRead ⟨a, 8, e⟩) s = .next (s.answer 0 (natLe 4 lo.toNat ++ natLe 4 hi.toNat))) ∧
    (a % 4 = 0 → regPlace a = some (0x12, t, off + 4) → Completes (.countLoRead ⟨a, 4, e⟩) s fun u =>
      sget (u.tile t).ctrShadow (off + 4) = none ∧ (∀ o, o ≠ off + 4 → sget (u.tile t).ctrShadow o = sget (s.tile t).ctrShadow o) ∧
      u.mgmt = { code := 0, bytes := natLe 4 ((sget (s.tile t).ctrShadow (off + 4)).getD hi).toNat } ∧ u = { s with tiles := u.tiles, mgmt := u.mgmt })) ∧
  (∀ (s : State) (a i off : Nat) (e : Ecc), s.serves = true → a % 4 = 0 → e ≠ .clean →
    (regPlace a = some (0x58, i, off) → 0x400 ≤ off → off < 0x500 → (sget s.pwr.tallies s.pwr.sel).isSome = true → Completes (.countLoRead ⟨a, 4, e⟩) s fun u =>
      u.pwr.tallyBad.contains s.pwr.sel = true ∧ (u.page (pageKey 0x58 0)).fault.getLsbD 3 = true ∧ u.mgmt = { code := 0, bytes := [0, 0, 0, 0] }) ∧
    (regPlace a = some (0x68, i, off) → 0x200 ≤ off → off < 0x280 → s.sec.auditSel < s.sec.audit.length → Completes (.countLoRead ⟨a, 4, e⟩) s fun u =>
      u.sec.audit = s.sec.audit ∧ (u.page (pageKey 0x68 0)).fault.getLsbD 3 = true ∧ u.mgmt = { code := 0, bytes := [0, 0, 0, 0] })) ∧
  (∀ (s : State) (a i n : Nat), s.serves = true → (n = 4 ∨ n = 8) → a % n = 0 → regPlace a = some (0x78, i, 0x200) →
    exec (.faultSummaryRead a n) s = .next (({ s with summary := { s.summary with shadow := some s.summaryBytes } } : State).answer 0 (s.summaryBytes.take n)))

/-- What the commands of the forensics page leave (R382, R384, R390, R391, R394, R396, R399 to R403). -/
def Obligations.ForensicsCommandsComplete : Prop :=
  (∀ (s : State) (src : Source) (v : Word), src ≠ .sideband → s.serves = true →
    let g : Forensics := { s.forn with ctrl := v }
    let k : Forensics := { g.takeHeader (s.hbmRead (g.base + 4096 * s.sec.pitSlot) 128) with
      phaseNext := 0, phaseWraps := 0, recNext := 0, recOldest := 0, recs := [], caps := [] }
    (s.forn.pitOn = false → v.getLsbD 12 = true → 0 < bf v.toNat 0 11 → bf v.toNat 0 11 ≤ 1024 → 0 < bf v.toNat 13 11 →
      g.base + g.pitBytes ≤ hbmBytes → g.fits = true → s.ctxs = [] → (∀ i ∈ s.stacksOf g.base g.pitBytes, s.stackFenced i = false) →
      exec (.ashpitEnableWrite src v) s = .next ((writeHeader { s with forn := k }).answer 0 [])) ∧
    (s.forn.pitOn = true → v.getLsbD 12 = false → s.ctxs = [] → Completes (.ashpitEnableWrite src v) s fun u => u.forn.pitOn = false)) ∧
  (∀ s : State, s.awake = true → exec .ashpitHeaderRewrite s = .next (writeHeader s)) ∧
  (∀ (s : State) (src : Source) (v : Word) (c : Ctx), src ≠ .sideband → s.serves = true →
    let n := bf s.forn.tagKey.toNat 0 6
    s.ctx n = some c → 4 ≤ c.pw * c.ph → s.cachesOf n ≠ [] → Completes (.tagLoad src v) s fun u => u.forn = { s.forn with tagVal := v &&& 0x0FFFFFFF } ∧
      ∀ j ∈ s.cachesOf n, sget (u.cluster j).tags (bf s.forn.tagKey.toNat 6 8) = some (v &&& 0x0FFFFFFF)) ∧
  (∀ (s : State) (src : Source) (n : Fin 4) (v : Word), src ≠ .sideband → s.serves = true → v.getLsbD 0 = true →
    let q := sgetD s.forn.snaps n.val {}
    let q1 : Snap := { q with ctrl := v &&& 0x003FFFFF }
    q.st ≠ 1 → q.st ≠ 2 → (∀ p ∈ armChecks q1 s, p.1 = false) → exec (.snapshotArm src n v) s = .next
      (({ s with forn := { s.forn with snaps := sset s.forn.snaps n.val { q1 with st := 1, fired := false, addr := 0 } } } : State).answer 0 [])) ∧
  (∀ (s : State) (src : Source) (v : Word) (c : Ctx), src ≠ .sideband → s.serves = true → v.getLsbD 0 = true → s.forn.cap.st ≠ 1 → s.forn.cap.st ≠ 2 →
    s.ctx (bf v.toNat 1 6) = some c → s.policyShut = false → c.superstep < s.forn.cap.trigger →
    exec (.captureArm src v) s = .next (({ s with forn := { s.forn with cap := { s.forn.cap with ctrl := v &&& 0x7F, st := 1 } } } : State).answer 0 [])) ∧
  (∀ (s : State) (src : Source) (v : Word), src ≠ .sideband → s.serves = true → v.getLsbD 0 = false →
    (∀ p ∈ s.ctxs, p.2.replay.isSome = true → p.2.onTiles = false) →
    Completes (.replayArm src v) s fun u => u.forn.cap.replayCtrl = v ∧ ∀ p ∈ u.ctxs, p.2.replay = none ∧ p.2.keepPc = false) ∧
  (∀ (s : State) (src : Source) (v : Word) (k : Capture) (c d : Ctx) (n : Nat), src ≠ .sideband → s.serves = true → v.getLsbD 0 = true →
    s.forn.caps.find? (fun k => k.seq = bf v.toNat 7 25) = some k → s.ctx (bf v.toNat 1 6) = some d → k.saved = some c →
    k.tiles.head?.bind (fun p => (p.2.entry c.slot).map (·.ctx)) = some n → replayMatch c d = true →
    (d.entry.spill = true ∨ ∀ p ∈ k.tiles, p.2.matrix.isOpen = false) → d.st = .idle → d.task = none → (∀ p ∈ s.ctxs, p.2.replay = none) →
    streamTaken k c d n (bf v.toNat 1 6) s = false →
    let w := loadReplay k c d n (bf v.toNat 1 6) s
    exec (.replayArm src v) s = .next ((schedule { w with forn := { w.forn with cap := { w.forn.cap with replayCtrl := v } } }).answer 0 [])) ∧
  (∀ (s : State), s.statues = false →
    (∀ src, src ≠ .sideband → s.serves = true → Completes (.statuesStopWrite src) s fun u =>
      u.forn.stSt = 1 ∧ u.forn.cause = 1 ∧ u.pins.stopOut = true ∧ u.forn.stPolicy = s.sec.debugPol) ∧
    (s.awake = true → Completes .stopInEdge s fun u => u.forn.stSt = 1 ∧ u.forn.cause = 4 ∧ u.pins.stopOut = true) ∧
    (∀ (n : CtxId) (c : Ctx), s.ctx n = some c → c.st = .running → s.forn.watchdog ≤ c.wdTicks →
      Completes (.superstepWatchdogExpiry n) s fun u => u.forn.stSt = 1 ∧ u.forn.cause = 2 ∧ u.forn.stCtx = n.val ∧ u.pins.stopOut = true)) ∧
  (∀ (s : State), s.forn.stSt = 1 →
    (s.forn.pitOn = false → exec .scanOutStart s = .next { s with forn := { s.forn with stSt := 2, limited := decide (2 ≤ s.forn.stPolicy) } }) ∧
    (s.forn.pitOn = true → Completes .scanOutStart s fun u => u.forn.stSt = 2 ∧
      u.forn.scanWritten = min (scanTotal (decide (2 ≤ s.forn.stPolicy))) s.forn.scanBytes)) ∧
  (∀ (s : State), s.forn.stSt = 2 →
    let f := s.forn
    let dog := bit f.cause 1
    let w := writeHeader { s with forn := { f with stSt := 3, scanValid := f.pitOn || f.scanValid, scanInc := if f.pitOn then false else f.scanInc, hdrCause := f.cause } }
    let v := forAll s.ctxs (fun p => stopContext p.1 (if dog && f.stCtxs.contains p.1 then 0x65A8 else 0x65AC)) w
    exec .scanOutEnd s = .next (if dog then postEvent 0x09 0xFF 0x65A8 (faultPayload (pageKey 0x70 0) 6 0) v else recordFault (pageKey 0x70 0) 0x16 0x2C v) ∧
    faultCode 0x16 0x2C = 0x65AC) ∧
  (∀ (s : State), s.forn.stSt = 2 → (∀ p ∈ s.ctxs, ∀ t ∈ p.2.tiles, (s.tile t).ops = []) → Completes .scanOutEnd s fun u =>
    u.forn.stSt = 3 ∧ ∀ n c, s.ctx n = some c → (u.ctx n).any (fun d => decide (d.st = .stopped)) = true) ∧
  (∀ (s : State), s.forn.stSt = 2 → s.ctxs = [] → Completes .scanOutEnd s fun u => u.forn.stSt = 3 ∧ u.hbm = (writeHeader { s with forn := u.forn }).hbm) ∧
  (∀ (s : State) (src : Source), src ≠ .sideband → s.serves = true → s.forn.stSt = 3 →
    let w : State := { s with
      tiles := s.tiles.map (fun p => (p.1, p.2.recover)), hbmQ := [], handoffs := []
      ctxs := s.ctxs.map (fun p => (p.1, { p.2 with
        onTiles := false, removed := true, stop := none, bound := .none, barrier := 0, arrived := [], planIds := []
        arriveIn := [], arriveOut := [], sysTicks := none, wdTicks := 0 }))
      forn := { s.forn with stSt := 0 }, pins := { s.pins with stopOut := false } }
    exec (.recover src) s = .next ((schedule w).answer 0 []) ∧
    ∀ t, (w.tile t).ops = [] ∧ (w.tile t).matQ = [] ∧ (w.tile t).vecQ = [] ∧ (w.tile t).dmaQ = [] ∧ (w.tile t).rickQ = [] ∧
      (w.tile t).reqs = [] ∧ (w.tile t).matrix.isOpen = false ∧ (w.tile t).store = (s.tile t).store)

/-- What the sideband, JTAG and the pins leave (R316, R354, R362, R368, R447, R449, R450). -/
def Obligations.PinCommandsComplete : Prop :=
  (∀ s : State, s.sideband = true →
    exec .smbusReadBootStatus s = .next { s with smb := { bytes := natLe 4 s.bootWord.toNat } } ∧
    exec .smbusReadIdentity s = .next { s with smb := { bytes := (s.sec.identCert ++ List.replicate 128 0).take 128 } } ∧
    exec .smbusReadFaultSummary s = .next { s with smb := { bytes := s.summaryBytes }, pins := { s.pins with smbAlert := false } } ∧
    (Pins.smbAlertN { s.pins with smbAlert := false } = s.pins.thermAlert) ∧
    Completes .smbusReadTemperatures s fun u => u = { s with smb := u.smb } ∧ ∃ r d k,
      u.smb.bytes = natLe 2 r ++ natLe 2 d ++ natLe 2 k ∧ (∀ i < 24, (s.region i).temp ≤ r) ∧ (∀ i < 4, (s.die i).temp ≤ d) ∧ ∀ i < 32, (s.stack i).temp ≤ k) ∧
  (∀ s : State, s.smbAddr.isSome = true → s.summary.dead = true →
    exec .smbusReadFaultSummary s = .next { s with smb := { bytes := s.summaryBytes }, pins := { s.pins with smbAlert := false } } ∧
    exec .smbusReadBootStatus s = .next s ∧ exec .smbusReadIdentity s = .next s ∧ exec .smbusReadTemperatures s = .next s) ∧
  (∀ (s : State) (h : Byte) (data : List Byte) (chk : RoleCheck), s.serves = true → data.length ≤ 240 → let n := bf h.toNat 0 7
    let got : SmbBlock := ⟨h :: data, true⟩
    (n = 0 → h.getLsbD 7 = false → exec (.smbusRoleChunk got chk) s = .next { s with sec := { s.sec with chunks := [data] } }) ∧
    (n = 0 → h.getLsbD 7 = true → exec (.smbusRoleChunk got chk) s = exec (.roleCommand true data chk) { s with sec := { s.sec with chunks := [] } }) ∧
    (n ≠ 0 → n = s.sec.chunks.length → h.getLsbD 7 = false →
      exec (.smbusRoleChunk got chk) s = .next { s with sec := { s.sec with chunks := s.sec.chunks ++ [data] } }) ∧
    (n ≠ 0 → n = s.sec.chunks.length → h.getLsbD 7 = true →
      exec (.smbusRoleChunk got chk) s = exec (.roleCommand true ((s.sec.chunks ++ [data]).flatten) chk) { s with sec := { s.sec with chunks := [] } }) ∧
    (n ≠ 0 → n ≠ s.sec.chunks.length → exec (.smbusRoleChunk got chk) s = .next { s with sec := { s.sec with chunks := [] } }) ∧
    exec (.smbusRoleChunk ⟨h :: data, false⟩ chk) s = .next s) ∧
  (∀ s : State, s.serves = true → let r := s.sec.replyBytes
    let n := s.sec.replyAt
    (240 * (n + 1) < r.length → exec .smbusRoleReply s = .next { s with
      smb := { bytes := natLe 1 n ++ (r.drop (240 * n)).take 240 }, sec := { s.sec with replyAt := n + 1 } }) ∧
    (r.length ≤ 240 * (n + 1) → exec .smbusRoleReply s = .next { s with
      smb := { bytes := natLe 1 (n + 128) ++ (r.drop (240 * n)).take 240 }, sec := { s.sec with replyAt := 0 } })) ∧
  (∀ (s : State) (op : Nat), s.awake = true → (op < 2 ∨ op = 2 ∧ s.sec.debugIn = 0) → Completes (.jtagAccess ⟨op, true⟩) s fun u =>
    u = { s with jtag := u.jtag, freeCtr := s.freeCtr + 1 } ∧ u.jtag.code = 0) ∧
  (∀ (s : State), s.awake = true → s.sec.debugIn ≠ 0 → exec (.jtagAccess ⟨2, true⟩) s = .next { s with jtag := { code := faultCode 0 0x07 } }) ∧
  (∀ (s : State) (op : Nat), exec (.jtagAccess ⟨op, false⟩) s = .next s) ∧
  (∀ s : State, exec .syncOutPulseEnd s = .next { s with pins := { s.pins with syncOut := false } })

/-- A step is exec of the command in front, on the state with the queue's rest; with none it is a tick (log entry 7). -/
def Obligations.StepRunsFrontCommand : Prop :=
  (∀ (s : State) (c : Instr), step { s with pending := c :: s.pending } = exec c s) ∧
  (∀ (s : State) (c : Instr) (rest : List Instr), s.pending = c :: rest → step s = exec c { s with pending := rest }) ∧
  (∀ s : State, s.pending = [] → s.awake = true → ∃ u, step s = .next u ∧ u.cycle = s.cycle + 1) ∧
  (∀ s : State, s.pending = [] → s.awake = false → step s = .next s)

/-- What reset leaves. -/
def Obligations.ResetValues : Prop :=
  let s := State.reset
  s.boot.stage = 1 ∧ s.boot.ready = false ∧ s.boot.recovery = false ∧ s.fences.regions = 0 ∧ s.fences.hbmStacks = 0 ∧ s.fences.ports = 0 ∧
  s.fences.dies = 0 ∧ s.cad.st = .acquiring ∧ s.cad.count = 0 ∧ (∀ k, (s.page k).fault = 0 ∧ (s.page k).mask = 2 ∧ (s.page k).mismatch = false) ∧
  s.granule = 12 ∧ (∀ l, (s.link l).st = .absent ∧ (s.link l).enable = true ∧ (s.link l).timeout = 1000) ∧ (∀ r, (s.region r).st = .dark) ∧
  s.ctxs = [] ∧ s.buckets = [] ∧ s.graphs = [] ∧ s.pending = [] ∧ (∀ t, (s.tile t).exch.planId = 0xFFFF) ∧ s.statues = false ∧ s.memOk

/-- The invariant of the memories is kept by every step. -/
def Obligations.MemoriesStayCanonical : Prop := ∀ s u : State, s.memOk → step s = .next u → u.memOk

/-- What nothing undoes is undone by no step. -/
def Obligations.NothingUndoesNotchesNoncesFloors : Prop := ∀ s u : State, s.memOk → step s = .next u → s.Lasts u

/-- Every command answers, and keeps the queue and the free values. -/
def Obligations.EveryCommandAnswers : Prop :=
  ∀ (c : Instr) (s : State), Completes c s fun u => s.memOk → u.pending = s.pending ∧ s.freeCtr ≤ u.freeCtr

/-- R157: "In words, the wait is met when the counter equals WAIT_VALUE or lies up to 2²³ − 1 = 8,388,607 beyond it, counting modulo 2²⁴." -/
def Obligations.WaitIsModulo : Prop :=
  ∀ (c : BitVec 48) (v : Nat), v < 2 ^ 24 →
    (waitMet c v = true ↔ ((c.toNat % 2 ^ 24 : Nat) - (v : Int)) % (2 ^ 24 : Int) < 2 ^ 23) ∧
    (waitMet c v = true ↔ ∃ d ≤ 8388607, c.toNat % 2 ^ 24 = (v + d) % 2 ^ 24)
end

