-- ==== Sys2Proof/Laws/Memory.lean ====
section
/-! SUPPORT. Units held by number and byte memories: a read after a write, and the canonical form that every memory operation keeps. -/

namespace Sys2Proof.Machine

/-! ### Units held by number -/

@[simp] theorem sget_nil {α : Type} (k : Nat) : sget ([] : Sparse α) k = none := rfl

@[simp] theorem sget_sset_self {α : Type} (m : Sparse α) (k : Nat) (v : α) : sget (sset m k v) k = some v := by
  induction m with
  | nil => simp [sset, sget]
  | cons p r ih =>
    obtain ⟨j, w⟩ := p
    simp only [sset]
    split
    · simp [sget]
    · split
      · simp [sget]
      · rename_i h1 h2
        simp [sget, h2, ih]

theorem sget_sset_ne {α : Type} (m : Sparse α) (k j : Nat) (v : α) (h : j ≠ k) : sget (sset m k v) j = sget m j := by
  induction m with
  | nil => simp [sset, sget, Ne.symm h]
  | cons p r ih =>
    obtain ⟨i, w⟩ := p
    simp only [sset]
    split
    · simp [sget, Ne.symm h]
    · split
      · rename_i h1 h2
        subst h2
        simp [sget, Ne.symm h]
      · simp only [sget]
        split
        · rfl
        · exact ih

theorem sget_sset {α : Type} (m : Sparse α) (k j : Nat) (v : α) : sget (sset m k v) j = if j = k then some v else sget m j := by
  split
  · rename_i h
    subst h
    exact sget_sset_self m j v
  · rename_i h
    exact sget_sset_ne m k j v h

@[simp] theorem sgetD_sset_self {α : Type} (m : Sparse α) (k : Nat) (v d : α) : sgetD (sset m k v) k d = v := by
  simp [sgetD]

theorem sgetD_sset_ne {α : Type} (m : Sparse α) (k j : Nat) (v d : α) (h : j ≠ k) : sgetD (sset m k v) j d = sgetD m j d := by
  simp [sgetD, sget_sset_ne m k j v h]

@[simp] theorem sgetD_smod_self {α : Type} (m : Sparse α) (k : Nat) (d : α) (f : α → α) : sgetD (smod m k d f) k d = f (sgetD m k d) := by
  simp [smod]

theorem sgetD_smod_ne {α : Type} (m : Sparse α) (k j : Nat) (d e : α) (f : α → α) (h : j ≠ k) : sgetD (smod m k d f) j e = sgetD m j e := by
  simp [smod, sgetD_sset_ne _ _ _ _ _ h]

theorem sget_sdel {α : Type} (m : Sparse α) (k j : Nat) : sget (sdel m k) j = if j = k then none else sget m j := by
  induction m with
  | nil => simp [sdel, sget]
  | cons p r ih =>
    obtain ⟨i, w⟩ := p
    simp only [sdel] at ih
    by_cases hi : i = k
    · subst hi
      by_cases hj : j = i
      · subst hj
        simpa [sdel] using ih
      · simp [sdel, sget, Ne.symm hj, hj] at ih ⊢
        exact ih
    · by_cases hj : i = j
      · subst hj
        simp [sdel, sget, hi]
      · simp [sdel, sget, hi, hj]
        simpa [hi, hj] using ih

/-! ### The canonical form -/

/-- No listed address is below `a`, and the list is canonical. -/
def Memory.above (a : Nat) (m : Memory) : Prop := ∀ p ∈ m, a ≤ p.1

theorem Memory.wf_cons (a : Nat) (b : Byte) (m : Memory) :
    Memory.wf ((a, b) :: m) = true ↔ b ≠ 0 ∧ m.wf = true ∧ Memory.above (a + 1) m := by
  induction m generalizing a b with
  | nil => simp [Memory.wf, Memory.above]
  | cons p r ih =>
    obtain ⟨a', b'⟩ := p
    have h := ih a' b'
    simp only [Memory.wf, Bool.and_eq_true, decide_eq_true_eq]
    constructor
    · rintro ⟨⟨hb, hlt⟩, hw⟩
      refine ⟨by simpa using hb, hw, ?_⟩
      intro p hp
      rcases List.mem_cons.mp hp with rfl | hp
      · exact hlt
      · have := (h.mp hw).2.2 p hp
        omega
    · rintro ⟨hb, hw, ha⟩
      exact ⟨⟨by simpa using hb, ha (a', b') (by simp)⟩, hw⟩

theorem Memory.wf_sset (m : Memory) (a : Nat) (b : Byte) (hb : b ≠ 0) (hm : m.wf = true) : Memory.wf (sset m a b) = true := by
  induction m with
  | nil => simpa [sset, Memory.wf] using hb
  | cons p r ih =>
    obtain ⟨j, w⟩ := p
    have h := (Memory.wf_cons j w r).mp hm
    simp only [sset]
    split
    · rename_i hlt
      refine (Memory.wf_cons a b _).mpr ⟨hb, hm, ?_⟩
      intro p hp
      rcases List.mem_cons.mp hp with rfl | hp
      · exact hlt
      · have := h.2.2 p hp
        omega
    · split
      · rename_i h1 h2
        subst h2
        exact (Memory.wf_cons j b r).mpr ⟨hb, h.2.1, h.2.2⟩
      · rename_i h1 h2
        refine (Memory.wf_cons j w _).mpr ⟨h.1, ih h.2.1, ?_⟩
        intro p hp
        have hmem : ∀ (l : Memory) (q : Nat × Byte), q ∈ sset l a b → q = (a, b) ∨ q ∈ l := by
          intro l
          induction l with
          | nil => intro q hq; simpa [sset] using hq
          | cons c l ihl =>
            intro q hq
            obtain ⟨ci, cv⟩ := c
            simp only [sset] at hq
            split at hq
            · rcases List.mem_cons.mp hq with rfl | hq
              · exact .inl rfl
              · exact .inr hq
            · split at hq
              · rcases List.mem_cons.mp hq with rfl | hq
                · exact .inl rfl
                · exact .inr (List.mem_cons_of_mem _ hq)
              · rcases List.mem_cons.mp hq with rfl | hq
                · exact .inr (by simp)
                · rcases ihl q hq with rfl | hq
                  · exact .inl rfl
                  · exact .inr (List.mem_cons_of_mem _ hq)
        rcases hmem r p hp with rfl | hp
        · simp
          omega
        · exact h.2.2 p hp

theorem Memory.wf_filter (m : Memory) (f : Host.Cell → Bool) (hm : m.wf = true) : Memory.wf (m.filter f) = true := by
  induction m with
  | nil => rfl
  | cons p r ih =>
    obtain ⟨j, w⟩ := p
    have h := (Memory.wf_cons j w r).mp hm
    simp only [List.filter]
    split
    · refine (Memory.wf_cons j w _).mpr ⟨h.1, ih h.2.1, ?_⟩
      intro p hp
      exact h.2.2 p (List.mem_filter.mp hp).1
    · exact ih h.2.1

/-- Writing one byte keeps the canonical form. -/
theorem Memory.wf_memPut (m : Memory) (a : Nat) (b : Byte) (hm : m.wf = true) : Memory.wf (memPut m a b) = true := by
  unfold memPut
  split
  · exact Memory.wf_filter m _ hm
  · rename_i hb
    exact Memory.wf_sset m a b hb hm

/-- Writing bytes keeps the canonical form. -/
theorem Memory.wf_memWrite (bs : List Byte) : ∀ (m : Memory) (a : Nat), m.wf = true → Memory.wf (memWrite m a bs) = true := by
  induction bs with
  | nil => intro m a hm; exact hm
  | cons b bs ih =>
    intro m a hm
    exact ih _ _ (Memory.wf_memPut m a b hm)

/-! ### Reads after writes -/

theorem memByte_memPut (m : Memory) (a c : Nat) (b : Byte) : memByte (memPut m a b) c = if c = a then b else memByte m c := by
  unfold memPut memByte sgetD
  split
  · rename_i hb
    subst hb
    rw [sget_sdel]
    split <;> rfl
  · rw [sget_sset]
    split <;> rfl

/-- A byte outside the written range reads as before. -/
theorem memByte_memWrite_out (bs : List Byte) : ∀ (m : Memory) (a c : Nat), c < a ∨ a + bs.length ≤ c → memByte (memWrite m a bs) c = memByte m c := by
  induction bs with
  | nil => intro m a c _; rfl
  | cons b bs ih =>
    intro m a c h
    simp only [List.length_cons] at h
    have h1 : c < a + 1 ∨ a + 1 + bs.length ≤ c := by omega
    rw [memWrite, ih _ _ _ h1, memByte_memPut]
    split
    · omega
    · rfl

/-- A byte of the written range reads as written. -/
theorem memByte_memWrite_in (bs : List Byte) : ∀ (m : Memory) (a i : Nat), i < bs.length → memByte (memWrite m a bs) (a + i) = bs.getD i 0 := by
  induction bs with
  | nil => intro m a i h; simp at h
  | cons b bs ih =>
    intro m a i h
    cases i with
    | zero =>
      rw [memWrite, memByte_memWrite_out _ _ _ _ (by omega), memByte_memPut]
      simp
    | succ i =>
      have h2 : i < bs.length := by simpa using h
      have h1 : a + (i + 1) = a + 1 + i := by omega
      rw [memWrite, h1, ih _ _ _ h2]
      simp

/-- Reading back a written range gives what was written. -/
theorem memRead_memWrite (m : Memory) (a : Nat) (bs : List Byte) : memRead (memWrite m a bs) a bs.length = bs := by
  apply List.ext_getElem
  · simp [memRead]
  · intro i h1 h2
    simp only [memRead, List.getElem_map, List.getElem_range]
    rw [memByte_memWrite_in bs m a i h2]
    simp [List.getD_eq_getElem?_getD, h2]

/-- Reading beside a written range gives what was there. -/
theorem memRead_memWrite_apart (m : Memory) (a b n : Nat) (bs : List Byte) (h : b + n ≤ a ∨ a + bs.length ≤ b) :
    memRead (memWrite m a bs) b n = memRead m b n := by
  unfold memRead
  apply List.map_congr_left
  intro i hi
  have := List.mem_range.mp hi
  exact memByte_memWrite_out bs m a (b + i) (by omega)

theorem sset_sset {α : Type} (m : Sparse α) (k : Nat) (v w : α) : sset (sset m k v) k w = sset m k w := by
  induction m with
  | nil => simp [sset]
  | cons p r ih =>
    obtain ⟨j, x⟩ := p
    by_cases h1 : k < j
    · simp [sset, h1]
    · by_cases h2 : j = k
      · simp [sset, h2]
      · simp [sset, h1, h2, ih]

/-- A byte of a memory some of whose addresses have been taken out. -/
theorem sgetD_filter (m : Memory) (p : Nat × Byte → Bool) (hp : ∀ a b c, p (a, b) = p (a, c)) (a : Nat) :
    sgetD (m.filter p) a 0 = if p (a, 0) then sgetD m a 0 else 0 := by
  induction m with
  | nil => simp [sgetD, sget]
  | cons q r ih =>
    obtain ⟨j, v⟩ := q
    by_cases hj : j = a
    · subst hj
      have h0 : p (j, v) = p (j, 0) := hp j v 0
      by_cases hq : p (j, 0) = true
      · simp only [List.filter_cons, h0, hq, if_true]
        simp [sgetD, sget]
      · simp only [List.filter_cons, h0, hq] at ih ⊢
        exact ih
    · have hs : sgetD ((j, v) :: r) a 0 = sgetD r a 0 := by simp [sgetD, sget, hj]
      rw [hs, ← ih]
      simp only [List.filter_cons]
      split
      · simp [sgetD, sget, hj]
      · rfl

end Sys2Proof.Machine
end

