-- ==== Sys2Proof/Laws/State.lean ====
section
/-! SUPPORT. The small laws of the updates of State: what each leaves alone, field by field, and what is read back from it. -/

namespace Sys2Proof.Machine

variable (s : State)

/-! ### setTile -/

@[simp] theorem State.setTile_pending (t : Nat) (x : Tile) : (s.setTile t x).pending = s.pending := rfl
@[simp] theorem State.setTile_freeCtr (t : Nat) (x : Tile) : (s.setTile t x).freeCtr = s.freeCtr := rfl
@[simp] theorem State.setTile_boot (t : Nat) (x : Tile) : (s.setTile t x).boot = s.boot := rfl
@[simp] theorem State.setTile_pins (t : Nat) (x : Tile) : (s.setTile t x).pins = s.pins := rfl
@[simp] theorem State.setTile_fences (t : Nat) (x : Tile) : (s.setTile t x).fences = s.fences := rfl
@[simp] theorem State.setTile_clusters (t : Nat) (x : Tile) : (s.setTile t x).clusters = s.clusters := rfl
@[simp] theorem State.setTile_regions (t : Nat) (x : Tile) : (s.setTile t x).regions = s.regions := rfl
@[simp] theorem State.setTile_dies (t : Nat) (x : Tile) : (s.setTile t x).dies = s.dies := rfl
@[simp] theorem State.setTile_granule (t : Nat) (x : Tile) : (s.setTile t x).granule = s.granule := rfl
@[simp] theorem State.setTile_hbmStacks (t : Nat) (x : Tile) : (s.setTile t x).hbmStacks = s.hbmStacks := rfl
@[simp] theorem State.setTile_hbm (t : Nat) (x : Tile) : (s.setTile t x).hbm = s.hbm := rfl
@[simp] theorem State.setTile_hbmQ (t : Nat) (x : Tile) : (s.setTile t x).hbmQ = s.hbmQ := rfl
@[simp] theorem State.setTile_hostMem (t : Nat) (x : Tile) : (s.setTile t x).hostMem = s.hostMem := rfl
@[simp] theorem State.setTile_ctxs (t : Nat) (x : Tile) : (s.setTile t x).ctxs = s.ctxs := rfl
@[simp] theorem State.setTile_graphs (t : Nat) (x : Tile) : (s.setTile t x).graphs = s.graphs := rfl
@[simp] theorem State.setTile_graphOrder (t : Nat) (x : Tile) : (s.setTile t x).graphOrder = s.graphOrder := rfl
@[simp] theorem State.setTile_buckets (t : Nat) (x : Tile) : (s.setTile t x).buckets = s.buckets := rfl
@[simp] theorem State.setTile_handoffs (t : Nat) (x : Tile) : (s.setTile t x).handoffs = s.handoffs := rfl
@[simp] theorem State.setTile_holds (t : Nat) (x : Tile) : (s.setTile t x).holds = s.holds := rfl
@[simp] theorem State.setTile_holdsDue (t : Nat) (x : Tile) : (s.setTile t x).holdsDue = s.holdsDue := rfl
@[simp] theorem State.setTile_mismatches (t : Nat) (x : Tile) : (s.setTile t x).mismatches = s.mismatches := rfl
@[simp] theorem State.setTile_mismLost (t : Nat) (x : Tile) : (s.setTile t x).mismLost = s.mismLost := rfl
@[simp] theorem State.setTile_ctlFail (t : Nat) (x : Tile) : (s.setTile t x).ctlFail = s.ctlFail := rfl
@[simp] theorem State.setTile_ctxSel (t : Nat) (x : Tile) : (s.setTile t x).ctxSel = s.ctxSel := rfl
@[simp] theorem State.setTile_graphSel (t : Nat) (x : Tile) : (s.setTile t x).graphSel = s.graphSel := rfl
@[simp] theorem State.setTile_switchLast (t : Nat) (x : Tile) : (s.setTile t x).switchLast = s.switchLast := rfl
@[simp] theorem State.setTile_evl (t : Nat) (x : Tile) : (s.setTile t x).evl = s.evl := rfl
@[simp] theorem State.setTile_links (t : Nat) (x : Tile) : (s.setTile t x).links = s.links := rfl
@[simp] theorem State.setTile_ports (t : Nat) (x : Tile) : (s.setTile t x).ports = s.ports := rfl
@[simp] theorem State.setTile_cad (t : Nat) (x : Tile) : (s.setTile t x).cad = s.cad := rfl
@[simp] theorem State.setTile_pwr (t : Nat) (x : Tile) : (s.setTile t x).pwr = s.pwr := rfl
@[simp] theorem State.setTile_sec (t : Nat) (x : Tile) : (s.setTile t x).sec = s.sec := rfl
@[simp] theorem State.setTile_forn (t : Nat) (x : Tile) : (s.setTile t x).forn = s.forn := rfl
@[simp] theorem State.setTile_pages (t : Nat) (x : Tile) : (s.setTile t x).pages = s.pages := rfl
@[simp] theorem State.setTile_summary (t : Nat) (x : Tile) : (s.setTile t x).summary = s.summary := rfl
@[simp] theorem State.setTile_cycle (t : Nat) (x : Tile) : (s.setTile t x).cycle = s.cycle := rfl
@[simp] theorem State.setTile_us (t : Nat) (x : Tile) : (s.setTile t x).us = s.us := rfl
@[simp] theorem State.setTile_mgmt (t : Nat) (x : Tile) : (s.setTile t x).mgmt = s.mgmt := rfl
@[simp] theorem State.setTile_bulk (t : Nat) (x : Tile) : (s.setTile t x).bulk = s.bulk := rfl
@[simp] theorem State.setTile_smb (t : Nat) (x : Tile) : (s.setTile t x).smb = s.smb := rfl
@[simp] theorem State.setTile_snoop (t : Nat) (x : Tile) : (s.setTile t x).snoop = s.snoop := rfl
@[simp] theorem State.setTile_jtag (t : Nat) (x : Tile) : (s.setTile t x).jtag = s.jtag := rfl

/-! ### modTile -/

@[simp] theorem State.modTile_pending (t : Nat) (f : Tile → Tile) : (s.modTile t f).pending = s.pending := rfl
@[simp] theorem State.modTile_freeCtr (t : Nat) (f : Tile → Tile) : (s.modTile t f).freeCtr = s.freeCtr := rfl
@[simp] theorem State.modTile_boot (t : Nat) (f : Tile → Tile) : (s.modTile t f).boot = s.boot := rfl
@[simp] theorem State.modTile_pins (t : Nat) (f : Tile → Tile) : (s.modTile t f).pins = s.pins := rfl
@[simp] theorem State.modTile_fences (t : Nat) (f : Tile → Tile) : (s.modTile t f).fences = s.fences := rfl
@[simp] theorem State.modTile_clusters (t : Nat) (f : Tile → Tile) : (s.modTile t f).clusters = s.clusters := rfl
@[simp] theorem State.modTile_regions (t : Nat) (f : Tile → Tile) : (s.modTile t f).regions = s.regions := rfl
@[simp] theorem State.modTile_dies (t : Nat) (f : Tile → Tile) : (s.modTile t f).dies = s.dies := rfl
@[simp] theorem State.modTile_granule (t : Nat) (f : Tile → Tile) : (s.modTile t f).granule = s.granule := rfl
@[simp] theorem State.modTile_hbmStacks (t : Nat) (f : Tile → Tile) : (s.modTile t f).hbmStacks = s.hbmStacks := rfl
@[simp] theorem State.modTile_hbm (t : Nat) (f : Tile → Tile) : (s.modTile t f).hbm = s.hbm := rfl
@[simp] theorem State.modTile_hbmQ (t : Nat) (f : Tile → Tile) : (s.modTile t f).hbmQ = s.hbmQ := rfl
@[simp] theorem State.modTile_hostMem (t : Nat) (f : Tile → Tile) : (s.modTile t f).hostMem = s.hostMem := rfl
@[simp] theorem State.modTile_ctxs (t : Nat) (f : Tile → Tile) : (s.modTile t f).ctxs = s.ctxs := rfl
@[simp] theorem State.modTile_graphs (t : Nat) (f : Tile → Tile) : (s.modTile t f).graphs = s.graphs := rfl
@[simp] theorem State.modTile_graphOrder (t : Nat) (f : Tile → Tile) : (s.modTile t f).graphOrder = s.graphOrder := rfl
@[simp] theorem State.modTile_buckets (t : Nat) (f : Tile → Tile) : (s.modTile t f).buckets = s.buckets := rfl
@[simp] theorem State.modTile_handoffs (t : Nat) (f : Tile → Tile) : (s.modTile t f).handoffs = s.handoffs := rfl
@[simp] theorem State.modTile_holds (t : Nat) (f : Tile → Tile) : (s.modTile t f).holds = s.holds := rfl
@[simp] theorem State.modTile_holdsDue (t : Nat) (f : Tile → Tile) : (s.modTile t f).holdsDue = s.holdsDue := rfl
@[simp] theorem State.modTile_mismatches (t : Nat) (f : Tile → Tile) : (s.modTile t f).mismatches = s.mismatches := rfl
@[simp] theorem State.modTile_mismLost (t : Nat) (f : Tile → Tile) : (s.modTile t f).mismLost = s.mismLost := rfl
@[simp] theorem State.modTile_ctlFail (t : Nat) (f : Tile → Tile) : (s.modTile t f).ctlFail = s.ctlFail := rfl
@[simp] theorem State.modTile_ctxSel (t : Nat) (f : Tile → Tile) : (s.modTile t f).ctxSel = s.ctxSel := rfl
@[simp] theorem State.modTile_graphSel (t : Nat) (f : Tile → Tile) : (s.modTile t f).graphSel = s.graphSel := rfl
@[simp] theorem State.modTile_switchLast (t : Nat) (f : Tile → Tile) : (s.modTile t f).switchLast = s.switchLast := rfl
@[simp] theorem State.modTile_evl (t : Nat) (f : Tile → Tile) : (s.modTile t f).evl = s.evl := rfl
@[simp] theorem State.modTile_links (t : Nat) (f : Tile → Tile) : (s.modTile t f).links = s.links := rfl
@[simp] theorem State.modTile_ports (t : Nat) (f : Tile → Tile) : (s.modTile t f).ports = s.ports := rfl
@[simp] theorem State.modTile_cad (t : Nat) (f : Tile → Tile) : (s.modTile t f).cad = s.cad := rfl
@[simp] theorem State.modTile_pwr (t : Nat) (f : Tile → Tile) : (s.modTile t f).pwr = s.pwr := rfl
@[simp] theorem State.modTile_sec (t : Nat) (f : Tile → Tile) : (s.modTile t f).sec = s.sec := rfl
@[simp] theorem State.modTile_forn (t : Nat) (f : Tile → Tile) : (s.modTile t f).forn = s.forn := rfl
@[simp] theorem State.modTile_pages (t : Nat) (f : Tile → Tile) : (s.modTile t f).pages = s.pages := rfl
@[simp] theorem State.modTile_summary (t : Nat) (f : Tile → Tile) : (s.modTile t f).summary = s.summary := rfl
@[simp] theorem State.modTile_cycle (t : Nat) (f : Tile → Tile) : (s.modTile t f).cycle = s.cycle := rfl
@[simp] theorem State.modTile_us (t : Nat) (f : Tile → Tile) : (s.modTile t f).us = s.us := rfl
@[simp] theorem State.modTile_mgmt (t : Nat) (f : Tile → Tile) : (s.modTile t f).mgmt = s.mgmt := rfl
@[simp] theorem State.modTile_bulk (t : Nat) (f : Tile → Tile) : (s.modTile t f).bulk = s.bulk := rfl
@[simp] theorem State.modTile_smb (t : Nat) (f : Tile → Tile) : (s.modTile t f).smb = s.smb := rfl
@[simp] theorem State.modTile_snoop (t : Nat) (f : Tile → Tile) : (s.modTile t f).snoop = s.snoop := rfl
@[simp] theorem State.modTile_jtag (t : Nat) (f : Tile → Tile) : (s.modTile t f).jtag = s.jtag := rfl

/-! ### setCtx -/

@[simp] theorem State.setCtx_pending (c : Nat) (x : Ctx) : (s.setCtx c x).pending = s.pending := rfl
@[simp] theorem State.setCtx_freeCtr (c : Nat) (x : Ctx) : (s.setCtx c x).freeCtr = s.freeCtr := rfl
@[simp] theorem State.setCtx_boot (c : Nat) (x : Ctx) : (s.setCtx c x).boot = s.boot := rfl
@[simp] theorem State.setCtx_pins (c : Nat) (x : Ctx) : (s.setCtx c x).pins = s.pins := rfl
@[simp] theorem State.setCtx_fences (c : Nat) (x : Ctx) : (s.setCtx c x).fences = s.fences := rfl
@[simp] theorem State.setCtx_tiles (c : Nat) (x : Ctx) : (s.setCtx c x).tiles = s.tiles := rfl
@[simp] theorem State.setCtx_clusters (c : Nat) (x : Ctx) : (s.setCtx c x).clusters = s.clusters := rfl
@[simp] theorem State.setCtx_regions (c : Nat) (x : Ctx) : (s.setCtx c x).regions = s.regions := rfl
@[simp] theorem State.setCtx_dies (c : Nat) (x : Ctx) : (s.setCtx c x).dies = s.dies := rfl
@[simp] theorem State.setCtx_granule (c : Nat) (x : Ctx) : (s.setCtx c x).granule = s.granule := rfl
@[simp] theorem State.setCtx_hbmStacks (c : Nat) (x : Ctx) : (s.setCtx c x).hbmStacks = s.hbmStacks := rfl
@[simp] theorem State.setCtx_hbm (c : Nat) (x : Ctx) : (s.setCtx c x).hbm = s.hbm := rfl
@[simp] theorem State.setCtx_hbmQ (c : Nat) (x : Ctx) : (s.setCtx c x).hbmQ = s.hbmQ := rfl
@[simp] theorem State.setCtx_hostMem (c : Nat) (x : Ctx) : (s.setCtx c x).hostMem = s.hostMem := rfl
@[simp] theorem State.setCtx_graphs (c : Nat) (x : Ctx) : (s.setCtx c x).graphs = s.graphs := rfl
@[simp] theorem State.setCtx_graphOrder (c : Nat) (x : Ctx) : (s.setCtx c x).graphOrder = s.graphOrder := rfl
@[simp] theorem State.setCtx_buckets (c : Nat) (x : Ctx) : (s.setCtx c x).buckets = s.buckets := rfl
@[simp] theorem State.setCtx_handoffs (c : Nat) (x : Ctx) : (s.setCtx c x).handoffs = s.handoffs := rfl
@[simp] theorem State.setCtx_holds (c : Nat) (x : Ctx) : (s.setCtx c x).holds = s.holds := rfl
@[simp] theorem State.setCtx_holdsDue (c : Nat) (x : Ctx) : (s.setCtx c x).holdsDue = s.holdsDue := rfl
@[simp] theorem State.setCtx_mismatches (c : Nat) (x : Ctx) : (s.setCtx c x).mismatches = s.mismatches := rfl
@[simp] theorem State.setCtx_mismLost (c : Nat) (x : Ctx) : (s.setCtx c x).mismLost = s.mismLost := rfl
@[simp] theorem State.setCtx_ctlFail (c : Nat) (x : Ctx) : (s.setCtx c x).ctlFail = s.ctlFail := rfl
@[simp] theorem State.setCtx_ctxSel (c : Nat) (x : Ctx) : (s.setCtx c x).ctxSel = s.ctxSel := rfl
@[simp] theorem State.setCtx_graphSel (c : Nat) (x : Ctx) : (s.setCtx c x).graphSel = s.graphSel := rfl
@[simp] theorem State.setCtx_switchLast (c : Nat) (x : Ctx) : (s.setCtx c x).switchLast = s.switchLast := rfl
@[simp] theorem State.setCtx_evl (c : Nat) (x : Ctx) : (s.setCtx c x).evl = s.evl := rfl
@[simp] theorem State.setCtx_links (c : Nat) (x : Ctx) : (s.setCtx c x).links = s.links := rfl
@[simp] theorem State.setCtx_ports (c : Nat) (x : Ctx) : (s.setCtx c x).ports = s.ports := rfl
@[simp] theorem State.setCtx_cad (c : Nat) (x : Ctx) : (s.setCtx c x).cad = s.cad := rfl
@[simp] theorem State.setCtx_pwr (c : Nat) (x : Ctx) : (s.setCtx c x).pwr = s.pwr := rfl
@[simp] theorem State.setCtx_sec (c : Nat) (x : Ctx) : (s.setCtx c x).sec = s.sec := rfl
@[simp] theorem State.setCtx_forn (c : Nat) (x : Ctx) : (s.setCtx c x).forn = s.forn := rfl
@[simp] theorem State.setCtx_pages (c : Nat) (x : Ctx) : (s.setCtx c x).pages = s.pages := rfl
@[simp] theorem State.setCtx_summary (c : Nat) (x : Ctx) : (s.setCtx c x).summary = s.summary := rfl
@[simp] theorem State.setCtx_cycle (c : Nat) (x : Ctx) : (s.setCtx c x).cycle = s.cycle := rfl
@[simp] theorem State.setCtx_us (c : Nat) (x : Ctx) : (s.setCtx c x).us = s.us := rfl
@[simp] theorem State.setCtx_mgmt (c : Nat) (x : Ctx) : (s.setCtx c x).mgmt = s.mgmt := rfl
@[simp] theorem State.setCtx_bulk (c : Nat) (x : Ctx) : (s.setCtx c x).bulk = s.bulk := rfl
@[simp] theorem State.setCtx_smb (c : Nat) (x : Ctx) : (s.setCtx c x).smb = s.smb := rfl
@[simp] theorem State.setCtx_snoop (c : Nat) (x : Ctx) : (s.setCtx c x).snoop = s.snoop := rfl
@[simp] theorem State.setCtx_jtag (c : Nat) (x : Ctx) : (s.setCtx c x).jtag = s.jtag := rfl

/-! ### modCtx -/

@[simp] theorem State.modCtx_pending (c : Nat) (f : Ctx → Ctx) : (s.modCtx c f).pending = s.pending := by
  unfold State.modCtx
  split <;> rfl
@[simp] theorem State.modCtx_freeCtr (c : Nat) (f : Ctx → Ctx) : (s.modCtx c f).freeCtr = s.freeCtr := by
  unfold State.modCtx
  split <;> rfl
@[simp] theorem State.modCtx_boot (c : Nat) (f : Ctx → Ctx) : (s.modCtx c f).boot = s.boot := by
  unfold State.modCtx
  split <;> rfl
@[simp] theorem State.modCtx_pins (c : Nat) (f : Ctx → Ctx) : (s.modCtx c f).pins = s.pins := by
  unfold State.modCtx
  split <;> rfl
@[simp] theorem State.modCtx_fences (c : Nat) (f : Ctx → Ctx) : (s.modCtx c f).fences = s.fences := by
  unfold State.modCtx
  split <;> rfl
@[simp] theorem State.modCtx_tiles (c : Nat) (f : Ctx → Ctx) : (s.modCtx c f).tiles = s.tiles := by
  unfold State.modCtx
  split <;> rfl
@[simp] theorem State.modCtx_clusters (c : Nat) (f : Ctx → Ctx) : (s.modCtx c f).clusters = s.clusters := by
  unfold State.modCtx
  split <;> rfl
@[simp] theorem State.modCtx_regions (c : Nat) (f : Ctx → Ctx) : (s.modCtx c f).regions = s.regions := by
  unfold State.modCtx
  split <;> rfl
@[simp] theorem State.modCtx_dies (c : Nat) (f : Ctx → Ctx) : (s.modCtx c f).dies = s.dies := by
  unfold State.modCtx
  split <;> rfl
@[simp] theorem State.modCtx_granule (c : Nat) (f : Ctx → Ctx) : (s.modCtx c f).granule = s.granule := by
  unfold State.modCtx
  split <;> rfl
@[simp] theorem State.modCtx_hbmStacks (c : Nat) (f : Ctx → Ctx) : (s.modCtx c f).hbmStacks = s.hbmStacks := by
  unfold State.modCtx
  split <;> rfl
@[simp] theorem State.modCtx_hbm (c : Nat) (f : Ctx → Ctx) : (s.modCtx c f).hbm = s.hbm := by
  unfold State.modCtx
  split <;> rfl
@[simp] theorem State.modCtx_hbmQ (c : Nat) (f : Ctx → Ctx) : (s.modCtx c f).hbmQ = s.hbmQ := by
  unfold State.modCtx
  split <;> rfl
@[simp] theorem State.modCtx_hostMem (c : Nat) (f : Ctx → Ctx) : (s.modCtx c f).hostMem = s.hostMem := by
  unfold State.modCtx
  split <;> rfl
@[simp] theorem State.modCtx_graphs (c : Nat) (f : Ctx → Ctx) : (s.modCtx c f).graphs = s.graphs := by
  unfold State.modCtx
  split <;> rfl
@[simp] theorem State.modCtx_graphOrder (c : Nat) (f : Ctx → Ctx) : (s.modCtx c f).graphOrder = s.graphOrder := by
  unfold State.modCtx
  split <;> rfl
@[simp] theorem State.modCtx_buckets (c : Nat) (f : Ctx → Ctx) : (s.modCtx c f).buckets = s.buckets := by
  unfold State.modCtx
  split <;> rfl
@[simp] theorem State.modCtx_handoffs (c : Nat) (f : Ctx → Ctx) : (s.modCtx c f).handoffs = s.handoffs := by
  unfold State.modCtx
  split <;> rfl
@[simp] theorem State.modCtx_holds (c : Nat) (f : Ctx → Ctx) : (s.modCtx c f).holds = s.holds := by
  unfold State.modCtx
  split <;> rfl
@[simp] theorem State.modCtx_holdsDue (c : Nat) (f : Ctx → Ctx) : (s.modCtx c f).holdsDue = s.holdsDue := by
  unfold State.modCtx
  split <;> rfl
@[simp] theorem State.modCtx_mismatches (c : Nat) (f : Ctx → Ctx) : (s.modCtx c f).mismatches = s.mismatches := by
  unfold State.modCtx
  split <;> rfl
@[simp] theorem State.modCtx_mismLost (c : Nat) (f : Ctx → Ctx) : (s.modCtx c f).mismLost = s.mismLost := by
  unfold State.modCtx
  split <;> rfl
@[simp] theorem State.modCtx_ctlFail (c : Nat) (f : Ctx → Ctx) : (s.modCtx c f).ctlFail = s.ctlFail := by
  unfold State.modCtx
  split <;> rfl
@[simp] theorem State.modCtx_ctxSel (c : Nat) (f : Ctx → Ctx) : (s.modCtx c f).ctxSel = s.ctxSel := by
  unfold State.modCtx
  split <;> rfl
@[simp] theorem State.modCtx_graphSel (c : Nat) (f : Ctx → Ctx) : (s.modCtx c f).graphSel = s.graphSel := by
  unfold State.modCtx
  split <;> rfl
@[simp] theorem State.modCtx_switchLast (c : Nat) (f : Ctx → Ctx) : (s.modCtx c f).switchLast = s.switchLast := by
  unfold State.modCtx
  split <;> rfl
@[simp] theorem State.modCtx_evl (c : Nat) (f : Ctx → Ctx) : (s.modCtx c f).evl = s.evl := by
  unfold State.modCtx
  split <;> rfl
@[simp] theorem State.modCtx_links (c : Nat) (f : Ctx → Ctx) : (s.modCtx c f).links = s.links := by
  unfold State.modCtx
  split <;> rfl
@[simp] theorem State.modCtx_ports (c : Nat) (f : Ctx → Ctx) : (s.modCtx c f).ports = s.ports := by
  unfold State.modCtx
  split <;> rfl
@[simp] theorem State.modCtx_cad (c : Nat) (f : Ctx → Ctx) : (s.modCtx c f).cad = s.cad := by
  unfold State.modCtx
  split <;> rfl
@[simp] theorem State.modCtx_pwr (c : Nat) (f : Ctx → Ctx) : (s.modCtx c f).pwr = s.pwr := by
  unfold State.modCtx
  split <;> rfl
@[simp] theorem State.modCtx_sec (c : Nat) (f : Ctx → Ctx) : (s.modCtx c f).sec = s.sec := by
  unfold State.modCtx
  split <;> rfl
@[simp] theorem State.modCtx_forn (c : Nat) (f : Ctx → Ctx) : (s.modCtx c f).forn = s.forn := by
  unfold State.modCtx
  split <;> rfl
@[simp] theorem State.modCtx_pages (c : Nat) (f : Ctx → Ctx) : (s.modCtx c f).pages = s.pages := by
  unfold State.modCtx
  split <;> rfl
@[simp] theorem State.modCtx_summary (c : Nat) (f : Ctx → Ctx) : (s.modCtx c f).summary = s.summary := by
  unfold State.modCtx
  split <;> rfl
@[simp] theorem State.modCtx_cycle (c : Nat) (f : Ctx → Ctx) : (s.modCtx c f).cycle = s.cycle := by
  unfold State.modCtx
  split <;> rfl
@[simp] theorem State.modCtx_us (c : Nat) (f : Ctx → Ctx) : (s.modCtx c f).us = s.us := by
  unfold State.modCtx
  split <;> rfl
@[simp] theorem State.modCtx_mgmt (c : Nat) (f : Ctx → Ctx) : (s.modCtx c f).mgmt = s.mgmt := by
  unfold State.modCtx
  split <;> rfl
@[simp] theorem State.modCtx_bulk (c : Nat) (f : Ctx → Ctx) : (s.modCtx c f).bulk = s.bulk := by
  unfold State.modCtx
  split <;> rfl
@[simp] theorem State.modCtx_smb (c : Nat) (f : Ctx → Ctx) : (s.modCtx c f).smb = s.smb := by
  unfold State.modCtx
  split <;> rfl
@[simp] theorem State.modCtx_snoop (c : Nat) (f : Ctx → Ctx) : (s.modCtx c f).snoop = s.snoop := by
  unfold State.modCtx
  split <;> rfl
@[simp] theorem State.modCtx_jtag (c : Nat) (f : Ctx → Ctx) : (s.modCtx c f).jtag = s.jtag := by
  unfold State.modCtx
  split <;> rfl

/-! ### setRegion -/

@[simp] theorem State.setRegion_pending (r : Nat) (x : Region) : (s.setRegion r x).pending = s.pending := rfl
@[simp] theorem State.setRegion_freeCtr (r : Nat) (x : Region) : (s.setRegion r x).freeCtr = s.freeCtr := rfl
@[simp] theorem State.setRegion_boot (r : Nat) (x : Region) : (s.setRegion r x).boot = s.boot := rfl
@[simp] theorem State.setRegion_pins (r : Nat) (x : Region) : (s.setRegion r x).pins = s.pins := rfl
@[simp] theorem State.setRegion_fences (r : Nat) (x : Region) : (s.setRegion r x).fences = s.fences := rfl
@[simp] theorem State.setRegion_tiles (r : Nat) (x : Region) : (s.setRegion r x).tiles = s.tiles := rfl
@[simp] theorem State.setRegion_clusters (r : Nat) (x : Region) : (s.setRegion r x).clusters = s.clusters := rfl
@[simp] theorem State.setRegion_dies (r : Nat) (x : Region) : (s.setRegion r x).dies = s.dies := rfl
@[simp] theorem State.setRegion_granule (r : Nat) (x : Region) : (s.setRegion r x).granule = s.granule := rfl
@[simp] theorem State.setRegion_hbmStacks (r : Nat) (x : Region) : (s.setRegion r x).hbmStacks = s.hbmStacks := rfl
@[simp] theorem State.setRegion_hbm (r : Nat) (x : Region) : (s.setRegion r x).hbm = s.hbm := rfl
@[simp] theorem State.setRegion_hbmQ (r : Nat) (x : Region) : (s.setRegion r x).hbmQ = s.hbmQ := rfl
@[simp] theorem State.setRegion_hostMem (r : Nat) (x : Region) : (s.setRegion r x).hostMem = s.hostMem := rfl
@[simp] theorem State.setRegion_ctxs (r : Nat) (x : Region) : (s.setRegion r x).ctxs = s.ctxs := rfl
@[simp] theorem State.setRegion_graphs (r : Nat) (x : Region) : (s.setRegion r x).graphs = s.graphs := rfl
@[simp] theorem State.setRegion_graphOrder (r : Nat) (x : Region) : (s.setRegion r x).graphOrder = s.graphOrder := rfl
@[simp] theorem State.setRegion_buckets (r : Nat) (x : Region) : (s.setRegion r x).buckets = s.buckets := rfl
@[simp] theorem State.setRegion_handoffs (r : Nat) (x : Region) : (s.setRegion r x).handoffs = s.handoffs := rfl
@[simp] theorem State.setRegion_holds (r : Nat) (x : Region) : (s.setRegion r x).holds = s.holds := rfl
@[simp] theorem State.setRegion_holdsDue (r : Nat) (x : Region) : (s.setRegion r x).holdsDue = s.holdsDue := rfl
@[simp] theorem State.setRegion_mismatches (r : Nat) (x : Region) : (s.setRegion r x).mismatches = s.mismatches := rfl
@[simp] theorem State.setRegion_mismLost (r : Nat) (x : Region) : (s.setRegion r x).mismLost = s.mismLost := rfl
@[simp] theorem State.setRegion_ctlFail (r : Nat) (x : Region) : (s.setRegion r x).ctlFail = s.ctlFail := rfl
@[simp] theorem State.setRegion_ctxSel (r : Nat) (x : Region) : (s.setRegion r x).ctxSel = s.ctxSel := rfl
@[simp] theorem State.setRegion_graphSel (r : Nat) (x : Region) : (s.setRegion r x).graphSel = s.graphSel := rfl
@[simp] theorem State.setRegion_switchLast (r : Nat) (x : Region) : (s.setRegion r x).switchLast = s.switchLast := rfl
@[simp] theorem State.setRegion_evl (r : Nat) (x : Region) : (s.setRegion r x).evl = s.evl := rfl
@[simp] theorem State.setRegion_links (r : Nat) (x : Region) : (s.setRegion r x).links = s.links := rfl
@[simp] theorem State.setRegion_ports (r : Nat) (x : Region) : (s.setRegion r x).ports = s.ports := rfl
@[simp] theorem State.setRegion_cad (r : Nat) (x : Region) : (s.setRegion r x).cad = s.cad := rfl
@[simp] theorem State.setRegion_pwr (r : Nat) (x : Region) : (s.setRegion r x).pwr = s.pwr := rfl
@[simp] theorem State.setRegion_sec (r : Nat) (x : Region) : (s.setRegion r x).sec = s.sec := rfl
@[simp] theorem State.setRegion_forn (r : Nat) (x : Region) : (s.setRegion r x).forn = s.forn := rfl
@[simp] theorem State.setRegion_pages (r : Nat) (x : Region) : (s.setRegion r x).pages = s.pages := rfl
@[simp] theorem State.setRegion_summary (r : Nat) (x : Region) : (s.setRegion r x).summary = s.summary := rfl
@[simp] theorem State.setRegion_cycle (r : Nat) (x : Region) : (s.setRegion r x).cycle = s.cycle := rfl
@[simp] theorem State.setRegion_us (r : Nat) (x : Region) : (s.setRegion r x).us = s.us := rfl
@[simp] theorem State.setRegion_mgmt (r : Nat) (x : Region) : (s.setRegion r x).mgmt = s.mgmt := rfl
@[simp] theorem State.setRegion_bulk (r : Nat) (x : Region) : (s.setRegion r x).bulk = s.bulk := rfl
@[simp] theorem State.setRegion_smb (r : Nat) (x : Region) : (s.setRegion r x).smb = s.smb := rfl
@[simp] theorem State.setRegion_snoop (r : Nat) (x : Region) : (s.setRegion r x).snoop = s.snoop := rfl
@[simp] theorem State.setRegion_jtag (r : Nat) (x : Region) : (s.setRegion r x).jtag = s.jtag := rfl

/-! ### modRegion -/

@[simp] theorem State.modRegion_pending (r : Nat) (f : Region → Region) : (s.modRegion r f).pending = s.pending := rfl
@[simp] theorem State.modRegion_freeCtr (r : Nat) (f : Region → Region) : (s.modRegion r f).freeCtr = s.freeCtr := rfl
@[simp] theorem State.modRegion_boot (r : Nat) (f : Region → Region) : (s.modRegion r f).boot = s.boot := rfl
@[simp] theorem State.modRegion_pins (r : Nat) (f : Region → Region) : (s.modRegion r f).pins = s.pins := rfl
@[simp] theorem State.modRegion_fences (r : Nat) (f : Region → Region) : (s.modRegion r f).fences = s.fences := rfl
@[simp] theorem State.modRegion_tiles (r : Nat) (f : Region → Region) : (s.modRegion r f).tiles = s.tiles := rfl
@[simp] theorem State.modRegion_clusters (r : Nat) (f : Region → Region) : (s.modRegion r f).clusters = s.clusters := rfl
@[simp] theorem State.modRegion_dies (r : Nat) (f : Region → Region) : (s.modRegion r f).dies = s.dies := rfl
@[simp] theorem State.modRegion_granule (r : Nat) (f : Region → Region) : (s.modRegion r f).granule = s.granule := rfl
@[simp] theorem State.modRegion_hbmStacks (r : Nat) (f : Region → Region) : (s.modRegion r f).hbmStacks = s.hbmStacks := rfl
@[simp] theorem State.modRegion_hbm (r : Nat) (f : Region → Region) : (s.modRegion r f).hbm = s.hbm := rfl
@[simp] theorem State.modRegion_hbmQ (r : Nat) (f : Region → Region) : (s.modRegion r f).hbmQ = s.hbmQ := rfl
@[simp] theorem State.modRegion_hostMem (r : Nat) (f : Region → Region) : (s.modRegion r f).hostMem = s.hostMem := rfl
@[simp] theorem State.modRegion_ctxs (r : Nat) (f : Region → Region) : (s.modRegion r f).ctxs = s.ctxs := rfl
@[simp] theorem State.modRegion_graphs (r : Nat) (f : Region → Region) : (s.modRegion r f).graphs = s.graphs := rfl
@[simp] theorem State.modRegion_graphOrder (r : Nat) (f : Region → Region) : (s.modRegion r f).graphOrder = s.graphOrder := rfl
@[simp] theorem State.modRegion_buckets (r : Nat) (f : Region → Region) : (s.modRegion r f).buckets = s.buckets := rfl
@[simp] theorem State.modRegion_handoffs (r : Nat) (f : Region → Region) : (s.modRegion r f).handoffs = s.handoffs := rfl
@[simp] theorem State.modRegion_holds (r : Nat) (f : Region → Region) : (s.modRegion r f).holds = s.holds := rfl
@[simp] theorem State.modRegion_holdsDue (r : Nat) (f : Region → Region) : (s.modRegion r f).holdsDue = s.holdsDue := rfl
@[simp] theorem State.modRegion_mismatches (r : Nat) (f : Region → Region) : (s.modRegion r f).mismatches = s.mismatches := rfl
@[simp] theorem State.modRegion_mismLost (r : Nat) (f : Region → Region) : (s.modRegion r f).mismLost = s.mismLost := rfl
@[simp] theorem State.modRegion_ctlFail (r : Nat) (f : Region → Region) : (s.modRegion r f).ctlFail = s.ctlFail := rfl
@[simp] theorem State.modRegion_ctxSel (r : Nat) (f : Region → Region) : (s.modRegion r f).ctxSel = s.ctxSel := rfl
@[simp] theorem State.modRegion_graphSel (r : Nat) (f : Region → Region) : (s.modRegion r f).graphSel = s.graphSel := rfl
@[simp] theorem State.modRegion_switchLast (r : Nat) (f : Region → Region) : (s.modRegion r f).switchLast = s.switchLast := rfl
@[simp] theorem State.modRegion_evl (r : Nat) (f : Region → Region) : (s.modRegion r f).evl = s.evl := rfl
@[simp] theorem State.modRegion_links (r : Nat) (f : Region → Region) : (s.modRegion r f).links = s.links := rfl
@[simp] theorem State.modRegion_ports (r : Nat) (f : Region → Region) : (s.modRegion r f).ports = s.ports := rfl
@[simp] theorem State.modRegion_cad (r : Nat) (f : Region → Region) : (s.modRegion r f).cad = s.cad := rfl
@[simp] theorem State.modRegion_pwr (r : Nat) (f : Region → Region) : (s.modRegion r f).pwr = s.pwr := rfl
@[simp] theorem State.modRegion_sec (r : Nat) (f : Region → Region) : (s.modRegion r f).sec = s.sec := rfl
@[simp] theorem State.modRegion_forn (r : Nat) (f : Region → Region) : (s.modRegion r f).forn = s.forn := rfl
@[simp] theorem State.modRegion_pages (r : Nat) (f : Region → Region) : (s.modRegion r f).pages = s.pages := rfl
@[simp] theorem State.modRegion_summary (r : Nat) (f : Region → Region) : (s.modRegion r f).summary = s.summary := rfl
@[simp] theorem State.modRegion_cycle (r : Nat) (f : Region → Region) : (s.modRegion r f).cycle = s.cycle := rfl
@[simp] theorem State.modRegion_us (r : Nat) (f : Region → Region) : (s.modRegion r f).us = s.us := rfl
@[simp] theorem State.modRegion_mgmt (r : Nat) (f : Region → Region) : (s.modRegion r f).mgmt = s.mgmt := rfl
@[simp] theorem State.modRegion_bulk (r : Nat) (f : Region → Region) : (s.modRegion r f).bulk = s.bulk := rfl
@[simp] theorem State.modRegion_smb (r : Nat) (f : Region → Region) : (s.modRegion r f).smb = s.smb := rfl
@[simp] theorem State.modRegion_snoop (r : Nat) (f : Region → Region) : (s.modRegion r f).snoop = s.snoop := rfl
@[simp] theorem State.modRegion_jtag (r : Nat) (f : Region → Region) : (s.modRegion r f).jtag = s.jtag := rfl

/-! ### setStack -/

@[simp] theorem State.setStack_pending (k : Nat) (x : Stack) : (s.setStack k x).pending = s.pending := rfl
@[simp] theorem State.setStack_freeCtr (k : Nat) (x : Stack) : (s.setStack k x).freeCtr = s.freeCtr := rfl
@[simp] theorem State.setStack_boot (k : Nat) (x : Stack) : (s.setStack k x).boot = s.boot := rfl
@[simp] theorem State.setStack_pins (k : Nat) (x : Stack) : (s.setStack k x).pins = s.pins := rfl
@[simp] theorem State.setStack_fences (k : Nat) (x : Stack) : (s.setStack k x).fences = s.fences := rfl
@[simp] theorem State.setStack_tiles (k : Nat) (x : Stack) : (s.setStack k x).tiles = s.tiles := rfl
@[simp] theorem State.setStack_clusters (k : Nat) (x : Stack) : (s.setStack k x).clusters = s.clusters := rfl
@[simp] theorem State.setStack_regions (k : Nat) (x : Stack) : (s.setStack k x).regions = s.regions := rfl
@[simp] theorem State.setStack_dies (k : Nat) (x : Stack) : (s.setStack k x).dies = s.dies := rfl
@[simp] theorem State.setStack_granule (k : Nat) (x : Stack) : (s.setStack k x).granule = s.granule := rfl
@[simp] theorem State.setStack_hbm (k : Nat) (x : Stack) : (s.setStack k x).hbm = s.hbm := rfl
@[simp] theorem State.setStack_hbmQ (k : Nat) (x : Stack) : (s.setStack k x).hbmQ = s.hbmQ := rfl
@[simp] theorem State.setStack_hostMem (k : Nat) (x : Stack) : (s.setStack k x).hostMem = s.hostMem := rfl
@[simp] theorem State.setStack_ctxs (k : Nat) (x : Stack) : (s.setStack k x).ctxs = s.ctxs := rfl
@[simp] theorem State.setStack_graphs (k : Nat) (x : Stack) : (s.setStack k x).graphs = s.graphs := rfl
@[simp] theorem State.setStack_graphOrder (k : Nat) (x : Stack) : (s.setStack k x).graphOrder = s.graphOrder := rfl
@[simp] theorem State.setStack_buckets (k : Nat) (x : Stack) : (s.setStack k x).buckets = s.buckets := rfl
@[simp] theorem State.setStack_handoffs (k : Nat) (x : Stack) : (s.setStack k x).handoffs = s.handoffs := rfl
@[simp] theorem State.setStack_holds (k : Nat) (x : Stack) : (s.setStack k x).holds = s.holds := rfl
@[simp] theorem State.setStack_holdsDue (k : Nat) (x : Stack) : (s.setStack k x).holdsDue = s.holdsDue := rfl
@[simp] theorem State.setStack_mismatches (k : Nat) (x : Stack) : (s.setStack k x).mismatches = s.mismatches := rfl
@[simp] theorem State.setStack_mismLost (k : Nat) (x : Stack) : (s.setStack k x).mismLost = s.mismLost := rfl
@[simp] theorem State.setStack_ctlFail (k : Nat) (x : Stack) : (s.setStack k x).ctlFail = s.ctlFail := rfl
@[simp] theorem State.setStack_ctxSel (k : Nat) (x : Stack) : (s.setStack k x).ctxSel = s.ctxSel := rfl
@[simp] theorem State.setStack_graphSel (k : Nat) (x : Stack) : (s.setStack k x).graphSel = s.graphSel := rfl
@[simp] theorem State.setStack_switchLast (k : Nat) (x : Stack) : (s.setStack k x).switchLast = s.switchLast := rfl
@[simp] theorem State.setStack_evl (k : Nat) (x : Stack) : (s.setStack k x).evl = s.evl := rfl
@[simp] theorem State.setStack_links (k : Nat) (x : Stack) : (s.setStack k x).links = s.links := rfl
@[simp] theorem State.setStack_ports (k : Nat) (x : Stack) : (s.setStack k x).ports = s.ports := rfl
@[simp] theorem State.setStack_cad (k : Nat) (x : Stack) : (s.setStack k x).cad = s.cad := rfl
@[simp] theorem State.setStack_pwr (k : Nat) (x : Stack) : (s.setStack k x).pwr = s.pwr := rfl
@[simp] theorem State.setStack_sec (k : Nat) (x : Stack) : (s.setStack k x).sec = s.sec := rfl
@[simp] theorem State.setStack_forn (k : Nat) (x : Stack) : (s.setStack k x).forn = s.forn := rfl
@[simp] theorem State.setStack_pages (k : Nat) (x : Stack) : (s.setStack k x).pages = s.pages := rfl
@[simp] theorem State.setStack_summary (k : Nat) (x : Stack) : (s.setStack k x).summary = s.summary := rfl
@[simp] theorem State.setStack_cycle (k : Nat) (x : Stack) : (s.setStack k x).cycle = s.cycle := rfl
@[simp] theorem State.setStack_us (k : Nat) (x : Stack) : (s.setStack k x).us = s.us := rfl
@[simp] theorem State.setStack_mgmt (k : Nat) (x : Stack) : (s.setStack k x).mgmt = s.mgmt := rfl
@[simp] theorem State.setStack_bulk (k : Nat) (x : Stack) : (s.setStack k x).bulk = s.bulk := rfl
@[simp] theorem State.setStack_smb (k : Nat) (x : Stack) : (s.setStack k x).smb = s.smb := rfl
@[simp] theorem State.setStack_snoop (k : Nat) (x : Stack) : (s.setStack k x).snoop = s.snoop := rfl
@[simp] theorem State.setStack_jtag (k : Nat) (x : Stack) : (s.setStack k x).jtag = s.jtag := rfl

/-! ### modStack -/

@[simp] theorem State.modStack_pending (k : Nat) (f : Stack → Stack) : (s.modStack k f).pending = s.pending := rfl
@[simp] theorem State.modStack_freeCtr (k : Nat) (f : Stack → Stack) : (s.modStack k f).freeCtr = s.freeCtr := rfl
@[simp] theorem State.modStack_boot (k : Nat) (f : Stack → Stack) : (s.modStack k f).boot = s.boot := rfl
@[simp] theorem State.modStack_pins (k : Nat) (f : Stack → Stack) : (s.modStack k f).pins = s.pins := rfl
@[simp] theorem State.modStack_fences (k : Nat) (f : Stack → Stack) : (s.modStack k f).fences = s.fences := rfl
@[simp] theorem State.modStack_tiles (k : Nat) (f : Stack → Stack) : (s.modStack k f).tiles = s.tiles := rfl
@[simp] theorem State.modStack_clusters (k : Nat) (f : Stack → Stack) : (s.modStack k f).clusters = s.clusters := rfl
@[simp] theorem State.modStack_regions (k : Nat) (f : Stack → Stack) : (s.modStack k f).regions = s.regions := rfl
@[simp] theorem State.modStack_dies (k : Nat) (f : Stack → Stack) : (s.modStack k f).dies = s.dies := rfl
@[simp] theorem State.modStack_granule (k : Nat) (f : Stack → Stack) : (s.modStack k f).granule = s.granule := rfl
@[simp] theorem State.modStack_hbm (k : Nat) (f : Stack → Stack) : (s.modStack k f).hbm = s.hbm := rfl
@[simp] theorem State.modStack_hbmQ (k : Nat) (f : Stack → Stack) : (s.modStack k f).hbmQ = s.hbmQ := rfl
@[simp] theorem State.modStack_hostMem (k : Nat) (f : Stack → Stack) : (s.modStack k f).hostMem = s.hostMem := rfl
@[simp] theorem State.modStack_ctxs (k : Nat) (f : Stack → Stack) : (s.modStack k f).ctxs = s.ctxs := rfl
@[simp] theorem State.modStack_graphs (k : Nat) (f : Stack → Stack) : (s.modStack k f).graphs = s.graphs := rfl
@[simp] theorem State.modStack_graphOrder (k : Nat) (f : Stack → Stack) : (s.modStack k f).graphOrder = s.graphOrder := rfl
@[simp] theorem State.modStack_buckets (k : Nat) (f : Stack → Stack) : (s.modStack k f).buckets = s.buckets := rfl
@[simp] theorem State.modStack_handoffs (k : Nat) (f : Stack → Stack) : (s.modStack k f).handoffs = s.handoffs := rfl
@[simp] theorem State.modStack_holds (k : Nat) (f : Stack → Stack) : (s.modStack k f).holds = s.holds := rfl
@[simp] theorem State.modStack_holdsDue (k : Nat) (f : Stack → Stack) : (s.modStack k f).holdsDue = s.holdsDue := rfl
@[simp] theorem State.modStack_mismatches (k : Nat) (f : Stack → Stack) : (s.modStack k f).mismatches = s.mismatches := rfl
@[simp] theorem State.modStack_mismLost (k : Nat) (f : Stack → Stack) : (s.modStack k f).mismLost = s.mismLost := rfl
@[simp] theorem State.modStack_ctlFail (k : Nat) (f : Stack → Stack) : (s.modStack k f).ctlFail = s.ctlFail := rfl
@[simp] theorem State.modStack_ctxSel (k : Nat) (f : Stack → Stack) : (s.modStack k f).ctxSel = s.ctxSel := rfl
@[simp] theorem State.modStack_graphSel (k : Nat) (f : Stack → Stack) : (s.modStack k f).graphSel = s.graphSel := rfl
@[simp] theorem State.modStack_switchLast (k : Nat) (f : Stack → Stack) : (s.modStack k f).switchLast = s.switchLast := rfl
@[simp] theorem State.modStack_evl (k : Nat) (f : Stack → Stack) : (s.modStack k f).evl = s.evl := rfl
@[simp] theorem State.modStack_links (k : Nat) (f : Stack → Stack) : (s.modStack k f).links = s.links := rfl
@[simp] theorem State.modStack_ports (k : Nat) (f : Stack → Stack) : (s.modStack k f).ports = s.ports := rfl
@[simp] theorem State.modStack_cad (k : Nat) (f : Stack → Stack) : (s.modStack k f).cad = s.cad := rfl
@[simp] theorem State.modStack_pwr (k : Nat) (f : Stack → Stack) : (s.modStack k f).pwr = s.pwr := rfl
@[simp] theorem State.modStack_sec (k : Nat) (f : Stack → Stack) : (s.modStack k f).sec = s.sec := rfl
@[simp] theorem State.modStack_forn (k : Nat) (f : Stack → Stack) : (s.modStack k f).forn = s.forn := rfl
@[simp] theorem State.modStack_pages (k : Nat) (f : Stack → Stack) : (s.modStack k f).pages = s.pages := rfl
@[simp] theorem State.modStack_summary (k : Nat) (f : Stack → Stack) : (s.modStack k f).summary = s.summary := rfl
@[simp] theorem State.modStack_cycle (k : Nat) (f : Stack → Stack) : (s.modStack k f).cycle = s.cycle := rfl
@[simp] theorem State.modStack_us (k : Nat) (f : Stack → Stack) : (s.modStack k f).us = s.us := rfl
@[simp] theorem State.modStack_mgmt (k : Nat) (f : Stack → Stack) : (s.modStack k f).mgmt = s.mgmt := rfl
@[simp] theorem State.modStack_bulk (k : Nat) (f : Stack → Stack) : (s.modStack k f).bulk = s.bulk := rfl
@[simp] theorem State.modStack_smb (k : Nat) (f : Stack → Stack) : (s.modStack k f).smb = s.smb := rfl
@[simp] theorem State.modStack_snoop (k : Nat) (f : Stack → Stack) : (s.modStack k f).snoop = s.snoop := rfl
@[simp] theorem State.modStack_jtag (k : Nat) (f : Stack → Stack) : (s.modStack k f).jtag = s.jtag := rfl

/-! ### setLink -/

@[simp] theorem State.setLink_pending (l : Nat) (x : Link) : (s.setLink l x).pending = s.pending := rfl
@[simp] theorem State.setLink_freeCtr (l : Nat) (x : Link) : (s.setLink l x).freeCtr = s.freeCtr := rfl
@[simp] theorem State.setLink_boot (l : Nat) (x : Link) : (s.setLink l x).boot = s.boot := rfl
@[simp] theorem State.setLink_pins (l : Nat) (x : Link) : (s.setLink l x).pins = s.pins := rfl
@[simp] theorem State.setLink_fences (l : Nat) (x : Link) : (s.setLink l x).fences = s.fences := rfl
@[simp] theorem State.setLink_tiles (l : Nat) (x : Link) : (s.setLink l x).tiles = s.tiles := rfl
@[simp] theorem State.setLink_clusters (l : Nat) (x : Link) : (s.setLink l x).clusters = s.clusters := rfl
@[simp] theorem State.setLink_regions (l : Nat) (x : Link) : (s.setLink l x).regions = s.regions := rfl
@[simp] theorem State.setLink_dies (l : Nat) (x : Link) : (s.setLink l x).dies = s.dies := rfl
@[simp] theorem State.setLink_granule (l : Nat) (x : Link) : (s.setLink l x).granule = s.granule := rfl
@[simp] theorem State.setLink_hbmStacks (l : Nat) (x : Link) : (s.setLink l x).hbmStacks = s.hbmStacks := rfl
@[simp] theorem State.setLink_hbm (l : Nat) (x : Link) : (s.setLink l x).hbm = s.hbm := rfl
@[simp] theorem State.setLink_hbmQ (l : Nat) (x : Link) : (s.setLink l x).hbmQ = s.hbmQ := rfl
@[simp] theorem State.setLink_hostMem (l : Nat) (x : Link) : (s.setLink l x).hostMem = s.hostMem := rfl
@[simp] theorem State.setLink_ctxs (l : Nat) (x : Link) : (s.setLink l x).ctxs = s.ctxs := rfl
@[simp] theorem State.setLink_graphs (l : Nat) (x : Link) : (s.setLink l x).graphs = s.graphs := rfl
@[simp] theorem State.setLink_graphOrder (l : Nat) (x : Link) : (s.setLink l x).graphOrder = s.graphOrder := rfl
@[simp] theorem State.setLink_buckets (l : Nat) (x : Link) : (s.setLink l x).buckets = s.buckets := rfl
@[simp] theorem State.setLink_handoffs (l : Nat) (x : Link) : (s.setLink l x).handoffs = s.handoffs := rfl
@[simp] theorem State.setLink_holds (l : Nat) (x : Link) : (s.setLink l x).holds = s.holds := rfl
@[simp] theorem State.setLink_holdsDue (l : Nat) (x : Link) : (s.setLink l x).holdsDue = s.holdsDue := rfl
@[simp] theorem State.setLink_mismatches (l : Nat) (x : Link) : (s.setLink l x).mismatches = s.mismatches := rfl
@[simp] theorem State.setLink_mismLost (l : Nat) (x : Link) : (s.setLink l x).mismLost = s.mismLost := rfl
@[simp] theorem State.setLink_ctlFail (l : Nat) (x : Link) : (s.setLink l x).ctlFail = s.ctlFail := rfl
@[simp] theorem State.setLink_ctxSel (l : Nat) (x : Link) : (s.setLink l x).ctxSel = s.ctxSel := rfl
@[simp] theorem State.setLink_graphSel (l : Nat) (x : Link) : (s.setLink l x).graphSel = s.graphSel := rfl
@[simp] theorem State.setLink_switchLast (l : Nat) (x : Link) : (s.setLink l x).switchLast = s.switchLast := rfl
@[simp] theorem State.setLink_evl (l : Nat) (x : Link) : (s.setLink l x).evl = s.evl := rfl
@[simp] theorem State.setLink_ports (l : Nat) (x : Link) : (s.setLink l x).ports = s.ports := rfl
@[simp] theorem State.setLink_cad (l : Nat) (x : Link) : (s.setLink l x).cad = s.cad := rfl
@[simp] theorem State.setLink_pwr (l : Nat) (x : Link) : (s.setLink l x).pwr = s.pwr := rfl
@[simp] theorem State.setLink_sec (l : Nat) (x : Link) : (s.setLink l x).sec = s.sec := rfl
@[simp] theorem State.setLink_forn (l : Nat) (x : Link) : (s.setLink l x).forn = s.forn := rfl
@[simp] theorem State.setLink_pages (l : Nat) (x : Link) : (s.setLink l x).pages = s.pages := rfl
@[simp] theorem State.setLink_summary (l : Nat) (x : Link) : (s.setLink l x).summary = s.summary := rfl
@[simp] theorem State.setLink_cycle (l : Nat) (x : Link) : (s.setLink l x).cycle = s.cycle := rfl
@[simp] theorem State.setLink_us (l : Nat) (x : Link) : (s.setLink l x).us = s.us := rfl
@[simp] theorem State.setLink_mgmt (l : Nat) (x : Link) : (s.setLink l x).mgmt = s.mgmt := rfl
@[simp] theorem State.setLink_bulk (l : Nat) (x : Link) : (s.setLink l x).bulk = s.bulk := rfl
@[simp] theorem State.setLink_smb (l : Nat) (x : Link) : (s.setLink l x).smb = s.smb := rfl
@[simp] theorem State.setLink_snoop (l : Nat) (x : Link) : (s.setLink l x).snoop = s.snoop := rfl
@[simp] theorem State.setLink_jtag (l : Nat) (x : Link) : (s.setLink l x).jtag = s.jtag := rfl

/-! ### modLink -/

@[simp] theorem State.modLink_pending (l : Nat) (f : Link → Link) : (s.modLink l f).pending = s.pending := rfl
@[simp] theorem State.modLink_freeCtr (l : Nat) (f : Link → Link) : (s.modLink l f).freeCtr = s.freeCtr := rfl
@[simp] theorem State.modLink_boot (l : Nat) (f : Link → Link) : (s.modLink l f).boot = s.boot := rfl
@[simp] theorem State.modLink_pins (l : Nat) (f : Link → Link) : (s.modLink l f).pins = s.pins := rfl
@[simp] theorem State.modLink_fences (l : Nat) (f : Link → Link) : (s.modLink l f).fences = s.fences := rfl
@[simp] theorem State.modLink_tiles (l : Nat) (f : Link → Link) : (s.modLink l f).tiles = s.tiles := rfl
@[simp] theorem State.modLink_clusters (l : Nat) (f : Link → Link) : (s.modLink l f).clusters = s.clusters := rfl
@[simp] theorem State.modLink_regions (l : Nat) (f : Link → Link) : (s.modLink l f).regions = s.regions := rfl
@[simp] theorem State.modLink_dies (l : Nat) (f : Link → Link) : (s.modLink l f).dies = s.dies := rfl
@[simp] theorem State.modLink_granule (l : Nat) (f : Link → Link) : (s.modLink l f).granule = s.granule := rfl
@[simp] theorem State.modLink_hbmStacks (l : Nat) (f : Link → Link) : (s.modLink l f).hbmStacks = s.hbmStacks := rfl
@[simp] theorem State.modLink_hbm (l : Nat) (f : Link → Link) : (s.modLink l f).hbm = s.hbm := rfl
@[simp] theorem State.modLink_hbmQ (l : Nat) (f : Link → Link) : (s.modLink l f).hbmQ = s.hbmQ := rfl
@[simp] theorem State.modLink_hostMem (l : Nat) (f : Link → Link) : (s.modLink l f).hostMem = s.hostMem := rfl
@[simp] theorem State.modLink_ctxs (l : Nat) (f : Link → Link) : (s.modLink l f).ctxs = s.ctxs := rfl
@[simp] theorem State.modLink_graphs (l : Nat) (f : Link → Link) : (s.modLink l f).graphs = s.graphs := rfl
@[simp] theorem State.modLink_graphOrder (l : Nat) (f : Link → Link) : (s.modLink l f).graphOrder = s.graphOrder := rfl
@[simp] theorem State.modLink_buckets (l : Nat) (f : Link → Link) : (s.modLink l f).buckets = s.buckets := rfl
@[simp] theorem State.modLink_handoffs (l : Nat) (f : Link → Link) : (s.modLink l f).handoffs = s.handoffs := rfl
@[simp] theorem State.modLink_holds (l : Nat) (f : Link → Link) : (s.modLink l f).holds = s.holds := rfl
@[simp] theorem State.modLink_holdsDue (l : Nat) (f : Link → Link) : (s.modLink l f).holdsDue = s.holdsDue := rfl
@[simp] theorem State.modLink_mismatches (l : Nat) (f : Link → Link) : (s.modLink l f).mismatches = s.mismatches := rfl
@[simp] theorem State.modLink_mismLost (l : Nat) (f : Link → Link) : (s.modLink l f).mismLost = s.mismLost := rfl
@[simp] theorem State.modLink_ctlFail (l : Nat) (f : Link → Link) : (s.modLink l f).ctlFail = s.ctlFail := rfl
@[simp] theorem State.modLink_ctxSel (l : Nat) (f : Link → Link) : (s.modLink l f).ctxSel = s.ctxSel := rfl
@[simp] theorem State.modLink_graphSel (l : Nat) (f : Link → Link) : (s.modLink l f).graphSel = s.graphSel := rfl
@[simp] theorem State.modLink_switchLast (l : Nat) (f : Link → Link) : (s.modLink l f).switchLast = s.switchLast := rfl
@[simp] theorem State.modLink_evl (l : Nat) (f : Link → Link) : (s.modLink l f).evl = s.evl := rfl
@[simp] theorem State.modLink_ports (l : Nat) (f : Link → Link) : (s.modLink l f).ports = s.ports := rfl
@[simp] theorem State.modLink_cad (l : Nat) (f : Link → Link) : (s.modLink l f).cad = s.cad := rfl
@[simp] theorem State.modLink_pwr (l : Nat) (f : Link → Link) : (s.modLink l f).pwr = s.pwr := rfl
@[simp] theorem State.modLink_sec (l : Nat) (f : Link → Link) : (s.modLink l f).sec = s.sec := rfl
@[simp] theorem State.modLink_forn (l : Nat) (f : Link → Link) : (s.modLink l f).forn = s.forn := rfl
@[simp] theorem State.modLink_pages (l : Nat) (f : Link → Link) : (s.modLink l f).pages = s.pages := rfl
@[simp] theorem State.modLink_summary (l : Nat) (f : Link → Link) : (s.modLink l f).summary = s.summary := rfl
@[simp] theorem State.modLink_cycle (l : Nat) (f : Link → Link) : (s.modLink l f).cycle = s.cycle := rfl
@[simp] theorem State.modLink_us (l : Nat) (f : Link → Link) : (s.modLink l f).us = s.us := rfl
@[simp] theorem State.modLink_mgmt (l : Nat) (f : Link → Link) : (s.modLink l f).mgmt = s.mgmt := rfl
@[simp] theorem State.modLink_bulk (l : Nat) (f : Link → Link) : (s.modLink l f).bulk = s.bulk := rfl
@[simp] theorem State.modLink_smb (l : Nat) (f : Link → Link) : (s.modLink l f).smb = s.smb := rfl
@[simp] theorem State.modLink_snoop (l : Nat) (f : Link → Link) : (s.modLink l f).snoop = s.snoop := rfl
@[simp] theorem State.modLink_jtag (l : Nat) (f : Link → Link) : (s.modLink l f).jtag = s.jtag := rfl

/-! ### modCluster -/

@[simp] theorem State.modCluster_pending (k : Nat) (f : Cluster → Cluster) : (s.modCluster k f).pending = s.pending := rfl
@[simp] theorem State.modCluster_freeCtr (k : Nat) (f : Cluster → Cluster) : (s.modCluster k f).freeCtr = s.freeCtr := rfl
@[simp] theorem State.modCluster_boot (k : Nat) (f : Cluster → Cluster) : (s.modCluster k f).boot = s.boot := rfl
@[simp] theorem State.modCluster_pins (k : Nat) (f : Cluster → Cluster) : (s.modCluster k f).pins = s.pins := rfl
@[simp] theorem State.modCluster_fences (k : Nat) (f : Cluster → Cluster) : (s.modCluster k f).fences = s.fences := rfl
@[simp] theorem State.modCluster_tiles (k : Nat) (f : Cluster → Cluster) : (s.modCluster k f).tiles = s.tiles := rfl
@[simp] theorem State.modCluster_regions (k : Nat) (f : Cluster → Cluster) : (s.modCluster k f).regions = s.regions := rfl
@[simp] theorem State.modCluster_dies (k : Nat) (f : Cluster → Cluster) : (s.modCluster k f).dies = s.dies := rfl
@[simp] theorem State.modCluster_granule (k : Nat) (f : Cluster → Cluster) : (s.modCluster k f).granule = s.granule := rfl
@[simp] theorem State.modCluster_hbmStacks (k : Nat) (f : Cluster → Cluster) : (s.modCluster k f).hbmStacks = s.hbmStacks := rfl
@[simp] theorem State.modCluster_hbm (k : Nat) (f : Cluster → Cluster) : (s.modCluster k f).hbm = s.hbm := rfl
@[simp] theorem State.modCluster_hbmQ (k : Nat) (f : Cluster → Cluster) : (s.modCluster k f).hbmQ = s.hbmQ := rfl
@[simp] theorem State.modCluster_hostMem (k : Nat) (f : Cluster → Cluster) : (s.modCluster k f).hostMem = s.hostMem := rfl
@[simp] theorem State.modCluster_ctxs (k : Nat) (f : Cluster → Cluster) : (s.modCluster k f).ctxs = s.ctxs := rfl
@[simp] theorem State.modCluster_graphs (k : Nat) (f : Cluster → Cluster) : (s.modCluster k f).graphs = s.graphs := rfl
@[simp] theorem State.modCluster_graphOrder (k : Nat) (f : Cluster → Cluster) : (s.modCluster k f).graphOrder = s.graphOrder := rfl
@[simp] theorem State.modCluster_buckets (k : Nat) (f : Cluster → Cluster) : (s.modCluster k f).buckets = s.buckets := rfl
@[simp] theorem State.modCluster_handoffs (k : Nat) (f : Cluster → Cluster) : (s.modCluster k f).handoffs = s.handoffs := rfl
@[simp] theorem State.modCluster_holds (k : Nat) (f : Cluster → Cluster) : (s.modCluster k f).holds = s.holds := rfl
@[simp] theorem State.modCluster_holdsDue (k : Nat) (f : Cluster → Cluster) : (s.modCluster k f).holdsDue = s.holdsDue := rfl
@[simp] theorem State.modCluster_mismatches (k : Nat) (f : Cluster → Cluster) : (s.modCluster k f).mismatches = s.mismatches := rfl
@[simp] theorem State.modCluster_mismLost (k : Nat) (f : Cluster → Cluster) : (s.modCluster k f).mismLost = s.mismLost := rfl
@[simp] theorem State.modCluster_ctlFail (k : Nat) (f : Cluster → Cluster) : (s.modCluster k f).ctlFail = s.ctlFail := rfl
@[simp] theorem State.modCluster_ctxSel (k : Nat) (f : Cluster → Cluster) : (s.modCluster k f).ctxSel = s.ctxSel := rfl
@[simp] theorem State.modCluster_graphSel (k : Nat) (f : Cluster → Cluster) : (s.modCluster k f).graphSel = s.graphSel := rfl
@[simp] theorem State.modCluster_switchLast (k : Nat) (f : Cluster → Cluster) : (s.modCluster k f).switchLast = s.switchLast := rfl
@[simp] theorem State.modCluster_evl (k : Nat) (f : Cluster → Cluster) : (s.modCluster k f).evl = s.evl := rfl
@[simp] theorem State.modCluster_links (k : Nat) (f : Cluster → Cluster) : (s.modCluster k f).links = s.links := rfl
@[simp] theorem State.modCluster_ports (k : Nat) (f : Cluster → Cluster) : (s.modCluster k f).ports = s.ports := rfl
@[simp] theorem State.modCluster_cad (k : Nat) (f : Cluster → Cluster) : (s.modCluster k f).cad = s.cad := rfl
@[simp] theorem State.modCluster_pwr (k : Nat) (f : Cluster → Cluster) : (s.modCluster k f).pwr = s.pwr := rfl
@[simp] theorem State.modCluster_sec (k : Nat) (f : Cluster → Cluster) : (s.modCluster k f).sec = s.sec := rfl
@[simp] theorem State.modCluster_forn (k : Nat) (f : Cluster → Cluster) : (s.modCluster k f).forn = s.forn := rfl
@[simp] theorem State.modCluster_pages (k : Nat) (f : Cluster → Cluster) : (s.modCluster k f).pages = s.pages := rfl
@[simp] theorem State.modCluster_summary (k : Nat) (f : Cluster → Cluster) : (s.modCluster k f).summary = s.summary := rfl
@[simp] theorem State.modCluster_cycle (k : Nat) (f : Cluster → Cluster) : (s.modCluster k f).cycle = s.cycle := rfl
@[simp] theorem State.modCluster_us (k : Nat) (f : Cluster → Cluster) : (s.modCluster k f).us = s.us := rfl
@[simp] theorem State.modCluster_mgmt (k : Nat) (f : Cluster → Cluster) : (s.modCluster k f).mgmt = s.mgmt := rfl
@[simp] theorem State.modCluster_bulk (k : Nat) (f : Cluster → Cluster) : (s.modCluster k f).bulk = s.bulk := rfl
@[simp] theorem State.modCluster_smb (k : Nat) (f : Cluster → Cluster) : (s.modCluster k f).smb = s.smb := rfl
@[simp] theorem State.modCluster_snoop (k : Nat) (f : Cluster → Cluster) : (s.modCluster k f).snoop = s.snoop := rfl
@[simp] theorem State.modCluster_jtag (k : Nat) (f : Cluster → Cluster) : (s.modCluster k f).jtag = s.jtag := rfl

/-! ### modDie -/

@[simp] theorem State.modDie_pending (d : Nat) (f : Die → Die) : (s.modDie d f).pending = s.pending := rfl
@[simp] theorem State.modDie_freeCtr (d : Nat) (f : Die → Die) : (s.modDie d f).freeCtr = s.freeCtr := rfl
@[simp] theorem State.modDie_boot (d : Nat) (f : Die → Die) : (s.modDie d f).boot = s.boot := rfl
@[simp] theorem State.modDie_pins (d : Nat) (f : Die → Die) : (s.modDie d f).pins = s.pins := rfl
@[simp] theorem State.modDie_fences (d : Nat) (f : Die → Die) : (s.modDie d f).fences = s.fences := rfl
@[simp] theorem State.modDie_tiles (d : Nat) (f : Die → Die) : (s.modDie d f).tiles = s.tiles := rfl
@[simp] theorem State.modDie_clusters (d : Nat) (f : Die → Die) : (s.modDie d f).clusters = s.clusters := rfl
@[simp] theorem State.modDie_regions (d : Nat) (f : Die → Die) : (s.modDie d f).regions = s.regions := rfl
@[simp] theorem State.modDie_granule (d : Nat) (f : Die → Die) : (s.modDie d f).granule = s.granule := rfl
@[simp] theorem State.modDie_hbmStacks (d : Nat) (f : Die → Die) : (s.modDie d f).hbmStacks = s.hbmStacks := rfl
@[simp] theorem State.modDie_hbm (d : Nat) (f : Die → Die) : (s.modDie d f).hbm = s.hbm := rfl
@[simp] theorem State.modDie_hbmQ (d : Nat) (f : Die → Die) : (s.modDie d f).hbmQ = s.hbmQ := rfl
@[simp] theorem State.modDie_hostMem (d : Nat) (f : Die → Die) : (s.modDie d f).hostMem = s.hostMem := rfl
@[simp] theorem State.modDie_ctxs (d : Nat) (f : Die → Die) : (s.modDie d f).ctxs = s.ctxs := rfl
@[simp] theorem State.modDie_graphs (d : Nat) (f : Die → Die) : (s.modDie d f).graphs = s.graphs := rfl
@[simp] theorem State.modDie_graphOrder (d : Nat) (f : Die → Die) : (s.modDie d f).graphOrder = s.graphOrder := rfl
@[simp] theorem State.modDie_buckets (d : Nat) (f : Die → Die) : (s.modDie d f).buckets = s.buckets := rfl
@[simp] theorem State.modDie_handoffs (d : Nat) (f : Die → Die) : (s.modDie d f).handoffs = s.handoffs := rfl
@[simp] theorem State.modDie_holds (d : Nat) (f : Die → Die) : (s.modDie d f).holds = s.holds := rfl
@[simp] theorem State.modDie_holdsDue (d : Nat) (f : Die → Die) : (s.modDie d f).holdsDue = s.holdsDue := rfl
@[simp] theorem State.modDie_mismatches (d : Nat) (f : Die → Die) : (s.modDie d f).mismatches = s.mismatches := rfl
@[simp] theorem State.modDie_mismLost (d : Nat) (f : Die → Die) : (s.modDie d f).mismLost = s.mismLost := rfl
@[simp] theorem State.modDie_ctlFail (d : Nat) (f : Die → Die) : (s.modDie d f).ctlFail = s.ctlFail := rfl
@[simp] theorem State.modDie_ctxSel (d : Nat) (f : Die → Die) : (s.modDie d f).ctxSel = s.ctxSel := rfl
@[simp] theorem State.modDie_graphSel (d : Nat) (f : Die → Die) : (s.modDie d f).graphSel = s.graphSel := rfl
@[simp] theorem State.modDie_switchLast (d : Nat) (f : Die → Die) : (s.modDie d f).switchLast = s.switchLast := rfl
@[simp] theorem State.modDie_evl (d : Nat) (f : Die → Die) : (s.modDie d f).evl = s.evl := rfl
@[simp] theorem State.modDie_links (d : Nat) (f : Die → Die) : (s.modDie d f).links = s.links := rfl
@[simp] theorem State.modDie_ports (d : Nat) (f : Die → Die) : (s.modDie d f).ports = s.ports := rfl
@[simp] theorem State.modDie_cad (d : Nat) (f : Die → Die) : (s.modDie d f).cad = s.cad := rfl
@[simp] theorem State.modDie_pwr (d : Nat) (f : Die → Die) : (s.modDie d f).pwr = s.pwr := rfl
@[simp] theorem State.modDie_sec (d : Nat) (f : Die → Die) : (s.modDie d f).sec = s.sec := rfl
@[simp] theorem State.modDie_forn (d : Nat) (f : Die → Die) : (s.modDie d f).forn = s.forn := rfl
@[simp] theorem State.modDie_pages (d : Nat) (f : Die → Die) : (s.modDie d f).pages = s.pages := rfl
@[simp] theorem State.modDie_summary (d : Nat) (f : Die → Die) : (s.modDie d f).summary = s.summary := rfl
@[simp] theorem State.modDie_cycle (d : Nat) (f : Die → Die) : (s.modDie d f).cycle = s.cycle := rfl
@[simp] theorem State.modDie_us (d : Nat) (f : Die → Die) : (s.modDie d f).us = s.us := rfl
@[simp] theorem State.modDie_mgmt (d : Nat) (f : Die → Die) : (s.modDie d f).mgmt = s.mgmt := rfl
@[simp] theorem State.modDie_bulk (d : Nat) (f : Die → Die) : (s.modDie d f).bulk = s.bulk := rfl
@[simp] theorem State.modDie_smb (d : Nat) (f : Die → Die) : (s.modDie d f).smb = s.smb := rfl
@[simp] theorem State.modDie_snoop (d : Nat) (f : Die → Die) : (s.modDie d f).snoop = s.snoop := rfl
@[simp] theorem State.modDie_jtag (d : Nat) (f : Die → Die) : (s.modDie d f).jtag = s.jtag := rfl

/-! ### modPage -/

@[simp] theorem State.modPage_pending (k : Nat) (f : Page → Page) : (s.modPage k f).pending = s.pending := rfl
@[simp] theorem State.modPage_freeCtr (k : Nat) (f : Page → Page) : (s.modPage k f).freeCtr = s.freeCtr := rfl
@[simp] theorem State.modPage_boot (k : Nat) (f : Page → Page) : (s.modPage k f).boot = s.boot := rfl
@[simp] theorem State.modPage_pins (k : Nat) (f : Page → Page) : (s.modPage k f).pins = s.pins := rfl
@[simp] theorem State.modPage_fences (k : Nat) (f : Page → Page) : (s.modPage k f).fences = s.fences := rfl
@[simp] theorem State.modPage_tiles (k : Nat) (f : Page → Page) : (s.modPage k f).tiles = s.tiles := rfl
@[simp] theorem State.modPage_clusters (k : Nat) (f : Page → Page) : (s.modPage k f).clusters = s.clusters := rfl
@[simp] theorem State.modPage_regions (k : Nat) (f : Page → Page) : (s.modPage k f).regions = s.regions := rfl
@[simp] theorem State.modPage_dies (k : Nat) (f : Page → Page) : (s.modPage k f).dies = s.dies := rfl
@[simp] theorem State.modPage_granule (k : Nat) (f : Page → Page) : (s.modPage k f).granule = s.granule := rfl
@[simp] theorem State.modPage_hbmStacks (k : Nat) (f : Page → Page) : (s.modPage k f).hbmStacks = s.hbmStacks := rfl
@[simp] theorem State.modPage_hbm (k : Nat) (f : Page → Page) : (s.modPage k f).hbm = s.hbm := rfl
@[simp] theorem State.modPage_hbmQ (k : Nat) (f : Page → Page) : (s.modPage k f).hbmQ = s.hbmQ := rfl
@[simp] theorem State.modPage_hostMem (k : Nat) (f : Page → Page) : (s.modPage k f).hostMem = s.hostMem := rfl
@[simp] theorem State.modPage_ctxs (k : Nat) (f : Page → Page) : (s.modPage k f).ctxs = s.ctxs := rfl
@[simp] theorem State.modPage_graphs (k : Nat) (f : Page → Page) : (s.modPage k f).graphs = s.graphs := rfl
@[simp] theorem State.modPage_graphOrder (k : Nat) (f : Page → Page) : (s.modPage k f).graphOrder = s.graphOrder := rfl
@[simp] theorem State.modPage_buckets (k : Nat) (f : Page → Page) : (s.modPage k f).buckets = s.buckets := rfl
@[simp] theorem State.modPage_handoffs (k : Nat) (f : Page → Page) : (s.modPage k f).handoffs = s.handoffs := rfl
@[simp] theorem State.modPage_holds (k : Nat) (f : Page → Page) : (s.modPage k f).holds = s.holds := rfl
@[simp] theorem State.modPage_holdsDue (k : Nat) (f : Page → Page) : (s.modPage k f).holdsDue = s.holdsDue := rfl
@[simp] theorem State.modPage_mismatches (k : Nat) (f : Page → Page) : (s.modPage k f).mismatches = s.mismatches := rfl
@[simp] theorem State.modPage_mismLost (k : Nat) (f : Page → Page) : (s.modPage k f).mismLost = s.mismLost := rfl
@[simp] theorem State.modPage_ctlFail (k : Nat) (f : Page → Page) : (s.modPage k f).ctlFail = s.ctlFail := rfl
@[simp] theorem State.modPage_ctxSel (k : Nat) (f : Page → Page) : (s.modPage k f).ctxSel = s.ctxSel := rfl
@[simp] theorem State.modPage_graphSel (k : Nat) (f : Page → Page) : (s.modPage k f).graphSel = s.graphSel := rfl
@[simp] theorem State.modPage_switchLast (k : Nat) (f : Page → Page) : (s.modPage k f).switchLast = s.switchLast := rfl
@[simp] theorem State.modPage_evl (k : Nat) (f : Page → Page) : (s.modPage k f).evl = s.evl := rfl
@[simp] theorem State.modPage_links (k : Nat) (f : Page → Page) : (s.modPage k f).links = s.links := rfl
@[simp] theorem State.modPage_ports (k : Nat) (f : Page → Page) : (s.modPage k f).ports = s.ports := rfl
@[simp] theorem State.modPage_cad (k : Nat) (f : Page → Page) : (s.modPage k f).cad = s.cad := rfl
@[simp] theorem State.modPage_pwr (k : Nat) (f : Page → Page) : (s.modPage k f).pwr = s.pwr := rfl
@[simp] theorem State.modPage_sec (k : Nat) (f : Page → Page) : (s.modPage k f).sec = s.sec := rfl
@[simp] theorem State.modPage_forn (k : Nat) (f : Page → Page) : (s.modPage k f).forn = s.forn := rfl
@[simp] theorem State.modPage_summary (k : Nat) (f : Page → Page) : (s.modPage k f).summary = s.summary := rfl
@[simp] theorem State.modPage_cycle (k : Nat) (f : Page → Page) : (s.modPage k f).cycle = s.cycle := rfl
@[simp] theorem State.modPage_us (k : Nat) (f : Page → Page) : (s.modPage k f).us = s.us := rfl
@[simp] theorem State.modPage_mgmt (k : Nat) (f : Page → Page) : (s.modPage k f).mgmt = s.mgmt := rfl
@[simp] theorem State.modPage_bulk (k : Nat) (f : Page → Page) : (s.modPage k f).bulk = s.bulk := rfl
@[simp] theorem State.modPage_smb (k : Nat) (f : Page → Page) : (s.modPage k f).smb = s.smb := rfl
@[simp] theorem State.modPage_snoop (k : Nat) (f : Page → Page) : (s.modPage k f).snoop = s.snoop := rfl
@[simp] theorem State.modPage_jtag (k : Nat) (f : Page → Page) : (s.modPage k f).jtag = s.jtag := rfl

/-! ### setBucket -/

@[simp] theorem State.setBucket_pending (b : Nat) (x : Bucket) : (s.setBucket b x).pending = s.pending := rfl
@[simp] theorem State.setBucket_freeCtr (b : Nat) (x : Bucket) : (s.setBucket b x).freeCtr = s.freeCtr := rfl
@[simp] theorem State.setBucket_boot (b : Nat) (x : Bucket) : (s.setBucket b x).boot = s.boot := rfl
@[simp] theorem State.setBucket_pins (b : Nat) (x : Bucket) : (s.setBucket b x).pins = s.pins := rfl
@[simp] theorem State.setBucket_fences (b : Nat) (x : Bucket) : (s.setBucket b x).fences = s.fences := rfl
@[simp] theorem State.setBucket_tiles (b : Nat) (x : Bucket) : (s.setBucket b x).tiles = s.tiles := rfl
@[simp] theorem State.setBucket_clusters (b : Nat) (x : Bucket) : (s.setBucket b x).clusters = s.clusters := rfl
@[simp] theorem State.setBucket_regions (b : Nat) (x : Bucket) : (s.setBucket b x).regions = s.regions := rfl
@[simp] theorem State.setBucket_dies (b : Nat) (x : Bucket) : (s.setBucket b x).dies = s.dies := rfl
@[simp] theorem State.setBucket_granule (b : Nat) (x : Bucket) : (s.setBucket b x).granule = s.granule := rfl
@[simp] theorem State.setBucket_hbmStacks (b : Nat) (x : Bucket) : (s.setBucket b x).hbmStacks = s.hbmStacks := rfl
@[simp] theorem State.setBucket_hbm (b : Nat) (x : Bucket) : (s.setBucket b x).hbm = s.hbm := rfl
@[simp] theorem State.setBucket_hbmQ (b : Nat) (x : Bucket) : (s.setBucket b x).hbmQ = s.hbmQ := rfl
@[simp] theorem State.setBucket_hostMem (b : Nat) (x : Bucket) : (s.setBucket b x).hostMem = s.hostMem := rfl
@[simp] theorem State.setBucket_ctxs (b : Nat) (x : Bucket) : (s.setBucket b x).ctxs = s.ctxs := rfl
@[simp] theorem State.setBucket_graphs (b : Nat) (x : Bucket) : (s.setBucket b x).graphs = s.graphs := rfl
@[simp] theorem State.setBucket_graphOrder (b : Nat) (x : Bucket) : (s.setBucket b x).graphOrder = s.graphOrder := rfl
@[simp] theorem State.setBucket_handoffs (b : Nat) (x : Bucket) : (s.setBucket b x).handoffs = s.handoffs := rfl
@[simp] theorem State.setBucket_holds (b : Nat) (x : Bucket) : (s.setBucket b x).holds = s.holds := rfl
@[simp] theorem State.setBucket_holdsDue (b : Nat) (x : Bucket) : (s.setBucket b x).holdsDue = s.holdsDue := rfl
@[simp] theorem State.setBucket_mismatches (b : Nat) (x : Bucket) : (s.setBucket b x).mismatches = s.mismatches := rfl
@[simp] theorem State.setBucket_mismLost (b : Nat) (x : Bucket) : (s.setBucket b x).mismLost = s.mismLost := rfl
@[simp] theorem State.setBucket_ctlFail (b : Nat) (x : Bucket) : (s.setBucket b x).ctlFail = s.ctlFail := rfl
@[simp] theorem State.setBucket_ctxSel (b : Nat) (x : Bucket) : (s.setBucket b x).ctxSel = s.ctxSel := rfl
@[simp] theorem State.setBucket_graphSel (b : Nat) (x : Bucket) : (s.setBucket b x).graphSel = s.graphSel := rfl
@[simp] theorem State.setBucket_switchLast (b : Nat) (x : Bucket) : (s.setBucket b x).switchLast = s.switchLast := rfl
@[simp] theorem State.setBucket_evl (b : Nat) (x : Bucket) : (s.setBucket b x).evl = s.evl := rfl
@[simp] theorem State.setBucket_links (b : Nat) (x : Bucket) : (s.setBucket b x).links = s.links := rfl
@[simp] theorem State.setBucket_ports (b : Nat) (x : Bucket) : (s.setBucket b x).ports = s.ports := rfl
@[simp] theorem State.setBucket_cad (b : Nat) (x : Bucket) : (s.setBucket b x).cad = s.cad := rfl
@[simp] theorem State.setBucket_pwr (b : Nat) (x : Bucket) : (s.setBucket b x).pwr = s.pwr := rfl
@[simp] theorem State.setBucket_sec (b : Nat) (x : Bucket) : (s.setBucket b x).sec = s.sec := rfl
@[simp] theorem State.setBucket_forn (b : Nat) (x : Bucket) : (s.setBucket b x).forn = s.forn := rfl
@[simp] theorem State.setBucket_pages (b : Nat) (x : Bucket) : (s.setBucket b x).pages = s.pages := rfl
@[simp] theorem State.setBucket_summary (b : Nat) (x : Bucket) : (s.setBucket b x).summary = s.summary := rfl
@[simp] theorem State.setBucket_cycle (b : Nat) (x : Bucket) : (s.setBucket b x).cycle = s.cycle := rfl
@[simp] theorem State.setBucket_us (b : Nat) (x : Bucket) : (s.setBucket b x).us = s.us := rfl
@[simp] theorem State.setBucket_mgmt (b : Nat) (x : Bucket) : (s.setBucket b x).mgmt = s.mgmt := rfl
@[simp] theorem State.setBucket_bulk (b : Nat) (x : Bucket) : (s.setBucket b x).bulk = s.bulk := rfl
@[simp] theorem State.setBucket_smb (b : Nat) (x : Bucket) : (s.setBucket b x).smb = s.smb := rfl
@[simp] theorem State.setBucket_snoop (b : Nat) (x : Bucket) : (s.setBucket b x).snoop = s.snoop := rfl
@[simp] theorem State.setBucket_jtag (b : Nat) (x : Bucket) : (s.setBucket b x).jtag = s.jtag := rfl

/-! ### modBucket -/

@[simp] theorem State.modBucket_pending (b : Nat) (f : Bucket → Bucket) : (s.modBucket b f).pending = s.pending := by
  unfold State.modBucket
  split <;> rfl
@[simp] theorem State.modBucket_freeCtr (b : Nat) (f : Bucket → Bucket) : (s.modBucket b f).freeCtr = s.freeCtr := by
  unfold State.modBucket
  split <;> rfl
@[simp] theorem State.modBucket_boot (b : Nat) (f : Bucket → Bucket) : (s.modBucket b f).boot = s.boot := by
  unfold State.modBucket
  split <;> rfl
@[simp] theorem State.modBucket_pins (b : Nat) (f : Bucket → Bucket) : (s.modBucket b f).pins = s.pins := by
  unfold State.modBucket
  split <;> rfl
@[simp] theorem State.modBucket_fences (b : Nat) (f : Bucket → Bucket) : (s.modBucket b f).fences = s.fences := by
  unfold State.modBucket
  split <;> rfl
@[simp] theorem State.modBucket_tiles (b : Nat) (f : Bucket → Bucket) : (s.modBucket b f).tiles = s.tiles := by
  unfold State.modBucket
  split <;> rfl
@[simp] theorem State.modBucket_clusters (b : Nat) (f : Bucket → Bucket) : (s.modBucket b f).clusters = s.clusters := by
  unfold State.modBucket
  split <;> rfl
@[simp] theorem State.modBucket_regions (b : Nat) (f : Bucket → Bucket) : (s.modBucket b f).regions = s.regions := by
  unfold State.modBucket
  split <;> rfl
@[simp] theorem State.modBucket_dies (b : Nat) (f : Bucket → Bucket) : (s.modBucket b f).dies = s.dies := by
  unfold State.modBucket
  split <;> rfl
@[simp] theorem State.modBucket_granule (b : Nat) (f : Bucket → Bucket) : (s.modBucket b f).granule = s.granule := by
  unfold State.modBucket
  split <;> rfl
@[simp] theorem State.modBucket_hbmStacks (b : Nat) (f : Bucket → Bucket) : (s.modBucket b f).hbmStacks = s.hbmStacks := by
  unfold State.modBucket
  split <;> rfl
@[simp] theorem State.modBucket_hbm (b : Nat) (f : Bucket → Bucket) : (s.modBucket b f).hbm = s.hbm := by
  unfold State.modBucket
  split <;> rfl
@[simp] theorem State.modBucket_hbmQ (b : Nat) (f : Bucket → Bucket) : (s.modBucket b f).hbmQ = s.hbmQ := by
  unfold State.modBucket
  split <;> rfl
@[simp] theorem State.modBucket_hostMem (b : Nat) (f : Bucket → Bucket) : (s.modBucket b f).hostMem = s.hostMem := by
  unfold State.modBucket
  split <;> rfl
@[simp] theorem State.modBucket_ctxs (b : Nat) (f : Bucket → Bucket) : (s.modBucket b f).ctxs = s.ctxs := by
  unfold State.modBucket
  split <;> rfl
@[simp] theorem State.modBucket_graphs (b : Nat) (f : Bucket → Bucket) : (s.modBucket b f).graphs = s.graphs := by
  unfold State.modBucket
  split <;> rfl
@[simp] theorem State.modBucket_graphOrder (b : Nat) (f : Bucket → Bucket) : (s.modBucket b f).graphOrder = s.graphOrder := by
  unfold State.modBucket
  split <;> rfl
@[simp] theorem State.modBucket_handoffs (b : Nat) (f : Bucket → Bucket) : (s.modBucket b f).handoffs = s.handoffs := by
  unfold State.modBucket
  split <;> rfl
@[simp] theorem State.modBucket_holds (b : Nat) (f : Bucket → Bucket) : (s.modBucket b f).holds = s.holds := by
  unfold State.modBucket
  split <;> rfl
@[simp] theorem State.modBucket_holdsDue (b : Nat) (f : Bucket → Bucket) : (s.modBucket b f).holdsDue = s.holdsDue := by
  unfold State.modBucket
  split <;> rfl
@[simp] theorem State.modBucket_mismatches (b : Nat) (f : Bucket → Bucket) : (s.modBucket b f).mismatches = s.mismatches := by
  unfold State.modBucket
  split <;> rfl
@[simp] theorem State.modBucket_mismLost (b : Nat) (f : Bucket → Bucket) : (s.modBucket b f).mismLost = s.mismLost := by
  unfold State.modBucket
  split <;> rfl
@[simp] theorem State.modBucket_ctlFail (b : Nat) (f : Bucket → Bucket) : (s.modBucket b f).ctlFail = s.ctlFail := by
  unfold State.modBucket
  split <;> rfl
@[simp] theorem State.modBucket_ctxSel (b : Nat) (f : Bucket → Bucket) : (s.modBucket b f).ctxSel = s.ctxSel := by
  unfold State.modBucket
  split <;> rfl
@[simp] theorem State.modBucket_graphSel (b : Nat) (f : Bucket → Bucket) : (s.modBucket b f).graphSel = s.graphSel := by
  unfold State.modBucket
  split <;> rfl
@[simp] theorem State.modBucket_switchLast (b : Nat) (f : Bucket → Bucket) : (s.modBucket b f).switchLast = s.switchLast := by
  unfold State.modBucket
  split <;> rfl
@[simp] theorem State.modBucket_evl (b : Nat) (f : Bucket → Bucket) : (s.modBucket b f).evl = s.evl := by
  unfold State.modBucket
  split <;> rfl
@[simp] theorem State.modBucket_links (b : Nat) (f : Bucket → Bucket) : (s.modBucket b f).links = s.links := by
  unfold State.modBucket
  split <;> rfl
@[simp] theorem State.modBucket_ports (b : Nat) (f : Bucket → Bucket) : (s.modBucket b f).ports = s.ports := by
  unfold State.modBucket
  split <;> rfl
@[simp] theorem State.modBucket_cad (b : Nat) (f : Bucket → Bucket) : (s.modBucket b f).cad = s.cad := by
  unfold State.modBucket
  split <;> rfl
@[simp] theorem State.modBucket_pwr (b : Nat) (f : Bucket → Bucket) : (s.modBucket b f).pwr = s.pwr := by
  unfold State.modBucket
  split <;> rfl
@[simp] theorem State.modBucket_sec (b : Nat) (f : Bucket → Bucket) : (s.modBucket b f).sec = s.sec := by
  unfold State.modBucket
  split <;> rfl
@[simp] theorem State.modBucket_forn (b : Nat) (f : Bucket → Bucket) : (s.modBucket b f).forn = s.forn := by
  unfold State.modBucket
  split <;> rfl
@[simp] theorem State.modBucket_pages (b : Nat) (f : Bucket → Bucket) : (s.modBucket b f).pages = s.pages := by
  unfold State.modBucket
  split <;> rfl
@[simp] theorem State.modBucket_summary (b : Nat) (f : Bucket → Bucket) : (s.modBucket b f).summary = s.summary := by
  unfold State.modBucket
  split <;> rfl
@[simp] theorem State.modBucket_cycle (b : Nat) (f : Bucket → Bucket) : (s.modBucket b f).cycle = s.cycle := by
  unfold State.modBucket
  split <;> rfl
@[simp] theorem State.modBucket_us (b : Nat) (f : Bucket → Bucket) : (s.modBucket b f).us = s.us := by
  unfold State.modBucket
  split <;> rfl
@[simp] theorem State.modBucket_mgmt (b : Nat) (f : Bucket → Bucket) : (s.modBucket b f).mgmt = s.mgmt := by
  unfold State.modBucket
  split <;> rfl
@[simp] theorem State.modBucket_bulk (b : Nat) (f : Bucket → Bucket) : (s.modBucket b f).bulk = s.bulk := by
  unfold State.modBucket
  split <;> rfl
@[simp] theorem State.modBucket_smb (b : Nat) (f : Bucket → Bucket) : (s.modBucket b f).smb = s.smb := by
  unfold State.modBucket
  split <;> rfl
@[simp] theorem State.modBucket_snoop (b : Nat) (f : Bucket → Bucket) : (s.modBucket b f).snoop = s.snoop := by
  unfold State.modBucket
  split <;> rfl
@[simp] theorem State.modBucket_jtag (b : Nat) (f : Bucket → Bucket) : (s.modBucket b f).jtag = s.jtag := by
  unfold State.modBucket
  split <;> rfl

/-! ### modGraph -/

@[simp] theorem State.modGraph_pending (g : Nat) (f : Graph → Graph) : (s.modGraph g f).pending = s.pending := rfl
@[simp] theorem State.modGraph_freeCtr (g : Nat) (f : Graph → Graph) : (s.modGraph g f).freeCtr = s.freeCtr := rfl
@[simp] theorem State.modGraph_boot (g : Nat) (f : Graph → Graph) : (s.modGraph g f).boot = s.boot := rfl
@[simp] theorem State.modGraph_pins (g : Nat) (f : Graph → Graph) : (s.modGraph g f).pins = s.pins := rfl
@[simp] theorem State.modGraph_fences (g : Nat) (f : Graph → Graph) : (s.modGraph g f).fences = s.fences := rfl
@[simp] theorem State.modGraph_tiles (g : Nat) (f : Graph → Graph) : (s.modGraph g f).tiles = s.tiles := rfl
@[simp] theorem State.modGraph_clusters (g : Nat) (f : Graph → Graph) : (s.modGraph g f).clusters = s.clusters := rfl
@[simp] theorem State.modGraph_regions (g : Nat) (f : Graph → Graph) : (s.modGraph g f).regions = s.regions := rfl
@[simp] theorem State.modGraph_dies (g : Nat) (f : Graph → Graph) : (s.modGraph g f).dies = s.dies := rfl
@[simp] theorem State.modGraph_granule (g : Nat) (f : Graph → Graph) : (s.modGraph g f).granule = s.granule := rfl
@[simp] theorem State.modGraph_hbmStacks (g : Nat) (f : Graph → Graph) : (s.modGraph g f).hbmStacks = s.hbmStacks := rfl
@[simp] theorem State.modGraph_hbm (g : Nat) (f : Graph → Graph) : (s.modGraph g f).hbm = s.hbm := rfl
@[simp] theorem State.modGraph_hbmQ (g : Nat) (f : Graph → Graph) : (s.modGraph g f).hbmQ = s.hbmQ := rfl
@[simp] theorem State.modGraph_hostMem (g : Nat) (f : Graph → Graph) : (s.modGraph g f).hostMem = s.hostMem := rfl
@[simp] theorem State.modGraph_ctxs (g : Nat) (f : Graph → Graph) : (s.modGraph g f).ctxs = s.ctxs := rfl
@[simp] theorem State.modGraph_graphOrder (g : Nat) (f : Graph → Graph) : (s.modGraph g f).graphOrder = s.graphOrder := rfl
@[simp] theorem State.modGraph_buckets (g : Nat) (f : Graph → Graph) : (s.modGraph g f).buckets = s.buckets := rfl
@[simp] theorem State.modGraph_handoffs (g : Nat) (f : Graph → Graph) : (s.modGraph g f).handoffs = s.handoffs := rfl
@[simp] theorem State.modGraph_holds (g : Nat) (f : Graph → Graph) : (s.modGraph g f).holds = s.holds := rfl
@[simp] theorem State.modGraph_holdsDue (g : Nat) (f : Graph → Graph) : (s.modGraph g f).holdsDue = s.holdsDue := rfl
@[simp] theorem State.modGraph_mismatches (g : Nat) (f : Graph → Graph) : (s.modGraph g f).mismatches = s.mismatches := rfl
@[simp] theorem State.modGraph_mismLost (g : Nat) (f : Graph → Graph) : (s.modGraph g f).mismLost = s.mismLost := rfl
@[simp] theorem State.modGraph_ctlFail (g : Nat) (f : Graph → Graph) : (s.modGraph g f).ctlFail = s.ctlFail := rfl
@[simp] theorem State.modGraph_ctxSel (g : Nat) (f : Graph → Graph) : (s.modGraph g f).ctxSel = s.ctxSel := rfl
@[simp] theorem State.modGraph_graphSel (g : Nat) (f : Graph → Graph) : (s.modGraph g f).graphSel = s.graphSel := rfl
@[simp] theorem State.modGraph_switchLast (g : Nat) (f : Graph → Graph) : (s.modGraph g f).switchLast = s.switchLast := rfl
@[simp] theorem State.modGraph_evl (g : Nat) (f : Graph → Graph) : (s.modGraph g f).evl = s.evl := rfl
@[simp] theorem State.modGraph_links (g : Nat) (f : Graph → Graph) : (s.modGraph g f).links = s.links := rfl
@[simp] theorem State.modGraph_ports (g : Nat) (f : Graph → Graph) : (s.modGraph g f).ports = s.ports := rfl
@[simp] theorem State.modGraph_cad (g : Nat) (f : Graph → Graph) : (s.modGraph g f).cad = s.cad := rfl
@[simp] theorem State.modGraph_pwr (g : Nat) (f : Graph → Graph) : (s.modGraph g f).pwr = s.pwr := rfl
@[simp] theorem State.modGraph_sec (g : Nat) (f : Graph → Graph) : (s.modGraph g f).sec = s.sec := rfl
@[simp] theorem State.modGraph_forn (g : Nat) (f : Graph → Graph) : (s.modGraph g f).forn = s.forn := rfl
@[simp] theorem State.modGraph_pages (g : Nat) (f : Graph → Graph) : (s.modGraph g f).pages = s.pages := rfl
@[simp] theorem State.modGraph_summary (g : Nat) (f : Graph → Graph) : (s.modGraph g f).summary = s.summary := rfl
@[simp] theorem State.modGraph_cycle (g : Nat) (f : Graph → Graph) : (s.modGraph g f).cycle = s.cycle := rfl
@[simp] theorem State.modGraph_us (g : Nat) (f : Graph → Graph) : (s.modGraph g f).us = s.us := rfl
@[simp] theorem State.modGraph_mgmt (g : Nat) (f : Graph → Graph) : (s.modGraph g f).mgmt = s.mgmt := rfl
@[simp] theorem State.modGraph_bulk (g : Nat) (f : Graph → Graph) : (s.modGraph g f).bulk = s.bulk := rfl
@[simp] theorem State.modGraph_smb (g : Nat) (f : Graph → Graph) : (s.modGraph g f).smb = s.smb := rfl
@[simp] theorem State.modGraph_snoop (g : Nat) (f : Graph → Graph) : (s.modGraph g f).snoop = s.snoop := rfl
@[simp] theorem State.modGraph_jtag (g : Nat) (f : Graph → Graph) : (s.modGraph g f).jtag = s.jtag := rfl

/-! ### modRing -/

@[simp] theorem State.modRing_pending (r : Nat) (f : Ring → Ring) : (s.modRing r f).pending = s.pending := rfl
@[simp] theorem State.modRing_freeCtr (r : Nat) (f : Ring → Ring) : (s.modRing r f).freeCtr = s.freeCtr := rfl
@[simp] theorem State.modRing_boot (r : Nat) (f : Ring → Ring) : (s.modRing r f).boot = s.boot := rfl
@[simp] theorem State.modRing_pins (r : Nat) (f : Ring → Ring) : (s.modRing r f).pins = s.pins := rfl
@[simp] theorem State.modRing_fences (r : Nat) (f : Ring → Ring) : (s.modRing r f).fences = s.fences := rfl
@[simp] theorem State.modRing_tiles (r : Nat) (f : Ring → Ring) : (s.modRing r f).tiles = s.tiles := rfl
@[simp] theorem State.modRing_clusters (r : Nat) (f : Ring → Ring) : (s.modRing r f).clusters = s.clusters := rfl
@[simp] theorem State.modRing_regions (r : Nat) (f : Ring → Ring) : (s.modRing r f).regions = s.regions := rfl
@[simp] theorem State.modRing_dies (r : Nat) (f : Ring → Ring) : (s.modRing r f).dies = s.dies := rfl
@[simp] theorem State.modRing_granule (r : Nat) (f : Ring → Ring) : (s.modRing r f).granule = s.granule := rfl
@[simp] theorem State.modRing_hbmStacks (r : Nat) (f : Ring → Ring) : (s.modRing r f).hbmStacks = s.hbmStacks := rfl
@[simp] theorem State.modRing_hbm (r : Nat) (f : Ring → Ring) : (s.modRing r f).hbm = s.hbm := rfl
@[simp] theorem State.modRing_hbmQ (r : Nat) (f : Ring → Ring) : (s.modRing r f).hbmQ = s.hbmQ := rfl
@[simp] theorem State.modRing_hostMem (r : Nat) (f : Ring → Ring) : (s.modRing r f).hostMem = s.hostMem := rfl
@[simp] theorem State.modRing_ctxs (r : Nat) (f : Ring → Ring) : (s.modRing r f).ctxs = s.ctxs := rfl
@[simp] theorem State.modRing_graphs (r : Nat) (f : Ring → Ring) : (s.modRing r f).graphs = s.graphs := rfl
@[simp] theorem State.modRing_graphOrder (r : Nat) (f : Ring → Ring) : (s.modRing r f).graphOrder = s.graphOrder := rfl
@[simp] theorem State.modRing_buckets (r : Nat) (f : Ring → Ring) : (s.modRing r f).buckets = s.buckets := rfl
@[simp] theorem State.modRing_handoffs (r : Nat) (f : Ring → Ring) : (s.modRing r f).handoffs = s.handoffs := rfl
@[simp] theorem State.modRing_holds (r : Nat) (f : Ring → Ring) : (s.modRing r f).holds = s.holds := rfl
@[simp] theorem State.modRing_holdsDue (r : Nat) (f : Ring → Ring) : (s.modRing r f).holdsDue = s.holdsDue := rfl
@[simp] theorem State.modRing_mismatches (r : Nat) (f : Ring → Ring) : (s.modRing r f).mismatches = s.mismatches := rfl
@[simp] theorem State.modRing_mismLost (r : Nat) (f : Ring → Ring) : (s.modRing r f).mismLost = s.mismLost := rfl
@[simp] theorem State.modRing_ctlFail (r : Nat) (f : Ring → Ring) : (s.modRing r f).ctlFail = s.ctlFail := rfl
@[simp] theorem State.modRing_ctxSel (r : Nat) (f : Ring → Ring) : (s.modRing r f).ctxSel = s.ctxSel := rfl
@[simp] theorem State.modRing_graphSel (r : Nat) (f : Ring → Ring) : (s.modRing r f).graphSel = s.graphSel := rfl
@[simp] theorem State.modRing_switchLast (r : Nat) (f : Ring → Ring) : (s.modRing r f).switchLast = s.switchLast := rfl
@[simp] theorem State.modRing_links (r : Nat) (f : Ring → Ring) : (s.modRing r f).links = s.links := rfl
@[simp] theorem State.modRing_ports (r : Nat) (f : Ring → Ring) : (s.modRing r f).ports = s.ports := rfl
@[simp] theorem State.modRing_cad (r : Nat) (f : Ring → Ring) : (s.modRing r f).cad = s.cad := rfl
@[simp] theorem State.modRing_pwr (r : Nat) (f : Ring → Ring) : (s.modRing r f).pwr = s.pwr := rfl
@[simp] theorem State.modRing_sec (r : Nat) (f : Ring → Ring) : (s.modRing r f).sec = s.sec := rfl
@[simp] theorem State.modRing_forn (r : Nat) (f : Ring → Ring) : (s.modRing r f).forn = s.forn := rfl
@[simp] theorem State.modRing_pages (r : Nat) (f : Ring → Ring) : (s.modRing r f).pages = s.pages := rfl
@[simp] theorem State.modRing_summary (r : Nat) (f : Ring → Ring) : (s.modRing r f).summary = s.summary := rfl
@[simp] theorem State.modRing_cycle (r : Nat) (f : Ring → Ring) : (s.modRing r f).cycle = s.cycle := rfl
@[simp] theorem State.modRing_us (r : Nat) (f : Ring → Ring) : (s.modRing r f).us = s.us := rfl
@[simp] theorem State.modRing_mgmt (r : Nat) (f : Ring → Ring) : (s.modRing r f).mgmt = s.mgmt := rfl
@[simp] theorem State.modRing_bulk (r : Nat) (f : Ring → Ring) : (s.modRing r f).bulk = s.bulk := rfl
@[simp] theorem State.modRing_smb (r : Nat) (f : Ring → Ring) : (s.modRing r f).smb = s.smb := rfl
@[simp] theorem State.modRing_snoop (r : Nat) (f : Ring → Ring) : (s.modRing r f).snoop = s.snoop := rfl
@[simp] theorem State.modRing_jtag (r : Nat) (f : Ring → Ring) : (s.modRing r f).jtag = s.jtag := rfl

/-! ### modPort -/

@[simp] theorem State.modPort_pending (p : Nat) (f : CordPort → CordPort) : (s.modPort p f).pending = s.pending := rfl
@[simp] theorem State.modPort_freeCtr (p : Nat) (f : CordPort → CordPort) : (s.modPort p f).freeCtr = s.freeCtr := rfl
@[simp] theorem State.modPort_boot (p : Nat) (f : CordPort → CordPort) : (s.modPort p f).boot = s.boot := rfl
@[simp] theorem State.modPort_pins (p : Nat) (f : CordPort → CordPort) : (s.modPort p f).pins = s.pins := rfl
@[simp] theorem State.modPort_fences (p : Nat) (f : CordPort → CordPort) : (s.modPort p f).fences = s.fences := rfl
@[simp] theorem State.modPort_tiles (p : Nat) (f : CordPort → CordPort) : (s.modPort p f).tiles = s.tiles := rfl
@[simp] theorem State.modPort_clusters (p : Nat) (f : CordPort → CordPort) : (s.modPort p f).clusters = s.clusters := rfl
@[simp] theorem State.modPort_regions (p : Nat) (f : CordPort → CordPort) : (s.modPort p f).regions = s.regions := rfl
@[simp] theorem State.modPort_dies (p : Nat) (f : CordPort → CordPort) : (s.modPort p f).dies = s.dies := rfl
@[simp] theorem State.modPort_granule (p : Nat) (f : CordPort → CordPort) : (s.modPort p f).granule = s.granule := rfl
@[simp] theorem State.modPort_hbmStacks (p : Nat) (f : CordPort → CordPort) : (s.modPort p f).hbmStacks = s.hbmStacks := rfl
@[simp] theorem State.modPort_hbm (p : Nat) (f : CordPort → CordPort) : (s.modPort p f).hbm = s.hbm := rfl
@[simp] theorem State.modPort_hbmQ (p : Nat) (f : CordPort → CordPort) : (s.modPort p f).hbmQ = s.hbmQ := rfl
@[simp] theorem State.modPort_hostMem (p : Nat) (f : CordPort → CordPort) : (s.modPort p f).hostMem = s.hostMem := rfl
@[simp] theorem State.modPort_ctxs (p : Nat) (f : CordPort → CordPort) : (s.modPort p f).ctxs = s.ctxs := rfl
@[simp] theorem State.modPort_graphs (p : Nat) (f : CordPort → CordPort) : (s.modPort p f).graphs = s.graphs := rfl
@[simp] theorem State.modPort_graphOrder (p : Nat) (f : CordPort → CordPort) : (s.modPort p f).graphOrder = s.graphOrder := rfl
@[simp] theorem State.modPort_buckets (p : Nat) (f : CordPort → CordPort) : (s.modPort p f).buckets = s.buckets := rfl
@[simp] theorem State.modPort_handoffs (p : Nat) (f : CordPort → CordPort) : (s.modPort p f).handoffs = s.handoffs := rfl
@[simp] theorem State.modPort_holds (p : Nat) (f : CordPort → CordPort) : (s.modPort p f).holds = s.holds := rfl
@[simp] theorem State.modPort_holdsDue (p : Nat) (f : CordPort → CordPort) : (s.modPort p f).holdsDue = s.holdsDue := rfl
@[simp] theorem State.modPort_mismatches (p : Nat) (f : CordPort → CordPort) : (s.modPort p f).mismatches = s.mismatches := rfl
@[simp] theorem State.modPort_mismLost (p : Nat) (f : CordPort → CordPort) : (s.modPort p f).mismLost = s.mismLost := rfl
@[simp] theorem State.modPort_ctlFail (p : Nat) (f : CordPort → CordPort) : (s.modPort p f).ctlFail = s.ctlFail := rfl
@[simp] theorem State.modPort_ctxSel (p : Nat) (f : CordPort → CordPort) : (s.modPort p f).ctxSel = s.ctxSel := rfl
@[simp] theorem State.modPort_graphSel (p : Nat) (f : CordPort → CordPort) : (s.modPort p f).graphSel = s.graphSel := rfl
@[simp] theorem State.modPort_switchLast (p : Nat) (f : CordPort → CordPort) : (s.modPort p f).switchLast = s.switchLast := rfl
@[simp] theorem State.modPort_evl (p : Nat) (f : CordPort → CordPort) : (s.modPort p f).evl = s.evl := rfl
@[simp] theorem State.modPort_links (p : Nat) (f : CordPort → CordPort) : (s.modPort p f).links = s.links := rfl
@[simp] theorem State.modPort_cad (p : Nat) (f : CordPort → CordPort) : (s.modPort p f).cad = s.cad := rfl
@[simp] theorem State.modPort_pwr (p : Nat) (f : CordPort → CordPort) : (s.modPort p f).pwr = s.pwr := rfl
@[simp] theorem State.modPort_sec (p : Nat) (f : CordPort → CordPort) : (s.modPort p f).sec = s.sec := rfl
@[simp] theorem State.modPort_forn (p : Nat) (f : CordPort → CordPort) : (s.modPort p f).forn = s.forn := rfl
@[simp] theorem State.modPort_pages (p : Nat) (f : CordPort → CordPort) : (s.modPort p f).pages = s.pages := rfl
@[simp] theorem State.modPort_summary (p : Nat) (f : CordPort → CordPort) : (s.modPort p f).summary = s.summary := rfl
@[simp] theorem State.modPort_cycle (p : Nat) (f : CordPort → CordPort) : (s.modPort p f).cycle = s.cycle := rfl
@[simp] theorem State.modPort_us (p : Nat) (f : CordPort → CordPort) : (s.modPort p f).us = s.us := rfl
@[simp] theorem State.modPort_mgmt (p : Nat) (f : CordPort → CordPort) : (s.modPort p f).mgmt = s.mgmt := rfl
@[simp] theorem State.modPort_bulk (p : Nat) (f : CordPort → CordPort) : (s.modPort p f).bulk = s.bulk := rfl
@[simp] theorem State.modPort_smb (p : Nat) (f : CordPort → CordPort) : (s.modPort p f).smb = s.smb := rfl
@[simp] theorem State.modPort_snoop (p : Nat) (f : CordPort → CordPort) : (s.modPort p f).snoop = s.snoop := rfl
@[simp] theorem State.modPort_jtag (p : Nat) (f : CordPort → CordPort) : (s.modPort p f).jtag = s.jtag := rfl

/-! ### hbmWrite -/

@[simp] theorem State.hbmWrite_pending (a : Nat) (bs : List Byte) : (s.hbmWrite a bs).pending = s.pending := rfl
@[simp] theorem State.hbmWrite_freeCtr (a : Nat) (bs : List Byte) : (s.hbmWrite a bs).freeCtr = s.freeCtr := rfl
@[simp] theorem State.hbmWrite_boot (a : Nat) (bs : List Byte) : (s.hbmWrite a bs).boot = s.boot := rfl
@[simp] theorem State.hbmWrite_pins (a : Nat) (bs : List Byte) : (s.hbmWrite a bs).pins = s.pins := rfl
@[simp] theorem State.hbmWrite_fences (a : Nat) (bs : List Byte) : (s.hbmWrite a bs).fences = s.fences := rfl
@[simp] theorem State.hbmWrite_tiles (a : Nat) (bs : List Byte) : (s.hbmWrite a bs).tiles = s.tiles := rfl
@[simp] theorem State.hbmWrite_clusters (a : Nat) (bs : List Byte) : (s.hbmWrite a bs).clusters = s.clusters := rfl
@[simp] theorem State.hbmWrite_regions (a : Nat) (bs : List Byte) : (s.hbmWrite a bs).regions = s.regions := rfl
@[simp] theorem State.hbmWrite_dies (a : Nat) (bs : List Byte) : (s.hbmWrite a bs).dies = s.dies := rfl
@[simp] theorem State.hbmWrite_granule (a : Nat) (bs : List Byte) : (s.hbmWrite a bs).granule = s.granule := rfl
@[simp] theorem State.hbmWrite_hbmStacks (a : Nat) (bs : List Byte) : (s.hbmWrite a bs).hbmStacks = s.hbmStacks := rfl
@[simp] theorem State.hbmWrite_hbmQ (a : Nat) (bs : List Byte) : (s.hbmWrite a bs).hbmQ = s.hbmQ := rfl
@[simp] theorem State.hbmWrite_hostMem (a : Nat) (bs : List Byte) : (s.hbmWrite a bs).hostMem = s.hostMem := rfl
@[simp] theorem State.hbmWrite_ctxs (a : Nat) (bs : List Byte) : (s.hbmWrite a bs).ctxs = s.ctxs := rfl
@[simp] theorem State.hbmWrite_graphs (a : Nat) (bs : List Byte) : (s.hbmWrite a bs).graphs = s.graphs := rfl
@[simp] theorem State.hbmWrite_graphOrder (a : Nat) (bs : List Byte) : (s.hbmWrite a bs).graphOrder = s.graphOrder := rfl
@[simp] theorem State.hbmWrite_buckets (a : Nat) (bs : List Byte) : (s.hbmWrite a bs).buckets = s.buckets := rfl
@[simp] theorem State.hbmWrite_handoffs (a : Nat) (bs : List Byte) : (s.hbmWrite a bs).handoffs = s.handoffs := rfl
@[simp] theorem State.hbmWrite_holds (a : Nat) (bs : List Byte) : (s.hbmWrite a bs).holds = s.holds := rfl
@[simp] theorem State.hbmWrite_holdsDue (a : Nat) (bs : List Byte) : (s.hbmWrite a bs).holdsDue = s.holdsDue := rfl
@[simp] theorem State.hbmWrite_mismatches (a : Nat) (bs : List Byte) : (s.hbmWrite a bs).mismatches = s.mismatches := rfl
@[simp] theorem State.hbmWrite_mismLost (a : Nat) (bs : List Byte) : (s.hbmWrite a bs).mismLost = s.mismLost := rfl
@[simp] theorem State.hbmWrite_ctlFail (a : Nat) (bs : List Byte) : (s.hbmWrite a bs).ctlFail = s.ctlFail := rfl
@[simp] theorem State.hbmWrite_ctxSel (a : Nat) (bs : List Byte) : (s.hbmWrite a bs).ctxSel = s.ctxSel := rfl
@[simp] theorem State.hbmWrite_graphSel (a : Nat) (bs : List Byte) : (s.hbmWrite a bs).graphSel = s.graphSel := rfl
@[simp] theorem State.hbmWrite_switchLast (a : Nat) (bs : List Byte) : (s.hbmWrite a bs).switchLast = s.switchLast := rfl
@[simp] theorem State.hbmWrite_evl (a : Nat) (bs : List Byte) : (s.hbmWrite a bs).evl = s.evl := rfl
@[simp] theorem State.hbmWrite_links (a : Nat) (bs : List Byte) : (s.hbmWrite a bs).links = s.links := rfl
@[simp] theorem State.hbmWrite_ports (a : Nat) (bs : List Byte) : (s.hbmWrite a bs).ports = s.ports := rfl
@[simp] theorem State.hbmWrite_cad (a : Nat) (bs : List Byte) : (s.hbmWrite a bs).cad = s.cad := rfl
@[simp] theorem State.hbmWrite_pwr (a : Nat) (bs : List Byte) : (s.hbmWrite a bs).pwr = s.pwr := rfl
@[simp] theorem State.hbmWrite_sec (a : Nat) (bs : List Byte) : (s.hbmWrite a bs).sec = s.sec := rfl
@[simp] theorem State.hbmWrite_forn (a : Nat) (bs : List Byte) : (s.hbmWrite a bs).forn = s.forn := rfl
@[simp] theorem State.hbmWrite_pages (a : Nat) (bs : List Byte) : (s.hbmWrite a bs).pages = s.pages := rfl
@[simp] theorem State.hbmWrite_summary (a : Nat) (bs : List Byte) : (s.hbmWrite a bs).summary = s.summary := rfl
@[simp] theorem State.hbmWrite_cycle (a : Nat) (bs : List Byte) : (s.hbmWrite a bs).cycle = s.cycle := rfl
@[simp] theorem State.hbmWrite_us (a : Nat) (bs : List Byte) : (s.hbmWrite a bs).us = s.us := rfl
@[simp] theorem State.hbmWrite_mgmt (a : Nat) (bs : List Byte) : (s.hbmWrite a bs).mgmt = s.mgmt := rfl
@[simp] theorem State.hbmWrite_bulk (a : Nat) (bs : List Byte) : (s.hbmWrite a bs).bulk = s.bulk := rfl
@[simp] theorem State.hbmWrite_smb (a : Nat) (bs : List Byte) : (s.hbmWrite a bs).smb = s.smb := rfl
@[simp] theorem State.hbmWrite_snoop (a : Nat) (bs : List Byte) : (s.hbmWrite a bs).snoop = s.snoop := rfl
@[simp] theorem State.hbmWrite_jtag (a : Nat) (bs : List Byte) : (s.hbmWrite a bs).jtag = s.jtag := rfl

/-! ### hostWrite -/

@[simp] theorem State.hostWrite_pending (a : Nat) (bs : List Byte) : (s.hostWrite a bs).pending = s.pending := rfl
@[simp] theorem State.hostWrite_freeCtr (a : Nat) (bs : List Byte) : (s.hostWrite a bs).freeCtr = s.freeCtr := rfl
@[simp] theorem State.hostWrite_boot (a : Nat) (bs : List Byte) : (s.hostWrite a bs).boot = s.boot := rfl
@[simp] theorem State.hostWrite_pins (a : Nat) (bs : List Byte) : (s.hostWrite a bs).pins = s.pins := rfl
@[simp] theorem State.hostWrite_fences (a : Nat) (bs : List Byte) : (s.hostWrite a bs).fences = s.fences := rfl
@[simp] theorem State.hostWrite_tiles (a : Nat) (bs : List Byte) : (s.hostWrite a bs).tiles = s.tiles := rfl
@[simp] theorem State.hostWrite_clusters (a : Nat) (bs : List Byte) : (s.hostWrite a bs).clusters = s.clusters := rfl
@[simp] theorem State.hostWrite_regions (a : Nat) (bs : List Byte) : (s.hostWrite a bs).regions = s.regions := rfl
@[simp] theorem State.hostWrite_dies (a : Nat) (bs : List Byte) : (s.hostWrite a bs).dies = s.dies := rfl
@[simp] theorem State.hostWrite_granule (a : Nat) (bs : List Byte) : (s.hostWrite a bs).granule = s.granule := rfl
@[simp] theorem State.hostWrite_hbmStacks (a : Nat) (bs : List Byte) : (s.hostWrite a bs).hbmStacks = s.hbmStacks := rfl
@[simp] theorem State.hostWrite_hbm (a : Nat) (bs : List Byte) : (s.hostWrite a bs).hbm = s.hbm := rfl
@[simp] theorem State.hostWrite_hbmQ (a : Nat) (bs : List Byte) : (s.hostWrite a bs).hbmQ = s.hbmQ := rfl
@[simp] theorem State.hostWrite_ctxs (a : Nat) (bs : List Byte) : (s.hostWrite a bs).ctxs = s.ctxs := rfl
@[simp] theorem State.hostWrite_graphs (a : Nat) (bs : List Byte) : (s.hostWrite a bs).graphs = s.graphs := rfl
@[simp] theorem State.hostWrite_graphOrder (a : Nat) (bs : List Byte) : (s.hostWrite a bs).graphOrder = s.graphOrder := rfl
@[simp] theorem State.hostWrite_buckets (a : Nat) (bs : List Byte) : (s.hostWrite a bs).buckets = s.buckets := rfl
@[simp] theorem State.hostWrite_handoffs (a : Nat) (bs : List Byte) : (s.hostWrite a bs).handoffs = s.handoffs := rfl
@[simp] theorem State.hostWrite_holds (a : Nat) (bs : List Byte) : (s.hostWrite a bs).holds = s.holds := rfl
@[simp] theorem State.hostWrite_holdsDue (a : Nat) (bs : List Byte) : (s.hostWrite a bs).holdsDue = s.holdsDue := rfl
@[simp] theorem State.hostWrite_mismatches (a : Nat) (bs : List Byte) : (s.hostWrite a bs).mismatches = s.mismatches := rfl
@[simp] theorem State.hostWrite_mismLost (a : Nat) (bs : List Byte) : (s.hostWrite a bs).mismLost = s.mismLost := rfl
@[simp] theorem State.hostWrite_ctlFail (a : Nat) (bs : List Byte) : (s.hostWrite a bs).ctlFail = s.ctlFail := rfl
@[simp] theorem State.hostWrite_ctxSel (a : Nat) (bs : List Byte) : (s.hostWrite a bs).ctxSel = s.ctxSel := rfl
@[simp] theorem State.hostWrite_graphSel (a : Nat) (bs : List Byte) : (s.hostWrite a bs).graphSel = s.graphSel := rfl
@[simp] theorem State.hostWrite_switchLast (a : Nat) (bs : List Byte) : (s.hostWrite a bs).switchLast = s.switchLast := rfl
@[simp] theorem State.hostWrite_evl (a : Nat) (bs : List Byte) : (s.hostWrite a bs).evl = s.evl := rfl
@[simp] theorem State.hostWrite_links (a : Nat) (bs : List Byte) : (s.hostWrite a bs).links = s.links := rfl
@[simp] theorem State.hostWrite_ports (a : Nat) (bs : List Byte) : (s.hostWrite a bs).ports = s.ports := rfl
@[simp] theorem State.hostWrite_cad (a : Nat) (bs : List Byte) : (s.hostWrite a bs).cad = s.cad := rfl
@[simp] theorem State.hostWrite_pwr (a : Nat) (bs : List Byte) : (s.hostWrite a bs).pwr = s.pwr := rfl
@[simp] theorem State.hostWrite_sec (a : Nat) (bs : List Byte) : (s.hostWrite a bs).sec = s.sec := rfl
@[simp] theorem State.hostWrite_forn (a : Nat) (bs : List Byte) : (s.hostWrite a bs).forn = s.forn := rfl
@[simp] theorem State.hostWrite_pages (a : Nat) (bs : List Byte) : (s.hostWrite a bs).pages = s.pages := rfl
@[simp] theorem State.hostWrite_summary (a : Nat) (bs : List Byte) : (s.hostWrite a bs).summary = s.summary := rfl
@[simp] theorem State.hostWrite_cycle (a : Nat) (bs : List Byte) : (s.hostWrite a bs).cycle = s.cycle := rfl
@[simp] theorem State.hostWrite_us (a : Nat) (bs : List Byte) : (s.hostWrite a bs).us = s.us := rfl
@[simp] theorem State.hostWrite_mgmt (a : Nat) (bs : List Byte) : (s.hostWrite a bs).mgmt = s.mgmt := rfl
@[simp] theorem State.hostWrite_bulk (a : Nat) (bs : List Byte) : (s.hostWrite a bs).bulk = s.bulk := rfl
@[simp] theorem State.hostWrite_smb (a : Nat) (bs : List Byte) : (s.hostWrite a bs).smb = s.smb := rfl
@[simp] theorem State.hostWrite_snoop (a : Nat) (bs : List Byte) : (s.hostWrite a bs).snoop = s.snoop := rfl
@[simp] theorem State.hostWrite_jtag (a : Nat) (bs : List Byte) : (s.hostWrite a bs).jtag = s.jtag := rfl

/-! ### answer -/

@[simp] theorem State.answer_pending (code : Nat) (bs : List Byte) : (s.answer code bs).pending = s.pending := rfl
@[simp] theorem State.answer_freeCtr (code : Nat) (bs : List Byte) : (s.answer code bs).freeCtr = s.freeCtr := rfl
@[simp] theorem State.answer_boot (code : Nat) (bs : List Byte) : (s.answer code bs).boot = s.boot := rfl
@[simp] theorem State.answer_pins (code : Nat) (bs : List Byte) : (s.answer code bs).pins = s.pins := rfl
@[simp] theorem State.answer_fences (code : Nat) (bs : List Byte) : (s.answer code bs).fences = s.fences := rfl
@[simp] theorem State.answer_tiles (code : Nat) (bs : List Byte) : (s.answer code bs).tiles = s.tiles := rfl
@[simp] theorem State.answer_clusters (code : Nat) (bs : List Byte) : (s.answer code bs).clusters = s.clusters := rfl
@[simp] theorem State.answer_regions (code : Nat) (bs : List Byte) : (s.answer code bs).regions = s.regions := rfl
@[simp] theorem State.answer_dies (code : Nat) (bs : List Byte) : (s.answer code bs).dies = s.dies := rfl
@[simp] theorem State.answer_granule (code : Nat) (bs : List Byte) : (s.answer code bs).granule = s.granule := rfl
@[simp] theorem State.answer_hbmStacks (code : Nat) (bs : List Byte) : (s.answer code bs).hbmStacks = s.hbmStacks := rfl
@[simp] theorem State.answer_hbm (code : Nat) (bs : List Byte) : (s.answer code bs).hbm = s.hbm := rfl
@[simp] theorem State.answer_hbmQ (code : Nat) (bs : List Byte) : (s.answer code bs).hbmQ = s.hbmQ := rfl
@[simp] theorem State.answer_hostMem (code : Nat) (bs : List Byte) : (s.answer code bs).hostMem = s.hostMem := rfl
@[simp] theorem State.answer_ctxs (code : Nat) (bs : List Byte) : (s.answer code bs).ctxs = s.ctxs := rfl
@[simp] theorem State.answer_graphs (code : Nat) (bs : List Byte) : (s.answer code bs).graphs = s.graphs := rfl
@[simp] theorem State.answer_graphOrder (code : Nat) (bs : List Byte) : (s.answer code bs).graphOrder = s.graphOrder := rfl
@[simp] theorem State.answer_buckets (code : Nat) (bs : List Byte) : (s.answer code bs).buckets = s.buckets := rfl
@[simp] theorem State.answer_handoffs (code : Nat) (bs : List Byte) : (s.answer code bs).handoffs = s.handoffs := rfl
@[simp] theorem State.answer_holds (code : Nat) (bs : List Byte) : (s.answer code bs).holds = s.holds := rfl
@[simp] theorem State.answer_holdsDue (code : Nat) (bs : List Byte) : (s.answer code bs).holdsDue = s.holdsDue := rfl
@[simp] theorem State.answer_mismatches (code : Nat) (bs : List Byte) : (s.answer code bs).mismatches = s.mismatches := rfl
@[simp] theorem State.answer_mismLost (code : Nat) (bs : List Byte) : (s.answer code bs).mismLost = s.mismLost := rfl
@[simp] theorem State.answer_ctlFail (code : Nat) (bs : List Byte) : (s.answer code bs).ctlFail = s.ctlFail := rfl
@[simp] theorem State.answer_ctxSel (code : Nat) (bs : List Byte) : (s.answer code bs).ctxSel = s.ctxSel := rfl
@[simp] theorem State.answer_graphSel (code : Nat) (bs : List Byte) : (s.answer code bs).graphSel = s.graphSel := rfl
@[simp] theorem State.answer_switchLast (code : Nat) (bs : List Byte) : (s.answer code bs).switchLast = s.switchLast := rfl
@[simp] theorem State.answer_evl (code : Nat) (bs : List Byte) : (s.answer code bs).evl = s.evl := rfl
@[simp] theorem State.answer_links (code : Nat) (bs : List Byte) : (s.answer code bs).links = s.links := rfl
@[simp] theorem State.answer_ports (code : Nat) (bs : List Byte) : (s.answer code bs).ports = s.ports := rfl
@[simp] theorem State.answer_cad (code : Nat) (bs : List Byte) : (s.answer code bs).cad = s.cad := rfl
@[simp] theorem State.answer_pwr (code : Nat) (bs : List Byte) : (s.answer code bs).pwr = s.pwr := rfl
@[simp] theorem State.answer_sec (code : Nat) (bs : List Byte) : (s.answer code bs).sec = s.sec := rfl
@[simp] theorem State.answer_forn (code : Nat) (bs : List Byte) : (s.answer code bs).forn = s.forn := rfl
@[simp] theorem State.answer_pages (code : Nat) (bs : List Byte) : (s.answer code bs).pages = s.pages := rfl
@[simp] theorem State.answer_summary (code : Nat) (bs : List Byte) : (s.answer code bs).summary = s.summary := rfl
@[simp] theorem State.answer_cycle (code : Nat) (bs : List Byte) : (s.answer code bs).cycle = s.cycle := rfl
@[simp] theorem State.answer_us (code : Nat) (bs : List Byte) : (s.answer code bs).us = s.us := rfl
@[simp] theorem State.answer_bulk (code : Nat) (bs : List Byte) : (s.answer code bs).bulk = s.bulk := rfl
@[simp] theorem State.answer_smb (code : Nat) (bs : List Byte) : (s.answer code bs).smb = s.smb := rfl
@[simp] theorem State.answer_snoop (code : Nat) (bs : List Byte) : (s.answer code bs).snoop = s.snoop := rfl
@[simp] theorem State.answer_jtag (code : Nat) (bs : List Byte) : (s.answer code bs).jtag = s.jtag := rfl

/-! ### draw -/

@[simp] theorem State.draw_pending : s.draw.2.pending = s.pending := rfl
@[simp] theorem State.draw_boot : s.draw.2.boot = s.boot := rfl
@[simp] theorem State.draw_pins : s.draw.2.pins = s.pins := rfl
@[simp] theorem State.draw_fences : s.draw.2.fences = s.fences := rfl
@[simp] theorem State.draw_tiles : s.draw.2.tiles = s.tiles := rfl
@[simp] theorem State.draw_clusters : s.draw.2.clusters = s.clusters := rfl
@[simp] theorem State.draw_regions : s.draw.2.regions = s.regions := rfl
@[simp] theorem State.draw_dies : s.draw.2.dies = s.dies := rfl
@[simp] theorem State.draw_granule : s.draw.2.granule = s.granule := rfl
@[simp] theorem State.draw_hbmStacks : s.draw.2.hbmStacks = s.hbmStacks := rfl
@[simp] theorem State.draw_hbm : s.draw.2.hbm = s.hbm := rfl
@[simp] theorem State.draw_hbmQ : s.draw.2.hbmQ = s.hbmQ := rfl
@[simp] theorem State.draw_hostMem : s.draw.2.hostMem = s.hostMem := rfl
@[simp] theorem State.draw_ctxs : s.draw.2.ctxs = s.ctxs := rfl
@[simp] theorem State.draw_graphs : s.draw.2.graphs = s.graphs := rfl
@[simp] theorem State.draw_graphOrder : s.draw.2.graphOrder = s.graphOrder := rfl
@[simp] theorem State.draw_buckets : s.draw.2.buckets = s.buckets := rfl
@[simp] theorem State.draw_handoffs : s.draw.2.handoffs = s.handoffs := rfl
@[simp] theorem State.draw_holds : s.draw.2.holds = s.holds := rfl
@[simp] theorem State.draw_holdsDue : s.draw.2.holdsDue = s.holdsDue := rfl
@[simp] theorem State.draw_mismatches : s.draw.2.mismatches = s.mismatches := rfl
@[simp] theorem State.draw_mismLost : s.draw.2.mismLost = s.mismLost := rfl
@[simp] theorem State.draw_ctlFail : s.draw.2.ctlFail = s.ctlFail := rfl
@[simp] theorem State.draw_ctxSel : s.draw.2.ctxSel = s.ctxSel := rfl
@[simp] theorem State.draw_graphSel : s.draw.2.graphSel = s.graphSel := rfl
@[simp] theorem State.draw_switchLast : s.draw.2.switchLast = s.switchLast := rfl
@[simp] theorem State.draw_evl : s.draw.2.evl = s.evl := rfl
@[simp] theorem State.draw_links : s.draw.2.links = s.links := rfl
@[simp] theorem State.draw_ports : s.draw.2.ports = s.ports := rfl
@[simp] theorem State.draw_cad : s.draw.2.cad = s.cad := rfl
@[simp] theorem State.draw_pwr : s.draw.2.pwr = s.pwr := rfl
@[simp] theorem State.draw_sec : s.draw.2.sec = s.sec := rfl
@[simp] theorem State.draw_forn : s.draw.2.forn = s.forn := rfl
@[simp] theorem State.draw_pages : s.draw.2.pages = s.pages := rfl
@[simp] theorem State.draw_summary : s.draw.2.summary = s.summary := rfl
@[simp] theorem State.draw_cycle : s.draw.2.cycle = s.cycle := rfl
@[simp] theorem State.draw_us : s.draw.2.us = s.us := rfl
@[simp] theorem State.draw_mgmt : s.draw.2.mgmt = s.mgmt := rfl
@[simp] theorem State.draw_bulk : s.draw.2.bulk = s.bulk := rfl
@[simp] theorem State.draw_smb : s.draw.2.smb = s.smb := rfl
@[simp] theorem State.draw_snoop : s.draw.2.snoop = s.snoop := rfl
@[simp] theorem State.draw_jtag : s.draw.2.jtag = s.jtag := rfl
@[simp] theorem State.draw_freeCtr : s.draw.2.freeCtr = s.freeCtr + 1 := rfl

/-! ### Reading back -/

@[simp] theorem State.setTile_self (t : Nat) (x : Tile) : (s.setTile t x).tile t = x := sgetD_sset_self _ _ _ _

theorem State.setTile_ne (t u : Nat) (x : Tile) (h : u ≠ t) : (s.setTile t x).tile u = s.tile u := sgetD_sset_ne _ _ _ _ _ h

@[simp] theorem State.setRegion_self (r : Nat) (x : Region) : (s.setRegion r x).region r = x := sgetD_sset_self _ _ _ _

theorem State.setRegion_ne (r u : Nat) (x : Region) (h : u ≠ r) : (s.setRegion r x).region u = s.region u := sgetD_sset_ne _ _ _ _ _ h

@[simp] theorem State.setStack_self (k : Nat) (x : Stack) : (s.setStack k x).stack k = x := sgetD_sset_self _ _ _ _

theorem State.setStack_ne (k u : Nat) (x : Stack) (h : u ≠ k) : (s.setStack k x).stack u = s.stack u := sgetD_sset_ne _ _ _ _ _ h

@[simp] theorem State.setLink_self (l : Nat) (x : Link) : (s.setLink l x).link l = x := sgetD_sset_self _ _ _ _

theorem State.setLink_ne (l u : Nat) (x : Link) (h : u ≠ l) : (s.setLink l x).link u = s.link u := sgetD_sset_ne _ _ _ _ _ h

@[simp] theorem State.modTile_self (t : Nat) (f : Tile → Tile) : (s.modTile t f).tile t = f (s.tile t) := sgetD_sset_self _ _ _ _

theorem State.modTile_ne (t u : Nat) (f : Tile → Tile) (h : u ≠ t) : (s.modTile t f).tile u = s.tile u := sgetD_sset_ne _ _ _ _ _ h

@[simp] theorem State.modRegion_self (r : Nat) (f : Region → Region) : (s.modRegion r f).region r = f (s.region r) := sgetD_sset_self _ _ _ _

theorem State.modRegion_ne (r u : Nat) (f : Region → Region) (h : u ≠ r) : (s.modRegion r f).region u = s.region u := sgetD_sset_ne _ _ _ _ _ h

@[simp] theorem State.modStack_self (k : Nat) (f : Stack → Stack) : (s.modStack k f).stack k = f (s.stack k) := sgetD_sset_self _ _ _ _

theorem State.modStack_ne (k u : Nat) (f : Stack → Stack) (h : u ≠ k) : (s.modStack k f).stack u = s.stack u := sgetD_sset_ne _ _ _ _ _ h

@[simp] theorem State.modLink_self (l : Nat) (f : Link → Link) : (s.modLink l f).link l = f (s.link l) := sgetD_sset_self _ _ _ _

theorem State.modLink_ne (l u : Nat) (f : Link → Link) (h : u ≠ l) : (s.modLink l f).link u = s.link u := sgetD_sset_ne _ _ _ _ _ h

@[simp] theorem State.modCluster_self (k : Nat) (f : Cluster → Cluster) : (s.modCluster k f).cluster k = f (s.cluster k) := sgetD_sset_self _ _ _ _

theorem State.modCluster_ne (k u : Nat) (f : Cluster → Cluster) (h : u ≠ k) : (s.modCluster k f).cluster u = s.cluster u := sgetD_sset_ne _ _ _ _ _ h

@[simp] theorem State.modDie_self (d : Nat) (f : Die → Die) : (s.modDie d f).die d = f (s.die d) := sgetD_sset_self _ _ _ _

theorem State.modDie_ne (d u : Nat) (f : Die → Die) (h : u ≠ d) : (s.modDie d f).die u = s.die u := sgetD_sset_ne _ _ _ _ _ h

@[simp] theorem State.modPage_self (k : Nat) (f : Page → Page) : (s.modPage k f).page k = f (s.page k) := sgetD_sset_self _ _ _ _

theorem State.modPage_ne (k u : Nat) (f : Page → Page) (h : u ≠ k) : (s.modPage k f).page u = s.page u := sgetD_sset_ne _ _ _ _ _ h

@[simp] theorem State.modRing_self (r : Nat) (f : Ring → Ring) : (s.modRing r f).ring r = f (s.ring r) := sgetD_sset_self _ _ _ _

theorem State.modRing_ne (r u : Nat) (f : Ring → Ring) (h : u ≠ r) : (s.modRing r f).ring u = s.ring u := sgetD_sset_ne _ _ _ _ _ h

@[simp] theorem State.modPort_self (p : Nat) (f : CordPort → CordPort) : (s.modPort p f).port p = f (s.port p) := sgetD_sset_self _ _ _ _

theorem State.modPort_ne (p u : Nat) (f : CordPort → CordPort) (h : u ≠ p) : (s.modPort p f).port u = s.port u := sgetD_sset_ne _ _ _ _ _ h

@[simp] theorem State.modGraph_self (g : Nat) (f : Graph → Graph) : (s.modGraph g f).graph g = f (s.graph g) := sgetD_sset_self _ _ _ _

theorem State.modGraph_ne (g u : Nat) (f : Graph → Graph) (h : u ≠ g) : (s.modGraph g f).graph u = s.graph u := sgetD_sset_ne _ _ _ _ _ h

@[simp] theorem State.setCtx_self (c : Nat) (x : Ctx) : (s.setCtx c x).ctx c = some x := sget_sset_self _ _ _

theorem State.setCtx_ne (c u : Nat) (x : Ctx) (h : u ≠ c) : (s.setCtx c x).ctx u = s.ctx u := sget_sset_ne _ _ _ _ h

@[simp] theorem State.setBucket_self (b : Nat) (x : Bucket) : (s.setBucket b x).bucket b = some x := sget_sset_self _ _ _

theorem State.setBucket_ne (b u : Nat) (x : Bucket) (h : u ≠ b) : (s.setBucket b x).bucket u = s.bucket u := sget_sset_ne _ _ _ _ h

@[simp] theorem State.setTile_setTile (t : Nat) (x y : Tile) : (s.setTile t x).setTile t y = s.setTile t y := by
  simp [State.setTile, sset_sset]

@[simp] theorem State.setRegion_setRegion (r : Nat) (x y : Region) : (s.setRegion r x).setRegion r y = s.setRegion r y := by
  simp [State.setRegion, sset_sset]

@[simp] theorem State.setStack_setStack (k : Nat) (x y : Stack) : (s.setStack k x).setStack k y = s.setStack k y := by
  simp [State.setStack, sset_sset]

@[simp] theorem State.setLink_setLink (l : Nat) (x y : Link) : (s.setLink l x).setLink l y = s.setLink l y := by
  simp [State.setLink, sset_sset]

@[simp] theorem State.setCtx_setCtx (c : Nat) (x y : Ctx) : (s.setCtx c x).setCtx c y = s.setCtx c y := by
  simp [State.setCtx, sset_sset]

@[simp] theorem State.setBucket_setBucket (b : Nat) (x y : Bucket) : (s.setBucket b x).setBucket b y = s.setBucket b y := by
  simp [State.setBucket, sset_sset]

@[simp] theorem State.setTile_tileCycle (t : Nat) (x : Tile) (u : Nat) : (s.setTile t x).tileCycle u = s.tileCycle u := rfl

@[simp] theorem State.setTile_tileLit (t : Nat) (x : Tile) (u : Nat) : (s.setTile t x).tileLit u = s.tileLit u := rfl

@[simp] theorem State.modTile_tileCycle (t : Nat) (f : Tile → Tile) (u : Nat) : (s.modTile t f).tileCycle u = s.tileCycle u := rfl

@[simp] theorem State.modTile_tileLit (t : Nat) (f : Tile → Tile) (u : Nat) : (s.modTile t f).tileLit u = s.tileLit u := rfl

@[simp] theorem State.setCtx_tileCycle (c : Nat) (x : Ctx) (u : Nat) : (s.setCtx c x).tileCycle u = s.tileCycle u := rfl

@[simp] theorem State.setCtx_tileLit (c : Nat) (x : Ctx) (u : Nat) : (s.setCtx c x).tileLit u = s.tileLit u := rfl

@[simp] theorem State.setLink_tileCycle (l : Nat) (x : Link) (u : Nat) : (s.setLink l x).tileCycle u = s.tileCycle u := rfl

@[simp] theorem State.setLink_tileLit (l : Nat) (x : Link) (u : Nat) : (s.setLink l x).tileLit u = s.tileLit u := rfl

@[simp] theorem State.modLink_tileCycle (l : Nat) (f : Link → Link) (u : Nat) : (s.modLink l f).tileCycle u = s.tileCycle u := rfl

@[simp] theorem State.modLink_tileLit (l : Nat) (f : Link → Link) (u : Nat) : (s.modLink l f).tileLit u = s.tileLit u := rfl

end Sys2Proof.Machine
end

