-- ==== Sys2Proof/Laws/Units.lean ====
section
/-! SUPPORT. Laws of the shared operations of a tile, for later proofs to cite. -/

namespace Sys2Proof.Machine

/-- A tile whose core may issue holds the map entry of its slot. -/
theorem coreIssue_entry {s : State} {t : Nat} {ok : Stall → Bool} {slot : Nat} {e : MapEntry} (h : coreIssue s t ok = some (slot, e)) :
    (s.tile t).entry slot = some e := by
  unfold coreIssue at h
  dsimp only at h
  split at h
  · cases h
  · split at h
    · cases h
    · split at h
      · cases h
        assumption
      · cases h

/-- A register write changes the banks alone. -/
theorem Tile.setReg_banks (x : Tile) (slot r : Nat) (v : BitVec 64) : { x.setReg slot r v with banks := x.banks } = x := by
  unfold Tile.setReg
  split <;> rfl

/-- A register read after a write: s0 reads 0, the register written reads the value, every other reads as before (R35). -/
theorem Tile.reg_setReg (x : Tile) (slot r k j : Nat) (v : BitVec 64) :
    (x.setReg slot r v).reg k j = if k = slot ∧ j = r then (if r = 0 then 0 else v) else x.reg k j := by
  unfold Tile.setReg Tile.reg
  by_cases h0 : r = 0
  · by_cases h : k = slot ∧ j = r
    · simp [h0, h]
    · simp only [h0, if_true, if_neg (h0 ▸ h)]
  · by_cases hj : j = 0
    · have : ¬ (k = slot ∧ j = r) := by omega
      simp [hj, this, h0]
      omega
    · by_cases hk : k = slot
      · subst hk
        by_cases hr : j = r
        · subst hr
          simp [h0, smod, sgetD_sset_self]
        · simp [h0, hj, hr, smod, sgetD_sset_self, sgetD_sset_ne _ _ _ _ _ hr]
      · simp [h0, hj, hk, smod, sgetD_sset_ne _ _ _ _ _ hk]

/-- Checks of which none fails refuse nothing. -/
theorem pickCode_none {xs : List (Bool × Nat)} (h : ∀ p ∈ xs, p.1 = false) : pickCode xs = none := by
  simp only [pickCode, List.find?_eq_none, List.any_eq_true, not_exists]
  intro c _ p hp
  have := h p hp.1
  simp [this] at hp

/-- Changing every tile of a list: a tile of the list is changed, every other is as before, for a change that a second time does nothing. -/
theorem forAll_modTile_tile (ts : List Nat) (f : Tile → Tile) (hf : ∀ x, f (f x) = f x) (s : State) (t : Nat) :
    (forAll ts (fun t s => s.modTile t f) s).tile t = if t ∈ ts then f (s.tile t) else s.tile t := by
  unfold forAll
  induction ts generalizing s with
  | nil => simp
  | cons a r ih =>
    rw [List.foldl_cons, ih]
    by_cases ha : t = a
    · subst ha
      by_cases hr : t ∈ r <;> simp [hr, hf]
    · simp [ha, State.modTile_ne _ _ _ _ ha]

/-- Changing tiles changes nothing but tiles. -/
theorem forAll_modTile_rest (ts : List Nat) (f : Nat → Tile → Tile) (s : State) :
    forAll ts (fun t s => s.modTile t (f t)) s = { s with tiles := (forAll ts (fun t s => s.modTile t (f t)) s).tiles } := by
  unfold forAll
  induction ts generalizing s with
  | nil => rfl
  | cons a r ih => exact ih _

end Sys2Proof.Machine
end

