-- ==== Sys2Proof/Laws/Facts.lean ====
section
/-! SUPPORT. Facts of the shared operations that the proofs of more than one statement need. -/

namespace Sys2Proof.Machine

/-- A read of a tile's own words that its check finds clean changes nothing. -/
@[simp] theorem tileEcc_clean (t : Nat) (s : State) : tileEcc t .clean s = (some s, s) := rfl

theorem sendArrives_rest (n : Nat) (s : State) : sendArrives n s = { s with ctxs := (sendArrives n s).ctxs, links := (sendArrives n s).links } := by
  unfold sendArrives
  split
  · rfl
  · rename_i c hc
    dsimp only
    split
    · rfl
    · have key : ∀ (k v : Nat) (ls : List Nat) (s : State), forAll ls (fun l s => sendWord l 4 k v s) s = { s with links := (forAll ls (fun l s => sendWord l 4 k v s) s).links } := by
        intro k v ls s
        unfold forAll
        induction ls generalizing s with
        | nil => rfl
        | cons a r ih => rw [List.foldl_cons, ih]; rfl
      unfold State.modCtx
      split
      · rw [key _ _ _ s]; rfl
      · rw [key n c.superstep _ s]

theorem getLsbD_two_pow (p q : Nat) : (BitVec.ofNat 64 (2 ^ p)).getLsbD q = (decide (q < 64) && decide (p = q)) := by
  rw [BitVec.getLsbD_ofNat, Nat.testBit_two_pow]

theorem rebase_fold (fill : Nat) (ps : List Nat) (hn : ps.Nodup) (x : Tile) (q : Nat) :
    let y := ps.foldl (fun x p =>
      if x.sat.getLsbD p then
        { x with ctr := sset x.ctr p (BitVec.ofNat 48 (fill % 2 ^ 24)), sat := x.sat &&& ~~~(BitVec.ofNat 64 (2 ^ p)) }
      else { x with ctr := sset x.ctr p (BitVec.ofNat 48 ((x.counter p).toNat % 2 ^ 24)) }) x
    y.counter q = (if q ∈ ps then (if x.sat.getLsbD q then BitVec.ofNat 48 (fill % 2 ^ 24) else BitVec.ofNat 48 ((x.counter q).toNat % 2 ^ 24)) else x.counter q) ∧
    y.sat.getLsbD q = (if q ∈ ps then false else x.sat.getLsbD q) ∧ { y with ctr := x.ctr, sat := x.sat } = x := by
  induction ps generalizing x with
  | nil => simp
  | cons p r ih =>
    obtain ⟨hp, hr⟩ := List.nodup_cons.mp hn
    rw [List.foldl_cons]
    set x1 : Tile := (if x.sat.getLsbD p then
        { x with ctr := sset x.ctr p (BitVec.ofNat 48 (fill % 2 ^ 24)), sat := x.sat &&& ~~~(BitVec.ofNat 64 (2 ^ p)) }
      else { x with ctr := sset x.ctr p (BitVec.ofNat 48 ((x.counter p).toNat % 2 ^ 24)) }) with h1
    have c1 : ∀ q, x1.counter q = if q = p then (if x.sat.getLsbD p then BitVec.ofNat 48 (fill % 2 ^ 24) else BitVec.ofNat 48 ((x.counter p).toNat % 2 ^ 24)) else x.counter q := by
      intro q
      rw [h1]
      by_cases hq : q = p
      · subst hq
        split <;> simp [Tile.counter, sgetD_sset_self]
      · split <;> simp [Tile.counter, sgetD_sset_ne _ _ _ _ _ hq, hq]
    have s1 : ∀ q, x1.sat.getLsbD q = if q = p then false else x.sat.getLsbD q := by
      intro q
      rw [h1]
      split
      · rename_i hs
        rw [BitVec.getLsbD_and, BitVec.getLsbD_not, getLsbD_two_pow]
        by_cases hq : q = p
        · subst hq
          have := BitVec.lt_of_getLsbD hs
          simp [this]
        · by_cases h64 : q < 64
          · have : ¬ p = q := fun h => hq h.symm
            simp [hq, h64, this]
          · simp [hq, h64, BitVec.getLsbD_of_ge _ _ (Nat.not_lt.mp h64)]
      · rename_i hs
        by_cases hq : q = p
        · subst hq; simpa using hs
        · simp [hq]
    have r1 : { x1 with ctr := x.ctr, sat := x.sat } = x := by
      rw [h1]; split <;> rfl
    obtain ⟨i1, i2, i3⟩ := ih hr x1
    refine ⟨?_, ?_, ?_⟩
    · rw [i1, c1, s1]
      by_cases hq : q = p
      · subst hq; simp [hp]
      · simp [hq]
    · rw [i2, s1]
      by_cases hq : q = p
      · subst hq; simp
      · simp [hq]
    · generalize (List.foldl _ x1 r) = y at i3 ⊢
      rw [← i3] at r1
      simpa using r1

theorem rangeFrom_nodup (a n : Nat) : (rangeFrom a n).Nodup := by
  unfold rangeFrom
  exact List.Nodup.map (fun x y h => by simpa using h) List.nodup_range

theorem mem_rangeFrom (a n p : Nat) : p ∈ rangeFrom a n ↔ a ≤ p ∧ p < a + n := by
  simp only [rangeFrom, List.mem_map, List.mem_range]
  constructor
  · rintro ⟨i, hi, rfl⟩; omega
  · rintro ⟨h1, h2⟩; exact ⟨p - a, by omega, by omega⟩

theorem forAll_modTile_nodup (ts : List Nat) (hn : ts.Nodup) (f : Tile → Tile) (s : State) (t : Nat) :
    (forAll ts (fun t s => s.modTile t f) s).tile t = if t ∈ ts then f (s.tile t) else s.tile t := by
  unfold forAll
  induction ts generalizing s with
  | nil => simp
  | cons a r ih =>
    obtain ⟨hp, hr⟩ := List.nodup_cons.mp hn
    rw [List.foldl_cons, ih hr]
    by_cases ha : t = a
    · subst ha; simp [hp]
    · simp [ha, State.modTile_ne _ _ _ _ ha]

theorem forAll_modTile_out (ts : List Nat) (f : Tile → Tile) (s : State) (t : Nat) (h : t ∉ ts) :
    (forAll ts (fun t s => s.modTile t f) s).tile t = s.tile t := by
  unfold forAll
  induction ts generalizing s with
  | nil => rfl
  | cons a r ih =>
    rw [List.mem_cons, not_or] at h
    rw [List.foldl_cons, ih _ h.2, State.modTile_ne _ _ _ _ h.1]

/-- All an event can change: the event ring (or its count of events not posted) and the host memory. -/
theorem postTo_rest (r ty so f m : Nat) (b : List Byte) (s : State) :
    postTo r ty so f m b s = { s with evl := (postTo r ty so f m b s).evl, hostMem := (postTo r ty so f m b s).hostMem } := by
  unfold postTo
  dsimp only
  split <;> rfl

theorem postEvent_rest (ty so f : Nat) (b : List Byte) (s : State) :
    postEvent ty so f b s = { s with evl := (postEvent ty so f b s).evl, hostMem := (postEvent ty so f b s).hostMem } := by
  unfold postEvent; exact postTo_rest _ _ _ _ _ _ _

/-- All a fault recorded can change: its page, the summary, the alert pin and the event. -/
theorem recordFault_rest (k b c : Nat) (s : State) :
    recordFault k b c s = { s with
      evl := (recordFault k b c s).evl, hostMem := (recordFault k b c s).hostMem, pages := (recordFault k b c s).pages
      summary := (recordFault k b c s).summary, pins := (recordFault k b c s).pins } := by
  unfold recordFault recordFaultF
  dsimp only
  split
  · rfl
  · rw [postEvent_rest]; rfl

theorem setLink_setLink (s : State) (l : Nat) (a b : Link) : (s.setLink l a).setLink l b = s.setLink l b := by
  simp [State.setLink, sset_sset]
theorem link_setLink_self (s : State) (l : Nat) (a : Link) : (s.setLink l a).link l = a := by simp [State.link, State.setLink, sgetD_sset_self]
theorem link_setLink_ne (s : State) (l m : Nat) (a : Link) (h : m ≠ l) : (s.setLink l a).link m = s.link m := by
  simp [State.link, State.setLink, sgetD_sset_ne _ _ _ _ _ h]

end Sys2Proof.Machine
end

