-- ==== Sys2Proof/Laws/Calm.lean ====
section
/-! SUPPORT. What recording faults, stopping contexts and raising fences leave alone, for the proofs about fences. -/

namespace Sys2Proof.Machine

/-- What recording a fault, stopping contexts and fencing leave alone, but for what they are for: the fence map, the stages of start-up, the state of every stack, the stores, the state of every context; and no FAULT bit goes. -/
def Calm (s u : State) : Prop :=
  u.fences = s.fences ∧ u.boot = s.boot ∧ u.pins.thermLatch = s.pins.thermLatch ∧
  (∀ k, (u.stack k).st = (s.stack k).st ∧ (u.stack k).trainFailed = (s.stack k).trainFailed) ∧
  (∀ k i, (s.page k).fault.getLsbD i = true → (u.page k).fault.getLsbD i = true) ∧
  (∀ t, (u.tile t).store = (s.tile t).store ∧ (u.tile t).ops = (s.tile t).ops) ∧
  ∀ n, (u.ctx n).map (·.st) = (s.ctx n).map (·.st)

theorem Calm.refl (s : State) : Calm s s := ⟨rfl, rfl, rfl, fun _ => ⟨rfl, rfl⟩, fun _ _ h => h, fun _ => ⟨rfl, rfl⟩, fun _ => rfl⟩

theorem Calm.trans {s t u : State} (h : Calm s t) (g : Calm t u) : Calm s u := by
  obtain ⟨h1, h2, h3, h4, h5, h6, h7⟩ := h
  obtain ⟨g1, g2, g3, g4, g5, g6, g7⟩ := g
  exact ⟨g1.trans h1, g2.trans h2, g3.trans h3, fun k => ⟨(g4 k).1.trans (h4 k).1, (g4 k).2.trans (h4 k).2⟩, fun k i h => g5 k i (h5 k i h),
    fun t => ⟨(g6 t).1.trans (h6 t).1, (g6 t).2.trans (h6 t).2⟩, fun n => (g7 n).trans (h7 n)⟩

/-- A change of fields that Calm does not speak of. -/
theorem Calm.of {s u : State} (h1 : u.fences = s.fences) (h2 : u.boot = s.boot) (h3 : u.pins.thermLatch = s.pins.thermLatch) (h4 : u.hbmStacks = s.hbmStacks)
    (h5 : u.pages = s.pages) (h6 : u.tiles = s.tiles) (h7 : u.ctxs = s.ctxs) : Calm s u := by
  refine ⟨h1, h2, h3, fun k => ?_, fun k i h => ?_, fun t => ?_, fun n => ?_⟩
  · simp only [State.stack, h4, and_self]
  · simpa only [State.page, h5] using h
  · simp only [State.tile, h6, and_self]
  · simp only [State.ctx, h7]

theorem Calm.forAll {α : Type} (xs : List α) (f : α → State → State) (hf : ∀ x s, Calm s (f x s)) (s : State) : Calm s (forAll xs f s) := by
  unfold Machine.forAll
  induction xs generalizing s with
  | nil => exact Calm.refl s
  | cons x xs ih => exact (hf x s).trans (ih _)

theorem Calm.modTile (t : Nat) (f : Tile → Tile) (hf : ∀ x, (f x).store = x.store ∧ (f x).ops = x.ops) (s : State) : Calm s (s.modTile t f) := by
  refine ⟨rfl, rfl, rfl, fun _ => ⟨rfl, rfl⟩, fun _ _ h => h, fun q => ?_, fun _ => rfl⟩
  by_cases h : q = t
  · subst h; rw [State.modTile_self]; exact hf _
  · rw [State.modTile_ne _ _ _ _ h]; exact ⟨rfl, rfl⟩

theorem Calm.setCtx (c : Nat) (x y : Ctx) (s : State) (h : s.ctx c = some x) (hf : y.st = x.st) : Calm s (s.setCtx c y) := by
  refine ⟨rfl, rfl, rfl, fun _ => ⟨rfl, rfl⟩, fun _ _ h => h, fun _ => ⟨rfl, rfl⟩, fun n => ?_⟩
  unfold State.ctx State.setCtx at *
  dsimp only
  rw [sget_sset]
  split
  · subst_vars; rw [h]; simp [hf]
  · rfl

theorem Calm.modCtx (c : Nat) (f : Ctx → Ctx) (hf : ∀ x, (f x).st = x.st) (s : State) : Calm s (s.modCtx c f) := by
  unfold State.modCtx
  split
  · rename_i x h; exact Calm.setCtx c x (f x) s h (hf x)
  · exact Calm.refl s

theorem Page.record_mono (p : Page) (fc i : Nat) (h : p.fault.getLsbD i = true) : (p.record fc).fault.getLsbD i = true := by
  simp [Page.record, h]

theorem recordFault_pages (k b c : Nat) (s : State) : (recordFault k b c s).pages = (s.modPage k (·.record (faultCode b c))).pages := by
  unfold recordFault recordFaultF
  dsimp only
  split
  · rfl
  · rw [postEvent_rest]

theorem recordFault_page_self (k b c : Nat) (s : State) : (recordFault k b c s).page k = (s.page k).record (faultCode b c) := by
  unfold State.page; rw [recordFault_pages]; unfold State.modPage; simp [State.page]

theorem recordFault_page_ne (k j b c : Nat) (s : State) (h : j ≠ k) : (recordFault k b c s).page j = s.page j := by
  unfold State.page; rw [recordFault_pages]; unfold State.modPage; simp [sgetD_sset_ne _ _ _ _ _ h]

theorem recordFault_latch (k b c : Nat) (s : State) : (recordFault k b c s).pins.thermLatch = s.pins.thermLatch := by
  unfold recordFault recordFaultF
  dsimp only
  split
  · dsimp only; split <;> rfl
  · rw [postEvent_rest]; dsimp only; split <;> rfl

theorem Calm.recordFault (k b c : Nat) (s : State) : Calm s (recordFault k b c s) := by
  refine ⟨by rw [recordFault_rest], by rw [recordFault_rest], recordFault_latch k b c s, fun q => ?_, fun q i h => ?_, fun t => ?_, fun n => ?_⟩
  · rw [recordFault_rest]; exact ⟨rfl, rfl⟩
  · by_cases hq : q = k
    · subst hq; rw [recordFault_page_self]; exact Page.record_mono _ _ _ h
    · rw [recordFault_page_ne _ _ _ _ _ hq]; exact h
  · rw [recordFault_rest]; exact ⟨rfl, rfl⟩
  · rw [recordFault_rest]; rfl

theorem Calm.stopOnTile (t c fc : Nat) (s : State) : Calm s (stopOnTile t c fc s) := by
  unfold Machine.stopOnTile
  exact (Calm.modTile t (·.stopCtx c) (fun _ => ⟨rfl, rfl⟩) s).trans (Calm.modCtx c (fun x => { x with stop := if x.stop.isSome then x.stop else some fc }) (fun _ => rfl) _)

theorem Calm.ctxFault (t c b k : Nat) (s : State) : Calm s (ctxFault t c b k s) := (Calm.recordFault _ b k s).trans (Calm.stopOnTile t c _ _)
theorem Calm.markStop (c fc : Nat) (s : State) : Calm s (markStop c fc s) :=
  Calm.modCtx c (fun x => { x with stop := if x.stop.isSome then x.stop else some fc }) (fun _ => rfl) s

theorem Calm.refuseWaiting (r code : Nat) (s : State) : Calm s (refuseWaiting r code s) := by
  unfold Machine.refuseWaiting
  refine Calm.forAll _ _ (fun p s => ?_) s
  refine Calm.trans (Calm.modTile p.1 (fun x => { x with router := { x.router with inj := x.router.inj.filter (fun f => !f.waitsFor p.1 r) } }) (fun _ => ⟨rfl, rfl⟩) s) ?_
  apply Calm.forAll
  intro f s
  apply Calm.ctxFault

theorem Calm.modRegion (r : Nat) (f : Region → Region) (s : State) : Calm s (s.modRegion r f) := Calm.of rfl rfl rfl rfl rfl rfl rfl
theorem Calm.bankFenced (r : Nat) (s : State) : Calm s (bankFenced r s) := (Calm.modRegion r _ s).trans (Calm.refuseWaiting r 0x09 _)
theorem Calm.draw (s : State) : Calm s s.draw.2 := Calm.of rfl rfl rfl rfl rfl rfl rfl
theorem Calm.hbmWrite (a : Nat) (bs : List Byte) (s : State) : Calm s (s.hbmWrite a bs) := Calm.of rfl rfl rfl rfl rfl rfl rfl

theorem Calm.reserveRecord (n : Nat) (s : State) : Calm s (reserveRecord n s).2 := by
  unfold Machine.reserveRecord
  dsimp only
  split
  · exact Calm.refl s
  split
  · exact Calm.of rfl rfl rfl rfl rfl rfl rfl
  · split <;> exact Calm.of rfl rfl rfl rfl rfl rfl rfl

theorem Calm.freeRecord (ty fl n len step : Nat) (s : State) : Calm s (freeRecord ty fl n len step s) := by
  unfold Machine.freeRecord
  have h := Calm.reserveRecord len s
  split <;> rename_i e <;> rw [e] at h
  · exact h
  · refine h.trans ?_
    dsimp only
    generalize varHeader _ _ _ _ _ _ _ _ _ ++ _ = bs
    exact Calm.of rfl rfl rfl rfl rfl rfl rfl

theorem Calm.dropCapture (p : Nat → Bool) (code : Nat) (s : State) : Calm s (dropCapture p code s) := by
  unfold Machine.dropCapture
  dsimp only
  split
  · exact Calm.refl s
  · exact (Calm.freeRecord _ _ _ _ _ s).trans (Calm.of rfl rfl rfl rfl rfl rfl rfl)

theorem Calm.abandonRecords (p : Nat → Bool) (code : Nat) (s : State) : Calm s (abandonRecords p code s) := by
  unfold Machine.abandonRecords
  refine Calm.trans (Calm.forAll _ _ (fun q s => ?_) s) (Calm.trans (Calm.of rfl rfl rfl rfl rfl rfl rfl) (Calm.dropCapture _ _ _))
  split
  · exact Calm.refl s
  · exact Calm.hbmWrite _ _ s

theorem sget_map {α β : Type} (m : Sparse α) (f : α → β) (k : Nat) : sget (m.map (fun q => (q.1, f q.2))) k = (sget m k).map f := by
  induction m with
  | nil => rfl
  | cons q r ih =>
    simp only [List.map_cons, sget]
    split
    · rfl
    · exact ih

theorem stack_map (m : Sparse Stack) (f : Stack → Stack) (hf : ∀ q, (f q).st = q.st ∧ (f q).trainFailed = q.trainFailed) (j : Nat) :
    (sgetD (m.map (fun q => (q.1, f q.2))) j {}).st = (sgetD m j {}).st ∧ (sgetD (m.map (fun q => (q.1, f q.2))) j {}).trainFailed = (sgetD m j {}).trainFailed := by
  unfold sgetD
  rw [sget_map]
  cases sget m j with
  | none => exact ⟨rfl, rfl⟩
  | some q => exact hf q

theorem Calm.holdCtx (n : Nat) (s : State) : Calm s (holdCtx n s) := by
  unfold Machine.holdCtx
  split
  · exact Calm.refl s
  · rename_i c h
    exact (Calm.setCtx n c { c with held := true } s h rfl).trans (Calm.of rfl rfl rfl rfl rfl rfl rfl)

theorem Calm.dueHold (m : Nat) (s : State) : Calm s (dueHold m s) := by
  unfold Machine.dueHold
  exact Calm.trans (Calm.of rfl rfl rfl rfl rfl rfl rfl) (Calm.forAll _ _ Calm.holdCtx _)

theorem Calm.failRound (b : Nat) (s : State) : Calm s (failRound b s) := by
  unfold Machine.failRound
  split
  · exact Calm.refl s
  · rename_i k h
    have h2 : Calm s { s.setBucket b { k with st := .failed } with hbmStacks := (s.setBucket b { k with st := .failed }).hbmStacks.map (fun q => (q.1, { q.2 with staged := q.2.staged.filter (fun p => p.bucket ≠ b) })) } := by
      refine ⟨rfl, rfl, rfl, fun j => ?_, fun _ _ h => h, fun _ => ⟨rfl, rfl⟩, fun _ => rfl⟩
      exact stack_map s.hbmStacks (fun q => { q with staged := q.staged.filter (fun p => p.bucket ≠ b) }) (fun _ => ⟨rfl, rfl⟩) j
    dsimp only
    split
    · exact h2
    · exact h2.trans (Calm.dueHold _ _)

/-- The first two steps of a fence. -/
theorem fenceStart_calm (hit : List Nat) (fc : Nat) (p : Nat → Bool) (code : Nat) (s : State) :
    Calm s (abandonRecords p code (Machine.forAll hit (fun c s => Machine.markStop c fc s) s).draw.2) :=
  (Calm.forAll hit _ (fun c s => Calm.markStop c fc s) s).trans ((Calm.draw _).trans (Calm.abandonRecords p code _))

/-- Everything before a fence's own mark: with the fence of a stack its state, and nothing else of Calm, changes. -/
theorem fenceAct_calm (kind idx fc : Nat) (s : State) (h : kind ≠ 1) : Calm s (fenceAct kind idx fc s) := by
  unfold fenceAct
  dsimp only
  split
  · exact (fenceStart_calm _ fc _ _ s).trans (Calm.bankFenced _ _)
  · exact absurd rfl h
  · exact (fenceStart_calm _ fc _ _ s).trans (Calm.forAll _ (fun l s => s.modLink l (fun k => { k with st := .absent })) (fun l s => Calm.of rfl rfl rfl rfl rfl rfl rfl) _)
  · refine (fenceStart_calm _ fc _ _ s).trans (Calm.forAll _ _ (fun r s => ?_) _)
    split
    · exact Calm.refl s
    · exact Calm.bankFenced _ _

theorem fenceAct_stack (idx fc : Nat) (s : State) : ∃ v, Calm s v ∧ Calm (v.modStack idx (fun k => { k with st := .banked })) (fenceAct 1 idx fc s) := by
  unfold fenceAct
  exact ⟨_, fenceStart_calm _ fc _ _ s, Calm.forAll _ (fun b s => Machine.failRound b (Machine.recordFault (pageKey 0x3C idx) ((fc / 64) % 64) (fc % 64) s))
    (fun b s => (Calm.recordFault _ _ _ _).trans (Calm.failRound _ _)) _⟩

theorem postEvent_calm (ty so f : Nat) (b : List Byte) (s : State) : Calm s (postEvent ty so f b s) := by
  rw [postEvent_rest]; exact Calm.of rfl rfl rfl rfl rfl rfl rfl

theorem fencePost_fences (kind idx fc : Nat) (s : State) : (fencePost kind idx fc s).fences = (fenceMark kind idx fc s).fences := by
  unfold fencePost; dsimp only; rw [postEvent_rest]

/-- The fence map after a fence of a region, a port or a die: its mark, unless it was fenced already. -/
theorem raiseFence_fences (kind idx fc : Nat) (s : State) (h : kind ≠ 1) :
    (raiseFence kind idx fc s).fences = if s.isFenced kind idx then s.fences else (fenceMark kind idx fc s).fences := by
  unfold raiseFence
  split
  · rfl
  · rw [fencePost_fences]
    have hc := (fenceAct_calm kind idx fc s h).1
    unfold fenceMark
    dsimp only
    rw [hc]

/-- Fencing a region, a port or a die changes nothing of Calm but the fence map. -/
theorem raiseFence_calm (kind idx fc : Nat) (s : State) (h : kind ≠ 1) :
    Calm { s with fences := (raiseFence kind idx fc s).fences } (raiseFence kind idx fc s) := by
  unfold raiseFence
  split
  · exact Calm.refl s
  · obtain ⟨-, h2, h3, h4, h5, h6, h7⟩ := fenceAct_calm kind idx fc s h
    unfold fencePost
    obtain ⟨-, g2, g3, g4, g5, g6, g7⟩ := postEvent_calm 0x09 0xFF fc (faultPayload (fencePage kind idx) (fc / 4096) (fenceMark kind idx fc (fenceAct kind idx fc s)).fences.last.toNat)
      (fenceMark kind idx fc (fenceAct kind idx fc s))
    exact ⟨rfl, g2.trans h2, g3.trans h3, fun k => ⟨(g4 k).1.trans (h4 k).1, (g4 k).2.trans (h4 k).2⟩, fun k i hh => g5 k i (h5 k i hh),
      fun t => ⟨(g6 t).1.trans (h6 t).1, (g6 t).2.trans (h6 t).2⟩, fun n => (g7 n).trans (h7 n)⟩

end Sys2Proof.Machine
end

