-- ==== Sys2Proof/Laws/Keeps.lean ====
section
/-! SUPPORT. What every operation keeps, relative to an earlier state: the queue, the canonical form of the memories, the notches, nonces and version floors, and that free values are never used twice. This file states the relation and its parts; the files after it hold one lemma per function, in the order of the model. -/

namespace Sys2Proof.Machine

/-! ### The relation and its parts -/

/-- The store of a tile is canonical. -/
def Tile.memOk (x : Tile) : Prop := x.store.wf = true

/-- Every listed tile has a canonical store. -/
def tilesOk (ts : Sparse Tile) : Prop := ∀ p ∈ ts, p.2.memOk

/-- No nonce has gone down. -/
def noncesUp (s0 : State) (ns : Sparse (BitVec 64)) : Prop := ∀ r, (sgetD s0.sec.nonces r 0).toNat ≤ (sgetD ns r 0).toNat

/-- No version floor has gone down. -/
def floorsUp (s0 : State) (fs : Sparse Nat) : Prop := ∀ i, sgetD s0.boot.floor i 0 ≤ sgetD fs i 0

/-- No notch has come back, and no nonce has gone down. -/
def secOk (s0 : State) (k : Security) : Prop :=
  k.nOp ≤ s0.sec.nOp ∧ k.nOwn ≤ s0.sec.nOwn ∧ k.nCeil ≤ s0.sec.nCeil ∧ k.nDebug ≤ s0.sec.nDebug ∧ noncesUp s0 k.nonces

def bootOk (s0 : State) (b : Boot) : Prop := floorsUp s0 b.floor

/-- What an operation keeps. -/
def Keeps (s0 s : State) : Prop :=
  s.pending = s0.pending ∧ s0.freeCtr ≤ s.freeCtr ∧ s.hbm.wf = true ∧ s.hostMem.wf = true ∧ tilesOk s.tiles ∧ secOk s0 s.sec ∧ bootOk s0 s.boot

/-- A next state of the outcome keeps it. -/
def OutcomeKeeps (s0 : State) (o : Host.Outcome State Fault Refusal) : Prop := ∀ u, o = .next u → Keeps s0 u

theorem Keeps.pending {s0 s : State} (h : Keeps s0 s) : s.pending = s0.pending := h.1
theorem Keeps.fresh {s0 s : State} (h : Keeps s0 s) : s0.freeCtr ≤ s.freeCtr := h.2.1
theorem Keeps.fresh1 {s0 s : State} (h : Keeps s0 s) : s0.freeCtr ≤ s.freeCtr + 1 := Nat.le_succ_of_le h.2.1
theorem Keeps.hbm {s0 s : State} (h : Keeps s0 s) : Memory.wf s.hbm = true := h.2.2.1
theorem Keeps.hostMem {s0 s : State} (h : Keeps s0 s) : Memory.wf s.hostMem = true := h.2.2.2.1
theorem Keeps.tiles {s0 s : State} (h : Keeps s0 s) : tilesOk s.tiles := h.2.2.2.2.1
theorem Keeps.sec {s0 s : State} (h : Keeps s0 s) : secOk s0 s.sec := h.2.2.2.2.2.1
theorem Keeps.boot {s0 s : State} (h : Keeps s0 s) : bootOk s0 s.boot := h.2.2.2.2.2.2
theorem secOk.nOp {s0 : State} {k : Security} (h : secOk s0 k) : k.nOp ≤ s0.sec.nOp := h.1
theorem secOk.nOwn {s0 : State} {k : Security} (h : secOk s0 k) : k.nOwn ≤ s0.sec.nOwn := h.2.1
theorem secOk.nCeil {s0 : State} {k : Security} (h : secOk s0 k) : k.nCeil ≤ s0.sec.nCeil := h.2.2.1
theorem secOk.nDebug {s0 : State} {k : Security} (h : secOk s0 k) : k.nDebug ≤ s0.sec.nDebug := h.2.2.2.1
theorem secOk.nonces {s0 : State} {k : Security} (h : secOk s0 k) : noncesUp s0 k.nonces := h.2.2.2.2
theorem bootOk.floors {s0 : State} {b : Boot} (h : bootOk s0 b) : floorsUp s0 b.floor := h
theorem Tile.memOk.store {x : Tile} (h : x.memOk) : Memory.wf x.store = true := h

theorem Keeps.refl (s : State) (h : s.memOk) : Keeps s s :=
  ⟨rfl, Nat.le_refl _, h.1, h.2.1, h.2.2, ⟨Nat.le_refl _, Nat.le_refl _, Nat.le_refl _, Nat.le_refl _, fun _ => Nat.le_refl _⟩, fun _ => Nat.le_refl _⟩

theorem Keeps.memOk {s0 s : State} (h : Keeps s0 s) : s.memOk := ⟨h.hbm, h.hostMem, h.tiles⟩

theorem Keeps.lasts {s0 s : State} (h : Keeps s0 s) : s0.Lasts s :=
  ⟨h.sec.1, h.sec.2.1, h.sec.2.2.1, h.sec.2.2.2.1, h.sec.2.2.2.2, h.boot⟩

theorem Memory.wf_empty : Memory.wf [] = true := rfl
theorem tilesOk_empty : tilesOk [] := by simp [tilesOk]
theorem Tile.memOk_default : Tile.memOk {} := rfl

theorem tilesOk_sset (ts : Sparse Tile) (t : Nat) (x : Tile) (hx : x.memOk) (h : tilesOk ts) : tilesOk (sset ts t x) := by
  induction ts with
  | nil => simpa [sset, tilesOk] using hx
  | cons p r ih =>
    obtain ⟨j, w⟩ := p
    have hw : w.memOk := h (j, w) (by simp)
    have hr : tilesOk r := fun q hq => h q (List.mem_cons_of_mem _ hq)
    simp only [sset]
    split
    · intro q hq
      rcases List.mem_cons.mp hq with rfl | hq
      · exact hx
      · exact h q hq
    · split
      · intro q hq
        rcases List.mem_cons.mp hq with rfl | hq
        · exact hx
        · exact hr q hq
      · intro q hq
        rcases List.mem_cons.mp hq with rfl | hq
        · exact hw
        · exact ih hr q hq

theorem tilesOk_sget (ts : Sparse Tile) (t : Nat) (x : Tile) (h : tilesOk ts) (e : sget ts t = some x) : x.memOk := by
  induction ts with
  | nil => simp [sget] at e
  | cons p r ih =>
    obtain ⟨j, w⟩ := p
    have hw : w.memOk := h (j, w) (by simp)
    have hr : tilesOk r := fun q hq => h q (List.mem_cons_of_mem _ hq)
    simp only [sget] at e
    split at e
    · cases e
      exact hw
    · exact ih hr e

theorem State.tile_keeps {s0 s : State} (t : Nat) (h : Keeps s0 s) : (s.tile t).memOk := by
  unfold State.tile sgetD
  cases e : sget s.tiles t with
  | none => exact Tile.memOk_default
  | some x => exact tilesOk_sget _ _ _ h.tiles e

theorem tilesOk_map (ts : Sparse Tile) (f : Nat × Tile → Nat × Tile) (hf : ∀ p, p.2.memOk → (f p).2.memOk) (h : tilesOk ts) : tilesOk (ts.map f) := by
  intro q hq
  obtain ⟨p, hp, rfl⟩ := List.mem_map.mp hq
  exact hf p (h p hp)

theorem State.setTile_keeps {s0 : State} (s : State) (t : Nat) (x : Tile) (hx : x.memOk) (h : Keeps s0 s) : Keeps s0 (s.setTile t x) :=
  ⟨h.1, h.2.1, h.2.2.1, h.2.2.2.1, tilesOk_sset _ _ _ hx h.tiles, h.sec, h.boot⟩

theorem State.modTile_keeps {s0 : State} (s : State) (t : Nat) (f : Tile → Tile) (hf : ∀ x, x.memOk → (f x).memOk) (h : Keeps s0 s) : Keeps s0 (s.modTile t f) :=
  State.setTile_keeps _ _ _ (hf _ (State.tile_keeps t h)) h

theorem forAll_keeps {s0 : State} {α : Type} (xs : List α) (f : α → State → State) (s : State) (hf : ∀ a s, Keeps s0 s → Keeps s0 (f a s)) (h : Keeps s0 s) :
    Keeps s0 (forAll xs f s) := by
  unfold forAll
  induction xs generalizing s with
  | nil => exact h
  | cons a r ih => exact ih _ (hf a s h)

theorem State.draw_keeps {s0 : State} (s : State) (h : Keeps s0 s) : Keeps s0 s.draw.2 :=
  ⟨h.1, Nat.le_succ_of_le h.2.1, h.2.2⟩

theorem foldl_keeps {α : Type} (xs : List α) (f : Tile → α → Tile) (x : Tile) (hf : ∀ x a, x.memOk → (f x a).memOk) (h : x.memOk) :
    Tile.memOk (xs.foldl f x) := by
  induction xs generalizing x with
  | nil => exact h
  | cons a r ih => exact ih _ (hf x a h)

theorem foldlState_keeps {s0 : State} {α : Type} (xs : List α) (f : State → α → State) (s : State) (hf : ∀ s a, Keeps s0 s → Keeps s0 (f s a)) (h : Keeps s0 s) :
    Keeps s0 (xs.foldl f s) := by
  induction xs generalizing s with
  | nil => exact h
  | cons a r ih => exact ih _ (hf s a h)

theorem foldlSnd_keeps {s0 : State} {α β : Type} (xs : List α) (f : β × State → α → β × State) (p : β × State) (hf : ∀ p a, Keeps s0 p.2 → Keeps s0 (f p a).2)
    (h : Keeps s0 p.2) : Keeps s0 (xs.foldl f p).2 := by
  induction xs generalizing p with
  | nil => exact h
  | cons a r ih => exact ih _ (hf p a h)

theorem foldlThd_keeps {s0 : State} {α β γ : Type} (xs : List α) (f : β × γ × State → α → β × γ × State) (p : β × γ × State)
    (hf : ∀ p a, Keeps s0 p.2.2 → Keeps s0 (f p a).2.2) (h : Keeps s0 p.2.2) : Keeps s0 (xs.foldl f p).2.2 := by
  induction xs generalizing p with
  | nil => exact h
  | cons a r ih => exact ih _ (hf p a h)

theorem foldlMem_wf {α : Type} (xs : List α) (f : Memory → α → Memory) (m : Memory) (hf : ∀ m a, m.wf = true → (f m a).wf = true) (h : m.wf = true) :
    Memory.wf (xs.foldl f m) = true := by
  induction xs generalizing m with
  | nil => exact h
  | cons a r ih => exact ih _ (hf m a h)

def optKeeps (s0 : State) (o : Option State) : Prop := ∀ u, o = some u → Keeps s0 u
def optTileOk (o : Option Tile) : Prop := ∀ u, o = some u → u.memOk
def optPairKeeps (s0 : State) {α : Type} (o : Option (α × State)) : Prop := ∀ u, o = some u → Keeps s0 u.2
@[simp] theorem optKeeps_none (s0 : State) : optKeeps s0 none := by simp [optKeeps]
@[simp] theorem optKeeps_some (s0 u : State) : optKeeps s0 (some u) ↔ Keeps s0 u := by simp [optKeeps]
@[simp] theorem optTileOk_none : optTileOk none := by simp [optTileOk]
@[simp] theorem optTileOk_some (u : Tile) : optTileOk (some u) ↔ u.memOk := by simp [optTileOk]
@[simp] theorem optPairKeeps_none (s0 : State) {α : Type} : optPairKeeps s0 (α := α) none := by simp [optPairKeeps]
@[simp] theorem optPairKeeps_some (s0 : State) {α : Type} (a : α) (u : State) : optPairKeeps s0 (some (a, u)) ↔ Keeps s0 u := by simp [optPairKeeps]

theorem OutcomeKeeps_next {s0 : State} (u : State) (h : Keeps s0 u) : OutcomeKeeps s0 (.next u) := by
  intro v e
  cases e
  exact h

theorem ite_keeps {s0 : State} (c : Prop) [Decidable c] (a b : State) (ha : Keeps s0 a) (hb : Keeps s0 b) : Keeps s0 (if c then a else b) := by
  split
  · exact ha
  · exact hb

theorem ite_optKeeps {s0 : State} (c : Prop) [Decidable c] (a b : Option State) (ha : optKeeps s0 a) (hb : optKeeps s0 b) : optKeeps s0 (if c then a else b) := by
  split
  · exact ha
  · exact hb

theorem leNat_lt (bs : List Byte) : leNat bs < 2 ^ (8 * bs.length) := by
  induction bs with
  | nil => simp [leNat]
  | cons b bs ih =>
    have hb := b.isLt
    have h2 : 2 ^ (8 * (b :: bs).length) = 256 * 2 ^ (8 * bs.length) := by
      rw [List.length_cons, Nat.mul_add, Nat.pow_add]
      omega
    rw [h2]
    simp only [leNat]
    omega

theorem bytesAt_lt (bs : List Byte) (a n : Nat) : bytesAt bs a n < 2 ^ (8 * n) := by
  unfold bytesAt
  have h := leNat_lt ((bs.drop a).take n)
  have hl : ((bs.drop a).take n).length ≤ n := List.length_take_le _ _
  exact Nat.lt_of_lt_of_le h (Nat.pow_le_pow_right (by decide) (by omega))

theorem Keeps_mk {s0 : State} {pending : List Instr} {freeCtr : Nat} {boot : Boot} {pins : Pins} {fences : Fences} {tiles : Sparse Tile} {clusters : Sparse Cluster} {regions : Sparse Region} {dies : Sparse Die} {granule : Nat} {hbmStacks : Sparse Stack} {hbm : Memory} {hbmQ : List HbmWrite} {hostMem : Memory} {ctxs : Sparse Ctx} {graphs : Sparse Graph} {graphOrder : Nat} {buckets : Sparse Bucket} {handoffs : List Packet} {holds : List Nat} {holdsDue : List Nat} {mismatches : List Mismatch} {mismLost : Nat} {ctlFail : Bool} {ctxSel : Nat} {graphSel : Nat} {switchLast : Word} {evl : Evl} {links : Sparse Link} {ports : Sparse CordPort} {cad : Cadence} {pwr : Power} {sec : Security} {forn : Forensics} {pages : Sparse Page} {summary : Summary} {cycle : Nat} {us : Nat} {mgmt : Reply} {bulk : Reply} {smb : Reply} {snoop : Reply} {jtag : Reply} : Keeps s0 (State.mk pending freeCtr boot pins fences tiles clusters regions dies granule hbmStacks hbm hbmQ hostMem ctxs graphs graphOrder buckets handoffs holds holdsDue mismatches mismLost ctlFail ctxSel graphSel switchLast evl links ports cad pwr sec forn pages summary cycle us mgmt bulk smb snoop jtag) ↔ pending = s0.pending ∧ s0.freeCtr ≤ freeCtr ∧ Memory.wf hbm = true ∧ Memory.wf hostMem = true ∧ tilesOk tiles ∧ secOk s0 sec ∧ bootOk s0 boot := Iff.rfl

theorem secOk_mk {s0 : State} {opKey : Option (BitVec 256)} {ownKey : Option (BitVec 256)} {attKey : Option (BitVec 256)} {nonces : Sparse (BitVec 64)} {nOp : Nat} {nOwn : Nat} {nCeil : Nat} {nDebug : Nat} {nominal : Nat} {imagePol : Bool} {debugPol : Nat} {debugIn : Nat} {allowList : Bool} {partners : List (BitVec 64)} {ceiling : Nat} {stOp : Staged} {stOwn : Staged} {run : Option StoreRun} {waiting : List StoreRun} {audit : List (List Byte)} {auditBad : List Nat} {auditSeq : Nat} {auditFull : Bool} {auditSel : Nat} {recFailed : List Nat} {refusal : Word} {schemaA : Nat} {schemaB : Nat} {chainSeq : Nat} {chainDig : BitVec 512} {powerGen : Nat} {powerCert : List Byte} {identPub : BitVec 256} {identCert : List Byte} {attNonce : Sparse Word} {attSt : Nat} {attBuild : List AttBuild} {attData : List Byte} {reply : List Byte} {replyCode : Nat} {replyAt : Nat} {pitSlot : Nat} {pitFmt : Nat} {pitOld : Bool} {pitClear : Bool} {chunks : List (List Byte)} {erasing : Bool} {history : Sparse Nat} : secOk s0 (Security.mk opKey ownKey attKey nonces nOp nOwn nCeil nDebug nominal imagePol debugPol debugIn allowList partners ceiling stOp stOwn run waiting audit auditBad auditSeq auditFull auditSel recFailed refusal schemaA schemaB chainSeq chainDig powerGen powerCert identPub identCert attNonce attSt attBuild attData reply replyCode replyAt pitSlot pitFmt pitOld pitClear chunks erasing history) ↔ nOp ≤ s0.sec.nOp ∧ nOwn ≤ s0.sec.nOwn ∧ nCeil ≤ s0.sec.nCeil ∧ nDebug ≤ s0.sec.nDebug ∧ noncesUp s0 nonces := Iff.rfl

theorem bootOk_mk {s0 : State} {stage : Nat} {ready : Bool} {recovery : Bool} {bank : Nat} {reverted : Bool} {migrated : Bool} {crossFail : Bool} {fault : Nat} {ms : Nat} {since : Nat} {late : Bool} {active : Nat} {bankA : FwBank} {bankB : FwBank} {floor : Sparse Nat} {running : Sparse Nat} {session : Session} : bootOk s0 (Boot.mk stage ready recovery bank reverted migrated crossFail fault ms since late active bankA bankB floor running session) ↔ floorsUp s0 floor := Iff.rfl

theorem Tile.memOk_mk {banks : Sparse CoreBank} {map : Sparse MapEntry} {gone : Sparse (Nat × Nat)} {run : Option Nat} {coreSt : Nat} {coreSlot : Nat} {stall : Stall} {fetched : Word} {stopped : Bool} {store : Memory} {bankSt : Sparse BankSt} {gate : Sparse Word} {gateRefused : Bool} {reqs : List BankReq} {reads : List BankReq} {bond : Nat × List Requester} {dmaBus : Nat × Bool × Bool} {arrived : List (ReqDst × List Byte)} {drains : List DrainHold} {nextReq : Nat} {nextCmd : Nat} {ranges : List RangeEntry} {merges : List MergeEntry} {matQ : List QEntry} {vecQ : List QEntry} {dmaQ : List QEntry} {rickQ : List QEntry} {matrix : MatrixSt} {vflags : BitVec 32} {ctr : Sparse (BitVec 48)} {sat : BitVec 64} {strayAdds : Nat} {rebaseSlot : Nat} {rebaseDone : Bool} {rebaseDefer : Bool} {cars : Sparse Carousel} {ops : List DmaOp} {nextOp : Nat} {ksl : List KSlot} {carSel : Word} {exch : ExchSt} {router : RouterSt} {eps : Sparse Endpoint} {msgs : List SendMsg} {chBlocked : Option (Nat × Bool × Nat)} {chStray : Nat} {rick : RickSt} {cum : Sparse (BitVec 64)} {pctx : Sparse Nat} {nonIdle : Nat} {latchSel : BitVec 64} {latchInfo : Word} {latchStart : Sparse (BitVec 64)} {latchEnd : Sparse (BitVec 64)} {latchStartBy : Option LatchBy} {latchEndBy : Option LatchBy} {pctxSel : Nat} {histSel : Word} {hist : Sparse (BitVec 64)} {trace : List TraceRec} {traceGap : Bool} {ctrShadow : Sparse Word} {cumShadow : Sparse Word} {arrivedAt : Nat} : Tile.memOk (.mk banks map gone run coreSt coreSlot stall fetched stopped store bankSt gate gateRefused reqs reads bond dmaBus arrived drains nextReq nextCmd ranges merges matQ vecQ dmaQ rickQ matrix vflags ctr sat strayAdds rebaseSlot rebaseDone rebaseDefer cars ops nextOp ksl carSel exch router eps msgs chBlocked chStray rick cum pctx nonIdle latchSel latchInfo latchStart latchEnd latchStartBy latchEndBy pctxSel histSel hist trace traceGap ctrShadow cumShadow arrivedAt) ↔ store.wf = true := Iff.rfl

end Sys2Proof.Machine
end

