-- ==== Sys2Proof/Laws/KeepsUnits.lean ====
section
/-! SUPPORT. What the shared operations, the fence, the engine of a tile and its stores keep. One lemma per function (see Laws/Keeps.lean for the relation), each said of any later state of the same run. -/

namespace Sys2Proof.Machine

/-! ### Machine/Ops.lean -/

theorem State.setCtx_keeps {s0 : State} (s : State) (c : Nat) (x : Ctx) (hs : Keeps s0 s) : Keeps s0 (State.setCtx s c x) := by
  unfold State.setCtx
  repeat' first
    | with_reducible first
        | assumption | apply And.intro | apply Keeps.hbm (s0 := s0) | apply Keeps.hostMem (s0 := s0) | apply Keeps.tiles (s0 := s0) | apply Keeps.sec
        | apply Keeps.boot | apply Keeps.pending | apply Keeps.fresh | apply State.tile_keeps (s0 := s0) | apply Tile.memOk.store | apply ite_keeps
    | dsimp only | simp only [Keeps_mk] | simp only [Tile.memOk_mk] | split | intro _

theorem State.modCtx_keeps {s0 : State} (s : State) (c : Nat) (f : Ctx → Ctx) (hs : Keeps s0 s) : Keeps s0 (State.modCtx s c f) := by
  unfold State.modCtx
  repeat' first
    | with_reducible first
        | assumption | apply State.setCtx_keeps | apply ite_keeps | apply State.tile_keeps (s0 := s0)
    | dsimp only | split | intro _

theorem State.setRegion_keeps {s0 : State} (s : State) (r : Nat) (x : Region) (hs : Keeps s0 s) : Keeps s0 (State.setRegion s r x) := by
  unfold State.setRegion
  repeat' first
    | with_reducible first
        | assumption | apply And.intro | apply Keeps.hbm (s0 := s0) | apply Keeps.hostMem (s0 := s0) | apply Keeps.tiles (s0 := s0) | apply Keeps.sec
        | apply Keeps.boot | apply Keeps.pending | apply Keeps.fresh | apply State.tile_keeps (s0 := s0) | apply Tile.memOk.store | apply ite_keeps
    | dsimp only | simp only [Keeps_mk] | simp only [Tile.memOk_mk] | split | intro _

theorem State.modRegion_keeps {s0 : State} (s : State) (r : Nat) (f : Region → Region) (hs : Keeps s0 s) : Keeps s0 (State.modRegion s r f) := by
  unfold State.modRegion
  repeat' first
    | with_reducible first
        | assumption | apply State.setRegion_keeps | apply ite_keeps | apply State.tile_keeps (s0 := s0)
    | dsimp only | split | intro _

theorem State.setStack_keeps {s0 : State} (s : State) (k : Nat) (x : Stack) (hs : Keeps s0 s) : Keeps s0 (State.setStack s k x) := by
  unfold State.setStack
  repeat' first
    | with_reducible first
        | assumption | apply And.intro | apply Keeps.hbm (s0 := s0) | apply Keeps.hostMem (s0 := s0) | apply Keeps.tiles (s0 := s0) | apply Keeps.sec
        | apply Keeps.boot | apply Keeps.pending | apply Keeps.fresh | apply State.tile_keeps (s0 := s0) | apply Tile.memOk.store | apply ite_keeps
    | dsimp only | simp only [Keeps_mk] | simp only [Tile.memOk_mk] | split | intro _

theorem State.modStack_keeps {s0 : State} (s : State) (k : Nat) (f : Stack → Stack) (hs : Keeps s0 s) : Keeps s0 (State.modStack s k f) := by
  unfold State.modStack
  repeat' first
    | with_reducible first
        | assumption | apply State.setStack_keeps | apply ite_keeps | apply State.tile_keeps (s0 := s0)
    | dsimp only | split | intro _

theorem State.setLink_keeps {s0 : State} (s : State) (l : Nat) (x : Link) (hs : Keeps s0 s) : Keeps s0 (State.setLink s l x) := by
  unfold State.setLink
  repeat' first
    | with_reducible first
        | assumption | apply And.intro | apply Keeps.hbm (s0 := s0) | apply Keeps.hostMem (s0 := s0) | apply Keeps.tiles (s0 := s0) | apply Keeps.sec
        | apply Keeps.boot | apply Keeps.pending | apply Keeps.fresh | apply State.tile_keeps (s0 := s0) | apply Tile.memOk.store | apply ite_keeps
    | dsimp only | simp only [Keeps_mk] | simp only [Tile.memOk_mk] | split | intro _

theorem State.modLink_keeps {s0 : State} (s : State) (l : Nat) (f : Link → Link) (hs : Keeps s0 s) : Keeps s0 (State.modLink s l f) := by
  unfold State.modLink
  repeat' first
    | with_reducible first
        | assumption | apply State.setLink_keeps | apply ite_keeps | apply State.tile_keeps (s0 := s0)
    | dsimp only | split | intro _

theorem State.modCluster_keeps {s0 : State} (s : State) (k : Nat) (f : Cluster → Cluster) (hs : Keeps s0 s) : Keeps s0 (State.modCluster s k f) := by
  unfold State.modCluster
  repeat' first
    | with_reducible first
        | assumption | apply And.intro | apply Keeps.hbm (s0 := s0) | apply Keeps.hostMem (s0 := s0) | apply Keeps.tiles (s0 := s0) | apply Keeps.sec
        | apply Keeps.boot | apply Keeps.pending | apply Keeps.fresh | apply State.tile_keeps (s0 := s0) | apply Tile.memOk.store | apply ite_keeps
    | dsimp only | simp only [Keeps_mk] | simp only [Tile.memOk_mk] | split | intro _

theorem State.modDie_keeps {s0 : State} (s : State) (d : Nat) (f : Die → Die) (hs : Keeps s0 s) : Keeps s0 (State.modDie s d f) := by
  unfold State.modDie
  repeat' first
    | with_reducible first
        | assumption | apply And.intro | apply Keeps.hbm (s0 := s0) | apply Keeps.hostMem (s0 := s0) | apply Keeps.tiles (s0 := s0) | apply Keeps.sec
        | apply Keeps.boot | apply Keeps.pending | apply Keeps.fresh | apply State.tile_keeps (s0 := s0) | apply Tile.memOk.store | apply ite_keeps
    | dsimp only | simp only [Keeps_mk] | simp only [Tile.memOk_mk] | split | intro _

theorem State.modPage_keeps {s0 : State} (s : State) (k : Nat) (f : Page → Page) (hs : Keeps s0 s) : Keeps s0 (State.modPage s k f) := by
  unfold State.modPage
  repeat' first
    | with_reducible first
        | assumption | apply And.intro | apply Keeps.hbm (s0 := s0) | apply Keeps.hostMem (s0 := s0) | apply Keeps.tiles (s0 := s0) | apply Keeps.sec
        | apply Keeps.boot | apply Keeps.pending | apply Keeps.fresh | apply State.tile_keeps (s0 := s0) | apply Tile.memOk.store | apply ite_keeps
    | dsimp only | simp only [Keeps_mk] | simp only [Tile.memOk_mk] | split | intro _

theorem State.setBucket_keeps {s0 : State} (s : State) (b : Nat) (x : Bucket) (hs : Keeps s0 s) : Keeps s0 (State.setBucket s b x) := by
  unfold State.setBucket
  repeat' first
    | with_reducible first
        | assumption | apply And.intro | apply Keeps.hbm (s0 := s0) | apply Keeps.hostMem (s0 := s0) | apply Keeps.tiles (s0 := s0) | apply Keeps.sec
        | apply Keeps.boot | apply Keeps.pending | apply Keeps.fresh | apply State.tile_keeps (s0 := s0) | apply Tile.memOk.store | apply ite_keeps
    | dsimp only | simp only [Keeps_mk] | simp only [Tile.memOk_mk] | split | intro _

theorem State.modBucket_keeps {s0 : State} (s : State) (b : Nat) (f : Bucket → Bucket) (hs : Keeps s0 s) : Keeps s0 (State.modBucket s b f) := by
  unfold State.modBucket
  repeat' first
    | with_reducible first
        | assumption | apply State.setBucket_keeps | apply ite_keeps | apply State.tile_keeps (s0 := s0)
    | dsimp only | split | intro _

theorem State.modGraph_keeps {s0 : State} (s : State) (g : Nat) (f : Graph → Graph) (hs : Keeps s0 s) : Keeps s0 (State.modGraph s g f) := by
  unfold State.modGraph
  repeat' first
    | with_reducible first
        | assumption | apply And.intro | apply Keeps.hbm (s0 := s0) | apply Keeps.hostMem (s0 := s0) | apply Keeps.tiles (s0 := s0) | apply Keeps.sec
        | apply Keeps.boot | apply Keeps.pending | apply Keeps.fresh | apply State.tile_keeps (s0 := s0) | apply Tile.memOk.store | apply ite_keeps
    | dsimp only | simp only [Keeps_mk] | simp only [Tile.memOk_mk] | split | intro _

theorem State.modRing_keeps {s0 : State} (s : State) (r : Nat) (f : Ring → Ring) (hs : Keeps s0 s) : Keeps s0 (State.modRing s r f) := by
  unfold State.modRing
  repeat' first
    | with_reducible first
        | assumption | apply And.intro | apply Keeps.hbm (s0 := s0) | apply Keeps.hostMem (s0 := s0) | apply Keeps.tiles (s0 := s0) | apply Keeps.sec
        | apply Keeps.boot | apply Keeps.pending | apply Keeps.fresh | apply State.tile_keeps (s0 := s0) | apply Tile.memOk.store | apply ite_keeps
    | dsimp only | simp only [Keeps_mk] | simp only [Tile.memOk_mk] | split | intro _

theorem State.modPort_keeps {s0 : State} (s : State) (p : Nat) (f : CordPort → CordPort) (hs : Keeps s0 s) : Keeps s0 (State.modPort s p f) := by
  unfold State.modPort
  repeat' first
    | with_reducible first
        | assumption | apply And.intro | apply Keeps.hbm (s0 := s0) | apply Keeps.hostMem (s0 := s0) | apply Keeps.tiles (s0 := s0) | apply Keeps.sec
        | apply Keeps.boot | apply Keeps.pending | apply Keeps.fresh | apply State.tile_keeps (s0 := s0) | apply Tile.memOk.store | apply ite_keeps
    | dsimp only | simp only [Keeps_mk] | simp only [Tile.memOk_mk] | split | intro _

theorem State.hbmWrite_keeps {s0 : State} (s : State) (a : Nat) (bs : List Byte) (hs : Keeps s0 s) : Keeps s0 (State.hbmWrite s a bs) := by
  unfold State.hbmWrite
  repeat' first
    | with_reducible first
        | assumption | apply And.intro | apply Memory.wf_memWrite | apply Keeps.hbm (s0 := s0) | apply Keeps.hostMem (s0 := s0)
        | apply Keeps.tiles (s0 := s0) | apply Keeps.sec | apply Keeps.boot | apply Keeps.pending | apply Keeps.fresh | apply Keeps.fresh1
        | apply secOk.nOp | apply secOk.nOwn | apply secOk.nCeil | apply secOk.nDebug | apply secOk.nonces | apply bootOk.floors
        | apply Tile.memOk.store | apply State.tile_keeps (s0 := s0) | apply tilesOk_sset | apply tilesOk_map | apply Memory.wf_filter
        | apply Memory.wf_memPut | apply foldlSnd_keeps | apply ite_keeps | apply ite_optKeeps | apply foldlThd_keeps | apply foldlMem_wf
        | apply Memory.wf_empty | apply tilesOk_empty | apply Tile.memOk_default
    | dsimp only | simp only [optKeeps_none, optKeeps_some, optTileOk_none, optTileOk_some, optPairKeeps_none, optPairKeeps_some]
    | simp only [Keeps_mk] | simp only [Tile.memOk_mk] | simp only [secOk_mk] | simp only [bootOk_mk] | split | intro _

theorem State.hostWrite_keeps {s0 : State} (s : State) (a : Nat) (bs : List Byte) (hs : Keeps s0 s) : Keeps s0 (State.hostWrite s a bs) := by
  unfold State.hostWrite
  repeat' first
    | with_reducible first
        | assumption | apply And.intro | apply Memory.wf_memWrite | apply Keeps.hbm (s0 := s0) | apply Keeps.hostMem (s0 := s0)
        | apply Keeps.tiles (s0 := s0) | apply Keeps.sec | apply Keeps.boot | apply Keeps.pending | apply Keeps.fresh | apply Keeps.fresh1
        | apply secOk.nOp | apply secOk.nOwn | apply secOk.nCeil | apply secOk.nDebug | apply secOk.nonces | apply bootOk.floors
        | apply Tile.memOk.store | apply State.tile_keeps (s0 := s0) | apply tilesOk_sset | apply tilesOk_map | apply Memory.wf_filter
        | apply Memory.wf_memPut | apply foldlSnd_keeps | apply ite_keeps | apply ite_optKeeps | apply foldlThd_keeps | apply foldlMem_wf
        | apply Memory.wf_empty | apply tilesOk_empty | apply Tile.memOk_default
    | dsimp only | simp only [optKeeps_none, optKeeps_some, optTileOk_none, optTileOk_some, optPairKeeps_none, optPairKeeps_some]
    | simp only [Keeps_mk] | simp only [Tile.memOk_mk] | simp only [secOk_mk] | simp only [bootOk_mk] | split | intro _

theorem State.cacheLine_keeps {s0 : State} (s : State) (a : Nat) (hs : Keeps s0 s) : Keeps s0 (State.cacheLine s a) := by
  unfold State.cacheLine
  repeat' first
    | with_reducible first
        | assumption | apply And.intro | apply Keeps.hbm (s0 := s0) | apply Keeps.hostMem (s0 := s0) | apply Keeps.tiles (s0 := s0) | apply Keeps.sec
        | apply Keeps.boot | apply Keeps.pending | apply Keeps.fresh | apply State.tile_keeps (s0 := s0) | apply Tile.memOk.store | apply ite_keeps
    | dsimp only | simp only [Keeps_mk] | simp only [Tile.memOk_mk] | split | intro _

theorem postTo_keeps {s0 : State} (r ty source fault tag : Nat) (payload : List Byte) (s : State) (hs : Keeps s0 s) : Keeps s0 (postTo r ty source fault tag payload s) := by
  unfold postTo
  repeat' first
    | with_reducible first
        | assumption | apply State.modRing_keeps | apply State.hostWrite_keeps | apply State.cacheLine_keeps | apply ite_keeps
        | apply State.tile_keeps (s0 := s0)
    | dsimp only | split | intro _

theorem postEvent_keeps {s0 : State} (ty source fault : Nat) (payload : List Byte) (s : State) (hs : Keeps s0 s) : Keeps s0 (postEvent ty source fault payload s) := by
  unfold postEvent
  repeat' first
    | with_reducible first
        | assumption | apply postTo_keeps | apply ite_keeps | apply State.tile_keeps (s0 := s0)
    | dsimp only | split | intro _

theorem recordFaultF_keeps {s0 : State} (fence : Nat) (key blk code : Nat) (s : State) (hs : Keeps s0 s) : Keeps s0 (recordFaultF fence key blk code s) := by
  unfold recordFaultF
  repeat' first
    | with_reducible first
        | assumption | apply State.modPage_keeps | apply postEvent_keeps | apply And.intro | apply Keeps.hbm (s0 := s0)
        | apply Keeps.hostMem (s0 := s0) | apply Keeps.tiles (s0 := s0) | apply Keeps.sec | apply Keeps.boot | apply Keeps.pending
        | apply Keeps.fresh | apply State.tile_keeps (s0 := s0) | apply Tile.memOk.store | apply ite_keeps
    | dsimp only | simp only [Keeps_mk] | simp only [Tile.memOk_mk] | split | intro _

theorem recordFault_keeps {s0 : State} (key blk code : Nat) (s : State) (hs : Keeps s0 s) : Keeps s0 (recordFault key blk code s) := by
  unfold recordFault
  repeat' first
    | with_reducible first
        | assumption | apply recordFaultF_keeps | apply ite_keeps | apply State.tile_keeps (s0 := s0)
    | dsimp only | split | intro _

theorem tileFault_keeps {s0 : State} (t blk code : Nat) (s : State) (hs : Keeps s0 s) : Keeps s0 (tileFault t blk code s) := by
  unfold tileFault
  repeat' first
    | with_reducible first
        | assumption | apply recordFault_keeps | apply ite_keeps | apply State.tile_keeps (s0 := s0)
    | dsimp only | split | intro _

theorem Tile.stopCtx_keeps (x : Tile) (c : Nat) (hx : x.memOk) : (Tile.stopCtx x c).memOk := by
  unfold Tile.stopCtx
  repeat' first
    | with_reducible first
        | assumption | apply And.intro | apply Keeps.hbm (s0 := s0) | apply Keeps.hostMem (s0 := s0) | apply Keeps.tiles (s0 := s0) | apply Keeps.sec
        | apply Keeps.boot | apply Keeps.pending | apply Keeps.fresh | apply State.tile_keeps (s0 := s0) | apply Tile.memOk.store | apply ite_keeps
    | dsimp only | simp only [Keeps_mk] | simp only [Tile.memOk_mk] | split | intro _

theorem stopOnTile_keeps {s0 : State} (t c fc : Nat) (s : State) (hs : Keeps s0 s) : Keeps s0 (stopOnTile t c fc s) := by
  unfold stopOnTile
  repeat' first
    | with_reducible first
        | assumption | apply State.modTile_keeps | apply Tile.stopCtx_keeps | apply State.modCtx_keeps | apply ite_keeps
        | apply State.tile_keeps (s0 := s0)
    | dsimp only | split | intro _

theorem ctxFault_keeps {s0 : State} (t c blk code : Nat) (s : State) (hs : Keeps s0 s) : Keeps s0 (ctxFault t c blk code s) := by
  unfold ctxFault
  repeat' first
    | with_reducible first
        | assumption | apply stopOnTile_keeps | apply tileFault_keeps | apply ite_keeps | apply State.tile_keeps (s0 := s0)
    | dsimp only | split | intro _

theorem markStop_keeps {s0 : State} (c fc : Nat) (s : State) (hs : Keeps s0 s) : Keeps s0 (markStop c fc s) := by
  unfold markStop
  repeat' first
    | with_reducible first
        | assumption | apply State.modCtx_keeps | apply ite_keeps | apply State.tile_keeps (s0 := s0)
    | dsimp only | split | intro _

theorem Tile.count_keeps (x : Tile) (slot : Option Nat) (id n : Nat) (hx : x.memOk) : (Tile.count x slot id n).memOk := by
  unfold Tile.count
  repeat' first
    | with_reducible first
        | assumption | apply And.intro | apply Keeps.hbm (s0 := s0) | apply Keeps.hostMem (s0 := s0) | apply Keeps.tiles (s0 := s0) | apply Keeps.sec
        | apply Keeps.boot | apply Keeps.pending | apply Keeps.fresh | apply State.tile_keeps (s0 := s0) | apply Tile.memOk.store | apply ite_keeps
    | dsimp only | simp only [Keeps_mk] | simp only [Tile.memOk_mk] | split | intro _

theorem Tile.countCtx_keeps (x : Tile) (c id n : Nat) (hx : x.memOk) : (Tile.countCtx x c id n).memOk := by
  unfold Tile.countCtx
  repeat' first
    | with_reducible first
        | assumption | apply Tile.count_keeps | apply ite_keeps | apply State.tile_keeps (s0 := s0)
    | dsimp only | split | intro _

theorem Tile.countFrozen_keeps (x : Tile) (slot : Option Nat) (cause n : Nat) (hx : x.memOk) : (Tile.countFrozen x slot cause n).memOk := by
  unfold Tile.countFrozen
  repeat' first
    | with_reducible first
        | assumption | apply Tile.count_keeps | apply ite_keeps | apply State.tile_keeps (s0 := s0)
    | dsimp only | split | intro _

theorem Tile.setReg_keeps (x : Tile) (slot r : Nat) (v : BitVec 64) (hx : x.memOk) : (Tile.setReg x slot r v).memOk := by
  unfold Tile.setReg
  repeat' first
    | with_reducible first
        | assumption | apply And.intro | apply Keeps.hbm (s0 := s0) | apply Keeps.hostMem (s0 := s0) | apply Keeps.tiles (s0 := s0) | apply Keeps.sec
        | apply Keeps.boot | apply Keeps.pending | apply Keeps.fresh | apply State.tile_keeps (s0 := s0) | apply Tile.memOk.store | apply ite_keeps
    | dsimp only | simp only [Keeps_mk] | simp only [Tile.memOk_mk] | split | intro _

theorem State.answer_keeps {s0 : State} (s : State) (code : Nat) (bs : List Byte) (hs : Keeps s0 s) : Keeps s0 (State.answer s code bs) := by
  unfold State.answer
  repeat' first
    | with_reducible first
        | assumption | apply And.intro | apply Keeps.hbm (s0 := s0) | apply Keeps.hostMem (s0 := s0) | apply Keeps.tiles (s0 := s0) | apply Keeps.sec
        | apply Keeps.boot | apply Keeps.pending | apply Keeps.fresh | apply State.tile_keeps (s0 := s0) | apply Tile.memOk.store | apply ite_keeps
    | dsimp only | simp only [Keeps_mk] | simp only [Tile.memOk_mk] | split | intro _

theorem refuseAccess_keeps {s0 : State} (key blk code : Nat) (s : State) (hs : Keeps s0 s) : Keeps s0 (refuseAccess key blk code s) := by
  unfold refuseAccess
  repeat' first
    | with_reducible first
        | assumption | apply recordFault_keeps | apply State.answer_keeps | apply ite_keeps | apply State.tile_keeps (s0 := s0)
    | dsimp only | split | intro _

/-! ### Machine/Operands.lean -/

theorem Tile.writeAt_keeps (x : Tile) (st : StoreId) (i off : Nat) (bs : List Byte) (hx : x.memOk) : (Tile.writeAt x st i off bs).memOk := by
  unfold Tile.writeAt
  repeat' first
    | with_reducible first
        | assumption | apply And.intro | apply Memory.wf_memWrite | apply Keeps.hbm (s0 := s0) | apply Keeps.hostMem (s0 := s0)
        | apply Keeps.tiles (s0 := s0) | apply Keeps.sec | apply Keeps.boot | apply Keeps.pending | apply Keeps.fresh | apply Keeps.fresh1
        | apply secOk.nOp | apply secOk.nOwn | apply secOk.nCeil | apply secOk.nDebug | apply secOk.nonces | apply bootOk.floors
        | apply Tile.memOk.store | apply State.tile_keeps (s0 := s0) | apply tilesOk_sset | apply tilesOk_map | apply Memory.wf_filter
        | apply Memory.wf_memPut | apply foldlSnd_keeps | apply ite_keeps | apply ite_optKeeps | apply foldlThd_keeps | apply foldlMem_wf
        | apply Memory.wf_empty | apply tilesOk_empty | apply Tile.memOk_default
    | dsimp only | simp only [optKeeps_none, optKeeps_some, optTileOk_none, optTileOk_some, optPairKeeps_none, optPairKeeps_some]
    | simp only [Keeps_mk] | simp only [Tile.memOk_mk] | simp only [secOk_mk] | simp only [bootOk_mk] | split | intro _

theorem Tile.addCounter_keeps (x : Tile) (p n : Nat) (hx : x.memOk) : (Tile.addCounter x p n).memOk := by
  unfold Tile.addCounter
  repeat' first
    | with_reducible first
        | assumption | apply And.intro | apply Keeps.hbm (s0 := s0) | apply Keeps.hostMem (s0 := s0) | apply Keeps.tiles (s0 := s0) | apply Keeps.sec
        | apply Keeps.boot | apply Keeps.pending | apply Keeps.fresh | apply State.tile_keeps (s0 := s0) | apply Tile.memOk.store | apply ite_keeps
    | dsimp only | simp only [Keeps_mk] | simp only [Tile.memOk_mk] | split | intro _

theorem postAdd_keeps {s0 : State} (t c slot id n : Nat) (s : State) (hs : Keeps s0 s) : Keeps s0 (postAdd t c slot id n s) := by
  unfold postAdd
  repeat' first
    | with_reducible first
        | assumption | apply State.modTile_keeps | apply Tile.addCounter_keeps | apply tileFault_keeps | apply And.intro | apply Keeps.hbm (s0 := s0)
        | apply Keeps.hostMem (s0 := s0) | apply Keeps.tiles (s0 := s0) | apply Keeps.sec | apply Keeps.boot | apply Keeps.pending
        | apply Keeps.fresh | apply State.tile_keeps (s0 := s0) | apply Tile.memOk.store | apply ite_keeps
    | dsimp only | simp only [Keeps_mk] | simp only [Tile.memOk_mk] | split | intro _

/-! ### Machine/AshPit.lean -/

theorem reserveRecord_keeps {s0 : State} (n : Nat) (s : State) (hs : Keeps s0 s) : Keeps s0 (reserveRecord n s).2 := by
  unfold reserveRecord
  repeat' first
    | with_reducible first
        | assumption | apply State.hbmWrite_keeps | apply Security.kept_ok | apply And.intro | apply Keeps.hbm (s0 := s0)
        | apply Keeps.hostMem (s0 := s0) | apply Keeps.tiles (s0 := s0) | apply Keeps.sec | apply Keeps.boot | apply Keeps.pending
        | apply Keeps.fresh | apply State.tile_keeps (s0 := s0) | apply Tile.memOk.store | apply ite_keeps
    | dsimp only | simp only [Keeps_mk] | simp only [Tile.memOk_mk] | split | intro _

theorem reserveRecord_keeps_eq {s0 : State} {n : Nat} {s : State} {u : State} {ret0 : Option Nat} (hs : Keeps s0 s) (eq0 : reserveRecord n s = (ret0, u)) : Keeps s0 u := by
  have := reserveRecord_keeps n s hs
  rw [eq0] at this
  exact this

theorem writeRecord_keeps {s0 : State} (bs : List Byte) (s : State) (hs : Keeps s0 s) : Keeps s0 (writeRecord bs s) := by
  unfold writeRecord
  repeat' first
    | with_reducible first
        | assumption | apply reserveRecord_keeps | apply State.hbmWrite_keeps | (refine reserveRecord_keeps_eq ?_ (by assumption)) | apply ite_keeps
        | apply State.tile_keeps (s0 := s0)
    | dsimp only | split | intro _

theorem nextSeq_keeps {s0 : State} (s : State) (hs : Keeps s0 s) : Keeps s0 (nextSeq s) := by
  unfold nextSeq
  repeat' first
    | with_reducible first
        | assumption | apply And.intro | apply Keeps.hbm (s0 := s0) | apply Keeps.hostMem (s0 := s0) | apply Keeps.tiles (s0 := s0) | apply Keeps.sec
        | apply Keeps.boot | apply Keeps.pending | apply Keeps.fresh | apply State.tile_keeps (s0 := s0) | apply Tile.memOk.store | apply ite_keeps
    | dsimp only | simp only [Keeps_mk] | simp only [Tile.memOk_mk] | split | intro _

theorem freeRecord_keeps {s0 : State} (ty flags n len step : Nat) (s : State) (hs : Keeps s0 s) : Keeps s0 (freeRecord ty flags n len step s) := by
  unfold freeRecord
  repeat' first
    | with_reducible first
        | assumption | apply reserveRecord_keeps | apply nextSeq_keeps | apply State.hbmWrite_keeps
        | (refine reserveRecord_keeps_eq ?_ (by assumption)) | apply And.intro | apply Memory.wf_memWrite | apply Keeps.hbm (s0 := s0)
        | apply Keeps.hostMem (s0 := s0) | apply Keeps.tiles (s0 := s0) | apply Keeps.sec | apply Keeps.boot | apply Keeps.pending
        | apply Keeps.fresh | apply Keeps.fresh1 | apply secOk.nOp | apply secOk.nOwn | apply secOk.nCeil | apply secOk.nDebug | apply secOk.nonces
        | apply bootOk.floors | apply Tile.memOk.store | apply State.tile_keeps (s0 := s0) | apply tilesOk_sset | apply tilesOk_map
        | apply Memory.wf_filter | apply Memory.wf_memPut | apply foldlSnd_keeps | apply ite_keeps | apply ite_optKeeps | apply foldlThd_keeps
        | apply foldlMem_wf | apply Memory.wf_empty | apply tilesOk_empty | apply Tile.memOk_default
    | dsimp only | simp only [optKeeps_none, optKeeps_some, optTileOk_none, optTileOk_some, optPairKeeps_none, optPairKeeps_some]
    | simp only [Keeps_mk] | simp only [Tile.memOk_mk] | simp only [secOk_mk] | simp only [bootOk_mk] | split | intro _

theorem writeHeader_keeps {s0 : State} (s : State) (hs : Keeps s0 s) : Keeps s0 (writeHeader s) := by
  unfold writeHeader
  repeat' first
    | with_reducible first
        | assumption | apply State.hbmWrite_keeps | apply ite_keeps | apply State.tile_keeps (s0 := s0)
    | dsimp only | split | intro _

theorem clearOldHeader_keeps {s0 : State} (s : State) (hs : Keeps s0 s) : Keeps s0 (clearOldHeader s) := by
  unfold clearOldHeader
  repeat' first
    | with_reducible first
        | assumption | apply State.hbmWrite_keeps | apply And.intro | apply Memory.wf_memWrite | apply Keeps.hbm (s0 := s0)
        | apply Keeps.hostMem (s0 := s0) | apply Keeps.tiles (s0 := s0) | apply Keeps.sec | apply Keeps.boot | apply Keeps.pending
        | apply Keeps.fresh | apply Keeps.fresh1 | apply secOk.nOp | apply secOk.nOwn | apply secOk.nCeil | apply secOk.nDebug | apply secOk.nonces
        | apply bootOk.floors | apply Tile.memOk.store | apply State.tile_keeps (s0 := s0) | apply tilesOk_sset | apply tilesOk_map
        | apply Memory.wf_filter | apply Memory.wf_memPut | apply foldlSnd_keeps | apply ite_keeps | apply ite_optKeeps | apply foldlThd_keeps
        | apply foldlMem_wf | apply Memory.wf_empty | apply tilesOk_empty | apply Tile.memOk_default
    | dsimp only | simp only [optKeeps_none, optKeeps_some, optTileOk_none, optTileOk_some, optPairKeeps_none, optPairKeeps_some]
    | simp only [Keeps_mk] | simp only [Tile.memOk_mk] | simp only [secOk_mk] | simp only [bootOk_mk] | split | intro _

theorem dropCapture_keeps {s0 : State} (p : Nat → Bool) (code : Nat) (s : State) (hs : Keeps s0 s) : Keeps s0 (dropCapture p code s) := by
  unfold dropCapture
  repeat' first
    | with_reducible first
        | assumption | apply freeRecord_keeps | apply And.intro | apply Keeps.hbm (s0 := s0) | apply Keeps.hostMem (s0 := s0)
        | apply Keeps.tiles (s0 := s0) | apply Keeps.sec | apply Keeps.boot | apply Keeps.pending | apply Keeps.fresh
        | apply State.tile_keeps (s0 := s0) | apply Tile.memOk.store | apply ite_keeps
    | dsimp only | simp only [Keeps_mk] | simp only [Tile.memOk_mk] | split | intro _

theorem abandonRecords_keeps {s0 : State} (p : Nat → Bool) (code : Nat) (s : State) (hs : Keeps s0 s) : Keeps s0 (abandonRecords p code s) := by
  unfold abandonRecords
  repeat' first
    | with_reducible first
        | assumption | apply forAll_keeps | apply State.hbmWrite_keeps | apply dropCapture_keeps | apply And.intro | apply Keeps.hbm (s0 := s0)
        | apply Keeps.hostMem (s0 := s0) | apply Keeps.tiles (s0 := s0) | apply Keeps.sec | apply Keeps.boot | apply Keeps.pending
        | apply Keeps.fresh | apply State.tile_keeps (s0 := s0) | apply Tile.memOk.store | apply ite_keeps
    | dsimp only | simp only [Keeps_mk] | simp only [Tile.memOk_mk] | split | intro _

/-! ### Machine/Fence.lean -/

theorem holdCtx_keeps {s0 : State} (n : Nat) (s : State) (hs : Keeps s0 s) : Keeps s0 (holdCtx n s) := by
  unfold holdCtx
  repeat' first
    | with_reducible first
        | assumption | apply State.setCtx_keeps | apply And.intro | apply Keeps.hbm (s0 := s0) | apply Keeps.hostMem (s0 := s0)
        | apply Keeps.tiles (s0 := s0) | apply Keeps.sec | apply Keeps.boot | apply Keeps.pending | apply Keeps.fresh
        | apply State.tile_keeps (s0 := s0) | apply Tile.memOk.store | apply ite_keeps
    | dsimp only | simp only [Keeps_mk] | simp only [Tile.memOk_mk] | split | intro _

theorem dueHold_keeps {s0 : State} (m : Nat) (s : State) (hs : Keeps s0 s) : Keeps s0 (dueHold m s) := by
  unfold dueHold
  repeat' first
    | with_reducible first
        | assumption | apply forAll_keeps | apply holdCtx_keeps | apply And.intro | apply Keeps.hbm (s0 := s0) | apply Keeps.hostMem (s0 := s0)
        | apply Keeps.tiles (s0 := s0) | apply Keeps.sec | apply Keeps.boot | apply Keeps.pending | apply Keeps.fresh
        | apply State.tile_keeps (s0 := s0) | apply Tile.memOk.store | apply ite_keeps
    | dsimp only | simp only [Keeps_mk] | simp only [Tile.memOk_mk] | split | intro _

theorem failRound_keeps {s0 : State} (b : Nat) (s : State) (hs : Keeps s0 s) : Keeps s0 (failRound b s) := by
  unfold failRound
  repeat' first
    | with_reducible first
        | assumption | apply State.setBucket_keeps | apply dueHold_keeps | apply And.intro | apply Keeps.hbm (s0 := s0)
        | apply Keeps.hostMem (s0 := s0) | apply Keeps.tiles (s0 := s0) | apply Keeps.sec | apply Keeps.boot | apply Keeps.pending
        | apply Keeps.fresh | apply State.tile_keeps (s0 := s0) | apply Tile.memOk.store | apply ite_keeps
    | dsimp only | simp only [Keeps_mk] | simp only [Tile.memOk_mk] | split | intro _

theorem fenceMark_keeps {s0 : State} (kind idx fc : Nat) (s : State) (hs : Keeps s0 s) : Keeps s0 (fenceMark kind idx fc s) := by
  unfold fenceMark
  repeat' first
    | with_reducible first
        | assumption | apply foldl_keeps | apply foldlState_keeps | apply And.intro | apply Memory.wf_memWrite | apply Keeps.hbm (s0 := s0)
        | apply Keeps.hostMem (s0 := s0) | apply Keeps.tiles (s0 := s0) | apply Keeps.sec | apply Keeps.boot | apply Keeps.pending
        | apply Keeps.fresh | apply Keeps.fresh1 | apply secOk.nOp | apply secOk.nOwn | apply secOk.nCeil | apply secOk.nDebug | apply secOk.nonces
        | apply bootOk.floors | apply Tile.memOk.store | apply State.tile_keeps (s0 := s0) | apply tilesOk_sset | apply tilesOk_map
        | apply Memory.wf_filter | apply Memory.wf_memPut | apply foldlSnd_keeps | apply ite_keeps | apply ite_optKeeps | apply foldlThd_keeps
        | apply foldlMem_wf | apply Memory.wf_empty | apply tilesOk_empty | apply Tile.memOk_default
    | dsimp only | simp only [optKeeps_none, optKeeps_some, optTileOk_none, optTileOk_some, optPairKeeps_none, optPairKeeps_some]
    | simp only [Keeps_mk] | simp only [Tile.memOk_mk] | simp only [secOk_mk] | simp only [bootOk_mk] | split | intro _

theorem refuseWaiting_keeps {s0 : State} (r code : Nat) (s : State) (hs : Keeps s0 s) : Keeps s0 (refuseWaiting r code s) := by
  unfold refuseWaiting
  repeat' first
    | with_reducible first
        | assumption | apply forAll_keeps | apply ctxFault_keeps | apply State.modTile_keeps | apply And.intro | apply Keeps.hbm (s0 := s0)
        | apply Keeps.hostMem (s0 := s0) | apply Keeps.tiles (s0 := s0) | apply Keeps.sec | apply Keeps.boot | apply Keeps.pending
        | apply Keeps.fresh | apply State.tile_keeps (s0 := s0) | apply Tile.memOk.store | apply ite_keeps
    | dsimp only | simp only [Keeps_mk] | simp only [Tile.memOk_mk] | split | intro _

theorem bankFenced_keeps {s0 : State} (r : Nat) (s : State) (hs : Keeps s0 s) : Keeps s0 (bankFenced r s) := by
  unfold bankFenced
  repeat' first
    | with_reducible first
        | assumption | apply refuseWaiting_keeps | apply State.modRegion_keeps | apply ite_keeps | apply State.tile_keeps (s0 := s0)
    | dsimp only | split | intro _

theorem fenceAct_keeps {s0 : State} (kind idx fc : Nat) (s : State) (hs : Keeps s0 s) : Keeps s0 (fenceAct kind idx fc s) := by
  unfold fenceAct
  repeat' first
    | with_reducible first
        | assumption | apply forAll_keeps | apply markStop_keeps | apply State.draw_keeps | apply abandonRecords_keeps | apply bankFenced_keeps
        | apply State.modStack_keeps | apply failRound_keeps | apply recordFault_keeps | apply State.modLink_keeps | apply ite_keeps
        | apply State.tile_keeps (s0 := s0)
    | dsimp only | split | intro _

theorem fencePost_keeps {s0 : State} (kind idx fc : Nat) (s : State) (hs : Keeps s0 s) : Keeps s0 (fencePost kind idx fc s) := by
  unfold fencePost
  repeat' first
    | with_reducible first
        | assumption | apply fenceMark_keeps | apply postEvent_keeps | apply ite_keeps | apply State.tile_keeps (s0 := s0)
    | dsimp only | split | intro _

theorem raiseFence_keeps {s0 : State} (kind idx fc : Nat) (s : State) (hs : Keeps s0 s) : Keeps s0 (raiseFence kind idx fc s) := by
  unfold raiseFence
  repeat' first
    | with_reducible first
        | assumption | apply fencePost_keeps | apply fenceAct_keeps | apply ite_keeps | apply State.tile_keeps (s0 := s0)
    | dsimp only | split | intro _

theorem fenceStack_keeps {s0 : State} (k fc : Nat) (s : State) (hs : Keeps s0 s) : Keeps s0 (fenceStack k fc s) := by
  unfold fenceStack
  repeat' first
    | with_reducible first
        | assumption | apply fenceAct_keeps | apply fencePost_keeps | apply raiseFence_keeps | apply ite_keeps | apply State.tile_keeps (s0 := s0)
    | dsimp only | split | intro _

theorem hbmUncorrectable_keeps {s0 : State} (a : Nat) (s : State) (hs : Keeps s0 s) : Keeps s0 (hbmUncorrectable a s) := by
  unfold hbmUncorrectable
  repeat' first
    | with_reducible first
        | assumption | apply State.modStack_keeps | apply recordFault_keeps | apply fenceStack_keeps | apply ite_keeps
        | apply State.tile_keeps (s0 := s0)
    | dsimp only | split | intro _

theorem hbmUncorrectables_keeps {s0 : State} (ls : List Nat) (s : State) (hs : Keeps s0 s) : Keeps s0 (hbmUncorrectables ls s) := by
  unfold hbmUncorrectables
  repeat' first
    | with_reducible first
        | assumption | apply forAll_keeps | apply hbmUncorrectable_keeps | apply ite_keeps | apply State.tile_keeps (s0 := s0)
    | dsimp only | split | intro _

theorem hbmCorrected_keeps {s0 : State} (a : Nat) (s : State) (hs : Keeps s0 s) : Keeps s0 (hbmCorrected a s) := by
  unfold hbmCorrected
  repeat' first
    | with_reducible first
        | assumption | apply recordFault_keeps | apply State.modStack_keeps | apply ite_keeps | apply State.tile_keeps (s0 := s0)
    | dsimp only | split | intro _

theorem tileUncorrectable_keeps {s0 : State} (t : Nat) (s : State) (hs : Keeps s0 s) : Keeps s0 (tileUncorrectable t s) := by
  unfold tileUncorrectable
  repeat' first
    | with_reducible first
        | assumption | apply tileFault_keeps | apply stopOnTile_keeps | apply raiseFence_keeps | apply ite_keeps | apply State.tile_keeps (s0 := s0)
    | dsimp only | split | intro _

theorem storeCorrected_keeps {s0 : State} (t : Nat) (slot : Option Nat) (s : State) (hs : Keeps s0 s) : Keeps s0 (storeCorrected t slot s) := by
  unfold storeCorrected
  repeat' first
    | with_reducible first
        | assumption | apply tileFault_keeps | apply State.modTile_keeps | apply Tile.count_keeps | apply ite_keeps
        | apply State.tile_keeps (s0 := s0)
    | dsimp only | split | intro _

theorem mapMismatch_keeps {s0 : State} (t : Nat) (c : Option Nat) (s : State) (hs : Keeps s0 s) : Keeps s0 (mapMismatch t c s) := by
  unfold mapMismatch
  repeat' first
    | with_reducible first
        | assumption | apply ctxFault_keeps | apply tileFault_keeps | apply ite_keeps | apply State.tile_keeps (s0 := s0)
    | dsimp only | split | intro _

theorem tileEcc_keeps {s0 : State} (t : Nat) (ecc : Check) (s : State) (hs : Keeps s0 s) : Keeps s0 (tileEcc t ecc s).2 ∧ optKeeps s0 (tileEcc t ecc s).1 := by
  unfold tileEcc
  repeat' first
    | with_reducible first
        | assumption | apply storeCorrected_keeps | apply tileUncorrectable_keeps | apply mapMismatch_keeps | apply And.intro
        | apply Keeps.hbm (s0 := s0) | apply Keeps.hostMem (s0 := s0) | apply Keeps.tiles (s0 := s0) | apply Keeps.sec | apply Keeps.boot
        | apply Keeps.pending | apply Keeps.fresh | apply State.tile_keeps (s0 := s0) | apply Tile.memOk.store | apply ite_keeps
    | dsimp only | simp only [optKeeps_none, optKeeps_some, optTileOk_none, optTileOk_some, optPairKeeps_none, optPairKeeps_some]
    | simp only [Keeps_mk] | simp only [Tile.memOk_mk] | split | intro _

theorem tileEcc_keeps_eq {s0 : State} {t : Nat} {ecc : Check} {s : State} {u : State} {ret0 : Option State} (hs : Keeps s0 s) (eq0 : tileEcc t ecc s = (ret0, u)) : Keeps s0 u := by
  have := tileEcc_keeps t ecc s hs
  rw [eq0] at this
  exact this.1
theorem tileEcc_keeps_some {s0 : State} {t : Nat} {ecc : Check} {s : State} {u v : State} (hs : Keeps s0 s) (eq0 : tileEcc t ecc s = (some u, v)) : Keeps s0 u := by
  have := tileEcc_keeps t ecc s hs
  rw [eq0] at this
  exact (optKeeps_some _ _).mp this.2

/-! ### Machine/Engine.lean -/

theorem Tile.latch_keeps (x : Tile) (cycle : Nat) (atEnd : Bool) (eng tag slot : Nat) (hx : x.memOk) : (Tile.latch x cycle atEnd eng tag slot).memOk := by
  unfold Tile.latch
  repeat' first
    | with_reducible first
        | assumption | apply And.intro | apply Keeps.hbm (s0 := s0) | apply Keeps.hostMem (s0 := s0) | apply Keeps.tiles (s0 := s0) | apply Keeps.sec
        | apply Keeps.boot | apply Keeps.pending | apply Keeps.fresh | apply State.tile_keeps (s0 := s0) | apply Tile.memOk.store | apply ite_keeps
    | dsimp only | simp only [Keeps_mk] | simp only [Tile.memOk_mk] | split | intro _

theorem pushTrace_keeps {s0 : State} (t : Nat) (slot : Option Nat) (gapByte gapBit : Nat) (bs : List Byte) (s : State) (hs : Keeps s0 s) : Keeps s0 (pushTrace t slot gapByte gapBit bs s) := by
  unfold pushTrace
  repeat' first
    | with_reducible first
        | assumption | apply State.modTile_keeps | apply Tile.count_keeps | apply State.setTile_keeps | apply And.intro | apply Keeps.hbm (s0 := s0)
        | apply Keeps.hostMem (s0 := s0) | apply Keeps.tiles (s0 := s0) | apply Keeps.sec | apply Keeps.boot | apply Keeps.pending
        | apply Keeps.fresh | apply State.tile_keeps (s0 := s0) | apply Tile.memOk.store | apply ite_keeps
    | dsimp only | simp only [Keeps_mk] | simp only [Tile.memOk_mk] | split | intro _

theorem latchRecord_keeps {s0 : State} (t : Nat) (q : QEntry) (s : State) (hs : Keeps s0 s) : Keeps s0 (latchRecord t q s) := by
  unfold latchRecord
  repeat' first
    | with_reducible first
        | assumption | apply State.draw_keeps | apply pushTrace_keeps | apply nextSeq_keeps | apply ite_keeps | apply State.tile_keeps (s0 := s0)
    | dsimp only | split | intro _

theorem startLatch_keeps {s0 : State} (t eng : Nat) (q : QEntry) (s : State) (hs : Keeps s0 s) : Keeps s0 (startLatch t eng q s) := by
  unfold startLatch
  repeat' first
    | with_reducible first
        | assumption | apply latchRecord_keeps | apply State.modTile_keeps | apply Tile.latch_keeps | apply ite_keeps
        | apply State.tile_keeps (s0 := s0)
    | dsimp only | split | intro _

theorem completeEntry_keeps {s0 : State} (t eng : Nat) (q : QEntry) (s : State) (hs : Keeps s0 s) : Keeps s0 (completeEntry t eng q s) := by
  unfold completeEntry
  repeat' first
    | with_reducible first
        | assumption | apply postAdd_keeps | apply latchRecord_keeps | apply State.modTile_keeps | apply Tile.latch_keeps | apply pushTrace_keeps
        | apply ite_keeps | apply State.tile_keeps (s0 := s0)
    | dsimp only | split | intro _

theorem captureArrival_keeps {s0 : State} (c t kind : Nat) (bs : List Byte) (s : State) (hs : Keeps s0 s) : Keeps s0 (captureArrival c t kind bs s) := by
  unfold captureArrival
  repeat' first
    | with_reducible first
        | assumption | apply And.intro | apply Keeps.hbm (s0 := s0) | apply Keeps.hostMem (s0 := s0) | apply Keeps.tiles (s0 := s0) | apply Keeps.sec
        | apply Keeps.boot | apply Keeps.pending | apply Keeps.fresh | apply State.tile_keeps (s0 := s0) | apply Tile.memOk.store | apply ite_keeps
    | dsimp only | simp only [Keeps_mk] | simp only [Tile.memOk_mk] | split | intro _

theorem takeArrival_keeps {s0 : State} (c t kind : Nat) (s : State) (hs : Keeps s0 s) : Keeps s0 (takeArrival c t kind s).2 := by
  unfold takeArrival
  repeat' first
    | with_reducible first
        | assumption | apply ctxFault_keeps | apply And.intro | apply Keeps.hbm (s0 := s0) | apply Keeps.hostMem (s0 := s0)
        | apply Keeps.tiles (s0 := s0) | apply Keeps.sec | apply Keeps.boot | apply Keeps.pending | apply Keeps.fresh
        | apply State.tile_keeps (s0 := s0) | apply Tile.memOk.store | apply ite_keeps
    | dsimp only | simp only [Keeps_mk] | simp only [Tile.memOk_mk] | split | intro _

theorem takeArrival_keeps_eq {s0 : State} {c t kind : Nat} {s : State} {u : State} {ret0 : Option (List Byte)} (hs : Keeps s0 s) (eq0 : takeArrival c t kind s = (ret0, u)) : Keeps s0 u := by
  have := takeArrival_keeps c t kind s hs
  rw [eq0] at this
  exact this

theorem replayOutput_keeps {s0 : State} (t kind : Nat) (bs : List Byte) (s : State) (hs : Keeps s0 s) : Keeps s0 (replayOutput t kind bs s) := by
  unfold replayOutput
  repeat' first
    | with_reducible first
        | assumption | apply And.intro | apply Keeps.hbm (s0 := s0) | apply Keeps.hostMem (s0 := s0) | apply Keeps.tiles (s0 := s0) | apply Keeps.sec
        | apply Keeps.boot | apply Keeps.pending | apply Keeps.fresh | apply State.tile_keeps (s0 := s0) | apply Tile.memOk.store | apply ite_keeps
    | dsimp only | simp only [Keeps_mk] | simp only [Tile.memOk_mk] | split | intro _

/-! ### Machine/Stores.lean -/

theorem Tile.setBank_keeps (x : Tile) (b : Nat) (y : BankSt) (hx : x.memOk) : (Tile.setBank x b y).memOk := by
  unfold Tile.setBank
  repeat' first
    | with_reducible first
        | assumption | apply And.intro | apply Keeps.hbm (s0 := s0) | apply Keeps.hostMem (s0 := s0) | apply Keeps.tiles (s0 := s0) | apply Keeps.sec
        | apply Keeps.boot | apply Keeps.pending | apply Keeps.fresh | apply State.tile_keeps (s0 := s0) | apply Tile.memOk.store | apply ite_keeps
    | dsimp only | simp only [Keeps_mk] | simp only [Tile.memOk_mk] | split | intro _

theorem Tile.post_keeps (x : Tile) (cycle : Nat) (r : BankReq) (hx : x.memOk) : (Tile.post x cycle r).memOk := by
  unfold Tile.post
  repeat' first
    | with_reducible first
        | assumption | apply And.intro | apply Keeps.hbm (s0 := s0) | apply Keeps.hostMem (s0 := s0) | apply Keeps.tiles (s0 := s0) | apply Keeps.sec
        | apply Keeps.boot | apply Keeps.pending | apply Keeps.fresh | apply State.tile_keeps (s0 := s0) | apply Tile.memOk.store | apply ite_keeps
    | dsimp only | simp only [Keeps_mk] | simp only [Tile.memOk_mk] | split | intro _

theorem postRead_keeps {s0 : State} (t : Nat) (who : Requester) (st : StoreId) (i : Nat) (dst : ReqDst) (s : State) (hs : Keeps s0 s) : Keeps s0 (postRead t who st i dst s) := by
  unfold postRead
  repeat' first
    | with_reducible first
        | assumption | apply State.modTile_keeps | apply Tile.post_keeps | apply ite_keeps | apply State.tile_keeps (s0 := s0)
    | dsimp only | split | intro _

theorem imageReads_keeps {s0 : State} (t first n : Nat) (s : State) (hs : Keeps s0 s) : Keeps s0 (imageReads t first n s) := by
  unfold imageReads
  repeat' first
    | with_reducible first
        | assumption | apply forAll_keeps | apply postRead_keeps | apply ite_keeps | apply State.tile_keeps (s0 := s0)
    | dsimp only | split | intro _

theorem postWrite_keeps {s0 : State} (t : Nat) (who : Requester) (st : StoreId) (i : Nat) (bs : List Byte) (dst : ReqDst) (s : State) (hs : Keeps s0 s) : Keeps s0 (postWrite t who st i bs dst s) := by
  unfold postWrite
  repeat' first
    | with_reducible first
        | assumption | apply State.modTile_keeps | apply Tile.post_keeps | apply ite_keeps | apply State.tile_keeps (s0 := s0)
    | dsimp only | split | intro _

theorem Tile.dropReqs_keeps (x : Tile) (p : ReqDst → Bool) (hx : x.memOk) : (Tile.dropReqs x p).memOk := by
  unfold Tile.dropReqs
  repeat' first
    | with_reducible first
        | assumption | apply And.intro | apply Keeps.hbm (s0 := s0) | apply Keeps.hostMem (s0 := s0) | apply Keeps.tiles (s0 := s0) | apply Keeps.sec
        | apply Keeps.boot | apply Keeps.pending | apply Keeps.fresh | apply State.tile_keeps (s0 := s0) | apply Tile.memOk.store | apply ite_keeps
    | dsimp only | simp only [Keeps_mk] | simp only [Tile.memOk_mk] | split | intro _

theorem Tile.addRange_keeps (x : Tile) (op : Nat) (st : StoreId) (first n : Nat) (hx : x.memOk) : (Tile.addRange x op st first n).memOk := by
  unfold Tile.addRange
  repeat' first
    | with_reducible first
        | assumption | apply And.intro | apply Keeps.hbm (s0 := s0) | apply Keeps.hostMem (s0 := s0) | apply Keeps.tiles (s0 := s0) | apply Keeps.sec
        | apply Keeps.boot | apply Keeps.pending | apply Keeps.fresh | apply State.tile_keeps (s0 := s0) | apply Tile.memOk.store | apply ite_keeps
    | dsimp only | simp only [Keeps_mk] | simp only [Tile.memOk_mk] | split | intro _

theorem queueMerge_keeps {s0 : State} (t : Nat) (st : StoreId) (i off : Nat) (bs : List Byte) (org : MergeOrg) (s : State) (hs : Keeps s0 s) : Keeps s0 (queueMerge t st i off bs org s) := by
  unfold queueMerge
  repeat' first
    | with_reducible first
        | assumption | apply State.modTile_keeps | apply And.intro | apply Keeps.hbm (s0 := s0) | apply Keeps.hostMem (s0 := s0)
        | apply Keeps.tiles (s0 := s0) | apply Keeps.sec | apply Keeps.boot | apply Keeps.pending | apply Keeps.fresh
        | apply State.tile_keeps (s0 := s0) | apply Tile.memOk.store | apply ite_keeps
    | dsimp only | simp only [Keeps_mk] | simp only [Tile.memOk_mk] | split | intro _

theorem Tile.setCar_keeps (x : Tile) (k : Nat) (c : Carousel) (hx : x.memOk) : (Tile.setCar x k c).memOk := by
  unfold Tile.setCar
  repeat' first
    | with_reducible first
        | assumption | apply And.intro | apply Keeps.hbm (s0 := s0) | apply Keeps.hostMem (s0 := s0) | apply Keeps.tiles (s0 := s0) | apply Keeps.sec
        | apply Keeps.boot | apply Keeps.pending | apply Keeps.fresh | apply State.tile_keeps (s0 := s0) | apply Tile.memOk.store | apply ite_keeps
    | dsimp only | simp only [Keeps_mk] | simp only [Tile.memOk_mk] | split | intro _

theorem Tile.modCar_keeps (x : Tile) (k : Nat) (f : Carousel → Carousel) (hx : x.memOk) : (Tile.modCar x k f).memOk := by
  unfold Tile.modCar
  repeat' first
    | with_reducible first
        | assumption | apply Tile.setCar_keeps | apply ite_keeps | apply State.tile_keeps (s0 := s0)
    | dsimp only | split | intro _

theorem Tile.postRing_keeps (x : Tile) (cycle k : Nat) (e : MapEntry) (who : Requester) (dst : ReqDst) (hx : x.memOk) : (Tile.postRing x cycle k e who dst).memOk := by
  unfold Tile.postRing
  repeat' first
    | with_reducible first
        | assumption | apply Tile.post_keeps | apply ite_keeps | apply State.tile_keeps (s0 := s0)
    | dsimp only | split | intro _

theorem Tile.planGrant_keeps (x : Tile) (cycle : Nat) (hx : x.memOk) : (Tile.planGrant x cycle).memOk := by
  unfold Tile.planGrant
  repeat' first
    | with_reducible first
        | assumption | apply Tile.count_keeps | apply Tile.setBank_keeps | apply And.intro | apply Keeps.hbm (s0 := s0)
        | apply Keeps.hostMem (s0 := s0) | apply Keeps.tiles (s0 := s0) | apply Keeps.sec | apply Keeps.boot | apply Keeps.pending
        | apply Keeps.fresh | apply State.tile_keeps (s0 := s0) | apply Tile.memOk.store | apply ite_keeps
    | dsimp only | simp only [Keeps_mk] | simp only [Tile.memOk_mk] | split | intro _

theorem Tile.setStall_keeps (x : Tile) (st : Stall) (hx : x.memOk) : (Tile.setStall x st).memOk := by
  unfold Tile.setStall
  repeat' first
    | with_reducible first
        | assumption | apply And.intro | apply Keeps.hbm (s0 := s0) | apply Keeps.hostMem (s0 := s0) | apply Keeps.tiles (s0 := s0) | apply Keeps.sec
        | apply Keeps.boot | apply Keeps.pending | apply Keeps.fresh | apply State.tile_keeps (s0 := s0) | apply Tile.memOk.store | apply ite_keeps
    | dsimp only | simp only [Keeps_mk] | simp only [Tile.memOk_mk] | split | intro _

theorem execScalarLoad_keeps {s0 : State} (t : TileId) (rd : Fin 32) (bil : BitVec 16) (off : Nat) (s : State) (hs : Keeps s0 s) : OutcomeKeeps s0 (execScalarLoad t rd bil off s) := by
  unfold execScalarLoad
  repeat' first
    | with_reducible first
        | assumption | apply OutcomeKeeps_next | apply ctxFault_keeps | apply postRead_keeps | apply State.modTile_keeps | apply Tile.setStall_keeps
        | apply ite_keeps | apply State.tile_keeps (s0 := s0)
    | dsimp only | split | intro _

theorem execScalarStore_keeps {s0 : State} (t : TileId) (rs : Fin 32) (bil : BitVec 16) (off : Nat) (s : State) (hs : Keeps s0 s) : OutcomeKeeps s0 (execScalarStore t rs bil off s) := by
  unfold execScalarStore
  repeat' first
    | with_reducible first
        | assumption | apply OutcomeKeeps_next | apply ctxFault_keeps | apply queueMerge_keeps | apply ite_keeps | apply State.tile_keeps (s0 := s0)
    | dsimp only | split | intro _

theorem Tile.oweBack_keeps (x : Tile) (b bil : Nat) (hx : x.memOk) : (Tile.oweBack x b bil).memOk := by
  unfold Tile.oweBack
  repeat' first
    | with_reducible first
        | assumption | apply Tile.setBank_keeps | apply ite_keeps | apply State.tile_keeps (s0 := s0)
    | dsimp only | split | intro _

theorem imemEcc_keeps {s0 : State} (t bil : Nat) (ecc : Check) (s : State) (hs : Keeps s0 s) : Keeps s0 (imemEcc t bil ecc s).2 ∧ optKeeps s0 (imemEcc t bil ecc s).1 := by
  unfold imemEcc
  repeat' first
    | with_reducible first
        | assumption | apply State.modTile_keeps | apply Tile.oweBack_keeps | (refine tileEcc_keeps_eq ?_ (by assumption))
        | (refine tileEcc_keeps_some ?_ (by assumption)) | apply And.intro | apply Memory.wf_memWrite | apply Keeps.hbm (s0 := s0)
        | apply Keeps.hostMem (s0 := s0) | apply Keeps.tiles (s0 := s0) | apply Keeps.sec | apply Keeps.boot | apply Keeps.pending
        | apply Keeps.fresh | apply Keeps.fresh1 | apply secOk.nOp | apply secOk.nOwn | apply secOk.nCeil | apply secOk.nDebug | apply secOk.nonces
        | apply bootOk.floors | apply Tile.memOk.store | apply State.tile_keeps (s0 := s0) | apply tilesOk_sset | apply tilesOk_map
        | apply Memory.wf_filter | apply Memory.wf_memPut | apply foldlSnd_keeps | apply ite_keeps | apply ite_optKeeps | apply foldlThd_keeps
        | apply foldlMem_wf | apply Memory.wf_empty | apply tilesOk_empty | apply Tile.memOk_default
    | dsimp only | simp only [optKeeps_none, optKeeps_some, optTileOk_none, optTileOk_some, optPairKeeps_none, optPairKeeps_some]
    | simp only [Keeps_mk] | simp only [Tile.memOk_mk] | simp only [secOk_mk] | simp only [bootOk_mk] | split | intro _

theorem imemEcc_keeps_eq {s0 : State} {t bil : Nat} {ecc : Check} {s : State} {u : State} {ret0 : Option State} (hs : Keeps s0 s) (eq0 : imemEcc t bil ecc s = (ret0, u)) : Keeps s0 u := by
  have := imemEcc_keeps t bil ecc s hs
  rw [eq0] at this
  exact this.1
theorem imemEcc_keeps_some {s0 : State} {t bil : Nat} {ecc : Check} {s : State} {u v : State} (hs : Keeps s0 s) (eq0 : imemEcc t bil ecc s = (some u, v)) : Keeps s0 u := by
  have := imemEcc_keeps t bil ecc s hs
  rw [eq0] at this
  exact (optKeeps_some _ _).mp this.2

theorem execInstructionFetch_keeps {s0 : State} (t : TileId) (target : Option Nat) (mapOk : Bool) (ecc : Ecc) (s : State) (hs : Keeps s0 s) : OutcomeKeeps s0 (execInstructionFetch t target mapOk ecc s) := by
  unfold execInstructionFetch
  repeat' first
    | with_reducible first
        | assumption | apply OutcomeKeeps_next | apply ctxFault_keeps | apply State.modTile_keeps | (refine imemEcc_keeps_eq ?_ (by assumption))
        | (refine imemEcc_keeps_some ?_ (by assumption)) | apply And.intro | apply Keeps.hbm (s0 := s0) | apply Keeps.hostMem (s0 := s0)
        | apply Keeps.tiles (s0 := s0) | apply Keeps.sec | apply Keeps.boot | apply Keeps.pending | apply Keeps.fresh
        | apply State.tile_keeps (s0 := s0) | apply Tile.memOk.store | apply ite_keeps
    | dsimp only | simp only [Keeps_mk] | simp only [Tile.memOk_mk] | split | intro _

end Sys2Proof.Machine
end

