-- ==== Sys2Proof/Laws/KeepsTile.lean ====
section
/-! SUPPORT. What the units of a tile keep: the copy engines, the mesh, the rick unit, the matrix and vector units, the exchange. One lemma per function (see Laws/Keeps.lean for the relation), each said of any later state of the same run. -/

namespace Sys2Proof.Machine

/-! ### Machine/Mesh.lean -/

theorem inject_keeps {s0 : State} (t : Nat) (fs : List Flit) (s : State) (hs : Keeps s0 s) : Keeps s0 (inject t fs s) := by
  unfold inject
  repeat' first
    | with_reducible first
        | assumption | apply State.modTile_keeps | apply And.intro | apply Keeps.hbm (s0 := s0) | apply Keeps.hostMem (s0 := s0)
        | apply Keeps.tiles (s0 := s0) | apply Keeps.sec | apply Keeps.boot | apply Keeps.pending | apply Keeps.fresh
        | apply State.tile_keeps (s0 := s0) | apply Tile.memOk.store | apply ite_keeps
    | dsimp only | simp only [Keeps_mk] | simp only [Tile.memOk_mk] | split | intro _

theorem countVn_keeps {s0 : State} (t ctx : Nat) (vn : Vn) (n : Nat) (s : State) (hs : Keeps s0 s) : Keeps s0 (countVn t ctx vn n s) := by
  unfold countVn
  repeat' first
    | with_reducible first
        | assumption | apply State.modTile_keeps | apply Tile.countCtx_keeps | apply ite_keeps | apply State.tile_keeps (s0 := s0)
    | dsimp only | split | intro _

theorem flitUncorrectable_keeps {s0 : State} (t : Nat) (f : Flit) (s : State) (hs : Keeps s0 s) : Keeps s0 (flitUncorrectable t f s) := by
  unfold flitUncorrectable
  repeat' first
    | with_reducible first
        | assumption | apply tileFault_keeps | apply State.modTile_keeps | apply forAll_keeps | apply stopOnTile_keeps | apply raiseFence_keeps
        | apply And.intro | apply Keeps.hbm (s0 := s0) | apply Keeps.hostMem (s0 := s0) | apply Keeps.tiles (s0 := s0) | apply Keeps.sec
        | apply Keeps.boot | apply Keeps.pending | apply Keeps.fresh | apply State.tile_keeps (s0 := s0) | apply Tile.memOk.store | apply ite_keeps
    | dsimp only | simp only [Keeps_mk] | simp only [Tile.memOk_mk] | split | intro _

theorem absorb_keeps {s0 : State} (t : Nat) (f : Flit) (s : State) (hs : Keeps s0 s) : Keeps s0 (absorb t f s) := by
  unfold absorb
  repeat' first
    | with_reducible first
        | assumption | apply State.modTile_keeps | apply And.intro | apply Keeps.hbm (s0 := s0) | apply Keeps.hostMem (s0 := s0)
        | apply Keeps.tiles (s0 := s0) | apply Keeps.sec | apply Keeps.boot | apply Keeps.pending | apply Keeps.fresh
        | apply State.tile_keeps (s0 := s0) | apply Tile.memOk.store | apply ite_keeps
    | dsimp only | simp only [Keeps_mk] | simp only [Tile.memOk_mk] | split | intro _

theorem flitLeaves_keeps {s0 : State} (t port i : Nat) (f : Flit) (ecc : Ecc) (s : State) (hs : Keeps s0 s) : Keeps s0 (flitLeaves t port i f ecc s).2 ∧ optKeeps s0 (flitLeaves t port i f ecc s).1 := by
  unfold flitLeaves
  repeat' first
    | with_reducible first
        | assumption | apply State.setTile_keeps | apply Tile.countCtx_keeps | apply tileFault_keeps | apply State.modTile_keeps
        | apply flitUncorrectable_keeps | apply And.intro | apply Keeps.hbm (s0 := s0) | apply Keeps.hostMem (s0 := s0)
        | apply Keeps.tiles (s0 := s0) | apply Keeps.sec | apply Keeps.boot | apply Keeps.pending | apply Keeps.fresh
        | apply State.tile_keeps (s0 := s0) | apply Tile.memOk.store | apply ite_keeps
    | dsimp only | simp only [optKeeps_none, optKeeps_some, optTileOk_none, optTileOk_some, optPairKeeps_none, optPairKeeps_some]
    | simp only [Keeps_mk] | simp only [Tile.memOk_mk] | split | intro _

theorem flitLeaves_keeps_eq {s0 : State} {t port i : Nat} {f : Flit} {ecc : Ecc} {s : State} {u : State} {ret0 : Option State} (hs : Keeps s0 s) (eq0 : flitLeaves t port i f ecc s = (ret0, u)) : Keeps s0 u := by
  have := flitLeaves_keeps t port i f ecc s hs
  rw [eq0] at this
  exact this.1
theorem flitLeaves_keeps_some {s0 : State} {t port i : Nat} {f : Flit} {ecc : Ecc} {s : State} {u v : State} (hs : Keeps s0 s) (eq0 : flitLeaves t port i f ecc s = (some u, v)) : Keeps s0 u := by
  have := flitLeaves_keeps t port i f ecc s hs
  rw [eq0] at this
  exact (optKeeps_some _ _).mp this.2

theorem execFlitForward_keeps {s0 : State} (t : TileId) (port : Fin 5) (ecc : Ecc) (s : State) (hs : Keeps s0 s) : OutcomeKeeps s0 (execFlitForward t port ecc s) := by
  unfold execFlitForward
  repeat' first
    | with_reducible first
        | assumption | apply OutcomeKeeps_next | apply absorb_keeps | apply State.modTile_keeps | (refine flitLeaves_keeps_eq ?_ (by assumption))
        | (refine flitLeaves_keeps_some ?_ (by assumption)) | apply And.intro | apply Keeps.hbm (s0 := s0) | apply Keeps.hostMem (s0 := s0)
        | apply Keeps.tiles (s0 := s0) | apply Keeps.sec | apply Keeps.boot | apply Keeps.pending | apply Keeps.fresh
        | apply State.tile_keeps (s0 := s0) | apply Tile.memOk.store | apply ite_keeps
    | dsimp only | simp only [Keeps_mk] | simp only [Tile.memOk_mk] | split | intro _

theorem takeLoose_keeps {s0 : State} (t : Nat) (p : FlitBody → Bool) (ecc : Ecc) (s : State) (hs : Keeps s0 s) : optPairKeeps s0 (takeLoose t p ecc s) := by
  unfold takeLoose
  repeat' first
    | with_reducible first
        | assumption | (refine flitLeaves_keeps_eq ?_ (by assumption)) | (refine flitLeaves_keeps_some ?_ (by assumption)) | apply And.intro
        | apply Keeps.hbm (s0 := s0) | apply Keeps.hostMem (s0 := s0) | apply Keeps.tiles (s0 := s0) | apply Keeps.sec | apply Keeps.boot
        | apply Keeps.pending | apply Keeps.fresh | apply State.tile_keeps (s0 := s0) | apply Tile.memOk.store | apply ite_keeps
    | dsimp only | simp only [optKeeps_none, optKeeps_some, optTileOk_none, optTileOk_some, optPairKeeps_none, optPairKeeps_some]
    | simp only [Keeps_mk] | simp only [Tile.memOk_mk] | split | intro _

theorem takeLoose_keeps_eq {s0 : State} {t : Nat} {p : FlitBody → Bool} {ecc : Ecc} {s : State} {u : State} {ret0 : Option Flit} (hs : Keeps s0 s) (eq0 : takeLoose t p ecc s = some (ret0, u)) : Keeps s0 u := by
  have := takeLoose_keeps t p ecc s hs
  rw [eq0] at this
  exact (optPairKeeps_some _ _ _).mp this

/-! ### Machine/Dma.lean -/

theorem touchStack_keeps {s0 : State} (k : Nat) (s : State) (hs : Keeps s0 s) : Keeps s0 (touchStack k s) := by
  unfold touchStack
  repeat' first
    | with_reducible first
        | assumption | apply State.modStack_keeps | apply ite_keeps | apply State.tile_keeps (s0 := s0)
    | dsimp only | split | intro _

theorem touchRange_keeps {s0 : State} (a n : Nat) (s : State) (hs : Keeps s0 s) : Keeps s0 (touchRange a n s) := by
  unfold touchRange
  repeat' first
    | with_reducible first
        | assumption | apply forAll_keeps | apply touchStack_keeps | apply ite_keeps | apply State.tile_keeps (s0 := s0)
    | dsimp only | split | intro _

theorem Tile.modOp_keeps (x : Tile) (id : Nat) (f : DmaOp → DmaOp) (hx : x.memOk) : (Tile.modOp x id f).memOk := by
  unfold Tile.modOp
  repeat' first
    | with_reducible first
        | assumption | apply And.intro | apply Keeps.hbm (s0 := s0) | apply Keeps.hostMem (s0 := s0) | apply Keeps.tiles (s0 := s0) | apply Keeps.sec
        | apply Keeps.boot | apply Keeps.pending | apply Keeps.fresh | apply State.tile_keeps (s0 := s0) | apply Tile.memOk.store | apply ite_keeps
    | dsimp only | simp only [Keeps_mk] | simp only [Tile.memOk_mk] | split | intro _

theorem Tile.dropOp_keeps (x : Tile) (id : Nat) (hx : x.memOk) : (Tile.dropOp x id).memOk := by
  unfold Tile.dropOp
  repeat' first
    | with_reducible first
        | assumption | apply Tile.dropReqs_keeps | apply And.intro | apply Keeps.hbm (s0 := s0) | apply Keeps.hostMem (s0 := s0)
        | apply Keeps.tiles (s0 := s0) | apply Keeps.sec | apply Keeps.boot | apply Keeps.pending | apply Keeps.fresh
        | apply State.tile_keeps (s0 := s0) | apply Tile.memOk.store | apply ite_keeps
    | dsimp only | simp only [Keeps_mk] | simp only [Tile.memOk_mk] | split | intro _

theorem finishOp_keeps {s0 : State} (t : Nat) (o : DmaOp) (s : State) (hs : Keeps s0 s) : Keeps s0 (finishOp t o s) := by
  unfold finishOp
  repeat' first
    | with_reducible first
        | assumption | apply completeEntry_keeps | apply State.modTile_keeps | apply Tile.dropOp_keeps | apply ite_keeps
        | apply State.tile_keeps (s0 := s0)
    | dsimp only | split | intro _

theorem popDma_keeps {s0 : State} (t : Nat) (s : State) (hs : Keeps s0 s) : Keeps s0 (popDma t s) := by
  unfold popDma
  repeat' first
    | with_reducible first
        | assumption | apply State.modTile_keeps | apply And.intro | apply Keeps.hbm (s0 := s0) | apply Keeps.hostMem (s0 := s0)
        | apply Keeps.tiles (s0 := s0) | apply Keeps.sec | apply Keeps.boot | apply Keeps.pending | apply Keeps.fresh
        | apply State.tile_keeps (s0 := s0) | apply Tile.memOk.store | apply ite_keeps
    | dsimp only | simp only [Keeps_mk] | simp only [Tile.memOk_mk] | split | intro _

theorem startOp_keeps {s0 : State} (t : Nat) (q : QEntry) (o : DmaOp) (s : State) (hs : Keeps s0 s) : Keeps s0 (startOp t q o s) := by
  unfold startOp
  repeat' first
    | with_reducible first
        | assumption | apply startLatch_keeps | apply popDma_keeps | apply State.modTile_keeps | apply And.intro | apply Keeps.hbm (s0 := s0)
        | apply Keeps.hostMem (s0 := s0) | apply Keeps.tiles (s0 := s0) | apply Keeps.sec | apply Keeps.boot | apply Keeps.pending
        | apply Keeps.fresh | apply State.tile_keeps (s0 := s0) | apply Tile.memOk.store | apply ite_keeps
    | dsimp only | simp only [Keeps_mk] | simp only [Tile.memOk_mk] | split | intro _

theorem noopDma_keeps {s0 : State} (t : Nat) (q : QEntry) (s : State) (hs : Keeps s0 s) : Keeps s0 (noopDma t q s) := by
  unfold noopDma
  repeat' first
    | with_reducible first
        | assumption | apply completeEntry_keeps | apply startLatch_keeps | apply popDma_keeps | apply ite_keeps | apply State.tile_keeps (s0 := s0)
    | dsimp only | split | intro _

theorem refuseDma_keeps {s0 : State} (t : Nat) (q : QEntry) (code : Nat) (s : State) (hs : Keeps s0 s) : Keeps s0 (refuseDma t q code s) := by
  unfold refuseDma
  repeat' first
    | with_reducible first
        | assumption | apply ctxFault_keeps | apply popDma_keeps | apply ite_keeps | apply State.tile_keeps (s0 := s0)
    | dsimp only | split | intro _

theorem requestHbm_keeps {s0 : State} (t : Nat) (o : DmaOp) (part : Nat × Nat) (a n flits : Nat) (s : State) (hs : Keeps s0 s) : Keeps s0 (requestHbm t o part a n flits s) := by
  unfold requestHbm
  repeat' first
    | with_reducible first
        | assumption | apply countVn_keeps | apply touchRange_keeps | apply State.modTile_keeps | apply Tile.count_keeps | apply ite_keeps
        | apply State.tile_keeps (s0 := s0)
    | dsimp only | split | intro _

theorem unitPump_keeps {s0 : State} (t id : Nat) (s : State) (hs : Keeps s0 s) : Keeps s0 (unitPump t id s) := by
  unfold unitPump
  repeat' first
    | with_reducible first
        | assumption | apply forAll_keeps | apply requestHbm_keeps | apply State.modTile_keeps | apply Tile.modOp_keeps | apply ite_keeps
        | apply State.tile_keeps (s0 := s0)
    | dsimp only | split | intro _

theorem sendWrite_keeps {s0 : State} (w : HbmWrite) (s : State) (hs : Keeps s0 s) : Keeps s0 (sendWrite w s) := by
  unfold sendWrite
  repeat' first
    | with_reducible first
        | assumption | apply And.intro | apply Keeps.hbm (s0 := s0) | apply Keeps.hostMem (s0 := s0) | apply Keeps.tiles (s0 := s0) | apply Keeps.sec
        | apply Keeps.boot | apply Keeps.pending | apply Keeps.fresh | apply State.tile_keeps (s0 := s0) | apply Tile.memOk.store | apply ite_keeps
    | dsimp only | simp only [Keeps_mk] | simp only [Tile.memOk_mk] | split | intro _

theorem copyOutSend_keeps {s0 : State} (t : Nat) (o : DmaOp) (p : ReqDst × List Byte) (s : State) (hs : Keeps s0 s) : Keeps s0 (copyOutSend t o p s) := by
  unfold copyOutSend
  repeat' first
    | with_reducible first
        | assumption | apply State.modTile_keeps | apply replayOutput_keeps | apply Tile.modOp_keeps | apply sendWrite_keeps | apply requestHbm_keeps
        | apply Tile.count_keeps | apply And.intro | apply Keeps.hbm (s0 := s0) | apply Keeps.hostMem (s0 := s0) | apply Keeps.tiles (s0 := s0)
        | apply Keeps.sec | apply Keeps.boot | apply Keeps.pending | apply Keeps.fresh | apply State.tile_keeps (s0 := s0) | apply Tile.memOk.store
        | apply ite_keeps
    | dsimp only | simp only [Keeps_mk] | simp only [Tile.memOk_mk] | split | intro _

theorem copyOutPump_keeps {s0 : State} (t id : Nat) (s : State) (hs : Keeps s0 s) : Keeps s0 (copyOutPump t id s) := by
  unfold copyOutPump
  repeat' first
    | with_reducible first
        | assumption | apply forAll_keeps | apply copyOutSend_keeps | apply postRead_keeps | apply State.modTile_keeps | apply Tile.modOp_keeps
        | apply ite_keeps | apply State.tile_keeps (s0 := s0)
    | dsimp only | split | intro _

theorem writeSlot_keeps {s0 : State} (t : Nat) (o : DmaOp) (e : MapEntry) (c : Carousel) (bs : List Byte) (s : State) (hs : Keeps s0 s) : Keeps s0 (writeSlot t o e c bs s) := by
  unfold writeSlot
  repeat' first
    | with_reducible first
        | assumption | apply forAll_keeps | apply postWrite_keeps | apply ite_keeps | apply State.tile_keeps (s0 := s0)
    | dsimp only | split | intro _

theorem gatherAsk_keeps {s0 : State} (t : Nat) (o : DmaOp) (room : Nat) (s : State) (hs : Keeps s0 s) : optKeeps s0 (gatherAsk t o room s) := by
  unfold gatherAsk
  repeat' first
    | with_reducible first
        | assumption | apply State.modTile_keeps | apply Tile.modOp_keeps | apply requestHbm_keeps | apply ite_keeps
        | apply State.tile_keeps (s0 := s0)
    | dsimp only | simp only [optKeeps_none, optKeeps_some, optTileOk_none, optTileOk_some, optPairKeeps_none, optPairKeeps_some] | split | intro _

theorem gatherAsk_keeps_eq {s0 : State} {t : Nat} {o : DmaOp} {room : Nat} {s : State} {u : State} (hs : Keeps s0 s) (eq0 : gatherAsk t o room s = some u) : Keeps s0 u := by
  have := gatherAsk_keeps t o room s hs
  rw [eq0] at this
  exact (optKeeps_some _ _).mp this

theorem gatherIndex_keeps {s0 : State} (t : Nat) (o : DmaOp) (e : MapEntry) (s : State) (hs : Keeps s0 s) : Keeps s0 (gatherIndex t o e s) := by
  unfold gatherIndex
  repeat' first
    | with_reducible first
        | assumption | apply State.setTile_keeps | apply Tile.postRing_keeps | apply Tile.modOp_keeps | apply Tile.modCar_keeps | apply ite_keeps
        | apply State.tile_keeps (s0 := s0)
    | dsimp only | split | intro _

theorem gatherEnd_keeps {s0 : State} (t : Nat) (o : DmaOp) (e : MapEntry) (room : Nat) (s : State) (hs : Keeps s0 s) : Keeps s0 (gatherEnd t o e room s).2 := by
  unfold gatherEnd
  repeat' first
    | with_reducible first
        | assumption | apply State.modTile_keeps | apply Tile.modOp_keeps | apply gatherIndex_keeps | apply ctxFault_keeps | apply Tile.dropOp_keeps
        | apply ite_keeps | apply State.tile_keeps (s0 := s0)
    | dsimp only | split | intro _

theorem gatherEnd_keeps_eq {s0 : State} {t : Nat} {o : DmaOp} {e : MapEntry} {room : Nat} {s : State} {u : State} {ret0 : Bool} (hs : Keeps s0 s) (eq0 : gatherEnd t o e room s = (ret0, u)) : Keeps s0 u := by
  have := gatherEnd_keeps t o e room s hs
  rw [eq0] at this
  exact this

theorem gatherPump_keeps {s0 : State}  : ∀ (a0 : Nat) (a1 : Nat) (a2 : Nat) (a3 : State), Keeps s0 a3 → Keeps s0 (gatherPump a0 a1 a2 a3) := by
  intro a0
  induction a0 with
  | zero =>
    intros
    assumption
  | succ n ih =>
    intros
    unfold gatherPump
    repeat' first
      | with_reducible first
          | assumption | apply writeSlot_keeps | apply State.modTile_keeps | apply Tile.modOp_keeps | apply gatherEnd_keeps
          | (refine gatherAsk_keeps_eq ?_ (by assumption)) | (refine gatherEnd_keeps_eq ?_ (by assumption)) | apply ite_keeps
          | apply State.tile_keeps (s0 := s0) | apply ih
      | dsimp only | split | intro _

theorem unloadPump_keeps {s0 : State} (t id : Nat) (s : State) (hs : Keeps s0 s) : Keeps s0 (unloadPump t id s) := by
  unfold unloadPump
  repeat' first
    | with_reducible first
        | assumption | apply State.setTile_keeps | apply Tile.postRing_keeps | apply Tile.modOp_keeps | apply Tile.modCar_keeps | apply ite_keeps
        | apply State.tile_keeps (s0 := s0)
    | dsimp only | split | intro _

theorem pumpOp_keeps {s0 : State} (t id : Nat) (s : State) (hs : Keeps s0 s) : Keeps s0 (pumpOp t id s) := by
  unfold pumpOp
  repeat' first
    | with_reducible first
        | assumption | apply unitPump_keeps | apply copyOutPump_keeps | apply gatherPump_keeps | apply unloadPump_keeps | apply ite_keeps
        | apply State.tile_keeps (s0 := s0)
    | dsimp only | split | intro _

theorem pumpTile_keeps {s0 : State} (t : Nat) (s : State) (hs : Keeps s0 s) : Keeps s0 (pumpTile t s) := by
  unfold pumpTile
  repeat' first
    | with_reducible first
        | assumption | apply forAll_keeps | apply pumpOp_keeps | apply ite_keeps | apply State.tile_keeps (s0 := s0)
    | dsimp only | split | intro _

theorem withDmaHead_keeps {s0 : State} (site : Site) (op : Nat) (s : State) (f : QEntry → MapEntry → Ctx → State → State) (hs : Keeps s0 s) (hf : ∀ z0 z1 z2 z3, Keeps s0 z3 → Keeps s0 (f z0 z1 z2 z3)) : Keeps s0 (withDmaHead site op s f) := by
  unfold withDmaHead
  repeat' first
    | with_reducible first
        | assumption | apply hf | apply ctxFault_keeps | apply popDma_keeps | (refine tileEcc_keeps_eq ?_ (by assumption))
        | (refine tileEcc_keeps_some ?_ (by assumption)) | apply ite_keeps | apply State.tile_keeps (s0 := s0)
    | dsimp only | split | intro _

theorem execCopyIn_keeps {s0 : State} (site : Site) (s : State) (hs : Keeps s0 s) : OutcomeKeeps s0 (execCopyIn site s) := by
  unfold execCopyIn
  repeat' first
    | with_reducible first
        | assumption | apply OutcomeKeeps_next | apply withDmaHead_keeps | apply noopDma_keeps | apply refuseDma_keeps | apply pumpOp_keeps
        | apply startOp_keeps | apply State.modTile_keeps | apply Tile.addRange_keeps | apply And.intro | apply Keeps.hbm (s0 := s0)
        | apply Keeps.hostMem (s0 := s0) | apply Keeps.tiles (s0 := s0) | apply Keeps.sec | apply Keeps.boot | apply Keeps.pending
        | apply Keeps.fresh | apply State.tile_keeps (s0 := s0) | apply Tile.memOk.store | apply ite_keeps
    | dsimp only | simp only [Keeps_mk] | simp only [Tile.memOk_mk] | split | intro _

theorem execCopyOut_keeps {s0 : State} (site : Site) (s : State) (hs : Keeps s0 s) : OutcomeKeeps s0 (execCopyOut site s) := by
  unfold execCopyOut
  repeat' first
    | with_reducible first
        | assumption | apply OutcomeKeeps_next | apply withDmaHead_keeps | apply noopDma_keeps | apply refuseDma_keeps | apply pumpOp_keeps
        | apply startOp_keeps | apply ite_keeps | apply State.tile_keeps (s0 := s0)
    | dsimp only | split | intro _

theorem execStreamIn_keeps {s0 : State} (site : Site) (s : State) (hs : Keeps s0 s) : OutcomeKeeps s0 (execStreamIn site s) := by
  unfold execStreamIn
  repeat' first
    | with_reducible first
        | assumption | apply OutcomeKeeps_next | apply withDmaHead_keeps | apply noopDma_keeps | apply refuseDma_keeps | apply pumpOp_keeps
        | apply startOp_keeps | apply State.modTile_keeps | apply Tile.modCar_keeps | apply ite_keeps | apply State.tile_keeps (s0 := s0)
    | dsimp only | split | intro _

theorem execGather_keeps {s0 : State} (site : Site) (s : State) (hs : Keeps s0 s) : OutcomeKeeps s0 (execGather site s) := by
  unfold execGather
  repeat' first
    | with_reducible first
        | assumption | apply OutcomeKeeps_next | apply withDmaHead_keeps | apply noopDma_keeps | apply refuseDma_keeps | apply startOp_keeps
        | apply State.modTile_keeps | apply Tile.modCar_keeps | apply pumpOp_keeps | apply ite_keeps | apply State.tile_keeps (s0 := s0)
    | dsimp only | split | intro _

theorem execUnload_keeps {s0 : State} (site : Site) (s : State) (hs : Keeps s0 s) : OutcomeKeeps s0 (execUnload site s) := by
  unfold execUnload
  repeat' first
    | with_reducible first
        | assumption | apply OutcomeKeeps_next | apply withDmaHead_keeps | apply noopDma_keeps | apply refuseDma_keeps | apply startOp_keeps
        | apply State.modTile_keeps | apply Tile.modCar_keeps | apply Tile.addRange_keeps | apply pumpOp_keeps | apply And.intro
        | apply Keeps.hbm (s0 := s0) | apply Keeps.hostMem (s0 := s0) | apply Keeps.tiles (s0 := s0) | apply Keeps.sec | apply Keeps.boot
        | apply Keeps.pending | apply Keeps.fresh | apply State.tile_keeps (s0 := s0) | apply Tile.memOk.store | apply ite_keeps
    | dsimp only | simp only [Keeps_mk] | simp only [Tile.memOk_mk] | split | intro _

theorem execCarouselSet_keeps {s0 : State} (site : Site) (s : State) (hs : Keeps s0 s) : OutcomeKeeps s0 (execCarouselSet site s) := by
  unfold execCarouselSet
  repeat' first
    | with_reducible first
        | assumption | apply OutcomeKeeps_next | apply withDmaHead_keeps | apply refuseDma_keeps | apply startOp_keeps | apply State.modTile_keeps
        | apply Tile.setCar_keeps | apply And.intro | apply Keeps.hbm (s0 := s0) | apply Keeps.hostMem (s0 := s0) | apply Keeps.tiles (s0 := s0)
        | apply Keeps.sec | apply Keeps.boot | apply Keeps.pending | apply Keeps.fresh | apply State.tile_keeps (s0 := s0) | apply Tile.memOk.store
        | apply ite_keeps
    | dsimp only | simp only [Keeps_mk] | simp only [Tile.memOk_mk] | split | intro _

theorem stopStream_keeps {s0 : State} (t id : Nat) (s : State) (hs : Keeps s0 s) : Keeps s0 (stopStream t id s) := by
  unfold stopStream
  repeat' first
    | with_reducible first
        | assumption | apply pumpOp_keeps | apply State.modTile_keeps | apply Tile.modOp_keeps | apply Tile.modCar_keeps | apply ite_keeps
        | apply State.tile_keeps (s0 := s0)
    | dsimp only | split | intro _

theorem execStreamStop_keeps {s0 : State} (site : Site) (s : State) (hs : Keeps s0 s) : OutcomeKeeps s0 (execStreamStop site s) := by
  unfold execStreamStop
  repeat' first
    | with_reducible first
        | assumption | apply OutcomeKeeps_next | apply withDmaHead_keeps | apply refuseDma_keeps | apply noopDma_keeps | apply startOp_keeps
        | apply stopStream_keeps | apply ite_keeps | apply State.tile_keeps (s0 := s0)
    | dsimp only | split | intro _

theorem hbmStop_keeps {s0 : State} (t id c blk code : Nat) (s : State) (hs : Keeps s0 s) : Keeps s0 (hbmStop t id c blk code s) := by
  unfold hbmStop
  repeat' first
    | with_reducible first
        | assumption | apply stopOnTile_keeps | apply State.modTile_keeps | apply Tile.dropOp_keeps | apply ite_keeps
        | apply State.tile_keeps (s0 := s0)
    | dsimp only | split | intro _

theorem hbmFetch_keeps {s0 : State} (a n : Nat) (ecc : HbmEcc) (s : State) (hs : Keeps s0 s) : Keeps s0 (hbmFetch a n ecc s).2 := by
  unfold hbmFetch
  repeat' first
    | with_reducible first
        | assumption | apply hbmCorrected_keeps | apply hbmUncorrectables_keeps | apply ite_keeps | apply State.tile_keeps (s0 := s0)
    | dsimp only | split | intro _

theorem hbmFetch_keeps_eq {s0 : State} {a n : Nat} {ecc : HbmEcc} {s : State} {u : State} {ret0 : Bool} (hs : Keeps s0 s) (eq0 : hbmFetch a n ecc s = (ret0, u)) : Keeps s0 u := by
  have := hbmFetch_keeps a n ecc s hs
  rw [eq0] at this
  exact this

theorem copyInData_keeps {s0 : State} (t : Nat) (o : DmaOp) (k : Nat) (bs : List Byte) (s : State) (hs : Keeps s0 s) : Keeps s0 (copyInData t o k bs s) := by
  unfold copyInData
  repeat' first
    | with_reducible first
        | assumption | apply forAll_keeps | apply postWrite_keeps | apply State.modTile_keeps | apply Tile.modOp_keeps | apply ite_keeps
        | apply State.tile_keeps (s0 := s0)
    | dsimp only | split | intro _

theorem streamData_keeps {s0 : State} (t : Nat) (o : DmaOp) (c : Carousel) (e : MapEntry) (bs : List Byte) (s : State) (hs : Keeps s0 s) : Keeps s0 (streamData t o c e bs s) := by
  unfold streamData
  repeat' first
    | with_reducible first
        | assumption | apply forAll_keeps | apply postWrite_keeps | apply State.modTile_keeps | apply Tile.modOp_keeps | apply ite_keeps
        | apply State.tile_keeps (s0 := s0)
    | dsimp only | split | intro _

theorem captureStoked_keeps {s0 : State} (t : Nat) (o : DmaOp) (a : Nat) (bs : List Byte) (s : State) (hs : Keeps s0 s) : Keeps s0 (captureStoked t o a bs s) := by
  unfold captureStoked
  repeat' first
    | with_reducible first
        | assumption | apply captureArrival_keeps | apply ite_keeps | apply State.tile_keeps (s0 := s0)
    | dsimp only | split | intro _

theorem hbmData_keeps {s0 : State} (t id kind : Nat) (o : DmaOp) (a n : Nat) (ecc : HbmEcc) (s : State) (hs : Keeps s0 s) : Keeps s0 (hbmData t id kind o a n ecc s).2 := by
  unfold hbmData
  repeat' first
    | with_reducible first
        | assumption | apply takeArrival_keeps | apply State.modTile_keeps | apply Tile.dropOp_keeps | apply hbmStop_keeps | apply tileFault_keeps
        | apply touchRange_keeps | apply hbmFetch_keeps | apply captureStoked_keeps | apply countVn_keeps | apply Tile.count_keeps
        | (refine takeArrival_keeps_eq ?_ (by assumption)) | (refine hbmFetch_keeps_eq ?_ (by assumption)) | apply ite_keeps
        | apply State.tile_keeps (s0 := s0)
    | dsimp only | split | intro _

theorem hbmData_keeps_eq {s0 : State} {t id kind : Nat} {o : DmaOp} {a n : Nat} {ecc : HbmEcc} {s : State} {u : State} {ret0 : Option (List Byte)} (hs : Keeps s0 s) (eq0 : hbmData t id kind o a n ecc s = (ret0, u)) : Keeps s0 u := by
  have := hbmData_keeps t id kind o a n ecc s hs
  rw [eq0] at this
  exact this

theorem noteArrival_keeps {s0 : State} (t kind : Nat) (o : DmaOp) (bs : List Byte) (s : State) (hs : Keeps s0 s) : Keeps s0 (noteArrival t kind o bs s) := by
  unfold noteArrival
  repeat' first
    | with_reducible first
        | assumption | apply captureArrival_keeps | apply ite_keeps | apply State.tile_keeps (s0 := s0)
    | dsimp only | split | intro _

theorem unitData_keeps {s0 : State} (t kind : Nat) (o : DmaOp) (bs : List Byte) (s : State) (hs : Keeps s0 s) : Keeps s0 (unitData t kind o bs s).2 := by
  unfold unitData
  repeat' first
    | with_reducible first
        | assumption | apply noteArrival_keeps | apply ite_keeps | apply State.tile_keeps (s0 := s0)
    | dsimp only | split | intro _

theorem unitData_keeps_eq {s0 : State} {t kind : Nat} {o : DmaOp} {bs : List Byte} {s : State} {u : State} {ret0 : List Byte} (hs : Keeps s0 s) (eq0 : unitData t kind o bs s = (ret0, u)) : Keeps s0 u := by
  have := unitData_keeps t kind o bs s hs
  rw [eq0] at this
  exact this

theorem opReturn_keeps {s0 : State} (t id k : Nat) (ecc : HbmEcc) (o : DmaOp) (s : State) (hs : Keeps s0 s) : Keeps s0 (opReturn t id k ecc o s) := by
  unfold opReturn
  repeat' first
    | with_reducible first
        | assumption | apply hbmData_keeps | apply unitData_keeps | apply pumpOp_keeps | apply copyInData_keeps | apply streamData_keeps
        | apply noteArrival_keeps | apply State.modTile_keeps | apply Tile.modOp_keeps | (refine hbmData_keeps_eq ?_ (by assumption))
        | (refine unitData_keeps_eq ?_ (by assumption)) | apply ite_keeps | apply State.tile_keeps (s0 := s0)
    | dsimp only | split | intro _

theorem kRequest_keeps {s0 : State} (t : Nat) (k : KSlot) (flits : Nat) (s : State) (hs : Keeps s0 s) : Keeps s0 (kRequest t k flits s) := by
  unfold kRequest
  repeat' first
    | with_reducible first
        | assumption | apply countVn_keeps | apply touchRange_keeps | apply State.modTile_keeps | apply Tile.count_keeps | apply ite_keeps
        | apply State.tile_keeps (s0 := s0)
    | dsimp only | split | intro _

theorem kindle_keeps {s0 : State} (t : Nat) (put : Bool) (rs rt : Nat) (s : State) (hs : Keeps s0 s) : Keeps s0 (kindle t put rs rt s) := by
  unfold kindle
  repeat' first
    | with_reducible first
        | assumption | apply ctxFault_keeps | apply postAdd_keeps | apply State.modTile_keeps | apply Tile.setStall_keeps | apply postRead_keeps
        | apply kRequest_keeps | apply And.intro | apply Keeps.hbm (s0 := s0) | apply Keeps.hostMem (s0 := s0) | apply Keeps.tiles (s0 := s0)
        | apply Keeps.sec | apply Keeps.boot | apply Keeps.pending | apply Keeps.fresh | apply State.tile_keeps (s0 := s0) | apply Tile.memOk.store
        | apply ite_keeps
    | dsimp only | simp only [Keeps_mk] | simp only [Tile.memOk_mk] | split | intro _

theorem execKget_keeps {s0 : State} (t : TileId) (rs rt : Fin 32) (s : State) (hs : Keeps s0 s) : OutcomeKeeps s0 (execKget t rs rt s) := by
  unfold execKget
  repeat' first
    | with_reducible first
        | assumption | apply OutcomeKeeps_next | apply kindle_keeps | apply ite_keeps | apply State.tile_keeps (s0 := s0)
    | dsimp only | split | intro _

theorem execKput_keeps {s0 : State} (t : TileId) (rs rt : Fin 32) (s : State) (hs : Keeps s0 s) : OutcomeKeeps s0 (execKput t rs rt s) := by
  unfold execKput
  repeat' first
    | with_reducible first
        | assumption | apply OutcomeKeeps_next | apply kindle_keeps | apply ite_keeps | apply State.tile_keeps (s0 := s0)
    | dsimp only | split | intro _

theorem Tile.modK_keeps (x : Tile) (id : Nat) (f : KSlot → KSlot) (hx : x.memOk) : (Tile.modK x id f).memOk := by
  unfold Tile.modK
  repeat' first
    | with_reducible first
        | assumption | apply And.intro | apply Keeps.hbm (s0 := s0) | apply Keeps.hostMem (s0 := s0) | apply Keeps.tiles (s0 := s0) | apply Keeps.sec
        | apply Keeps.boot | apply Keeps.pending | apply Keeps.fresh | apply State.tile_keeps (s0 := s0) | apply Tile.memOk.store | apply ite_keeps
    | dsimp only | simp only [Keeps_mk] | simp only [Tile.memOk_mk] | split | intro _

theorem kgetReturn_keeps {s0 : State} (t : Nat) (ecc : HbmEcc) (k : KSlot) (s : State) (hs : Keeps s0 s) : Keeps s0 (kgetReturn t ecc k s) := by
  unfold kgetReturn
  repeat' first
    | with_reducible first
        | assumption | apply takeArrival_keeps | apply queueMerge_keeps | apply State.modTile_keeps | apply Tile.modK_keeps | apply ctxFault_keeps
        | apply touchRange_keeps | apply hbmFetch_keeps | apply stopOnTile_keeps | apply captureArrival_keeps | apply countVn_keeps
        | (refine takeArrival_keeps_eq ?_ (by assumption)) | (refine hbmFetch_keeps_eq ?_ (by assumption)) | apply ite_keeps
        | apply State.tile_keeps (s0 := s0)
    | dsimp only | split | intro _

theorem execHbmReadDataReturn_keeps {s0 : State} (t : TileId) (op k : Nat) (ecc : HbmEcc) (s : State) (hs : Keeps s0 s) : OutcomeKeeps s0 (execHbmReadDataReturn t op k ecc s) := by
  unfold execHbmReadDataReturn
  repeat' first
    | with_reducible first
        | assumption | apply OutcomeKeeps_next | apply opReturn_keeps | apply kgetReturn_keeps | apply ite_keeps | apply State.tile_keeps (s0 := s0)
    | dsimp only | split | intro _

theorem execKindlingComplete_keeps {s0 : State} (t : TileId) (id : Nat) (s : State) (hs : Keeps s0 s) : OutcomeKeeps s0 (execKindlingComplete t id s) := by
  unfold execKindlingComplete
  repeat' first
    | with_reducible first
        | assumption | apply OutcomeKeeps_next | apply State.modTile_keeps | apply postAdd_keeps | apply And.intro | apply Keeps.hbm (s0 := s0)
        | apply Keeps.hostMem (s0 := s0) | apply Keeps.tiles (s0 := s0) | apply Keeps.sec | apply Keeps.boot | apply Keeps.pending
        | apply Keeps.fresh | apply State.tile_keeps (s0 := s0) | apply Tile.memOk.store | apply ite_keeps
    | dsimp only | simp only [Keeps_mk] | simp only [Tile.memOk_mk] | split | intro _

theorem writeDone_keeps {s0 : State} (org : HbmOrg) (ok : Bool) (s : State) (hs : Keeps s0 s) : Keeps s0 (writeDone org ok s) := by
  unfold writeDone
  repeat' first
    | with_reducible first
        | assumption | apply countVn_keeps | apply State.modTile_keeps | apply Tile.modOp_keeps | apply Tile.modK_keeps | apply ite_keeps
        | apply State.tile_keeps (s0 := s0)
    | dsimp only | split | intro _

theorem writeFault_keeps {s0 : State} (w : HbmWrite) (blk code : Nat) (s : State) (hs : Keeps s0 s) : Keeps s0 (writeFault w blk code s) := by
  unfold writeFault
  repeat' first
    | with_reducible first
        | assumption | apply hbmStop_keeps | apply stopOnTile_keeps | apply writeDone_keeps | apply ite_keeps | apply State.tile_keeps (s0 := s0)
    | dsimp only | split | intro _

theorem execHbmWriteAccept_keeps {s0 : State} (k : StackId) (ecc : HbmEcc) (s : State) (hs : Keeps s0 s) : OutcomeKeeps s0 (execHbmWriteAccept k ecc s) := by
  unfold execHbmWriteAccept
  repeat' first
    | with_reducible first
        | assumption | apply OutcomeKeeps_next | apply writeFault_keeps | apply tileFault_keeps | apply touchStack_keeps
        | apply hbmUncorrectables_keeps | apply hbmCorrected_keeps | apply writeDone_keeps | apply State.hbmWrite_keeps | apply And.intro
        | apply Keeps.hbm (s0 := s0) | apply Keeps.hostMem (s0 := s0) | apply Keeps.tiles (s0 := s0) | apply Keeps.sec | apply Keeps.boot
        | apply Keeps.pending | apply Keeps.fresh | apply State.tile_keeps (s0 := s0) | apply Tile.memOk.store | apply ite_keeps
    | dsimp only | simp only [Keeps_mk] | simp only [Tile.memOk_mk] | split | intro _

theorem execDmaCommandComplete_keeps {s0 : State} (t : TileId) (op : Nat) (s : State) (hs : Keeps s0 s) : OutcomeKeeps s0 (execDmaCommandComplete t op s) := by
  unfold execDmaCommandComplete
  repeat' first
    | with_reducible first
        | assumption | apply OutcomeKeeps_next | apply State.modTile_keeps | apply Tile.dropOp_keeps | apply pumpTile_keeps | apply finishOp_keeps
        | apply And.intro | apply Keeps.hbm (s0 := s0) | apply Keeps.hostMem (s0 := s0) | apply Keeps.tiles (s0 := s0) | apply Keeps.sec
        | apply Keeps.boot | apply Keeps.pending | apply Keeps.fresh | apply State.tile_keeps (s0 := s0) | apply Tile.memOk.store | apply ite_keeps
    | dsimp only | simp only [Keeps_mk] | simp only [Tile.memOk_mk] | split | intro _

theorem execStackWakeComplete_keeps {s0 : State} (k : StackId) (s : State) (hs : Keeps s0 s) : OutcomeKeeps s0 (execStackWakeComplete k s) := by
  unfold execStackWakeComplete
  repeat' first
    | with_reducible first
        | assumption | apply OutcomeKeeps_next | apply State.modStack_keeps | apply ite_keeps | apply State.tile_keeps (s0 := s0)
    | dsimp only | split | intro _

/-! ### Machine/Rick.lean -/

theorem Tile.modStream_keeps (x : Tile) (n : Nat) (f : RickStream → RickStream) (hx : x.memOk) : (Tile.modStream x n f).memOk := by
  unfold Tile.modStream
  repeat' first
    | with_reducible first
        | assumption | apply And.intro | apply Keeps.hbm (s0 := s0) | apply Keeps.hostMem (s0 := s0) | apply Keeps.tiles (s0 := s0) | apply Keeps.sec
        | apply Keeps.boot | apply Keeps.pending | apply Keeps.fresh | apply State.tile_keeps (s0 := s0) | apply Tile.memOk.store | apply ite_keeps
    | dsimp only | simp only [Keeps_mk] | simp only [Tile.memOk_mk] | split | intro _

theorem clearWrites_keeps {s0 : State} (t : Nat) (k : RickStream) (s : State) (hs : Keeps s0 s) : Keeps s0 (clearWrites t k s) := by
  unfold clearWrites
  repeat' first
    | with_reducible first
        | assumption | apply forAll_keeps | apply postWrite_keeps | apply ite_keeps | apply State.tile_keeps (s0 := s0)
    | dsimp only | split | intro _

theorem sendPacket_keeps {s0 : State} (t ctx dst stream first : Nat) (exact : Bool) (tag : Nat) (vs : List LimbVal) (s : State) (hs : Keeps s0 s) : Keeps s0 (sendPacket t ctx dst stream first exact tag vs s) := by
  unfold sendPacket
  repeat' first
    | with_reducible first
        | assumption | apply ctxFault_keeps | apply replayOutput_keeps | apply inject_keeps | apply ite_keeps | apply State.tile_keeps (s0 := s0)
    | dsimp only | split | intro _

theorem contribute_keeps {s0 : State} (t ctx n e : Nat) (exact : Bool) (src : Option Nat) (vs : List LimbVal) (s : State) (hs : Keeps s0 s) : Keeps s0 (contribute t ctx n e exact src vs s) := by
  unfold contribute
  repeat' first
    | with_reducible first
        | assumption | apply sendPacket_keeps | apply State.modTile_keeps | apply And.intro | apply Keeps.hbm (s0 := s0)
        | apply Keeps.hostMem (s0 := s0) | apply Keeps.tiles (s0 := s0) | apply Keeps.sec | apply Keeps.boot | apply Keeps.pending
        | apply Keeps.fresh | apply State.tile_keeps (s0 := s0) | apply Tile.memOk.store | apply ite_keeps
    | dsimp only | simp only [Keeps_mk] | simp only [Tile.memOk_mk] | split | intro _

theorem withRickHead_keeps {s0 : State} (t op : Nat) (s : State) (f : QEntry → MapEntry → Ctx → State) (hs : Keeps s0 s) (hf : ∀ z0 z1 z2, Keeps s0 (f z0 z1 z2)) : Keeps s0 (withRickHead t op s f) := by
  unfold withRickHead
  repeat' first
    | with_reducible first
        | assumption | apply hf | apply ctxFault_keeps | apply State.modTile_keeps | apply And.intro | apply Keeps.hbm (s0 := s0)
        | apply Keeps.hostMem (s0 := s0) | apply Keeps.tiles (s0 := s0) | apply Keeps.sec | apply Keeps.boot | apply Keeps.pending
        | apply Keeps.fresh | apply State.tile_keeps (s0 := s0) | apply Tile.memOk.store | apply ite_keeps
    | dsimp only | simp only [Keeps_mk] | simp only [Tile.memOk_mk] | split | intro _

theorem setRickHead_keeps {s0 : State} (t : Nat) (q : QEntry) (s : State) (hs : Keeps s0 s) : Keeps s0 (setRickHead t q s) := by
  unfold setRickHead
  repeat' first
    | with_reducible first
        | assumption | apply State.modTile_keeps | apply And.intro | apply Keeps.hbm (s0 := s0) | apply Keeps.hostMem (s0 := s0)
        | apply Keeps.tiles (s0 := s0) | apply Keeps.sec | apply Keeps.boot | apply Keeps.pending | apply Keeps.fresh
        | apply State.tile_keeps (s0 := s0) | apply Tile.memOk.store | apply ite_keeps
    | dsimp only | simp only [Keeps_mk] | simp only [Tile.memOk_mk] | split | intro _

theorem refuseRick_keeps {s0 : State} (t : Nat) (q : QEntry) (code : Nat) (s : State) (hs : Keeps s0 s) : Keeps s0 (refuseRick t q code s) := by
  unfold refuseRick
  repeat' first
    | with_reducible first
        | assumption | apply ctxFault_keeps | apply State.modTile_keeps | apply And.intro | apply Keeps.hbm (s0 := s0)
        | apply Keeps.hostMem (s0 := s0) | apply Keeps.tiles (s0 := s0) | apply Keeps.sec | apply Keeps.boot | apply Keeps.pending
        | apply Keeps.fresh | apply State.tile_keeps (s0 := s0) | apply Tile.memOk.store | apply ite_keeps
    | dsimp only | simp only [Keeps_mk] | simp only [Tile.memOk_mk] | split | intro _

theorem startRick_keeps {s0 : State} (t : Nat) (q : QEntry) (s : State) (hs : Keeps s0 s) : Keeps s0 (startRick t q s) := by
  unfold startRick
  repeat' first
    | with_reducible first
        | assumption | apply startLatch_keeps | apply setRickHead_keeps | apply ite_keeps | apply State.tile_keeps (s0 := s0)
    | dsimp only | split | intro _

theorem rickDone_keeps {s0 : State} (t : Nat) (s : State) (hs : Keeps s0 s) : Keeps s0 (rickDone t s) := by
  unfold rickDone
  repeat' first
    | with_reducible first
        | assumption | apply State.modTile_keeps | apply And.intro | apply Keeps.hbm (s0 := s0) | apply Keeps.hostMem (s0 := s0)
        | apply Keeps.tiles (s0 := s0) | apply Keeps.sec | apply Keeps.boot | apply Keeps.pending | apply Keeps.fresh
        | apply State.tile_keeps (s0 := s0) | apply Tile.memOk.store | apply ite_keeps
    | dsimp only | simp only [Keeps_mk] | simp only [Tile.memOk_mk] | split | intro _

theorem rickAsk_keeps {s0 : State} (t : Nat) (bils : List (StoreId × Nat)) (n : Nat) (s : State) (hs : Keeps s0 s) : Keeps s0 (rickAsk t bils n s) := by
  unfold rickAsk
  repeat' first
    | with_reducible first
        | assumption | apply forAll_keeps | apply postRead_keeps | apply setRickHead_keeps | apply ite_keeps | apply State.tile_keeps (s0 := s0)
    | dsimp only | split | intro _

theorem Tile.setStream_keeps (x : Tile) (n : Nat) (k : RickStream) (hx : x.memOk) : (Tile.setStream x n k).memOk := by
  unfold Tile.setStream
  repeat' first
    | with_reducible first
        | assumption | apply And.intro | apply Keeps.hbm (s0 := s0) | apply Keeps.hostMem (s0 := s0) | apply Keeps.tiles (s0 := s0) | apply Keeps.sec
        | apply Keeps.boot | apply Keeps.pending | apply Keeps.fresh | apply State.tile_keeps (s0 := s0) | apply Tile.memOk.store | apply ite_keeps
    | dsimp only | simp only [Keeps_mk] | simp only [Tile.memOk_mk] | split | intro _

theorem execDefine_keeps {s0 : State} (site : Site) (s : State) (hs : Keeps s0 s) : OutcomeKeeps s0 (execDefine site s) := by
  unfold execDefine
  repeat' first
    | with_reducible first
        | assumption | apply OutcomeKeeps_next | apply withRickHead_keeps | apply refuseRick_keeps | apply startRick_keeps
        | apply State.modTile_keeps | apply Tile.setStream_keeps | apply rickDone_keeps | apply clearWrites_keeps
        | (refine tileEcc_keeps_eq ?_ (by assumption)) | (refine tileEcc_keeps_some ?_ (by assumption)) | apply ite_keeps
        | apply State.tile_keeps (s0 := s0)
    | dsimp only | split | intro _

theorem contributeGive_keeps {s0 : State} (t : Nat) (s : State) (hs : Keeps s0 s) : Keeps s0 (contributeGive t s) := by
  unfold contributeGive
  repeat' first
    | with_reducible first
        | assumption | apply contribute_keeps | apply setRickHead_keeps | apply State.modTile_keeps | apply Tile.dropReqs_keeps | apply And.intro
        | apply Keeps.hbm (s0 := s0) | apply Keeps.hostMem (s0 := s0) | apply Keeps.tiles (s0 := s0) | apply Keeps.sec | apply Keeps.boot
        | apply Keeps.pending | apply Keeps.fresh | apply State.tile_keeps (s0 := s0) | apply Tile.memOk.store | apply ite_keeps
    | dsimp only | simp only [Keeps_mk] | simp only [Tile.memOk_mk] | split | intro _

theorem execContribute_keeps {s0 : State} (t : TileId) (ecc : Check) (s : State) (hs : Keeps s0 s) : OutcomeKeeps s0 (execContribute t ecc s) := by
  unfold execContribute
  repeat' first
    | with_reducible first
        | assumption | apply OutcomeKeeps_next | apply withRickHead_keeps | apply rickAsk_keeps | apply contributeGive_keeps | apply rickDone_keeps
        | apply startRick_keeps | apply refuseRick_keeps | (refine tileEcc_keeps_eq ?_ (by assumption))
        | (refine tileEcc_keeps_some ?_ (by assumption)) | apply And.intro | apply Keeps.hbm (s0 := s0) | apply Keeps.hostMem (s0 := s0)
        | apply Keeps.tiles (s0 := s0) | apply Keeps.sec | apply Keeps.boot | apply Keeps.pending | apply Keeps.fresh
        | apply State.tile_keeps (s0 := s0) | apply Tile.memOk.store | apply ite_keeps
    | dsimp only | simp only [Keeps_mk] | simp only [Tile.memOk_mk] | split | intro _

theorem execRelease_keeps {s0 : State} (site : Site) (s : State) (hs : Keeps s0 s) : OutcomeKeeps s0 (execRelease site s) := by
  unfold execRelease
  repeat' first
    | with_reducible first
        | assumption | apply OutcomeKeeps_next | apply withRickHead_keeps | apply refuseRick_keeps | apply rickDone_keeps | apply startRick_keeps
        | apply State.modTile_keeps | (refine tileEcc_keeps_eq ?_ (by assumption)) | (refine tileEcc_keeps_some ?_ (by assumption)) | apply And.intro
        | apply Keeps.hbm (s0 := s0) | apply Keeps.hostMem (s0 := s0) | apply Keeps.tiles (s0 := s0) | apply Keeps.sec | apply Keeps.boot
        | apply Keeps.pending | apply Keeps.fresh | apply State.tile_keeps (s0 := s0) | apply Tile.memOk.store | apply ite_keeps
    | dsimp only | simp only [Keeps_mk] | simp only [Tile.memOk_mk] | split | intro _

theorem resetStream_keeps {s0 : State} (t n : Nat) (s : State) (hs : Keeps s0 s) : Keeps s0 (resetStream t n s) := by
  unfold resetStream
  repeat' first
    | with_reducible first
        | assumption | apply clearWrites_keeps | apply State.modTile_keeps | apply Tile.dropReqs_keeps | apply Tile.modStream_keeps | apply ite_keeps
        | apply State.tile_keeps (s0 := s0)
    | dsimp only | split | intro _

theorem storeResults_keeps {s0 : State} (t : Nat) (first : Nat) (bs : List Byte) (s : State) (hs : Keeps s0 s) : Keeps s0 (storeResults t first bs s) := by
  unfold storeResults
  repeat' first
    | with_reducible first
        | assumption | apply forAll_keeps | apply postWrite_keeps | apply queueMerge_keeps | apply ite_keeps | apply State.tile_keeps (s0 := s0)
    | dsimp only | split | intro _

theorem takeRecorded_keeps {s0 : State} (t ctx n : Nat) (s : State) (hs : Keeps s0 s) : Keeps s0 (takeRecorded t ctx n s) := by
  unfold takeRecorded
  repeat' first
    | with_reducible first
        | assumption | apply contribute_keeps | apply ctxFault_keeps | apply And.intro | apply Keeps.hbm (s0 := s0) | apply Keeps.hostMem (s0 := s0)
        | apply Keeps.tiles (s0 := s0) | apply Keeps.sec | apply Keeps.boot | apply Keeps.pending | apply Keeps.fresh
        | apply State.tile_keeps (s0 := s0) | apply Tile.memOk.store | apply ite_keeps
    | dsimp only | simp only [Keeps_mk] | simp only [Tile.memOk_mk] | split | intro _

theorem finishDeliver_keeps {s0 : State} (t : Nat) (q : QEntry) (e : MapEntry) (ctx : Ctx) (s : State) (hs : Keeps s0 s) : Keeps s0 (finishDeliver t q e ctx s) := by
  unfold finishDeliver
  repeat' first
    | with_reducible first
        | assumption | apply rickDone_keeps | apply resetStream_keeps | apply storeResults_keeps | apply setRickHead_keeps
        | apply State.modTile_keeps | apply sendPacket_keeps | apply And.intro | apply Keeps.hbm (s0 := s0) | apply Keeps.hostMem (s0 := s0)
        | apply Keeps.tiles (s0 := s0) | apply Keeps.sec | apply Keeps.boot | apply Keeps.pending | apply Keeps.fresh
        | apply State.tile_keeps (s0 := s0) | apply Tile.memOk.store | apply ite_keeps
    | dsimp only | simp only [Keeps_mk] | simp only [Tile.memOk_mk] | split | intro _

theorem execFinish_keeps {s0 : State} (t : TileId) (ecc : Check) (s : State) (hs : Keeps s0 s) : OutcomeKeeps s0 (execFinish t ecc s) := by
  unfold execFinish
  repeat' first
    | with_reducible first
        | assumption | apply OutcomeKeeps_next | apply withRickHead_keeps | apply refuseRick_keeps | apply startRick_keeps
        | apply State.modTile_keeps | apply Tile.modStream_keeps | apply takeRecorded_keeps | apply rickAsk_keeps | apply finishDeliver_keeps
        | (refine tileEcc_keeps_eq ?_ (by assumption)) | (refine tileEcc_keeps_some ?_ (by assumption)) | apply And.intro
        | apply Keeps.hbm (s0 := s0) | apply Keeps.hostMem (s0 := s0) | apply Keeps.tiles (s0 := s0) | apply Keeps.sec | apply Keeps.boot
        | apply Keeps.pending | apply Keeps.fresh | apply State.tile_keeps (s0 := s0) | apply Tile.memOk.store | apply ite_keeps
    | dsimp only | simp only [Keeps_mk] | simp only [Tile.memOk_mk] | split | intro _

theorem execHandoffCredit_keeps {s0 : State} (t : TileId) (s : State) (hs : Keeps s0 s) : OutcomeKeeps s0 (execHandoffCredit t s) := by
  unfold execHandoffCredit
  repeat' first
    | with_reducible first
        | assumption | apply OutcomeKeeps_next | apply withRickHead_keeps | apply State.modTile_keeps | apply rickDone_keeps
        | apply resetStream_keeps | apply replayOutput_keeps | apply countVn_keeps | apply And.intro | apply Keeps.hbm (s0 := s0)
        | apply Keeps.hostMem (s0 := s0) | apply Keeps.tiles (s0 := s0) | apply Keeps.sec | apply Keeps.boot | apply Keeps.pending
        | apply Keeps.fresh | apply State.tile_keeps (s0 := s0) | apply Tile.memOk.store | apply ite_keeps
    | dsimp only | simp only [Keeps_mk] | simp only [Tile.memOk_mk] | split | intro _

theorem execRickCommandComplete_keeps {s0 : State} (t : TileId) (s : State) (hs : Keeps s0 s) : OutcomeKeeps s0 (execRickCommandComplete t s) := by
  unfold execRickCommandComplete
  repeat' first
    | with_reducible first
        | assumption | apply OutcomeKeeps_next | apply completeEntry_keeps | apply State.modTile_keeps | apply And.intro | apply Keeps.hbm (s0 := s0)
        | apply Keeps.hostMem (s0 := s0) | apply Keeps.tiles (s0 := s0) | apply Keeps.sec | apply Keeps.boot | apply Keeps.pending
        | apply Keeps.fresh | apply State.tile_keeps (s0 := s0) | apply Tile.memOk.store | apply ite_keeps
    | dsimp only | simp only [Keeps_mk] | simp only [Tile.memOk_mk] | split | intro _

theorem strayPacket_keeps {s0 : State} (t : Nat) (s : State) (hs : Keeps s0 s) : Keeps s0 (strayPacket t s) := by
  unfold strayPacket
  repeat' first
    | with_reducible first
        | assumption | apply tileFault_keeps | apply State.modTile_keeps | apply And.intro | apply Keeps.hbm (s0 := s0)
        | apply Keeps.hostMem (s0 := s0) | apply Keeps.tiles (s0 := s0) | apply Keeps.sec | apply Keeps.boot | apply Keeps.pending
        | apply Keeps.fresh | apply State.tile_keeps (s0 := s0) | apply Tile.memOk.store | apply ite_keeps
    | dsimp only | simp only [Keeps_mk] | simp only [Tile.memOk_mk] | split | intro _

theorem openPacket_keeps {s0 : State} (t src n first count : Nat) (exact : Bool) (s : State) (hs : Keeps s0 s) : Keeps s0 (openPacket t src n first count exact s) := by
  unfold openPacket
  repeat' first
    | with_reducible first
        | assumption | apply Security.kept_ok | apply Tile.count_keeps | apply State.modTile_keeps | apply strayPacket_keeps | apply And.intro
        | apply Keeps.hbm (s0 := s0) | apply Keeps.hostMem (s0 := s0) | apply Keeps.tiles (s0 := s0) | apply Keeps.sec | apply Keeps.boot
        | apply Keeps.pending | apply Keeps.fresh | apply State.tile_keeps (s0 := s0) | apply Tile.memOk.store | apply ite_keeps
    | dsimp only | simp only [Keeps_mk] | simp only [Tile.memOk_mk] | split | intro _

theorem takeRickFlit_keeps {s0 : State} (t : Nat) (f : Flit) (s : State) (hs : Keeps s0 s) : Keeps s0 (takeRickFlit t f s) := by
  unfold takeRickFlit
  repeat' first
    | with_reducible first
        | assumption | apply Tile.count_keeps | apply openPacket_keeps | apply State.modTile_keeps | apply Security.kept_ok
        | apply captureArrival_keeps | apply contribute_keeps | apply And.intro | apply Keeps.hbm (s0 := s0) | apply Keeps.hostMem (s0 := s0)
        | apply Keeps.tiles (s0 := s0) | apply Keeps.sec | apply Keeps.boot | apply Keeps.pending | apply Keeps.fresh
        | apply State.tile_keeps (s0 := s0) | apply Tile.memOk.store | apply ite_keeps
    | dsimp only | simp only [Keeps_mk] | simp only [Tile.memOk_mk] | split | intro _

theorem execRickPacketArrival_keeps {s0 : State} (t : TileId) (s : State) (hs : Keeps s0 s) : OutcomeKeeps s0 (execRickPacketArrival t s) := by
  unfold execRickPacketArrival
  repeat' first
    | with_reducible first
        | assumption | apply OutcomeKeeps_next | apply forAll_keeps | apply takeRickFlit_keeps | apply State.modTile_keeps | apply And.intro
        | apply Keeps.hbm (s0 := s0) | apply Keeps.hostMem (s0 := s0) | apply Keeps.tiles (s0 := s0) | apply Keeps.sec | apply Keeps.boot
        | apply Keeps.pending | apply Keeps.fresh | apply State.tile_keeps (s0 := s0) | apply Tile.memOk.store | apply ite_keeps
    | dsimp only | simp only [Keeps_mk] | simp only [Tile.memOk_mk] | split | intro _

theorem stopStreamRick_keeps {s0 : State} (t n code : Nat) (s : State) (hs : Keeps s0 s) : Keeps s0 (stopStreamRick t n code s) := by
  unfold stopStreamRick
  repeat' first
    | with_reducible first
        | assumption | apply ctxFault_keeps | apply State.modTile_keeps | apply Tile.modStream_keeps | apply And.intro | apply Keeps.hbm (s0 := s0)
        | apply Keeps.hostMem (s0 := s0) | apply Keeps.tiles (s0 := s0) | apply Keeps.sec | apply Keeps.boot | apply Keeps.pending
        | apply Keeps.fresh | apply State.tile_keeps (s0 := s0) | apply Tile.memOk.store | apply ite_keeps
    | dsimp only | simp only [Keeps_mk] | simp only [Tile.memOk_mk] | split | intro _

theorem startAddition_keeps {s0 : State} (t : Nat) (s : State) (hs : Keeps s0 s) : Keeps s0 (startAddition t s) := by
  unfold startAddition
  repeat' first
    | with_reducible first
        | assumption | apply State.modTile_keeps | apply Tile.modStream_keeps | apply postRead_keeps | apply stopStreamRick_keeps | apply And.intro
        | apply Keeps.hbm (s0 := s0) | apply Keeps.hostMem (s0 := s0) | apply Keeps.tiles (s0 := s0) | apply Keeps.sec | apply Keeps.boot
        | apply Keeps.pending | apply Keeps.fresh | apply State.tile_keeps (s0 := s0) | apply Tile.memOk.store | apply ite_keeps
    | dsimp only | simp only [Keeps_mk] | simp only [Tile.memOk_mk] | split | intro _

theorem finishAddition_keeps {s0 : State} (t : Nat) (w : AddWork) (s : State) (hs : Keeps s0 s) : Keeps s0 (finishAddition t w s) := by
  unfold finishAddition
  repeat' first
    | with_reducible first
        | assumption | apply postWrite_keeps | apply State.modTile_keeps | apply And.intro | apply Keeps.hbm (s0 := s0)
        | apply Keeps.hostMem (s0 := s0) | apply Keeps.tiles (s0 := s0) | apply Keeps.sec | apply Keeps.boot | apply Keeps.pending
        | apply Keeps.fresh | apply State.tile_keeps (s0 := s0) | apply Tile.memOk.store | apply ite_keeps
    | dsimp only | simp only [Keeps_mk] | simp only [Tile.memOk_mk] | split | intro _

theorem sideStep_keeps {s0 : State} (t n : Nat) (s : State) (hs : Keeps s0 s) : Keeps s0 (sideStep t n s) := by
  unfold sideStep
  repeat' first
    | with_reducible first
        | assumption | apply State.modTile_keeps | apply stopStreamRick_keeps | apply postRead_keeps | apply postWrite_keeps
        | apply Tile.modStream_keeps | apply And.intro | apply Keeps.hbm (s0 := s0) | apply Keeps.hostMem (s0 := s0) | apply Keeps.tiles (s0 := s0)
        | apply Keeps.sec | apply Keeps.boot | apply Keeps.pending | apply Keeps.fresh | apply State.tile_keeps (s0 := s0) | apply Tile.memOk.store
        | apply ite_keeps
    | dsimp only | simp only [Keeps_mk] | simp only [Tile.memOk_mk] | split | intro _

theorem execRickAddition_keeps {s0 : State} (t : TileId) (ecc : Check) (s : State) (hs : Keeps s0 s) : OutcomeKeeps s0 (execRickAddition t ecc s) := by
  unfold execRickAddition
  repeat' first
    | with_reducible first
        | assumption | apply OutcomeKeeps_next | apply forAll_keeps | apply finishAddition_keeps | apply startAddition_keeps | apply sideStep_keeps
        | (refine tileEcc_keeps_eq ?_ (by assumption)) | (refine tileEcc_keeps_some ?_ (by assumption)) | apply And.intro
        | apply Keeps.hbm (s0 := s0) | apply Keeps.hostMem (s0 := s0) | apply Keeps.tiles (s0 := s0) | apply Keeps.sec | apply Keeps.boot
        | apply Keeps.pending | apply Keeps.fresh | apply State.tile_keeps (s0 := s0) | apply Tile.memOk.store | apply ite_keeps
    | dsimp only | simp only [Keeps_mk] | simp only [Tile.memOk_mk] | split | intro _

theorem rickWritten_keeps (d : ReqDst) (x : Tile) (hx : x.memOk) : (rickWritten d x).memOk := by
  unfold rickWritten
  repeat' first
    | with_reducible first
        | assumption | apply And.intro | apply Keeps.hbm (s0 := s0) | apply Keeps.hostMem (s0 := s0) | apply Keeps.tiles (s0 := s0) | apply Keeps.sec
        | apply Keeps.boot | apply Keeps.pending | apply Keeps.fresh | apply State.tile_keeps (s0 := s0) | apply Tile.memOk.store | apply ite_keeps
    | dsimp only | simp only [Keeps_mk] | simp only [Tile.memOk_mk] | split | intro _

/-! ### Machine/Matrix.lean -/

theorem Tile.modMat_keeps (x : Tile) (id : Nat) (f : QEntry → QEntry) (hx : x.memOk) : (Tile.modMat x id f).memOk := by
  unfold Tile.modMat
  repeat' first
    | with_reducible first
        | assumption | apply And.intro | apply Keeps.hbm (s0 := s0) | apply Keeps.hostMem (s0 := s0) | apply Keeps.tiles (s0 := s0) | apply Keeps.sec
        | apply Keeps.boot | apply Keeps.pending | apply Keeps.fresh | apply State.tile_keeps (s0 := s0) | apply Tile.memOk.store | apply ite_keeps
    | dsimp only | simp only [Keeps_mk] | simp only [Tile.memOk_mk] | split | intro _

theorem modMatrix_keeps {s0 : State} (t : Nat) (f : MatrixSt → MatrixSt) (s : State) (hs : Keeps s0 s) : Keeps s0 (modMatrix t f s) := by
  unfold modMatrix
  repeat' first
    | with_reducible first
        | assumption | apply State.modTile_keeps | apply And.intro | apply Keeps.hbm (s0 := s0) | apply Keeps.hostMem (s0 := s0)
        | apply Keeps.tiles (s0 := s0) | apply Keeps.sec | apply Keeps.boot | apply Keeps.pending | apply Keeps.fresh
        | apply State.tile_keeps (s0 := s0) | apply Tile.memOk.store | apply ite_keeps
    | dsimp only | simp only [Keeps_mk] | simp only [Tile.memOk_mk] | split | intro _

theorem refuseMat_keeps {s0 : State} (t : Nat) (q : QEntry) (code : Nat) (s : State) (hs : Keeps s0 s) : Keeps s0 (refuseMat t q code s) := by
  unfold refuseMat
  repeat' first
    | with_reducible first
        | assumption | apply ctxFault_keeps | apply State.modTile_keeps | apply And.intro | apply Keeps.hbm (s0 := s0)
        | apply Keeps.hostMem (s0 := s0) | apply Keeps.tiles (s0 := s0) | apply Keeps.sec | apply Keeps.boot | apply Keeps.pending
        | apply Keeps.fresh | apply State.tile_keeps (s0 := s0) | apply Tile.memOk.store | apply ite_keeps
    | dsimp only | simp only [Keeps_mk] | simp only [Tile.memOk_mk] | split | intro _

theorem Tile.takeArray_keeps (x : Tile) (hx : x.memOk) : (Tile.takeArray x).memOk := by
  unfold Tile.takeArray
  repeat' first
    | with_reducible first
        | assumption | apply And.intro | apply Keeps.hbm (s0 := s0) | apply Keeps.hostMem (s0 := s0) | apply Keeps.tiles (s0 := s0) | apply Keeps.sec
        | apply Keeps.boot | apply Keeps.pending | apply Keeps.fresh | apply State.tile_keeps (s0 := s0) | apply Tile.memOk.store | apply ite_keeps
    | dsimp only | simp only [Keeps_mk] | simp only [Tile.memOk_mk] | split | intro _

theorem Tile.doneMat_keeps (x : Tile) (id : Nat) (hx : x.memOk) : (Tile.doneMat x id).memOk := by
  unfold Tile.doneMat
  repeat' first
    | with_reducible first
        | assumption | apply Tile.modMat_keeps | apply Tile.takeArray_keeps | apply And.intro | apply Keeps.hbm (s0 := s0)
        | apply Keeps.hostMem (s0 := s0) | apply Keeps.tiles (s0 := s0) | apply Keeps.sec | apply Keeps.boot | apply Keeps.pending
        | apply Keeps.fresh | apply State.tile_keeps (s0 := s0) | apply Tile.memOk.store | apply ite_keeps
    | dsimp only | simp only [Keeps_mk] | simp only [Tile.memOk_mk] | split | intro _

theorem doneMat_keeps {s0 : State} (t id : Nat) (s : State) (hs : Keeps s0 s) : Keeps s0 (doneMat t id s) := by
  unfold doneMat
  repeat' first
    | with_reducible first
        | assumption | apply State.modTile_keeps | apply Tile.doneMat_keeps | apply And.intro | apply Keeps.hbm (s0 := s0)
        | apply Keeps.hostMem (s0 := s0) | apply Keeps.tiles (s0 := s0) | apply Keeps.sec | apply Keeps.boot | apply Keeps.pending
        | apply Keeps.fresh | apply State.tile_keeps (s0 := s0) | apply Tile.memOk.store | apply ite_keeps
    | dsimp only | simp only [Keeps_mk] | simp only [Tile.memOk_mk] | split | intro _

theorem Tile.failMat_keeps (x : Tile) (id : Nat) (hx : x.memOk) : (Tile.failMat x id).memOk := by
  unfold Tile.failMat
  repeat' first
    | with_reducible first
        | assumption | apply Tile.modCar_keeps | apply Tile.modMat_keeps | apply Tile.dropReqs_keeps | apply Tile.doneMat_keeps | apply doneMat_keeps
        | apply And.intro | apply Keeps.hbm (s0 := s0) | apply Keeps.hostMem (s0 := s0) | apply Keeps.tiles (s0 := s0) | apply Keeps.sec
        | apply Keeps.boot | apply Keeps.pending | apply Keeps.fresh | apply State.tile_keeps (s0 := s0) | apply Tile.memOk.store | apply ite_keeps
    | dsimp only | simp only [Keeps_mk] | simp only [Tile.memOk_mk] | split | intro _

theorem faultMat_keeps {s0 : State} (t : Nat) (q : QEntry) (code : Nat) (s : State) (hs : Keeps s0 s) : Keeps s0 (faultMat t q code s) := by
  unfold faultMat
  repeat' first
    | with_reducible first
        | assumption | apply ctxFault_keeps | apply State.modTile_keeps | apply Tile.failMat_keeps | apply ite_keeps
        | apply State.tile_keeps (s0 := s0)
    | dsimp only | split | intro _

theorem working_keeps {s0 : State} (t : Nat) (slot n : Nat) (s : State) (hs : Keeps s0 s) : Keeps s0 (working t slot n s) := by
  unfold working
  repeat' first
    | with_reducible first
        | assumption | apply State.modTile_keeps | apply Tile.count_keeps | apply ite_keeps | apply State.tile_keeps (s0 := s0)
    | dsimp only | split | intro _

theorem Tile.feedPost_keeps (x : Tile) (cycle : Nat) (e : MapEntry) (q : QEntry) (f : Nat) (hx : x.memOk) : optTileOk (Tile.feedPost x cycle e q f) := by
  unfold Tile.feedPost
  repeat' first
    | with_reducible first
        | assumption | apply Tile.postRing_keeps | apply Tile.modCar_keeps | apply Tile.post_keeps | apply ite_keeps
        | apply State.tile_keeps (s0 := s0)
    | dsimp only | simp only [optKeeps_none, optKeeps_some, optTileOk_none, optTileOk_some, optPairKeeps_none, optPairKeeps_some] | split | intro _

theorem Tile.feedPost_keeps_eq {x : Tile} {cycle : Nat} {e : MapEntry} {q : QEntry} {f : Nat} {u : Tile} (hx : x.memOk) (eq0 : Tile.feedPost x cycle e q f = some u) : u.memOk := by
  have := Tile.feedPost_keeps x cycle e q f hx
  rw [eq0] at this
  exact (optTileOk_some _).mp this

theorem Tile.feedNext_keeps (x : Tile) (cycle : Nat) (e : MapEntry) (q : QEntry) (f : Nat) (hx : x.memOk) : optTileOk (Tile.feedNext x cycle e q f) := by
  unfold Tile.feedNext
  repeat' first
    | with_reducible first
        | assumption | apply Tile.modMat_keeps | (refine Tile.feedPost_keeps_eq ?_ (by assumption)) | apply ite_keeps
        | apply State.tile_keeps (s0 := s0)
    | dsimp only | simp only [optKeeps_none, optKeeps_some, optTileOk_none, optTileOk_some, optPairKeeps_none, optPairKeeps_some] | split | intro _

theorem Tile.feedNext_keeps_eq {x : Tile} {cycle : Nat} {e : MapEntry} {q : QEntry} {f : Nat} {u : Tile} (hx : x.memOk) (eq0 : Tile.feedNext x cycle e q f = some u) : u.memOk := by
  have := Tile.feedNext_keeps x cycle e q f hx
  rw [eq0] at this
  exact (optTileOk_some _).mp this

theorem Tile.feedAll_keeps  : ∀ (a0 : Nat) (a1 : Nat) (a2 : MapEntry) (a3 : Nat) (a4 : Nat) (a5 : Tile), a5.memOk → (Tile.feedAll a0 a1 a2 a3 a4 a5).memOk := by
  intro a0
  induction a0 with
  | zero =>
    intros
    assumption
  | succ n ih =>
    intros
    unfold Tile.feedAll
    repeat' first
      | with_reducible first
          | assumption | (refine Tile.feedNext_keeps_eq ?_ (by assumption)) | apply ite_keeps | apply State.tile_keeps (s0 := s0) | apply ih
      | dsimp only | split | intro _

theorem Tile.feedFree_keeps (x : Tile) (q : QEntry) (k : Nat) (hx : x.memOk) : (Tile.feedFree x q k).memOk := by
  unfold Tile.feedFree
  repeat' first
    | with_reducible first
        | assumption | apply And.intro | apply Keeps.hbm (s0 := s0) | apply Keeps.hostMem (s0 := s0) | apply Keeps.tiles (s0 := s0) | apply Keeps.sec
        | apply Keeps.boot | apply Keeps.pending | apply Keeps.fresh | apply State.tile_keeps (s0 := s0) | apply Tile.memOk.store | apply ite_keeps
    | dsimp only | simp only [Keeps_mk] | simp only [Tile.memOk_mk] | split | intro _

theorem applyChunks_keeps  : ∀ (a0 : Nat) (a1 : Tile) (a2 : QEntry) (a3 : Nat) (a4 : Nat), a1.memOk → (applyChunks a0 a1 a2 a3 a4).memOk := by
  intro a0
  induction a0 with
  | zero =>
    intros
    assumption
  | succ n ih =>
    intros
    unfold applyChunks
    repeat' first
      | with_reducible first
          | assumption | apply And.intro | apply Keeps.hbm (s0 := s0) | apply Keeps.hostMem (s0 := s0) | apply Keeps.tiles (s0 := s0)
          | apply Keeps.sec | apply Keeps.boot | apply Keeps.pending | apply Keeps.fresh | apply State.tile_keeps (s0 := s0) | apply Tile.memOk.store
          | apply ite_keeps | apply ih
      | dsimp only | simp only [Keeps_mk] | simp only [Tile.memOk_mk] | split | intro _

theorem beginMat_keeps {s0 : State} (t : Nat) (q : QEntry) (e : MapEntry) (s : State) (hs : Keeps s0 s) : Keeps s0 (beginMat t q e s) := by
  unfold beginMat
  repeat' first
    | with_reducible first
        | assumption | apply startLatch_keeps | apply State.modTile_keeps | apply Tile.modMat_keeps | apply Tile.modCar_keeps
        | apply Tile.takeArray_keeps | apply And.intro | apply Keeps.hbm (s0 := s0) | apply Keeps.hostMem (s0 := s0) | apply Keeps.tiles (s0 := s0)
        | apply Keeps.sec | apply Keeps.boot | apply Keeps.pending | apply Keeps.fresh | apply State.tile_keeps (s0 := s0) | apply Tile.memOk.store
        | apply ite_keeps
    | dsimp only | simp only [Keeps_mk] | simp only [Tile.memOk_mk] | split | intro _

theorem startMat_keeps {s0 : State} (t op : Nat) (ecc : Check) (s : State) (hs : Keeps s0 s) : Keeps s0 (startMat t op ecc s) := by
  unfold startMat
  repeat' first
    | with_reducible first
        | assumption | apply ctxFault_keeps | apply State.modTile_keeps | apply refuseMat_keeps | apply beginMat_keeps
        | (refine tileEcc_keeps_eq ?_ (by assumption)) | (refine tileEcc_keeps_some ?_ (by assumption)) | apply And.intro
        | apply Keeps.hbm (s0 := s0) | apply Keeps.hostMem (s0 := s0) | apply Keeps.tiles (s0 := s0) | apply Keeps.sec | apply Keeps.boot
        | apply Keeps.pending | apply Keeps.fresh | apply State.tile_keeps (s0 := s0) | apply Tile.memOk.store | apply ite_keeps
    | dsimp only | simp only [Keeps_mk] | simp only [Tile.memOk_mk] | split | intro _

theorem Tile.orFlags_keeps (x : Tile) (slot f : Nat) (hx : x.memOk) : (Tile.orFlags x slot f).memOk := by
  unfold Tile.orFlags
  repeat' first
    | with_reducible first
        | assumption | apply And.intro | apply Keeps.hbm (s0 := s0) | apply Keeps.hostMem (s0 := s0) | apply Keeps.tiles (s0 := s0) | apply Keeps.sec
        | apply Keeps.boot | apply Keeps.pending | apply Keeps.fresh | apply State.tile_keeps (s0 := s0) | apply Tile.memOk.store | apply ite_keeps
    | dsimp only | simp only [Keeps_mk] | simp only [Tile.memOk_mk] | split | intro _

theorem storeRow_keeps {s0 : State} (t : Nat) (q : QEntry) (e : MapEntry) (bs : List Byte) (s : State) (hs : Keeps s0 s) : Keeps s0 (storeRow t q e bs s) := by
  unfold storeRow
  repeat' first
    | with_reducible first
        | assumption | apply modMatrix_keeps | apply postWrite_keeps | apply ite_keeps | apply State.tile_keeps (s0 := s0)
    | dsimp only | split | intro _

theorem storeScales_keeps {s0 : State} (t : Nat) (q : QEntry) (e : MapEntry) (s : State) (hs : Keeps s0 s) : Keeps s0 (storeScales t q e s) := by
  unfold storeScales
  repeat' first
    | with_reducible first
        | assumption | apply queueMerge_keeps | apply ite_keeps | apply State.tile_keeps (s0 := s0)
    | dsimp only | split | intro _

theorem drainOne_keeps {s0 : State} (t : Nat) (q : QEntry) (e : MapEntry) (ctx : Ctx) (s : State) (hs : Keeps s0 s) : Keeps s0 (drainOne t q e ctx s) := by
  unfold drainOne
  repeat' first
    | with_reducible first
        | assumption | apply working_keeps | apply modMatrix_keeps | apply contribute_keeps | apply storeRow_keeps | apply State.modTile_keeps
        | apply Tile.orFlags_keeps | apply ite_keeps | apply State.tile_keeps (s0 := s0)
    | dsimp only | split | intro _

theorem drainRows_keeps {s0 : State}  : ∀ (a0 : Nat) (a1 : Nat) (a2 : QEntry) (a3 : MapEntry) (a4 : Ctx) (a5 : State), Keeps s0 a5 → Keeps s0 (drainRows a0 a1 a2 a3 a4 a5) := by
  intro a0
  induction a0 with
  | zero =>
    intros
    assumption
  | succ n ih =>
    intros
    unfold drainRows
    repeat' first
      | with_reducible first
          | assumption | apply drainOne_keeps | apply ite_keeps | apply State.tile_keeps (s0 := s0) | apply ih
      | dsimp only | split | intro _

theorem drainTile_keeps {s0 : State} (t : Nat) (q : QEntry) (e : MapEntry) (ctx : Ctx) (s : State) (hs : Keeps s0 s) : Keeps s0 (drainTile t q e ctx s) := by
  unfold drainTile
  repeat' first
    | with_reducible first
        | assumption | apply faultMat_keeps | apply modMatrix_keeps | apply drainRows_keeps | apply Tile.doneMat_keeps | apply doneMat_keeps
        | apply storeScales_keeps | apply ite_keeps | apply State.tile_keeps (s0 := s0)
    | dsimp only | split | intro _

theorem Tile.applyKSteps_keeps (x : Tile) (q : QEntry) (n : Nat) (hx : x.memOk) : (Tile.applyKSteps x q n).memOk := by
  unfold Tile.applyKSteps
  repeat' first
    | with_reducible first
        | assumption | apply applyChunks_keeps | apply Tile.feedFree_keeps | apply Tile.modMat_keeps | apply Tile.count_keeps | apply And.intro
        | apply Keeps.hbm (s0 := s0) | apply Keeps.hostMem (s0 := s0) | apply Keeps.tiles (s0 := s0) | apply Keeps.sec | apply Keeps.boot
        | apply Keeps.pending | apply Keeps.fresh | apply State.tile_keeps (s0 := s0) | apply Tile.memOk.store | apply ite_keeps
    | dsimp only | simp only [Keeps_mk] | simp only [Tile.memOk_mk] | split | intro _

theorem accumulate_keeps {s0 : State} (t : Nat) (q : QEntry) (e : MapEntry) (ctx : Ctx) (s : State) (hs : Keeps s0 s) : Keeps s0 (accumulate t q e ctx s) := by
  unfold accumulate
  repeat' first
    | with_reducible first
        | assumption | apply State.modTile_keeps | apply Tile.failMat_keeps | apply Tile.applyKSteps_keeps | apply drainTile_keeps
        | apply Tile.doneMat_keeps | apply doneMat_keeps | apply And.intro | apply Keeps.hbm (s0 := s0) | apply Keeps.hostMem (s0 := s0)
        | apply Keeps.tiles (s0 := s0) | apply Keeps.sec | apply Keeps.boot | apply Keeps.pending | apply Keeps.fresh
        | apply State.tile_keeps (s0 := s0) | apply Tile.memOk.store | apply ite_keeps
    | dsimp only | simp only [Keeps_mk] | simp only [Tile.memOk_mk] | split | intro _

theorem spillTile_keeps {s0 : State} (t : Nat) (q : QEntry) (e : MapEntry) (s : State) (hs : Keeps s0 s) : Keeps s0 (spillTile t q e s) := by
  unfold spillTile
  repeat' first
    | with_reducible first
        | assumption | apply faultMat_keeps | apply modMatrix_keeps | apply forAll_keeps | apply postWrite_keeps | apply working_keeps
        | apply Tile.doneMat_keeps | apply doneMat_keeps | apply ite_keeps | apply State.tile_keeps (s0 := s0)
    | dsimp only | split | intro _

theorem resumePump_keeps {s0 : State} (t : Nat) (q : QEntry) (e : MapEntry) (s : State) (hs : Keeps s0 s) : Keeps s0 (resumePump t q e s) := by
  unfold resumePump
  repeat' first
    | with_reducible first
        | assumption | apply faultMat_keeps | apply forAll_keeps | apply postRead_keeps | apply State.modTile_keeps | apply Tile.modMat_keeps
        | apply ite_keeps | apply State.tile_keeps (s0 := s0)
    | dsimp only | split | intro _

theorem resumeTile_keeps {s0 : State} (t : Nat) (q : QEntry) (s : State) (hs : Keeps s0 s) : Keeps s0 (resumeTile t q s) := by
  unfold resumeTile
  repeat' first
    | with_reducible first
        | assumption | apply faultMat_keeps | apply modMatrix_keeps | apply working_keeps | apply Tile.doneMat_keeps | apply doneMat_keeps
        | apply State.modTile_keeps | apply Tile.dropReqs_keeps | apply ite_keeps | apply State.tile_keeps (s0 := s0)
    | dsimp only | split | intro _

theorem Tile.feedCmd_keeps (x : Tile) (cycle : Nat) (e : MapEntry) (id : Nat) (hx : x.memOk) : (Tile.feedCmd x cycle e id).memOk := by
  unfold Tile.feedCmd
  repeat' first
    | with_reducible first
        | assumption | apply foldl_keeps | apply foldlState_keeps | apply Tile.feedAll_keeps | apply ite_keeps | apply State.tile_keeps (s0 := s0)
    | dsimp only | split | intro _

theorem feedOne_keeps {s0 : State} (t : Nat) (q : QEntry) (s : State) (hs : Keeps s0 s) : Keeps s0 (feedOne t q s) := by
  unfold feedOne
  repeat' first
    | with_reducible first
        | assumption | apply resumePump_keeps | apply State.modTile_keeps | apply Tile.feedCmd_keeps | apply ite_keeps
        | apply State.tile_keeps (s0 := s0)
    | dsimp only | split | intro _

theorem feedPump_keeps {s0 : State} (t : Nat) (s : State) (hs : Keeps s0 s) : Keeps s0 (feedPump t s) := by
  unfold feedPump
  repeat' first
    | with_reducible first
        | assumption | apply forAll_keeps | apply feedOne_keeps | apply ite_keeps | apply State.tile_keeps (s0 := s0)
    | dsimp only | split | intro _

theorem arrayWork_keeps {s0 : State} (t op : Nat) (s : State) (hs : Keeps s0 s) : Keeps s0 (arrayWork t op s) := by
  unfold arrayWork
  repeat' first
    | with_reducible first
        | assumption | apply drainTile_keeps | apply spillTile_keeps | apply resumeTile_keeps | apply working_keeps | apply Tile.doneMat_keeps
        | apply doneMat_keeps | apply modMatrix_keeps | apply accumulate_keeps | apply ite_keeps | apply State.tile_keeps (s0 := s0)
    | dsimp only | split | intro _

theorem matrixRow_keeps {s0 : State} (t op : Nat) (ecc : Check) (s : State) (hs : Keeps s0 s) : Keeps s0 (matrixRow t op ecc s) := by
  unfold matrixRow
  repeat' first
    | with_reducible first
        | assumption | apply feedPump_keeps | apply arrayWork_keeps | apply startMat_keeps | apply ite_keeps | apply State.tile_keeps (s0 := s0)
    | dsimp only | split | intro _

theorem execAccumulate_keeps {s0 : State} (t : TileId) (ecc : Check) (s : State) (hs : Keeps s0 s) : OutcomeKeeps s0 (execAccumulate t ecc s) := by
  unfold execAccumulate
  repeat' first
    | with_reducible first
        | assumption | apply OutcomeKeeps_next | apply matrixRow_keeps | apply ite_keeps | apply State.tile_keeps (s0 := s0)
    | dsimp only | split | intro _

theorem execDrain_keeps {s0 : State} (site : Site) (s : State) (hs : Keeps s0 s) : OutcomeKeeps s0 (execDrain site s) := by
  unfold execDrain
  repeat' first
    | with_reducible first
        | assumption | apply OutcomeKeeps_next | apply matrixRow_keeps | apply ite_keeps | apply State.tile_keeps (s0 := s0)
    | dsimp only | split | intro _

theorem execAccumulateDrain_keeps {s0 : State} (t : TileId) (ecc : Check) (s : State) (hs : Keeps s0 s) : OutcomeKeeps s0 (execAccumulateDrain t ecc s) := by
  unfold execAccumulateDrain
  repeat' first
    | with_reducible first
        | assumption | apply OutcomeKeeps_next | apply matrixRow_keeps | apply ite_keeps | apply State.tile_keeps (s0 := s0)
    | dsimp only | split | intro _

theorem execSpill_keeps {s0 : State} (site : Site) (s : State) (hs : Keeps s0 s) : OutcomeKeeps s0 (execSpill site s) := by
  unfold execSpill
  repeat' first
    | with_reducible first
        | assumption | apply OutcomeKeeps_next | apply matrixRow_keeps | apply ite_keeps | apply State.tile_keeps (s0 := s0)
    | dsimp only | split | intro _

theorem execResume_keeps {s0 : State} (t : TileId) (ecc : Check) (s : State) (hs : Keeps s0 s) : OutcomeKeeps s0 (execResume t ecc s) := by
  unfold execResume
  repeat' first
    | with_reducible first
        | assumption | apply OutcomeKeeps_next | apply matrixRow_keeps | apply ite_keeps | apply State.tile_keeps (s0 := s0)
    | dsimp only | split | intro _

theorem execDiscard_keeps {s0 : State} (site : Site) (s : State) (hs : Keeps s0 s) : OutcomeKeeps s0 (execDiscard site s) := by
  unfold execDiscard
  repeat' first
    | with_reducible first
        | assumption | apply OutcomeKeeps_next | apply matrixRow_keeps | apply ite_keeps | apply State.tile_keeps (s0 := s0)
    | dsimp only | split | intro _

theorem execMatrixCommandComplete_keeps {s0 : State} (t : TileId) (s : State) (hs : Keeps s0 s) : OutcomeKeeps s0 (execMatrixCommandComplete t s) := by
  unfold execMatrixCommandComplete
  repeat' first
    | with_reducible first
        | assumption | apply OutcomeKeeps_next | apply completeEntry_keeps | apply State.modTile_keeps | apply And.intro | apply Keeps.hbm (s0 := s0)
        | apply Keeps.hostMem (s0 := s0) | apply Keeps.tiles (s0 := s0) | apply Keeps.sec | apply Keeps.boot | apply Keeps.pending
        | apply Keeps.fresh | apply State.tile_keeps (s0 := s0) | apply Tile.memOk.store | apply ite_keeps
    | dsimp only | simp only [Keeps_mk] | simp only [Tile.memOk_mk] | split | intro _

/-! ### Machine/Vector.lean -/

theorem withVector_keeps {s0 : State} (t op : Nat) (s : State) (f : QEntry → MapEntry → Ctx → State) (hs : Keeps s0 s) (hf : ∀ z0 z1 z2, Keeps s0 (f z0 z1 z2)) : Keeps s0 (withVector t op s f) := by
  unfold withVector
  repeat' first
    | with_reducible first
        | assumption | apply hf | apply ctxFault_keeps | apply State.modTile_keeps | apply And.intro | apply Keeps.hbm (s0 := s0)
        | apply Keeps.hostMem (s0 := s0) | apply Keeps.tiles (s0 := s0) | apply Keeps.sec | apply Keeps.boot | apply Keeps.pending
        | apply Keeps.fresh | apply State.tile_keeps (s0 := s0) | apply Tile.memOk.store | apply ite_keeps
    | dsimp only | simp only [Keeps_mk] | simp only [Tile.memOk_mk] | split | intro _

theorem setVecHead_keeps {s0 : State} (t : Nat) (q : QEntry) (s : State) (hs : Keeps s0 s) : Keeps s0 (setVecHead t q s) := by
  unfold setVecHead
  repeat' first
    | with_reducible first
        | assumption | apply State.modTile_keeps | apply And.intro | apply Keeps.hbm (s0 := s0) | apply Keeps.hostMem (s0 := s0)
        | apply Keeps.tiles (s0 := s0) | apply Keeps.sec | apply Keeps.boot | apply Keeps.pending | apply Keeps.fresh
        | apply State.tile_keeps (s0 := s0) | apply Tile.memOk.store | apply ite_keeps
    | dsimp only | simp only [Keeps_mk] | simp only [Tile.memOk_mk] | split | intro _

theorem refuseVec_keeps {s0 : State} (t : Nat) (q : QEntry) (code : Nat) (s : State) (hs : Keeps s0 s) : Keeps s0 (refuseVec t q code s) := by
  unfold refuseVec
  repeat' first
    | with_reducible first
        | assumption | apply ctxFault_keeps | apply State.modTile_keeps | apply And.intro | apply Keeps.hbm (s0 := s0)
        | apply Keeps.hostMem (s0 := s0) | apply Keeps.tiles (s0 := s0) | apply Keeps.sec | apply Keeps.boot | apply Keeps.pending
        | apply Keeps.fresh | apply State.tile_keeps (s0 := s0) | apply Tile.memOk.store | apply ite_keeps
    | dsimp only | simp only [Keeps_mk] | simp only [Tile.memOk_mk] | split | intro _

theorem startVec_keeps {s0 : State} (t : Nat) (q : QEntry) (s : State) (hs : Keeps s0 s) : Keeps s0 (startVec t q s) := by
  unfold startVec
  repeat' first
    | with_reducible first
        | assumption | apply startLatch_keeps | apply setVecHead_keeps | apply ite_keeps | apply State.tile_keeps (s0 := s0)
    | dsimp only | split | intro _

theorem doneVec_keeps {s0 : State} (t : Nat) (s : State) (hs : Keeps s0 s) : Keeps s0 (doneVec t s) := by
  unfold doneVec
  repeat' first
    | with_reducible first
        | assumption | apply State.modTile_keeps | apply And.intro | apply Keeps.hbm (s0 := s0) | apply Keeps.hostMem (s0 := s0)
        | apply Keeps.tiles (s0 := s0) | apply Keeps.sec | apply Keeps.boot | apply Keeps.pending | apply Keeps.fresh
        | apply State.tile_keeps (s0 := s0) | apply Tile.memOk.store | apply ite_keeps
    | dsimp only | simp only [Keeps_mk] | simp only [Tile.memOk_mk] | split | intro _

theorem Tile.raiseFlags_keeps (x : Tile) (slot vop f : Nat) (hx : x.memOk) : (Tile.raiseFlags x slot vop f).memOk := by
  unfold Tile.raiseFlags
  repeat' first
    | with_reducible first
        | assumption | apply And.intro | apply Keeps.hbm (s0 := s0) | apply Keeps.hostMem (s0 := s0) | apply Keeps.tiles (s0 := s0) | apply Keeps.sec
        | apply Keeps.boot | apply Keeps.pending | apply Keeps.fresh | apply State.tile_keeps (s0 := s0) | apply Tile.memOk.store | apply ite_keeps
    | dsimp only | simp only [Keeps_mk] | simp only [Tile.memOk_mk] | split | intro _

theorem vecWrite_keeps {s0 : State} (t : Nat) (e : MapEntry) (c : BitVec 256) (es scales : List Nat) (s : State) (hs : Keeps s0 s) : Keeps s0 (vecWrite t e c es scales s) := by
  unfold vecWrite
  repeat' first
    | with_reducible first
        | assumption | apply forAll_keeps | apply postWrite_keeps | apply queueMerge_keeps | apply ite_keeps | apply State.tile_keeps (s0 := s0)
    | dsimp only | split | intro _

theorem vecAsk_keeps {s0 : State} (t : Nat) (e : MapEntry) (q : QEntry) (s : State) (hs : Keeps s0 s) : Keeps s0 (vecAsk t e q s) := by
  unfold vecAsk
  repeat' first
    | with_reducible first
        | assumption | apply forAll_keeps | apply postRead_keeps | apply setVecHead_keeps | apply ite_keeps | apply State.tile_keeps (s0 := s0)
    | dsimp only | split | intro _

theorem vectorRow_keeps {s0 : State} (t op : Nat) (ecc : Check) (s : State) (hs : Keeps s0 s) : Keeps s0 (vectorRow t op ecc s) := by
  unfold vectorRow
  repeat' first
    | with_reducible first
        | assumption | apply withVector_keeps | apply vecAsk_keeps | apply doneVec_keeps | apply vecWrite_keeps | apply State.modTile_keeps
        | apply Tile.dropReqs_keeps | apply Tile.raiseFlags_keeps | apply startVec_keeps | apply refuseVec_keeps
        | (refine tileEcc_keeps_eq ?_ (by assumption)) | (refine tileEcc_keeps_some ?_ (by assumption)) | apply ite_keeps
        | apply State.tile_keeps (s0 := s0)
    | dsimp only | split | intro _

theorem execAdd_keeps {s0 : State} (t : TileId) (ecc : Check) (s : State) (hs : Keeps s0 s) : OutcomeKeeps s0 (execAdd t ecc s) := by
  unfold execAdd
  repeat' first
    | with_reducible first
        | assumption | apply OutcomeKeeps_next | apply vectorRow_keeps | apply ite_keeps | apply State.tile_keeps (s0 := s0)
    | dsimp only | split | intro _

theorem execSub_keeps {s0 : State} (t : TileId) (ecc : Check) (s : State) (hs : Keeps s0 s) : OutcomeKeeps s0 (execSub t ecc s) := by
  unfold execSub
  repeat' first
    | with_reducible first
        | assumption | apply OutcomeKeeps_next | apply vectorRow_keeps | apply ite_keeps | apply State.tile_keeps (s0 := s0)
    | dsimp only | split | intro _

theorem execMul_keeps {s0 : State} (t : TileId) (ecc : Check) (s : State) (hs : Keeps s0 s) : OutcomeKeeps s0 (execMul t ecc s) := by
  unfold execMul
  repeat' first
    | with_reducible first
        | assumption | apply OutcomeKeeps_next | apply vectorRow_keeps | apply ite_keeps | apply State.tile_keeps (s0 := s0)
    | dsimp only | split | intro _

theorem execFma_keeps {s0 : State} (t : TileId) (ecc : Check) (s : State) (hs : Keeps s0 s) : OutcomeKeeps s0 (execFma t ecc s) := by
  unfold execFma
  repeat' first
    | with_reducible first
        | assumption | apply OutcomeKeeps_next | apply vectorRow_keeps | apply ite_keeps | apply State.tile_keeps (s0 := s0)
    | dsimp only | split | intro _

theorem execMin_keeps {s0 : State} (t : TileId) (ecc : Check) (s : State) (hs : Keeps s0 s) : OutcomeKeeps s0 (execMin t ecc s) := by
  unfold execMin
  repeat' first
    | with_reducible first
        | assumption | apply OutcomeKeeps_next | apply vectorRow_keeps | apply ite_keeps | apply State.tile_keeps (s0 := s0)
    | dsimp only | split | intro _

theorem execMax_keeps {s0 : State} (t : TileId) (ecc : Check) (s : State) (hs : Keeps s0 s) : OutcomeKeeps s0 (execMax t ecc s) := by
  unfold execMax
  repeat' first
    | with_reducible first
        | assumption | apply OutcomeKeeps_next | apply vectorRow_keeps | apply ite_keeps | apply State.tile_keeps (s0 := s0)
    | dsimp only | split | intro _

theorem execAbs_keeps {s0 : State} (t : TileId) (ecc : Check) (s : State) (hs : Keeps s0 s) : OutcomeKeeps s0 (execAbs t ecc s) := by
  unfold execAbs
  repeat' first
    | with_reducible first
        | assumption | apply OutcomeKeeps_next | apply vectorRow_keeps | apply ite_keeps | apply State.tile_keeps (s0 := s0)
    | dsimp only | split | intro _

theorem execNeg_keeps {s0 : State} (t : TileId) (ecc : Check) (s : State) (hs : Keeps s0 s) : OutcomeKeeps s0 (execNeg t ecc s) := by
  unfold execNeg
  repeat' first
    | with_reducible first
        | assumption | apply OutcomeKeeps_next | apply vectorRow_keeps | apply ite_keeps | apply State.tile_keeps (s0 := s0)
    | dsimp only | split | intro _

theorem execCmpLt_keeps {s0 : State} (t : TileId) (ecc : Check) (s : State) (hs : Keeps s0 s) : OutcomeKeeps s0 (execCmpLt t ecc s) := by
  unfold execCmpLt
  repeat' first
    | with_reducible first
        | assumption | apply OutcomeKeeps_next | apply vectorRow_keeps | apply ite_keeps | apply State.tile_keeps (s0 := s0)
    | dsimp only | split | intro _

theorem execCmpLe_keeps {s0 : State} (t : TileId) (ecc : Check) (s : State) (hs : Keeps s0 s) : OutcomeKeeps s0 (execCmpLe t ecc s) := by
  unfold execCmpLe
  repeat' first
    | with_reducible first
        | assumption | apply OutcomeKeeps_next | apply vectorRow_keeps | apply ite_keeps | apply State.tile_keeps (s0 := s0)
    | dsimp only | split | intro _

theorem execCmpEq_keeps {s0 : State} (t : TileId) (ecc : Check) (s : State) (hs : Keeps s0 s) : OutcomeKeeps s0 (execCmpEq t ecc s) := by
  unfold execCmpEq
  repeat' first
    | with_reducible first
        | assumption | apply OutcomeKeeps_next | apply vectorRow_keeps | apply ite_keeps | apply State.tile_keeps (s0 := s0)
    | dsimp only | split | intro _

theorem execRcp_keeps {s0 : State} (t : TileId) (ecc : Check) (s : State) (hs : Keeps s0 s) : OutcomeKeeps s0 (execRcp t ecc s) := by
  unfold execRcp
  repeat' first
    | with_reducible first
        | assumption | apply OutcomeKeeps_next | apply vectorRow_keeps | apply ite_keeps | apply State.tile_keeps (s0 := s0)
    | dsimp only | split | intro _

theorem execSqrt_keeps {s0 : State} (t : TileId) (ecc : Check) (s : State) (hs : Keeps s0 s) : OutcomeKeeps s0 (execSqrt t ecc s) := by
  unfold execSqrt
  repeat' first
    | with_reducible first
        | assumption | apply OutcomeKeeps_next | apply vectorRow_keeps | apply ite_keeps | apply State.tile_keeps (s0 := s0)
    | dsimp only | split | intro _

theorem execRsqrt_keeps {s0 : State} (t : TileId) (ecc : Check) (s : State) (hs : Keeps s0 s) : OutcomeKeeps s0 (execRsqrt t ecc s) := by
  unfold execRsqrt
  repeat' first
    | with_reducible first
        | assumption | apply OutcomeKeeps_next | apply vectorRow_keeps | apply ite_keeps | apply State.tile_keeps (s0 := s0)
    | dsimp only | split | intro _

theorem execExp_keeps {s0 : State} (t : TileId) (ecc : Check) (s : State) (hs : Keeps s0 s) : OutcomeKeeps s0 (execExp t ecc s) := by
  unfold execExp
  repeat' first
    | with_reducible first
        | assumption | apply OutcomeKeeps_next | apply vectorRow_keeps | apply ite_keeps | apply State.tile_keeps (s0 := s0)
    | dsimp only | split | intro _

theorem execExp2_keeps {s0 : State} (t : TileId) (ecc : Check) (s : State) (hs : Keeps s0 s) : OutcomeKeeps s0 (execExp2 t ecc s) := by
  unfold execExp2
  repeat' first
    | with_reducible first
        | assumption | apply OutcomeKeeps_next | apply vectorRow_keeps | apply ite_keeps | apply State.tile_keeps (s0 := s0)
    | dsimp only | split | intro _

theorem execExpm1_keeps {s0 : State} (t : TileId) (ecc : Check) (s : State) (hs : Keeps s0 s) : OutcomeKeeps s0 (execExpm1 t ecc s) := by
  unfold execExpm1
  repeat' first
    | with_reducible first
        | assumption | apply OutcomeKeeps_next | apply vectorRow_keeps | apply ite_keeps | apply State.tile_keeps (s0 := s0)
    | dsimp only | split | intro _

theorem execLog_keeps {s0 : State} (t : TileId) (ecc : Check) (s : State) (hs : Keeps s0 s) : OutcomeKeeps s0 (execLog t ecc s) := by
  unfold execLog
  repeat' first
    | with_reducible first
        | assumption | apply OutcomeKeeps_next | apply vectorRow_keeps | apply ite_keeps | apply State.tile_keeps (s0 := s0)
    | dsimp only | split | intro _

theorem execLog2_keeps {s0 : State} (t : TileId) (ecc : Check) (s : State) (hs : Keeps s0 s) : OutcomeKeeps s0 (execLog2 t ecc s) := by
  unfold execLog2
  repeat' first
    | with_reducible first
        | assumption | apply OutcomeKeeps_next | apply vectorRow_keeps | apply ite_keeps | apply State.tile_keeps (s0 := s0)
    | dsimp only | split | intro _

theorem execTanh_keeps {s0 : State} (t : TileId) (ecc : Check) (s : State) (hs : Keeps s0 s) : OutcomeKeeps s0 (execTanh t ecc s) := by
  unfold execTanh
  repeat' first
    | with_reducible first
        | assumption | apply OutcomeKeeps_next | apply vectorRow_keeps | apply ite_keeps | apply State.tile_keeps (s0 := s0)
    | dsimp only | split | intro _

theorem execSigmoid_keeps {s0 : State} (t : TileId) (ecc : Check) (s : State) (hs : Keeps s0 s) : OutcomeKeeps s0 (execSigmoid t ecc s) := by
  unfold execSigmoid
  repeat' first
    | with_reducible first
        | assumption | apply OutcomeKeeps_next | apply vectorRow_keeps | apply ite_keeps | apply State.tile_keeps (s0 := s0)
    | dsimp only | split | intro _

theorem execCvtWiden_keeps {s0 : State} (t : TileId) (ecc : Check) (s : State) (hs : Keeps s0 s) : OutcomeKeeps s0 (execCvtWiden t ecc s) := by
  unfold execCvtWiden
  repeat' first
    | with_reducible first
        | assumption | apply OutcomeKeeps_next | apply vectorRow_keeps | apply ite_keeps | apply State.tile_keeps (s0 := s0)
    | dsimp only | split | intro _

theorem execCvtNarrow_keeps {s0 : State} (t : TileId) (ecc : Check) (s : State) (hs : Keeps s0 s) : OutcomeKeeps s0 (execCvtNarrow t ecc s) := by
  unfold execCvtNarrow
  repeat' first
    | with_reducible first
        | assumption | apply OutcomeKeeps_next | apply vectorRow_keeps | apply ite_keeps | apply State.tile_keeps (s0 := s0)
    | dsimp only | split | intro _

theorem execVectorCommandComplete_keeps {s0 : State} (t : TileId) (s : State) (hs : Keeps s0 s) : OutcomeKeeps s0 (execVectorCommandComplete t s) := by
  unfold execVectorCommandComplete
  repeat' first
    | with_reducible first
        | assumption | apply OutcomeKeeps_next | apply completeEntry_keeps | apply State.modTile_keeps | apply And.intro | apply Keeps.hbm (s0 := s0)
        | apply Keeps.hostMem (s0 := s0) | apply Keeps.tiles (s0 := s0) | apply Keeps.sec | apply Keeps.boot | apply Keeps.pending
        | apply Keeps.fresh | apply State.tile_keeps (s0 := s0) | apply Tile.memOk.store | apply ite_keeps
    | dsimp only | simp only [Keeps_mk] | simp only [Tile.memOk_mk] | split | intro _

/-! ### Machine/Links.lean -/

theorem sendFrame_keeps {s0 : State} (l cls ctx tag : Nat) (bytes : List Byte) (s : State) (hs : Keeps s0 s) : Keeps s0 (sendFrame l cls ctx tag bytes s) := by
  unfold sendFrame
  repeat' first
    | with_reducible first
        | assumption | apply State.modLink_keeps | apply ite_keeps | apply State.tile_keeps (s0 := s0)
    | dsimp only | split | intro _

theorem sendWord_keeps {s0 : State} (l kind arg value : Nat) (s : State) (hs : Keeps s0 s) : Keeps s0 (sendWord l kind arg value s) := by
  unfold sendWord
  repeat' first
    | with_reducible first
        | assumption | apply State.modLink_keeps | apply ite_keeps | apply State.tile_keeps (s0 := s0)
    | dsimp only | split | intro _

theorem sendArrives_keeps {s0 : State} (n : Nat) (s : State) (hs : Keeps s0 s) : Keeps s0 (sendArrives n s) := by
  unfold sendArrives
  repeat' first
    | with_reducible first
        | assumption | apply forAll_keeps | apply sendWord_keeps | apply State.modCtx_keeps | apply foldl_keeps | apply foldlState_keeps
        | apply ite_keeps | apply State.tile_keeps (s0 := s0)
    | dsimp only | split | intro _

/-! ### Machine/Exchange.lean -/

theorem execExchSelect_keeps {s0 : State} (t : TileId) (pos : Nat) (ecc : Check) (s : State) (hs : Keeps s0 s) : OutcomeKeeps s0 (execExchSelect t pos ecc s) := by
  unfold execExchSelect
  repeat' first
    | with_reducible first
        | assumption | apply OutcomeKeeps_next | apply ctxFault_keeps | apply State.modTile_keeps | (refine imemEcc_keeps_eq ?_ (by assumption))
        | (refine imemEcc_keeps_some ?_ (by assumption)) | apply And.intro | apply Keeps.hbm (s0 := s0) | apply Keeps.hostMem (s0 := s0)
        | apply Keeps.tiles (s0 := s0) | apply Keeps.sec | apply Keeps.boot | apply Keeps.pending | apply Keeps.fresh
        | apply State.tile_keeps (s0 := s0) | apply Tile.memOk.store | apply ite_keeps
    | dsimp only | simp only [Keeps_mk] | simp only [Tile.memOk_mk] | split | intro _

theorem execPlanEntryRead_keeps {s0 : State} (t : TileId) (ecc : Check) (s : State) (hs : Keeps s0 s) : OutcomeKeeps s0 (execPlanEntryRead t ecc s) := by
  unfold execPlanEntryRead
  repeat' first
    | with_reducible first
        | assumption | apply OutcomeKeeps_next | apply State.modTile_keeps | apply Tile.planGrant_keeps | apply ctxFault_keeps
        | (refine imemEcc_keeps_eq ?_ (by assumption)) | (refine imemEcc_keeps_some ?_ (by assumption)) | apply And.intro
        | apply Keeps.hbm (s0 := s0) | apply Keeps.hostMem (s0 := s0) | apply Keeps.tiles (s0 := s0) | apply Keeps.sec | apply Keeps.boot
        | apply Keeps.pending | apply Keeps.fresh | apply State.tile_keeps (s0 := s0) | apply Tile.memOk.store | apply ite_keeps
    | dsimp only | simp only [Keeps_mk] | simp only [Tile.memOk_mk] | split | intro _

theorem Tile.modEnt_keeps (x : Tile) (n : Nat) (f : PlanEnt → PlanEnt) (hx : x.memOk) : (Tile.modEnt x n f).memOk := by
  unfold Tile.modEnt
  repeat' first
    | with_reducible first
        | assumption | apply And.intro | apply Keeps.hbm (s0 := s0) | apply Keeps.hostMem (s0 := s0) | apply Keeps.tiles (s0 := s0) | apply Keeps.sec
        | apply Keeps.boot | apply Keeps.pending | apply Keeps.fresh | apply State.tile_keeps (s0 := s0) | apply Tile.memOk.store | apply ite_keeps
    | dsimp only | simp only [Keeps_mk] | simp only [Tile.memOk_mk] | split | intro _

theorem readAhead_keeps {s0 : State} (t n : Nat) (m : MapEntry) (s : State) (hs : Keeps s0 s) : Keeps s0 (readAhead t n m s) := by
  unfold readAhead
  repeat' first
    | with_reducible first
        | assumption | apply Tile.count_keeps | apply forAll_keeps | apply postRead_keeps | apply State.modTile_keeps | apply Tile.modEnt_keeps
        | apply ite_keeps | apply State.tile_keeps (s0 := s0)
    | dsimp only | split | intro _

theorem enterFlit_keeps {s0 : State} (t ctx n : Nat) (f : Flit) (s : State) (hs : Keeps s0 s) : Keeps s0 (enterFlit t ctx n f s) := by
  unfold enterFlit
  repeat' first
    | with_reducible first
        | assumption | apply ctxFault_keeps | apply Tile.modEnt_keeps | apply State.setTile_keeps | apply And.intro | apply Keeps.hbm (s0 := s0)
        | apply Keeps.hostMem (s0 := s0) | apply Keeps.tiles (s0 := s0) | apply Keeps.sec | apply Keeps.boot | apply Keeps.pending
        | apply Keeps.fresh | apply State.tile_keeps (s0 := s0) | apply Tile.memOk.store | apply ite_keeps
    | dsimp only | simp only [Keeps_mk] | simp only [Tile.memOk_mk] | split | intro _

theorem pumpSend_keeps {s0 : State}  : ∀ (a0 : Nat) (a1 : Nat) (a2 : Nat) (a3 : Nat) (a4 : MapEntry) (a5 : Ctx) (a6 : State), Keeps s0 a6 → Keeps s0 (pumpSend a0 a1 a2 a3 a4 a5 a6) := by
  intro a0
  induction a0 with
  | zero =>
    intros
    assumption
  | succ n ih =>
    intros
    unfold pumpSend
    repeat' first
      | with_reducible first
          | assumption | apply readAhead_keeps | apply Tile.count_keeps | apply State.modTile_keeps | apply Tile.modEnt_keeps
          | apply replayOutput_keeps | apply State.modLink_keeps | apply sendFrame_keeps | apply countVn_keeps | apply enterFlit_keeps
          | apply ite_keeps | apply State.tile_keeps (s0 := s0) | apply ih
      | dsimp only | split | intro _

theorem pumpSends_keeps {s0 : State} (t : Nat) (s : State) (hs : Keeps s0 s) : Keeps s0 (pumpSends t s) := by
  unfold pumpSends
  repeat' first
    | with_reducible first
        | assumption | apply pumpSend_keeps | apply Tile.count_keeps | apply foldl_keeps | apply foldlState_keeps | apply And.intro
        | apply Memory.wf_memWrite | apply Keeps.hbm (s0 := s0) | apply Keeps.hostMem (s0 := s0) | apply Keeps.tiles (s0 := s0) | apply Keeps.sec
        | apply Keeps.boot | apply Keeps.pending | apply Keeps.fresh | apply Keeps.fresh1 | apply secOk.nOp | apply secOk.nOwn | apply secOk.nCeil
        | apply secOk.nDebug | apply secOk.nonces | apply bootOk.floors | apply Tile.memOk.store | apply State.tile_keeps (s0 := s0)
        | apply tilesOk_sset | apply tilesOk_map | apply Memory.wf_filter | apply Memory.wf_memPut | apply foldlSnd_keeps | apply ite_keeps
        | apply ite_optKeeps | apply foldlThd_keeps | apply foldlMem_wf | apply Memory.wf_empty | apply tilesOk_empty | apply Tile.memOk_default
    | dsimp only | simp only [optKeeps_none, optKeeps_some, optTileOk_none, optTileOk_some, optPairKeeps_none, optPairKeeps_some]
    | simp only [Keeps_mk] | simp only [Tile.memOk_mk] | simp only [secOk_mk] | simp only [bootOk_mk] | split | intro _

theorem execSendReadAhead_keeps {s0 : State} (t : TileId) (n : Nat) (s : State) (hs : Keeps s0 s) : OutcomeKeeps s0 (execSendReadAhead t n s) := by
  unfold execSendReadAhead
  repeat' first
    | with_reducible first
        | assumption | apply OutcomeKeeps_next | apply Tile.count_keeps | apply readAhead_keeps | apply ite_keeps | apply State.tile_keeps (s0 := s0)
    | dsimp only | split | intro _

theorem entryDone_keeps {s0 : State} (t slot ctx : Nat) (e : PlanEnt) (s : State) (hs : Keeps s0 s) : Keeps s0 (entryDone t slot ctx e s) := by
  unfold entryDone
  repeat' first
    | with_reducible first
        | assumption | apply postAdd_keeps | apply State.modTile_keeps | apply Tile.modEnt_keeps | apply ite_keeps
        | apply State.tile_keeps (s0 := s0)
    | dsimp only | split | intro _

theorem execPlanEntryDue_keeps {s0 : State} (site : Site) (s : State) (hs : Keeps s0 s) : OutcomeKeeps s0 (execPlanEntryDue site s) := by
  unfold execPlanEntryDue
  repeat' first
    | with_reducible first
        | assumption | apply OutcomeKeeps_next | apply State.modTile_keeps | apply Tile.modEnt_keeps | apply Tile.count_keeps | apply entryDone_keeps
        | apply pumpSends_keeps | (refine tileEcc_keeps_eq ?_ (by assumption)) | (refine tileEcc_keeps_some ?_ (by assumption)) | apply And.intro
        | apply Keeps.hbm (s0 := s0) | apply Keeps.hostMem (s0 := s0) | apply Keeps.tiles (s0 := s0) | apply Keeps.sec | apply Keeps.boot
        | apply Keeps.pending | apply Keeps.fresh | apply State.tile_keeps (s0 := s0) | apply Tile.memOk.store | apply ite_keeps
    | dsimp only | simp only [Keeps_mk] | simp only [Tile.memOk_mk] | split | intro _

theorem finishSends_keeps {s0 : State} (t : Nat) (s : State) (hs : Keeps s0 s) : Keeps s0 (finishSends t s) := by
  unfold finishSends
  repeat' first
    | with_reducible first
        | assumption | apply forAll_keeps | apply Tile.count_keeps | apply entryDone_keeps | apply ite_keeps | apply State.tile_keeps (s0 := s0)
    | dsimp only | split | intro _

theorem execSendComplete_keeps {s0 : State} (t : TileId) (n : Nat) (s : State) (hs : Keeps s0 s) : OutcomeKeeps s0 (execSendComplete t n s) := by
  unfold execSendComplete
  repeat' first
    | with_reducible first
        | assumption | apply OutcomeKeeps_next | apply Tile.count_keeps | apply entryDone_keeps | apply ite_keeps | apply State.tile_keeps (s0 := s0)
    | dsimp only | split | intro _

theorem receiveBillet_keeps {s0 : State} (t : Nat) (m : MapEntry) (e : PlanEnt) (k : Nat) (bs : List Byte) (s : State) (hs : Keeps s0 s) : Keeps s0 (receiveBillet t m e k bs s) := by
  unfold receiveBillet
  repeat' first
    | with_reducible first
        | assumption | apply Tile.count_keeps | apply postWrite_keeps | apply ite_keeps | apply State.tile_keeps (s0 := s0)
    | dsimp only | split | intro _

theorem popFrame_keeps {s0 : State} (l : Nat) (f : CordFrame) (s : State) (hs : Keeps s0 s) : Keeps s0 (popFrame l f s) := by
  unfold popFrame
  repeat' first
    | with_reducible first
        | assumption | apply State.modLink_keeps | apply Security.kept_ok | apply sendWord_keeps | apply ite_keeps
        | apply State.tile_keeps (s0 := s0)
    | dsimp only | split | intro _

theorem cordBillet_keeps {s0 : State} (t : Nat) (m : MapEntry) (e : PlanEnt) (bs : List Byte) (s : State) (hs : Keeps s0 s) : Keeps s0 (cordBillet t m e bs s) := by
  unfold cordBillet
  repeat' first
    | with_reducible first
        | assumption | apply receiveBillet_keeps | apply captureArrival_keeps | apply countVn_keeps | apply State.modTile_keeps
        | apply Tile.modEnt_keeps | apply ite_keeps | apply State.tile_keeps (s0 := s0)
    | dsimp only | split | intro _

theorem takeCord_keeps {s0 : State} (t : Nat) (s : State) (hs : Keeps s0 s) : Keeps s0 (takeCord t s) := by
  unfold takeCord
  repeat' first
    | with_reducible first
        | assumption | apply Tile.count_keeps | apply takeArrival_keeps | apply cordBillet_keeps | apply popFrame_keeps
        | (refine takeArrival_keeps_eq ?_ (by assumption)) | apply ite_keeps | apply State.tile_keeps (s0 := s0)
    | dsimp only | split | intro _

theorem execFlitArrival_keeps {s0 : State} (t : TileId) (s : State) (hs : Keeps s0 s) : OutcomeKeeps s0 (execFlitArrival t s) := by
  unfold execFlitArrival
  repeat' first
    | with_reducible first
        | assumption | apply OutcomeKeeps_next | apply takeCord_keeps | apply State.setTile_keeps | apply Tile.modEnt_keeps
        | apply receiveBillet_keeps | apply And.intro | apply Keeps.hbm (s0 := s0) | apply Keeps.hostMem (s0 := s0) | apply Keeps.tiles (s0 := s0)
        | apply Keeps.sec | apply Keeps.boot | apply Keeps.pending | apply Keeps.fresh | apply State.tile_keeps (s0 := s0) | apply Tile.memOk.store
        | apply ite_keeps
    | dsimp only | simp only [Keeps_mk] | simp only [Tile.memOk_mk] | split | intro _

theorem execReceiveComplete_keeps {s0 : State} (t : TileId) (n : Nat) (s : State) (hs : Keeps s0 s) : OutcomeKeeps s0 (execReceiveComplete t n s) := by
  unfold execReceiveComplete
  repeat' first
    | with_reducible first
        | assumption | apply OutcomeKeeps_next | apply Tile.count_keeps | apply entryDone_keeps | apply And.intro | apply Keeps.hbm (s0 := s0)
        | apply Keeps.hostMem (s0 := s0) | apply Keeps.tiles (s0 := s0) | apply Keeps.sec | apply Keeps.boot | apply Keeps.pending
        | apply Keeps.fresh | apply State.tile_keeps (s0 := s0) | apply Tile.memOk.store | apply ite_keeps
    | dsimp only | simp only [Keeps_mk] | simp only [Tile.memOk_mk] | split | intro _

end Sys2Proof.Machine
end

