-- ==== Sys2Proof/Laws/KeepsWork.lean ====
section
/-! SUPPORT. What the stores' grants, the channels, the barriers, the dispatcher and the boundary work keep. One lemma per function (see Laws/Keeps.lean for the relation), each said of any later state of the same run. -/

namespace Sys2Proof.Machine

/-! ### Machine/Channels.lean -/

theorem Tile.modEp_keeps (x : Tile) (n : Nat) (f : Endpoint → Endpoint) (hx : x.memOk) : (Tile.modEp x n f).memOk := by
  unfold Tile.modEp
  repeat' first
    | with_reducible first
        | assumption | apply And.intro | apply Keeps.hbm (s0 := s0) | apply Keeps.hostMem (s0 := s0) | apply Keeps.tiles (s0 := s0) | apply Keeps.sec
        | apply Keeps.boot | apply Keeps.pending | apply Keeps.fresh | apply State.tile_keeps (s0 := s0) | apply Tile.memOk.store | apply ite_keeps
    | dsimp only | simp only [Keeps_mk] | simp only [Tile.memOk_mk] | split | intro _

theorem sendLines_keeps {s0 : State} (t ctx : Nat) (dst : Nat) (lines : List (FlitBody × List Byte)) (s : State) (hs : Keeps s0 s) : Keeps s0 (sendLines t ctx dst lines s) := by
  unfold sendLines
  repeat' first
    | with_reducible first
        | assumption | apply replayOutput_keeps | apply inject_keeps | apply ite_keeps | apply State.tile_keeps (s0 := s0)
    | dsimp only | split | intro _

theorem Tile.dropMsg_keeps (x : Tile) (id : Nat) (hx : x.memOk) : (Tile.dropMsg x id).memOk := by
  unfold Tile.dropMsg
  repeat' first
    | with_reducible first
        | assumption | apply Tile.dropReqs_keeps | apply And.intro | apply Keeps.hbm (s0 := s0) | apply Keeps.hostMem (s0 := s0)
        | apply Keeps.tiles (s0 := s0) | apply Keeps.sec | apply Keeps.boot | apply Keeps.pending | apply Keeps.fresh
        | apply State.tile_keeps (s0 := s0) | apply Tile.memOk.store | apply ite_keeps
    | dsimp only | simp only [Keeps_mk] | simp only [Tile.memOk_mk] | split | intro _

theorem pumpMsg_keeps {s0 : State} (t id : Nat) (s : State) (hs : Keeps s0 s) : Keeps s0 (pumpMsg t id s) := by
  unfold pumpMsg
  repeat' first
    | with_reducible first
        | assumption | apply ctxFault_keeps | apply State.modTile_keeps | apply Tile.dropMsg_keeps | apply sendLines_keeps | apply And.intro
        | apply Keeps.hbm (s0 := s0) | apply Keeps.hostMem (s0 := s0) | apply Keeps.tiles (s0 := s0) | apply Keeps.sec | apply Keeps.boot
        | apply Keeps.pending | apply Keeps.fresh | apply State.tile_keeps (s0 := s0) | apply Tile.memOk.store | apply ite_keeps
    | dsimp only | simp only [Keeps_mk] | simp only [Tile.memOk_mk] | split | intro _

theorem pumpMsgs_keeps {s0 : State} (t : Nat) (s : State) (hs : Keeps s0 s) : Keeps s0 (pumpMsgs t s) := by
  unfold pumpMsgs
  repeat' first
    | with_reducible first
        | assumption | apply forAll_keeps | apply pumpMsg_keeps | apply ite_keeps | apply State.tile_keeps (s0 := s0)
    | dsimp only | split | intro _

theorem sendSkip_keeps {s0 : State} (t ctx slot n : Nat) (k : Endpoint) (lines : Nat) (s : State) (hs : Keeps s0 s) : Keeps s0 (sendSkip t ctx slot n k lines s) := by
  unfold sendSkip
  repeat' first
    | with_reducible first
        | assumption | apply pumpMsgs_keeps | apply State.modTile_keeps | apply Tile.modEp_keeps | apply And.intro | apply Keeps.hbm (s0 := s0)
        | apply Keeps.hostMem (s0 := s0) | apply Keeps.tiles (s0 := s0) | apply Keeps.sec | apply Keeps.boot | apply Keeps.pending
        | apply Keeps.fresh | apply State.tile_keeps (s0 := s0) | apply Tile.memOk.store | apply ite_keeps
    | dsimp only | simp only [Keeps_mk] | simp only [Tile.memOk_mk] | split | intro _

theorem chWait_keeps {s0 : State} (t n : Nat) (st : Stall) (slots : Bool) (need : Nat) (s : State) (hs : Keeps s0 s) : Keeps s0 (chWait t n st slots need s) := by
  unfold chWait
  repeat' first
    | with_reducible first
        | assumption | apply State.modTile_keeps | apply Tile.setStall_keeps | apply And.intro | apply Keeps.hbm (s0 := s0)
        | apply Keeps.hostMem (s0 := s0) | apply Keeps.tiles (s0 := s0) | apply Keeps.sec | apply Keeps.boot | apply Keeps.pending
        | apply Keeps.fresh | apply State.tile_keeps (s0 := s0) | apply Tile.memOk.store | apply ite_keeps
    | dsimp only | simp only [Keeps_mk] | simp only [Tile.memOk_mk] | split | intro _

theorem Tile.chGo_keeps (x : Tile) (hx : x.memOk) : (Tile.chGo x).memOk := by
  unfold Tile.chGo
  repeat' first
    | with_reducible first
        | assumption | apply Tile.setStall_keeps | apply And.intro | apply Keeps.hbm (s0 := s0) | apply Keeps.hostMem (s0 := s0)
        | apply Keeps.tiles (s0 := s0) | apply Keeps.sec | apply Keeps.boot | apply Keeps.pending | apply Keeps.fresh
        | apply State.tile_keeps (s0 := s0) | apply Tile.memOk.store | apply ite_keeps
    | dsimp only | simp only [Keeps_mk] | simp only [Tile.memOk_mk] | split | intro _

theorem sendMessage_keeps {s0 : State} (t slot : Nat) (e : MapEntry) (outside : Bool) (user : Nat) (p : BitVec 64) (k : Endpoint) (src : StoreId × Nat) (s : State) (hs : Keeps s0 s) : Keeps s0 (sendMessage t slot e outside user p k src s) := by
  unfold sendMessage
  repeat' first
    | with_reducible first
        | assumption | apply State.modTile_keeps | apply Tile.chGo_keeps | apply Tile.modEp_keeps | apply forAll_keeps | apply postRead_keeps
        | apply And.intro | apply Keeps.hbm (s0 := s0) | apply Keeps.hostMem (s0 := s0) | apply Keeps.tiles (s0 := s0) | apply Keeps.sec
        | apply Keeps.boot | apply Keeps.pending | apply Keeps.fresh | apply State.tile_keeps (s0 := s0) | apply Tile.memOk.store | apply ite_keeps
    | dsimp only | simp only [Keeps_mk] | simp only [Tile.memOk_mk] | split | intro _

theorem execChSend_keeps {s0 : State} (t : TileId) (rs rt : Fin 32) (ecc : Check) (s : State) (hs : Keeps s0 s) : OutcomeKeeps s0 (execChSend t rs rt ecc s) := by
  unfold execChSend
  repeat' first
    | with_reducible first
        | assumption | apply OutcomeKeeps_next | apply ctxFault_keeps | apply postAdd_keeps | apply State.modTile_keeps | apply Tile.chGo_keeps
        | apply Tile.modEp_keeps | apply chWait_keeps | apply sendSkip_keeps | apply sendMessage_keeps | (refine tileEcc_keeps_eq ?_ (by assumption))
        | (refine tileEcc_keeps_some ?_ (by assumption)) | apply And.intro | apply Keeps.hbm (s0 := s0) | apply Keeps.hostMem (s0 := s0)
        | apply Keeps.tiles (s0 := s0) | apply Keeps.sec | apply Keeps.boot | apply Keeps.pending | apply Keeps.fresh
        | apply State.tile_keeps (s0 := s0) | apply Tile.memOk.store | apply ite_keeps
    | dsimp only | simp only [Keeps_mk] | simp only [Tile.memOk_mk] | split | intro _

theorem execChSendComplete_keeps {s0 : State} (t : TileId) (msg : Nat) (s : State) (hs : Keeps s0 s) : OutcomeKeeps s0 (execChSendComplete t msg s) := by
  unfold execChSendComplete
  repeat' first
    | with_reducible first
        | assumption | apply OutcomeKeeps_next | apply postAdd_keeps | apply State.setTile_keeps | apply And.intro | apply Keeps.hbm (s0 := s0)
        | apply Keeps.hostMem (s0 := s0) | apply Keeps.tiles (s0 := s0) | apply Keeps.sec | apply Keeps.boot | apply Keeps.pending
        | apply Keeps.fresh | apply State.tile_keeps (s0 := s0) | apply Tile.memOk.store | apply ite_keeps
    | dsimp only | simp only [Keeps_mk] | simp only [Tile.memOk_mk] | split | intro _

theorem creditBack_keeps {s0 : State} (t : Nat) (k : Endpoint) (ctx lines : Nat) (s : State) (hs : Keeps s0 s) : Keeps s0 (creditBack t k ctx lines s) := by
  unfold creditBack
  repeat' first
    | with_reducible first
        | assumption | apply ctxFault_keeps | apply inject_keeps | apply ite_keeps | apply State.tile_keeps (s0 := s0)
    | dsimp only | split | intro _

theorem flushLines_keeps {s0 : State} (t n : Nat) (e : MapEntry) (s : State) (hs : Keeps s0 s) : Keeps s0 (flushLines t n e s) := by
  unfold flushLines
  repeat' first
    | with_reducible first
        | assumption | apply State.modTile_keeps | apply Tile.modEp_keeps | apply postWrite_keeps | apply queueMerge_keeps | apply ite_keeps
        | apply State.tile_keeps (s0 := s0)
    | dsimp only | split | intro _

theorem takeLine_keeps {s0 : State} (t n : Nat) (bytes : List Byte) (last : Bool) (e : MapEntry) (s : State) (hs : Keeps s0 s) : Keeps s0 (takeLine t n bytes last e s) := by
  unfold takeLine
  repeat' first
    | with_reducible first
        | assumption | apply queueMerge_keeps | apply creditBack_keeps | apply State.modTile_keeps | apply Tile.modEp_keeps | apply flushLines_keeps
        | apply And.intro | apply Keeps.hbm (s0 := s0) | apply Keeps.hostMem (s0 := s0) | apply Keeps.tiles (s0 := s0) | apply Keeps.sec
        | apply Keeps.boot | apply Keeps.pending | apply Keeps.fresh | apply State.tile_keeps (s0 := s0) | apply Tile.memOk.store | apply ite_keeps
    | dsimp only | simp only [Keeps_mk] | simp only [Tile.memOk_mk] | split | intro _

theorem strayChannel_keeps {s0 : State} (t : Nat) (s : State) (hs : Keeps s0 s) : Keeps s0 (strayChannel t s) := by
  unfold strayChannel
  repeat' first
    | with_reducible first
        | assumption | apply tileFault_keeps | apply State.modTile_keeps | apply And.intro | apply Keeps.hbm (s0 := s0)
        | apply Keeps.hostMem (s0 := s0) | apply Keeps.tiles (s0 := s0) | apply Keeps.sec | apply Keeps.boot | apply Keeps.pending
        | apply Keeps.fresh | apply State.tile_keeps (s0 := s0) | apply Tile.memOk.store | apply ite_keeps
    | dsimp only | simp only [Keeps_mk] | simp only [Tile.memOk_mk] | split | intro _

theorem execChannelLineArrival_keeps {s0 : State} (site : Site) (s : State) (hs : Keeps s0 s) : OutcomeKeeps s0 (execChannelLineArrival site s) := by
  unfold execChannelLineArrival
  repeat' first
    | with_reducible first
        | assumption | apply OutcomeKeeps_next | apply takeLine_keeps | apply strayChannel_keeps | apply mapMismatch_keeps
        | apply captureArrival_keeps | (refine takeLoose_keeps_eq ?_ (by assumption)) | apply And.intro | apply Keeps.hbm (s0 := s0)
        | apply Keeps.hostMem (s0 := s0) | apply Keeps.tiles (s0 := s0) | apply Keeps.sec | apply Keeps.boot | apply Keeps.pending
        | apply Keeps.fresh | apply State.tile_keeps (s0 := s0) | apply Tile.memOk.store | apply ite_keeps
    | dsimp only | simp only [Keeps_mk] | simp only [Tile.memOk_mk] | split | intro _

theorem execMessageDelivered_keeps {s0 : State} (t : TileId) (ep : Fin 32) (s : State) (hs : Keeps s0 s) : OutcomeKeeps s0 (execMessageDelivered t ep s) := by
  unfold execMessageDelivered
  repeat' first
    | with_reducible first
        | assumption | apply OutcomeKeeps_next | apply postAdd_keeps | apply State.setTile_keeps | apply Tile.count_keeps | apply Tile.modEp_keeps
        | apply ite_keeps | apply State.tile_keeps (s0 := s0)
    | dsimp only | split | intro _

theorem chRecv_keeps {s0 : State} (t ep : Nat) (s : State) (f : Nat → MapEntry → Endpoint → State) (hs : Keeps s0 s) (hf : ∀ z0 z1 z2, Keeps s0 (f z0 z1 z2)) : Keeps s0 (chRecv t ep s f) := by
  unfold chRecv
  repeat' first
    | with_reducible first
        | assumption | apply hf | apply ctxFault_keeps | apply ite_keeps | apply State.tile_keeps (s0 := s0)
    | dsimp only | split | intro _

theorem execChPeek_keeps {s0 : State} (t : TileId) (ep rd : Fin 32) (s : State) (hs : Keeps s0 s) : OutcomeKeeps s0 (execChPeek t ep rd s) := by
  unfold execChPeek
  repeat' first
    | with_reducible first
        | assumption | apply OutcomeKeeps_next | apply chRecv_keeps | apply State.modTile_keeps | apply Tile.setReg_keeps | apply State.draw_keeps
        | apply ite_keeps | apply State.tile_keeps (s0 := s0)
    | dsimp only | split | intro _

theorem execChRelease_keeps {s0 : State} (t : TileId) (ep : Fin 32) (s : State) (hs : Keeps s0 s) : OutcomeKeeps s0 (execChRelease t ep s) := by
  unfold execChRelease
  repeat' first
    | with_reducible first
        | assumption | apply OutcomeKeeps_next | apply chRecv_keeps | apply creditBack_keeps | apply State.modTile_keeps | apply ctxFault_keeps
        | apply And.intro | apply Keeps.hbm (s0 := s0) | apply Keeps.hostMem (s0 := s0) | apply Keeps.tiles (s0 := s0) | apply Keeps.sec
        | apply Keeps.boot | apply Keeps.pending | apply Keeps.fresh | apply State.tile_keeps (s0 := s0) | apply Tile.memOk.store | apply ite_keeps
    | dsimp only | simp only [Keeps_mk] | simp only [Tile.memOk_mk] | split | intro _

theorem execCreditFlitArrival_keeps {s0 : State} (site : Site) (s : State) (hs : Keeps s0 s) : OutcomeKeeps s0 (execCreditFlitArrival site s) := by
  unfold execCreditFlitArrival
  repeat' first
    | with_reducible first
        | assumption | apply OutcomeKeeps_next | apply strayChannel_keeps | apply mapMismatch_keeps | apply State.modTile_keeps
        | apply Tile.modEp_keeps | (refine takeLoose_keeps_eq ?_ (by assumption)) | apply And.intro | apply Keeps.hbm (s0 := s0)
        | apply Keeps.hostMem (s0 := s0) | apply Keeps.tiles (s0 := s0) | apply Keeps.sec | apply Keeps.boot | apply Keeps.pending
        | apply Keeps.fresh | apply State.tile_keeps (s0 := s0) | apply Tile.memOk.store | apply ite_keeps
    | dsimp only | simp only [Keeps_mk] | simp only [Tile.memOk_mk] | split | intro _

/-! ### Machine/Banks.lean -/

theorem Tile.granted_keeps (x : Tile) (cycle b : Nat) (r : BankReq) (hx : x.memOk) : (Tile.granted x cycle b r).memOk := by
  unfold Tile.granted
  repeat' first
    | with_reducible first
        | assumption | apply foldl_keeps | apply foldlState_keeps | apply Tile.count_keeps | apply Tile.setBank_keeps | apply And.intro
        | apply Keeps.hbm (s0 := s0) | apply Keeps.hostMem (s0 := s0) | apply Keeps.tiles (s0 := s0) | apply Keeps.sec | apply Keeps.boot
        | apply Keeps.pending | apply Keeps.fresh | apply State.tile_keeps (s0 := s0) | apply Tile.memOk.store | apply ite_keeps
    | dsimp only | simp only [Keeps_mk] | simp only [Tile.memOk_mk] | split | intro _

theorem Tile.tickBank_keeps (cycle : Nat) (x : Tile) (b : Nat) (hx : x.memOk) : (Tile.tickBank cycle x b).memOk := by
  unfold Tile.tickBank
  repeat' first
    | with_reducible first
        | assumption | apply foldl_keeps | apply foldlState_keeps | apply Tile.count_keeps | apply And.intro | apply Keeps.hbm (s0 := s0)
        | apply Keeps.hostMem (s0 := s0) | apply Keeps.tiles (s0 := s0) | apply Keeps.sec | apply Keeps.boot | apply Keeps.pending
        | apply Keeps.fresh | apply State.tile_keeps (s0 := s0) | apply Tile.memOk.store | apply ite_keeps
    | dsimp only | simp only [Keeps_mk] | simp only [Tile.memOk_mk] | split | intro _

theorem Tile.tickStores_keeps (cycle : Nat) (x : Tile) (hx : x.memOk) : (Tile.tickStores cycle x).memOk := by
  unfold Tile.tickStores
  repeat' first
    | with_reducible first
        | assumption | apply foldl_keeps | apply foldlState_keeps | apply Tile.tickBank_keeps | apply And.intro | apply Keeps.hbm (s0 := s0)
        | apply Keeps.hostMem (s0 := s0) | apply Keeps.tiles (s0 := s0) | apply Keeps.sec | apply Keeps.boot | apply Keeps.pending
        | apply Keeps.fresh | apply State.tile_keeps (s0 := s0) | apply Tile.memOk.store | apply ite_keeps
    | dsimp only | simp only [Keeps_mk] | simp only [Tile.memOk_mk] | split | intro _

theorem Tile.failVec_keeps (x : Tile) (hx : x.memOk) : (Tile.failVec x).memOk := by
  unfold Tile.failVec
  repeat' first
    | with_reducible first
        | assumption | apply Tile.dropReqs_keeps | apply And.intro | apply Keeps.hbm (s0 := s0) | apply Keeps.hostMem (s0 := s0)
        | apply Keeps.tiles (s0 := s0) | apply Keeps.sec | apply Keeps.boot | apply Keeps.pending | apply Keeps.fresh
        | apply State.tile_keeps (s0 := s0) | apply Tile.memOk.store | apply ite_keeps
    | dsimp only | simp only [Keeps_mk] | simp only [Tile.memOk_mk] | split | intro _

theorem Tile.failRick_keeps (x : Tile) (hx : x.memOk) : (Tile.failRick x).memOk := by
  unfold Tile.failRick
  repeat' first
    | with_reducible first
        | assumption | apply Tile.dropReqs_keeps | apply And.intro | apply Keeps.hbm (s0 := s0) | apply Keeps.hostMem (s0 := s0)
        | apply Keeps.tiles (s0 := s0) | apply Keeps.sec | apply Keeps.boot | apply Keeps.pending | apply Keeps.fresh
        | apply State.tile_keeps (s0 := s0) | apply Tile.memOk.store | apply ite_keeps
    | dsimp only | simp only [Keeps_mk] | simp only [Tile.memOk_mk] | split | intro _

theorem Tile.failMerge_keeps (x : Tile) (m : MergeEntry) (hx : x.memOk) : (Tile.failMerge x m).memOk := by
  unfold Tile.failMerge
  repeat' first
    | with_reducible first
        | assumption | apply Tile.modK_keeps | apply Tile.failMat_keeps | apply Tile.failVec_keeps | apply Tile.failRick_keeps | apply And.intro
        | apply Keeps.hbm (s0 := s0) | apply Keeps.hostMem (s0 := s0) | apply Keeps.tiles (s0 := s0) | apply Keeps.sec | apply Keeps.boot
        | apply Keeps.pending | apply Keeps.fresh | apply State.tile_keeps (s0 := s0) | apply Tile.memOk.store | apply ite_keeps
    | dsimp only | simp only [Keeps_mk] | simp only [Tile.memOk_mk] | split | intro _

theorem Tile.failReq_keeps (x : Tile) (r : BankReq) (hx : x.memOk) : (Tile.failReq x r).memOk := by
  unfold Tile.failReq
  repeat' first
    | with_reducible first
        | assumption | apply Tile.modOp_keeps | apply Tile.dropReqs_keeps | apply Tile.modK_keeps | apply Tile.setStall_keeps
        | apply Tile.dropMsg_keeps | apply Tile.failMat_keeps | apply Tile.failVec_keeps | apply Tile.failRick_keeps | apply Tile.failMerge_keeps
        | apply And.intro | apply Keeps.hbm (s0 := s0) | apply Keeps.hostMem (s0 := s0) | apply Keeps.tiles (s0 := s0) | apply Keeps.sec
        | apply Keeps.boot | apply Keeps.pending | apply Keeps.fresh | apply State.tile_keeps (s0 := s0) | apply Tile.memOk.store | apply ite_keeps
    | dsimp only | simp only [Keeps_mk] | simp only [Tile.memOk_mk] | split | intro _

theorem refuseDark_keeps {s0 : State} (t : Nat) (r : BankReq) (s : State) (hs : Keeps s0 s) : Keeps s0 (refuseDark t r s) := by
  unfold refuseDark
  repeat' first
    | with_reducible first
        | assumption | apply State.modTile_keeps | apply Tile.failReq_keeps | apply tileFault_keeps | apply Tile.modOp_keeps | apply ctxFault_keeps
        | apply And.intro | apply Keeps.hbm (s0 := s0) | apply Keeps.hostMem (s0 := s0) | apply Keeps.tiles (s0 := s0) | apply Keeps.sec
        | apply Keeps.boot | apply Keeps.pending | apply Keeps.fresh | apply State.tile_keeps (s0 := s0) | apply Tile.memOk.store | apply ite_keeps
    | dsimp only | simp only [Keeps_mk] | simp only [Tile.memOk_mk] | split | intro _

theorem captureSlot_keeps {s0 : State} (t : Nat) (o : DmaOp) (key : Nat) (s : State) (hs : Keeps s0 s) : Keeps s0 (captureSlot t o key s) := by
  unfold captureSlot
  repeat' first
    | with_reducible first
        | assumption | apply captureArrival_keeps | apply ite_keeps | apply State.tile_keeps (s0 := s0)
    | dsimp only | split | intro _

theorem replaySlot_keeps {s0 : State} (t n : Nat) (s : State) (hs : Keeps s0 s) : Keeps s0 (replaySlot t n s) := by
  unfold replaySlot
  repeat' first
    | with_reducible first
        | assumption | apply Tile.writeAt_keeps | apply postAdd_keeps | apply State.modTile_keeps | apply foldl_keeps | apply foldlState_keeps
        | apply Tile.modCar_keeps | apply And.intro | apply Keeps.hbm (s0 := s0) | apply Keeps.hostMem (s0 := s0) | apply Keeps.tiles (s0 := s0)
        | apply Keeps.sec | apply Keeps.boot | apply Keeps.pending | apply Keeps.fresh | apply State.tile_keeps (s0 := s0) | apply Tile.memOk.store
        | apply ite_keeps
    | dsimp only | simp only [Keeps_mk] | simp only [Tile.memOk_mk] | split | intro _

theorem billetWritten_keeps {s0 : State} (t op k : Nat) (s : State) (hs : Keeps s0 s) : Keeps s0 (billetWritten t op k s) := by
  unfold billetWritten
  repeat' first
    | with_reducible first
        | assumption | apply State.modTile_keeps | apply Tile.modOp_keeps | apply forAll_keeps | apply postAdd_keeps | apply captureSlot_keeps
        | apply Tile.modCar_keeps | apply ite_keeps | apply State.tile_keeps (s0 := s0)
    | dsimp only | split | intro _

theorem Tile.mergeTo_keeps (x : Tile) (st : StoreId) (i : Nat) (g : MergeStage) (hx : x.memOk) : (Tile.mergeTo x st i g).memOk := by
  unfold Tile.mergeTo
  repeat' first
    | with_reducible first
        | assumption | apply And.intro | apply Keeps.hbm (s0 := s0) | apply Keeps.hostMem (s0 := s0) | apply Keeps.tiles (s0 := s0) | apply Keeps.sec
        | apply Keeps.boot | apply Keeps.pending | apply Keeps.fresh | apply State.tile_keeps (s0 := s0) | apply Tile.memOk.store | apply ite_keeps
    | dsimp only | simp only [Keeps_mk] | simp only [Tile.memOk_mk] | split | intro _

theorem applyWrite_keeps {s0 : State} (t : Nat) (r : BankReq) (bs : List Byte) (s : State) (hs : Keeps s0 s) : Keeps s0 (applyWrite t r bs s) := by
  unfold applyWrite
  repeat' first
    | with_reducible first
        | assumption | apply State.modTile_keeps | apply Tile.writeAt_keeps | apply billetWritten_keeps | apply Tile.mergeTo_keeps
        | apply Tile.granted_keeps | apply Tile.modEnt_keeps | apply rickWritten_keeps | apply ite_keeps | apply State.tile_keeps (s0 := s0)
    | dsimp only | split | intro _

theorem Tile.consume_keeps (x : Tile) (r : BankReq) (hx : x.memOk) : (Tile.consume x r).memOk := by
  unfold Tile.consume
  repeat' first
    | with_reducible first
        | assumption | apply Tile.modCar_keeps | apply ite_keeps | apply State.tile_keeps (s0 := s0)
    | dsimp only | split | intro _

theorem execStoreAccessGrant_keeps {s0 : State} (t : TileId) (b : Fin 89) (s : State) (hs : Keeps s0 s) : OutcomeKeeps s0 (execStoreAccessGrant t b s) := by
  unfold execStoreAccessGrant
  repeat' first
    | with_reducible first
        | assumption | apply OutcomeKeeps_next | apply refuseDark_keeps | apply State.modTile_keeps | apply Tile.granted_keeps
        | apply applyWrite_keeps | apply Tile.consume_keeps | apply And.intro | apply Keeps.hbm (s0 := s0) | apply Keeps.hostMem (s0 := s0)
        | apply Keeps.tiles (s0 := s0) | apply Keeps.sec | apply Keeps.boot | apply Keeps.pending | apply Keeps.fresh
        | apply State.tile_keeps (s0 := s0) | apply Tile.memOk.store | apply ite_keeps
    | dsimp only | simp only [Keeps_mk] | simp only [Tile.memOk_mk] | split | intro _

theorem opData_keeps {s0 : State} (t : Nat) (o : DmaOp) (k : Nat) (bs : List Byte) (s : State) (hs : Keeps s0 s) : Keeps s0 (opData t o k bs s) := by
  unfold opData
  repeat' first
    | with_reducible first
        | assumption | apply State.modTile_keeps | apply Tile.modOp_keeps | apply postWrite_keeps | apply pumpOp_keeps | apply And.intro
        | apply Keeps.hbm (s0 := s0) | apply Keeps.hostMem (s0 := s0) | apply Keeps.tiles (s0 := s0) | apply Keeps.sec | apply Keeps.boot
        | apply Keeps.pending | apply Keeps.fresh | apply State.tile_keeps (s0 := s0) | apply Tile.memOk.store | apply ite_keeps
    | dsimp only | simp only [Keeps_mk] | simp only [Tile.memOk_mk] | split | intro _

theorem kputData_keeps {s0 : State} (t : Nat) (k : KSlot) (data : List Byte) (s : State) (hs : Keeps s0 s) : Keeps s0 (kputData t k data s) := by
  unfold kputData
  repeat' first
    | with_reducible first
        | assumption | apply State.modTile_keeps | apply Tile.modK_keeps | apply replayOutput_keeps | apply sendWrite_keeps | apply kRequest_keeps
        | apply ite_keeps | apply State.tile_keeps (s0 := s0)
    | dsimp only | split | intro _

theorem deliver_keeps {s0 : State} (t : Nat) (r : BankReq) (s : State) (hs : Keeps s0 s) : Keeps s0 (deliver t r s) := by
  unfold deliver
  repeat' first
    | with_reducible first
        | assumption | apply State.modTile_keeps | apply Tile.setReg_keeps | apply Tile.setStall_keeps | apply opData_keeps | apply pumpOp_keeps
        | apply Tile.modOp_keeps | apply postWrite_keeps | apply Tile.mergeTo_keeps | apply kputData_keeps | apply pumpSends_keeps
        | apply Tile.modEnt_keeps | apply pumpMsg_keeps | apply And.intro | apply Keeps.hbm (s0 := s0) | apply Keeps.hostMem (s0 := s0)
        | apply Keeps.tiles (s0 := s0) | apply Keeps.sec | apply Keeps.boot | apply Keeps.pending | apply Keeps.fresh
        | apply State.tile_keeps (s0 := s0) | apply Tile.memOk.store | apply ite_keeps
    | dsimp only | simp only [Keeps_mk] | simp only [Tile.memOk_mk] | split | intro _

theorem execStoreReadDataReturn_keeps {s0 : State} (t : TileId) (ecc : Ecc) (s : State) (hs : Keeps s0 s) : OutcomeKeeps s0 (execStoreReadDataReturn t ecc s) := by
  unfold execStoreReadDataReturn
  repeat' first
    | with_reducible first
        | assumption | apply OutcomeKeeps_next | apply State.modTile_keeps | apply deliver_keeps | apply storeCorrected_keeps
        | apply Tile.oweBack_keeps | apply Tile.modOp_keeps | apply tileUncorrectable_keeps | apply And.intro | apply Keeps.hbm (s0 := s0)
        | apply Keeps.hostMem (s0 := s0) | apply Keeps.tiles (s0 := s0) | apply Keeps.sec | apply Keeps.boot | apply Keeps.pending
        | apply Keeps.fresh | apply State.tile_keeps (s0 := s0) | apply Tile.memOk.store | apply ite_keeps
    | dsimp only | simp only [Keeps_mk] | simp only [Tile.memOk_mk] | split | intro _

theorem execCorrectedBilletWriteback_keeps {s0 : State} (t : TileId) (b : Fin 89) (s : State) (hs : Keeps s0 s) : OutcomeKeeps s0 (execCorrectedBilletWriteback t b s) := by
  unfold execCorrectedBilletWriteback
  repeat' first
    | with_reducible first
        | assumption | apply OutcomeKeeps_next | apply State.setTile_keeps | apply Tile.setBank_keeps | apply ite_keeps
        | apply State.tile_keeps (s0 := s0)
    | dsimp only | split | intro _

theorem execSubBilletWrite_keeps {s0 : State} (t : TileId) (st : StoreId) (s : State) (hs : Keeps s0 s) : OutcomeKeeps s0 (execSubBilletWrite t st s) := by
  unfold execSubBilletWrite
  repeat' first
    | with_reducible first
        | assumption | apply OutcomeKeeps_next | apply State.setTile_keeps | apply postRead_keeps | apply And.intro | apply Keeps.hbm (s0 := s0)
        | apply Keeps.hostMem (s0 := s0) | apply Keeps.tiles (s0 := s0) | apply Keeps.sec | apply Keeps.boot | apply Keeps.pending
        | apply Keeps.fresh | apply State.tile_keeps (s0 := s0) | apply Tile.memOk.store | apply ite_keeps
    | dsimp only | simp only [Keeps_mk] | simp only [Tile.memOk_mk] | split | intro _

theorem execMergeComplete_keeps {s0 : State} (site : Checked TileId) (st : StoreId) (s : State) (hs : Keeps s0 s) : OutcomeKeeps s0 (execMergeComplete site st s) := by
  unfold execMergeComplete
  repeat' first
    | with_reducible first
        | assumption | apply OutcomeKeeps_next | apply Tile.granted_keeps | apply State.modTile_keeps | apply Tile.modK_keeps
        | (refine tileEcc_keeps_eq ?_ (by assumption)) | (refine tileEcc_keeps_some ?_ (by assumption)) | apply And.intro
        | apply Keeps.hbm (s0 := s0) | apply Keeps.hostMem (s0 := s0) | apply Keeps.tiles (s0 := s0) | apply Keeps.sec | apply Keeps.boot
        | apply Keeps.pending | apply Keeps.fresh | apply State.tile_keeps (s0 := s0) | apply Tile.memOk.store | apply ite_keeps
    | dsimp only | simp only [Keeps_mk] | simp only [Tile.memOk_mk] | split | intro _

theorem Tile.acceptAll_keeps (x : Tile) (b : Nat) (hx : x.memOk) : (Tile.acceptAll x b).memOk := by
  unfold Tile.acceptAll
  repeat' first
    | with_reducible first
        | assumption | apply foldl_keeps | apply foldlState_keeps | apply And.intro | apply Keeps.hbm (s0 := s0) | apply Keeps.hostMem (s0 := s0)
        | apply Keeps.tiles (s0 := s0) | apply Keeps.sec | apply Keeps.boot | apply Keeps.pending | apply Keeps.fresh
        | apply State.tile_keeps (s0 := s0) | apply Tile.memOk.store | apply ite_keeps
    | dsimp only | simp only [Keeps_mk] | simp only [Tile.memOk_mk] | split | intro _

theorem Tile.gateBank_keeps (x : Tile) (cycle b : Nat) (dark : Bool) (hx : x.memOk) : (Tile.gateBank x cycle b dark).memOk := by
  unfold Tile.gateBank
  repeat' first
    | with_reducible first
        | assumption | apply Tile.acceptAll_keeps | apply Tile.setBank_keeps | apply And.intro | apply Keeps.hbm (s0 := s0)
        | apply Keeps.hostMem (s0 := s0) | apply Keeps.tiles (s0 := s0) | apply Keeps.sec | apply Keeps.boot | apply Keeps.pending
        | apply Keeps.fresh | apply State.tile_keeps (s0 := s0) | apply Tile.memOk.store | apply ite_keeps
    | dsimp only | simp only [Keeps_mk] | simp only [Tile.memOk_mk] | split | intro _

theorem Tile.writeGate_keeps (x : Tile) (cycle reg : Nat) (val : Word) (hx : x.memOk) : (Tile.writeGate x cycle reg val).memOk := by
  unfold Tile.writeGate
  repeat' first
    | with_reducible first
        | assumption | apply foldl_keeps | apply foldlState_keeps | apply Tile.gateBank_keeps | apply And.intro | apply Keeps.hbm (s0 := s0)
        | apply Keeps.hostMem (s0 := s0) | apply Keeps.tiles (s0 := s0) | apply Keeps.sec | apply Keeps.boot | apply Keeps.pending
        | apply Keeps.fresh | apply State.tile_keeps (s0 := s0) | apply Tile.memOk.store | apply ite_keeps
    | dsimp only | simp only [Keeps_mk] | simp only [Tile.memOk_mk] | split | intro _

theorem execBankPowerOff_keeps {s0 : State} (t : TileId) (b : Fin 88) (s : State) (hs : Keeps s0 s) : OutcomeKeeps s0 (execBankPowerOff t b s) := by
  unfold execBankPowerOff
  repeat' first
    | with_reducible first
        | assumption | apply OutcomeKeeps_next | apply State.setTile_keeps | apply Tile.setBank_keeps | apply ite_keeps
        | apply State.tile_keeps (s0 := s0)
    | dsimp only | split | intro _

theorem execBankPowerRestored_keeps {s0 : State} (t : TileId) (b : Fin 88) (s : State) (hs : Keeps s0 s) : OutcomeKeeps s0 (execBankPowerRestored t b s) := by
  unfold execBankPowerRestored
  repeat' first
    | with_reducible first
        | assumption | apply OutcomeKeeps_next | apply State.setTile_keeps | apply Tile.setBank_keeps | apply ite_keeps
        | apply State.tile_keeps (s0 := s0)
    | dsimp only | split | intro _

theorem execBankWakeComplete_keeps {s0 : State} (t : TileId) (b : Fin 88) (s : State) (hs : Keeps s0 s) : OutcomeKeeps s0 (execBankWakeComplete t b s) := by
  unfold execBankWakeComplete
  repeat' first
    | with_reducible first
        | assumption | apply OutcomeKeeps_next | apply State.setTile_keeps | apply Tile.setBank_keeps | apply And.intro | apply Memory.wf_memWrite
        | apply Keeps.hbm (s0 := s0) | apply Keeps.hostMem (s0 := s0) | apply Keeps.tiles (s0 := s0) | apply Keeps.sec | apply Keeps.boot
        | apply Keeps.pending | apply Keeps.fresh | apply Keeps.fresh1 | apply secOk.nOp | apply secOk.nOwn | apply secOk.nCeil | apply secOk.nDebug
        | apply secOk.nonces | apply bootOk.floors | apply Tile.memOk.store | apply State.tile_keeps (s0 := s0) | apply tilesOk_sset
        | apply tilesOk_map | apply Memory.wf_filter | apply Memory.wf_memPut | apply foldlSnd_keeps | apply ite_keeps | apply ite_optKeeps
        | apply foldlThd_keeps | apply foldlMem_wf | apply Memory.wf_empty | apply tilesOk_empty | apply Tile.memOk_default
    | dsimp only | simp only [optKeeps_none, optKeeps_some, optTileOk_none, optTileOk_some, optPairKeeps_none, optPairKeeps_some]
    | simp only [Keeps_mk] | simp only [Tile.memOk_mk] | simp only [secOk_mk] | simp only [bootOk_mk] | split | intro _

/-! ### Machine/Barriers.lean -/

theorem Tile.push_keeps (x : Tile) (eng : Engine) (q0 : QEntry) (hx : x.memOk) : (Tile.push x eng q0).memOk := by
  unfold Tile.push
  repeat' first
    | with_reducible first
        | assumption | apply And.intro | apply Keeps.hbm (s0 := s0) | apply Keeps.hostMem (s0 := s0) | apply Keeps.tiles (s0 := s0) | apply Keeps.sec
        | apply Keeps.boot | apply Keeps.pending | apply Keeps.fresh | apply State.tile_keeps (s0 := s0) | apply Tile.memOk.store | apply ite_keeps
    | dsimp only | simp only [Keeps_mk] | simp only [Tile.memOk_mk] | split | intro _

theorem execEnqueue_keeps {s0 : State} (t : TileId) (eng : Engine) (cmd : CoreCmd) (s : State) (hs : Keeps s0 s) : OutcomeKeeps s0 (execEnqueue t eng cmd s) := by
  unfold execEnqueue
  repeat' first
    | with_reducible first
        | assumption | apply OutcomeKeeps_next | apply ctxFault_keeps | apply State.modTile_keeps | apply Tile.setStall_keeps
        | apply State.setTile_keeps | apply Tile.push_keeps | apply ite_keeps | apply State.tile_keeps (s0 := s0)
    | dsimp only | split | intro _

theorem execCtrWait_keeps {s0 : State} (t : TileId) (rs rt : Fin 32) (s : State) (hs : Keeps s0 s) : OutcomeKeeps s0 (execCtrWait t rs rt s) := by
  unfold execCtrWait
  repeat' first
    | with_reducible first
        | assumption | apply OutcomeKeeps_next | apply ctxFault_keeps | apply State.setTile_keeps | apply Tile.setStall_keeps | apply ite_keeps
        | apply State.tile_keeps (s0 := s0)
    | dsimp only | split | intro _

theorem execCtrAdd_keeps {s0 : State} (t : TileId) (id val : BitVec 8) (s : State) (hs : Keeps s0 s) : OutcomeKeeps s0 (execCtrAdd t id val s) := by
  unfold execCtrAdd
  repeat' first
    | with_reducible first
        | assumption | apply OutcomeKeeps_next | apply ctxFault_keeps | apply postAdd_keeps | apply ite_keeps | apply State.tile_keeps (s0 := s0)
    | dsimp only | split | intro _

theorem execCtrRead_keeps {s0 : State} (t : TileId) (rd : Fin 32) (id : BitVec 8) (s : State) (hs : Keeps s0 s) : OutcomeKeeps s0 (execCtrRead t rd id s) := by
  unfold execCtrRead
  repeat' first
    | with_reducible first
        | assumption | apply OutcomeKeeps_next | apply ctxFault_keeps | apply State.modTile_keeps | apply Tile.setReg_keeps | apply ite_keeps
        | apply State.tile_keeps (s0 := s0)
    | dsimp only | split | intro _

theorem Tile.rebase_keeps (x : Tile) (e : MapEntry) (fill slot : Nat) (hx : x.memOk) : (Tile.rebase x e fill slot).memOk := by
  unfold Tile.rebase
  repeat' first
    | with_reducible first
        | assumption | apply foldl_keeps | apply foldlState_keeps | apply And.intro | apply Keeps.hbm (s0 := s0) | apply Keeps.hostMem (s0 := s0)
        | apply Keeps.tiles (s0 := s0) | apply Keeps.sec | apply Keeps.boot | apply Keeps.pending | apply Keeps.fresh
        | apply State.tile_keeps (s0 := s0) | apply Tile.memOk.store | apply ite_keeps
    | dsimp only | simp only [Keeps_mk] | simp only [Tile.memOk_mk] | split | intro _

theorem execRebaseApply_keeps {s0 : State} (n : CtxId) (s : State) (hs : Keeps s0 s) : OutcomeKeeps s0 (execRebaseApply n s) := by
  unfold execRebaseApply
  repeat' first
    | with_reducible first
        | assumption | apply OutcomeKeeps_next | apply Tile.rebase_keeps | apply forAll_keeps | apply State.modTile_keeps | apply State.modCtx_keeps
        | apply ite_keeps | apply State.tile_keeps (s0 := s0)
    | dsimp only | split | intro _

theorem execBarrierArrival_keeps {s0 : State} (t : TileId) (s : State) (hs : Keeps s0 s) : OutcomeKeeps s0 (execBarrierArrival t s) := by
  unfold execBarrierArrival
  repeat' first
    | with_reducible first
        | assumption | apply OutcomeKeeps_next | apply State.modTile_keeps | apply Tile.setStall_keeps | apply ite_keeps
        | apply State.tile_keeps (s0 := s0)
    | dsimp only | split | intro _

theorem execExchangeBarrierArrival_keeps {s0 : State} (t : TileId) (s : State) (hs : Keeps s0 s) : OutcomeKeeps s0 (execExchangeBarrierArrival t s) := by
  unfold execExchangeBarrierArrival
  repeat' first
    | with_reducible first
        | assumption | apply OutcomeKeeps_next | apply State.setTile_keeps | apply Tile.setStall_keeps | apply State.modCtx_keeps | apply And.intro
        | apply Keeps.hbm (s0 := s0) | apply Keeps.hostMem (s0 := s0) | apply Keeps.tiles (s0 := s0) | apply Keeps.sec | apply Keeps.boot
        | apply Keeps.pending | apply Keeps.fresh | apply State.tile_keeps (s0 := s0) | apply Tile.memOk.store | apply ite_keeps
    | dsimp only | simp only [Keeps_mk] | simp only [Tile.memOk_mk] | split | intro _

theorem releaseExchange_keeps {s0 : State} (n : Nat) (c : Ctx) (s : State) (hs : Keeps s0 s) : Keeps s0 (releaseExchange n c s) := by
  unfold releaseExchange
  repeat' first
    | with_reducible first
        | assumption | apply forAll_keeps | apply State.modTile_keeps | apply sendArrives_keeps | apply State.modCtx_keeps | apply And.intro
        | apply Keeps.hbm (s0 := s0) | apply Keeps.hostMem (s0 := s0) | apply Keeps.tiles (s0 := s0) | apply Keeps.sec | apply Keeps.boot
        | apply Keeps.pending | apply Keeps.fresh | apply State.tile_keeps (s0 := s0) | apply Tile.memOk.store | apply ite_keeps
    | dsimp only | simp only [Keeps_mk] | simp only [Tile.memOk_mk] | split | intro _

theorem maskMismatch_keeps {s0 : State} (n node : Nat) (s : State) (hs : Keeps s0 s) : Keeps s0 (maskMismatch n node s) := by
  unfold maskMismatch
  repeat' first
    | with_reducible first
        | assumption | apply markStop_keeps | apply recordFault_keeps | apply State.modCluster_keeps | apply ite_keeps
        | apply State.tile_keeps (s0 := s0)
    | dsimp only | split | intro _

theorem execExchangeRelease_keeps {s0 : State} (n : CtxId) (badNode : Option (Fin 96)) (s : State) (hs : Keeps s0 s) : OutcomeKeeps s0 (execExchangeRelease n badNode s) := by
  unfold execExchangeRelease
  repeat' first
    | with_reducible first
        | assumption | apply OutcomeKeeps_next | apply maskMismatch_keeps | apply releaseExchange_keeps | apply forAll_keeps | apply stopOnTile_keeps
        | apply recordFault_keeps | apply ite_keeps | apply State.tile_keeps (s0 := s0)
    | dsimp only | split | intro _

theorem execBoundaryBarrierArrival_keeps {s0 : State} (t : TileId) (s : State) (hs : Keeps s0 s) : OutcomeKeeps s0 (execBoundaryBarrierArrival t s) := by
  unfold execBoundaryBarrierArrival
  repeat' first
    | with_reducible first
        | assumption | apply OutcomeKeeps_next | apply sendArrives_keeps | apply finishSends_keeps | apply State.modTile_keeps
        | apply State.modCtx_keeps | apply And.intro | apply Keeps.hbm (s0 := s0) | apply Keeps.hostMem (s0 := s0) | apply Keeps.tiles (s0 := s0)
        | apply Keeps.sec | apply Keeps.boot | apply Keeps.pending | apply Keeps.fresh | apply State.tile_keeps (s0 := s0) | apply Tile.memOk.store
        | apply ite_keeps
    | dsimp only | simp only [Keeps_mk] | simp only [Tile.memOk_mk] | split | intro _

/-! ### Machine/Stoker.lean -/

theorem startRound_keeps {s0 : State} (n : Nat) (s : State) (hs : Keeps s0 s) : Keeps s0 (startRound n s) := by
  unfold startRound
  repeat' first
    | with_reducible first
        | assumption | apply touchRange_keeps | apply State.setBucket_keeps | apply Tile.count_keeps | apply failRound_keeps
        | apply recordFault_keeps | apply ite_keeps | apply State.tile_keeps (s0 := s0)
    | dsimp only | split | intro _

theorem nextRound_keeps {s0 : State} (n : Nat) (s : State) (hs : Keeps s0 s) : Keeps s0 (nextRound n s) := by
  unfold nextRound
  repeat' first
    | with_reducible first
        | assumption | apply startRound_keeps | apply ite_keeps | apply State.tile_keeps (s0 := s0)
    | dsimp only | split | intro _

theorem execHandoffPacketArrival_keeps {s0 : State} (ecc : Ecc) (s : State) (hs : Keeps s0 s) : OutcomeKeeps s0 (execHandoffPacketArrival ecc s) := by
  unfold execHandoffPacketArrival
  repeat' first
    | with_reducible first
        | assumption | apply OutcomeKeeps_next | apply State.modTile_keeps | apply fenceStack_keeps | apply failRound_keeps | apply recordFault_keeps
        | apply nextRound_keeps | apply State.modStack_keeps | apply And.intro | apply Keeps.hbm (s0 := s0) | apply Keeps.hostMem (s0 := s0)
        | apply Keeps.tiles (s0 := s0) | apply Keeps.sec | apply Keeps.boot | apply Keeps.pending | apply Keeps.fresh
        | apply State.tile_keeps (s0 := s0) | apply Tile.memOk.store | apply ite_keeps
    | dsimp only | simp only [Keeps_mk] | simp only [Tile.memOk_mk] | split | intro _

theorem bookRecord_keeps {s0 : State} (n k recNo : Nat) (crc : BitVec 64) (applied : Bool) (f : Bucket → Bucket) (s : State) (hs : Keeps s0 s) : Keeps s0 (bookRecord n k recNo crc applied f s) := by
  unfold bookRecord
  repeat' first
    | with_reducible first
        | assumption | apply State.modBucket_keeps | apply State.modStack_keeps | apply ite_keeps | apply State.tile_keeps (s0 := s0)
    | dsimp only | split | intro _

theorem noteStoked_keeps {s0 : State} (a n : Nat) (s : State) (hs : Keeps s0 s) : Keeps s0 (noteStoked a n s) := by
  unfold noteStoked
  repeat' first
    | with_reducible first
        | assumption | apply And.intro | apply Keeps.hbm (s0 := s0) | apply Keeps.hostMem (s0 := s0) | apply Keeps.tiles (s0 := s0) | apply Keeps.sec
        | apply Keeps.boot | apply Keeps.pending | apply Keeps.fresh | apply State.tile_keeps (s0 := s0) | apply Tile.memOk.store | apply ite_keeps
    | dsimp only | simp only [Keeps_mk] | simp only [Tile.memOk_mk] | split | intro _

theorem execStokerRecordApply_keeps {s0 : State} (k : StackId) (n : Fin 1024) (ecc : HbmEcc) (s : State) (hs : Keeps s0 s) : OutcomeKeeps s0 (execStokerRecordApply k n ecc s) := by
  unfold execStokerRecordApply
  repeat' first
    | with_reducible first
        | assumption | apply OutcomeKeeps_next | apply touchStack_keeps | apply State.modStack_keeps | apply hbmFetch_keeps | apply markStop_keeps
        | apply bookRecord_keeps | apply noteStoked_keeps | apply touchRange_keeps | apply State.hbmWrite_keeps
        | (refine hbmFetch_keeps_eq ?_ (by assumption)) | apply ite_keeps | apply State.tile_keeps (s0 := s0)
    | dsimp only | split | intro _

theorem execRoundComplete_keeps {s0 : State} (n : Fin 1024) (s : State) (hs : Keeps s0 s) : OutcomeKeeps s0 (execRoundComplete n s) := by
  unfold execRoundComplete
  repeat' first
    | with_reducible first
        | assumption | apply OutcomeKeeps_next | apply foldl_keeps | apply foldlState_keeps | apply State.setBucket_keeps | apply nextRound_keeps
        | apply postEvent_keeps | apply ite_keeps | apply State.tile_keeps (s0 := s0)
    | dsimp only | split | intro _

theorem execRoundTimeout_keeps {s0 : State} (n : Fin 1024) (s : State) (hs : Keeps s0 s) : OutcomeKeeps s0 (execRoundTimeout n s) := by
  unfold execRoundTimeout
  repeat' first
    | with_reducible first
        | assumption | apply OutcomeKeeps_next | apply Tile.count_keeps | apply failRound_keeps | apply recordFault_keeps | apply ite_keeps
        | apply State.tile_keeps (s0 := s0)
    | dsimp only | split | intro _

theorem execFingerprintCompare_keeps {s0 : State} (n : Fin 1024) (s : State) (hs : Keeps s0 s) : OutcomeKeeps s0 (execFingerprintCompare n s) := by
  unfold execFingerprintCompare
  repeat' first
    | with_reducible first
        | assumption | apply OutcomeKeeps_next | apply State.setBucket_keeps | apply State.draw_keeps | apply Tile.count_keeps
        | apply postEvent_keeps | apply dueHold_keeps | apply And.intro | apply Keeps.hbm (s0 := s0) | apply Keeps.hostMem (s0 := s0)
        | apply Keeps.tiles (s0 := s0) | apply Keeps.sec | apply Keeps.boot | apply Keeps.pending | apply Keeps.fresh
        | apply State.tile_keeps (s0 := s0) | apply Tile.memOk.store | apply ite_keeps
    | dsimp only | simp only [Keeps_mk] | simp only [Tile.memOk_mk] | split | intro _

/-! ### Machine/Contexts.lean -/

theorem complete_keeps {s0 : State} (r : Nat) (c : List Byte) (ctx graph fc : Nat) (s : State) (hs : Keeps s0 s) : Keeps s0 (complete r c ctx graph fc s) := by
  unfold complete
  repeat' first
    | with_reducible first
        | assumption | apply postTo_keeps | apply ite_keeps | apply State.tile_keeps (s0 := s0)
    | dsimp only | split | intro _

theorem accept_keeps {s0 : State} (r : Nat) (c : List Byte) (s : State) (hs : Keeps s0 s) : Keeps s0 (accept r c s) := by
  unfold accept
  repeat' first
    | with_reducible first
        | assumption | apply complete_keeps | apply ite_keeps | apply State.tile_keeps (s0 := s0)
    | dsimp only | split | intro _

theorem reject_keeps {s0 : State} (r : Nat) (c : List Byte) (code : Nat) (s : State) (hs : Keeps s0 s) : Keeps s0 (reject r c code s) := by
  unfold reject
  repeat' first
    | with_reducible first
        | assumption | apply complete_keeps | apply ite_keeps | apply State.tile_keeps (s0 := s0)
    | dsimp only | split | intro _

theorem tookCommand_keeps {s0 : State} (r : Nat) (s : State) (hs : Keeps s0 s) : Keeps s0 (tookCommand r s) := by
  unfold tookCommand
  repeat' first
    | with_reducible first
        | assumption | apply State.cacheLine_keeps | apply State.modRing_keeps | apply And.intro | apply Memory.wf_memWrite
        | apply Keeps.hbm (s0 := s0) | apply Keeps.hostMem (s0 := s0) | apply Keeps.tiles (s0 := s0) | apply Keeps.sec | apply Keeps.boot
        | apply Keeps.pending | apply Keeps.fresh | apply Keeps.fresh1 | apply secOk.nOp | apply secOk.nOwn | apply secOk.nCeil | apply secOk.nDebug
        | apply secOk.nonces | apply bootOk.floors | apply Tile.memOk.store | apply State.tile_keeps (s0 := s0) | apply tilesOk_sset
        | apply tilesOk_map | apply Memory.wf_filter | apply Memory.wf_memPut | apply foldlSnd_keeps | apply ite_keeps | apply ite_optKeeps
        | apply foldlThd_keeps | apply foldlMem_wf | apply Memory.wf_empty | apply tilesOk_empty | apply Tile.memOk_default
    | dsimp only | simp only [optKeeps_none, optKeeps_some, optTileOk_none, optTileOk_some, optPairKeeps_none, optPairKeeps_some]
    | simp only [Keeps_mk] | simp only [Tile.memOk_mk] | simp only [secOk_mk] | simp only [bootOk_mk] | split | intro _

theorem withCommand_keeps {s0 : State} (r op : Nat) (s : State) (f : List Byte → State → State) (hs : Keeps s0 s) (hf : ∀ z0 z1, Keeps s0 z1 → Keeps s0 (f z0 z1)) : Keeps s0 (withCommand r op s f) := by
  unfold withCommand
  repeat' first
    | with_reducible first
        | assumption | apply hf | apply tookCommand_keeps | apply reject_keeps | apply And.intro | apply Memory.wf_memWrite
        | apply Keeps.hbm (s0 := s0) | apply Keeps.hostMem (s0 := s0) | apply Keeps.tiles (s0 := s0) | apply Keeps.sec | apply Keeps.boot
        | apply Keeps.pending | apply Keeps.fresh | apply Keeps.fresh1 | apply secOk.nOp | apply secOk.nOwn | apply secOk.nCeil | apply secOk.nDebug
        | apply secOk.nonces | apply bootOk.floors | apply Tile.memOk.store | apply State.tile_keeps (s0 := s0) | apply tilesOk_sset
        | apply tilesOk_map | apply Memory.wf_filter | apply Memory.wf_memPut | apply foldlSnd_keeps | apply ite_keeps | apply ite_optKeeps
        | apply foldlThd_keeps | apply foldlMem_wf | apply Memory.wf_empty | apply tilesOk_empty | apply Tile.memOk_default
    | dsimp only | simp only [optKeeps_none, optKeeps_some, optTileOk_none, optTileOk_some, optPairKeeps_none, optPairKeeps_some]
    | simp only [Keeps_mk] | simp only [Tile.memOk_mk] | simp only [secOk_mk] | simp only [bootOk_mk] | split | intro _

theorem tablesFail_keeps {s0 : State} (s : State) (hs : Keeps s0 s) : Keeps s0 (tablesFail s) := by
  unfold tablesFail
  repeat' first
    | with_reducible first
        | assumption | apply forAll_keeps | apply markStop_keeps | apply recordFault_keeps | apply And.intro | apply Keeps.hbm (s0 := s0)
        | apply Keeps.hostMem (s0 := s0) | apply Keeps.tiles (s0 := s0) | apply Keeps.sec | apply Keeps.boot | apply Keeps.pending
        | apply Keeps.fresh | apply State.tile_keeps (s0 := s0) | apply Tile.memOk.store | apply ite_keeps
    | dsimp only | simp only [Keeps_mk] | simp only [Tile.memOk_mk] | split | intro _

theorem withTables_keeps {s0 : State} (r : Checked RingId) (op : Nat) (s : State) (f : List Byte → State → State) (hs : Keeps s0 s) (hf : ∀ z0 z1, Keeps s0 z1 → Keeps s0 (f z0 z1)) : Keeps s0 (withTables r op s f) := by
  unfold withTables
  repeat' first
    | with_reducible first
        | assumption | apply hf | apply withCommand_keeps | apply recordFault_keeps | apply reject_keeps | apply tablesFail_keeps | apply ite_keeps
        | apply State.tile_keeps (s0 := s0)
    | dsimp only | split | intro _

theorem bindChan_keeps {s0 : State} (c : Ctx) (a : ChanEnt) (p : Ctx) (s : State) (hs : Keeps s0 s) : Keeps s0 (bindChan c a p s) := by
  unfold bindChan
  repeat' first
    | with_reducible first
        | assumption | apply State.modTile_keeps | apply And.intro | apply Keeps.hbm (s0 := s0) | apply Keeps.hostMem (s0 := s0)
        | apply Keeps.tiles (s0 := s0) | apply Keeps.sec | apply Keeps.boot | apply Keeps.pending | apply Keeps.fresh
        | apply State.tile_keeps (s0 := s0) | apply Tile.memOk.store | apply ite_keeps
    | dsimp only | simp only [Keeps_mk] | simp only [Tile.memOk_mk] | split | intro _

theorem bindContext_keeps {s0 : State} (n : Nat) (s : State) (hs : Keeps s0 s) : Keeps s0 (bindContext n s) := by
  unfold bindContext
  repeat' first
    | with_reducible first
        | assumption | apply forAll_keeps | apply bindChan_keeps | apply And.intro | apply Keeps.hbm (s0 := s0) | apply Keeps.hostMem (s0 := s0)
        | apply Keeps.tiles (s0 := s0) | apply Keeps.sec | apply Keeps.boot | apply Keeps.pending | apply Keeps.fresh
        | apply State.tile_keeps (s0 := s0) | apply Tile.memOk.store | apply ite_keeps
    | dsimp only | simp only [Keeps_mk] | simp only [Tile.memOk_mk] | split | intro _

theorem Tile.install_keeps (x : Tile) (c : Ctx) (len : Nat) (code : List Byte) (hx : x.memOk) : (Tile.install x c len code).memOk := by
  unfold Tile.install
  repeat' first
    | with_reducible first
        | assumption | apply foldl_keeps | apply foldlState_keeps | apply And.intro | apply Memory.wf_memWrite | apply Keeps.hbm (s0 := s0)
        | apply Keeps.hostMem (s0 := s0) | apply Keeps.tiles (s0 := s0) | apply Keeps.sec | apply Keeps.boot | apply Keeps.pending
        | apply Keeps.fresh | apply Keeps.fresh1 | apply secOk.nOp | apply secOk.nOwn | apply secOk.nCeil | apply secOk.nDebug | apply secOk.nonces
        | apply bootOk.floors | apply Tile.memOk.store | apply State.tile_keeps (s0 := s0) | apply tilesOk_sset | apply tilesOk_map
        | apply Memory.wf_filter | apply Memory.wf_memPut | apply foldlSnd_keeps | apply ite_keeps | apply ite_optKeeps | apply foldlThd_keeps
        | apply foldlMem_wf | apply Memory.wf_empty | apply tilesOk_empty | apply Tile.memOk_default
    | dsimp only | simp only [optKeeps_none, optKeeps_some, optTileOk_none, optTileOk_some, optPairKeeps_none, optPairKeeps_some]
    | simp only [Keeps_mk] | simp only [Tile.memOk_mk] | simp only [secOk_mk] | simp only [bootOk_mk] | split | intro _

theorem takeCaches_keeps {s0 : State} (n : Nat) (c : Ctx) (s : State) (hs : Keeps s0 s) : Keeps s0 (takeCaches n c s) := by
  unfold takeCaches
  repeat' first
    | with_reducible first
        | assumption | apply forAll_keeps | apply State.modCluster_keeps | apply ite_keeps | apply State.tile_keeps (s0 := s0)
    | dsimp only | split | intro _

theorem loadContext_keeps {s0 : State} (n : Nat) (image : List Byte) (s : State) (hs : Keeps s0 s) : Keeps s0 (loadContext n image s) := by
  unfold loadContext
  repeat' first
    | with_reducible first
        | assumption | apply forAll_keeps | apply State.modTile_keeps | apply Tile.install_keeps | apply bindContext_keeps | apply takeCaches_keeps
        | apply ite_keeps | apply State.tile_keeps (s0 := s0)
    | dsimp only | split | intro _

theorem stopStreams_keeps {s0 : State} (n : Nat) (ts : List Nat) (s : State) (hs : Keeps s0 s) : Keeps s0 (stopStreams n ts s) := by
  unfold stopStreams
  repeat' first
    | with_reducible first
        | assumption | apply forAll_keeps | apply stopStream_keeps | apply ite_keeps | apply State.tile_keeps (s0 := s0)
    | dsimp only | split | intro _

theorem execDestroyContext_keeps {s0 : State} (r : RingId) (s : State) (hs : Keeps s0 s) : OutcomeKeeps s0 (execDestroyContext r s) := by
  unfold execDestroyContext
  repeat' first
    | with_reducible first
        | assumption | apply OutcomeKeeps_next | apply withCommand_keeps | apply reject_keeps | apply stopStreams_keeps | apply State.modCtx_keeps
        | apply ite_keeps | apply State.tile_keeps (s0 := s0)
    | dsimp only | split | intro _

theorem unbind_keeps {s0 : State} (c : Ctx) (recv : Bool) (s : State) (hs : Keeps s0 s) : Keeps s0 (unbind c recv s) := by
  unfold unbind
  repeat' first
    | with_reducible first
        | assumption | apply forAll_keeps | apply State.modTile_keeps | apply And.intro | apply Keeps.hbm (s0 := s0) | apply Keeps.hostMem (s0 := s0)
        | apply Keeps.tiles (s0 := s0) | apply Keeps.sec | apply Keeps.boot | apply Keeps.pending | apply Keeps.fresh
        | apply State.tile_keeps (s0 := s0) | apply Tile.memOk.store | apply ite_keeps
    | dsimp only | simp only [Keeps_mk] | simp only [Tile.memOk_mk] | split | intro _

theorem Tile.unmap_keeps (x : Tile) (n : Nat) (c : Ctx) (hx : x.memOk) : (Tile.unmap x n c).memOk := by
  unfold Tile.unmap
  repeat' first
    | with_reducible first
        | assumption | apply And.intro | apply Keeps.hbm (s0 := s0) | apply Keeps.hostMem (s0 := s0) | apply Keeps.tiles (s0 := s0) | apply Keeps.sec
        | apply Keeps.boot | apply Keeps.pending | apply Keeps.fresh | apply State.tile_keeps (s0 := s0) | apply Tile.memOk.store | apply ite_keeps
    | dsimp only | simp only [Keeps_mk] | simp only [Tile.memOk_mk] | split | intro _

theorem removeContext_keeps {s0 : State} (n : Nat) (c : Ctx) (s : State) (hs : Keeps s0 s) : Keeps s0 (removeContext n c s) := by
  unfold removeContext
  repeat' first
    | with_reducible first
        | assumption | apply forAll_keeps | apply State.modTile_keeps | apply Tile.unmap_keeps | apply And.intro | apply Keeps.hbm (s0 := s0)
        | apply Keeps.hostMem (s0 := s0) | apply Keeps.tiles (s0 := s0) | apply Keeps.sec | apply Keeps.boot | apply Keeps.pending
        | apply Keeps.fresh | apply State.tile_keeps (s0 := s0) | apply Tile.memOk.store | apply ite_keeps
    | dsimp only | simp only [Keeps_mk] | simp only [Tile.memOk_mk] | split | intro _

/-! ### Machine/Schedule.lean -/

theorem modTask_keeps {s0 : State} (g i : Nat) (f : Task → Task) (s : State) (hs : Keeps s0 s) : Keeps s0 (modTask g i f s) := by
  unfold modTask
  repeat' first
    | with_reducible first
        | assumption | apply State.modGraph_keeps | apply ite_keeps | apply State.tile_keeps (s0 := s0)
    | dsimp only | split | intro _

theorem failGraph_keeps {s0 : State} (g i n fc : Nat) (s : State) (hs : Keeps s0 s) : Keeps s0 (failGraph g i n fc s) := by
  unfold failGraph
  repeat' first
    | with_reducible first
        | assumption | apply State.modGraph_keeps | apply postEvent_keeps | apply And.intro | apply Keeps.hbm (s0 := s0)
        | apply Keeps.hostMem (s0 := s0) | apply Keeps.tiles (s0 := s0) | apply Keeps.sec | apply Keeps.boot | apply Keeps.pending
        | apply Keeps.fresh | apply State.tile_keeps (s0 := s0) | apply Tile.memOk.store | apply ite_keeps
    | dsimp only | simp only [Keeps_mk] | simp only [Tile.memOk_mk] | split | intro _

theorem settleCancel_keeps {s0 : State} (s : State) (hs : Keeps s0 s) : Keeps s0 (settleCancel s) := by
  unfold settleCancel
  repeat' first
    | with_reducible first
        | assumption | apply And.intro | apply Keeps.hbm (s0 := s0) | apply Keeps.hostMem (s0 := s0) | apply Keeps.tiles (s0 := s0) | apply Keeps.sec
        | apply Keeps.boot | apply Keeps.pending | apply Keeps.fresh | apply State.tile_keeps (s0 := s0) | apply Tile.memOk.store | apply ite_keeps
    | dsimp only | simp only [Keeps_mk] | simp only [Tile.memOk_mk] | split | intro _

theorem taskDone_keeps {s0 : State} (g i : Nat) (s : State) (hs : Keeps s0 s) : Keeps s0 (taskDone g i s) := by
  unfold taskDone
  repeat' first
    | with_reducible first
        | assumption | apply modTask_keeps | apply postEvent_keeps | apply failGraph_keeps | apply recordFault_keeps | apply State.modGraph_keeps
        | apply complete_keeps | apply ite_keeps | apply State.tile_keeps (s0 := s0)
    | dsimp only | split | intro _

theorem zeroTasks_keeps {s0 : State}  : ∀ (a0 : Nat) (a1 : State), Keeps s0 a1 → Keeps s0 (zeroTasks a0 a1) := by
  intro a0
  induction a0 with
  | zero =>
    intros
    assumption
  | succ n ih =>
    intros
    unfold zeroTasks
    repeat' first
      | with_reducible first
          | assumption | apply taskDone_keeps | apply ite_keeps | apply State.tile_keeps (s0 := s0) | apply ih
      | dsimp only | split | intro _

theorem Tile.leave_keeps (x : Tile) (k : Nat) (hx : x.memOk) : (Tile.leave x k).memOk := by
  unfold Tile.leave
  repeat' first
    | with_reducible first
        | assumption | apply And.intro | apply Keeps.hbm (s0 := s0) | apply Keeps.hostMem (s0 := s0) | apply Keeps.tiles (s0 := s0) | apply Keeps.sec
        | apply Keeps.boot | apply Keeps.pending | apply Keeps.fresh | apply State.tile_keeps (s0 := s0) | apply Tile.memOk.store | apply ite_keeps
    | dsimp only | simp only [Keeps_mk] | simp only [Tile.memOk_mk] | split | intro _

theorem Tile.spillOut_keeps (x : Tile) (k : Nat) (e : MapEntry) (hx : x.memOk) : (Tile.spillOut x k e).memOk := by
  unfold Tile.spillOut
  repeat' first
    | with_reducible first
        | assumption | apply foldl_keeps | apply foldlState_keeps | apply Tile.writeAt_keeps | apply And.intro | apply Keeps.hbm (s0 := s0)
        | apply Keeps.hostMem (s0 := s0) | apply Keeps.tiles (s0 := s0) | apply Keeps.sec | apply Keeps.boot | apply Keeps.pending
        | apply Keeps.fresh | apply State.tile_keeps (s0 := s0) | apply Tile.memOk.store | apply ite_keeps
    | dsimp only | simp only [Keeps_mk] | simp only [Tile.memOk_mk] | split | intro _

theorem switchOut_keeps {s0 : State} (t : Nat) (s : State) (hs : Keeps s0 s) : Keeps s0 (switchOut t s).2 := by
  unfold switchOut
  repeat' first
    | with_reducible first
        | assumption | apply Tile.leave_keeps | apply State.setTile_keeps | apply working_keeps | apply Tile.spillOut_keeps | apply And.intro
        | apply Memory.wf_memWrite | apply Keeps.hbm (s0 := s0) | apply Keeps.hostMem (s0 := s0) | apply Keeps.tiles (s0 := s0) | apply Keeps.sec
        | apply Keeps.boot | apply Keeps.pending | apply Keeps.fresh | apply Keeps.fresh1 | apply secOk.nOp | apply secOk.nOwn | apply secOk.nCeil
        | apply secOk.nDebug | apply secOk.nonces | apply bootOk.floors | apply Tile.memOk.store | apply State.tile_keeps (s0 := s0)
        | apply tilesOk_sset | apply tilesOk_map | apply Memory.wf_filter | apply Memory.wf_memPut | apply foldlSnd_keeps | apply ite_keeps
        | apply ite_optKeeps | apply foldlThd_keeps | apply foldlMem_wf | apply Memory.wf_empty | apply tilesOk_empty | apply Tile.memOk_default
    | dsimp only | simp only [optKeeps_none, optKeeps_some, optTileOk_none, optTileOk_some, optPairKeeps_none, optPairKeeps_some]
    | simp only [Keeps_mk] | simp only [Tile.memOk_mk] | simp only [secOk_mk] | simp only [bootOk_mk] | split | intro _

theorem switchOut_keeps_eq {s0 : State} {t : Nat} {s : State} {u : State} {ret0 : Nat} (hs : Keeps s0 s) (eq0 : switchOut t s = (ret0, u)) : Keeps s0 u := by
  have := switchOut_keeps t s hs
  rw [eq0] at this
  exact this

theorem switchIn_keeps {s0 : State} (t : Nat) (c : Ctx) (s : State) (hs : Keeps s0 s) : Keeps s0 (switchIn t c s).2 := by
  unfold switchIn
  repeat' first
    | with_reducible first
        | assumption | apply Tile.setStall_keeps | apply State.setTile_keeps | apply And.intro | apply Keeps.hbm (s0 := s0)
        | apply Keeps.hostMem (s0 := s0) | apply Keeps.tiles (s0 := s0) | apply Keeps.sec | apply Keeps.boot | apply Keeps.pending
        | apply Keeps.fresh | apply State.tile_keeps (s0 := s0) | apply Tile.memOk.store | apply ite_keeps
    | dsimp only | simp only [Keeps_mk] | simp only [Tile.memOk_mk] | split | intro _

theorem switchIn_keeps_eq {s0 : State} {t : Nat} {c : Ctx} {s : State} {u : State} {ret0 : Nat} (hs : Keeps s0 s) (eq0 : switchIn t c s = (ret0, u)) : Keeps s0 u := by
  have := switchIn_keeps t c s hs
  rw [eq0] at this
  exact this

theorem resumeEcc_keeps {s0 : State} (c : Ctx) (f : Checked (TileId × Fin 656)) (s : State) (hs : Keeps s0 s) : Keeps s0 (resumeEcc c f s) := by
  unfold resumeEcc
  repeat' first
    | with_reducible first
        | assumption | apply State.modTile_keeps | apply Tile.oweBack_keeps | (refine tileEcc_keeps_eq ?_ (by assumption))
        | (refine tileEcc_keeps_some ?_ (by assumption)) | apply ite_keeps | apply State.tile_keeps (s0 := s0)
    | dsimp only | split | intro _

theorem switchResume_keeps {s0 : State} (t : Nat) (n : Nat) (c : Ctx) (s : State) (hs : Keeps s0 s) : Keeps s0 (switchResume t n c s) := by
  unfold switchResume
  repeat' first
    | with_reducible first
        | assumption | apply ctxFault_keeps | apply working_keeps | apply State.setTile_keeps | apply And.intro | apply Keeps.hbm (s0 := s0)
        | apply Keeps.hostMem (s0 := s0) | apply Keeps.tiles (s0 := s0) | apply Keeps.sec | apply Keeps.boot | apply Keeps.pending
        | apply Keeps.fresh | apply State.tile_keeps (s0 := s0) | apply Tile.memOk.store | apply ite_keeps
    | dsimp only | simp only [Keeps_mk] | simp only [Tile.memOk_mk] | split | intro _

theorem lightFor_keeps {s0 : State} (c : Ctx) (s : State) (hs : Keeps s0 s) : Keeps s0 (lightFor c s) := by
  unfold lightFor
  repeat' first
    | with_reducible first
        | assumption | apply forAll_keeps | apply State.modRegion_keeps | apply ite_keeps | apply State.tile_keeps (s0 := s0)
    | dsimp only | split | intro _

theorem startTask_keeps {s0 : State} (r : Ready) (c : Ctx) (o : Outgoing) (s : State) (hs : Keeps s0 s) : Keeps s0 (startTask r c o s) := by
  unfold startTask
  repeat' first
    | with_reducible first
        | assumption | apply foldl_keeps | apply foldlState_keeps | apply switchIn_keeps | apply State.modCtx_keeps | apply modTask_keeps
        | (refine switchIn_keeps_eq ?_ (by assumption)) | apply And.intro | apply Memory.wf_memWrite | apply Keeps.hbm (s0 := s0)
        | apply Keeps.hostMem (s0 := s0) | apply Keeps.tiles (s0 := s0) | apply Keeps.sec | apply Keeps.boot | apply Keeps.pending
        | apply Keeps.fresh | apply Keeps.fresh1 | apply secOk.nOp | apply secOk.nOwn | apply secOk.nCeil | apply secOk.nDebug | apply secOk.nonces
        | apply bootOk.floors | apply Tile.memOk.store | apply State.tile_keeps (s0 := s0) | apply tilesOk_sset | apply tilesOk_map
        | apply Memory.wf_filter | apply Memory.wf_memPut | apply foldlSnd_keeps | apply ite_keeps | apply ite_optKeeps | apply foldlThd_keeps
        | apply foldlMem_wf | apply Memory.wf_empty | apply tilesOk_empty | apply Tile.memOk_default
    | dsimp only | simp only [optKeeps_none, optKeeps_some, optTileOk_none, optTileOk_some, optPairKeeps_none, optPairKeeps_some]
    | simp only [Keeps_mk] | simp only [Tile.memOk_mk] | simp only [secOk_mk] | simp only [bootOk_mk] | split | intro _

theorem placeTasks_keeps {s0 : State} (o : Outgoing) : ∀ (a0 : List Ready) (a1 : List Nat) (a2 : State), Keeps s0 a2 → Keeps s0 (placeTasks o a0 a1 a2) := by
  intro a0
  induction a0 with
  | nil =>
    intros
    unfold placeTasks
    repeat' first
      | with_reducible first
          | assumption | apply lightFor_keeps | apply startTask_keeps | apply ite_keeps | apply State.tile_keeps (s0 := s0) | apply ih
      | dsimp only | split | intro _
  | cons r rs ih =>
    intros
    unfold placeTasks
    repeat' first
      | with_reducible first
          | assumption | apply lightFor_keeps | apply startTask_keeps | apply ite_keeps | apply State.tile_keeps (s0 := s0) | apply ih
      | dsimp only | split | intro _

theorem settleStates_keeps {s0 : State} (s : State) (hs : Keeps s0 s) : Keeps s0 (settleStates s) := by
  unfold settleStates
  repeat' first
    | with_reducible first
        | assumption | apply And.intro | apply Keeps.hbm (s0 := s0) | apply Keeps.hostMem (s0 := s0) | apply Keeps.tiles (s0 := s0) | apply Keeps.sec
        | apply Keeps.boot | apply Keeps.pending | apply Keeps.fresh | apply State.tile_keeps (s0 := s0) | apply Tile.memOk.store | apply ite_keeps
    | dsimp only | simp only [Keeps_mk] | simp only [Tile.memOk_mk] | split | intro _

theorem scheduleFrom_keeps {s0 : State} (o : Outgoing) (s : State) (hs : Keeps s0 s) : Keeps s0 (scheduleFrom o s) := by
  unfold scheduleFrom
  repeat' first
    | with_reducible first
        | assumption | apply settleCancel_keeps | apply zeroTasks_keeps | apply placeTasks_keeps | apply settleStates_keeps | apply ite_keeps
        | apply State.tile_keeps (s0 := s0)
    | dsimp only | split | intro _

theorem schedule_keeps {s0 : State} (s : State) (hs : Keeps s0 s) : Keeps s0 (schedule s) := by
  unfold schedule
  repeat' first
    | with_reducible first
        | assumption | apply scheduleFrom_keeps | apply ite_keeps | apply State.tile_keeps (s0 := s0)
    | dsimp only | split | intro _

theorem execSubmitGraph_keeps {s0 : State} (r : Checked RingId) (s : State) (hs : Keeps s0 s) : OutcomeKeeps s0 (execSubmitGraph r s) := by
  unfold execSubmitGraph
  repeat' first
    | with_reducible first
        | assumption | apply OutcomeKeeps_next | apply withTables_keeps | apply reject_keeps | apply touchRange_keeps | apply schedule_keeps
        | apply complete_keeps | apply And.intro | apply Keeps.hbm (s0 := s0) | apply Keeps.hostMem (s0 := s0) | apply Keeps.tiles (s0 := s0)
        | apply Keeps.sec | apply Keeps.boot | apply Keeps.pending | apply Keeps.fresh | apply State.tile_keeps (s0 := s0) | apply Tile.memOk.store
        | apply ite_keeps
    | dsimp only | simp only [Keeps_mk] | simp only [Tile.memOk_mk] | split | intro _

theorem graphCommand_keeps {s0 : State} (r op : Nat) (s : State) (bad : Graph → Bool) (f : Graph → Graph) (hs : Keeps s0 s) : Keeps s0 (graphCommand r op s bad f) := by
  unfold graphCommand
  repeat' first
    | with_reducible first
        | assumption | apply withCommand_keeps | apply reject_keeps | apply schedule_keeps | apply accept_keeps | apply State.modGraph_keeps
        | apply ite_keeps | apply State.tile_keeps (s0 := s0)
    | dsimp only | split | intro _

theorem execCancelGraph_keeps {s0 : State} (r : RingId) (s : State) (hs : Keeps s0 s) : OutcomeKeeps s0 (execCancelGraph r s) := by
  unfold execCancelGraph
  repeat' first
    | with_reducible first
        | assumption | apply OutcomeKeeps_next | apply graphCommand_keeps | apply ite_keeps | apply State.tile_keeps (s0 := s0)
    | dsimp only | split | intro _

theorem execPauseGraph_keeps {s0 : State} (r : RingId) (s : State) (hs : Keeps s0 s) : OutcomeKeeps s0 (execPauseGraph r s) := by
  unfold execPauseGraph
  repeat' first
    | with_reducible first
        | assumption | apply OutcomeKeeps_next | apply graphCommand_keeps | apply ite_keeps | apply State.tile_keeps (s0 := s0)
    | dsimp only | split | intro _

theorem execResumeGraph_keeps {s0 : State} (r : RingId) (s : State) (hs : Keeps s0 s) : OutcomeKeeps s0 (execResumeGraph r s) := by
  unfold execResumeGraph
  repeat' first
    | with_reducible first
        | assumption | apply OutcomeKeeps_next | apply graphCommand_keeps | apply ite_keeps | apply State.tile_keeps (s0 := s0)
    | dsimp only | split | intro _

theorem execCreateContext_keeps {s0 : State} (r : Checked RingId) (sigOk : Bool) (s : State) (hs : Keeps s0 s) : OutcomeKeeps s0 (execCreateContext r sigOk s) := by
  unfold execCreateContext
  repeat' first
    | with_reducible first
        | assumption | apply OutcomeKeeps_next | apply withTables_keeps | apply complete_keeps | apply touchRange_keeps | apply recordFault_keeps
        | apply State.setCtx_keeps | apply schedule_keeps | apply loadContext_keeps | apply ite_keeps | apply State.tile_keeps (s0 := s0)
    | dsimp only | split | intro _

theorem execContextMapRetry_keeps {s0 : State} (n : CtxId) (s : State) (hs : Keeps s0 s) : OutcomeKeeps s0 (execContextMapRetry n s) := by
  unfold execContextMapRetry
  repeat' first
    | with_reducible first
        | assumption | apply OutcomeKeeps_next | apply State.setCtx_keeps | apply schedule_keeps | apply complete_keeps | apply loadContext_keeps
        | apply ite_keeps | apply State.tile_keeps (s0 := s0)
    | dsimp only | split | intro _

theorem execDestroyContextComplete_keeps {s0 : State} (n : CtxId) (s : State) (hs : Keeps s0 s) : OutcomeKeeps s0 (execDestroyContextComplete n s) := by
  unfold execDestroyContextComplete
  repeat' first
    | with_reducible first
        | assumption | apply OutcomeKeeps_next | apply unbind_keeps | apply State.modCtx_keeps | apply schedule_keeps | apply complete_keeps
        | apply removeContext_keeps | apply ite_keeps | apply State.tile_keeps (s0 := s0)
    | dsimp only | split | intro _

theorem parkSettle_keeps {s0 : State} (s : State) (hs : Keeps s0 s) : Keeps s0 (parkSettle s) := by
  unfold parkSettle
  repeat' first
    | with_reducible first
        | assumption | apply forAll_keeps | apply refuseWaiting_keeps | apply State.modRegion_keeps | apply And.intro | apply Keeps.hbm (s0 := s0)
        | apply Keeps.hostMem (s0 := s0) | apply Keeps.tiles (s0 := s0) | apply Keeps.sec | apply Keeps.boot | apply Keeps.pending
        | apply Keeps.fresh | apply State.tile_keeps (s0 := s0) | apply Tile.memOk.store | apply ite_keeps
    | dsimp only | simp only [Keeps_mk] | simp only [Tile.memOk_mk] | split | intro _

theorem stopContext_keeps {s0 : State} (n fc : Nat) (s : State) (hs : Keeps s0 s) : Keeps s0 (stopContext n fc s) := by
  unfold stopContext
  repeat' first
    | with_reducible first
        | assumption | apply forAll_keeps | apply State.modTile_keeps | apply Tile.stopCtx_keeps | apply stopStreams_keeps | apply State.setCtx_keeps
        | apply schedule_keeps | apply parkSettle_keeps | apply failGraph_keeps | apply ite_keeps | apply State.tile_keeps (s0 := s0)
    | dsimp only | split | intro _

theorem execContextStop_keeps {s0 : State} (n : CtxId) (s : State) (hs : Keeps s0 s) : OutcomeKeeps s0 (execContextStop n s) := by
  unfold execContextStop
  repeat' first
    | with_reducible first
        | assumption | apply OutcomeKeeps_next | apply stopContext_keeps | apply ite_keeps | apply State.tile_keeps (s0 := s0)
    | dsimp only | split | intro _

theorem execRebase_keeps {s0 : State} (r : RingId) (s : State) (hs : Keeps s0 s) : OutcomeKeeps s0 (execRebase r s) := by
  unfold execRebase
  repeat' first
    | with_reducible first
        | assumption | apply OutcomeKeeps_next | apply withCommand_keeps | apply reject_keeps | apply accept_keeps | apply forAll_keeps
        | apply State.modTile_keeps | apply Tile.rebase_keeps | apply State.modCtx_keeps | apply And.intro | apply Keeps.hbm (s0 := s0)
        | apply Keeps.hostMem (s0 := s0) | apply Keeps.tiles (s0 := s0) | apply Keeps.sec | apply Keeps.boot | apply Keeps.pending
        | apply Keeps.fresh | apply State.tile_keeps (s0 := s0) | apply Tile.memOk.store | apply ite_keeps
    | dsimp only | simp only [Keeps_mk] | simp only [Tile.memOk_mk] | split | intro _

theorem execDefineBucket_keeps {s0 : State} (r : Checked RingId) (s : State) (hs : Keeps s0 s) : OutcomeKeeps s0 (execDefineBucket r s) := by
  unfold execDefineBucket
  repeat' first
    | with_reducible first
        | assumption | apply OutcomeKeeps_next | apply withTables_keeps | apply reject_keeps | apply accept_keeps | apply touchRange_keeps
        | apply State.setBucket_keeps | apply ite_keeps | apply State.tile_keeps (s0 := s0)
    | dsimp only | split | intro _

theorem execRemoveBucket_keeps {s0 : State} (r : RingId) (s : State) (hs : Keeps s0 s) : OutcomeKeeps s0 (execRemoveBucket r s) := by
  unfold execRemoveBucket
  repeat' first
    | with_reducible first
        | assumption | apply OutcomeKeeps_next | apply withCommand_keeps | apply reject_keeps | apply accept_keeps | apply And.intro
        | apply Keeps.hbm (s0 := s0) | apply Keeps.hostMem (s0 := s0) | apply Keeps.tiles (s0 := s0) | apply Keeps.sec | apply Keeps.boot
        | apply Keeps.pending | apply Keeps.fresh | apply State.tile_keeps (s0 := s0) | apply Tile.memOk.store | apply ite_keeps
    | dsimp only | simp only [Keeps_mk] | simp only [Tile.memOk_mk] | split | intro _

theorem execReleaseHold_keeps {s0 : State} (r : RingId) (s : State) (hs : Keeps s0 s) : OutcomeKeeps s0 (execReleaseHold r s) := by
  unfold execReleaseHold
  repeat' first
    | with_reducible first
        | assumption | apply OutcomeKeeps_next | apply withCommand_keeps | apply reject_keeps | apply schedule_keeps | apply forAll_keeps
        | apply nextRound_keeps | apply accept_keeps | apply And.intro | apply Keeps.hbm (s0 := s0) | apply Keeps.hostMem (s0 := s0)
        | apply Keeps.tiles (s0 := s0) | apply Keeps.sec | apply Keeps.boot | apply Keeps.pending | apply Keeps.fresh
        | apply State.tile_keeps (s0 := s0) | apply Tile.memOk.store | apply ite_keeps
    | dsimp only | simp only [Keeps_mk] | simp only [Tile.memOk_mk] | split | intro _

theorem execLocate_keeps {s0 : State} (r : RingId) (s : State) (hs : Keeps s0 s) : OutcomeKeeps s0 (execLocate r s) := by
  unfold execLocate
  repeat' first
    | with_reducible first
        | assumption | apply OutcomeKeeps_next | apply withCommand_keeps | apply Tile.count_keeps | apply reject_keeps | apply accept_keeps
        | apply forAll_keeps | apply State.hbmWrite_keeps | apply touchStack_keeps | apply touchRange_keeps | apply ite_keeps
        | apply State.tile_keeps (s0 := s0)
    | dsimp only | split | intro _

/-! ### Machine/Boundary.lean -/

theorem logPhase_keeps {s0 : State} (n : Nat) (c : Ctx) (s : State) (hs : Keeps s0 s) : Keeps s0 (logPhase n c s) := by
  unfold logPhase
  repeat' first
    | with_reducible first
        | assumption | apply State.modCtx_keeps | apply State.hbmWrite_keeps | apply And.intro | apply Keeps.hbm (s0 := s0)
        | apply Keeps.hostMem (s0 := s0) | apply Keeps.tiles (s0 := s0) | apply Keeps.sec | apply Keeps.boot | apply Keeps.pending
        | apply Keeps.fresh | apply State.tile_keeps (s0 := s0) | apply Tile.memOk.store | apply ite_keeps
    | dsimp only | simp only [Keeps_mk] | simp only [Tile.memOk_mk] | split | intro _

theorem endSnap_keeps {s0 : State} (i st : Nat) (s : State) (hs : Keeps s0 s) : Keeps s0 (endSnap i st s) := by
  unfold endSnap
  repeat' first
    | with_reducible first
        | assumption | apply And.intro | apply Keeps.hbm (s0 := s0) | apply Keeps.hostMem (s0 := s0) | apply Keeps.tiles (s0 := s0) | apply Keeps.sec
        | apply Keeps.boot | apply Keeps.pending | apply Keeps.fresh | apply State.tile_keeps (s0 := s0) | apply Tile.memOk.store | apply ite_keeps
    | dsimp only | simp only [Keeps_mk] | simp only [Tile.memOk_mk] | split | intro _

theorem takeSnap_keeps {s0 : State} (n : Nat) (c : Ctx) (i : Nat) (s : State) (hs : Keeps s0 s) : Keeps s0 (takeSnap n c i s) := by
  unfold takeSnap
  repeat' first
    | with_reducible first
        | assumption | apply endSnap_keeps | apply Tile.count_keeps | apply reserveRecord_keeps | apply State.hbmWrite_keeps | apply forAll_keeps
        | apply nextSeq_keeps | (refine reserveRecord_keeps_eq ?_ (by assumption)) | apply And.intro | apply Keeps.hbm (s0 := s0)
        | apply Keeps.hostMem (s0 := s0) | apply Keeps.tiles (s0 := s0) | apply Keeps.sec | apply Keeps.boot | apply Keeps.pending
        | apply Keeps.fresh | apply State.tile_keeps (s0 := s0) | apply Tile.memOk.store | apply ite_keeps
    | dsimp only | simp only [Keeps_mk] | simp only [Tile.memOk_mk] | split | intro _

theorem captureTile_keeps {s0 : State} (c : Ctx) (t : Nat) (s : State) (hs : Keeps s0 s) : Keeps s0 (captureTile c t s) := by
  unfold captureTile
  repeat' first
    | with_reducible first
        | assumption | apply imageReads_keeps | apply working_keeps | apply State.modTile_keeps | apply And.intro | apply Keeps.hbm (s0 := s0)
        | apply Keeps.hostMem (s0 := s0) | apply Keeps.tiles (s0 := s0) | apply Keeps.sec | apply Keeps.boot | apply Keeps.pending
        | apply Keeps.fresh | apply State.tile_keeps (s0 := s0) | apply Tile.memOk.store | apply ite_keeps
    | dsimp only | simp only [Keeps_mk] | simp only [Tile.memOk_mk] | split | intro _

theorem startCapture_keeps {s0 : State} (n : Nat) (c : Ctx) (s : State) (hs : Keeps s0 s) : Keeps s0 (startCapture n c s) := by
  unfold startCapture
  repeat' first
    | with_reducible first
        | assumption | apply foldl_keeps | apply foldlState_keeps | apply forAll_keeps | apply captureTile_keeps | apply State.modCtx_keeps
        | apply And.intro | apply Keeps.hbm (s0 := s0) | apply Keeps.hostMem (s0 := s0) | apply Keeps.tiles (s0 := s0) | apply Keeps.sec
        | apply Keeps.boot | apply Keeps.pending | apply Keeps.fresh | apply State.tile_keeps (s0 := s0) | apply Tile.memOk.store | apply ite_keeps
    | dsimp only | simp only [Keeps_mk] | simp only [Tile.memOk_mk] | split | intro _

theorem closeCapture_keeps {s0 : State} (n : Nat) (c : Ctx) (s : State) (hs : Keeps s0 s) : Keeps s0 (closeCapture n c s) := by
  unfold closeCapture
  repeat' first
    | with_reducible first
        | assumption | apply freeRecord_keeps | apply And.intro | apply Keeps.hbm (s0 := s0) | apply Keeps.hostMem (s0 := s0)
        | apply Keeps.tiles (s0 := s0) | apply Keeps.sec | apply Keeps.boot | apply Keeps.pending | apply Keeps.fresh
        | apply State.tile_keeps (s0 := s0) | apply Tile.memOk.store | apply ite_keeps
    | dsimp only | simp only [Keeps_mk] | simp only [Tile.memOk_mk] | split | intro _

theorem closeReplay_keeps {s0 : State} (n : Nat) (c : Ctx) (s : State) (hs : Keeps s0 s) : Keeps s0 (closeReplay n c s) := by
  unfold closeReplay
  repeat' first
    | with_reducible first
        | assumption | apply freeRecord_keeps | apply State.modCtx_keeps | apply And.intro | apply Keeps.hbm (s0 := s0)
        | apply Keeps.hostMem (s0 := s0) | apply Keeps.tiles (s0 := s0) | apply Keeps.sec | apply Keeps.boot | apply Keeps.pending
        | apply Keeps.fresh | apply State.tile_keeps (s0 := s0) | apply Tile.memOk.store | apply ite_keeps
    | dsimp only | simp only [Keeps_mk] | simp only [Tile.memOk_mk] | split | intro _

theorem withdrawStep_keeps {s0 : State} (rs : List Nat) (s : State) (hs : Keeps s0 s) : Keeps s0 (withdrawStep rs s) := by
  unfold withdrawStep
  repeat' first
    | with_reducible first
        | assumption | apply forAll_keeps | apply State.modRegion_keeps | apply ite_keeps | apply State.tile_keeps (s0 := s0)
    | dsimp only | split | intro _

theorem askAgain_keeps {s0 : State} (rs : List Nat) (s : State) (hs : Keeps s0 s) : Keeps s0 (askAgain rs s) := by
  unfold askAgain
  repeat' first
    | with_reducible first
        | assumption | apply forAll_keeps | apply State.modRegion_keeps | apply ite_keeps | apply State.tile_keeps (s0 := s0)
    | dsimp only | split | intro _

theorem releaseBoundary_keeps {s0 : State} (n : Nat) (s : State) (hs : Keeps s0 s) : Keeps s0 (releaseBoundary n s) := by
  unfold releaseBoundary
  repeat' first
    | with_reducible first
        | assumption | apply State.modTile_keeps | apply Tile.setStall_keeps | apply forAll_keeps | apply State.setCtx_keeps | apply And.intro
        | apply Keeps.hbm (s0 := s0) | apply Keeps.hostMem (s0 := s0) | apply Keeps.tiles (s0 := s0) | apply Keeps.sec | apply Keeps.boot
        | apply Keeps.pending | apply Keeps.fresh | apply State.tile_keeps (s0 := s0) | apply Tile.memOk.store | apply ite_keeps
    | dsimp only | simp only [Keeps_mk] | simp only [Tile.memOk_mk] | split | intro _

theorem staggerStep_keeps {s0 : State} (n : Nat) (s : State) (hs : Keeps s0 s) : Keeps s0 (staggerStep n s) := by
  unfold staggerStep
  repeat' first
    | with_reducible first
        | assumption | apply releaseBoundary_keeps | apply State.setCtx_keeps | apply ite_keeps | apply State.tile_keeps (s0 := s0)
    | dsimp only | split | intro _

theorem joinSteps_keeps {s0 : State} (rs : List Nat) (s : State) (hs : Keeps s0 s) : Keeps s0 (joinSteps rs s) := by
  unfold joinSteps
  repeat' first
    | with_reducible first
        | assumption | apply foldl_keeps | apply foldlState_keeps | apply forAll_keeps | apply State.modRegion_keeps | apply ite_keeps
        | apply State.tile_keeps (s0 := s0)
    | dsimp only | split | intro _

theorem grantStep_keeps {s0 : State} (rs : List Nat) (s : State) (hs : Keeps s0 s) : Keeps s0 (grantStep rs s) := by
  unfold grantStep
  repeat' first
    | with_reducible first
        | assumption | apply forAll_keeps | apply State.modRegion_keeps | apply ite_keeps | apply State.tile_keeps (s0 := s0)
    | dsimp only | split | intro _

theorem frequencyStep_keeps {s0 : State} (n : Nat) (s : State) (hs : Keeps s0 s) : Keeps s0 (frequencyStep n s) := by
  unfold frequencyStep
  repeat' first
    | with_reducible first
        | assumption | apply joinSteps_keeps | apply askAgain_keeps | apply staggerStep_keeps | apply grantStep_keeps | apply State.modCtx_keeps
        | apply ite_keeps | apply State.tile_keeps (s0 := s0)
    | dsimp only | split | intro _

theorem grantSteps_keeps {s0 : State} (s : State) (hs : Keeps s0 s) : Keeps s0 (grantSteps s) := by
  unfold grantSteps
  repeat' first
    | with_reducible first
        | assumption | apply forAll_keeps | apply grantStep_keeps | apply joinSteps_keeps | apply askAgain_keeps | apply ite_keeps
        | apply State.tile_keeps (s0 := s0)
    | dsimp only | split | intro _

theorem letGo_keeps {s0 : State} (go : Nat → State → State) (n : Nat) (s : State) (hgo : ∀ z0 z1, Keeps s0 z1 → Keeps s0 (go z0 z1)) (hs : Keeps s0 s) : Keeps s0 (letGo go n s) := by
  unfold letGo
  repeat' first
    | with_reducible first
        | assumption | apply hgo | apply State.setCtx_keeps | apply ite_keeps | apply State.tile_keeps (s0 := s0)
    | dsimp only | split | intro _

theorem leaveTiles_keeps {s0 : State} (ts : List Nat) (s : State) (hs : Keeps s0 s) : Keeps s0 (leaveTiles ts s).2 := by
  unfold leaveTiles
  repeat' first
    | with_reducible first
        | assumption | apply foldl_keeps | apply foldlState_keeps | apply switchOut_keeps | (refine switchOut_keeps_eq ?_ (by assumption))
        | apply And.intro | apply Memory.wf_memWrite | apply Keeps.hbm (s0 := s0) | apply Keeps.hostMem (s0 := s0) | apply Keeps.tiles (s0 := s0)
        | apply Keeps.sec | apply Keeps.boot | apply Keeps.pending | apply Keeps.fresh | apply Keeps.fresh1 | apply secOk.nOp | apply secOk.nOwn
        | apply secOk.nCeil | apply secOk.nDebug | apply secOk.nonces | apply bootOk.floors | apply Tile.memOk.store
        | apply State.tile_keeps (s0 := s0) | apply tilesOk_sset | apply tilesOk_map | apply Memory.wf_filter | apply Memory.wf_memPut
        | apply foldlSnd_keeps | apply ite_keeps | apply ite_optKeeps | apply foldlThd_keeps | apply foldlMem_wf | apply Memory.wf_empty
        | apply tilesOk_empty | apply Tile.memOk_default
    | dsimp only | simp only [optKeeps_none, optKeeps_some, optTileOk_none, optTileOk_some, optPairKeeps_none, optPairKeeps_some]
    | simp only [Keeps_mk] | simp only [Tile.memOk_mk] | simp only [secOk_mk] | simp only [bootOk_mk] | split | intro _

theorem leaveTiles_keeps_eq {s0 : State} {ts : List Nat} {s : State} {u : State} {ret0 : List (Nat × Nat)} (hs : Keeps s0 s) (eq0 : leaveTiles ts s = (ret0, u)) : Keeps s0 u := by
  have := leaveTiles_keeps ts s hs
  rw [eq0] at this
  exact this

theorem switchAway_keeps {s0 : State} (n : Nat) (c : Ctx) (s : State) (hs : Keeps s0 s) : Keeps s0 (switchAway n c s) := by
  unfold switchAway
  repeat' first
    | with_reducible first
        | assumption | apply ctxFault_keeps | apply leaveTiles_keeps | apply parkSettle_keeps | apply State.modCtx_keeps | apply scheduleFrom_keeps
        | apply foldl_keeps | apply foldlState_keeps | (refine leaveTiles_keeps_eq ?_ (by assumption)) | apply And.intro | apply Keeps.hbm (s0 := s0)
        | apply Keeps.hostMem (s0 := s0) | apply Keeps.tiles (s0 := s0) | apply Keeps.sec | apply Keeps.boot | apply Keeps.pending
        | apply Keeps.fresh | apply State.tile_keeps (s0 := s0) | apply Tile.memOk.store | apply ite_keeps
    | dsimp only | simp only [Keeps_mk] | simp only [Tile.memOk_mk] | split | intro _

theorem endSuperstep_keeps {s0 : State} (n : Nat) (c : Ctx) (depOk : Bool) (s : State) (hs : Keeps s0 s) : Keeps s0 (endSuperstep n c depOk s) := by
  unfold endSuperstep
  repeat' first
    | with_reducible first
        | assumption | apply State.setCtx_keeps | apply closeReplay_keeps | apply State.modCtx_keeps | apply taskDone_keeps | apply forAll_keeps
        | apply modTask_keeps | apply ite_keeps | apply State.tile_keeps (s0 := s0)
    | dsimp only | split | intro _

theorem boundaryRest_keeps {s0 : State} (n : Nat) (depOk : Bool) (s : State) (hs : Keeps s0 s) : Keeps s0 (boundaryRest n depOk s) := by
  unfold boundaryRest
  repeat' first
    | with_reducible first
        | assumption | apply holdCtx_keeps | apply endSuperstep_keeps | apply zeroTasks_keeps | apply switchAway_keeps | apply modTask_keeps
        | apply State.setCtx_keeps | apply schedule_keeps | apply frequencyStep_keeps | apply ite_keeps | apply State.tile_keeps (s0 := s0)
    | dsimp only | split | intro _

theorem execBoundaryActions_keeps {s0 : State} (n : CtxId) (badNode : Option (Fin 96)) (depOk : Bool) (s : State) (hs : Keeps s0 s) : OutcomeKeeps s0 (execBoundaryActions n badNode depOk s) := by
  unfold execBoundaryActions
  repeat' first
    | with_reducible first
        | assumption | apply OutcomeKeeps_next | apply maskMismatch_keeps | apply logPhase_keeps | apply startCapture_keeps
        | apply closeCapture_keeps | apply forAll_keeps | apply takeSnap_keeps | apply State.modCtx_keeps | apply boundaryRest_keeps
        | apply ite_keeps | apply State.tile_keeps (s0 := s0)
    | dsimp only | split | intro _

theorem execSnapshotComplete_keeps {s0 : State} (n : CtxId) (depOk : Bool) (s : State) (hs : Keeps s0 s) : OutcomeKeeps s0 (execSnapshotComplete n depOk s) := by
  unfold execSnapshotComplete
  repeat' first
    | with_reducible first
        | assumption | apply OutcomeKeeps_next | apply boundaryRest_keeps | apply State.modCtx_keeps | apply And.intro | apply Keeps.hbm (s0 := s0)
        | apply Keeps.hostMem (s0 := s0) | apply Keeps.tiles (s0 := s0) | apply Keeps.sec | apply Keeps.boot | apply Keeps.pending
        | apply Keeps.fresh | apply State.tile_keeps (s0 := s0) | apply Tile.memOk.store | apply ite_keeps
    | dsimp only | simp only [Keeps_mk] | simp only [Tile.memOk_mk] | split | intro _

theorem execContextSwitchComplete_keeps {s0 : State} (q : SwitchEnd) (s : State) (hs : Keeps s0 s) : OutcomeKeeps s0 (execContextSwitchComplete q s) := by
  unfold execContextSwitchComplete
  repeat' first
    | with_reducible first
        | assumption | apply OutcomeKeeps_next | apply ctxFault_keeps | apply forAll_keeps | apply resumeEcc_keeps | apply switchResume_keeps
        | apply frequencyStep_keeps | apply ite_keeps | apply State.tile_keeps (s0 := s0)
    | dsimp only | split | intro _

theorem execStepChangeComplete_keeps {s0 : State} (r : RegionId) (s : State) (hs : Keeps s0 s) : OutcomeKeeps s0 (execStepChangeComplete r s) := by
  unfold execStepChangeComplete
  repeat' first
    | with_reducible first
        | assumption | apply OutcomeKeeps_next | apply forAll_keeps | apply State.modRegion_keeps | apply schedule_keeps | apply letGo_keeps
        | apply staggerStep_keeps | apply State.modCtx_keeps | apply And.intro | apply Keeps.hbm (s0 := s0) | apply Keeps.hostMem (s0 := s0)
        | apply Keeps.tiles (s0 := s0) | apply Keeps.sec | apply Keeps.boot | apply Keeps.pending | apply Keeps.fresh
        | apply State.tile_keeps (s0 := s0) | apply Tile.memOk.store | apply ite_keeps
    | dsimp only | simp only [Keeps_mk] | simp only [Tile.memOk_mk] | split | intro _

theorem execStepHoldTimeout_keeps {s0 : State} (r : RegionId) (s : State) (hs : Keeps s0 s) : OutcomeKeeps s0 (execStepHoldTimeout r s) := by
  unfold execStepHoldTimeout
  repeat' first
    | with_reducible first
        | assumption | apply OutcomeKeeps_next | apply forAll_keeps | apply letGo_keeps | apply staggerStep_keeps | apply withdrawStep_keeps
        | apply ite_keeps | apply State.tile_keeps (s0 := s0)
    | dsimp only | split | intro _

theorem alignRelease_keeps {s0 : State} (n : Nat) (s : State) (hs : Keeps s0 s) : Keeps s0 (alignRelease n s) := by
  unfold alignRelease
  repeat' first
    | with_reducible first
        | assumption | apply releaseBoundary_keeps | apply State.modCtx_keeps | apply ite_keeps | apply State.tile_keeps (s0 := s0)
    | dsimp only | split | intro _

theorem execStaggerTargetReached_keeps {s0 : State} (s : State) (hs : Keeps s0 s) : OutcomeKeeps s0 (execStaggerTargetReached s) := by
  unfold execStaggerTargetReached
  repeat' first
    | with_reducible first
        | assumption | apply OutcomeKeeps_next | apply forAll_keeps | apply alignRelease_keeps | apply letGo_keeps | apply staggerStep_keeps
        | apply withdrawStep_keeps | apply And.intro | apply Keeps.hbm (s0 := s0) | apply Keeps.hostMem (s0 := s0) | apply Keeps.tiles (s0 := s0)
        | apply Keeps.sec | apply Keeps.boot | apply Keeps.pending | apply Keeps.fresh | apply State.tile_keeps (s0 := s0) | apply Tile.memOk.store
        | apply ite_keeps
    | dsimp only | simp only [Keeps_mk] | simp only [Tile.memOk_mk] | split | intro _

end Sys2Proof.Machine
end

