-- ==== Sys2Proof/Laws/KeepsPackage.lean ====
section
/-! SUPPORT. What the package keeps: cadence, power, links, roles, start-up and update. One lemma per function (see Laws/Keeps.lean for the relation), each said of any later state of the same run. -/

namespace Sys2Proof.Machine

/-! ### Machine/Cadence.lean -/

theorem flagTally_keeps {s0 : State} (f : Nat) (s : State) (hs : Keeps s0 s) : Keeps s0 (flagTally f s) := by
  unfold flagTally
  repeat' first
    | with_reducible first
        | assumption | apply And.intro | apply Keeps.hbm (s0 := s0) | apply Keeps.hostMem (s0 := s0) | apply Keeps.tiles (s0 := s0) | apply Keeps.sec
        | apply Keeps.boot | apply Keeps.pending | apply Keeps.fresh | apply State.tile_keeps (s0 := s0) | apply Tile.memOk.store | apply ite_keeps
    | dsimp only | simp only [Keeps_mk] | simp only [Tile.memOk_mk] | split | intro _

theorem State.modSlot_keeps {s0 : State} (s : State) (n : Nat) (f : Slot → Slot) (hs : Keeps s0 s) : Keeps s0 (State.modSlot s n f) := by
  unfold State.modSlot
  repeat' first
    | with_reducible first
        | assumption | apply And.intro | apply Keeps.hbm (s0 := s0) | apply Keeps.hostMem (s0 := s0) | apply Keeps.tiles (s0 := s0) | apply Keeps.sec
        | apply Keeps.boot | apply Keeps.pending | apply Keeps.fresh | apply State.tile_keeps (s0 := s0) | apply Tile.memOk.store | apply ite_keeps
    | dsimp only | simp only [Keeps_mk] | simp only [Tile.memOk_mk] | split | intro _

theorem fireSlot_keeps {s0 : State} (k : Nat) (s : State) (hs : Keeps s0 s) : Keeps s0 (fireSlot k s) := by
  unfold fireSlot
  repeat' first
    | with_reducible first
        | assumption | apply State.modSlot_keeps | apply ite_keeps | apply State.tile_keeps (s0 := s0)
    | dsimp only | split | intro _

theorem tickSlot_keeps {s0 : State} (k : Nat) (s : State) (hs : Keeps s0 s) : Keeps s0 (tickSlot k s) := by
  unfold tickSlot
  repeat' first
    | with_reducible first
        | assumption | apply Tile.count_keeps | apply fireSlot_keeps | apply State.modSlot_keeps | apply And.intro | apply Keeps.hbm (s0 := s0)
        | apply Keeps.hostMem (s0 := s0) | apply Keeps.tiles (s0 := s0) | apply Keeps.sec | apply Keeps.boot | apply Keeps.pending
        | apply Keeps.fresh | apply State.tile_keeps (s0 := s0) | apply Tile.memOk.store | apply ite_keeps
    | dsimp only | simp only [Keeps_mk] | simp only [Tile.memOk_mk] | split | intro _

theorem fireSlots_keeps {s0 : State} (s : State) (hs : Keeps s0 s) : Keeps s0 (fireSlots s) := by
  unfold fireSlots
  repeat' first
    | with_reducible first
        | assumption | apply forAll_keeps | apply Tile.count_keeps | apply tickSlot_keeps | apply ite_keeps | apply State.tile_keeps (s0 := s0)
    | dsimp only | split | intro _

theorem onSlot_keeps {s0 : State} (k : Nat) (s : State) (f : State → State) (hs : Keeps s0 s) (hf : ∀ z0, Keeps s0 z0 → Keeps s0 (f z0)) : Keeps s0 (onSlot k s f) := by
  unfold onSlot
  repeat' first
    | with_reducible first
        | assumption | apply hf | apply State.modSlot_keeps | apply ite_keeps | apply State.tile_keeps (s0 := s0)
    | dsimp only | split | intro _

theorem cadenceCheck_keeps {s0 : State} (mark : Bool) (s : State) (hs : Keeps s0 s) : Keeps s0 (cadenceCheck mark s) := by
  unfold cadenceCheck
  repeat' first
    | with_reducible first
        | assumption | apply flagTally_keeps | apply recordFault_keeps | apply And.intro | apply Keeps.hbm (s0 := s0)
        | apply Keeps.hostMem (s0 := s0) | apply Keeps.tiles (s0 := s0) | apply Keeps.sec | apply Keeps.boot | apply Keeps.pending
        | apply Keeps.fresh | apply State.tile_keeps (s0 := s0) | apply Tile.memOk.store | apply ite_keeps
    | dsimp only | simp only [Keeps_mk] | simp only [Tile.memOk_mk] | split | intro _

theorem sendCadence_keeps {s0 : State} (n prev : Nat) (s : State) (hs : Keeps s0 s) : Keeps s0 (sendCadence n prev s) := by
  unfold sendCadence
  repeat' first
    | with_reducible first
        | assumption | apply cadenceCheck_keeps | apply forAll_keeps | apply sendWord_keeps | apply And.intro | apply Keeps.hbm (s0 := s0)
        | apply Keeps.hostMem (s0 := s0) | apply Keeps.tiles (s0 := s0) | apply Keeps.sec | apply Keeps.boot | apply Keeps.pending
        | apply Keeps.fresh | apply State.tile_keeps (s0 := s0) | apply Tile.memOk.store | apply ite_keeps
    | dsimp only | simp only [Keeps_mk] | simp only [Tile.memOk_mk] | split | intro _

theorem openMinute_keeps {s0 : State} (n : Nat) (s : State) (hs : Keeps s0 s) : Keeps s0 (openMinute n s) := by
  unfold openMinute
  repeat' first
    | with_reducible first
        | assumption | apply sendCadence_keeps | apply fireSlot_keeps | apply And.intro | apply Keeps.hbm (s0 := s0) | apply Keeps.hostMem (s0 := s0)
        | apply Keeps.tiles (s0 := s0) | apply Keeps.sec | apply Keeps.boot | apply Keeps.pending | apply Keeps.fresh
        | apply State.tile_keeps (s0 := s0) | apply Tile.memOk.store | apply ite_keeps
    | dsimp only | simp only [Keeps_mk] | simp only [Tile.memOk_mk] | split | intro _

theorem closeMinute_keeps {s0 : State} (n flags : Nat) (s : State) (hs : Keeps s0 s) : Keeps s0 (closeMinute n flags s) := by
  unfold closeMinute
  repeat' first
    | with_reducible first
        | assumption | apply flagTally_keeps | apply sendCadence_keeps | apply fireSlot_keeps | apply And.intro | apply Keeps.hbm (s0 := s0)
        | apply Keeps.hostMem (s0 := s0) | apply Keeps.tiles (s0 := s0) | apply Keeps.sec | apply Keeps.boot | apply Keeps.pending
        | apply Keeps.fresh | apply State.tile_keeps (s0 := s0) | apply Tile.memOk.store | apply ite_keeps
    | dsimp only | simp only [Keeps_mk] | simp only [Tile.memOk_mk] | split | intro _

theorem judgeMark_keeps {s0 : State} (gen : Bool) (s : State) (hs : Keeps s0 s) : Keeps s0 (judgeMark gen s) := by
  unfold judgeMark
  repeat' first
    | with_reducible first
        | assumption | apply Tile.count_keeps | apply openMinute_keeps | apply closeMinute_keeps | apply And.intro | apply Keeps.hbm (s0 := s0)
        | apply Keeps.hostMem (s0 := s0) | apply Keeps.tiles (s0 := s0) | apply Keeps.sec | apply Keeps.boot | apply Keeps.pending
        | apply Keeps.fresh | apply State.tile_keeps (s0 := s0) | apply Tile.memOk.store | apply ite_keeps
    | dsimp only | simp only [Keeps_mk] | simp only [Tile.memOk_mk] | split | intro _

theorem tickOnce_keeps {s0 : State} (mark gen : Bool) (s : State) (hs : Keeps s0 s) : Keeps s0 (tickOnce mark gen s) := by
  unfold tickOnce
  repeat' first
    | with_reducible first
        | assumption | apply Tile.count_keeps | apply fireSlots_keeps | apply judgeMark_keeps | apply And.intro | apply Keeps.hbm (s0 := s0)
        | apply Keeps.hostMem (s0 := s0) | apply Keeps.tiles (s0 := s0) | apply Keeps.sec | apply Keeps.boot | apply Keeps.pending
        | apply Keeps.fresh | apply State.tile_keeps (s0 := s0) | apply Tile.memOk.store | apply ite_keeps
    | dsimp only | simp only [Keeps_mk] | simp only [Tile.memOk_mk] | split | intro _

theorem execCadenceEdge_keeps {s0 : State} (period high : Nat) (s : State) (hs : Keeps s0 s) : OutcomeKeeps s0 (execCadenceEdge period high s) := by
  unfold execCadenceEdge
  repeat' first
    | with_reducible first
        | assumption | apply OutcomeKeeps_next | apply tickOnce_keeps | apply And.intro | apply Keeps.hbm (s0 := s0) | apply Keeps.hostMem (s0 := s0)
        | apply Keeps.tiles (s0 := s0) | apply Keeps.sec | apply Keeps.boot | apply Keeps.pending | apply Keeps.fresh
        | apply State.tile_keeps (s0 := s0) | apply Tile.memOk.store | apply ite_keeps
    | dsimp only | simp only [Keeps_mk] | simp only [Tile.memOk_mk] | split | intro _

theorem enterHoldover_keeps {s0 : State} (s : State) (hs : Keeps s0 s) : Keeps s0 (enterHoldover s) := by
  unfold enterHoldover
  repeat' first
    | with_reducible first
        | assumption | apply recordFault_keeps | apply Tile.count_keeps | apply And.intro | apply Keeps.hbm (s0 := s0)
        | apply Keeps.hostMem (s0 := s0) | apply Keeps.tiles (s0 := s0) | apply Keeps.sec | apply Keeps.boot | apply Keeps.pending
        | apply Keeps.fresh | apply State.tile_keeps (s0 := s0) | apply Tile.memOk.store | apply ite_keeps
    | dsimp only | simp only [Keeps_mk] | simp only [Tile.memOk_mk] | split | intro _

theorem execAcquireTimeout_keeps {s0 : State} (s : State) (hs : Keeps s0 s) : OutcomeKeeps s0 (execAcquireTimeout s) := by
  unfold execAcquireTimeout
  repeat' first
    | with_reducible first
        | assumption | apply OutcomeKeeps_next | apply enterHoldover_keeps | apply And.intro | apply Keeps.hbm (s0 := s0)
        | apply Keeps.hostMem (s0 := s0) | apply Keeps.tiles (s0 := s0) | apply Keeps.sec | apply Keeps.boot | apply Keeps.pending
        | apply Keeps.fresh | apply State.tile_keeps (s0 := s0) | apply Tile.memOk.store | apply ite_keeps
    | dsimp only | simp only [Keeps_mk] | simp only [Tile.memOk_mk] | split | intro _

theorem execMinuteMarkMissing_keeps {s0 : State} (s : State) (hs : Keeps s0 s) : OutcomeKeeps s0 (execMinuteMarkMissing s) := by
  unfold execMinuteMarkMissing
  repeat' first
    | with_reducible first
        | assumption | apply OutcomeKeeps_next | apply Tile.count_keeps | apply closeMinute_keeps | apply ite_keeps
        | apply State.tile_keeps (s0 := s0)
    | dsimp only | split | intro _

theorem execHoldoverEntry_keeps {s0 : State} (s : State) (hs : Keeps s0 s) : OutcomeKeeps s0 (execHoldoverEntry s) := by
  unfold execHoldoverEntry
  repeat' first
    | with_reducible first
        | assumption | apply OutcomeKeeps_next | apply enterHoldover_keeps | apply ite_keeps | apply State.tile_keeps (s0 := s0)
    | dsimp only | split | intro _

theorem execGeneratedTick_keeps {s0 : State} (s : State) (hs : Keeps s0 s) : OutcomeKeeps s0 (execGeneratedTick s) := by
  unfold execGeneratedTick
  repeat' first
    | with_reducible first
        | assumption | apply OutcomeKeeps_next | apply tickOnce_keeps | apply Tile.count_keeps | apply ite_keeps | apply State.tile_keeps (s0 := s0)
    | dsimp only | split | intro _

theorem execFallbackTimeout_keeps {s0 : State} (s : State) (hs : Keeps s0 s) : OutcomeKeeps s0 (execFallbackTimeout s) := by
  unfold execFallbackTimeout
  repeat' first
    | with_reducible first
        | assumption | apply OutcomeKeeps_next | apply flagTally_keeps | apply recordFault_keeps | apply And.intro | apply Keeps.hbm (s0 := s0)
        | apply Keeps.hostMem (s0 := s0) | apply Keeps.tiles (s0 := s0) | apply Keeps.sec | apply Keeps.boot | apply Keeps.pending
        | apply Keeps.fresh | apply State.tile_keeps (s0 := s0) | apply Tile.memOk.store | apply ite_keeps
    | dsimp only | simp only [Keeps_mk] | simp only [Tile.memOk_mk] | split | intro _

theorem execEnvelopeMinuteRoll_keeps {s0 : State} (s : State) (hs : Keeps s0 s) : OutcomeKeeps s0 (execEnvelopeMinuteRoll s) := by
  unfold execEnvelopeMinuteRoll
  repeat' first
    | with_reducible first
        | assumption | apply OutcomeKeeps_next | apply onSlot_keeps | apply And.intro | apply Keeps.hbm (s0 := s0) | apply Keeps.hostMem (s0 := s0)
        | apply Keeps.tiles (s0 := s0) | apply Keeps.sec | apply Keeps.boot | apply Keeps.pending | apply Keeps.fresh
        | apply State.tile_keeps (s0 := s0) | apply Tile.memOk.store | apply ite_keeps
    | dsimp only | simp only [Keeps_mk] | simp only [Tile.memOk_mk] | split | intro _

theorem execTallyClose_keeps {s0 : State} (s : State) (hs : Keeps s0 s) : OutcomeKeeps s0 (execTallyClose s) := by
  unfold execTallyClose
  repeat' first
    | with_reducible first
        | assumption | apply OutcomeKeeps_next | apply onSlot_keeps | apply And.intro | apply Keeps.hbm (s0 := s0) | apply Keeps.hostMem (s0 := s0)
        | apply Keeps.tiles (s0 := s0) | apply Keeps.sec | apply Keeps.boot | apply Keeps.pending | apply Keeps.fresh
        | apply State.tile_keeps (s0 := s0) | apply Tile.memOk.store | apply ite_keeps
    | dsimp only | simp only [Keeps_mk] | simp only [Tile.memOk_mk] | split | intro _

theorem execTallySigned_keeps {s0 : State} (s : State) (hs : Keeps s0 s) : OutcomeKeeps s0 (execTallySigned s) := by
  unfold execTallySigned
  repeat' first
    | with_reducible first
        | assumption | apply OutcomeKeeps_next | apply postEvent_keeps | apply And.intro | apply Memory.wf_memWrite | apply Keeps.hbm (s0 := s0)
        | apply Keeps.hostMem (s0 := s0) | apply Keeps.tiles (s0 := s0) | apply Keeps.sec | apply Keeps.boot | apply Keeps.pending
        | apply Keeps.fresh | apply Keeps.fresh1 | apply secOk.nOp | apply secOk.nOwn | apply secOk.nCeil | apply secOk.nDebug | apply secOk.nonces
        | apply bootOk.floors | apply Tile.memOk.store | apply State.tile_keeps (s0 := s0) | apply tilesOk_sset | apply tilesOk_map
        | apply Memory.wf_filter | apply Memory.wf_memPut | apply foldlSnd_keeps | apply ite_keeps | apply ite_optKeeps | apply foldlThd_keeps
        | apply foldlMem_wf | apply Memory.wf_empty | apply tilesOk_empty | apply Tile.memOk_default
    | dsimp only | simp only [optKeeps_none, optKeeps_some, optTileOk_none, optTileOk_some, optPairKeeps_none, optPairKeeps_some]
    | simp only [Keeps_mk] | simp only [Tile.memOk_mk] | simp only [secOk_mk] | simp only [bootOk_mk] | split | intro _

theorem execEnvelopeLead_keeps {s0 : State} (s : State) (hs : Keeps s0 s) : OutcomeKeeps s0 (execEnvelopeLead s) := by
  unfold execEnvelopeLead
  repeat' first
    | with_reducible first
        | assumption | apply OutcomeKeeps_next | apply onSlot_keeps | apply And.intro | apply Keeps.hbm (s0 := s0) | apply Keeps.hostMem (s0 := s0)
        | apply Keeps.tiles (s0 := s0) | apply Keeps.sec | apply Keeps.boot | apply Keeps.pending | apply Keeps.fresh
        | apply State.tile_keeps (s0 := s0) | apply Tile.memOk.store | apply ite_keeps
    | dsimp only | simp only [Keeps_mk] | simp only [Tile.memOk_mk] | split | intro _

theorem staggerTrigger_keeps {s0 : State} (s : State) (hs : Keeps s0 s) : Keeps s0 (staggerTrigger s) := by
  unfold staggerTrigger
  repeat' first
    | with_reducible first
        | assumption | apply And.intro | apply Keeps.hbm (s0 := s0) | apply Keeps.hostMem (s0 := s0) | apply Keeps.tiles (s0 := s0) | apply Keeps.sec
        | apply Keeps.boot | apply Keeps.pending | apply Keeps.fresh | apply State.tile_keeps (s0 := s0) | apply Tile.memOk.store | apply ite_keeps
    | dsimp only | simp only [Keeps_mk] | simp only [Tile.memOk_mk] | split | intro _

theorem execStaggerSlotFire_keeps {s0 : State} (s : State) (hs : Keeps s0 s) : OutcomeKeeps s0 (execStaggerSlotFire s) := by
  unfold execStaggerSlotFire
  repeat' first
    | with_reducible first
        | assumption | apply OutcomeKeeps_next | apply onSlot_keeps | apply staggerTrigger_keeps | apply ite_keeps
        | apply State.tile_keeps (s0 := s0)
    | dsimp only | split | intro _

theorem execSyncInEdge_keeps {s0 : State} (s : State) (hs : Keeps s0 s) : OutcomeKeeps s0 (execSyncInEdge s) := by
  unfold execSyncInEdge
  repeat' first
    | with_reducible first
        | assumption | apply OutcomeKeeps_next | apply staggerTrigger_keeps | apply ite_keeps | apply State.tile_keeps (s0 := s0)
    | dsimp only | split | intro _

theorem execSnapshotTickTrigger_keeps {s0 : State} (s : State) (hs : Keeps s0 s) : OutcomeKeeps s0 (execSnapshotTickTrigger s) := by
  unfold execSnapshotTickTrigger
  repeat' first
    | with_reducible first
        | assumption | apply OutcomeKeeps_next | apply onSlot_keeps | apply Tile.count_keeps | apply And.intro | apply Keeps.hbm (s0 := s0)
        | apply Keeps.hostMem (s0 := s0) | apply Keeps.tiles (s0 := s0) | apply Keeps.sec | apply Keeps.boot | apply Keeps.pending
        | apply Keeps.fresh | apply State.tile_keeps (s0 := s0) | apply Tile.memOk.store | apply ite_keeps
    | dsimp only | simp only [Keeps_mk] | simp only [Tile.memOk_mk] | split | intro _

theorem sendPrints_keeps {s0 : State} (n : Nat) (s : State) (hs : Keeps s0 s) : Keeps s0 (sendPrints n s) := by
  unfold sendPrints
  repeat' first
    | with_reducible first
        | assumption | apply forAll_keeps | apply sendFrame_keeps | apply State.modBucket_keeps | apply State.tile_keeps (s0 := s0)
    | dsimp only | split | intro _

theorem execReplicaCheckSend_keeps {s0 : State} (s : State) (hs : Keeps s0 s) : OutcomeKeeps s0 (execReplicaCheckSend s) := by
  unfold execReplicaCheckSend
  repeat' first
    | with_reducible first
        | assumption | apply OutcomeKeeps_next | apply onSlot_keeps | apply forAll_keeps | apply sendPrints_keeps | apply ite_keeps
        | apply State.tile_keeps (s0 := s0)
    | dsimp only | split | intro _

theorem execCounterSnapshot_keeps {s0 : State} (s : State) (hs : Keeps s0 s) : OutcomeKeeps s0 (execCounterSnapshot s) := by
  unfold execCounterSnapshot
  repeat' first
    | with_reducible first
        | assumption | apply OutcomeKeeps_next | apply onSlot_keeps | apply reserveRecord_keeps | apply nextSeq_keeps | apply State.hbmWrite_keeps
        | (refine reserveRecord_keeps_eq ?_ (by assumption)) | apply ite_keeps | apply State.tile_keeps (s0 := s0)
    | dsimp only | split | intro _

theorem execTimeoutTick_keeps {s0 : State} (s : State) (hs : Keeps s0 s) : OutcomeKeeps s0 (execTimeoutTick s) := by
  unfold execTimeoutTick
  repeat' first
    | with_reducible first
        | assumption | apply OutcomeKeeps_next | apply onSlot_keeps | apply And.intro | apply Keeps.hbm (s0 := s0) | apply Keeps.hostMem (s0 := s0)
        | apply Keeps.tiles (s0 := s0) | apply Keeps.sec | apply Keeps.boot | apply Keeps.pending | apply Keeps.fresh
        | apply State.tile_keeps (s0 := s0) | apply Tile.memOk.store | apply ite_keeps
    | dsimp only | simp only [Keeps_mk] | simp only [Tile.memOk_mk] | split | intro _

theorem execSoftwareSlotFire_keeps {s0 : State} (k : SlotId) (s : State) (hs : Keeps s0 s) : OutcomeKeeps s0 (execSoftwareSlotFire k s) := by
  unfold execSoftwareSlotFire
  repeat' first
    | with_reducible first
        | assumption | apply OutcomeKeeps_next | apply onSlot_keeps | apply postEvent_keeps | apply Tile.count_keeps | apply State.modSlot_keeps
        | apply ite_keeps | apply State.tile_keeps (s0 := s0)
    | dsimp only | split | intro _

/-! ### Machine/Power.lean -/

theorem execRailSample_keeps {s0 : State} (watts : Nat) (s : State) (hs : Keeps s0 s) : OutcomeKeeps s0 (execRailSample watts s) := by
  unfold execRailSample
  repeat' first
    | with_reducible first
        | assumption | apply OutcomeKeeps_next | apply And.intro | apply Keeps.hbm (s0 := s0) | apply Keeps.hostMem (s0 := s0)
        | apply Keeps.tiles (s0 := s0) | apply Keeps.sec | apply Keeps.boot | apply Keeps.pending | apply Keeps.fresh
        | apply State.tile_keeps (s0 := s0) | apply Tile.memOk.store | apply ite_keeps
    | dsimp only | simp only [Keeps_mk] | simp only [Tile.memOk_mk] | split | intro _

theorem takeTemp_keeps {s0 : State} (p : Nat × Nat) (s : State) (hs : Keeps s0 s) : Keeps s0 (takeTemp p s) := by
  unfold takeTemp
  repeat' first
    | with_reducible first
        | assumption | apply State.modRegion_keeps | apply State.modDie_keeps | apply State.modStack_keeps | apply ite_keeps
        | apply State.tile_keeps (s0 := s0)
    | dsimp only | split | intro _

theorem thermAlert_keeps {s0 : State} (s : State) (hs : Keeps s0 s) : Keeps s0 (thermAlert s) := by
  unfold thermAlert
  repeat' first
    | with_reducible first
        | assumption | apply And.intro | apply Keeps.hbm (s0 := s0) | apply Keeps.hostMem (s0 := s0) | apply Keeps.tiles (s0 := s0) | apply Keeps.sec
        | apply Keeps.boot | apply Keeps.pending | apply Keeps.fresh | apply State.tile_keeps (s0 := s0) | apply Tile.memOk.store | apply ite_keeps
    | dsimp only | simp only [Keeps_mk] | simp only [Tile.memOk_mk] | split | intro _

theorem tripAll_keeps {s0 : State} (s : State) (hs : Keeps s0 s) : Keeps s0 (tripAll s) := by
  unfold tripAll
  repeat' first
    | with_reducible first
        | assumption | apply recordFault_keeps | apply forAll_keeps | apply refuseWaiting_keeps | apply State.modRegion_keeps
        | apply State.modStack_keeps | apply markStop_keeps | apply thermAlert_keeps | apply And.intro | apply Keeps.hbm (s0 := s0)
        | apply Keeps.hostMem (s0 := s0) | apply Keeps.tiles (s0 := s0) | apply Keeps.sec | apply Keeps.boot | apply Keeps.pending
        | apply Keeps.fresh | apply State.tile_keeps (s0 := s0) | apply Tile.memOk.store | apply ite_keeps
    | dsimp only | simp only [Keeps_mk] | simp only [Tile.memOk_mk] | split | intro _

theorem takeTemps_keeps {s0 : State} (ts : List (Nat × Nat)) (s : State) (hs : Keeps s0 s) : Keeps s0 (takeTemps ts s) := by
  unfold takeTemps
  repeat' first
    | with_reducible first
        | assumption | apply forAll_keeps | apply takeTemp_keeps | apply thermAlert_keeps | apply tripAll_keeps | apply ite_keeps
        | apply State.tile_keeps (s0 := s0)
    | dsimp only | split | intro _

theorem modGroup_keeps {s0 : State} (rs : List Nat) (f : Region → Region) (s : State) (hs : Keeps s0 s) : Keeps s0 (modGroup rs f s) := by
  unfold modGroup
  repeat' first
    | with_reducible first
        | assumption | apply forAll_keeps | apply State.modRegion_keeps | apply ite_keeps | apply State.tile_keeps (s0 := s0)
    | dsimp only | split | intro _

theorem idleStep_keeps {s0 : State} (rs : List Nat) (s : State) (hs : Keeps s0 s) : Keeps s0 (idleStep rs s) := by
  unfold idleStep
  repeat' first
    | with_reducible first
        | assumption | apply askAgain_keeps | apply modGroup_keeps | apply And.intro | apply Keeps.hbm (s0 := s0) | apply Keeps.hostMem (s0 := s0)
        | apply Keeps.tiles (s0 := s0) | apply Keeps.sec | apply Keeps.boot | apply Keeps.pending | apply Keeps.fresh
        | apply State.tile_keeps (s0 := s0) | apply Tile.memOk.store | apply ite_keeps
    | dsimp only | simp only [Keeps_mk] | simp only [Tile.memOk_mk] | split | intro _

theorem stepRules_keeps {s0 : State} (low : Bool) (rs : List Nat) (s : State) (hs : Keeps s0 s) : Keeps s0 (stepRules low rs s) := by
  unfold stepRules
  repeat' first
    | with_reducible first
        | assumption | apply modGroup_keeps | apply idleStep_keeps | apply ite_keeps | apply State.tile_keeps (s0 := s0)
    | dsimp only | split | intro _

theorem parkGroup_keeps {s0 : State} (rs : List Nat) (s : State) (hs : Keeps s0 s) : Keeps s0 (parkGroup rs s) := by
  unfold parkGroup
  repeat' first
    | with_reducible first
        | assumption | apply modGroup_keeps | apply parkSettle_keeps | apply forAll_keeps | apply State.modCtx_keeps | apply And.intro
        | apply Keeps.hbm (s0 := s0) | apply Keeps.hostMem (s0 := s0) | apply Keeps.tiles (s0 := s0) | apply Keeps.sec | apply Keeps.boot
        | apply Keeps.pending | apply Keeps.fresh | apply State.tile_keeps (s0 := s0) | apply Tile.memOk.store | apply ite_keeps
    | dsimp only | simp only [Keeps_mk] | simp only [Tile.memOk_mk] | split | intro _

theorem unparkGroup_keeps {s0 : State} (s : State) (hs : Keeps s0 s) : Keeps s0 (unparkGroup s) := by
  unfold unparkGroup
  repeat' first
    | with_reducible first
        | assumption | apply modGroup_keeps | apply And.intro | apply Keeps.hbm (s0 := s0) | apply Keeps.hostMem (s0 := s0)
        | apply Keeps.tiles (s0 := s0) | apply Keeps.sec | apply Keeps.boot | apply Keeps.pending | apply Keeps.fresh
        | apply State.tile_keeps (s0 := s0) | apply Tile.memOk.store | apply ite_keeps
    | dsimp only | simp only [Keeps_mk] | simp only [Tile.memOk_mk] | split | intro _

theorem parkRules_keeps {s0 : State} (s : State) (hs : Keeps s0 s) : Keeps s0 (parkRules s) := by
  unfold parkRules
  repeat' first
    | with_reducible first
        | assumption | apply parkGroup_keeps | apply unparkGroup_keeps | apply ite_keeps | apply State.tile_keeps (s0 := s0)
    | dsimp only | split | intro _

theorem applyDuty_keeps {s0 : State} (act : Nat) (s : State) (hs : Keeps s0 s) : Keeps s0 (applyDuty act s) := by
  unfold applyDuty
  repeat' first
    | with_reducible first
        | assumption | apply forAll_keeps | apply modGroup_keeps | apply ite_keeps | apply State.tile_keeps (s0 := s0)
    | dsimp only | split | intro _

theorem noteEvaluation_keeps {s0 : State} (l dms : Nat) (anyHot : Bool) (s : State) (hs : Keeps s0 s) : Keeps s0 (noteEvaluation l dms anyHot s) := by
  unfold noteEvaluation
  repeat' first
    | with_reducible first
        | assumption | apply And.intro | apply Keeps.hbm (s0 := s0) | apply Keeps.hostMem (s0 := s0) | apply Keeps.tiles (s0 := s0) | apply Keeps.sec
        | apply Keeps.boot | apply Keeps.pending | apply Keeps.fresh | apply State.tile_keeps (s0 := s0) | apply Tile.memOk.store | apply ite_keeps
    | dsimp only | simp only [Keeps_mk] | simp only [Tile.memOk_mk] | split | intro _

theorem execPowerEvaluation_keeps {s0 : State} (temps : List (Nat × Nat)) (s : State) (hs : Keeps s0 s) : OutcomeKeeps s0 (execPowerEvaluation temps s) := by
  unfold execPowerEvaluation
  repeat' first
    | with_reducible first
        | assumption | apply OutcomeKeeps_next | apply takeTemps_keeps | apply noteEvaluation_keeps | apply applyDuty_keeps | apply forAll_keeps
        | apply stepRules_keeps | apply flagTally_keeps | apply parkRules_keeps | apply recordFault_keeps | apply And.intro
        | apply Keeps.hbm (s0 := s0) | apply Keeps.hostMem (s0 := s0) | apply Keeps.tiles (s0 := s0) | apply Keeps.sec | apply Keeps.boot
        | apply Keeps.pending | apply Keeps.fresh | apply State.tile_keeps (s0 := s0) | apply Tile.memOk.store | apply ite_keeps
    | dsimp only | simp only [Keeps_mk] | simp only [Tile.memOk_mk] | split | intro _

theorem Tile.goneDark_keeps (x : Tile) (hx : x.memOk) : (Tile.goneDark x).memOk := by
  unfold Tile.goneDark
  repeat' first
    | with_reducible first
        | assumption | apply And.intro | apply Memory.wf_memWrite | apply Keeps.hbm (s0 := s0) | apply Keeps.hostMem (s0 := s0)
        | apply Keeps.tiles (s0 := s0) | apply Keeps.sec | apply Keeps.boot | apply Keeps.pending | apply Keeps.fresh | apply Keeps.fresh1
        | apply secOk.nOp | apply secOk.nOwn | apply secOk.nCeil | apply secOk.nDebug | apply secOk.nonces | apply bootOk.floors
        | apply Tile.memOk.store | apply State.tile_keeps (s0 := s0) | apply tilesOk_sset | apply tilesOk_map | apply Memory.wf_filter
        | apply Memory.wf_memPut | apply foldlSnd_keeps | apply ite_keeps | apply ite_optKeeps | apply foldlThd_keeps | apply foldlMem_wf
        | apply Memory.wf_empty | apply tilesOk_empty | apply Tile.memOk_default
    | dsimp only | simp only [optKeeps_none, optKeeps_some, optTileOk_none, optTileOk_some, optPairKeeps_none, optPairKeeps_some]
    | simp only [Keeps_mk] | simp only [Tile.memOk_mk] | simp only [secOk_mk] | simp only [bootOk_mk] | split | intro _

theorem Tile.wakeBanks_keeps (x : Tile) (hx : x.memOk) : (Tile.wakeBanks x).memOk := by
  unfold Tile.wakeBanks
  repeat' first
    | with_reducible first
        | assumption | apply And.intro | apply Keeps.hbm (s0 := s0) | apply Keeps.hostMem (s0 := s0) | apply Keeps.tiles (s0 := s0) | apply Keeps.sec
        | apply Keeps.boot | apply Keeps.pending | apply Keeps.fresh | apply State.tile_keeps (s0 := s0) | apply Tile.memOk.store | apply ite_keeps
    | dsimp only | simp only [Keeps_mk] | simp only [Tile.memOk_mk] | split | intro _

theorem execRegionTransitionComplete_keeps {s0 : State} (r : RegionId) (s : State) (hs : Keeps s0 s) : OutcomeKeeps s0 (execRegionTransitionComplete r s) := by
  unfold execRegionTransitionComplete
  repeat' first
    | with_reducible first
        | assumption | apply OutcomeKeeps_next | apply State.setRegion_keeps | apply forAll_keeps | apply State.modTile_keeps
        | apply Tile.goneDark_keeps | apply schedule_keeps | apply Tile.wakeBanks_keeps | apply ite_keeps | apply State.tile_keeps (s0 := s0)
    | dsimp only | split | intro _

theorem execStackIdleBank_keeps {s0 : State} (k : StackId) (s : State) (hs : Keeps s0 s) : OutcomeKeeps s0 (execStackIdleBank k s) := by
  unfold execStackIdleBank
  repeat' first
    | with_reducible first
        | assumption | apply OutcomeKeeps_next | apply State.modStack_keeps | apply And.intro | apply Keeps.hbm (s0 := s0)
        | apply Keeps.hostMem (s0 := s0) | apply Keeps.tiles (s0 := s0) | apply Keeps.sec | apply Keeps.boot | apply Keeps.pending
        | apply Keeps.fresh | apply State.tile_keeps (s0 := s0) | apply Tile.memOk.store | apply ite_keeps
    | dsimp only | simp only [Keeps_mk] | simp only [Tile.memOk_mk] | split | intro _

theorem execPatrolScrub_keeps {s0 : State} (k : StackId) (line : Nat) (ecc : ScrubCheck) (s : State) (hs : Keeps s0 s) : OutcomeKeeps s0 (execPatrolScrub k line ecc s) := by
  unfold execPatrolScrub
  repeat' first
    | with_reducible first
        | assumption | apply OutcomeKeeps_next | apply State.modStack_keeps | apply recordFault_keeps | apply fenceStack_keeps | apply ite_keeps
        | apply State.tile_keeps (s0 := s0)
    | dsimp only | split | intro _

theorem execStackHot_keeps {s0 : State} (k : StackId) (temp : Nat) (s : State) (hs : Keeps s0 s) : OutcomeKeeps s0 (execStackHot k temp s) := by
  unfold execStackHot
  repeat' first
    | with_reducible first
        | assumption | apply OutcomeKeeps_next | apply takeTemps_keeps | apply ite_keeps | apply State.tile_keeps (s0 := s0)
    | dsimp only | split | intro _

theorem execThermalTrip_keeps {s0 : State} (j : JunctionId) (temp : Nat) (s : State) (hs : Keeps s0 s) : OutcomeKeeps s0 (execThermalTrip j temp s) := by
  unfold execThermalTrip
  repeat' first
    | with_reducible first
        | assumption | apply OutcomeKeeps_next | apply takeTemps_keeps | apply And.intro | apply Keeps.hbm (s0 := s0)
        | apply Keeps.hostMem (s0 := s0) | apply Keeps.tiles (s0 := s0) | apply Keeps.sec | apply Keeps.boot | apply Keeps.pending
        | apply Keeps.fresh | apply State.tile_keeps (s0 := s0) | apply Tile.memOk.store | apply ite_keeps
    | dsimp only | simp only [Keeps_mk] | simp only [Tile.memOk_mk] | split | intro _

theorem execThermAlertRelease_keeps {s0 : State} (s : State) (hs : Keeps s0 s) : OutcomeKeeps s0 (execThermAlertRelease s) := by
  unfold execThermAlertRelease
  repeat' first
    | with_reducible first
        | assumption | apply OutcomeKeeps_next | apply thermAlert_keeps | apply And.intro | apply Keeps.hbm (s0 := s0)
        | apply Keeps.hostMem (s0 := s0) | apply Keeps.tiles (s0 := s0) | apply Keeps.sec | apply Keeps.boot | apply Keeps.pending
        | apply Keeps.fresh | apply State.tile_keeps (s0 := s0) | apply Tile.memOk.store | apply ite_keeps
    | dsimp only | simp only [Keeps_mk] | simp only [Tile.memOk_mk] | split | intro _

/-! ### Machine/Evl.lean -/

theorem trainEvl_keeps {s0 : State} (lanes : BitVec 4) (s : State) (hs : Keeps s0 s) : Keeps s0 (trainEvl lanes s) := by
  unfold trainEvl
  repeat' first
    | with_reducible first
        | assumption | apply postEvent_keeps | apply And.intro | apply Keeps.hbm (s0 := s0) | apply Keeps.hostMem (s0 := s0)
        | apply Keeps.tiles (s0 := s0) | apply Keeps.sec | apply Keeps.boot | apply Keeps.pending | apply Keeps.fresh
        | apply State.tile_keeps (s0 := s0) | apply Tile.memOk.store | apply ite_keeps
    | dsimp only | simp only [Keeps_mk] | simp only [Tile.memOk_mk] | split | intro _

theorem execEvlTraining_keeps {s0 : State} (lanes : BitVec 4) (s : State) (hs : Keeps s0 s) : OutcomeKeeps s0 (execEvlTraining lanes s) := by
  unfold execEvlTraining
  repeat' first
    | with_reducible first
        | assumption | apply OutcomeKeeps_next | apply trainEvl_keeps | apply ite_keeps | apply State.tile_keeps (s0 := s0)
    | dsimp only | split | intro _

theorem execEvlTrainingRetry_keeps {s0 : State} (lanes : BitVec 4) (s : State) (hs : Keeps s0 s) : OutcomeKeeps s0 (execEvlTrainingRetry lanes s) := by
  unfold execEvlTrainingRetry
  repeat' first
    | with_reducible first
        | assumption | apply OutcomeKeeps_next | apply trainEvl_keeps | apply ite_keeps | apply State.tile_keeps (s0 := s0)
    | dsimp only | split | intro _

theorem evlRetrain_keeps {s0 : State} (s : State) (hs : Keeps s0 s) : Keeps s0 (evlRetrain s) := by
  unfold evlRetrain
  repeat' first
    | with_reducible first
        | assumption | apply And.intro | apply Memory.wf_memWrite | apply Keeps.hbm (s0 := s0) | apply Keeps.hostMem (s0 := s0)
        | apply Keeps.tiles (s0 := s0) | apply Keeps.sec | apply Keeps.boot | apply Keeps.pending | apply Keeps.fresh | apply Keeps.fresh1
        | apply secOk.nOp | apply secOk.nOwn | apply secOk.nCeil | apply secOk.nDebug | apply secOk.nonces | apply bootOk.floors
        | apply Tile.memOk.store | apply State.tile_keeps (s0 := s0) | apply tilesOk_sset | apply tilesOk_map | apply Memory.wf_filter
        | apply Memory.wf_memPut | apply foldlSnd_keeps | apply ite_keeps | apply ite_optKeeps | apply foldlThd_keeps | apply foldlMem_wf
        | apply Memory.wf_empty | apply tilesOk_empty | apply Tile.memOk_default
    | dsimp only | simp only [optKeeps_none, optKeeps_some, optTileOk_none, optTileOk_some, optPairKeeps_none, optPairKeeps_some]
    | simp only [Keeps_mk] | simp only [Tile.memOk_mk] | simp only [secOk_mk] | simp only [bootOk_mk] | split | intro _

theorem evlReplayTo_keeps {s0 : State} (n : Checked Word) (s : State) (hs : Keeps s0 s) : optKeeps s0 (evlReplayTo n s) := by
  unfold evlReplayTo
  repeat' first
    | with_reducible first
        | assumption | apply recordFault_keeps | apply And.intro | apply Keeps.hbm (s0 := s0) | apply Keeps.hostMem (s0 := s0)
        | apply Keeps.tiles (s0 := s0) | apply Keeps.sec | apply Keeps.boot | apply Keeps.pending | apply Keeps.fresh
        | apply State.tile_keeps (s0 := s0) | apply Tile.memOk.store | apply ite_keeps
    | dsimp only | simp only [optKeeps_none, optKeeps_some, optTileOk_none, optTileOk_some, optPairKeeps_none, optPairKeeps_some]
    | simp only [Keeps_mk] | simp only [Tile.memOk_mk] | split | intro _

theorem evlReplayTo_keeps_eq {s0 : State} {n : Checked Word} {s : State} {u : State} (hs : Keeps s0 s) (eq0 : evlReplayTo n s = some u) : Keeps s0 u := by
  have := evlReplayTo_keeps n s hs
  rw [eq0] at this
  exact (optKeeps_some _ _).mp this

theorem evlAsked_keeps {s0 : State} (good : Bool) (want : Option (Checked Word)) (s : State) (hs : Keeps s0 s) : optKeeps s0 (evlAsked good want s) := by
  unfold evlAsked
  repeat' first
    | with_reducible first
        | assumption | (refine evlReplayTo_keeps_eq ?_ (by assumption)) | apply ite_keeps | apply State.tile_keeps (s0 := s0)
    | dsimp only | simp only [optKeeps_none, optKeeps_some, optTileOk_none, optTileOk_some, optPairKeeps_none, optPairKeeps_some] | split | intro _

theorem evlAsked_keeps_eq {s0 : State} {good : Bool} {want : Option (Checked Word)} {s : State} {u : State} (hs : Keeps s0 s) (eq0 : evlAsked good want s = some u) : Keeps s0 u := by
  have := evlAsked_keeps good want s hs
  rw [eq0] at this
  exact (optKeeps_some _ _).mp this

theorem evlAskAgain_keeps {s0 : State} (again : Bool) (s : State) (hs : Keeps s0 s) : Keeps s0 (evlAskAgain again s) := by
  unfold evlAskAgain
  repeat' first
    | with_reducible first
        | assumption | apply evlRetrain_keeps | apply And.intro | apply Keeps.hbm (s0 := s0) | apply Keeps.hostMem (s0 := s0)
        | apply Keeps.tiles (s0 := s0) | apply Keeps.sec | apply Keeps.boot | apply Keeps.pending | apply Keeps.fresh
        | apply State.tile_keeps (s0 := s0) | apply Tile.memOk.store | apply ite_keeps
    | dsimp only | simp only [Keeps_mk] | simp only [Tile.memOk_mk] | split | intro _

theorem execEvlFrameReceive_keeps {s0 : State} (seq : Word) (good : Bool) (chan : Fin 3) (units : Nat) (want : Option (Checked Word)) (s : State) (hs : Keeps s0 s) : OutcomeKeeps s0 (execEvlFrameReceive seq good chan units want s) := by
  unfold execEvlFrameReceive
  repeat' first
    | with_reducible first
        | assumption | apply OutcomeKeeps_next | apply evlRetrain_keeps | apply recordFault_keeps | apply evlAskAgain_keeps
        | (refine evlAsked_keeps_eq ?_ (by assumption)) | apply And.intro | apply Keeps.hbm (s0 := s0) | apply Keeps.hostMem (s0 := s0)
        | apply Keeps.tiles (s0 := s0) | apply Keeps.sec | apply Keeps.boot | apply Keeps.pending | apply Keeps.fresh
        | apply State.tile_keeps (s0 := s0) | apply Tile.memOk.store | apply ite_keeps
    | dsimp only | simp only [Keeps_mk] | simp only [Tile.memOk_mk] | split | intro _

theorem bulkDone_keeps {s0 : State} (h : BitVec 128) (fc : Nat) (bs : List Byte) (s : State) (hs : Keeps s0 s) : Keeps s0 (bulkDone h fc bs s) := by
  unfold bulkDone
  repeat' first
    | with_reducible first
        | assumption | apply And.intro | apply Keeps.hbm (s0 := s0) | apply Keeps.hostMem (s0 := s0) | apply Keeps.tiles (s0 := s0) | apply Keeps.sec
        | apply Keeps.boot | apply Keeps.pending | apply Keeps.fresh | apply State.tile_keeps (s0 := s0) | apply Tile.memOk.store | apply ite_keeps
    | dsimp only | simp only [Keeps_mk] | simp only [Tile.memOk_mk] | split | intro _

theorem bulkHbm_keeps {s0 : State} (h : BitVec 128) (data : List Byte) (ecc : HbmEcc) (s : State) (hs : Keeps s0 s) : Keeps s0 (bulkHbm h data ecc s) := by
  unfold bulkHbm
  repeat' first
    | with_reducible first
        | assumption | apply touchStack_keeps | apply bulkDone_keeps | apply State.hbmWrite_keeps | apply hbmCorrected_keeps
        | apply hbmUncorrectables_keeps | apply ite_keeps | apply State.tile_keeps (s0 := s0)
    | dsimp only | split | intro _

theorem bulkStore_keeps {s0 : State} (h : BitVec 128) (data : List Byte) (s : State) (hs : Keeps s0 s) : Keeps s0 (bulkStore h data s) := by
  unfold bulkStore
  repeat' first
    | with_reducible first
        | assumption | apply State.modTile_keeps | apply Tile.addRange_keeps | apply forAll_keeps | apply postWrite_keeps | apply postRead_keeps
        | apply And.intro | apply Keeps.hbm (s0 := s0) | apply Keeps.hostMem (s0 := s0) | apply Keeps.tiles (s0 := s0) | apply Keeps.sec
        | apply Keeps.boot | apply Keeps.pending | apply Keeps.fresh | apply State.tile_keeps (s0 := s0) | apply Tile.memOk.store | apply ite_keeps
    | dsimp only | simp only [Keeps_mk] | simp only [Tile.memOk_mk] | split | intro _

theorem acceptBulk_keeps {s0 : State} (h : BitVec 128) (data : List Byte) (ecc : HbmEcc) (s : State) (hs : Keeps s0 s) : Keeps s0 (acceptBulk h data ecc s) := by
  unfold acceptBulk
  repeat' first
    | with_reducible first
        | assumption | apply bulkDone_keeps | apply bulkStore_keeps | apply bulkHbm_keeps | apply And.intro | apply Keeps.hbm (s0 := s0)
        | apply Keeps.hostMem (s0 := s0) | apply Keeps.tiles (s0 := s0) | apply Keeps.sec | apply Keeps.boot | apply Keeps.pending
        | apply Keeps.fresh | apply State.tile_keeps (s0 := s0) | apply Tile.memOk.store | apply ite_keeps
    | dsimp only | simp only [Keeps_mk] | simp only [Tile.memOk_mk] | split | intro _

theorem takeBulk_keeps {s0 : State}  : ∀ (a0 : List EvlWait) (a1 : Bool) (a2 : State), Keeps s0 a2 → Keeps s0 (takeBulk a0 a1 a2).2 := by
  intro ws
  induction ws with
  | nil =>
    intro b s h
    exact h
  | cons w ws ih =>
    intro b s h
    cases w with
    | bell r v => exact ih b s h
    | bulk hd d e =>
      unfold takeBulk
      split
      · exact ih _ _ (acceptBulk_keeps _ _ _ _ h)
      · exact ih _ _ h

theorem takeBulk_keeps_eq {s0 : State} {a0 : List EvlWait} {a1 : Bool} {a2 : State} {u : State} {ret0 : List EvlWait} (ha2 : Keeps s0 a2) (eq0 : takeBulk a0 a1 a2 = (ret0, u)) : Keeps s0 u := by
  have := takeBulk_keeps (s0 := s0) a0 a1 a2 ha2
  rw [eq0] at this
  exact this

theorem pumpBulk_keeps {s0 : State} (s : State) (hs : Keeps s0 s) : Keeps s0 (pumpBulk s) := by
  unfold pumpBulk
  repeat' first
    | with_reducible first
        | assumption | apply takeBulk_keeps | (refine takeBulk_keeps_eq ?_ (by assumption)) | apply And.intro | apply Keeps.hbm (s0 := s0)
        | apply Keeps.hostMem (s0 := s0) | apply Keeps.tiles (s0 := s0) | apply Keeps.sec | apply Keeps.boot | apply Keeps.pending
        | apply Keeps.fresh | apply State.tile_keeps (s0 := s0) | apply Tile.memOk.store | apply ite_keeps
    | dsimp only | simp only [Keeps_mk] | simp only [Tile.memOk_mk] | split | intro _

theorem execBulkRequest_keeps {s0 : State} (head : BitVec 128) (data : List Byte) (ecc : HbmEcc) (s : State) (hs : Keeps s0 s) : OutcomeKeeps s0 (execBulkRequest head data ecc s) := by
  unfold execBulkRequest
  repeat' first
    | with_reducible first
        | assumption | apply OutcomeKeeps_next | apply acceptBulk_keeps | apply pumpBulk_keeps | apply And.intro | apply Keeps.hbm (s0 := s0)
        | apply Keeps.hostMem (s0 := s0) | apply Keeps.tiles (s0 := s0) | apply Keeps.sec | apply Keeps.boot | apply Keeps.pending
        | apply Keeps.fresh | apply State.tile_keeps (s0 := s0) | apply Tile.memOk.store | apply ite_keeps
    | dsimp only | simp only [Keeps_mk] | simp only [Tile.memOk_mk] | split | intro _

theorem execCoherentSnoop_keeps {s0 : State} (addr : Nat) (line : Option (List Byte)) (ecc : Ecc) (s : State) (hs : Keeps s0 s) : OutcomeKeeps s0 (execCoherentSnoop addr line ecc s) := by
  unfold execCoherentSnoop
  repeat' first
    | with_reducible first
        | assumption | apply OutcomeKeeps_next | apply State.hostWrite_keeps | apply recordFault_keeps | apply And.intro | apply Keeps.hbm (s0 := s0)
        | apply Keeps.hostMem (s0 := s0) | apply Keeps.tiles (s0 := s0) | apply Keeps.sec | apply Keeps.boot | apply Keeps.pending
        | apply Keeps.fresh | apply State.tile_keeps (s0 := s0) | apply Tile.memOk.store | apply ite_keeps
    | dsimp only | simp only [Keeps_mk] | simp only [Tile.memOk_mk] | split | intro _

/-! ### Machine/Cords.lean -/

theorem setLinkState_keeps {s0 : State} (l : Nat) (new : LinkState) (reason : Nat) (s : State) (hs : Keeps s0 s) : Keeps s0 (setLinkState l new reason s) := by
  unfold setLinkState
  repeat' first
    | with_reducible first
        | assumption | apply State.modLink_keeps | apply postEvent_keeps | apply forAll_keeps | apply pumpSends_keeps | apply ite_keeps
        | apply State.tile_keeps (s0 := s0)
    | dsimp only | split | intro _

theorem quarantine_keeps {s0 : State} (l reason code : Nat) (s : State) (hs : Keeps s0 s) : Keeps s0 (quarantine l reason code s) := by
  unfold quarantine
  repeat' first
    | with_reducible first
        | assumption | apply recordFault_keeps | apply State.modLink_keeps | apply setLinkState_keeps | apply ite_keeps
        | apply State.tile_keeps (s0 := s0)
    | dsimp only | split | intro _

theorem applySplit_keeps {s0 : State} (p : Nat) (s : State) (hs : Keeps s0 s) : Keeps s0 (applySplit p s) := by
  unfold applySplit
  repeat' first
    | with_reducible first
        | assumption | apply State.modPort_keeps | apply State.setLink_keeps | apply ite_keeps | apply State.tile_keeps (s0 := s0)
    | dsimp only | split | intro _

theorem enterTraining_keeps {s0 : State} (l : Nat) (s : State) (hs : Keeps s0 s) : Keeps s0 (enterTraining l s) := by
  unfold enterTraining
  repeat' first
    | with_reducible first
        | assumption | apply applySplit_keeps | apply State.modLink_keeps | apply Security.kept_ok | apply Tile.granted_keeps | apply foldl_keeps
        | apply foldlState_keeps | apply setLinkState_keeps | apply ite_keeps | apply State.tile_keeps (s0 := s0)
    | dsimp only | split | intro _

theorem execCordSignalDetect_keeps {s0 : State} (l : LinkId) (s : State) (hs : Keeps s0 s) : OutcomeKeeps s0 (execCordSignalDetect l s) := by
  unfold execCordSignalDetect
  repeat' first
    | with_reducible first
        | assumption | apply OutcomeKeeps_next | apply enterTraining_keeps | apply State.modLink_keeps | apply ite_keeps
        | apply State.tile_keeps (s0 := s0)
    | dsimp only | split | intro _

theorem sendHello_keeps {s0 : State} (l : Nat) (s : State) (hs : Keeps s0 s) : Keeps s0 (sendHello l s) := by
  unfold sendHello
  repeat' first
    | with_reducible first
        | assumption | apply State.modLink_keeps | apply And.intro | apply Memory.wf_memWrite | apply Keeps.hbm (s0 := s0)
        | apply Keeps.hostMem (s0 := s0) | apply Keeps.tiles (s0 := s0) | apply Keeps.sec | apply Keeps.boot | apply Keeps.pending
        | apply Keeps.fresh | apply Keeps.fresh1 | apply secOk.nOp | apply secOk.nOwn | apply secOk.nCeil | apply secOk.nDebug | apply secOk.nonces
        | apply bootOk.floors | apply Tile.memOk.store | apply State.tile_keeps (s0 := s0) | apply tilesOk_sset | apply tilesOk_map
        | apply Memory.wf_filter | apply Memory.wf_memPut | apply foldlSnd_keeps | apply ite_keeps | apply ite_optKeeps | apply foldlThd_keeps
        | apply foldlMem_wf | apply Memory.wf_empty | apply tilesOk_empty | apply Tile.memOk_default
    | dsimp only | simp only [optKeeps_none, optKeeps_some, optTileOk_none, optTileOk_some, optPairKeeps_none, optPairKeeps_some]
    | simp only [Keeps_mk] | simp only [Tile.memOk_mk] | simp only [secOk_mk] | simp only [bootOk_mk] | split | intro _

theorem execCordFecLock_keeps {s0 : State} (l : LinkId) (half : Bool) (s : State) (hs : Keeps s0 s) : OutcomeKeeps s0 (execCordFecLock l half s) := by
  unfold execCordFecLock
  repeat' first
    | with_reducible first
        | assumption | apply OutcomeKeeps_next | apply setLinkState_keeps | apply sendHello_keeps | apply State.modLink_keeps | apply And.intro
        | apply Memory.wf_memWrite | apply Keeps.hbm (s0 := s0) | apply Keeps.hostMem (s0 := s0) | apply Keeps.tiles (s0 := s0) | apply Keeps.sec
        | apply Keeps.boot | apply Keeps.pending | apply Keeps.fresh | apply Keeps.fresh1 | apply secOk.nOp | apply secOk.nOwn | apply secOk.nCeil
        | apply secOk.nDebug | apply secOk.nonces | apply bootOk.floors | apply Tile.memOk.store | apply State.tile_keeps (s0 := s0)
        | apply tilesOk_sset | apply tilesOk_map | apply Memory.wf_filter | apply Memory.wf_memPut | apply foldlSnd_keeps | apply ite_keeps
        | apply ite_optKeeps | apply foldlThd_keeps | apply foldlMem_wf | apply Memory.wf_empty | apply tilesOk_empty | apply Tile.memOk_default
    | dsimp only | simp only [optKeeps_none, optKeeps_some, optTileOk_none, optTileOk_some, optPairKeeps_none, optPairKeeps_some]
    | simp only [Keeps_mk] | simp only [Tile.memOk_mk] | simp only [secOk_mk] | simp only [bootOk_mk] | split | intro _

theorem execCordTrainingTimeout_keeps {s0 : State} (l : LinkId) (s : State) (hs : Keeps s0 s) : OutcomeKeeps s0 (execCordTrainingTimeout l s) := by
  unfold execCordTrainingTimeout
  repeat' first
    | with_reducible first
        | assumption | apply OutcomeKeeps_next | apply setLinkState_keeps | apply ite_keeps | apply State.tile_keeps (s0 := s0)
    | dsimp only | split | intro _

theorem execCordSignalLost_keeps {s0 : State} (l : LinkId) (s : State) (hs : Keeps s0 s) : OutcomeKeeps s0 (execCordSignalLost l s) := by
  unfold execCordSignalLost
  repeat' first
    | with_reducible first
        | assumption | apply OutcomeKeeps_next | apply State.modLink_keeps | apply setLinkState_keeps | apply enterTraining_keeps | apply ite_keeps
        | apply State.tile_keeps (s0 := s0)
    | dsimp only | split | intro _

theorem strayHandshake_keeps {s0 : State} (l : Nat) (s : State) (hs : Keeps s0 s) : Keeps s0 (strayHandshake l s) := by
  unfold strayHandshake
  repeat' first
    | with_reducible first
        | assumption | apply quarantine_keeps | apply ite_keeps | apply State.tile_keeps (s0 := s0)
    | dsimp only | split | intro _

theorem execHello_keeps {s0 : State} (l : LinkId) (frame : List Byte) (certOk : Bool) (s : State) (hs : Keeps s0 s) : OutcomeKeeps s0 (execHello l frame certOk s) := by
  unfold execHello
  repeat' first
    | with_reducible first
        | assumption | apply OutcomeKeeps_next | apply strayHandshake_keeps | apply State.modLink_keeps | apply quarantine_keeps | apply ite_keeps
        | apply State.tile_keeps (s0 := s0)
    | dsimp only | split | intro _

theorem linkUp_keeps {s0 : State} (l : Nat) (s : State) (hs : Keeps s0 s) : Keeps s0 (linkUp l s) := by
  unfold linkUp
  repeat' first
    | with_reducible first
        | assumption | apply State.modLink_keeps | apply setLinkState_keeps | apply ite_keeps | apply State.tile_keeps (s0 := s0)
    | dsimp only | split | intro _

theorem execProof_keeps {s0 : State} (l : LinkId) (_frame : List Byte) (sigOk : Bool) (s : State) (hs : Keeps s0 s) : OutcomeKeeps s0 (execProof l _frame sigOk s) := by
  unfold execProof
  repeat' first
    | with_reducible first
        | assumption | apply OutcomeKeeps_next | apply strayHandshake_keeps | apply quarantine_keeps | apply State.modLink_keeps
        | apply sendWord_keeps | apply ite_keeps | apply State.tile_keeps (s0 := s0)
    | dsimp only | split | intro _

theorem frameIn_keeps {s0 : State} (l : Nat) (s : State) (hs : Keeps s0 s) : Keeps s0 (frameIn l s) := by
  unfold frameIn
  repeat' first
    | with_reducible first
        | assumption | apply State.modLink_keeps | apply ite_keeps | apply State.tile_keeps (s0 := s0)
    | dsimp only | split | intro _

theorem sendAck_keeps {s0 : State} (l : Nat) (s : State) (hs : Keeps s0 s) : Keeps s0 (sendAck l s) := by
  unfold sendAck
  repeat' first
    | with_reducible first
        | assumption | apply sendWord_keeps | apply ite_keeps | apply State.tile_keeps (s0 := s0)
    | dsimp only | split | intro _

theorem frameNext_keeps {s0 : State} (l : Nat) (s : State) (hs : Keeps s0 s) : Keeps s0 (frameNext l s) := by
  unfold frameNext
  repeat' first
    | with_reducible first
        | assumption | apply State.modLink_keeps | apply ite_keeps | apply State.tile_keeps (s0 := s0)
    | dsimp only | split | intro _

theorem outOfOrder_keeps {s0 : State} (l : Nat) (p : SeqPlace) (s : State) (hs : Keeps s0 s) : Keeps s0 (outOfOrder l p s) := by
  unfold outOfOrder
  repeat' first
    | with_reducible first
        | assumption | apply sendAck_keeps | apply sendWord_keeps | apply quarantine_keeps | apply ite_keeps | apply State.tile_keeps (s0 := s0)
    | dsimp only | split | intro _

theorem ackWord_keeps {s0 : State} (l kind : Nat) (s : State) (hs : Keeps s0 s) : Keeps s0 (ackWord l kind s) := by
  unfold ackWord
  repeat' first
    | with_reducible first
        | assumption | apply sendAck_keeps | apply ite_keeps | apply State.tile_keeps (s0 := s0)
    | dsimp only | split | intro _

theorem onWord_keeps {s0 : State} (l kind : Nat) (w : CordWord) (s : State) (f : State → State) (hs : Keeps s0 s) (hf : ∀ z0, Keeps s0 z0 → Keeps s0 (f z0)) : Keeps s0 (onWord l kind w s f) := by
  have hi := frameIn_keeps l s hs
  unfold onWord
  dsimp only
  repeat' (with_reducible first | assumption | apply hf | apply ite_keeps | apply quarantine_keeps | apply outOfOrder_keeps | apply ackWord_keeps | apply frameNext_keeps | split)

theorem execConfirm_keeps {s0 : State} (l : LinkId) (word : BitVec 128) (tagOk : Bool) (s : State) (hs : Keeps s0 s) : OutcomeKeeps s0 (execConfirm l word tagOk s) := by
  unfold execConfirm
  repeat' first
    | with_reducible first
        | assumption | apply OutcomeKeeps_next | apply strayHandshake_keeps | apply quarantine_keeps | apply linkUp_keeps | apply frameIn_keeps
        | apply State.modLink_keeps | apply ite_keeps | apply State.tile_keeps (s0 := s0)
    | dsimp only | split | intro _

theorem execAuthenticationTimeout_keeps {s0 : State} (l : LinkId) (s : State) (hs : Keeps s0 s) : OutcomeKeeps s0 (execAuthenticationTimeout l s) := by
  unfold execAuthenticationTimeout
  repeat' first
    | with_reducible first
        | assumption | apply OutcomeKeeps_next | apply quarantine_keeps | apply ite_keeps | apply State.tile_keeps (s0 := s0)
    | dsimp only | split | intro _

theorem execAck_keeps {s0 : State} (l : LinkId) (word : CordWord) (s : State) (hs : Keeps s0 s) : OutcomeKeeps s0 (execAck l word s) := by
  unfold execAck
  repeat' first
    | with_reducible first
        | assumption | apply OutcomeKeeps_next | apply onWord_keeps | apply State.modLink_keeps | apply ite_keeps | apply State.tile_keeps (s0 := s0)
    | dsimp only | split | intro _

theorem execReplay_keeps {s0 : State} (l : LinkId) (word : Checked CordWord) (s : State) (hs : Keeps s0 s) : OutcomeKeeps s0 (execReplay l word s) := by
  unfold execReplay
  repeat' first
    | with_reducible first
        | assumption | apply OutcomeKeeps_next | apply onWord_keeps | apply recordFault_keeps | apply raiseFence_keeps | apply enterTraining_keeps
        | apply State.modLink_keeps | apply setLinkState_keeps | apply ite_keeps | apply State.tile_keeps (s0 := s0)
    | dsimp only | split | intro _

theorem execCredit_keeps {s0 : State} (l : LinkId) (word : CordWord) (s : State) (hs : Keeps s0 s) : OutcomeKeeps s0 (execCredit l word s) := by
  unfold execCredit
  repeat' first
    | with_reducible first
        | assumption | apply OutcomeKeeps_next | apply onWord_keeps | apply quarantine_keeps | apply State.modLink_keeps | apply forAll_keeps
        | apply pumpSends_keeps | apply ite_keeps | apply State.tile_keeps (s0 := s0)
    | dsimp only | split | intro _

theorem discardCord_keeps {s0 : State} (l : Nat) (s : State) (hs : Keeps s0 s) : Keeps s0 (discardCord l s) := by
  unfold discardCord
  repeat' first
    | with_reducible first
        | assumption | apply recordFault_keeps | apply State.modLink_keeps | apply ite_keeps | apply State.tile_keeps (s0 := s0)
    | dsimp only | split | intro _

theorem execArrive_keeps {s0 : State} (l : LinkId) (word : CordWord) (s : State) (hs : Keeps s0 s) : OutcomeKeeps s0 (execArrive l word s) := by
  unfold execArrive
  repeat' first
    | with_reducible first
        | assumption | apply OutcomeKeeps_next | apply onWord_keeps | apply discardCord_keeps | apply quarantine_keeps | apply sendArrives_keeps
        | apply State.modCtx_keeps | apply ite_keeps | apply State.tile_keeps (s0 := s0)
    | dsimp only | split | intro _

theorem execCadence_keeps {s0 : State} (l : LinkId) (word : CordWord) (s : State) (hs : Keeps s0 s) : OutcomeKeeps s0 (execCadence l word s) := by
  unfold execCadence
  repeat' first
    | with_reducible first
        | assumption | apply OutcomeKeeps_next | apply onWord_keeps | apply State.modLink_keeps | apply cadenceCheck_keeps | apply ite_keeps
        | apply State.tile_keeps (s0 := s0)
    | dsimp only | split | intro _

theorem execRekey_keeps {s0 : State} (l : LinkId) (word : CordWord) (s : State) (hs : Keeps s0 s) : OutcomeKeeps s0 (execRekey l word s) := by
  unfold execRekey
  repeat' first
    | with_reducible first
        | assumption | apply OutcomeKeeps_next | apply onWord_keeps | apply sendHello_keeps | apply sendWord_keeps | apply State.modLink_keeps
        | apply quarantine_keeps | apply ite_keeps | apply State.tile_keeps (s0 := s0)
    | dsimp only | split | intro _

theorem execRekeyStart_keeps {s0 : State} (l : LinkId) (s : State) (hs : Keeps s0 s) : OutcomeKeeps s0 (execRekeyStart l s) := by
  unfold execRekeyStart
  repeat' first
    | with_reducible first
        | assumption | apply OutcomeKeeps_next | apply sendHello_keeps | apply sendWord_keeps | apply State.modLink_keeps | apply ite_keeps
        | apply State.tile_keeps (s0 := s0)
    | dsimp only | split | intro _

theorem giveCredit_keeps {s0 : State} (l cls : Nat) (s : State) (hs : Keeps s0 s) : Keeps s0 (giveCredit l cls s) := by
  unfold giveCredit
  repeat' first
    | with_reducible first
        | assumption | apply sendWord_keeps | apply State.modLink_keeps | apply Tile.granted_keeps | apply ite_keeps
        | apply State.tile_keeps (s0 := s0)
    | dsimp only | split | intro _

theorem takePrint_keeps {s0 : State} (l : Nat) (f : CordFrame) (s : State) (hs : Keeps s0 s) : Keeps s0 (takePrint l f s) := by
  unfold takePrint
  repeat' first
    | with_reducible first
        | assumption | apply And.intro | apply Keeps.hbm (s0 := s0) | apply Keeps.hostMem (s0 := s0) | apply Keeps.tiles (s0 := s0) | apply Keeps.sec
        | apply Keeps.boot | apply Keeps.pending | apply Keeps.fresh | apply State.tile_keeps (s0 := s0) | apply Tile.memOk.store | apply ite_keeps
    | dsimp only | simp only [Keeps_mk] | simp only [Tile.memOk_mk] | split | intro _

theorem deliverFrame_keeps {s0 : State} (l : Nat) (f : CordFrame) (s : State) (hs : Keeps s0 s) : Keeps s0 (deliverFrame l f s) := by
  unfold deliverFrame
  repeat' first
    | with_reducible first
        | assumption | apply giveCredit_keeps | apply discardCord_keeps | apply State.modLink_keeps | apply inject_keeps | apply takePrint_keeps
        | apply ite_keeps | apply State.tile_keeps (s0 := s0)
    | dsimp only | split | intro _

theorem execCordDataFrameReceive_keeps {s0 : State} (l : LinkId) (frame : List Byte) (tagOk : Bool) (s : State) (hs : Keeps s0 s) : OutcomeKeeps s0 (execCordDataFrameReceive l frame tagOk s) := by
  unfold execCordDataFrameReceive
  repeat' first
    | with_reducible first
        | assumption | apply OutcomeKeeps_next | apply State.modLink_keeps | apply quarantine_keeps | apply sendWord_keeps | apply frameIn_keeps
        | apply outOfOrder_keeps | apply Tile.granted_keeps | apply sendAck_keeps | apply frameNext_keeps | apply giveCredit_keeps
        | apply deliverFrame_keeps | apply And.intro | apply Memory.wf_memWrite | apply Keeps.hbm (s0 := s0) | apply Keeps.hostMem (s0 := s0)
        | apply Keeps.tiles (s0 := s0) | apply Keeps.sec | apply Keeps.boot | apply Keeps.pending | apply Keeps.fresh | apply Keeps.fresh1
        | apply secOk.nOp | apply secOk.nOwn | apply secOk.nCeil | apply secOk.nDebug | apply secOk.nonces | apply bootOk.floors
        | apply Tile.memOk.store | apply State.tile_keeps (s0 := s0) | apply tilesOk_sset | apply tilesOk_map | apply Memory.wf_filter
        | apply Memory.wf_memPut | apply foldlSnd_keeps | apply ite_keeps | apply ite_optKeeps | apply foldlThd_keeps | apply foldlMem_wf
        | apply Memory.wf_empty | apply tilesOk_empty | apply Tile.memOk_default
    | dsimp only | simp only [optKeeps_none, optKeeps_some, optTileOk_none, optTileOk_some, optPairKeeps_none, optPairKeeps_some]
    | simp only [Keeps_mk] | simp only [Tile.memOk_mk] | simp only [secOk_mk] | simp only [bootOk_mk] | split | intro _

theorem execCordDegradedRecovery_keeps {s0 : State} (l : LinkId) (s : State) (hs : Keeps s0 s) : OutcomeKeeps s0 (execCordDegradedRecovery l s) := by
  unfold execCordDegradedRecovery
  repeat' first
    | with_reducible first
        | assumption | apply OutcomeKeeps_next | apply setLinkState_keeps | apply ite_keeps | apply State.tile_keeps (s0 := s0)
    | dsimp only | split | intro _

theorem execQuarantineBackoffExpiry_keeps {s0 : State} (l : LinkId) (s : State) (hs : Keeps s0 s) : OutcomeKeeps s0 (execQuarantineBackoffExpiry l s) := by
  unfold execQuarantineBackoffExpiry
  repeat' first
    | with_reducible first
        | assumption | apply OutcomeKeeps_next | apply enterTraining_keeps | apply ite_keeps | apply State.tile_keeps (s0 := s0)
    | dsimp only | split | intro _

theorem execQuarantineCountReset_keeps {s0 : State} (l : LinkId) (s : State) (hs : Keeps s0 s) : OutcomeKeeps s0 (execQuarantineCountReset l s) := by
  unfold execQuarantineCountReset
  repeat' first
    | with_reducible first
        | assumption | apply OutcomeKeeps_next | apply State.modLink_keeps | apply ite_keeps | apply State.tile_keeps (s0 := s0)
    | dsimp only | split | intro _

theorem execSystemBarrierTimeout_keeps {s0 : State} (n : CtxId) (s : State) (hs : Keeps s0 s) : OutcomeKeeps s0 (execSystemBarrierTimeout n s) := by
  unfold execSystemBarrierTimeout
  repeat' first
    | with_reducible first
        | assumption | apply OutcomeKeeps_next | apply stopContext_keeps | apply recordFault_keeps | apply ite_keeps
        | apply State.tile_keeps (s0 := s0)
    | dsimp only | split | intro _

theorem writeEnable_keeps {s0 : State} (l : Nat) (on : Bool) (s : State) (hs : Keeps s0 s) : Keeps s0 (writeEnable l on s) := by
  unfold writeEnable
  repeat' first
    | with_reducible first
        | assumption | apply State.modLink_keeps | apply setLinkState_keeps | apply ite_keeps | apply State.tile_keeps (s0 := s0)
    | dsimp only | split | intro _

theorem writeSplit_keeps {s0 : State} (p : Nat) (on : Bool) (s : State) (hs : Keeps s0 s) : Keeps s0 (writeSplit p on s) := by
  unfold writeSplit
  repeat' first
    | with_reducible first
        | assumption | apply State.modPort_keeps | apply applySplit_keeps | apply ite_keeps | apply State.tile_keeps (s0 := s0)
    | dsimp only | split | intro _

theorem writeRelease_keeps {s0 : State} (l : Nat) (s : State) (hs : Keeps s0 s) : Keeps s0 (writeRelease l s) := by
  unfold writeRelease
  repeat' first
    | with_reducible first
        | assumption | apply enterTraining_keeps | apply ite_keeps | apply State.tile_keeps (s0 := s0)
    | dsimp only | split | intro _

theorem writeCordConfig_keeps {s0 : State} (l : Nat) (v : Word) (s : State) (hs : Keeps s0 s) : Keeps s0 (writeCordConfig l v s) := by
  unfold writeCordConfig
  repeat' first
    | with_reducible first
        | assumption | apply writeSplit_keeps | apply writeRelease_keeps | apply writeEnable_keeps | apply ite_keeps
        | apply State.tile_keeps (s0 := s0)
    | dsimp only | split | intro _

/-! ### Machine/Roles.lean -/

theorem settingBad_keeps {s0 : State} (i : Nat) (both : Bool) (s : State) (hs : Keeps s0 s) : Keeps s0 (settingBad i both s) := by
  unfold settingBad
  repeat' first
    | with_reducible first
        | assumption | apply recordFault_keeps | apply And.intro | apply Memory.wf_memWrite | apply Keeps.hbm (s0 := s0)
        | apply Keeps.hostMem (s0 := s0) | apply Keeps.tiles (s0 := s0) | apply Keeps.sec | apply Keeps.boot | apply Keeps.pending
        | apply Keeps.fresh | apply Keeps.fresh1 | apply secOk.nOp | apply secOk.nOwn | apply secOk.nCeil | apply secOk.nDebug | apply secOk.nonces
        | apply bootOk.floors | apply Tile.memOk.store | apply State.tile_keeps (s0 := s0) | apply tilesOk_sset | apply tilesOk_map
        | apply Memory.wf_filter | apply Memory.wf_memPut | apply foldlSnd_keeps | apply ite_keeps | apply ite_optKeeps | apply foldlThd_keeps
        | apply foldlMem_wf | apply Memory.wf_empty | apply tilesOk_empty | apply Tile.memOk_default
    | dsimp only | simp only [optKeeps_none, optKeeps_some, optTileOk_none, optTileOk_some, optPairKeeps_none, optPairKeeps_some]
    | simp only [Keeps_mk] | simp only [Tile.memOk_mk] | simp only [secOk_mk] | simp only [bootOk_mk] | split | intro _

theorem freeBytes_keeps {s0 : State} (n : Nat) (s : State) (hs : Keeps s0 s) : Keeps s0 (freeBytes n s).2 := by
  unfold freeBytes
  repeat' first
    | with_reducible first
        | assumption | apply And.intro | apply Memory.wf_memWrite | apply Keeps.hbm (s0 := s0) | apply Keeps.hostMem (s0 := s0)
        | apply Keeps.tiles (s0 := s0) | apply Keeps.sec | apply Keeps.boot | apply Keeps.pending | apply Keeps.fresh | apply Keeps.fresh1
        | apply secOk.nOp | apply secOk.nOwn | apply secOk.nCeil | apply secOk.nDebug | apply secOk.nonces | apply bootOk.floors
        | apply Tile.memOk.store | apply State.tile_keeps (s0 := s0) | apply tilesOk_sset | apply tilesOk_map | apply Memory.wf_filter
        | apply Memory.wf_memPut | apply foldlSnd_keeps | apply ite_keeps | apply ite_optKeeps | apply foldlThd_keeps | apply foldlMem_wf
        | apply Memory.wf_empty | apply tilesOk_empty | apply Tile.memOk_default
    | dsimp only | simp only [optKeeps_none, optKeeps_some, optTileOk_none, optTileOk_some, optPairKeeps_none, optPairKeeps_some]
    | simp only [Keeps_mk] | simp only [Tile.memOk_mk] | simp only [secOk_mk] | simp only [bootOk_mk] | split | intro _

theorem freeBytes_keeps_eq {s0 : State} {n : Nat} {s : State} {u : State} {ret0 : List Byte} (hs : Keeps s0 s) (eq0 : freeBytes n s = (ret0, u)) : Keeps s0 u := by
  have := freeBytes_keeps n s hs
  rw [eq0] at this
  exact this

theorem checkHead_keeps {s0 : State} (s : State) (hs : Keeps s0 s) : Keeps s0 (checkHead s) := by
  unfold checkHead
  repeat' first
    | with_reducible first
        | assumption | apply recordFault_keeps | apply ite_keeps | apply State.tile_keeps (s0 := s0)
    | dsimp only | split | intro _

theorem appendAudit_keeps {s0 : State} (rec role kind notches : Nat) (nonce signer value : List Byte) (s : State) (hs : Keeps s0 s) : Keeps s0 (appendAudit rec role kind notches nonce signer value s) := by
  unfold appendAudit
  repeat' first
    | with_reducible first
        | assumption | apply Tile.count_keeps | apply checkHead_keeps | apply And.intro | apply Memory.wf_memWrite | apply Keeps.hbm (s0 := s0)
        | apply Keeps.hostMem (s0 := s0) | apply Keeps.tiles (s0 := s0) | apply Keeps.sec | apply Keeps.boot | apply Keeps.pending
        | apply Keeps.fresh | apply Keeps.fresh1 | apply secOk.nOp | apply secOk.nOwn | apply secOk.nCeil | apply secOk.nDebug | apply secOk.nonces
        | apply bootOk.floors | apply Tile.memOk.store | apply State.tile_keeps (s0 := s0) | apply tilesOk_sset | apply tilesOk_map
        | apply Memory.wf_filter | apply Memory.wf_memPut | apply foldlSnd_keeps | apply ite_keeps | apply ite_optKeeps | apply foldlThd_keeps
        | apply foldlMem_wf | apply Memory.wf_empty | apply tilesOk_empty | apply Tile.memOk_default
    | dsimp only | simp only [optKeeps_none, optKeeps_some, optTileOk_none, optTileOk_some, optPairKeeps_none, optPairKeeps_some]
    | simp only [Keeps_mk] | simp only [Tile.memOk_mk] | simp only [secOk_mk] | simp only [bootOk_mk] | split | intro _

theorem recheckPartners_keeps {s0 : State} (s : State) (hs : Keeps s0 s) : Keeps s0 (recheckPartners s) := by
  unfold recheckPartners
  repeat' first
    | with_reducible first
        | assumption | apply forAll_keeps | apply quarantine_keeps | apply ite_keeps | apply State.tile_keeps (s0 := s0)
    | dsimp only | split | intro _

theorem Security.notch_ok {s0 : State} (k : Security) (i : Nat) (h : secOk s0 k) : secOk s0 (k.notch i) := by
  obtain ⟨h1, h2, h3, h4, h5⟩ := h
  unfold Security.notch
  repeat' split
  all_goals refine ⟨?_, ?_, ?_, ?_, h5⟩
  all_goals first | assumption | (dsimp only; omega)

theorem Security.setStaged_ok {s0 : State} (k : Security) (role : Nat) (w : Staged) (h : secOk s0 k) : secOk s0 (k.setStaged role w) := by
  unfold Security.setStaged
  split <;> exact h

theorem floorsUp_raise {s0 : State} (fs vs : Sparse Nat) (js : List Nat) (h : floorsUp s0 fs) :
    floorsUp s0 (js.foldl (fun f i => sset f i (max (sgetD f i 0) (sgetD vs i 0))) fs) := by
  induction js generalizing fs with
  | nil => exact h
  | cons j js ih =>
    refine ih _ ?_
    intro i
    by_cases e : i = j
    · subst e
      rw [sgetD_sset_self]
      exact Nat.le_trans (h i) (Nat.le_max_left _ _)
    · rw [sgetD_sset_ne _ _ _ _ _ e]
      exact h i

theorem commitValue_keeps {s0 : State} (w : Staged) (i : Nat) (s : State) (hs : Keeps s0 s) : Keeps s0 (commitValue w i s) := by
  unfold commitValue
  repeat' first
    | with_reducible first
        | assumption | apply flagTally_keeps | apply And.intro | apply Memory.wf_memWrite | apply Keeps.hbm (s0 := s0)
        | apply Keeps.hostMem (s0 := s0) | apply Keeps.tiles (s0 := s0) | apply Keeps.sec | apply Keeps.boot | apply Keeps.pending
        | apply Keeps.fresh | apply Keeps.fresh1 | apply secOk.nOp | apply secOk.nOwn | apply secOk.nCeil | apply secOk.nDebug | apply secOk.nonces
        | apply bootOk.floors | apply Tile.memOk.store | apply State.tile_keeps (s0 := s0) | apply tilesOk_sset | apply tilesOk_map
        | apply Memory.wf_filter | apply Memory.wf_memPut | apply foldlSnd_keeps | apply ite_keeps | apply ite_optKeeps | apply foldlThd_keeps
        | apply foldlMem_wf | apply Memory.wf_empty | apply tilesOk_empty | apply Tile.memOk_default
    | dsimp only | simp only [optKeeps_none, optKeeps_some, optTileOk_none, optTileOk_some, optPairKeeps_none, optPairKeeps_some]
    | simp only [Keeps_mk] | simp only [Tile.memOk_mk] | simp only [secOk_mk] | simp only [bootOk_mk] | split | intro _

theorem commitOne_keeps {s0 : State} (r : StoreRun) (i : Nat) (s : State) (hs : Keeps s0 s) : Keeps s0 (commitOne r i s) := by
  unfold commitOne
  repeat' first
    | with_reducible first
        | assumption | apply commitValue_keeps | apply Security.notch_ok | apply appendAudit_keeps | apply And.intro | apply Memory.wf_memWrite
        | apply Keeps.hbm (s0 := s0) | apply Keeps.hostMem (s0 := s0) | apply Keeps.tiles (s0 := s0) | apply Keeps.sec | apply Keeps.boot
        | apply Keeps.pending | apply Keeps.fresh | apply Keeps.fresh1 | apply secOk.nOp | apply secOk.nOwn | apply secOk.nCeil | apply secOk.nDebug
        | apply secOk.nonces | apply bootOk.floors | apply Tile.memOk.store | apply State.tile_keeps (s0 := s0) | apply tilesOk_sset
        | apply tilesOk_map | apply Memory.wf_filter | apply Memory.wf_memPut | apply foldlSnd_keeps | apply ite_keeps | apply ite_optKeeps
        | apply foldlThd_keeps | apply foldlMem_wf | apply Memory.wf_empty | apply tilesOk_empty | apply Tile.memOk_default
    | dsimp only | simp only [optKeeps_none, optKeeps_some, optTileOk_none, optTileOk_some, optPairKeeps_none, optPairKeeps_some]
    | simp only [Keeps_mk] | simp only [Tile.memOk_mk] | simp only [secOk_mk] | simp only [bootOk_mk] | split | intro _

theorem endMigration_keeps {s0 : State} (s : State) (hs : Keeps s0 s) : Keeps s0 (endMigration s) := by
  have hf : Keeps s0 { s with
        boot := { s.boot with migrated := false, floor := (List.range 5).foldl (fun f i => sset f i (max (sgetD f i 0) (sgetD s.runBank.floors i 0))) s.boot.floor }
        sec := { s.sec with schemaA := s.runBank.schema, schemaB := s.runBank.schema } } :=
    ⟨hs.pending, hs.fresh, hs.hbm, hs.hostMem, hs.tiles, hs.sec, floorsUp_raise _ _ _ hs.boot⟩
  have hp : ∀ u : State, Keeps s0 u → Keeps s0 { u with sec := { u.sec with pitClear := true } } :=
    fun u hu => ⟨hu.pending, hu.fresh, hu.hbm, hu.hostMem, hu.tiles, hu.sec, hu.boot⟩
  have h1 := ite_keeps (!s.boot.migrated) s _ hs hf
  unfold endMigration
  dsimp only
  exact ite_keeps _ _ _ h1 (ite_keeps _ _ _ (clearOldHeader_keeps _ h1) (hp _ h1))

theorem commitRun_keeps {s0 : State} (r : StoreRun) (s : State) (hs : Keeps s0 s) : Keeps s0 (commitRun r s) := by
  unfold commitRun
  repeat' first
    | with_reducible first
        | assumption | apply forAll_keeps | apply commitOne_keeps | apply recheckPartners_keeps | apply writeHeader_keeps | apply endMigration_keeps
        | apply And.intro | apply Memory.wf_memWrite | apply Keeps.hbm (s0 := s0) | apply Keeps.hostMem (s0 := s0) | apply Keeps.tiles (s0 := s0)
        | apply Keeps.sec | apply Keeps.boot | apply Keeps.pending | apply Keeps.fresh | apply Keeps.fresh1 | apply secOk.nOp | apply secOk.nOwn
        | apply secOk.nCeil | apply secOk.nDebug | apply secOk.nonces | apply bootOk.floors | apply Tile.memOk.store
        | apply State.tile_keeps (s0 := s0) | apply tilesOk_sset | apply tilesOk_map | apply Memory.wf_filter | apply Memory.wf_memPut
        | apply foldlSnd_keeps | apply ite_keeps | apply ite_optKeeps | apply foldlThd_keeps | apply foldlMem_wf | apply Memory.wf_empty
        | apply tilesOk_empty | apply Tile.memOk_default
    | dsimp only | simp only [optKeeps_none, optKeeps_some, optTileOk_none, optTileOk_some, optPairKeeps_none, optPairKeeps_some]
    | simp only [Keeps_mk] | simp only [Tile.memOk_mk] | simp only [secOk_mk] | simp only [bootOk_mk] | split | intro _

theorem noteRefusal_keeps {s0 : State} (code op role step : Nat) (s : State) (hs : Keeps s0 s) : Keeps s0 (noteRefusal code op role step s) := by
  unfold noteRefusal
  repeat' first
    | with_reducible first
        | assumption | apply And.intro | apply Memory.wf_memWrite | apply Keeps.hbm (s0 := s0) | apply Keeps.hostMem (s0 := s0)
        | apply Keeps.tiles (s0 := s0) | apply Keeps.sec | apply Keeps.boot | apply Keeps.pending | apply Keeps.fresh | apply Keeps.fresh1
        | apply secOk.nOp | apply secOk.nOwn | apply secOk.nCeil | apply secOk.nDebug | apply secOk.nonces | apply bootOk.floors
        | apply Tile.memOk.store | apply State.tile_keeps (s0 := s0) | apply tilesOk_sset | apply tilesOk_map | apply Memory.wf_filter
        | apply Memory.wf_memPut | apply foldlSnd_keeps | apply ite_keeps | apply ite_optKeeps | apply foldlThd_keeps | apply foldlMem_wf
        | apply Memory.wf_empty | apply tilesOk_empty | apply Tile.memOk_default
    | dsimp only | simp only [optKeeps_none, optKeeps_some, optTileOk_none, optTileOk_some, optPairKeeps_none, optPairKeeps_some]
    | simp only [Keeps_mk] | simp only [Tile.memOk_mk] | simp only [secOk_mk] | simp only [bootOk_mk] | split | intro _

theorem startRuns_keeps {s0 : State}  : ∀ (a0 : List StoreRun) (a1 : State), Keeps s0 a1 → Keeps s0 (startRuns a0 a1) := by
  intro a0
  induction a0 with
  | nil =>
    intros
    unfold startRuns
    repeat' first
      | with_reducible first
          | assumption | apply noteRefusal_keeps | apply Security.setStaged_ok | apply And.intro | apply Memory.wf_memWrite
          | apply Keeps.hbm (s0 := s0) | apply Keeps.hostMem (s0 := s0) | apply Keeps.tiles (s0 := s0) | apply Keeps.sec | apply Keeps.boot
          | apply Keeps.pending | apply Keeps.fresh | apply Keeps.fresh1 | apply secOk.nOp | apply secOk.nOwn | apply secOk.nCeil
          | apply secOk.nDebug | apply secOk.nonces | apply bootOk.floors | apply Tile.memOk.store | apply State.tile_keeps (s0 := s0)
          | apply tilesOk_sset | apply tilesOk_map | apply Memory.wf_filter | apply Memory.wf_memPut | apply foldlSnd_keeps | apply ite_keeps
          | apply ite_optKeeps | apply foldlThd_keeps | apply foldlMem_wf | apply Memory.wf_empty | apply tilesOk_empty | apply Tile.memOk_default
          | apply ih
      | dsimp only | simp only [optKeeps_none, optKeeps_some, optTileOk_none, optTileOk_some, optPairKeeps_none, optPairKeeps_some]
      | simp only [Keeps_mk] | simp only [Tile.memOk_mk] | simp only [secOk_mk] | simp only [bootOk_mk] | split | intro _
  | cons r rs ih =>
    intros
    unfold startRuns
    repeat' first
      | with_reducible first
          | assumption | apply noteRefusal_keeps | apply Security.setStaged_ok | apply And.intro | apply Memory.wf_memWrite
          | apply Keeps.hbm (s0 := s0) | apply Keeps.hostMem (s0 := s0) | apply Keeps.tiles (s0 := s0) | apply Keeps.sec | apply Keeps.boot
          | apply Keeps.pending | apply Keeps.fresh | apply Keeps.fresh1 | apply secOk.nOp | apply secOk.nOwn | apply secOk.nCeil
          | apply secOk.nDebug | apply secOk.nonces | apply bootOk.floors | apply Tile.memOk.store | apply State.tile_keeps (s0 := s0)
          | apply tilesOk_sset | apply tilesOk_map | apply Memory.wf_filter | apply Memory.wf_memPut | apply foldlSnd_keeps | apply ite_keeps
          | apply ite_optKeeps | apply foldlThd_keeps | apply foldlMem_wf | apply Memory.wf_empty | apply tilesOk_empty | apply Tile.memOk_default
          | apply ih
      | dsimp only | simp only [optKeeps_none, optKeeps_some, optTileOk_none, optTileOk_some, optPairKeeps_none, optPairKeeps_some]
      | simp only [Keeps_mk] | simp only [Tile.memOk_mk] | simp only [secOk_mk] | simp only [bootOk_mk] | split | intro _

theorem queueRun_keeps {s0 : State} (r : StoreRun) (s : State) (hs : Keeps s0 s) : Keeps s0 (queueRun r s) := by
  unfold queueRun
  repeat' first
    | with_reducible first
        | assumption | apply startRuns_keeps | apply And.intro | apply Memory.wf_memWrite | apply Keeps.hbm (s0 := s0)
        | apply Keeps.hostMem (s0 := s0) | apply Keeps.tiles (s0 := s0) | apply Keeps.sec | apply Keeps.boot | apply Keeps.pending
        | apply Keeps.fresh | apply Keeps.fresh1 | apply secOk.nOp | apply secOk.nOwn | apply secOk.nCeil | apply secOk.nDebug | apply secOk.nonces
        | apply bootOk.floors | apply Tile.memOk.store | apply State.tile_keeps (s0 := s0) | apply tilesOk_sset | apply tilesOk_map
        | apply Memory.wf_filter | apply Memory.wf_memPut | apply foldlSnd_keeps | apply ite_keeps | apply ite_optKeeps | apply foldlThd_keeps
        | apply foldlMem_wf | apply Memory.wf_empty | apply tilesOk_empty | apply Tile.memOk_default
    | dsimp only | simp only [optKeeps_none, optKeeps_some, optTileOk_none, optTileOk_some, optPairKeeps_none, optPairKeeps_some]
    | simp only [Keeps_mk] | simp only [Tile.memOk_mk] | simp only [secOk_mk] | simp only [bootOk_mk] | split | intro _

theorem storeEvent_keeps {s0 : State} (r : StoreRun) (s : State) (hs : Keeps s0 s) : Keeps s0 (storeEvent r s) := by
  unfold storeEvent
  repeat' first
    | with_reducible first
        | assumption | apply postEvent_keeps | apply ite_keeps | apply State.tile_keeps (s0 := s0)
    | dsimp only | split | intro _

theorem execStoreComplete_keeps {s0 : State} (s : State) (hs : Keeps s0 s) : OutcomeKeeps s0 (execStoreComplete s) := by
  unfold execStoreComplete
  repeat' first
    | with_reducible first
        | assumption | apply OutcomeKeeps_next | apply startRuns_keeps | apply storeEvent_keeps | apply commitRun_keeps | apply ite_keeps
        | apply State.tile_keeps (s0 := s0)
    | dsimp only | split | intro _

theorem eraseTenant_keeps {s0 : State} (s : State) (hs : Keeps s0 s) : Keeps s0 (eraseTenant s) := by
  unfold eraseTenant
  repeat' first
    | with_reducible first
        | assumption | apply And.intro | apply Memory.wf_memWrite | apply Keeps.hbm (s0 := s0) | apply Keeps.hostMem (s0 := s0)
        | apply Keeps.tiles (s0 := s0) | apply Keeps.sec | apply Keeps.boot | apply Keeps.pending | apply Keeps.fresh | apply Keeps.fresh1
        | apply secOk.nOp | apply secOk.nOwn | apply secOk.nCeil | apply secOk.nDebug | apply secOk.nonces | apply bootOk.floors
        | apply Tile.memOk.store | apply State.tile_keeps (s0 := s0) | apply tilesOk_sset | apply tilesOk_map | apply Memory.wf_filter
        | apply Memory.wf_memPut | apply foldlSnd_keeps | apply ite_keeps | apply ite_optKeeps | apply foldlThd_keeps | apply foldlMem_wf
        | apply Memory.wf_empty | apply tilesOk_empty | apply Tile.memOk_default
    | dsimp only | simp only [optKeeps_none, optKeeps_some, optTileOk_none, optTileOk_some, optPairKeeps_none, optPairKeeps_some]
    | simp only [Keeps_mk] | simp only [Tile.memOk_mk] | simp only [secOk_mk] | simp only [bootOk_mk] | split | intro _

theorem execOwnerReleaseComplete_keeps {s0 : State} (s : State) (hs : Keeps s0 s) : OutcomeKeeps s0 (execOwnerReleaseComplete s) := by
  unfold execOwnerReleaseComplete
  repeat' first
    | with_reducible first
        | assumption | apply OutcomeKeeps_next | apply eraseTenant_keeps | apply commitRun_keeps | apply Security.notch_ok | apply freeBytes_keeps
        | apply appendAudit_keeps | apply startRuns_keeps | apply storeEvent_keeps | (refine freeBytes_keeps_eq ?_ (by assumption)) | apply And.intro
        | apply Keeps.hbm (s0 := s0) | apply Keeps.hostMem (s0 := s0) | apply Keeps.tiles (s0 := s0) | apply Keeps.sec | apply Keeps.boot
        | apply Keeps.pending | apply Keeps.fresh | apply State.tile_keeps (s0 := s0) | apply Tile.memOk.store | apply ite_keeps
    | dsimp only | simp only [Keeps_mk] | simp only [Tile.memOk_mk] | split | intro _

theorem roleReply_keeps {s0 : State} (sideband : Bool) (code : Nat) (bs : List Byte) (s : State) (hs : Keeps s0 s) : Keeps s0 (roleReply sideband code bs s) := by
  unfold roleReply
  repeat' first
    | with_reducible first
        | assumption | apply State.answer_keeps | apply And.intro | apply Memory.wf_memWrite | apply Keeps.hbm (s0 := s0)
        | apply Keeps.hostMem (s0 := s0) | apply Keeps.tiles (s0 := s0) | apply Keeps.sec | apply Keeps.boot | apply Keeps.pending
        | apply Keeps.fresh | apply Keeps.fresh1 | apply secOk.nOp | apply secOk.nOwn | apply secOk.nCeil | apply secOk.nDebug | apply secOk.nonces
        | apply bootOk.floors | apply Tile.memOk.store | apply State.tile_keeps (s0 := s0) | apply tilesOk_sset | apply tilesOk_map
        | apply Memory.wf_filter | apply Memory.wf_memPut | apply foldlSnd_keeps | apply ite_keeps | apply ite_optKeeps | apply foldlThd_keeps
        | apply foldlMem_wf | apply Memory.wf_empty | apply tilesOk_empty | apply Tile.memOk_default
    | dsimp only | simp only [optKeeps_none, optKeeps_some, optTileOk_none, optTileOk_some, optPairKeeps_none, optPairKeeps_some]
    | simp only [Keeps_mk] | simp only [Tile.memOk_mk] | simp only [secOk_mk] | simp only [bootOk_mk] | split | intro _

theorem startReport_keeps {s0 : State} (nonce : List Byte) (owner sideband : Bool) (s : State) (hs : Keeps s0 s) : Keeps s0 (startReport nonce owner sideband s) := by
  unfold startReport
  repeat' first
    | with_reducible first
        | assumption | apply And.intro | apply Memory.wf_memWrite | apply Keeps.hbm (s0 := s0) | apply Keeps.hostMem (s0 := s0)
        | apply Keeps.tiles (s0 := s0) | apply Keeps.sec | apply Keeps.boot | apply Keeps.pending | apply Keeps.fresh | apply Keeps.fresh1
        | apply secOk.nOp | apply secOk.nOwn | apply secOk.nCeil | apply secOk.nDebug | apply secOk.nonces | apply bootOk.floors
        | apply Tile.memOk.store | apply State.tile_keeps (s0 := s0) | apply tilesOk_sset | apply tilesOk_map | apply Memory.wf_filter
        | apply Memory.wf_memPut | apply foldlSnd_keeps | apply ite_keeps | apply ite_optKeeps | apply foldlThd_keeps | apply foldlMem_wf
        | apply Memory.wf_empty | apply tilesOk_empty | apply Tile.memOk_default
    | dsimp only | simp only [optKeeps_none, optKeeps_some, optTileOk_none, optTileOk_some, optPairKeeps_none, optPairKeeps_some]
    | simp only [Keeps_mk] | simp only [Tile.memOk_mk] | simp only [secOk_mk] | simp only [bootOk_mk] | split | intro _

theorem execAttestReportReady_keeps {s0 : State} (s : State) (hs : Keeps s0 s) : OutcomeKeeps s0 (execAttestReportReady s) := by
  unfold execAttestReportReady
  repeat' first
    | with_reducible first
        | assumption | apply OutcomeKeeps_next | apply roleReply_keeps | apply And.intro | apply Memory.wf_memWrite | apply Keeps.hbm (s0 := s0)
        | apply Keeps.hostMem (s0 := s0) | apply Keeps.tiles (s0 := s0) | apply Keeps.sec | apply Keeps.boot | apply Keeps.pending
        | apply Keeps.fresh | apply Keeps.fresh1 | apply secOk.nOp | apply secOk.nOwn | apply secOk.nCeil | apply secOk.nDebug | apply secOk.nonces
        | apply bootOk.floors | apply Tile.memOk.store | apply State.tile_keeps (s0 := s0) | apply tilesOk_sset | apply tilesOk_map
        | apply Memory.wf_filter | apply Memory.wf_memPut | apply foldlSnd_keeps | apply ite_keeps | apply ite_optKeeps | apply foldlThd_keeps
        | apply foldlMem_wf | apply Memory.wf_empty | apply tilesOk_empty | apply Tile.memOk_default
    | dsimp only | simp only [optKeeps_none, optKeeps_some, optTileOk_none, optTileOk_some, optPairKeeps_none, optPairKeeps_some]
    | simp only [Keeps_mk] | simp only [Tile.memOk_mk] | simp only [secOk_mk] | simp only [bootOk_mk] | split | intro _

theorem doWriteRegs_keeps {s0 : State} (b : List Byte) (s : State) (hs : Keeps s0 s) : Keeps s0 (doWriteRegs b s) := by
  unfold doWriteRegs
  repeat' first
    | with_reducible first
        | assumption | apply forAll_keeps | apply Security.setStaged_ok | apply And.intro | apply Keeps.hbm (s0 := s0)
        | apply Keeps.hostMem (s0 := s0) | apply Keeps.tiles (s0 := s0) | apply Keeps.sec | apply Keeps.boot | apply Keeps.pending
        | apply Keeps.fresh | apply State.tile_keeps (s0 := s0) | apply Tile.memOk.store | apply ite_keeps
    | dsimp only | simp only [Keeps_mk] | simp only [Tile.memOk_mk] | split | intro _

theorem doStageEnvelope_keeps {s0 : State} (b : List Byte) (s : State) (hs : Keeps s0 s) : Keeps s0 (doStageEnvelope b s) := by
  unfold doStageEnvelope
  repeat' first
    | with_reducible first
        | assumption | apply And.intro | apply Memory.wf_memWrite | apply Keeps.hbm (s0 := s0) | apply Keeps.hostMem (s0 := s0)
        | apply Keeps.tiles (s0 := s0) | apply Keeps.sec | apply Keeps.boot | apply Keeps.pending | apply Keeps.fresh | apply Keeps.fresh1
        | apply secOk.nOp | apply secOk.nOwn | apply secOk.nCeil | apply secOk.nDebug | apply secOk.nonces | apply bootOk.floors
        | apply Tile.memOk.store | apply State.tile_keeps (s0 := s0) | apply tilesOk_sset | apply tilesOk_map | apply Memory.wf_filter
        | apply Memory.wf_memPut | apply foldlSnd_keeps | apply ite_keeps | apply ite_optKeeps | apply foldlThd_keeps | apply foldlMem_wf
        | apply Memory.wf_empty | apply tilesOk_empty | apply Tile.memOk_default
    | dsimp only | simp only [optKeeps_none, optKeeps_some, optTileOk_none, optTileOk_some, optPairKeeps_none, optPairKeeps_some]
    | simp only [Keeps_mk] | simp only [Tile.memOk_mk] | simp only [secOk_mk] | simp only [bootOk_mk] | split | intro _

theorem doEnvelopeAlign_keeps {s0 : State} (b : List Byte) (s : State) (hs : Keeps s0 s) : Keeps s0 (doEnvelopeAlign b s) := by
  unfold doEnvelopeAlign
  repeat' first
    | with_reducible first
        | assumption | apply And.intro | apply Keeps.hbm (s0 := s0) | apply Keeps.hostMem (s0 := s0) | apply Keeps.tiles (s0 := s0) | apply Keeps.sec
        | apply Keeps.boot | apply Keeps.pending | apply Keeps.fresh | apply State.tile_keeps (s0 := s0) | apply Tile.memOk.store | apply ite_keeps
    | dsimp only | simp only [Keeps_mk] | simp only [Tile.memOk_mk] | split | intro _

theorem doStore_keeps {s0 : State} (sideband : Bool) (b : List Byte) (s : State) (hs : Keeps s0 s) : Keeps s0 (doStore sideband b s) := by
  unfold doStore
  repeat' first
    | with_reducible first
        | assumption | apply queueRun_keeps | apply ite_keeps | apply State.tile_keeps (s0 := s0)
    | dsimp only | split | intro _

theorem doDiscard_keeps {s0 : State} (b : List Byte) (s : State) (hs : Keeps s0 s) : Keeps s0 (doDiscard b s) := by
  unfold doDiscard
  repeat' first
    | with_reducible first
        | assumption | apply Security.setStaged_ok | apply And.intro | apply Keeps.hbm (s0 := s0) | apply Keeps.hostMem (s0 := s0)
        | apply Keeps.tiles (s0 := s0) | apply Keeps.sec | apply Keeps.boot | apply Keeps.pending | apply Keeps.fresh
        | apply State.tile_keeps (s0 := s0) | apply Tile.memOk.store | apply ite_keeps
    | dsimp only | simp only [Keeps_mk] | simp only [Tile.memOk_mk] | split | intro _

theorem doBindKey_keeps {s0 : State} (b : List Byte) (s : State) (hs : Keeps s0 s) : Keeps s0 (doBindKey b s) := by
  unfold doBindKey
  repeat' first
    | with_reducible first
        | assumption | apply Security.setStaged_ok | apply And.intro | apply Keeps.hbm (s0 := s0) | apply Keeps.hostMem (s0 := s0)
        | apply Keeps.tiles (s0 := s0) | apply Keeps.sec | apply Keeps.boot | apply Keeps.pending | apply Keeps.fresh
        | apply State.tile_keeps (s0 := s0) | apply Tile.memOk.store | apply ite_keeps
    | dsimp only | simp only [Keeps_mk] | simp only [Tile.memOk_mk] | split | intro _

theorem doOwnerRelease_keeps {s0 : State} (sideband : Bool) (b : List Byte) (s : State) (hs : Keeps s0 s) : Keeps s0 (doOwnerRelease sideband b s) := by
  unfold doOwnerRelease
  repeat' first
    | with_reducible first
        | assumption | apply queueRun_keeps | apply ite_keeps | apply State.tile_keeps (s0 := s0)
    | dsimp only | split | intro _

theorem doPowerKeyBind_keeps {s0 : State} (s : State) (hs : Keeps s0 s) : Keeps s0 (doPowerKeyBind s) := by
  unfold doPowerKeyBind
  repeat' first
    | with_reducible first
        | assumption | apply And.intro | apply Memory.wf_memWrite | apply Keeps.hbm (s0 := s0) | apply Keeps.hostMem (s0 := s0)
        | apply Keeps.tiles (s0 := s0) | apply Keeps.sec | apply Keeps.boot | apply Keeps.pending | apply Keeps.fresh | apply Keeps.fresh1
        | apply secOk.nOp | apply secOk.nOwn | apply secOk.nCeil | apply secOk.nDebug | apply secOk.nonces | apply bootOk.floors
        | apply Tile.memOk.store | apply State.tile_keeps (s0 := s0) | apply tilesOk_sset | apply tilesOk_map | apply Memory.wf_filter
        | apply Memory.wf_memPut | apply foldlSnd_keeps | apply ite_keeps | apply ite_optKeeps | apply foldlThd_keeps | apply foldlMem_wf
        | apply Memory.wf_empty | apply tilesOk_empty | apply Tile.memOk_default
    | dsimp only | simp only [optKeeps_none, optKeeps_some, optTileOk_none, optTileOk_some, optPairKeeps_none, optPairKeeps_some]
    | simp only [Keeps_mk] | simp only [Tile.memOk_mk] | simp only [secOk_mk] | simp only [bootOk_mk] | split | intro _

theorem doAuditAck_keeps {s0 : State} (sideband : Bool) (b : List Byte) (s : State) (hs : Keeps s0 s) : Keeps s0 (doAuditAck sideband b s) := by
  unfold doAuditAck
  repeat' first
    | with_reducible first
        | assumption | apply freeBytes_keeps | apply Tile.count_keeps | (refine freeBytes_keeps_eq ?_ (by assumption)) | apply And.intro
        | apply Memory.wf_memWrite | apply Keeps.hbm (s0 := s0) | apply Keeps.hostMem (s0 := s0) | apply Keeps.tiles (s0 := s0) | apply Keeps.sec
        | apply Keeps.boot | apply Keeps.pending | apply Keeps.fresh | apply Keeps.fresh1 | apply secOk.nOp | apply secOk.nOwn | apply secOk.nCeil
        | apply secOk.nDebug | apply secOk.nonces | apply bootOk.floors | apply Tile.memOk.store | apply State.tile_keeps (s0 := s0)
        | apply tilesOk_sset | apply tilesOk_map | apply Memory.wf_filter | apply Memory.wf_memPut | apply foldlSnd_keeps | apply ite_keeps
        | apply ite_optKeeps | apply foldlThd_keeps | apply foldlMem_wf | apply Memory.wf_empty | apply tilesOk_empty | apply Tile.memOk_default
    | dsimp only | simp only [optKeeps_none, optKeeps_some, optTileOk_none, optTileOk_some, optPairKeeps_none, optPairKeeps_some]
    | simp only [Keeps_mk] | simp only [Tile.memOk_mk] | simp only [secOk_mk] | simp only [bootOk_mk] | split | intro _

theorem doStagePartners_keeps {s0 : State} (b : List Byte) (s : State) (hs : Keeps s0 s) : Keeps s0 (doStagePartners b s) := by
  unfold doStagePartners
  repeat' first
    | with_reducible first
        | assumption | apply And.intro | apply Memory.wf_memWrite | apply Keeps.hbm (s0 := s0) | apply Keeps.hostMem (s0 := s0)
        | apply Keeps.tiles (s0 := s0) | apply Keeps.sec | apply Keeps.boot | apply Keeps.pending | apply Keeps.fresh | apply Keeps.fresh1
        | apply secOk.nOp | apply secOk.nOwn | apply secOk.nCeil | apply secOk.nDebug | apply secOk.nonces | apply bootOk.floors
        | apply Tile.memOk.store | apply State.tile_keeps (s0 := s0) | apply tilesOk_sset | apply tilesOk_map | apply Memory.wf_filter
        | apply Memory.wf_memPut | apply foldlSnd_keeps | apply ite_keeps | apply ite_optKeeps | apply foldlThd_keeps | apply foldlMem_wf
        | apply Memory.wf_empty | apply tilesOk_empty | apply Tile.memOk_default
    | dsimp only | simp only [optKeeps_none, optKeeps_some, optTileOk_none, optTileOk_some, optPairKeeps_none, optPairKeeps_some]
    | simp only [Keeps_mk] | simp only [Tile.memOk_mk] | simp only [secOk_mk] | simp only [bootOk_mk] | split | intro _

theorem doAttestOwner_keeps {s0 : State} (sideband : Bool) (b : List Byte) (s : State) (hs : Keeps s0 s) : Keeps s0 (doAttestOwner sideband b s) := by
  unfold doAttestOwner
  repeat' first
    | with_reducible first
        | assumption | apply startReport_keeps | apply ite_keeps | apply State.tile_keeps (s0 := s0)
    | dsimp only | split | intro _

theorem roleEffect_keeps {s0 : State} (sideband : Bool) (b : List Byte) (s : State) (hs : Keeps s0 s) : Keeps s0 (roleEffect sideband b s) := by
  unfold roleEffect
  repeat' first
    | with_reducible first
        | assumption | apply doWriteRegs_keeps | apply doStageEnvelope_keeps | apply doEnvelopeAlign_keeps | apply doStore_keeps
        | apply doDiscard_keeps | apply doBindKey_keeps | apply doOwnerRelease_keeps | apply doPowerKeyBind_keeps | apply doAuditAck_keeps
        | apply doStagePartners_keeps | apply doAttestOwner_keeps | apply ite_keeps | apply State.tile_keeps (s0 := s0)
    | dsimp only | split | intro _

theorem noteEntry_keeps {s0 : State} (b : List Byte) (chk : RoleCheck) (s : State) (hs : Keeps s0 s) : Keeps s0 (noteEntry b chk s) := by
  unfold noteEntry
  repeat' first
    | with_reducible first
        | assumption | apply recordFault_keeps | apply And.intro | apply Memory.wf_memWrite | apply Keeps.hbm (s0 := s0)
        | apply Keeps.hostMem (s0 := s0) | apply Keeps.tiles (s0 := s0) | apply Keeps.sec | apply Keeps.boot | apply Keeps.pending
        | apply Keeps.fresh | apply Keeps.fresh1 | apply secOk.nOp | apply secOk.nOwn | apply secOk.nCeil | apply secOk.nDebug | apply secOk.nonces
        | apply bootOk.floors | apply Tile.memOk.store | apply State.tile_keeps (s0 := s0) | apply tilesOk_sset | apply tilesOk_map
        | apply Memory.wf_filter | apply Memory.wf_memPut | apply foldlSnd_keeps | apply ite_keeps | apply ite_optKeeps | apply foldlThd_keeps
        | apply foldlMem_wf | apply Memory.wf_empty | apply tilesOk_empty | apply Tile.memOk_default
    | dsimp only | simp only [optKeeps_none, optKeeps_some, optTileOk_none, optTileOk_some, optPairKeeps_none, optPairKeeps_some]
    | simp only [Keeps_mk] | simp only [Tile.memOk_mk] | simp only [secOk_mk] | simp only [bootOk_mk] | split | intro _

theorem noteHead_keeps {s0 : State} (chk : RoleCheck) (s : State) (hs : Keeps s0 s) : Keeps s0 (noteHead chk s) := by
  unfold noteHead
  repeat' first
    | with_reducible first
        | assumption | apply And.intro | apply Memory.wf_memWrite | apply Keeps.hbm (s0 := s0) | apply Keeps.hostMem (s0 := s0)
        | apply Keeps.tiles (s0 := s0) | apply Keeps.sec | apply Keeps.boot | apply Keeps.pending | apply Keeps.fresh | apply Keeps.fresh1
        | apply secOk.nOp | apply secOk.nOwn | apply secOk.nCeil | apply secOk.nDebug | apply secOk.nonces | apply bootOk.floors
        | apply Tile.memOk.store | apply State.tile_keeps (s0 := s0) | apply tilesOk_sset | apply tilesOk_map | apply Memory.wf_filter
        | apply Memory.wf_memPut | apply foldlSnd_keeps | apply ite_keeps | apply ite_optKeeps | apply foldlThd_keeps | apply foldlMem_wf
        | apply Memory.wf_empty | apply tilesOk_empty | apply Tile.memOk_default
    | dsimp only | simp only [optKeeps_none, optKeeps_some, optTileOk_none, optTileOk_some, optPairKeeps_none, optPairKeeps_some]
    | simp only [Keeps_mk] | simp only [Tile.memOk_mk] | simp only [secOk_mk] | simp only [bootOk_mk] | split | intro _

theorem advanceNonce_keeps {s0 : State} (b : List Byte) (s : State) (hs : Keeps s0 s) (hn : (sgetD s.sec.nonces (rcRole b) 0).toNat ≤ rcNonce b)
    (h1 : rcNonce b + 1 < 2 ^ 64) : Keeps s0 (advanceNonce b s) := by
  refine ⟨hs.pending, hs.fresh, hs.hbm, hs.hostMem, hs.tiles, ⟨hs.sec.nOp, hs.sec.nOwn, hs.sec.nCeil, hs.sec.nDebug, ?_⟩, hs.boot⟩
  intro r
  show _ ≤ (sgetD (sset s.sec.nonces (rcRole b) (BitVec.ofNat 64 (rcNonce b + 1))) r 0).toNat
  by_cases e : r = rcRole b
  · subst e
    rw [sgetD_sset_self, BitVec.toNat_ofNat, Nat.mod_eq_of_lt h1]
    have := hs.sec.nonces (rcRole b)
    omega
  · rw [sgetD_sset_ne _ _ _ _ _ e]
    exact hs.sec.nonces r

theorem refuseRole_keeps {s0 : State} (sideband : Bool) (b : List Byte) (step : Nat) (s : State) (hs : Keeps s0 s) : Keeps s0 (refuseRole sideband b step s) := by
  unfold refuseRole
  repeat' first
    | with_reducible first
        | assumption | apply roleReply_keeps | apply noteRefusal_keeps | apply ite_keeps | apply State.tile_keeps (s0 := s0)
    | dsimp only | split | intro _

theorem roleCommand_keeps {s0 : State} (sideband : Bool) (b : List Byte) (chk : RoleCheck) (s : State) (hs : Keeps s0 s) : Keeps s0 (roleCommand sideband b chk s) := by
  unfold roleCommand
  split
  · refine refuseRole_keeps _ _ _ _ ?_
    split
    · exact noteEntry_keeps _ _ _ hs
    · exact hs
  · rename_i e
    have hn : (sgetD s.sec.nonces (rcRole b) 0).toNat ≤ rcNonce b ∧ rcNonce b ≠ 2 ^ 64 - 1 := by
      unfold rcStep at e
      dsimp only at e
      repeat' split at e
      all_goals first | (cases e; done) | skip
      rename_i h4 _ _
      simp only [Bool.or_eq_true, decide_eq_true_eq, not_or] at h4
      exact ⟨Nat.not_lt.mp h4.1, h4.2⟩
    have hb : rcNonce b < 2 ^ 64 := by
      unfold rcNonce
      exact bytesAt_lt _ _ _
    have ha : Keeps s0 (advanceNonce b { s with sec := { s.sec with refusal := 0 } }) := by
      refine advanceNonce_keeps _ _ ?_ hn.1 (by omega)
      exact ⟨hs.pending, hs.fresh, hs.hbm, hs.hostMem, hs.tiles, hs.sec, hs.boot⟩
    have h1 := roleEffect_keeps sideband b _ (noteHead_keeps chk _ ha)
    have h2 : ∀ w, Keeps s0 { roleEffect sideband b (noteHead chk (advanceNonce b { s with sec := { s.sec with refusal := 0 } })) with
        sec := { (roleEffect sideband b (noteHead chk (advanceNonce b { s with sec := { s.sec with refusal := 0 } }))).sec with refusal := w } } :=
      fun w => ⟨h1.pending, h1.fresh, h1.hbm, h1.hostMem, h1.tiles, h1.sec, h1.boot⟩
    refine ite_keeps _ _ _ ?_ (roleReply_keeps _ _ _ _ ?_)
    · exact ite_keeps _ _ _ (h2 _) h1
    · exact ite_keeps _ _ _ (h2 _) h1

theorem roleRow_keeps {s0 : State} (op : Nat) (sideband : Bool) (b : List Byte) (chk : RoleCheck) (s : State) (hs : Keeps s0 s) : Keeps s0 (roleRow op sideband b chk s) := by
  unfold roleRow
  repeat' first
    | with_reducible first
        | assumption | apply roleCommand_keeps | apply ite_keeps | apply State.tile_keeps (s0 := s0)
    | dsimp only | split | intro _

theorem execRoleCommand_keeps {s0 : State} (sideband : Bool) (b : List Byte) (chk : RoleCheck) (s : State) (hs : Keeps s0 s) : OutcomeKeeps s0 (execRoleCommand sideband b chk s) := by
  unfold execRoleCommand
  repeat' first
    | with_reducible first
        | assumption | apply OutcomeKeeps_next | apply roleCommand_keeps | apply ite_keeps | apply State.tile_keeps (s0 := s0)
    | dsimp only | split | intro _

theorem execWriteRegs_keeps {s0 : State} (sideband : Bool) (b : List Byte) (chk : RoleCheck) (s : State) (hs : Keeps s0 s) : OutcomeKeeps s0 (execWriteRegs sideband b chk s) := by
  unfold execWriteRegs
  repeat' first
    | with_reducible first
        | assumption | apply OutcomeKeeps_next | apply roleRow_keeps | apply ite_keeps | apply State.tile_keeps (s0 := s0)
    | dsimp only | split | intro _

theorem execStageEnvelope_keeps {s0 : State} (sideband : Bool) (b : List Byte) (chk : RoleCheck) (s : State) (hs : Keeps s0 s) : OutcomeKeeps s0 (execStageEnvelope sideband b chk s) := by
  unfold execStageEnvelope
  repeat' first
    | with_reducible first
        | assumption | apply OutcomeKeeps_next | apply roleRow_keeps | apply ite_keeps | apply State.tile_keeps (s0 := s0)
    | dsimp only | split | intro _

theorem execEnvelopeAlign_keeps {s0 : State} (sideband : Bool) (b : List Byte) (chk : RoleCheck) (s : State) (hs : Keeps s0 s) : OutcomeKeeps s0 (execEnvelopeAlign sideband b chk s) := by
  unfold execEnvelopeAlign
  repeat' first
    | with_reducible first
        | assumption | apply OutcomeKeeps_next | apply roleRow_keeps | apply ite_keeps | apply State.tile_keeps (s0 := s0)
    | dsimp only | split | intro _

theorem execStore_keeps {s0 : State} (sideband : Bool) (b : List Byte) (chk : RoleCheck) (s : State) (hs : Keeps s0 s) : OutcomeKeeps s0 (execStore sideband b chk s) := by
  unfold execStore
  repeat' first
    | with_reducible first
        | assumption | apply OutcomeKeeps_next | apply roleRow_keeps | apply ite_keeps | apply State.tile_keeps (s0 := s0)
    | dsimp only | split | intro _

theorem execDiscardStaged_keeps {s0 : State} (sideband : Bool) (b : List Byte) (chk : RoleCheck) (s : State) (hs : Keeps s0 s) : OutcomeKeeps s0 (execDiscardStaged sideband b chk s) := by
  unfold execDiscardStaged
  repeat' first
    | with_reducible first
        | assumption | apply OutcomeKeeps_next | apply roleRow_keeps | apply ite_keeps | apply State.tile_keeps (s0 := s0)
    | dsimp only | split | intro _

theorem execBindKey_keeps {s0 : State} (sideband : Bool) (b : List Byte) (chk : RoleCheck) (s : State) (hs : Keeps s0 s) : OutcomeKeeps s0 (execBindKey sideband b chk s) := by
  unfold execBindKey
  repeat' first
    | with_reducible first
        | assumption | apply OutcomeKeeps_next | apply roleRow_keeps | apply ite_keeps | apply State.tile_keeps (s0 := s0)
    | dsimp only | split | intro _

theorem execOwnerRelease_keeps {s0 : State} (sideband : Bool) (b : List Byte) (chk : RoleCheck) (s : State) (hs : Keeps s0 s) : OutcomeKeeps s0 (execOwnerRelease sideband b chk s) := by
  unfold execOwnerRelease
  repeat' first
    | with_reducible first
        | assumption | apply OutcomeKeeps_next | apply roleRow_keeps | apply ite_keeps | apply State.tile_keeps (s0 := s0)
    | dsimp only | split | intro _

theorem execPowerKeyBind_keeps {s0 : State} (sideband : Bool) (b : List Byte) (chk : RoleCheck) (s : State) (hs : Keeps s0 s) : OutcomeKeeps s0 (execPowerKeyBind sideband b chk s) := by
  unfold execPowerKeyBind
  repeat' first
    | with_reducible first
        | assumption | apply OutcomeKeeps_next | apply roleRow_keeps | apply ite_keeps | apply State.tile_keeps (s0 := s0)
    | dsimp only | split | intro _

theorem execAuditAck_keeps {s0 : State} (sideband : Bool) (b : List Byte) (chk : RoleCheck) (s : State) (hs : Keeps s0 s) : OutcomeKeeps s0 (execAuditAck sideband b chk s) := by
  unfold execAuditAck
  repeat' first
    | with_reducible first
        | assumption | apply OutcomeKeeps_next | apply roleRow_keeps | apply ite_keeps | apply State.tile_keeps (s0 := s0)
    | dsimp only | split | intro _

theorem execStagePartners_keeps {s0 : State} (sideband : Bool) (b : List Byte) (chk : RoleCheck) (s : State) (hs : Keeps s0 s) : OutcomeKeeps s0 (execStagePartners sideband b chk s) := by
  unfold execStagePartners
  repeat' first
    | with_reducible first
        | assumption | apply OutcomeKeeps_next | apply roleRow_keeps | apply ite_keeps | apply State.tile_keeps (s0 := s0)
    | dsimp only | split | intro _

theorem execAttestOwner_keeps {s0 : State} (sideband : Bool) (b : List Byte) (chk : RoleCheck) (s : State) (hs : Keeps s0 s) : OutcomeKeeps s0 (execAttestOwner sideband b chk s) := by
  unfold execAttestOwner
  repeat' first
    | with_reducible first
        | assumption | apply OutcomeKeeps_next | apply roleRow_keeps | apply ite_keeps | apply State.tile_keeps (s0 := s0)
    | dsimp only | split | intro _

theorem writeAttest_keeps {s0 : State} (v : Word) (s : State) (hs : Keeps s0 s) : Keeps s0 (writeAttest v s) := by
  unfold writeAttest
  repeat' first
    | with_reducible first
        | assumption | apply State.answer_keeps | apply refuseAccess_keeps | apply startReport_keeps | apply ite_keeps
        | apply State.tile_keeps (s0 := s0)
    | dsimp only | split | intro _

theorem execAttestRequest_keeps {s0 : State} (src : Source) (v : Word) (s : State) (hs : Keeps s0 s) : OutcomeKeeps s0 (execAttestRequest src v s) := by
  unfold execAttestRequest
  repeat' first
    | with_reducible first
        | assumption | apply OutcomeKeeps_next | apply refuseAccess_keeps | apply writeAttest_keeps | apply ite_keeps
        | apply State.tile_keeps (s0 := s0)
    | dsimp only | split | intro _

/-! ### Machine/Boot.lean -/

theorem regrainMem_wf (g g' : Nat) (m : Memory) (h : m.wf = true) : (regrainMem g g' m).wf = true := by
  unfold regrainMem
  split
  · exact h
  · exact foldlMem_wf _ _ _ (fun m a hm => Memory.wf_memPut m _ _ hm) rfl

theorem Security.kept_ok {s0 : State} (k : Security) (h : secOk s0 k) : secOk s0 k.kept := h

theorem Boot.setFlash_ok {s0 : State} (b : Boot) (i : Nat) (k : FwBank) (h : bootOk s0 b) : bootOk s0 (b.setFlash i k) := by
  unfold Boot.setFlash
  split <;> exact h

theorem resetPackage_keeps {s0 : State} (keep : Bool) (s : State) (hs : Keeps s0 s) : Keeps s0 (resetPackage keep s) := by
  unfold resetPackage
  simp only [Keeps_mk, bootOk_mk]
  refine ⟨hs.pending, hs.fresh, ?_, hs.hostMem, tilesOk_empty, Security.kept_ok _ hs.sec, hs.boot⟩
  split
  · exact regrainMem_wf _ _ _ hs.hbm
  · rfl

theorem execResetNAssert_keeps {s0 : State} (s : State) (hs : Keeps s0 s) : OutcomeKeeps s0 (execResetNAssert s) := by
  unfold execResetNAssert
  repeat' first
    | with_reducible first
        | assumption | apply OutcomeKeeps_next | apply resetPackage_keeps | apply And.intro | apply Keeps.hbm (s0 := s0)
        | apply Keeps.hostMem (s0 := s0) | apply Keeps.tiles (s0 := s0) | apply Keeps.sec | apply Keeps.boot | apply Keeps.pending
        | apply Keeps.fresh | apply State.tile_keeps (s0 := s0) | apply Tile.memOk.store | apply ite_keeps
    | dsimp only | simp only [Keeps_mk] | simp only [Tile.memOk_mk] | split | intro _

theorem execResetNRelease_keeps {s0 : State} (s : State) (hs : Keeps s0 s) : OutcomeKeeps s0 (execResetNRelease s) := by
  unfold execResetNRelease
  repeat' first
    | with_reducible first
        | assumption | apply OutcomeKeeps_next | apply And.intro | apply Keeps.hbm (s0 := s0) | apply Keeps.hostMem (s0 := s0)
        | apply Keeps.tiles (s0 := s0) | apply Keeps.sec | apply Keeps.boot | apply Keeps.pending | apply Keeps.fresh
        | apply State.tile_keeps (s0 := s0) | apply Tile.memOk.store | apply ite_keeps
    | dsimp only | simp only [Keeps_mk] | simp only [Tile.memOk_mk] | split | intro _

theorem execPowerOkRise_keeps {s0 : State} (s : State) (hs : Keeps s0 s) : OutcomeKeeps s0 (execPowerOkRise s) := by
  unfold execPowerOkRise
  repeat' first
    | with_reducible first
        | assumption | apply OutcomeKeeps_next | apply And.intro | apply Keeps.hbm (s0 := s0) | apply Keeps.hostMem (s0 := s0)
        | apply Keeps.tiles (s0 := s0) | apply Keeps.sec | apply Keeps.boot | apply Keeps.pending | apply Keeps.fresh
        | apply State.tile_keeps (s0 := s0) | apply Tile.memOk.store | apply ite_keeps
    | dsimp only | simp only [Keeps_mk] | simp only [Tile.memOk_mk] | split | intro _

theorem execPowerLoss_keeps {s0 : State} (s : State) (hs : Keeps s0 s) : OutcomeKeeps s0 (execPowerLoss s) := by
  unfold execPowerLoss
  repeat' first
    | with_reducible first
        | assumption | apply OutcomeKeeps_next | apply resetPackage_keeps | apply And.intro | apply Keeps.hbm (s0 := s0)
        | apply Keeps.hostMem (s0 := s0) | apply Keeps.tiles (s0 := s0) | apply Keeps.sec | apply Keeps.boot | apply Keeps.pending
        | apply Keeps.fresh | apply State.tile_keeps (s0 := s0) | apply Tile.memOk.store | apply ite_keeps
    | dsimp only | simp only [Keeps_mk] | simp only [Tile.memOk_mk] | split | intro _

theorem enterStage_keeps {s0 : State} (n : Nat) (s : State) (hs : Keeps s0 s) : Keeps s0 (enterStage n s) := by
  unfold enterStage
  repeat' first
    | with_reducible first
        | assumption | apply And.intro | apply Memory.wf_memWrite | apply Keeps.hbm (s0 := s0) | apply Keeps.hostMem (s0 := s0)
        | apply Keeps.tiles (s0 := s0) | apply Keeps.sec | apply Keeps.boot | apply Keeps.pending | apply Keeps.fresh | apply Keeps.fresh1
        | apply secOk.nOp | apply secOk.nOwn | apply secOk.nCeil | apply secOk.nDebug | apply secOk.nonces | apply bootOk.floors
        | apply Tile.memOk.store | apply State.tile_keeps (s0 := s0) | apply tilesOk_sset | apply tilesOk_map | apply Memory.wf_filter
        | apply Memory.wf_memPut | apply foldlSnd_keeps | apply ite_keeps | apply ite_optKeeps | apply foldlThd_keeps | apply foldlMem_wf
        | apply Memory.wf_empty | apply tilesOk_empty | apply Tile.memOk_default
    | dsimp only | simp only [optKeeps_none, optKeeps_some, optTileOk_none, optTileOk_some, optPairKeeps_none, optPairKeeps_some]
    | simp only [Keeps_mk] | simp only [Tile.memOk_mk] | simp only [secOk_mk] | simp only [bootOk_mk] | split | intro _

theorem resolveJournal_keeps {s0 : State} (complete : Bool) (s : State) (hs : Keeps s0 s) : Keeps s0 (resolveJournal complete s) := by
  unfold resolveJournal
  repeat' first
    | with_reducible first
        | assumption | apply complete_keeps | apply commitRun_keeps | apply And.intro | apply Memory.wf_memWrite | apply Keeps.hbm (s0 := s0)
        | apply Keeps.hostMem (s0 := s0) | apply Keeps.tiles (s0 := s0) | apply Keeps.sec | apply Keeps.boot | apply Keeps.pending
        | apply Keeps.fresh | apply Keeps.fresh1 | apply secOk.nOp | apply secOk.nOwn | apply secOk.nCeil | apply secOk.nDebug | apply secOk.nonces
        | apply bootOk.floors | apply Tile.memOk.store | apply State.tile_keeps (s0 := s0) | apply tilesOk_sset | apply tilesOk_map
        | apply Memory.wf_filter | apply Memory.wf_memPut | apply foldlSnd_keeps | apply ite_keeps | apply ite_optKeeps | apply foldlThd_keeps
        | apply foldlMem_wf | apply Memory.wf_empty | apply tilesOk_empty | apply Tile.memOk_default
    | dsimp only | simp only [optKeeps_none, optKeeps_some, optTileOk_none, optTileOk_some, optPairKeeps_none, optPairKeeps_some]
    | simp only [Keeps_mk] | simp only [Tile.memOk_mk] | simp only [secOk_mk] | simp only [bootOk_mk] | split | intro _

theorem readRecords_keeps {s0 : State} (badA bad : List (Fin 14)) (s : State) (hs : Keeps s0 s) : Keeps s0 (readRecords badA bad s) := by
  unfold readRecords
  repeat' first
    | with_reducible first
        | assumption | apply forAll_keeps | apply settingBad_keeps | apply And.intro | apply Memory.wf_memWrite | apply Keeps.hbm (s0 := s0)
        | apply Keeps.hostMem (s0 := s0) | apply Keeps.tiles (s0 := s0) | apply Keeps.sec | apply Keeps.boot | apply Keeps.pending
        | apply Keeps.fresh | apply Keeps.fresh1 | apply secOk.nOp | apply secOk.nOwn | apply secOk.nCeil | apply secOk.nDebug | apply secOk.nonces
        | apply bootOk.floors | apply Tile.memOk.store | apply State.tile_keeps (s0 := s0) | apply tilesOk_sset | apply tilesOk_map
        | apply Memory.wf_filter | apply Memory.wf_memPut | apply foldlSnd_keeps | apply ite_keeps | apply ite_optKeeps | apply foldlThd_keeps
        | apply foldlMem_wf | apply Memory.wf_empty | apply tilesOk_empty | apply Tile.memOk_default
    | dsimp only | simp only [optKeeps_none, optKeeps_some, optTileOk_none, optTileOk_some, optPairKeeps_none, optPairKeeps_some]
    | simp only [Keeps_mk] | simp only [Tile.memOk_mk] | simp only [secOk_mk] | simp only [bootOk_mk] | split | intro _

theorem takeBank_keeps {s0 : State} (c : Option Nat) (s : State) (hs : Keeps s0 s) : Keeps s0 (takeBank c s) := by
  unfold takeBank
  repeat' first
    | with_reducible first
        | assumption | apply And.intro | apply Memory.wf_memWrite | apply Keeps.hbm (s0 := s0) | apply Keeps.hostMem (s0 := s0)
        | apply Keeps.tiles (s0 := s0) | apply Keeps.sec | apply Keeps.boot | apply Keeps.pending | apply Keeps.fresh | apply Keeps.fresh1
        | apply secOk.nOp | apply secOk.nOwn | apply secOk.nCeil | apply secOk.nDebug | apply secOk.nonces | apply bootOk.floors
        | apply Tile.memOk.store | apply State.tile_keeps (s0 := s0) | apply tilesOk_sset | apply tilesOk_map | apply Memory.wf_filter
        | apply Memory.wf_memPut | apply foldlSnd_keeps | apply ite_keeps | apply ite_optKeeps | apply foldlThd_keeps | apply foldlMem_wf
        | apply Memory.wf_empty | apply tilesOk_empty | apply Tile.memOk_default
    | dsimp only | simp only [optKeeps_none, optKeeps_some, optTileOk_none, optTileOk_some, optPairKeeps_none, optPairKeeps_some]
    | simp only [Keeps_mk] | simp only [Tile.memOk_mk] | simp only [secOk_mk] | simp only [bootOk_mk] | split | intro _

theorem execBootRomStage_keeps {s0 : State} (romOk journal aOk bOk : Bool) (badA bad : List (Fin 14)) (s : State) (hs : Keeps s0 s) : OutcomeKeeps s0 (execBootRomStage romOk journal aOk bOk badA bad s) := by
  unfold execBootRomStage
  repeat' first
    | with_reducible first
        | assumption | apply OutcomeKeeps_next | apply enterStage_keeps | apply readRecords_keeps | apply resolveJournal_keeps | apply takeBank_keeps
        | apply And.intro | apply Keeps.hbm (s0 := s0) | apply Keeps.hostMem (s0 := s0) | apply Keeps.tiles (s0 := s0) | apply Keeps.sec
        | apply Keeps.boot | apply Keeps.pending | apply Keeps.fresh | apply State.tile_keeps (s0 := s0) | apply Tile.memOk.store | apply ite_keeps
    | dsimp only | simp only [Keeps_mk] | simp only [Tile.memOk_mk] | split | intro _

theorem revertBoot_keeps {s0 : State} (s : State) (hs : Keeps s0 s) : Keeps s0 (revertBoot s) := by
  unfold revertBoot
  repeat' first
    | with_reducible first
        | assumption | apply Boot.setFlash_ok | apply resetPackage_keeps | apply And.intro | apply Memory.wf_memWrite | apply Keeps.hbm (s0 := s0)
        | apply Keeps.hostMem (s0 := s0) | apply Keeps.tiles (s0 := s0) | apply Keeps.sec | apply Keeps.boot | apply Keeps.pending
        | apply Keeps.fresh | apply Keeps.fresh1 | apply secOk.nOp | apply secOk.nOwn | apply secOk.nCeil | apply secOk.nDebug | apply secOk.nonces
        | apply bootOk.floors | apply Tile.memOk.store | apply State.tile_keeps (s0 := s0) | apply tilesOk_sset | apply tilesOk_map
        | apply Memory.wf_filter | apply Memory.wf_memPut | apply foldlSnd_keeps | apply ite_keeps | apply ite_optKeeps | apply foldlThd_keeps
        | apply foldlMem_wf | apply Memory.wf_empty | apply tilesOk_empty | apply Tile.memOk_default
    | dsimp only | simp only [optKeeps_none, optKeeps_some, optTileOk_none, optTileOk_some, optPairKeeps_none, optPairKeeps_some]
    | simp only [Keeps_mk] | simp only [Tile.memOk_mk] | simp only [secOk_mk] | simp only [bootOk_mk] | split | intro _

theorem bootFault_keeps {s0 : State} (fc : Nat) (s : State) (hs : Keeps s0 s) : Keeps s0 (bootFault fc s) := by
  unfold bootFault
  repeat' first
    | with_reducible first
        | assumption | apply revertBoot_keeps | apply And.intro | apply Memory.wf_memWrite | apply Keeps.hbm (s0 := s0)
        | apply Keeps.hostMem (s0 := s0) | apply Keeps.tiles (s0 := s0) | apply Keeps.sec | apply Keeps.boot | apply Keeps.pending
        | apply Keeps.fresh | apply Keeps.fresh1 | apply secOk.nOp | apply secOk.nOwn | apply secOk.nCeil | apply secOk.nDebug | apply secOk.nonces
        | apply bootOk.floors | apply Tile.memOk.store | apply State.tile_keeps (s0 := s0) | apply tilesOk_sset | apply tilesOk_map
        | apply Memory.wf_filter | apply Memory.wf_memPut | apply foldlSnd_keeps | apply ite_keeps | apply ite_optKeeps | apply foldlThd_keeps
        | apply foldlMem_wf | apply Memory.wf_empty | apply tilesOk_empty | apply Tile.memOk_default
    | dsimp only | simp only [optKeeps_none, optKeeps_some, optTileOk_none, optTileOk_some, optPairKeeps_none, optPairKeeps_some]
    | simp only [Keeps_mk] | simp only [Tile.memOk_mk] | simp only [secOk_mk] | simp only [bootOk_mk] | split | intro _

theorem execFirmwareLoadStage_keeps {s0 : State} (ok : Bool) (s : State) (hs : Keeps s0 s) : OutcomeKeeps s0 (execFirmwareLoadStage ok s) := by
  unfold execFirmwareLoadStage
  repeat' first
    | with_reducible first
        | assumption | apply OutcomeKeeps_next | apply enterStage_keeps | apply State.draw_keeps | apply bootFault_keeps | apply And.intro
        | apply Memory.wf_memWrite | apply Keeps.hbm (s0 := s0) | apply Keeps.hostMem (s0 := s0) | apply Keeps.tiles (s0 := s0) | apply Keeps.sec
        | apply Keeps.boot | apply Keeps.pending | apply Keeps.fresh | apply Keeps.fresh1 | apply secOk.nOp | apply secOk.nOwn | apply secOk.nCeil
        | apply secOk.nDebug | apply secOk.nonces | apply bootOk.floors | apply Tile.memOk.store | apply State.tile_keeps (s0 := s0)
        | apply tilesOk_sset | apply tilesOk_map | apply Memory.wf_filter | apply Memory.wf_memPut | apply foldlSnd_keeps | apply ite_keeps
        | apply ite_optKeeps | apply foldlThd_keeps | apply foldlMem_wf | apply Memory.wf_empty | apply tilesOk_empty | apply Tile.memOk_default
    | dsimp only | simp only [optKeeps_none, optKeeps_some, optTileOk_none, optTileOk_some, optPairKeeps_none, optPairKeeps_some]
    | simp only [Keeps_mk] | simp only [Tile.memOk_mk] | simp only [secOk_mk] | simp only [bootOk_mk] | split | intro _

theorem execMigrationStage_keeps {s0 : State} (ok : Bool) (s : State) (hs : Keeps s0 s) : OutcomeKeeps s0 (execMigrationStage ok s) := by
  unfold execMigrationStage
  repeat' first
    | with_reducible first
        | assumption | apply OutcomeKeeps_next | apply bootFault_keeps | apply State.draw_keeps | apply enterStage_keeps | apply freeBytes_keeps
        | apply appendAudit_keeps | (refine freeBytes_keeps_eq ?_ (by assumption)) | apply And.intro | apply Memory.wf_memWrite
        | apply Keeps.hbm (s0 := s0) | apply Keeps.hostMem (s0 := s0) | apply Keeps.tiles (s0 := s0) | apply Keeps.sec | apply Keeps.boot
        | apply Keeps.pending | apply Keeps.fresh | apply Keeps.fresh1 | apply secOk.nOp | apply secOk.nOwn | apply secOk.nCeil | apply secOk.nDebug
        | apply secOk.nonces | apply bootOk.floors | apply Tile.memOk.store | apply State.tile_keeps (s0 := s0) | apply tilesOk_sset
        | apply tilesOk_map | apply Memory.wf_filter | apply Memory.wf_memPut | apply foldlSnd_keeps | apply ite_keeps | apply ite_optKeeps
        | apply foldlThd_keeps | apply foldlMem_wf | apply Memory.wf_empty | apply tilesOk_empty | apply Tile.memOk_default
    | dsimp only | simp only [optKeeps_none, optKeeps_some, optTileOk_none, optTileOk_some, optPairKeeps_none, optPairKeeps_some]
    | simp only [Keeps_mk] | simp only [Tile.memOk_mk] | simp only [secOk_mk] | simp only [bootOk_mk] | split | intro _

theorem testFailed_keeps {s0 : State} (cls inst blk : Nat) (s : State) (hs : Keeps s0 s) : Keeps s0 (testFailed cls inst blk s) := by
  unfold testFailed
  repeat' first
    | with_reducible first
        | assumption | apply recordFault_keeps | apply ite_keeps | apply State.tile_keeps (s0 := s0)
    | dsimp only | split | intro _

theorem execCrossingTrainingStage_keeps {s0 : State} (failed : List RegionId) (s : State) (hs : Keeps s0 s) : OutcomeKeeps s0 (execCrossingTrainingStage failed s) := by
  unfold execCrossingTrainingStage
  repeat' first
    | with_reducible first
        | assumption | apply OutcomeKeeps_next | apply forAll_keeps | apply State.modRegion_keeps | apply enterStage_keeps | apply State.modDie_keeps
        | apply testFailed_keeps | apply raiseFence_keeps | apply And.intro | apply Memory.wf_memWrite | apply Keeps.hbm (s0 := s0)
        | apply Keeps.hostMem (s0 := s0) | apply Keeps.tiles (s0 := s0) | apply Keeps.sec | apply Keeps.boot | apply Keeps.pending
        | apply Keeps.fresh | apply Keeps.fresh1 | apply secOk.nOp | apply secOk.nOwn | apply secOk.nCeil | apply secOk.nDebug | apply secOk.nonces
        | apply bootOk.floors | apply Tile.memOk.store | apply State.tile_keeps (s0 := s0) | apply tilesOk_sset | apply tilesOk_map
        | apply Memory.wf_filter | apply Memory.wf_memPut | apply foldlSnd_keeps | apply ite_keeps | apply ite_optKeeps | apply foldlThd_keeps
        | apply foldlMem_wf | apply Memory.wf_empty | apply tilesOk_empty | apply Tile.memOk_default
    | dsimp only | simp only [optKeeps_none, optKeeps_some, optTileOk_none, optTileOk_some, optPairKeeps_none, optPairKeeps_some]
    | simp only [Keeps_mk] | simp only [Tile.memOk_mk] | simp only [secOk_mk] | simp only [bootOk_mk] | split | intro _

theorem execHbmTrainingStage_keeps {s0 : State} (failed : BitVec 32) (s : State) (hs : Keeps s0 s) : OutcomeKeeps s0 (execHbmTrainingStage failed s) := by
  unfold execHbmTrainingStage
  repeat' first
    | with_reducible first
        | assumption | apply OutcomeKeeps_next | apply enterStage_keeps | apply forAll_keeps | apply fenceStack_keeps | apply testFailed_keeps
        | apply State.modStack_keeps | apply ite_keeps | apply State.tile_keeps (s0 := s0)
    | dsimp only | split | intro _

theorem execSelfTestStage_keeps {s0 : State} (regions : BitVec 24) (ports : BitVec 20) (s : State) (hs : Keeps s0 s) : OutcomeKeeps s0 (execSelfTestStage regions ports s) := by
  unfold execSelfTestStage
  repeat' first
    | with_reducible first
        | assumption | apply OutcomeKeeps_next | apply enterStage_keeps | apply forAll_keeps | apply raiseFence_keeps | apply testFailed_keeps
        | apply And.intro | apply Memory.wf_memWrite | apply Keeps.hbm (s0 := s0) | apply Keeps.hostMem (s0 := s0) | apply Keeps.tiles (s0 := s0)
        | apply Keeps.sec | apply Keeps.boot | apply Keeps.pending | apply Keeps.fresh | apply Keeps.fresh1 | apply secOk.nOp | apply secOk.nOwn
        | apply secOk.nCeil | apply secOk.nDebug | apply secOk.nonces | apply bootOk.floors | apply Tile.memOk.store
        | apply State.tile_keeps (s0 := s0) | apply tilesOk_sset | apply tilesOk_map | apply Memory.wf_filter | apply Memory.wf_memPut
        | apply foldlSnd_keeps | apply ite_keeps | apply ite_optKeeps | apply foldlThd_keeps | apply foldlMem_wf | apply Memory.wf_empty
        | apply tilesOk_empty | apply Tile.memOk_default
    | dsimp only | simp only [optKeeps_none, optKeeps_some, optTileOk_none, optTileOk_some, optPairKeeps_none, optPairKeeps_some]
    | simp only [Keeps_mk] | simp only [Tile.memOk_mk] | simp only [secOk_mk] | simp only [bootOk_mk] | split | intro _

theorem execDeviceReady_keeps {s0 : State} (s : State) (hs : Keeps s0 s) : OutcomeKeeps s0 (execDeviceReady s) := by
  unfold execDeviceReady
  repeat' first
    | with_reducible first
        | assumption | apply OutcomeKeeps_next | apply enterStage_keeps | apply Boot.setFlash_ok | apply And.intro | apply Memory.wf_memWrite
        | apply Keeps.hbm (s0 := s0) | apply Keeps.hostMem (s0 := s0) | apply Keeps.tiles (s0 := s0) | apply Keeps.sec | apply Keeps.boot
        | apply Keeps.pending | apply Keeps.fresh | apply Keeps.fresh1 | apply secOk.nOp | apply secOk.nOwn | apply secOk.nCeil | apply secOk.nDebug
        | apply secOk.nonces | apply bootOk.floors | apply Tile.memOk.store | apply State.tile_keeps (s0 := s0) | apply tilesOk_sset
        | apply tilesOk_map | apply Memory.wf_filter | apply Memory.wf_memPut | apply foldlSnd_keeps | apply ite_keeps | apply ite_optKeeps
        | apply foldlThd_keeps | apply foldlMem_wf | apply Memory.wf_empty | apply tilesOk_empty | apply Tile.memOk_default
    | dsimp only | simp only [optKeeps_none, optKeeps_some, optTileOk_none, optTileOk_some, optPairKeeps_none, optPairKeeps_some]
    | simp only [Keeps_mk] | simp only [Tile.memOk_mk] | simp only [secOk_mk] | simp only [bootOk_mk] | split | intro _

theorem execStartStageTimeout_keeps {s0 : State} (s : State) (hs : Keeps s0 s) : OutcomeKeeps s0 (execStartStageTimeout s) := by
  unfold execStartStageTimeout
  repeat' first
    | with_reducible first
        | assumption | apply OutcomeKeeps_next | apply recordFault_keeps | apply revertBoot_keeps | apply And.intro | apply Memory.wf_memWrite
        | apply Keeps.hbm (s0 := s0) | apply Keeps.hostMem (s0 := s0) | apply Keeps.tiles (s0 := s0) | apply Keeps.sec | apply Keeps.boot
        | apply Keeps.pending | apply Keeps.fresh | apply Keeps.fresh1 | apply secOk.nOp | apply secOk.nOwn | apply secOk.nCeil | apply secOk.nDebug
        | apply secOk.nonces | apply bootOk.floors | apply Tile.memOk.store | apply State.tile_keeps (s0 := s0) | apply tilesOk_sset
        | apply tilesOk_map | apply Memory.wf_filter | apply Memory.wf_memPut | apply foldlSnd_keeps | apply ite_keeps | apply ite_optKeeps
        | apply foldlThd_keeps | apply foldlMem_wf | apply Memory.wf_empty | apply tilesOk_empty | apply Tile.memOk_default
    | dsimp only | simp only [optKeeps_none, optKeeps_some, optTileOk_none, optTileOk_some, optPairKeeps_none, optPairKeeps_some]
    | simp only [Keeps_mk] | simp only [Tile.memOk_mk] | simp only [secOk_mk] | simp only [bootOk_mk] | split | intro _

theorem execPendingBootTimeout_keeps {s0 : State} (s : State) (hs : Keeps s0 s) : OutcomeKeeps s0 (execPendingBootTimeout s) := by
  unfold execPendingBootTimeout
  repeat' first
    | with_reducible first
        | assumption | apply OutcomeKeeps_next | apply revertBoot_keeps | apply ite_keeps | apply State.tile_keeps (s0 := s0)
    | dsimp only | split | intro _

theorem execFencedRegionDark_keeps {s0 : State} (r : RegionId) (s : State) (hs : Keeps s0 s) : OutcomeKeeps s0 (execFencedRegionDark r s) := by
  unfold execFencedRegionDark
  repeat' first
    | with_reducible first
        | assumption | apply OutcomeKeeps_next | apply forAll_keeps | apply State.modTile_keeps | apply Tile.goneDark_keeps
        | apply State.setRegion_keeps | apply ite_keeps | apply State.tile_keeps (s0 := s0)
    | dsimp only | split | intro _

/-! ### Machine/Update.lean -/

theorem refuseBlock_keeps {s0 : State} (flag code : Nat) (s : State) (hs : Keeps s0 s) : Keeps s0 (refuseBlock flag code s) := by
  unfold refuseBlock
  repeat' first
    | with_reducible first
        | assumption | apply State.answer_keeps | apply And.intro | apply Memory.wf_memWrite | apply Keeps.hbm (s0 := s0)
        | apply Keeps.hostMem (s0 := s0) | apply Keeps.tiles (s0 := s0) | apply Keeps.sec | apply Keeps.boot | apply Keeps.pending
        | apply Keeps.fresh | apply Keeps.fresh1 | apply secOk.nOp | apply secOk.nOwn | apply secOk.nCeil | apply secOk.nDebug | apply secOk.nonces
        | apply bootOk.floors | apply Tile.memOk.store | apply State.tile_keeps (s0 := s0) | apply tilesOk_sset | apply tilesOk_map
        | apply Memory.wf_filter | apply Memory.wf_memPut | apply foldlSnd_keeps | apply ite_keeps | apply ite_optKeeps | apply foldlThd_keeps
        | apply foldlMem_wf | apply Memory.wf_empty | apply tilesOk_empty | apply Tile.memOk_default
    | dsimp only | simp only [optKeeps_none, optKeeps_some, optTileOk_none, optTileOk_some, optPairKeeps_none, optPairKeeps_some]
    | simp only [Keeps_mk] | simp only [Tile.memOk_mk] | simp only [secOk_mk] | simp only [bootOk_mk] | split | intro _

theorem modSession_keeps {s0 : State} (f : Session → Session) (s : State) (hs : Keeps s0 s) : Keeps s0 (modSession f s) := by
  unfold modSession
  repeat' first
    | with_reducible first
        | assumption | apply And.intro | apply Memory.wf_memWrite | apply Keeps.hbm (s0 := s0) | apply Keeps.hostMem (s0 := s0)
        | apply Keeps.tiles (s0 := s0) | apply Keeps.sec | apply Keeps.boot | apply Keeps.pending | apply Keeps.fresh | apply Keeps.fresh1
        | apply secOk.nOp | apply secOk.nOwn | apply secOk.nCeil | apply secOk.nDebug | apply secOk.nonces | apply bootOk.floors
        | apply Tile.memOk.store | apply State.tile_keeps (s0 := s0) | apply tilesOk_sset | apply tilesOk_map | apply Memory.wf_filter
        | apply Memory.wf_memPut | apply foldlSnd_keeps | apply ite_keeps | apply ite_optKeeps | apply foldlThd_keeps | apply foldlMem_wf
        | apply Memory.wf_empty | apply tilesOk_empty | apply Tile.memOk_default
    | dsimp only | simp only [optKeeps_none, optKeeps_some, optTileOk_none, optTileOk_some, optPairKeeps_none, optPairKeeps_some]
    | simp only [Keeps_mk] | simp only [Tile.memOk_mk] | simp only [secOk_mk] | simp only [bootOk_mk] | split | intro _

theorem modSpare_keeps {s0 : State} (f : FwBank → FwBank) (s : State) (hs : Keeps s0 s) : Keeps s0 (modSpare f s) := by
  unfold modSpare
  repeat' first
    | with_reducible first
        | assumption | apply Boot.setFlash_ok | apply And.intro | apply Keeps.hbm (s0 := s0) | apply Keeps.hostMem (s0 := s0)
        | apply Keeps.tiles (s0 := s0) | apply Keeps.sec | apply Keeps.boot | apply Keeps.pending | apply Keeps.fresh
        | apply State.tile_keeps (s0 := s0) | apply Tile.memOk.store | apply ite_keeps
    | dsimp only | simp only [Keeps_mk] | simp only [Tile.memOk_mk] | split | intro _

theorem execUpdateBegin_keeps {s0 : State} (b : List Byte) (s : State) (hs : Keeps s0 s) : OutcomeKeeps s0 (execUpdateBegin b s) := by
  unfold execUpdateBegin
  repeat' first
    | with_reducible first
        | assumption | apply OutcomeKeeps_next | apply refuseBlock_keeps | apply modSpare_keeps | apply modSession_keeps | apply State.answer_keeps
        | apply ite_keeps | apply State.tile_keeps (s0 := s0)
    | dsimp only | split | intro _

theorem execUpdateCopyComplete_keeps {s0 : State} (s : State) (hs : Keeps s0 s) : OutcomeKeeps s0 (execUpdateCopyComplete s) := by
  unfold execUpdateCopyComplete
  repeat' first
    | with_reducible first
        | assumption | apply OutcomeKeeps_next | apply modSession_keeps | apply modSpare_keeps | apply ite_keeps | apply State.tile_keeps (s0 := s0)
    | dsimp only | split | intro _

theorem manifestBlock_keeps {s0 : State} (b : List Byte) (sigOk : Bool) (s : State) (hs : Keeps s0 s) : Keeps s0 (manifestBlock b sigOk s) := by
  unfold manifestBlock
  repeat' first
    | with_reducible first
        | assumption | apply refuseBlock_keeps | apply modSession_keeps | apply State.answer_keeps | apply ite_keeps
        | apply State.tile_keeps (s0 := s0)
    | dsimp only | split | intro _

theorem imageBlock_keeps {s0 : State} (m : FwBank) (b : List Byte) (s : State) (hs : Keeps s0 s) : Keeps s0 (imageBlock m b s) := by
  unfold imageBlock
  repeat' first
    | with_reducible first
        | assumption | apply refuseBlock_keeps | apply modSpare_keeps | apply modSession_keeps | apply State.answer_keeps | apply ite_keeps
        | apply State.tile_keeps (s0 := s0)
    | dsimp only | split | intro _

theorem abandonUpdate_keeps {s0 : State} (s : State) (hs : Keeps s0 s) : Keeps s0 (abandonUpdate s) := by
  unfold abandonUpdate
  repeat' first
    | with_reducible first
        | assumption | apply modSession_keeps | apply State.answer_keeps | apply refuseBlock_keeps | apply ite_keeps
        | apply State.tile_keeps (s0 := s0)
    | dsimp only | split | intro _

theorem execUpdateBlock_keeps {s0 : State} (b : List Byte) (sigOk : Bool) (s : State) (hs : Keeps s0 s) : OutcomeKeeps s0 (execUpdateBlock b sigOk s) := by
  unfold execUpdateBlock
  repeat' first
    | with_reducible first
        | assumption | apply OutcomeKeeps_next | apply abandonUpdate_keeps | apply refuseBlock_keeps | apply manifestBlock_keeps
        | apply imageBlock_keeps | apply ite_keeps | apply State.tile_keeps (s0 := s0)
    | dsimp only | split | intro _

theorem execUpdateEnd_keeps {s0 : State} (b : List Byte) (s : State) (hs : Keeps s0 s) : OutcomeKeeps s0 (execUpdateEnd b s) := by
  unfold execUpdateEnd
  repeat' first
    | with_reducible first
        | assumption | apply OutcomeKeeps_next | apply refuseBlock_keeps | apply modSession_keeps | apply modSpare_keeps | apply State.answer_keeps
        | apply ite_keeps | apply State.tile_keeps (s0 := s0)
    | dsimp only | split | intro _

theorem execUpdateAbort_keeps {s0 : State} (s : State) (hs : Keeps s0 s) : OutcomeKeeps s0 (execUpdateAbort s) := by
  unfold execUpdateAbort
  repeat' first
    | with_reducible first
        | assumption | apply OutcomeKeeps_next | apply abandonUpdate_keeps | apply ite_keeps | apply State.tile_keeps (s0 := s0)
    | dsimp only | split | intro _

end Sys2Proof.Machine
end

