-- ==== Sys2Proof/Laws/KeepsAccess.lean ====
section
/-! SUPPORT. What the register accesses, the forensic unit, the pins and a clock tick keep. One lemma per function (see Laws/Keeps.lean for the relation), each said of any later state of the same run. -/

namespace Sys2Proof.Machine

/-! ### Machine/Access.lean -/

theorem badAccess_keeps {s0 : State} (code : Nat) (s : State) (hs : Keeps s0 s) : Keeps s0 (badAccess code s) := by
  unfold badAccess
  repeat' first
    | with_reducible first
        | assumption | apply refuseAccess_keeps | apply ite_keeps | apply State.tile_keeps (s0 := s0)
    | dsimp only | split | intro _

theorem refuseWrite_keeps {s0 : State} (cls inst off code : Nat) (s : State) (hs : Keeps s0 s) : Keeps s0 (refuseWrite cls inst off code s) := by
  unfold refuseWrite
  repeat' first
    | with_reducible first
        | assumption | apply refuseAccess_keeps | apply ite_keeps | apply State.tile_keeps (s0 := s0)
    | dsimp only | split | intro _

theorem withPage_keeps {s0 : State} (cls inst off : Nat) (s : State) (f : State → State) (hs : Keeps s0 s) (hf : ∀ z0, Keeps s0 z0 → Keeps s0 (f z0)) : Keeps s0 (withPage cls inst off s f) := by
  unfold withPage
  repeat' first
    | with_reducible first
        | assumption | apply hf | apply refuseWrite_keeps | apply ite_keeps | apply State.tile_keeps (s0 := s0)
    | dsimp only | split | intro _

theorem withReg_keeps {s0 : State} (src : Source) (cls inst off : Nat) (s : State) (f : State → State) (hs : Keeps s0 s) (hf : ∀ z0, Keeps s0 z0 → Keeps s0 (f z0)) : Keeps s0 (withReg src cls inst off s f) := by
  unfold withReg
  repeat' first
    | with_reducible first
        | assumption | apply hf | apply withPage_keeps | apply refuseWrite_keeps | apply ite_keeps | apply State.tile_keeps (s0 := s0)
    | dsimp only | split | intro _

theorem State.done_keeps {s0 : State} (s : State) (hs : Keeps s0 s) : Keeps s0 (State.done s) := by
  unfold State.done
  repeat' first
    | with_reducible first
        | assumption | apply State.answer_keeps | apply ite_keeps | apply State.tile_keeps (s0 := s0)
    | dsimp only | split | intro _

theorem checkedWrite_keeps {s0 : State} (cls inst off : Nat) (checks : List (Bool × Nat)) (s : State) (f : State → State) (hs : Keeps s0 s) (hf : ∀ z0, Keeps s0 z0 → Keeps s0 (f z0)) : Keeps s0 (checkedWrite cls inst off checks s f) := by
  unfold checkedWrite
  repeat' first
    | with_reducible first
        | assumption | apply hf | apply refuseWrite_keeps | apply State.done_keeps | apply ite_keeps | apply State.tile_keeps (s0 := s0)
    | dsimp only | split | intro _

theorem latchPage_keeps {s0 : State} (cls inst : Nat) (atEnd : Bool) (s : State) (hs : Keeps s0 s) : Keeps s0 (latchPage cls inst atEnd s) := by
  unfold latchPage
  repeat' first
    | with_reducible first
        | assumption | apply State.modStack_keeps | apply State.modPort_keeps | apply ite_keeps | apply State.tile_keeps (s0 := s0)
    | dsimp only | split | intro _

theorem latchAt_keeps {s0 : State} (src : Source) (addr : Nat) (atEnd : Bool) (s : State) (hs : Keeps s0 s) : Keeps s0 (latchAt src addr atEnd s) := by
  unfold latchAt
  repeat' first
    | with_reducible first
        | assumption | apply badAccess_keeps | apply withReg_keeps | apply latchPage_keeps | apply State.done_keeps | apply ite_keeps
        | apply State.tile_keeps (s0 := s0)
    | dsimp only | split | intro _

theorem execCtrlLatchStart_keeps {s0 : State} (src : Source) (addr : Nat) (s : State) (hs : Keeps s0 s) : OutcomeKeeps s0 (execCtrlLatchStart src addr s) := by
  unfold execCtrlLatchStart
  repeat' first
    | with_reducible first
        | assumption | apply OutcomeKeeps_next | apply latchAt_keeps | apply ite_keeps | apply State.tile_keeps (s0 := s0)
    | dsimp only | split | intro _

theorem execCtrlLatchEnd_keeps {s0 : State} (src : Source) (addr : Nat) (s : State) (hs : Keeps s0 s) : OutcomeKeeps s0 (execCtrlLatchEnd src addr s) := by
  unfold execCtrlLatchEnd
  repeat' first
    | with_reducible first
        | assumption | apply OutcomeKeeps_next | apply latchAt_keeps | apply ite_keeps | apply State.tile_keeps (s0 := s0)
    | dsimp only | split | intro _

/-! ### Machine/Forensics.lean -/

theorem writeAshCtrl_keeps {s0 : State} (v : Word) (s : State) (hs : Keeps s0 s) : Keeps s0 (writeAshCtrl v s) := by
  unfold writeAshCtrl
  repeat' first
    | with_reducible first
        | assumption | apply checkedWrite_keeps | apply writeHeader_keeps | apply clearOldHeader_keeps | apply And.intro | apply Keeps.hbm (s0 := s0)
        | apply Keeps.hostMem (s0 := s0) | apply Keeps.tiles (s0 := s0) | apply Keeps.sec | apply Keeps.boot | apply Keeps.pending
        | apply Keeps.fresh | apply State.tile_keeps (s0 := s0) | apply Tile.memOk.store | apply ite_keeps
    | dsimp only | simp only [Keeps_mk] | simp only [Tile.memOk_mk] | split | intro _

theorem execAshpitEnableWrite_keeps {s0 : State} (src : Source) (v : Word) (s : State) (hs : Keeps s0 s) : OutcomeKeeps s0 (execAshpitEnableWrite src v s) := by
  unfold execAshpitEnableWrite
  repeat' first
    | with_reducible first
        | assumption | apply OutcomeKeeps_next | apply withReg_keeps | apply writeAshCtrl_keeps | apply ite_keeps | apply State.tile_keeps (s0 := s0)
    | dsimp only | split | intro _

theorem execAshpitHeaderRewrite_keeps {s0 : State} (s : State) (hs : Keeps s0 s) : OutcomeKeeps s0 (execAshpitHeaderRewrite s) := by
  unfold execAshpitHeaderRewrite
  repeat' first
    | with_reducible first
        | assumption | apply OutcomeKeeps_next | apply writeHeader_keeps | apply ite_keeps | apply State.tile_keeps (s0 := s0)
    | dsimp only | split | intro _

theorem writeTag_keeps {s0 : State} (v : Word) (s : State) (hs : Keeps s0 s) : Keeps s0 (writeTag v s) := by
  unfold writeTag
  repeat' first
    | with_reducible first
        | assumption | apply checkedWrite_keeps | apply forAll_keeps | apply State.modCluster_keeps | apply And.intro | apply Keeps.hbm (s0 := s0)
        | apply Keeps.hostMem (s0 := s0) | apply Keeps.tiles (s0 := s0) | apply Keeps.sec | apply Keeps.boot | apply Keeps.pending
        | apply Keeps.fresh | apply State.tile_keeps (s0 := s0) | apply Tile.memOk.store | apply ite_keeps
    | dsimp only | simp only [Keeps_mk] | simp only [Tile.memOk_mk] | split | intro _

theorem execTagLoad_keeps {s0 : State} (src : Source) (v : Word) (s : State) (hs : Keeps s0 s) : OutcomeKeeps s0 (execTagLoad src v s) := by
  unfold execTagLoad
  repeat' first
    | with_reducible first
        | assumption | apply OutcomeKeeps_next | apply withReg_keeps | apply writeTag_keeps | apply ite_keeps | apply State.tile_keeps (s0 := s0)
    | dsimp only | split | intro _

theorem writeSnap_keeps {s0 : State} (n : Nat) (v : Word) (s : State) (hs : Keeps s0 s) : Keeps s0 (writeSnap n v s) := by
  unfold writeSnap
  repeat' first
    | with_reducible first
        | assumption | apply checkedWrite_keeps | apply And.intro | apply Keeps.hbm (s0 := s0) | apply Keeps.hostMem (s0 := s0)
        | apply Keeps.tiles (s0 := s0) | apply Keeps.sec | apply Keeps.boot | apply Keeps.pending | apply Keeps.fresh
        | apply State.tile_keeps (s0 := s0) | apply Tile.memOk.store | apply ite_keeps
    | dsimp only | simp only [Keeps_mk] | simp only [Tile.memOk_mk] | split | intro _

theorem execSnapshotArm_keeps {s0 : State} (src : Source) (n : Fin 4) (v : Word) (s : State) (hs : Keeps s0 s) : OutcomeKeeps s0 (execSnapshotArm src n v s) := by
  unfold execSnapshotArm
  repeat' first
    | with_reducible first
        | assumption | apply OutcomeKeeps_next | apply withReg_keeps | apply writeSnap_keeps | apply ite_keeps | apply State.tile_keeps (s0 := s0)
    | dsimp only | split | intro _

theorem writeCapture_keeps {s0 : State} (v : Word) (s : State) (hs : Keeps s0 s) : Keeps s0 (writeCapture v s) := by
  unfold writeCapture
  repeat' first
    | with_reducible first
        | assumption | apply checkedWrite_keeps | apply And.intro | apply Keeps.hbm (s0 := s0) | apply Keeps.hostMem (s0 := s0)
        | apply Keeps.tiles (s0 := s0) | apply Keeps.sec | apply Keeps.boot | apply Keeps.pending | apply Keeps.fresh
        | apply State.tile_keeps (s0 := s0) | apply Tile.memOk.store | apply ite_keeps
    | dsimp only | simp only [Keeps_mk] | simp only [Tile.memOk_mk] | split | intro _

theorem execCaptureArm_keeps {s0 : State} (src : Source) (v : Word) (s : State) (hs : Keeps s0 s) : OutcomeKeeps s0 (execCaptureArm src v s) := by
  unfold execCaptureArm
  repeat' first
    | with_reducible first
        | assumption | apply OutcomeKeeps_next | apply withReg_keeps | apply writeCapture_keeps | apply ite_keeps | apply State.tile_keeps (s0 := s0)
    | dsimp only | split | intro _

theorem memCopy_wf (src : Memory) (a n : Nat) (dst : Memory) (b : Nat) (h : dst.wf = true) : (memCopy src a n dst b).wf = true := by
  unfold memCopy
  exact foldlMem_wf _ (fun (m : Memory) (p : Nat × Byte) => memPut m (b + p.1 - a) p.2) _ (fun m p hm => Memory.wf_memPut m _ _ hm) (Memory.wf_filter _ _ h)

theorem copySlices_keeps (y : Tile) (e e' : MapEntry) (x : Tile) (hx : x.memOk) : (copySlices y e e' x).memOk := by
  unfold copySlices
  exact memCopy_wf _ _ _ _ _ (memCopy_wf _ _ _ _ _ (memCopy_wf _ _ _ _ _ (memCopy_wf _ _ _ _ _ hx)))

theorem copySlot_keeps (y : Tile) (e e' : MapEntry) (k k' : Nat) (x : Tile) (hx : x.memOk) : (copySlot y e e' k k' x).memOk := by
  unfold copySlot
  repeat' first
    | with_reducible first
        | assumption | apply foldl_keeps | apply foldlState_keeps | apply And.intro | apply Keeps.hbm (s0 := s0) | apply Keeps.hostMem (s0 := s0)
        | apply Keeps.tiles (s0 := s0) | apply Keeps.sec | apply Keeps.boot | apply Keeps.pending | apply Keeps.fresh
        | apply State.tile_keeps (s0 := s0) | apply Tile.memOk.store | apply ite_keeps
    | dsimp only | simp only [Keeps_mk] | simp only [Tile.memOk_mk] | split | intro _

theorem copyTables_keeps (y : Tile) (c d : Ctx) (n n' : Nat) (x : Tile) (hx : x.memOk) : (copyTables y c d n n' x).memOk := by
  unfold copyTables
  repeat' first
    | with_reducible first
        | assumption | apply foldl_keeps | apply foldlState_keeps | apply And.intro | apply Keeps.hbm (s0 := s0) | apply Keeps.hostMem (s0 := s0)
        | apply Keeps.tiles (s0 := s0) | apply Keeps.sec | apply Keeps.boot | apply Keeps.pending | apply Keeps.fresh
        | apply State.tile_keeps (s0 := s0) | apply Tile.memOk.store | apply ite_keeps
    | dsimp only | simp only [Keeps_mk] | simp only [Tile.memOk_mk] | split | intro _

theorem copyOpen_keeps (y : Tile) (d : Ctx) (x : Tile) (hx : x.memOk) : (copyOpen y d x).memOk := by
  unfold copyOpen
  repeat' first
    | with_reducible first
        | assumption | apply foldl_keeps | apply foldlState_keeps | apply Tile.writeAt_keeps | apply And.intro | apply Keeps.hbm (s0 := s0)
        | apply Keeps.hostMem (s0 := s0) | apply Keeps.tiles (s0 := s0) | apply Keeps.sec | apply Keeps.boot | apply Keeps.pending
        | apply Keeps.fresh | apply State.tile_keeps (s0 := s0) | apply Tile.memOk.store | apply ite_keeps
    | dsimp only | simp only [Keeps_mk] | simp only [Tile.memOk_mk] | split | intro _

theorem loadTile_keeps {s0 : State} (c d : Ctx) (n n' : Nat) (p : Nat × Tile) (s : State) (hs : Keeps s0 s) : Keeps s0 (loadTile c d n n' p s) := by
  unfold loadTile
  repeat' first
    | with_reducible first
        | assumption | apply State.modTile_keeps | apply copyOpen_keeps | apply copyTables_keeps | apply copySlot_keeps | apply copySlices_keeps
        | apply ite_keeps | apply State.tile_keeps (s0 := s0)
    | dsimp only | split | intro _

theorem loadReplay_keeps {s0 : State} (k : Capture) (c d : Ctx) (n n' : Nat) (s : State) (hs : Keeps s0 s) : Keeps s0 (loadReplay k c d n n' s) := by
  unfold loadReplay
  repeat' first
    | with_reducible first
        | assumption | apply forAll_keeps | apply loadTile_keeps | apply State.setCtx_keeps | apply And.intro | apply Keeps.hbm (s0 := s0)
        | apply Keeps.hostMem (s0 := s0) | apply Keeps.tiles (s0 := s0) | apply Keeps.sec | apply Keeps.boot | apply Keeps.pending
        | apply Keeps.fresh | apply State.tile_keeps (s0 := s0) | apply Tile.memOk.store | apply ite_keeps
    | dsimp only | simp only [Keeps_mk] | simp only [Tile.memOk_mk] | split | intro _

theorem writeReplay_keeps {s0 : State} (v : Word) (s : State) (hs : Keeps s0 s) : Keeps s0 (writeReplay v s) := by
  unfold writeReplay
  repeat' first
    | with_reducible first
        | assumption | apply checkedWrite_keeps | apply schedule_keeps | apply loadReplay_keeps | apply refuseWrite_keeps | apply And.intro
        | apply Keeps.hbm (s0 := s0) | apply Keeps.hostMem (s0 := s0) | apply Keeps.tiles (s0 := s0) | apply Keeps.sec | apply Keeps.boot
        | apply Keeps.pending | apply Keeps.fresh | apply State.tile_keeps (s0 := s0) | apply Tile.memOk.store | apply ite_keeps
    | dsimp only | simp only [Keeps_mk] | simp only [Tile.memOk_mk] | split | intro _

theorem execReplayArm_keeps {s0 : State} (src : Source) (v : Word) (s : State) (hs : Keeps s0 s) : OutcomeKeeps s0 (execReplayArm src v s) := by
  unfold execReplayArm
  repeat' first
    | with_reducible first
        | assumption | apply OutcomeKeeps_next | apply withReg_keeps | apply writeReplay_keeps | apply ite_keeps | apply State.tile_keeps (s0 := s0)
    | dsimp only | split | intro _

theorem raiseStatues_keeps {s0 : State} (cause n : Nat) (s : State) (hs : Keeps s0 s) : Keeps s0 (raiseStatues cause n s) := by
  unfold raiseStatues
  repeat' first
    | with_reducible first
        | assumption | apply abandonRecords_keeps | apply Tile.count_keeps | apply And.intro | apply Memory.wf_memWrite | apply Keeps.hbm (s0 := s0)
        | apply Keeps.hostMem (s0 := s0) | apply Keeps.tiles (s0 := s0) | apply Keeps.sec | apply Keeps.boot | apply Keeps.pending
        | apply Keeps.fresh | apply Keeps.fresh1 | apply secOk.nOp | apply secOk.nOwn | apply secOk.nCeil | apply secOk.nDebug | apply secOk.nonces
        | apply bootOk.floors | apply Tile.memOk.store | apply State.tile_keeps (s0 := s0) | apply tilesOk_sset | apply tilesOk_map
        | apply Memory.wf_filter | apply Memory.wf_memPut | apply foldlSnd_keeps | apply ite_keeps | apply ite_optKeeps | apply foldlThd_keeps
        | apply foldlMem_wf | apply Memory.wf_empty | apply tilesOk_empty | apply Tile.memOk_default
    | dsimp only | simp only [optKeeps_none, optKeeps_some, optTileOk_none, optTileOk_some, optPairKeeps_none, optPairKeeps_some]
    | simp only [Keeps_mk] | simp only [Tile.memOk_mk] | simp only [secOk_mk] | simp only [bootOk_mk] | split | intro _

theorem execStatuesStopWrite_keeps {s0 : State} (src : Source) (s : State) (hs : Keeps s0 s) : OutcomeKeeps s0 (execStatuesStopWrite src s) := by
  unfold execStatuesStopWrite
  repeat' first
    | with_reducible first
        | assumption | apply OutcomeKeeps_next | apply withReg_keeps | apply raiseStatues_keeps | apply State.done_keeps | apply ite_keeps
        | apply State.tile_keeps (s0 := s0)
    | dsimp only | split | intro _

theorem execStopInEdge_keeps {s0 : State} (s : State) (hs : Keeps s0 s) : OutcomeKeeps s0 (execStopInEdge s) := by
  unfold execStopInEdge
  repeat' first
    | with_reducible first
        | assumption | apply OutcomeKeeps_next | apply raiseStatues_keeps | apply ite_keeps | apply State.tile_keeps (s0 := s0)
    | dsimp only | split | intro _

theorem execSuperstepWatchdogExpiry_keeps {s0 : State} (n : CtxId) (s : State) (hs : Keeps s0 s) : OutcomeKeeps s0 (execSuperstepWatchdogExpiry n s) := by
  unfold execSuperstepWatchdogExpiry
  repeat' first
    | with_reducible first
        | assumption | apply OutcomeKeeps_next | apply raiseStatues_keeps | apply recordFault_keeps | apply State.setCtx_keeps | apply ite_keeps
        | apply State.tile_keeps (s0 := s0)
    | dsimp only | split | intro _

theorem scanPut_keeps {s0 : State} (off : Nat) (bs : List Byte) (s : State) (hs : Keeps s0 s) : Keeps s0 (scanPut off bs s) := by
  unfold scanPut
  repeat' first
    | with_reducible first
        | assumption | apply State.hbmWrite_keeps | apply ite_keeps | apply State.tile_keeps (s0 := s0)
    | dsimp only | split | intro _

theorem scanZero_keeps {s0 : State} (off n : Nat) (s : State) (hs : Keeps s0 s) : Keeps s0 (scanZero off n s) := by
  unfold scanZero
  repeat' first
    | with_reducible first
        | assumption | apply And.intro | apply Memory.wf_memWrite | apply Keeps.hbm (s0 := s0) | apply Keeps.hostMem (s0 := s0)
        | apply Keeps.tiles (s0 := s0) | apply Keeps.sec | apply Keeps.boot | apply Keeps.pending | apply Keeps.fresh | apply Keeps.fresh1
        | apply secOk.nOp | apply secOk.nOwn | apply secOk.nCeil | apply secOk.nDebug | apply secOk.nonces | apply bootOk.floors
        | apply Tile.memOk.store | apply State.tile_keeps (s0 := s0) | apply tilesOk_sset | apply tilesOk_map | apply Memory.wf_filter
        | apply Memory.wf_memPut | apply foldlSnd_keeps | apply ite_keeps | apply ite_optKeeps | apply foldlThd_keeps | apply foldlMem_wf
        | apply Memory.wf_empty | apply tilesOk_empty | apply Tile.memOk_default
    | dsimp only | simp only [optKeeps_none, optKeeps_some, optTileOk_none, optTileOk_some, optPairKeeps_none, optPairKeeps_some]
    | simp only [Keeps_mk] | simp only [Tile.memOk_mk] | simp only [secOk_mk] | simp only [bootOk_mk] | split | intro _

theorem scanTile_keeps {s0 : State} (k : Nat) (limited : Bool) (t : Nat) (s : State) (hs : Keeps s0 s) : Keeps s0 (scanTile k limited t s) := by
  unfold scanTile
  repeat' first
    | with_reducible first
        | assumption | apply scanZero_keeps | apply scanPut_keeps | apply foldl_keeps | apply foldlState_keeps | apply imageReads_keeps
        | apply ite_keeps | apply State.tile_keeps (s0 := s0)
    | dsimp only | split | intro _

theorem scanAll_keeps {s0 : State} (limited : Bool) (s : State) (hs : Keeps s0 s) : Keeps s0 (scanAll limited s) := by
  unfold scanAll
  repeat' first
    | with_reducible first
        | assumption | apply scanPut_keeps | apply forAll_keeps | apply scanTile_keeps | apply And.intro | apply Memory.wf_memWrite
        | apply Keeps.hbm (s0 := s0) | apply Keeps.hostMem (s0 := s0) | apply Keeps.tiles (s0 := s0) | apply Keeps.sec | apply Keeps.boot
        | apply Keeps.pending | apply Keeps.fresh | apply Keeps.fresh1 | apply secOk.nOp | apply secOk.nOwn | apply secOk.nCeil | apply secOk.nDebug
        | apply secOk.nonces | apply bootOk.floors | apply Tile.memOk.store | apply State.tile_keeps (s0 := s0) | apply tilesOk_sset
        | apply tilesOk_map | apply Memory.wf_filter | apply Memory.wf_memPut | apply foldlSnd_keeps | apply ite_keeps | apply ite_optKeeps
        | apply foldlThd_keeps | apply foldlMem_wf | apply Memory.wf_empty | apply tilesOk_empty | apply Tile.memOk_default
    | dsimp only | simp only [optKeeps_none, optKeeps_some, optTileOk_none, optTileOk_some, optPairKeeps_none, optPairKeeps_some]
    | simp only [Keeps_mk] | simp only [Tile.memOk_mk] | simp only [secOk_mk] | simp only [bootOk_mk] | split | intro _

theorem execScanOutStart_keeps {s0 : State} (s : State) (hs : Keeps s0 s) : OutcomeKeeps s0 (execScanOutStart s) := by
  unfold execScanOutStart
  repeat' first
    | with_reducible first
        | assumption | apply OutcomeKeeps_next | apply writeHeader_keeps | apply scanAll_keeps | apply And.intro | apply Keeps.hbm (s0 := s0)
        | apply Keeps.hostMem (s0 := s0) | apply Keeps.tiles (s0 := s0) | apply Keeps.sec | apply Keeps.boot | apply Keeps.pending
        | apply Keeps.fresh | apply State.tile_keeps (s0 := s0) | apply Tile.memOk.store | apply ite_keeps
    | dsimp only | simp only [Keeps_mk] | simp only [Tile.memOk_mk] | split | intro _

theorem execScanOutEnd_keeps {s0 : State} (s : State) (hs : Keeps s0 s) : OutcomeKeeps s0 (execScanOutEnd s) := by
  unfold execScanOutEnd
  repeat' first
    | with_reducible first
        | assumption | apply OutcomeKeeps_next | apply writeHeader_keeps | apply stopContext_keeps | apply forAll_keeps | apply postEvent_keeps
        | apply recordFault_keeps | apply And.intro | apply Keeps.hbm (s0 := s0) | apply Keeps.hostMem (s0 := s0) | apply Keeps.tiles (s0 := s0)
        | apply Keeps.sec | apply Keeps.boot | apply Keeps.pending | apply Keeps.fresh | apply State.tile_keeps (s0 := s0) | apply Tile.memOk.store
        | apply ite_keeps
    | dsimp only | simp only [Keeps_mk] | simp only [Tile.memOk_mk] | split | intro _

theorem Tile.recover_keeps (x : Tile) (hx : x.memOk) : (Tile.recover x).memOk := by
  unfold Tile.recover
  repeat' first
    | with_reducible first
        | assumption | apply deliver_keeps | apply And.intro | apply Keeps.hbm (s0 := s0) | apply Keeps.hostMem (s0 := s0)
        | apply Keeps.tiles (s0 := s0) | apply Keeps.sec | apply Keeps.boot | apply Keeps.pending | apply Keeps.fresh
        | apply State.tile_keeps (s0 := s0) | apply Tile.memOk.store | apply ite_keeps
    | dsimp only | simp only [Keeps_mk] | simp only [Tile.memOk_mk] | split | intro _

theorem recover_keeps {s0 : State} (s : State) (hs : Keeps s0 s) : Keeps s0 (recover s) := by
  unfold recover
  repeat' first
    | with_reducible first
        | assumption | apply Tile.recover_keeps | apply schedule_keeps | apply And.intro | apply Memory.wf_memWrite | apply Keeps.hbm (s0 := s0)
        | apply Keeps.hostMem (s0 := s0) | apply Keeps.tiles (s0 := s0) | apply Keeps.sec | apply Keeps.boot | apply Keeps.pending
        | apply Keeps.fresh | apply Keeps.fresh1 | apply secOk.nOp | apply secOk.nOwn | apply secOk.nCeil | apply secOk.nDebug | apply secOk.nonces
        | apply bootOk.floors | apply Tile.memOk.store | apply State.tile_keeps (s0 := s0) | apply tilesOk_sset | apply tilesOk_map
        | apply Memory.wf_filter | apply Memory.wf_memPut | apply foldlSnd_keeps | apply ite_keeps | apply ite_optKeeps | apply foldlThd_keeps
        | apply foldlMem_wf | apply Memory.wf_empty | apply tilesOk_empty | apply Tile.memOk_default
    | dsimp only | simp only [optKeeps_none, optKeeps_some, optTileOk_none, optTileOk_some, optPairKeeps_none, optPairKeeps_some]
    | simp only [Keeps_mk] | simp only [Tile.memOk_mk] | simp only [secOk_mk] | simp only [bootOk_mk] | split | intro _

theorem writeRecover_keeps {s0 : State} (s : State) (hs : Keeps s0 s) : Keeps s0 (writeRecover s) := by
  unfold writeRecover
  repeat' first
    | with_reducible first
        | assumption | apply Tile.recover_keeps | apply recover_keeps | apply State.done_keeps | apply ite_keeps | apply State.tile_keeps (s0 := s0)
    | dsimp only | split | intro _

theorem execRecover_keeps {s0 : State} (src : Source) (s : State) (hs : Keeps s0 s) : OutcomeKeeps s0 (execRecover src s) := by
  unfold execRecover
  repeat' first
    | with_reducible first
        | assumption | apply OutcomeKeeps_next | apply withReg_keeps | apply writeRecover_keeps | apply ite_keeps | apply State.tile_keeps (s0 := s0)
    | dsimp only | split | intro _

/-! ### Machine/Registers.lean -/

theorem mirrorValue_keeps {s0 : State} (src : Source) (cls inst off : Nat) (v : Word) (s : State) (hs : Keeps s0 s) : Keeps s0 (mirrorValue src cls inst off v s) := by
  unfold mirrorValue
  repeat' first
    | with_reducible first
        | assumption | apply State.modPage_keeps | apply State.done_keeps | apply ite_keeps | apply State.tile_keeps (s0 := s0)
    | dsimp only | split | intro _

theorem mirrorFail_keeps {s0 : State} (cls inst off : Nat) (s : State) (hs : Keeps s0 s) : Keeps s0 (mirrorFail cls inst off s) := by
  unfold mirrorFail
  repeat' first
    | with_reducible first
        | assumption | apply recordFault_keeps | apply State.modPage_keeps | apply State.done_keeps | apply ite_keeps
        | apply State.tile_keeps (s0 := s0)
    | dsimp only | split | intro _

theorem mirrorCommit_keeps {s0 : State} (src : Source) (cls inst off : Nat) (comp : Word) (f : Word → State → State) (s : State) (hf : ∀ z0 z1, Keeps s0 z1 → Keeps s0 (f z0 z1)) (hs : Keeps s0 s) : Keeps s0 (mirrorCommit src cls inst off comp f s) := by
  unfold mirrorCommit
  repeat' first
    | with_reducible first
        | assumption | apply hf | apply State.modPage_keeps | apply mirrorFail_keeps | apply State.done_keeps | apply ite_keeps
        | apply State.tile_keeps (s0 := s0)
    | dsimp only | split | intro _

theorem regionRequest_keeps {s0 : State} (r : Nat) (v : Word) (s : State) (hs : Keeps s0 s) : Keeps s0 (regionRequest r v s) := by
  unfold regionRequest
  repeat' first
    | with_reducible first
        | assumption | apply recordFault_keeps | apply refuseWaiting_keeps | apply State.setRegion_keeps | apply ite_keeps
        | apply State.tile_keeps (s0 := s0)
    | dsimp only | split | intro _

theorem memMap_keeps {s0 : State} (v : Word) (s : State) (hs : Keeps s0 s) : Keeps s0 (memMap v s) := by
  unfold memMap
  repeat' (first | (with_reducible first | assumption | apply badAccess_keeps | apply refuseWrite_keeps | apply refuseAccess_keeps | apply recordFault_keeps | apply State.answer_keeps | apply State.done_keeps) | split | dsimp only)
  · simp only [Keeps_mk]
    exact ⟨hs.pending, hs.fresh, regrainMem_wf _ _ _ hs.hbm, hs.hostMem, hs.tiles, hs.sec, hs.boot⟩

theorem mirrorWrite_keeps {s0 : State} (src : Source) (cls inst off : Nat) (v : Word) (s : State) (hs : Keeps s0 s) : Keeps s0 (mirrorWrite src cls inst off v s) := by
  unfold mirrorWrite
  repeat' first
    | with_reducible first
        | assumption | apply refuseWrite_keeps | apply mirrorValue_keeps | apply mirrorCommit_keeps | apply regionRequest_keeps | apply memMap_keeps
        | apply ite_keeps | apply State.tile_keeps (s0 := s0)
    | dsimp only | split | intro _

theorem doorbell_keeps {s0 : State} (r : Nat) (v : Word) (s : State) (hs : Keeps s0 s) : Keeps s0 (doorbell r v s) := by
  unfold doorbell
  repeat' first
    | with_reducible first
        | assumption | apply checkedWrite_keeps | apply State.modRing_keeps | apply ite_keeps | apply State.tile_keeps (s0 := s0)
    | dsimp only | split | intro _

theorem writeTail_keeps {s0 : State} (r : Nat) (v : Word) (s : State) (hs : Keeps s0 s) : Keeps s0 (writeTail r v s) := by
  unfold writeTail
  repeat' first
    | with_reducible first
        | assumption | apply State.done_keeps | apply doorbell_keeps | apply And.intro | apply Keeps.hbm (s0 := s0) | apply Keeps.hostMem (s0 := s0)
        | apply Keeps.tiles (s0 := s0) | apply Keeps.sec | apply Keeps.boot | apply Keeps.pending | apply Keeps.fresh
        | apply State.tile_keeps (s0 := s0) | apply Tile.memOk.store | apply ite_keeps
    | dsimp only | simp only [Keeps_mk] | simp only [Tile.memOk_mk] | split | intro _

theorem takeBells_keeps {s0 : State}  : ∀ (a0 : List EvlWait) (a1 : State), Keeps s0 a1 → Keeps s0 (takeBells a0 a1).2 := by
  intro ws
  induction ws with
  | nil =>
    intro s h
    exact h
  | cons w ws ih =>
    intro s h
    cases w with
    | bell r v => exact ih _ (doorbell_keeps _ _ _ h)
    | bulk hd d e =>
      unfold takeBells
      split
      · exact h
      · exact ih _ h

theorem takeBells_keeps_eq {s0 : State} {a0 : List EvlWait} {a1 : State} {u : State} {ret0 : List EvlWait} (ha1 : Keeps s0 a1) (eq0 : takeBells a0 a1 = (ret0, u)) : Keeps s0 u := by
  have := takeBells_keeps (s0 := s0) a0 a1 ha1
  rw [eq0] at this
  exact this

theorem pumpEvl_keeps {s0 : State} (s : State) (hs : Keeps s0 s) : Keeps s0 (pumpEvl s) := by
  unfold pumpEvl
  repeat' first
    | with_reducible first
        | assumption | apply pumpBulk_keeps | apply takeBells_keeps | (refine takeBells_keeps_eq ?_ (by assumption)) | apply And.intro
        | apply Keeps.hbm (s0 := s0) | apply Keeps.hostMem (s0 := s0) | apply Keeps.tiles (s0 := s0) | apply Keeps.sec | apply Keeps.boot
        | apply Keeps.pending | apply Keeps.fresh | apply State.tile_keeps (s0 := s0) | apply Tile.memOk.store | apply ite_keeps
    | dsimp only | simp only [Keeps_mk] | simp only [Tile.memOk_mk] | split | intro _

theorem writeRing_keeps {s0 : State} (r : Nat) (event : Bool) (v : Word) (s : State) (hs : Keeps s0 s) : Keeps s0 (writeRing r event v s) := by
  unfold writeRing
  repeat' first
    | with_reducible first
        | assumption | apply checkedWrite_keeps | apply State.modRing_keeps | apply ite_keeps | apply State.tile_keeps (s0 := s0)
    | dsimp only | split | intro _

theorem ringReg_keeps {s0 : State} (r o : Nat) (v : Word) (s : State) (hs : Keeps s0 s) : Keeps s0 (ringReg r o v s) := by
  unfold ringReg
  repeat' first
    | with_reducible first
        | assumption | apply State.modRing_keeps | apply State.done_keeps | apply writeRing_keeps | apply writeTail_keeps | apply ite_keeps
        | apply State.tile_keeps (s0 := s0)
    | dsimp only | split | intro _

theorem setCompare_keeps {s0 : State} (k : Nat) (c : BitVec 48) (s : State) (hs : Keeps s0 s) : Keeps s0 (setCompare k c s) := by
  unfold setCompare
  repeat' first
    | with_reducible first
        | assumption | apply Tile.count_keeps | apply State.modSlot_keeps | apply State.done_keeps | apply ite_keeps
        | apply State.tile_keeps (s0 := s0)
    | dsimp only | split | intro _

theorem writeCompare_keeps {s0 : State} (k : Nat) (hi : Bool) (v : Word) (s : State) (hs : Keeps s0 s) : Keeps s0 (writeCompare k hi v s) := by
  unfold writeCompare
  repeat' first
    | with_reducible first
        | assumption | apply setCompare_keeps | apply ite_keeps | apply State.tile_keeps (s0 := s0)
    | dsimp only | split | intro _

theorem writeSlotCtrl_keeps {s0 : State} (k : Nat) (v : Word) (s : State) (hs : Keeps s0 s) : Keeps s0 (writeSlotCtrl k v s) := by
  unfold writeSlotCtrl
  repeat' first
    | with_reducible first
        | assumption | apply State.modSlot_keeps | apply Tile.count_keeps | apply State.done_keeps | apply ite_keeps
        | apply State.tile_keeps (s0 := s0)
    | dsimp only | split | intro _

theorem headReg_keeps {s0 : State} (cls inst off : Nat) (v : Word) (s : State) (hs : Keeps s0 s) : Keeps s0 (headReg cls inst off v s) := by
  unfold headReg
  repeat' first
    | with_reducible first
        | assumption | apply latchPage_keeps | apply State.done_keeps | apply State.modPage_keeps | apply ite_keeps
        | apply State.tile_keeps (s0 := s0)
    | dsimp only | split | intro _

theorem epReg_keeps {s0 : State} (t e w : Nat) (v : Word) (s : State) (hs : Keeps s0 s) : Keeps s0 (epReg t e w v s) := by
  unfold epReg
  repeat' first
    | with_reducible first
        | assumption | apply State.modTile_keeps | apply State.done_keeps | apply checkedWrite_keeps | apply And.intro | apply Keeps.hbm (s0 := s0)
        | apply Keeps.hostMem (s0 := s0) | apply Keeps.tiles (s0 := s0) | apply Keeps.sec | apply Keeps.boot | apply Keeps.pending
        | apply Keeps.fresh | apply State.tile_keeps (s0 := s0) | apply Tile.memOk.store | apply ite_keeps
    | dsimp only | simp only [Keeps_mk] | simp only [Tile.memOk_mk] | split | intro _

theorem fornReg_keeps {s0 : State} (off : Nat) (v : Word) (s : State) (hs : Keeps s0 s) : Keeps s0 (fornReg off v s) := by
  unfold fornReg
  repeat' first
    | with_reducible first
        | assumption | apply State.done_keeps | apply checkedWrite_keeps | apply writeAshCtrl_keeps | apply writeTag_keeps | apply raiseStatues_keeps
        | apply writeRecover_keeps | apply writeCapture_keeps | apply writeReplay_keeps | apply writeSnap_keeps | apply And.intro
        | apply Keeps.hbm (s0 := s0) | apply Keeps.hostMem (s0 := s0) | apply Keeps.tiles (s0 := s0) | apply Keeps.sec | apply Keeps.boot
        | apply Keeps.pending | apply Keeps.fresh | apply State.tile_keeps (s0 := s0) | apply Tile.memOk.store | apply ite_keeps
    | dsimp only | simp only [Keeps_mk] | simp only [Tile.memOk_mk] | split | intro _

theorem tileReg_keeps {s0 : State} (cls t off : Nat) (v : Word) (s : State) (hs : Keeps s0 s) : Keeps s0 (tileReg cls t off v s) := by
  unfold tileReg
  repeat' first
    | with_reducible first
        | assumption | apply State.modTile_keeps | apply State.done_keeps | apply Tile.writeGate_keeps | apply epReg_keeps | apply And.intro
        | apply Keeps.hbm (s0 := s0) | apply Keeps.hostMem (s0 := s0) | apply Keeps.tiles (s0 := s0) | apply Keeps.sec | apply Keeps.boot
        | apply Keeps.pending | apply Keeps.fresh | apply State.tile_keeps (s0 := s0) | apply Tile.memOk.store | apply ite_keeps
    | dsimp only | simp only [Keeps_mk] | simp only [Tile.memOk_mk] | split | intro _

theorem unitReg_keeps {s0 : State} (cls inst off : Nat) (v : Word) (s : State) (hs : Keeps s0 s) : optKeeps s0 (unitReg cls inst off v s) := by
  unfold unitReg
  repeat' first
    | with_reducible first
        | assumption | apply State.modStack_keeps | apply State.done_keeps | apply State.modPort_keeps | apply writeCordConfig_keeps
        | apply checkedWrite_keeps | apply State.modLink_keeps | apply ringReg_keeps | apply writeSlotCtrl_keeps | apply State.modSlot_keeps
        | apply writeCompare_keeps | apply writeAttest_keeps | apply modSession_keeps | apply And.intro | apply Memory.wf_memWrite
        | apply Keeps.hbm (s0 := s0) | apply Keeps.hostMem (s0 := s0) | apply Keeps.tiles (s0 := s0) | apply Keeps.sec | apply Keeps.boot
        | apply Keeps.pending | apply Keeps.fresh | apply Keeps.fresh1 | apply secOk.nOp | apply secOk.nOwn | apply secOk.nCeil | apply secOk.nDebug
        | apply secOk.nonces | apply bootOk.floors | apply Tile.memOk.store | apply State.tile_keeps (s0 := s0) | apply tilesOk_sset
        | apply tilesOk_map | apply Memory.wf_filter | apply Memory.wf_memPut | apply foldlSnd_keeps | apply ite_keeps | apply ite_optKeeps
        | apply foldlThd_keeps | apply foldlMem_wf | apply Memory.wf_empty | apply tilesOk_empty | apply Tile.memOk_default
    | dsimp only | simp only [optKeeps_none, optKeeps_some, optTileOk_none, optTileOk_some, optPairKeeps_none, optPairKeeps_some]
    | simp only [Keeps_mk] | simp only [Tile.memOk_mk] | simp only [secOk_mk] | simp only [bootOk_mk] | split | intro _

theorem unitReg_keeps_eq {s0 : State} {cls inst off : Nat} {v : Word} {s : State} {u : State} (hs : Keeps s0 s) (eq0 : unitReg cls inst off v s = some u) : Keeps s0 u := by
  have := unitReg_keeps cls inst off v s hs
  rw [eq0] at this
  exact (optKeeps_some _ _).mp this

theorem regWrite_keeps {s0 : State} (src : Source) (cls inst off : Nat) (v : Word) (s : State) (hs : Keeps s0 s) : Keeps s0 (regWrite src cls inst off v s) := by
  unfold regWrite
  repeat' first
    | with_reducible first
        | assumption | apply withReg_keeps | apply headReg_keeps | apply withPage_keeps | apply State.done_keeps | apply refuseWrite_keeps
        | apply mirrorWrite_keeps | apply tileReg_keeps | apply fornReg_keeps | (refine unitReg_keeps_eq ?_ (by assumption)) | apply ite_keeps
        | apply State.tile_keeps (s0 := s0)
    | dsimp only | split | intro _

theorem twoAnswers_keeps {s0 : State} (first second : State) (hfirst : Keeps s0 first) (hsecond : Keeps s0 second) : Keeps s0 (twoAnswers first second) := by
  unfold twoAnswers
  repeat' first
    | with_reducible first
        | assumption | apply And.intro | apply Keeps.hbm (s0 := s0) | apply Keeps.hostMem (s0 := s0) | apply Keeps.tiles (s0 := s0) | apply Keeps.sec
        | apply Keeps.boot | apply Keeps.pending | apply Keeps.fresh | apply State.tile_keeps (s0 := s0) | apply Tile.memOk.store | apply ite_keeps
    | dsimp only | simp only [Keeps_mk] | simp only [Tile.memOk_mk] | split | intro _

theorem atPlace_keeps {s0 : State} (addr size : Nat) (s : State) (bad : Nat → State) (f : Nat → Nat → Nat → State) (hs : Keeps s0 s) (hbad : ∀ z0, Keeps s0 (bad z0)) (hf : ∀ z0 z1 z2, Keeps s0 (f z0 z1 z2)) : Keeps s0 (atPlace addr size s bad f) := by
  unfold atPlace
  repeat' first
    | with_reducible first
        | assumption | apply hbad | apply hf | apply ite_keeps | apply State.tile_keeps (s0 := s0)
    | dsimp only | split | intro _

theorem atRegister_keeps {s0 : State} (addr size : Nat) (s : State) (f : Nat → Nat → Nat → State) (hs : Keeps s0 s) (hf : ∀ z0 z1 z2, Keeps s0 (f z0 z1 z2)) : Keeps s0 (atRegister addr size s f) := by
  unfold atRegister
  repeat' first
    | with_reducible first
        | assumption | apply hf | apply atPlace_keeps | apply badAccess_keeps | apply ite_keeps | apply State.tile_keeps (s0 := s0)
    | dsimp only | split | intro _

theorem atRead_keeps {s0 : State} (addr size : Nat) (s : State) (f : Nat → Nat → Nat → State) (hs : Keeps s0 s) (hf : ∀ z0 z1 z2, Keeps s0 (f z0 z1 z2)) : Keeps s0 (atRead addr size s f) := by
  unfold atRead
  repeat' first
    | with_reducible first
        | assumption | apply hf | apply atPlace_keeps | apply badAccess_keeps | apply State.answer_keeps | apply ite_keeps
        | apply State.tile_keeps (s0 := s0)
    | dsimp only | split | intro _

theorem execRegisterWrite_keeps {s0 : State} (src : Source) (addr size : Nat) (val : BitVec 64) (s : State) (hs : Keeps s0 s) : OutcomeKeeps s0 (execRegisterWrite src addr size val s) := by
  unfold execRegisterWrite
  repeat' first
    | with_reducible first
        | assumption | apply OutcomeKeeps_next | apply atRegister_keeps | apply regWrite_keeps | apply withReg_keeps | apply setCompare_keeps
        | apply twoAnswers_keeps | apply ite_keeps | apply State.tile_keeps (s0 := s0)
    | dsimp only | split | intro _

theorem execMirrorValueWrite_keeps {s0 : State} (src : Source) (addr : Nat) (v : Word) (s : State) (hs : Keeps s0 s) : OutcomeKeeps s0 (execMirrorValueWrite src addr v s) := by
  unfold execMirrorValueWrite
  repeat' first
    | with_reducible first
        | assumption | apply OutcomeKeeps_next | apply atRegister_keeps | apply withReg_keeps | apply mirrorWrite_keeps | apply ite_keeps
        | apply State.tile_keeps (s0 := s0)
    | dsimp only | split | intro _

theorem execRegionMakeLit_keeps {s0 : State} (src : Source) (r : RegionId) (comp : Word) (s : State) (hs : Keeps s0 s) : OutcomeKeeps s0 (execRegionMakeLit src r comp s) := by
  unfold execRegionMakeLit
  repeat' first
    | with_reducible first
        | assumption | apply OutcomeKeeps_next | apply withReg_keeps | apply mirrorWrite_keeps | apply ite_keeps | apply State.tile_keeps (s0 := s0)
    | dsimp only | split | intro _

theorem execRegionMakeDark_keeps {s0 : State} (src : Source) (r : RegionId) (comp : Word) (s : State) (hs : Keeps s0 s) : OutcomeKeeps s0 (execRegionMakeDark src r comp s) := by
  unfold execRegionMakeDark
  repeat' first
    | with_reducible first
        | assumption | apply OutcomeKeeps_next | apply withReg_keeps | apply mirrorWrite_keeps | apply ite_keeps | apply State.tile_keeps (s0 := s0)
    | dsimp only | split | intro _

theorem execMemMapWrite_keeps {s0 : State} (src : Source) (d : Fin 4) (comp : Word) (s : State) (hs : Keeps s0 s) : OutcomeKeeps s0 (execMemMapWrite src d comp s) := by
  unfold execMemMapWrite
  repeat' first
    | with_reducible first
        | assumption | apply OutcomeKeeps_next | apply withReg_keeps | apply mirrorWrite_keeps | apply ite_keeps | apply State.tile_keeps (s0 := s0)
    | dsimp only | split | intro _

theorem execSqTailWrite_keeps {s0 : State} (src : Source) (r : RingId) (v : Word) (s : State) (hs : Keeps s0 s) : OutcomeKeeps s0 (execSqTailWrite src r v s) := by
  unfold execSqTailWrite
  repeat' first
    | with_reducible first
        | assumption | apply OutcomeKeeps_next | apply withReg_keeps | apply writeTail_keeps | apply ite_keeps | apply State.tile_keeps (s0 := s0)
    | dsimp only | split | intro _

theorem execRingCtrlWrite_keeps {s0 : State} (src : Source) (r : RingId) (event : Bool) (v : Word) (s : State) (hs : Keeps s0 s) : OutcomeKeeps s0 (execRingCtrlWrite src r event v s) := by
  unfold execRingCtrlWrite
  repeat' first
    | with_reducible first
        | assumption | apply OutcomeKeeps_next | apply withReg_keeps | apply writeRing_keeps | apply ite_keeps | apply State.tile_keeps (s0 := s0)
    | dsimp only | split | intro _

theorem execCompareWrite_keeps {s0 : State} (src : Source) (k : SlotId) (hi : Bool) (v : Word) (s : State) (hs : Keeps s0 s) : OutcomeKeeps s0 (execCompareWrite src k hi v s) := by
  unfold execCompareWrite
  repeat' first
    | with_reducible first
        | assumption | apply OutcomeKeeps_next | apply withPage_keeps | apply State.done_keeps | apply withReg_keeps | apply writeCompare_keeps
        | apply ite_keeps | apply State.tile_keeps (s0 := s0)
    | dsimp only | split | intro _

theorem execSlotCtrlWrite_keeps {s0 : State} (src : Source) (k : SlotId) (v : Word) (s : State) (hs : Keeps s0 s) : OutcomeKeeps s0 (execSlotCtrlWrite src k v s) := by
  unfold execSlotCtrlWrite
  repeat' first
    | with_reducible first
        | assumption | apply OutcomeKeeps_next | apply withPage_keeps | apply State.done_keeps | apply withReg_keeps | apply writeSlotCtrl_keeps
        | apply ite_keeps | apply State.tile_keeps (s0 := s0)
    | dsimp only | split | intro _

theorem cordConfig_keeps {s0 : State} (src : Source) (l : Nat) (v : Word) (s : State) (hs : Keeps s0 s) : Keeps s0 (cordConfig src l v s) := by
  unfold cordConfig
  repeat' first
    | with_reducible first
        | assumption | apply withReg_keeps | apply writeCordConfig_keeps | apply State.done_keeps | apply withPage_keeps | apply ite_keeps
        | apply State.tile_keeps (s0 := s0)
    | dsimp only | split | intro _

theorem execCordEnableWrite_keeps {s0 : State} (src : Source) (l : LinkId) (v : Word) (s : State) (hs : Keeps s0 s) : OutcomeKeeps s0 (execCordEnableWrite src l v s) := by
  unfold execCordEnableWrite
  repeat' first
    | with_reducible first
        | assumption | apply OutcomeKeeps_next | apply cordConfig_keeps | apply ite_keeps | apply State.tile_keeps (s0 := s0)
    | dsimp only | split | intro _

theorem execCordSplitWrite_keeps {s0 : State} (src : Source) (p : PortId) (v : Word) (s : State) (hs : Keeps s0 s) : OutcomeKeeps s0 (execCordSplitWrite src p v s) := by
  unfold execCordSplitWrite
  repeat' first
    | with_reducible first
        | assumption | apply OutcomeKeeps_next | apply cordConfig_keeps | apply ite_keeps | apply State.tile_keeps (s0 := s0)
    | dsimp only | split | intro _

theorem execQuarantineRelease_keeps {s0 : State} (src : Source) (l : LinkId) (v : Word) (s : State) (hs : Keeps s0 s) : OutcomeKeeps s0 (execQuarantineRelease src l v s) := by
  unfold execQuarantineRelease
  repeat' first
    | with_reducible first
        | assumption | apply OutcomeKeeps_next | apply cordConfig_keeps | apply ite_keeps | apply State.tile_keeps (s0 := s0)
    | dsimp only | split | intro _

theorem execBankGateWrite_keeps {s0 : State} (src : Source) (t : TileId) (reg : Fin 3) (v : Word) (s : State) (hs : Keeps s0 s) : OutcomeKeeps s0 (execBankGateWrite src t reg v s) := by
  unfold execBankGateWrite
  repeat' first
    | with_reducible first
        | assumption | apply OutcomeKeeps_next | apply regWrite_keeps | apply ite_keeps | apply State.tile_keeps (s0 := s0)
    | dsimp only | split | intro _

theorem Tile.setShadow_keeps (x : Tile) (cls : Nat) (v : Sparse Word) (hx : x.memOk) : (Tile.setShadow x cls v).memOk := by
  unfold Tile.setShadow
  repeat' first
    | with_reducible first
        | assumption | apply And.intro | apply Keeps.hbm (s0 := s0) | apply Keeps.hostMem (s0 := s0) | apply Keeps.tiles (s0 := s0) | apply Keeps.sec
        | apply Keeps.boot | apply Keeps.pending | apply Keeps.fresh | apply State.tile_keeps (s0 := s0) | apply Tile.memOk.store | apply ite_keeps
    | dsimp only | simp only [Keeps_mk] | simp only [Tile.memOk_mk] | split | intro _

theorem checkWord_keeps {s0 : State} (cls off : Nat) (ecc : Ecc) (s : State) (hs : Keeps s0 s) : Keeps s0 (checkWord cls off ecc s) := by
  unfold checkWord
  repeat' first
    | with_reducible first
        | assumption | apply settingBad_keeps | apply recordFault_keeps | apply And.intro | apply Memory.wf_memWrite | apply Keeps.hbm (s0 := s0)
        | apply Keeps.hostMem (s0 := s0) | apply Keeps.tiles (s0 := s0) | apply Keeps.sec | apply Keeps.boot | apply Keeps.pending
        | apply Keeps.fresh | apply Keeps.fresh1 | apply secOk.nOp | apply secOk.nOwn | apply secOk.nCeil | apply secOk.nDebug | apply secOk.nonces
        | apply bootOk.floors | apply Tile.memOk.store | apply State.tile_keeps (s0 := s0) | apply tilesOk_sset | apply tilesOk_map
        | apply Memory.wf_filter | apply Memory.wf_memPut | apply foldlSnd_keeps | apply ite_keeps | apply ite_optKeeps | apply foldlThd_keeps
        | apply foldlMem_wf | apply Memory.wf_empty | apply tilesOk_empty | apply Tile.memOk_default
    | dsimp only | simp only [optKeeps_none, optKeeps_some, optTileOk_none, optTileOk_some, optPairKeeps_none, optPairKeeps_some]
    | simp only [Keeps_mk] | simp only [Tile.memOk_mk] | simp only [secOk_mk] | simp only [bootOk_mk] | split | intro _

theorem execCountLoRead_keeps {s0 : State} (read : WordRead) (s : State) (hs : Keeps s0 s) : OutcomeKeeps s0 (execCountLoRead read s) := by
  unfold execCountLoRead
  repeat' first
    | with_reducible first
        | assumption | apply OutcomeKeeps_next | apply atRead_keeps | apply checkWord_keeps | apply State.answer_keeps | apply State.modTile_keeps
        | apply Tile.setShadow_keeps | apply And.intro | apply Keeps.hbm (s0 := s0) | apply Keeps.hostMem (s0 := s0) | apply Keeps.tiles (s0 := s0)
        | apply Keeps.sec | apply Keeps.boot | apply Keeps.pending | apply Keeps.fresh | apply State.tile_keeps (s0 := s0) | apply Tile.memOk.store
        | apply ite_keeps
    | dsimp only | simp only [Keeps_mk] | simp only [Tile.memOk_mk] | split | intro _

theorem execFaultSummaryRead_keeps {s0 : State} (addr size : Nat) (s : State) (hs : Keeps s0 s) : OutcomeKeeps s0 (execFaultSummaryRead addr size s) := by
  unfold execFaultSummaryRead
  repeat' first
    | with_reducible first
        | assumption | apply OutcomeKeeps_next | apply atRead_keeps | apply State.answer_keeps | apply And.intro | apply Keeps.hbm (s0 := s0)
        | apply Keeps.hostMem (s0 := s0) | apply Keeps.tiles (s0 := s0) | apply Keeps.sec | apply Keeps.boot | apply Keeps.pending
        | apply Keeps.fresh | apply State.tile_keeps (s0 := s0) | apply Tile.memOk.store | apply ite_keeps
    | dsimp only | simp only [Keeps_mk] | simp only [Tile.memOk_mk] | split | intro _

/-! ### Machine/Pins.lean -/

theorem smbAnswer_keeps {s0 : State} (f : State → List Byte) (s : State) (hs : Keeps s0 s) : Keeps s0 (smbAnswer f s) := by
  unfold smbAnswer
  repeat' first
    | with_reducible first
        | assumption | apply And.intro | apply Keeps.hbm (s0 := s0) | apply Keeps.hostMem (s0 := s0) | apply Keeps.tiles (s0 := s0) | apply Keeps.sec
        | apply Keeps.boot | apply Keeps.pending | apply Keeps.fresh | apply State.tile_keeps (s0 := s0) | apply Tile.memOk.store | apply ite_keeps
    | dsimp only | simp only [Keeps_mk] | simp only [Tile.memOk_mk] | split | intro _

theorem execSmbusReadBootStatus_keeps {s0 : State} (s : State) (hs : Keeps s0 s) : OutcomeKeeps s0 (execSmbusReadBootStatus s) := by
  unfold execSmbusReadBootStatus
  repeat' first
    | with_reducible first
        | assumption | apply OutcomeKeeps_next | apply smbAnswer_keeps | apply ite_keeps | apply State.tile_keeps (s0 := s0)
    | dsimp only | split | intro _

theorem execSmbusReadIdentity_keeps {s0 : State} (s : State) (hs : Keeps s0 s) : OutcomeKeeps s0 (execSmbusReadIdentity s) := by
  unfold execSmbusReadIdentity
  repeat' first
    | with_reducible first
        | assumption | apply OutcomeKeeps_next | apply smbAnswer_keeps | apply ite_keeps | apply State.tile_keeps (s0 := s0)
    | dsimp only | split | intro _

theorem execSmbusReadTemperatures_keeps {s0 : State} (s : State) (hs : Keeps s0 s) : OutcomeKeeps s0 (execSmbusReadTemperatures s) := by
  unfold execSmbusReadTemperatures
  repeat' first
    | with_reducible first
        | assumption | apply OutcomeKeeps_next | apply smbAnswer_keeps | apply ite_keeps | apply State.tile_keeps (s0 := s0)
    | dsimp only | split | intro _

theorem execSmbusReadFaultSummary_keeps {s0 : State} (s : State) (hs : Keeps s0 s) : OutcomeKeeps s0 (execSmbusReadFaultSummary s) := by
  unfold execSmbusReadFaultSummary
  repeat' first
    | with_reducible first
        | assumption | apply OutcomeKeeps_next | apply And.intro | apply Keeps.hbm (s0 := s0) | apply Keeps.hostMem (s0 := s0)
        | apply Keeps.tiles (s0 := s0) | apply Keeps.sec | apply Keeps.boot | apply Keeps.pending | apply Keeps.fresh
        | apply State.tile_keeps (s0 := s0) | apply Tile.memOk.store | apply ite_keeps
    | dsimp only | simp only [Keeps_mk] | simp only [Tile.memOk_mk] | split | intro _

theorem execSmbusRoleChunk_keeps {s0 : State} (blk : SmbBlock) (chk : RoleCheck) (s : State) (hs : Keeps s0 s) : OutcomeKeeps s0 (execSmbusRoleChunk blk chk s) := by
  unfold execSmbusRoleChunk
  repeat' first
    | with_reducible first
        | assumption | apply OutcomeKeeps_next | apply roleCommand_keeps | apply And.intro | apply Memory.wf_memWrite | apply Keeps.hbm (s0 := s0)
        | apply Keeps.hostMem (s0 := s0) | apply Keeps.tiles (s0 := s0) | apply Keeps.sec | apply Keeps.boot | apply Keeps.pending
        | apply Keeps.fresh | apply Keeps.fresh1 | apply secOk.nOp | apply secOk.nOwn | apply secOk.nCeil | apply secOk.nDebug | apply secOk.nonces
        | apply bootOk.floors | apply Tile.memOk.store | apply State.tile_keeps (s0 := s0) | apply tilesOk_sset | apply tilesOk_map
        | apply Memory.wf_filter | apply Memory.wf_memPut | apply foldlSnd_keeps | apply ite_keeps | apply ite_optKeeps | apply foldlThd_keeps
        | apply foldlMem_wf | apply Memory.wf_empty | apply tilesOk_empty | apply Tile.memOk_default
    | dsimp only | simp only [optKeeps_none, optKeeps_some, optTileOk_none, optTileOk_some, optPairKeeps_none, optPairKeeps_some]
    | simp only [Keeps_mk] | simp only [Tile.memOk_mk] | simp only [secOk_mk] | simp only [bootOk_mk] | split | intro _

theorem execSmbusRoleReply_keeps {s0 : State} (s : State) (hs : Keeps s0 s) : OutcomeKeeps s0 (execSmbusRoleReply s) := by
  unfold execSmbusRoleReply
  repeat' first
    | with_reducible first
        | assumption | apply OutcomeKeeps_next | apply And.intro | apply Memory.wf_memWrite | apply Keeps.hbm (s0 := s0)
        | apply Keeps.hostMem (s0 := s0) | apply Keeps.tiles (s0 := s0) | apply Keeps.sec | apply Keeps.boot | apply Keeps.pending
        | apply Keeps.fresh | apply Keeps.fresh1 | apply secOk.nOp | apply secOk.nOwn | apply secOk.nCeil | apply secOk.nDebug | apply secOk.nonces
        | apply bootOk.floors | apply Tile.memOk.store | apply State.tile_keeps (s0 := s0) | apply tilesOk_sset | apply tilesOk_map
        | apply Memory.wf_filter | apply Memory.wf_memPut | apply foldlSnd_keeps | apply ite_keeps | apply ite_optKeeps | apply foldlThd_keeps
        | apply foldlMem_wf | apply Memory.wf_empty | apply tilesOk_empty | apply Tile.memOk_default
    | dsimp only | simp only [optKeeps_none, optKeeps_some, optTileOk_none, optTileOk_some, optPairKeeps_none, optPairKeeps_some]
    | simp only [Keeps_mk] | simp only [Tile.memOk_mk] | simp only [secOk_mk] | simp only [bootOk_mk] | split | intro _

theorem execJtagAccess_keeps {s0 : State} (op : JtagOp) (s : State) (hs : Keeps s0 s) : OutcomeKeeps s0 (execJtagAccess op s) := by
  unfold execJtagAccess
  repeat' first
    | with_reducible first
        | assumption | apply OutcomeKeeps_next | apply State.draw_keeps | apply And.intro | apply Keeps.hbm (s0 := s0)
        | apply Keeps.hostMem (s0 := s0) | apply Keeps.tiles (s0 := s0) | apply Keeps.sec | apply Keeps.boot | apply Keeps.pending
        | apply Keeps.fresh | apply State.tile_keeps (s0 := s0) | apply Tile.memOk.store | apply ite_keeps
    | dsimp only | simp only [Keeps_mk] | simp only [Tile.memOk_mk] | split | intro _

theorem execSyncOutPulseEnd_keeps {s0 : State} (s : State) (hs : Keeps s0 s) : OutcomeKeeps s0 (execSyncOutPulseEnd s) := by
  unfold execSyncOutPulseEnd
  repeat' first
    | with_reducible first
        | assumption | apply OutcomeKeeps_next | apply And.intro | apply Keeps.hbm (s0 := s0) | apply Keeps.hostMem (s0 := s0)
        | apply Keeps.tiles (s0 := s0) | apply Keeps.sec | apply Keeps.boot | apply Keeps.pending | apply Keeps.fresh
        | apply State.tile_keeps (s0 := s0) | apply Tile.memOk.store | apply ite_keeps
    | dsimp only | simp only [Keeps_mk] | simp only [Tile.memOk_mk] | split | intro _

/-! ### Machine/Tick.lean -/

theorem Tile.countIdle_keeps (x : Tile) (hx : x.memOk) : (Tile.countIdle x).memOk := by
  unfold Tile.countIdle
  repeat' first
    | with_reducible first
        | assumption | apply And.intro | apply Keeps.hbm (s0 := s0) | apply Keeps.hostMem (s0 := s0) | apply Keeps.tiles (s0 := s0) | apply Keeps.sec
        | apply Keeps.boot | apply Keeps.pending | apply Keeps.fresh | apply State.tile_keeps (s0 := s0) | apply Tile.memOk.store | apply ite_keeps
    | dsimp only | simp only [Keeps_mk] | simp only [Tile.memOk_mk] | split | intro _

theorem Tile.tickMatrix_keeps (cause : Nat) (x : Tile) (hx : x.memOk) : (Tile.tickMatrix cause x).memOk := by
  unfold Tile.tickMatrix
  repeat' first
    | with_reducible first
        | assumption | apply Tile.countFrozen_keeps | apply Tile.countIdle_keeps | apply And.intro | apply Keeps.hbm (s0 := s0)
        | apply Keeps.hostMem (s0 := s0) | apply Keeps.tiles (s0 := s0) | apply Keeps.sec | apply Keeps.boot | apply Keeps.pending
        | apply Keeps.fresh | apply State.tile_keeps (s0 := s0) | apply Tile.memOk.store | apply ite_keeps
    | dsimp only | simp only [Keeps_mk] | simp only [Tile.memOk_mk] | split | intro _

theorem Tile.tickEndpoint_keeps (x : Tile) (hx : x.memOk) : (Tile.tickEndpoint x).memOk := by
  unfold Tile.tickEndpoint
  repeat' first
    | with_reducible first
        | assumption | apply Tile.modEp_keeps | apply ite_keeps | apply State.tile_keeps (s0 := s0)
    | dsimp only | split | intro _

theorem Tile.tickOffset_keeps (x : Tile) (hx : x.memOk) : (Tile.tickOffset x).memOk := by
  unfold Tile.tickOffset
  repeat' first
    | with_reducible first
        | assumption | apply State.done_keeps | apply Tile.count_keeps | apply And.intro | apply Keeps.hbm (s0 := s0)
        | apply Keeps.hostMem (s0 := s0) | apply Keeps.tiles (s0 := s0) | apply Keeps.sec | apply Keeps.boot | apply Keeps.pending
        | apply Keeps.fresh | apply State.tile_keeps (s0 := s0) | apply Tile.memOk.store | apply ite_keeps
    | dsimp only | simp only [Keeps_mk] | simp only [Tile.memOk_mk] | split | intro _

theorem Tile.tickSends_keeps (x : Tile) (hx : x.memOk) : (Tile.tickSends x).memOk := by
  unfold Tile.tickSends
  repeat' first
    | with_reducible first
        | assumption | apply And.intro | apply Keeps.hbm (s0 := s0) | apply Keeps.hostMem (s0 := s0) | apply Keeps.tiles (s0 := s0) | apply Keeps.sec
        | apply Keeps.boot | apply Keeps.pending | apply Keeps.fresh | apply State.tile_keeps (s0 := s0) | apply Tile.memOk.store | apply ite_keeps
    | dsimp only | simp only [Keeps_mk] | simp only [Tile.memOk_mk] | split | intro _

theorem Tile.tickHist_keeps (x : Tile) (hx : x.memOk) : (Tile.tickHist x).memOk := by
  unfold Tile.tickHist
  repeat' first
    | with_reducible first
        | assumption | apply foldl_keeps | apply foldlState_keeps | apply And.intro | apply Keeps.hbm (s0 := s0) | apply Keeps.hostMem (s0 := s0)
        | apply Keeps.tiles (s0 := s0) | apply Keeps.sec | apply Keeps.boot | apply Keeps.pending | apply Keeps.fresh
        | apply State.tile_keeps (s0 := s0) | apply Tile.memOk.store | apply ite_keeps
    | dsimp only | simp only [Keeps_mk] | simp only [Tile.memOk_mk] | split | intro _

theorem drainTrace_keeps {s0 : State} (t : Nat) (s : State) (hs : Keeps s0 s) : Keeps s0 (drainTrace t s) := by
  unfold drainTrace
  repeat' first
    | with_reducible first
        | assumption | apply writeRecord_keeps | apply State.modTile_keeps | apply Tile.count_keeps | apply And.intro | apply Keeps.hbm (s0 := s0)
        | apply Keeps.hostMem (s0 := s0) | apply Keeps.tiles (s0 := s0) | apply Keeps.sec | apply Keeps.boot | apply Keeps.pending
        | apply Keeps.fresh | apply State.tile_keeps (s0 := s0) | apply Tile.memOk.store | apply ite_keeps
    | dsimp only | simp only [Keeps_mk] | simp only [Tile.memOk_mk] | split | intro _

theorem pumpUnits_keeps {s0 : State} (t : Nat) (s : State) (hs : Keeps s0 s) : Keeps s0 (pumpUnits t s) := by
  unfold pumpUnits
  repeat' first
    | with_reducible first
        | assumption | apply pumpSends_keeps | apply pumpMsgs_keeps | apply feedPump_keeps | apply pumpTile_keeps | apply ite_keeps
        | apply State.tile_keeps (s0 := s0)
    | dsimp only | split | intro _

theorem tickTile_keeps {s0 : State} (t : Nat) (s : State) (hs : Keeps s0 s) : Keeps s0 (tickTile t s) := by
  unfold tickTile
  repeat' first
    | with_reducible first
        | assumption | apply pumpUnits_keeps | apply drainTrace_keeps | apply State.modTile_keeps | apply foldl_keeps | apply foldlState_keeps
        | apply Tile.count_keeps | apply Tile.tickMatrix_keeps | apply Tile.tickEndpoint_keeps | apply Tile.tickOffset_keeps
        | apply Tile.tickSends_keeps | apply Tile.tickHist_keeps | apply Tile.tickStores_keeps | apply ite_keeps | apply State.tile_keeps (s0 := s0)
    | dsimp only | split | intro _

theorem tickStopped_keeps {s0 : State} (t : Nat) (s : State) (hs : Keeps s0 s) : Keeps s0 (tickStopped t s) := by
  unfold tickStopped
  repeat' first
    | with_reducible first
        | assumption | apply State.modTile_keeps | apply Tile.tickMatrix_keeps | apply Tile.tickHist_keeps | apply ite_keeps
        | apply State.tile_keeps (s0 := s0)
    | dsimp only | split | intro _

theorem tickReplay_keeps {s0 : State} (s : State) (hs : Keeps s0 s) : Keeps s0 (tickReplay s) := by
  unfold tickReplay
  repeat' first
    | with_reducible first
        | assumption | apply forAll_keeps | apply replaySlot_keeps | apply ite_keeps | apply State.tile_keeps (s0 := s0)
    | dsimp only | split | intro _

theorem tickRegion_keeps {s0 : State} (r : Nat) (s : State) (hs : Keeps s0 s) : Keeps s0 (tickRegion r s) := by
  unfold tickRegion
  repeat' first
    | with_reducible first
        | assumption | apply State.modRegion_keeps | apply ite_keeps | apply State.tile_keeps (s0 := s0)
    | dsimp only | split | intro _

theorem sendControl_keeps {s0 : State} (l : Nat) (s : State) (hs : Keeps s0 s) : Keeps s0 (sendControl l s) := by
  unfold sendControl
  repeat' first
    | with_reducible first
        | assumption | apply State.setLink_keeps | apply ite_keeps | apply State.tile_keeps (s0 := s0)
    | dsimp only | split | intro _

theorem tick_keeps {s0 : State} (s : State) (hs : Keeps s0 s) : Keeps s0 (tick s) := by
  unfold tick
  repeat' first
    | with_reducible first
        | assumption | apply tickReplay_keeps | apply forAll_keeps | apply tickStopped_keeps | apply tickTile_keeps | apply tickRegion_keeps
        | apply sendControl_keeps | apply grantSteps_keeps | apply pumpEvl_keeps | apply And.intro | apply Keeps.hbm (s0 := s0)
        | apply Keeps.hostMem (s0 := s0) | apply Keeps.tiles (s0 := s0) | apply Keeps.sec | apply Keeps.boot | apply Keeps.pending
        | apply Keeps.fresh | apply State.tile_keeps (s0 := s0) | apply Tile.memOk.store | apply ite_keeps
    | dsimp only | simp only [Keeps_mk] | simp only [Tile.memOk_mk] | split | intro _

end Sys2Proof.Machine
end

