-- ==== Sys2Proof/WellFormed.lean ====
section
/-! DEFINITION. Operands in the range that the part gives them, where their type alone does not say it. A command outside these ranges is one that no sender of the manual can form; the meanings are total and do not rest on this check. -/

namespace Sys2Proof

/-- A package address has 48 bits: register space ends below 0x0F01_0000_0000 (R419). -/
def addr48 (a : Nat) : Bool := decide (a < 281474976710656)

/-- A plan entry, or a place in a plan, has 13 bits (R207, R209). -/
def planIndex (n : Nat) : Bool := decide (n < 8192)

/-- A report of units that failed names each unit once. -/
def distinct {α : Type} [DecidableEq α] : List α → Bool
  | [] => true
  | a :: r => !r.contains a && distinct r

/-- The operands of a command are in range. -/
def Instr.wf : Instr → Bool
  | .registerWrite _ addr _ _ => addr48 addr
  | .countLoRead r => addr48 r.addr
  | .faultSummaryRead addr _ => addr48 addr
  | .mirrorValueWrite _ addr _ => addr48 addr
  | .regionMakeLit _ _ _ => true
  | .regionMakeDark _ _ _ => true
  | .memMapWrite _ _ _ => true
  | .enqueue _ _ _ => true
  | .barrierArrival _ => true
  | .exchangeBarrierArrival _ => true
  | .exchangeRelease _ _ => true
  | .boundaryBarrierArrival _ => true
  | .boundaryActions _ _ _ => true
  | .contextSwitchComplete _ => true
  | .stepChangeComplete _ => true
  | .stepHoldTimeout _ => true
  | .staggerTargetReached => true
  | .scalarLoad _ _ _ _ => true
  | .scalarStore _ _ _ _ => true
  | .instructionFetch _ target _ _ => target.all (fun n => decide (n < 32768))
  | .storeAccessGrant _ _ => true
  | .storeReadDataReturn _ _ => true
  | .correctedBilletWriteback _ _ => true
  | .subBilletWrite _ _ => true
  | .mergeComplete _ _ => true
  | .bankGateWrite _ _ _ _ => true
  | .bankPowerOff _ _ => true
  | .bankPowerRestored _ _ => true
  | .bankWakeComplete _ _ => true
  | .accumulate _ _ => true
  | .drain _ => true
  | .accumulateDrain _ _ => true
  | .spill _ => true
  | .resume _ _ => true
  | .discard _ => true
  | .matrixCommandComplete _ => true
  | .add _ _ => true
  | .sub _ _ => true
  | .mul _ _ => true
  | .fma _ _ => true
  | .min _ _ => true
  | .max _ _ => true
  | .abs _ _ => true
  | .neg _ _ => true
  | .cmpLt _ _ => true
  | .cmpLe _ _ => true
  | .cmpEq _ _ => true
  | .rcp _ _ => true
  | .sqrt _ _ => true
  | .rsqrt _ _ => true
  | .exp _ _ => true
  | .exp2 _ _ => true
  | .expm1 _ _ => true
  | .log _ _ => true
  | .log2 _ _ => true
  | .tanh _ _ => true
  | .sigmoid _ _ => true
  | .cvtWiden _ _ => true
  | .cvtNarrow _ _ => true
  | .vectorCommandComplete _ => true
  | .ctrWait _ _ _ => true
  | .ctrAdd _ _ _ => true
  | .ctrRead _ _ _ => true
  | .rebaseApply _ => true
  | .copyIn _ => true
  | .copyOut _ => true
  | .streamIn _ => true
  | .gather _ => true
  | .unload _ => true
  | .carouselSet _ => true
  | .streamStop _ => true
  | .hbmReadDataReturn _ _ _ _ => true
  | .hbmWriteAccept _ _ => true
  | .dmaCommandComplete _ _ => true
  | .stackWakeComplete _ => true
  | .stackIdleBank _ => true
  | .patrolScrub _ line _ => decide (line < 1073741824)
  | .kget _ _ _ => true
  | .kput _ _ _ => true
  | .kindlingComplete _ _ => true
  | .exchSelect _ pos _ => planIndex pos
  | .planEntryRead _ _ => true
  | .sendReadAhead _ entry => planIndex entry
  | .planEntryDue _ => true
  | .sendComplete _ entry => planIndex entry
  | .flitForward _ _ _ => true
  | .flitArrival _ => true
  | .receiveComplete _ entry => planIndex entry
  | .chSend _ _ _ _ => true
  | .chSendComplete _ _ => true
  | .chPeek _ _ _ => true
  | .chRelease _ _ => true
  | .channelLineArrival _ => true
  | .messageDelivered _ _ => true
  | .creditFlitArrival _ => true
  | .define _ => true
  | .contribute _ _ => true
  | .finish _ _ => true
  | .release _ => true
  | .rickCommandComplete _ => true
  | .rickPacketArrival _ => true
  | .rickAddition _ _ => true
  | .handoffCredit _ => true
  | .handoffPacketArrival _ => true
  | .stokerRecordApply _ _ _ => true
  | .roundComplete _ => true
  | .roundTimeout _ => true
  | .fingerprintCompare _ => true
  | .createContext _ _ => true
  | .destroyContext _ => true
  | .destroyContextComplete _ => true
  | .contextMapRetry _ => true
  | .submitGraph _ => true
  | .cancelGraph _ => true
  | .pauseGraph _ => true
  | .resumeGraph _ => true
  | .rebase _ => true
  | .defineBucket _ => true
  | .removeBucket _ => true
  | .releaseHold _ => true
  | .locate _ => true
  | .sqTailWrite _ _ _ => true
  | .ringCtrlWrite _ _ _ _ => true
  | .contextStop _ => true
  | .cadenceEdge period high => decide (0 < period) && decide (high ≤ period)
  | .acquireTimeout => true
  | .minuteMarkMissing => true
  | .holdoverEntry => true
  | .generatedTick => true
  | .fallbackTimeout => true
  | .compareWrite _ _ _ _ => true
  | .slotCtrlWrite _ _ _ => true
  | .envelopeMinuteRoll => true
  | .tallyClose => true
  | .tallySigned => true
  | .envelopeLead => true
  | .staggerSlotFire => true
  | .syncInEdge => true
  | .snapshotTickTrigger => true
  | .replicaCheckSend => true
  | .counterSnapshot => true
  | .timeoutTick => true
  | .softwareSlotFire _ => true
  | .railSample _ => true
  | .powerEvaluation temps => temps.all (fun p => decide (p.2 < 2048))
  | .regionTransitionComplete _ => true
  | .superstepWatchdogExpiry _ => true
  | .evlTraining _ => true
  | .evlTrainingRetry _ => true
  | .evlFrameReceive _ _ _ _ _ => true
  | .bulkRequest _ _ _ => true
  | .coherentSnoop addr line _ => addr48 addr && addr % 64 == 0 && line.all (fun l => l.length == 64)
  | .cordSignalDetect _ => true
  | .cordFecLock _ _ => true
  | .cordTrainingTimeout _ => true
  | .cordSignalLost _ => true
  | .hello _ _ _ => true
  | .proof _ _ _ => true
  | .confirm _ _ _ => true
  | .authenticationTimeout _ => true
  | .cordDataFrameReceive _ frame _ => decide (frame.length ≤ 2080)
  | .ack _ _ => true
  | .replay _ _ => true
  | .credit _ _ => true
  | .arrive _ _ => true
  | .cadence _ _ => true
  | .rekey _ _ => true
  | .rekeyStart _ => true
  | .cordDegradedRecovery _ => true
  | .quarantineBackoffExpiry _ => true
  | .quarantineCountReset _ => true
  | .systemBarrierTimeout _ => true
  | .cordEnableWrite _ _ _ => true
  | .cordSplitWrite _ _ _ => true
  | .quarantineRelease _ _ _ => true
  | .roleCommand _ _ _ => true
  | .writeRegs _ _ _ => true
  | .stageEnvelope _ _ _ => true
  | .envelopeAlign _ _ _ => true
  | .store _ _ _ => true
  | .storeComplete => true
  | .discardStaged _ _ _ => true
  | .bindKey _ _ _ => true
  | .ownerRelease _ _ _ => true
  | .ownerReleaseComplete => true
  | .powerKeyBind _ _ _ => true
  | .auditAck _ _ _ => true
  | .stagePartners _ _ _ => true
  | .attestOwner _ _ _ => true
  | .attestRequest _ _ => true
  | .attestReportReady => true
  | .powerOkRise => true
  | .resetNAssert => true
  | .resetNRelease => true
  | .powerLoss => true
  | .bootRomStage _ _ _ _ badA bad => distinct badA && distinct bad
  | .firmwareLoadStage _ => true
  | .migrationStage _ => true
  | .crossingTrainingStage failed => distinct failed
  | .hbmTrainingStage _ => true
  | .selfTestStage _ _ => true
  | .deviceReady => true
  | .startStageTimeout => true
  | .pendingBootTimeout => true
  | .fencedRegionDark _ => true
  | .updateBegin _ => true
  | .updateCopyComplete => true
  | .updateBlock _ _ => true
  | .updateEnd _ => true
  | .updateAbort => true
  | .ashpitEnableWrite _ _ => true
  | .ashpitHeaderRewrite => true
  | .ctrlLatchStart _ addr => addr48 addr
  | .ctrlLatchEnd _ addr => addr48 addr
  | .tagLoad _ _ => true
  | .snapshotArm _ _ _ => true
  | .snapshotComplete _ _ => true
  | .captureArm _ _ => true
  | .replayArm _ _ => true
  | .statuesStopWrite _ => true
  | .stopInEdge => true
  | .scanOutStart => true
  | .scanOutEnd => true
  | .recover _ => true
  | .thermalTrip _ temp => decide (temp < 2048)
  | .stackHot _ temp => decide (temp < 2048)
  | .smbusReadBootStatus => true
  | .smbusReadIdentity => true
  | .smbusReadTemperatures => true
  | .smbusReadFaultSummary => true
  | .smbusRoleChunk bytes _ => decide (0 < bytes.bytes.length) && decide (bytes.bytes.length ≤ 255)
  | .smbusRoleReply => true
  | .jtagAccess _ => true
  | .syncOutPulseEnd => true
  | .thermAlertRelease => true

end Sys2Proof
end

