-- ==== Sys2Proof/Tests/Slice0.lean ====
section
/-! SUPPORT. Tests: for every obligation with hypotheses a state and operands that meet them, clause by clause (witness_<obligation>_<clause>); an ill-formed command for every check of WellFormed; and the manual's worked examples. -/

namespace Sys2Proof.Tests

set_option Elab.async false
set_option maxRecDepth 4000
set_option linter.unusedVariables false

open Sys2Proof Sys2Proof.Machine

/-! ### Small states for the tests -/

/-- A command of 32 bytes from its fields: byte, bit and value. -/
def cmdOf (fs : List (Nat × Nat × Nat)) : BitVec 256 := BitVec.ofNat 256 ((fs.map (fun f => f.2.2 * 2 ^ (8 * f.1 + f.2.1))).sum)
/-- A doubleword from its fields: first bit and value. -/
def dwOf (fs : List (Nat × Nat)) : BitVec 64 := BitVec.ofNat 64 ((fs.map (fun f => f.2 * 2 ^ f.1)).sum)
/-- Bytes from their places. -/
def bytesOf (n : Nat) (fs : List (Nat × Nat)) : List Byte :=
  fs.foldl (fun l f => l.set f.1 (BitVec.ofNat 8 f.2)) (List.replicate n 0)

/-- A map entry of a small context. -/
def entry0 : MapEntry :=
  { ctx := 0, wpSize := 64, tiSize := 64, emBase := 8, emSize := 64, imSize := 4, ctrSize := 8, codeLen := 4096 }
/-- A tile on which that context runs. -/
def tile0 : Tile := { map := [(0, entry0)], run := some 0, coreSt := 1 }
/-- The context, on a partition of one cluster. -/
def ctx0 : Ctx := { st := .running, onTiles := true, entry := entry0, apertures := [(0, 1048576)] }
/-- A served package whose region 0 is lit, with one tile and one context. -/
def lit (x : Tile) (c : Ctx) : State :=
  { State.reset with boot := { State.reset.boot with stage := 8 }, regions := [(0, { st := .lit })], tiles := [(0, x)], ctxs := [(0, c)] }

/-! ### Tile core, banks and barriers -/

theorem witness_CoreInstructionsComplete_1 : ∃ (s : State) (t : TileId) (slot : Nat) (e : MapEntry) (rd : Fin 32) (bil : BitVec 16) (d : Nat) (st : StoreId) (i : Nat),
    coreIssue s t freeCore = some (slot, e) ∧
    d < 64 ∧
    e.resolve bil.toNat 1 = .ok (st, i) :=
  ⟨lit tile0 ctx0, 0, 0, entry0, 31, 0, 63, .woodpile, 0, rfl, by decide, rfl⟩

theorem witness_CoreInstructionsComplete_2 : ∃ (s : State) (t : TileId) (slot : Nat) (e : MapEntry) (rs : Fin 32) (bil : BitVec 16) (d : Nat) (st : StoreId) (i : Nat),
    coreIssue s t freeCore = some (slot, e) ∧
    d < 64 ∧
    e.resolve bil.toNat 1 = .ok (st, i) :=
  ⟨lit tile0 ctx0, 0, 0, entry0, 1, 0x803F, 0, .ember, 71, rfl, by decide, rfl⟩

theorem witness_CoreInstructionsComplete_3 : ∃ (s : State) (t : TileId) (slot : Nat) (e : MapEntry) (target : Option Nat),
    coreIssue s t freeCore = some (slot, e) ∧
    let pc := target.getD (sgetD (s.tile t).banks slot {}).pc

    4 * pc < 1024 * e.imSize ∧
    4 * pc < e.codeLen :=
  ⟨lit tile0 ctx0, 0, 0, entry0, some 1023, rfl, by decide, by decide⟩

theorem witness_CoreInstructionsComplete_3b : ∃ (s : State) (t : TileId) (slot : Nat) (e : MapEntry) (target : Option Nat),
    coreIssue s t freeCore = some (slot, e) ∧
    let pc := target.getD (sgetD (s.tile t).banks slot {}).pc

    4 * pc < 1024 * e.imSize ∧
    4 * pc < e.codeLen :=
  ⟨lit tile0 ctx0, 0, 0, entry0, none, rfl, by decide, by decide⟩

theorem witness_CoreInstructionsComplete_4 : ∃ (s : State) (t : TileId) (slot : Nat) (e : MapEntry) (id val : BitVec 8),
    coreIssue s t freeCore = some (slot, e) ∧
    id.toNat < e.ctrSize ∧
    val ≠ 0 ∧
    ((s.tile t).counter (e.ctrBase + id.toNat)).toNat + val.toNat < 2 ^ 48 :=
  ⟨lit tile0 ctx0, 0, 0, entry0, 7, 255, rfl, by decide, by decide, by decide⟩

theorem witness_CoreInstructionsComplete_5 : ∃ (s : State) (t : TileId) (slot : Nat) (e : MapEntry) (id val : BitVec 8),
    coreIssue s t freeCore = some (slot, e) ∧
    id.toNat < e.ctrSize ∧
    val ≠ 0 ∧
    2 ^ 48 ≤ ((s.tile t).counter (e.ctrBase + id.toNat)).toNat + val.toNat :=
  ⟨lit { tile0 with ctr := [(7, BitVec.ofNat 48 (2 ^ 48 - 1))] } ctx0, 0, 0, entry0, 7, 1, rfl, by decide, by decide, by decide⟩

theorem witness_CoreInstructionsComplete_6 : ∃ (s : State) (t : TileId) (slot : Nat) (e : MapEntry) (rd : Fin 32) (id : BitVec 8),
    coreIssue s t freeCore = some (slot, e) ∧
    id.toNat < e.ctrSize :=
  ⟨lit tile0 ctx0, 0, 0, entry0, 0, 7, rfl, by decide⟩

theorem witness_CoreInstructionsComplete_7 : ∃ (s : State) (t : TileId) (slot : Nat) (e : MapEntry) (rs rt : Fin 32),
    coreIssue s t (fun st => st = .none || st = .ctrWait) = some (slot, e) ∧
    ((s.tile t).reg slot rs).toNat < e.ctrSize ∧
    (s.tile t).sat.getLsbD (e.ctrBase + ((s.tile t).reg slot rs).toNat) = false :=
  ⟨lit { tile0 with stall := .ctrWait } ctx0, 0, 0, entry0, 1, 2, rfl, by decide, rfl⟩

theorem witness_EnqueueCompletes_1 : ∃ (s : State) (t : TileId) (eng : Engine) (cmd : BitVec 256) (slot : Nat) (e : MapEntry),
    coreIssue s t (fun st => st = .none || st = .queueFull eng) = some (slot, e) ∧
    (s.tile t).queueUse eng < queueDepth eng ∧
    pickCode (engineChecks e eng cmd) = none ∧
    (∀ b ∈ featureBits eng cmd, ∃ c, s.ctx e.ctx = some c ∧ bit c.features b = true) :=
  ⟨lit tile0 ctx0, 0, .dma, cmdOf [(8, 0, 7)], 0, entry0, rfl, by decide, rfl, by decide⟩

theorem witness_EnqueueCompletes_1b : ∃ (s : State) (t : TileId) (eng : Engine) (cmd : BitVec 256) (slot : Nat) (e : MapEntry),
    coreIssue s t (fun st => st = .none || st = .queueFull eng) = some (slot, e) ∧
    (s.tile t).queueUse eng < queueDepth eng ∧
    pickCode (engineChecks e eng cmd) = none ∧
    (∀ b ∈ featureBits eng cmd, ∃ c, s.ctx e.ctx = some c ∧ bit c.features b = true) :=
  ⟨lit { tile0 with stall := .queueFull .vector } ctx0, 0, .vector, cmdOf [(8, 0, 1)], 0, entry0, rfl, by decide, rfl, by decide⟩

theorem witness_EnqueueCompletes_2 : ∃ (s : State) (t : TileId) (eng : Engine) (cmd : BitVec 256) (slot : Nat) (e : MapEntry),
    coreIssue s t (fun st => st = .none || st = .queueFull eng) = some (slot, e) ∧
    queueDepth eng ≤ (s.tile t).queueUse eng :=
  ⟨lit { tile0 with matQ := List.replicate 16 {} } ctx0, 0, .matrix, 0, 0, entry0, rfl, by decide⟩

theorem witness_EnqueueCompletes_3 : ∃ (s : State) (t : TileId) (slot : Nat) (e : MapEntry),
    coreIssue s t freeCore = some (slot, e) :=
  ⟨lit tile0 ctx0, 0, 0, entry0, rfl⟩

/-- A request of the core that waits at near bank 0. -/
def req0 : BankReq := { who := .core, store := .woodpile, bil := 0, dst := .coreReg 0 1 3 }

theorem witness_BankAccessCompletes_1 : ∃ (s : State) (t : TileId) (b : Fin 89) (r : BankReq),
    leader ((s.tile t).waiting (s.tileCycle t) b) = some r ∧
    (s.tile t).bankFree (s.tileCycle t) b = true ∧
    ((s.tile t).bank b).writeback = [] ∧
    (s.tile t).bondCarries (s.tileCycle t) b r = true ∧
    (b.val = 88 → (s.tile t).planTurn (s.tileCycle t) = false) ∧
    let takes := (s.tile t).bankOpen b = true ∨ r.acc = true ∧ ((s.tile t).bank b).st = .closing

    takes ∧
    req0.wr = none :=
  ⟨lit { tile0 with reqs := [req0] } ctx0, 0, 0, req0, rfl, rfl, rfl, rfl, by decide, Or.inl rfl, rfl⟩

theorem witness_BankAccessCompletes_1b : ∃ (s : State) (t : TileId) (b : Fin 89) (r : BankReq),
    leader ((s.tile t).waiting (s.tileCycle t) b) = some r ∧
    (s.tile t).bankFree (s.tileCycle t) b = true ∧
    ((s.tile t).bank b).writeback = [] ∧
    (s.tile t).bondCarries (s.tileCycle t) b r = true ∧
    (b.val = 88 → (s.tile t).planTurn (s.tileCycle t) = false) ∧
    let takes := (s.tile t).bankOpen b = true ∨ r.acc = true ∧ ((s.tile t).bank b).st = .closing

    takes ∧
    ({ req0 with wr := some [] } : BankReq).wr = some [] :=
  ⟨lit { tile0 with reqs := [{ req0 with wr := some [] }] } ctx0, 0, 0, { req0 with wr := some [] }, rfl, rfl, rfl, rfl, by decide, Or.inl rfl, rfl⟩

theorem witness_BankAccessCompletes_1c : ∃ (s : State) (t : TileId) (b : Fin 89) (r : BankReq),
    leader ((s.tile t).waiting (s.tileCycle t) b) = some r ∧
    (s.tile t).bankFree (s.tileCycle t) b = true ∧
    ((s.tile t).bank b).writeback = [] ∧
    (s.tile t).bondCarries (s.tileCycle t) b r = true ∧
    (b.val = 88 → (s.tile t).planTurn (s.tileCycle t) = false) ∧
    let takes := (s.tile t).bankOpen b = true ∨ r.acc = true ∧ ((s.tile t).bank b).st = .closing

    ¬ takes :=
  ⟨lit { tile0 with reqs := [req0], bankSt := [(0, { st := .dark })] } ctx0, 0, 0, req0, rfl, rfl, rfl, rfl, by decide, by decide⟩

theorem witness_BankAccessCompletes_2 : ∃ (s : State) (t : TileId) (r : BankReq),
    (s.tile t).reads.find? (fun r => r.readyAt ≤ (s.tileCycle t)) = some r ∧
    req0.dst = .coreReg 0 1 3 :=
  ⟨lit { tile0 with reads := [req0] } ctx0, 0, req0, by decide, rfl⟩

theorem witness_BankAccessCompletes_3 : ∃ (s : State) (t : TileId) (b : Fin 89),
    ((s.tile t).bank b).writeback ≠ [] ∧
    (s.tile t).bankFree (s.tileCycle t) b = true :=
  ⟨lit { tile0 with bankSt := [(88, { writeback := [0] })] } ctx0, 0, 88, by decide, rfl⟩

/-- A write of one doubleword. -/
def merge0 : MergeEntry := { store := .tinder, bil := 3, off := 504, bytes := List.replicate 8 1 }

theorem witness_MergeCompletes_1 : ∃ (s : State) (t : TileId) (st : StoreId) (m : MergeEntry),
    ((s.tile t).merges.filter (fun m => m.store = st && m.stage ≠ .queued)).length < 4 ∧
    (s.tile t).merges.find? (fun m => m.store = st && m.stage = .queued && !(s.tile t).inMerge st m.bil && !(s.tile t).kputWaits st m.bil m.seq) = some m :=
  ⟨lit { tile0 with merges := [merge0] } ctx0, 0, .tinder, merge0, by decide, rfl⟩

theorem witness_MergeCompletes_2 : ∃ (s : State) (t : TileId) (st : StoreId) (m : MergeEntry),
    (s.tile t).merges.find? (fun m => m.store = st && m.stage = .granted) = some m :=
  ⟨lit { tile0 with merges := [{ merge0 with stage := .granted }] } ctx0, 0, .tinder, { merge0 with stage := .granted }, rfl⟩

theorem witness_BankGatingCompletes_1 : ∃ (s : State) (t : TileId) (b : Fin 88),
    ((s.tile t).bank b).st = .closing ∧
    (∀ r ∈ (s.tile t).reqs, r.bank = b → r.acc = false) ∧
    (∀ r ∈ (s.tile t).reads, r.bank ≠ b) :=
  ⟨lit { tile0 with bankSt := [(87, { st := .closing })] } ctx0, 0, 87, rfl, by decide, by decide⟩

theorem witness_BankGatingCompletes_2 : ∃ (s : State) (t : TileId) (b : Fin 88),
    ((s.tile t).bank b).st = .waking :=
  ⟨lit { tile0 with bankSt := [(0, { st := .waking })] } ctx0, 0, 0, rfl⟩

theorem witness_BankGatingCompletes_3 : ∃ (s : State) (t : TileId) (b : Fin 88),
    ((s.tile t).bank b).st = .zeroing :=
  ⟨lit { tile0 with bankSt := [(64, { st := .zeroing })] } ctx0, 0, 64, rfl⟩

theorem witness_BankGatingCompletes_4 : ∃ (x : Tile) (cycle b : Nat),
    (({} : Tile).bank 87).st = .lit ∧
    ({} : Tile).bankMapped 87 = false :=
  ⟨{}, 0, 87, rfl, rfl⟩

theorem witness_BankGatingCompletes_4b : ∃ (x : Tile) (cycle b : Nat),
    (tile0.bank 0).st ≠ .dark ∧
    (tile0.bank 0).st ≠ .closing ∧
    tile0.bankMapped 0 = true :=
  ⟨tile0, 0, 0, by decide, by decide, rfl⟩

theorem witness_BankGatingCompletes_4c : ∃ (x : Tile) (cycle b : Nat),
    (({ bankSt := [(0, { st := .dark })] } : Tile).bank 0).st = .dark :=
  ⟨{ bankSt := [(0, { st := .dark })] }, 0, 0, rfl⟩

theorem witness_BarrierCommandsComplete_1 : ∃ (s : State) (t : TileId) (a : Nat × MapEntry) (n : Nat) (c : Ctx),
    coreIssue s t (fun st => st = .barrier) = some a ∧
    (s.tile t).runCtx = some n ∧
    (s.tile t).settled n = true ∧
    s.ctx n = some c :=
  ⟨lit { tile0 with stall := .barrier } ctx0, 0, (0, entry0), 0, ctx0, rfl, rfl, rfl, rfl⟩

theorem witness_BarrierCommandsComplete_2 : ∃ (s : State) (n : CtxId) (c : Ctx) (p : Nat),
    s.ctx n = some c ∧
    s.statues = false ∧
    c.st = .running ∧
    c.stop = none ∧
    c.barrier = 1 ∧
    (∀ t ∈ c.tiles, t ∈ c.arrived) ∧
    (∀ q ∈ c.planIds, q = p) :=
  ⟨lit { tile0 with exch := { phase := 1 } } { ctx0 with barrier := 1, arrived := ctx0.tiles, planIds := [7, 7] }, 0, { ctx0 with barrier := 1, arrived := ctx0.tiles, planIds := [7, 7] }, 7, rfl, rfl, rfl, rfl, rfl, by decide, by decide⟩

theorem witness_BarrierCommandsComplete_3 : ∃ (s : State) (t : TileId) (slot : Nat) (m : MapEntry) (c : Ctx),
    exchCtx s t = some (slot, m, c) ∧
    (s.tile t).exch.phase = 2 ∧
    c.barrier = 2 ∧
    (s.tile t).exch.isOver = true :=
  ⟨lit { tile0 with exch := { phase := 2, ended := true } } { ctx0 with barrier := 2 }, 0, 0, entry0, { ctx0 with barrier := 2 }, rfl, rfl, rfl, rfl⟩

theorem witness_RebaseKeepsCountersModulo_1 : ∃ (s : State) (n : CtxId) (c : Ctx) (fill : Nat),
    s.ctx n = some c ∧
    c.rebase = some fill ∧
    s.quiescent n c = true :=
  ⟨lit tile0 { ctx0 with onTiles := false, rebase := some 5 }, 0, { ctx0 with onTiles := false, rebase := some 5 }, 5, rfl, rfl, rfl⟩

theorem witness_RebaseKeepsCountersModulo_2 : ∃ (x : Tile) (e : MapEntry) (fill slot p : Nat),
    let y := x.rebase e fill slot

    let inside := e.ctrBase ≤ p ∧ p < e.ctrBase + e.ctrSize

    (entry0.ctrBase ≤ 7 ∧ 7 < entry0.ctrBase + entry0.ctrSize) ∧
    ({ sat := 1 } : Tile).sat.getLsbD 7 = false :=
  ⟨{ sat := 1 }, entry0, 5, 0, 7, by decide, rfl⟩

theorem witness_RebaseKeepsCountersModulo_2b : ∃ (x : Tile) (e : MapEntry) (fill slot p : Nat),
    let y := x.rebase e fill slot

    let inside := e.ctrBase ≤ p ∧ p < e.ctrBase + e.ctrSize

    (entry0.ctrBase ≤ 0 ∧ 0 < entry0.ctrBase + entry0.ctrSize) ∧
    ({ sat := 1 } : Tile).sat.getLsbD 0 = true :=
  ⟨{ sat := 1 }, entry0, 5, 0, 0, by decide, rfl⟩

theorem witness_RebaseKeepsCountersModulo_2c : ∃ (x : Tile) (e : MapEntry) (fill slot p : Nat),
    let y := x.rebase e fill slot

    let inside := e.ctrBase ≤ p ∧ p < e.ctrBase + e.ctrSize

    ¬ (entry0.ctrBase ≤ 8 ∧ 8 < entry0.ctrBase + entry0.ctrSize) :=
  ⟨{ sat := 1 }, entry0, 5, 0, 8, by decide⟩

/-- A tile whose instruction slice starts with a plan of one entry. -/
def planTile : Tile := { tile0 with store := [(0x700000, 1), (0x700002, 2), (0x70000C, 7), (0x700013, 7)] }
/-- A plan entry from its fields. -/
def pent (fs : List (Nat × Nat × Nat)) : BitVec 128 := BitVec.ofNat 128 ((fs.map (fun f => f.2.2 * 2 ^ (8 * f.1 + f.2.1))).sum)
/-- A SEND of one billet, a RECV of one billet, an END. -/
def sendEnt : PlanEnt := { raw := pent [(3, 0, 1), (6, 0, 1), (7, 0, 1)] }
def recvEnt : PlanEnt := { raw := pent [(3, 0, 2), (6, 0, 1), (7, 0, 1)] }
def endEnt : PlanEnt := { raw := pent [(3, 0, 7)] }
/-- A tile in its exchange phase with one entry read. -/
def exTile (e : PlanEnt) : Tile := { planTile with exch := { phase := 2, plan := some 0, entries := 2, read := 1, ents := [e] } }

theorem witness_PlanCommandsComplete_1 : ∃ (s : State) (t : TileId) (slot : Nat) (e : MapEntry) (pos : Nat),
    coreIssue s t freeCore = some (slot, e) ∧
    let h := imemBytes (s.tile t) e (16 * pos) 16

    let n := bytesAt h 0 2

    bytesAt h 3 9 = 0 ∧
    bytesAt h 14 2 = 0 ∧
    bytesAt h 12 2 ≠ 0xFFFF ∧
    0 < n ∧
    n ≤ 8191 ∧
    (∃ c, s.ctx e.ctx = some c ∧ c.table = bytesAt h 2 1) ∧
    16 * (pos + 1 + n) ≤ 1024 * e.imSize :=
  ⟨lit planTile ctx0, 0, 0, entry0, 0, rfl, rfl, rfl, by decide, by decide, by decide, ⟨ctx0, by decide⟩, by decide⟩

theorem witness_PlanCommandsComplete_2 : ∃ (s : State) (t : TileId) (slot : Nat) (e : MapEntry) (c : Ctx) (pos : Nat),
    exchCtx s t = some (slot, e, c) ∧
    (s.tile t).exch.plan = some pos ∧
    let n := (s.tile t).exch.read

    let p : PlanEnt := { idx := n, raw := BitVec.ofNat 128 (leNat (imemBytes (s.tile t) e (16 * (pos + 1 + n)) 16)) }

    (s.tile t).planTurn (s.tileCycle t) = true ∧
    pickCode (entryChecks s t e c (s.tile t).exch.ents.getLast? (s.tile t).exch.entries p) = none :=
  ⟨lit { planTile with exch := { phase := 2, plan := some 0, entries := 1 } } ctx0, 0, 0, entry0, ctx0, 0, rfl, rfl, rfl, rfl⟩

theorem witness_PlanCommandsComplete_3 : ∃ (s : State) (t : TileId) (n slot : Nat) (m : MapEntry) (c : Ctx) (e : PlanEnt),
    exchCtx s t = some (slot, m, c) ∧
    (s.tile t).ent n = some e ∧
    (s.tile t).exch.phase = 2 ∧
    e.sends = true ∧
    e.done = false ∧
    e.asked = 0 ∧
    (∀ f ∈ (s.tile t).exch.ents, f.idx < n → f.sends = true → f.asked = f.count) ∧
    e.cycle ≤ (s.tile t).exch.offset + 24 :=
  ⟨lit (exTile sendEnt) ctx0, 0, 0, 0, entry0, ctx0, sendEnt, rfl, rfl, rfl, rfl, rfl, rfl, by decide, by decide⟩

theorem witness_PlanCommandsComplete_4 : ∃ (s : State) (t : TileId) (slot : Nat) (m : MapEntry) (c : Ctx) (e : PlanEnt),
    exchCtx s t = some (slot, m, c) ∧
    (s.tile t).ent (s.tile t).exch.next = some e ∧
    (s.tile t).exch.phase = 2 ∧
    (s.tile t).exch.holding = none ∧
    e.cycle ≤ (s.tile t).exch.offset ∧
    let y := (s.tile t).modEnt e.idx (fun e => { e with due := true })

    endEnt.kind = 7 :=
  ⟨lit (exTile endEnt) ctx0, 0, 0, entry0, ctx0, endEnt, rfl, rfl, rfl, rfl, by decide, rfl⟩

theorem witness_PlanCommandsComplete_4b : ∃ (s : State) (t : TileId) (slot : Nat) (m : MapEntry) (c : Ctx) (e : PlanEnt),
    exchCtx s t = some (slot, m, c) ∧
    (s.tile t).ent (s.tile t).exch.next = some e ∧
    (s.tile t).exch.phase = 2 ∧
    (s.tile t).exch.holding = none ∧
    e.cycle ≤ (s.tile t).exch.offset ∧
    let y := (s.tile t).modEnt e.idx (fun e => { e with due := true })

    ({ raw := pent [(3, 0, 1)] } : PlanEnt).kind ≠ 7 ∧
    ({ raw := pent [(3, 0, 1)] } : PlanEnt).count = 0 :=
  ⟨lit (exTile { raw := pent [(3, 0, 1)] }) ctx0, 0, 0, entry0, ctx0, { raw := pent [(3, 0, 1)] }, rfl, rfl, rfl, rfl, by decide, by decide, rfl⟩

theorem witness_PlanCommandsComplete_4c : ∃ (s : State) (t : TileId) (slot : Nat) (m : MapEntry) (c : Ctx) (e : PlanEnt),
    exchCtx s t = some (slot, m, c) ∧
    (s.tile t).ent (s.tile t).exch.next = some e ∧
    (s.tile t).exch.phase = 2 ∧
    (s.tile t).exch.holding = none ∧
    e.cycle ≤ (s.tile t).exch.offset ∧
    let y := (s.tile t).modEnt e.idx (fun e => { e with due := true })

    sendEnt.count ≠ 0 ∧
    sendEnt.sends = true :=
  ⟨lit (exTile sendEnt) ctx0, 0, 0, entry0, ctx0, sendEnt, rfl, rfl, rfl, rfl, by decide, by decide, rfl⟩

theorem witness_PlanCommandsComplete_4d : ∃ (s : State) (t : TileId) (slot : Nat) (m : MapEntry) (c : Ctx) (e : PlanEnt),
    exchCtx s t = some (slot, m, c) ∧
    (s.tile t).ent (s.tile t).exch.next = some e ∧
    (s.tile t).exch.phase = 2 ∧
    (s.tile t).exch.holding = none ∧
    e.cycle ≤ (s.tile t).exch.offset ∧
    let y := (s.tile t).modEnt e.idx (fun e => { e with due := true })

    recvEnt.kind ≠ 7 ∧
    recvEnt.count ≠ 0 ∧
    recvEnt.sends = false :=
  ⟨lit (exTile { recvEnt with done := true }) ctx0, 0, 0, entry0, ctx0, { recvEnt with done := true }, rfl, rfl, rfl, rfl, by decide, by decide, by decide, rfl⟩

theorem witness_PlanCommandsComplete_4e : ∃ (s : State) (t : TileId) (slot : Nat) (m : MapEntry) (c : Ctx) (e : PlanEnt),
    exchCtx s t = some (slot, m, c) ∧
    (s.tile t).ent (s.tile t).exch.next = some e ∧
    (s.tile t).exch.phase = 2 ∧
    (s.tile t).exch.holding = none ∧
    e.cycle ≤ (s.tile t).exch.offset ∧
    let y := (s.tile t).modEnt e.idx (fun e => { e with due := true })

    recvEnt.kind ≠ 7 ∧
    recvEnt.count ≠ 0 ∧
    recvEnt.sends = false ∧
    recvEnt.done = false :=
  ⟨lit (exTile recvEnt) ctx0, 0, 0, entry0, ctx0, recvEnt, rfl, rfl, rfl, rfl, by decide, by decide, by decide, rfl, rfl⟩

theorem witness_PlanCommandsComplete_5 : ∃ (s : State) (t : TileId) (n slot : Nat) (m : MapEntry) (c : Ctx) (e : PlanEnt),
    exchRun s t = some (slot, m, c) ∧
    (s.tile t).ent n = some e ∧
    e.sends = true ∧
    e.due = true ∧
    e.done = false ∧
    e.left = e.count :=
  ⟨lit (exTile { sendEnt with due := true, asked := 1, sent := 8 }) ctx0, 0, 0, 0, entry0, ctx0, { sendEnt with due := true, asked := 1, sent := 8 }, rfl, rfl, rfl, rfl, rfl, rfl⟩

theorem witness_PlanCommandsComplete_6 : ∃ (s : State) (t : TileId) (n slot : Nat) (m : MapEntry) (c : Ctx) (e : PlanEnt),
    exchRun s t = some (slot, m, c) ∧
    (s.tile t).ent n = some e ∧
    e.recvs = true ∧
    e.done = false ∧
    0 < e.count ∧
    e.wrote = e.count :=
  ⟨lit (exTile { recvEnt with wrote := 1 }) ctx0, 0, 0, 0, entry0, ctx0, { recvEnt with wrote := 1 }, rfl, rfl, rfl, rfl, by decide, rfl⟩

/-- A flit of the exchange network at the west input of tile 0, for tile 1 and for tile 0. -/
def flit0 (d : Nat) : Flit := { dst := d, src := 0 }

theorem witness_FlitCommandsComplete_1 : ∃ (s : State) (t : TileId) (port : Fin 5) (i : Nat) (f : Flit),
    s.statues = false ∧
    portGrant s t port = some (i, f) ∧
    (port.val ≠ 4 ∨ f.loose = false) ∧
    (2 : Fin 5).val ≠ 4 ∧
    neighbour 0 2 ≠ 0 :=
  ⟨lit { tile0 with router := { bufs := [(12, [flit0 1])] } } ctx0, 0, 2, 3, flit0 1, rfl, rfl, by decide, by decide, by decide⟩

theorem witness_FlitCommandsComplete_1b : ∃ (s : State) (t : TileId) (port : Fin 5) (i : Nat) (f : Flit),
    s.statues = false ∧
    portGrant s t port = some (i, f) ∧
    (port.val ≠ 4 ∨ f.loose = false) ∧
    (4 : Fin 5).val = 4 ∧
    (flit0 0).vn = .s :=
  ⟨lit { tile0 with router := { bufs := [(12, [flit0 0])] } } ctx0, 0, 4, 3, flit0 0, rfl, rfl, by decide, rfl, rfl⟩

theorem witness_FlitCommandsComplete_1c : ∃ (s : State) (t : TileId) (port : Fin 5) (i : Nat) (f : Flit),
    s.statues = false ∧
    portGrant s t port = some (i, f) ∧
    (port.val ≠ 4 ∨ f.loose = false) ∧
    (4 : Fin 5).val = 4 ∧
    Vn.l ≠ .s :=
  ⟨lit { tile0 with router := { bufs := [(15, [{ flit0 0 with vn := .l, body := .rickHead 0 0 1 false }])] } } ctx0, 0, 4, 3, { flit0 0 with vn := .l, body := .rickHead 0 0 1 false }, rfl, rfl, by decide, rfl, by decide⟩

theorem witness_FlitCommandsComplete_2 : ∃ (s : State) (t : TileId) (slot : Nat) (m : MapEntry) (c : Ctx) (f : Flit) (r : List Flit),
    exchRun s t = some (slot, m, c) ∧
    (s.tile t).exch.deliver = f :: r ∧
    matchFlit { exTile recvEnt with exch := { (exTile recvEnt).exch with deliver := [flit0 0] } } ctx0 (flit0 0) = none :=
  ⟨lit { exTile recvEnt with exch := { (exTile recvEnt).exch with deliver := [flit0 0] } } ctx0, 0, 0, entry0, ctx0, flit0 0, [], rfl, rfl, rfl⟩

theorem witness_FlitCommandsComplete_2b : ∃ (s : State) (t : TileId) (slot : Nat) (m : MapEntry) (c : Ctx) (f : Flit) (r : List Flit),
    exchRun s t = some (slot, m, c) ∧
    (s.tile t).exch.deliver = f :: r ∧
    matchFlit { exTile recvEnt with exch := { (exTile recvEnt).exch with deliver := [{ flit0 0 with src := 1 }] } } ctx0 { flit0 0 with src := 1 } = some recvEnt :=
  ⟨lit { exTile recvEnt with exch := { (exTile recvEnt).exch with deliver := [{ flit0 0 with src := 1 }] } } ctx0, 0, 0, entry0, ctx0, { flit0 0 with src := 1 }, [], rfl, rfl, rfl⟩

theorem witness_FlitCommandsComplete_3 : ∃ (s : State) (t : TileId) (slot : Nat) (m : MapEntry) (c : Ctx),
    exchRun s t = some (slot, m, c) ∧
    (s.tile t).exch.deliver = [] :=
  ⟨lit tile0 ctx0, 0, 0, entry0, ctx0, rfl, rfl⟩

/-! ### DMA and HBM -/

/-- A command at the head of the DMA queue of tile 0. -/
def dq (fs : List (Nat × Nat × Nat)) : QEntry := { cmd := cmdOf fs }
def dmaS (q : QEntry) (cars : Sparse Carousel) : State := lit { tile0 with dmaQ := [q], cars := cars } ctx0
/-- A ring of three slots of one billet. -/
def ring0 : Carousel := { slots := 3, slotBillets := 1 }

theorem witness_DmaCommandsStart_1 : ∃ (s : State) (t : TileId) (q : QEntry) (e : MapEntry) (c : Ctx),
    (s.tile t).dmaQ.head? = some q ∧
    headEntry s t (some q) = .go q e c ∧
    dLength q.cmd = 0 ∧
    dOp (dq [(8, 0, 1)]).cmd = 1 :=
  ⟨dmaS (dq [(8, 0, 1)]) [], 0, dq [(8, 0, 1)], entry0, ctx0, rfl, rfl, rfl, rfl⟩

theorem witness_DmaCommandsStart_1b : ∃ (s : State) (t : TileId) (q : QEntry) (e : MapEntry) (c : Ctx),
    (s.tile t).dmaQ.head? = some q ∧
    headEntry s t (some q) = .go q e c ∧
    dLength q.cmd = 0 ∧
    dOp (dq [(8, 0, 2)]).cmd = 2 :=
  ⟨dmaS (dq [(8, 0, 2)]) [], 0, dq [(8, 0, 2)], entry0, ctx0, rfl, rfl, rfl, rfl⟩

theorem witness_DmaCommandsStart_1c : ∃ (s : State) (t : TileId) (q : QEntry) (e : MapEntry) (c : Ctx),
    (s.tile t).dmaQ.head? = some q ∧
    headEntry s t (some q) = .go q e c ∧
    dLength q.cmd = 0 ∧
    dOp (dq [(8, 0, 3)]).cmd = 3 :=
  ⟨dmaS (dq [(8, 0, 3)]) [], 0, dq [(8, 0, 3)], entry0, ctx0, rfl, rfl, rfl, rfl⟩

theorem witness_DmaCommandsStart_1d : ∃ (s : State) (t : TileId) (q : QEntry) (e : MapEntry) (c : Ctx),
    (s.tile t).dmaQ.head? = some q ∧
    headEntry s t (some q) = .go q e c ∧
    dLength q.cmd = 0 ∧
    dOp (dq [(8, 0, 4)]).cmd = 4 :=
  ⟨dmaS (dq [(8, 0, 4)]) [], 0, dq [(8, 0, 4)], entry0, ctx0, rfl, rfl, rfl, rfl⟩

theorem witness_DmaCommandsStart_1e : ∃ (s : State) (t : TileId) (q : QEntry) (e : MapEntry) (c : Ctx),
    (s.tile t).dmaQ.head? = some q ∧
    headEntry s t (some q) = .go q e c ∧
    dLength q.cmd = 0 ∧
    dOp (dq [(8, 0, 5)]).cmd = 5 :=
  ⟨dmaS (dq [(8, 0, 5)]) [], 0, dq [(8, 0, 5)], entry0, ctx0, rfl, rfl, rfl, rfl⟩

theorem witness_DmaCommandsStart_2 : ∃ (s : State) (t : TileId) (q : QEntry) (e : MapEntry) (c : Ctx) (st : StoreId) (i : Nat),
    (s.tile t).dmaQ.head? = some q ∧
    headEntry s t (some q) = .go q e c ∧
    dOp q.cmd = 1 ∧
    0 < dLength q.cmd ∧
    e.resolve (dStore q.cmd) (dLength q.cmd) = .ok (st, i) ∧
    hbmRefusal s q.ctx c q.cmd = none ∧
    (s.tile t).rangeUse st < 8 :=
  ⟨dmaS (dq [(8, 0, 1), (8, 12, 64)]) [], 0, dq [(8, 0, 1), (8, 12, 64)], entry0, ctx0, .woodpile, 0, rfl, rfl, rfl, by decide, rfl, rfl, by decide⟩

theorem witness_DmaCommandsStart_3 : ∃ (s : State) (t : TileId) (q : QEntry) (e : MapEntry) (c : Ctx) (st : StoreId) (i : Nat),
    (s.tile t).dmaQ.head? = some q ∧
    headEntry s t (some q) = .go q e c ∧
    dOp q.cmd = 2 ∧
    0 < dLength q.cmd ∧
    e.resolve (dStore q.cmd) (dLength q.cmd) = .ok (st, i) ∧
    hbmRefusal s q.ctx c q.cmd = none :=
  ⟨dmaS (dq [(8, 0, 2), (8, 12, 1), (18, 0, 0x803F)]) [], 0, dq [(8, 0, 2), (8, 12, 1), (18, 0, 0x803F)], entry0, ctx0, .ember, 71, rfl, rfl, rfl, by decide, rfl, rfl⟩

theorem witness_DmaCommandsStart_4 : ∃ (s : State) (t : TileId) (q : QEntry) (e : MapEntry) (c : Ctx) (y : Carousel),
    (s.tile t).dmaQ.head? = some q ∧
    headEntry s t (some q) = .go q e c ∧
    dOp q.cmd = 3 ∧
    0 < dLength q.cmd ∧
    (s.tile t).car (carKey q.slot (dCar q.cmd)) = some y ∧
    dLength q.cmd % y.slotBillets = 0 ∧
    (dTranspose q.cmd = true → y.slotBillets % blockBillets (dWidth q.cmd) = 0) ∧
    hbmRefusal s q.ctx c q.cmd = none ∧
    y.prod = none ∧
    (s.tile t).streams.length < 8 :=
  ⟨dmaS (dq [(8, 0, 3), (8, 12, 1)]) [(0, ring0)], 0, dq [(8, 0, 3), (8, 12, 1)], entry0, ctx0, ring0, rfl, rfl, rfl, by decide, rfl, rfl, (fun h => by revert h; decide), rfl, rfl, by decide⟩

theorem witness_DmaCommandsStart_5 : ∃ (s : State) (t : TileId) (q : QEntry) (e : MapEntry) (c : Ctx) (y iy : Carousel),
    (s.tile t).dmaQ.head? = some q ∧
    headEntry s t (some q) = .go q e c ∧
    dOp q.cmd = 4 ∧
    0 < dLength q.cmd ∧
    (s.tile t).car (carKey q.slot (dCar q.cmd)) = some y ∧
    (s.tile t).car (carKey q.slot (dIndexCar q.cmd)) = some iy ∧
    gatherRows y q.cmd ≠ 0 ∧
    iy.cons = none ∧
    y.prod = none ∧
    hbmRefusal s q.ctx c q.cmd = none ∧
    (s.tile t).streams.length < 8 ∧
    (∀ o ∈ (s.tile t).streams, dOp o.cmd ≠ 4) :=
  ⟨dmaS (dq [(8, 0, 4), (8, 12, 1), (20, 0, 8), (22, 0, 1), (26, 0, 1)]) [(0, ring0), (1, ring0)], 0, dq [(8, 0, 4), (8, 12, 1), (20, 0, 8), (22, 0, 1), (26, 0, 1)], entry0, ctx0, ring0, ring0, rfl, rfl, rfl, by decide, rfl, rfl, by decide, rfl, rfl, rfl, by decide, by decide⟩

theorem witness_DmaCommandsStart_6 : ∃ (s : State) (t : TileId) (q : QEntry) (e : MapEntry) (c : Ctx) (st : StoreId) (i : Nat) (y : Carousel),
    (s.tile t).dmaQ.head? = some q ∧
    headEntry s t (some q) = .go q e c ∧
    dOp q.cmd = 5 ∧
    0 < dLength q.cmd ∧
    e.resolve (dStore q.cmd) (dLength q.cmd) = .ok (st, i) ∧
    (s.tile t).car (carKey q.slot (dCar q.cmd)) = some y ∧
    y.cons = none ∧
    (s.tile t).rangeUse st < 8 :=
  ⟨dmaS (dq [(8, 0, 5), (8, 12, 1), (18, 0, 0x4000)]) [(0, ring0)], 0, dq [(8, 0, 5), (8, 12, 1), (18, 0, 0x4000)], entry0, ctx0, .tinder, 0, ring0, rfl, rfl, rfl, by decide, rfl, rfl, rfl, by decide⟩

theorem witness_DmaCommandsStart_7 : ∃ (s : State) (t : TileId) (q : QEntry) (e : MapEntry) (c : Ctx) (p : StoreId × Nat),
    (s.tile t).dmaQ.head? = some q ∧
    headEntry s t (some q) = .go q e c ∧
    dOp q.cmd = 6 ∧
    e.resolve (dStore q.cmd) (dSlots q.cmd * dSlotBillets q.cmd) = .ok p ∧
    (∀ y, (s.tile t).car (carKey q.slot (dCar q.cmd)) = some y → y.prod = none ∧ y.cons = none) :=
  ⟨dmaS (dq [(8, 0, 6), (20, 8, 3), (20, 0, 1)]) [], 0, dq [(8, 0, 6), (20, 8, 3), (20, 0, 1)], entry0, ctx0, (.woodpile, 0), rfl, rfl, rfl, rfl, (fun _ h => by cases h)⟩

theorem witness_DmaCommandsStart_8 : ∃ (s : State) (t : TileId) (q : QEntry) (e : MapEntry) (c : Ctx) (y : Carousel),
    (s.tile t).dmaQ.head? = some q ∧
    headEntry s t (some q) = .go q e c ∧
    dOp q.cmd = 7 ∧
    (s.tile t).car (carKey q.slot (dCar q.cmd)) = some y ∧
    ring0.prod = none :=
  ⟨dmaS (dq [(8, 0, 7)]) [(0, ring0)], 0, dq [(8, 0, 7)], entry0, ctx0, ring0, rfl, rfl, rfl, rfl, rfl⟩

theorem witness_DmaCommandsStart_8b : ∃ (s : State) (t : TileId) (q : QEntry) (e : MapEntry) (c : Ctx) (y : Carousel),
    (s.tile t).dmaQ.head? = some q ∧
    headEntry s t (some q) = .go q e c ∧
    dOp q.cmd = 7 ∧
    (s.tile t).car (carKey q.slot (dCar q.cmd)) = some y ∧
    ({ ring0 with prod := some 4 } : Carousel).prod = some 4 :=
  ⟨dmaS (dq [(8, 0, 7)]) [(0, { ring0 with prod := some 4 })], 0, dq [(8, 0, 7)], entry0, ctx0, { ring0 with prod := some 4 }, rfl, rfl, rfl, rfl, rfl⟩

/-- A write of one line on its way to stack 31. -/
def hbmW : HbmWrite := { addr := 31 * 4096, bytes := List.replicate 64 1, org := .dma 0 0 }

theorem witness_HbmWriteLands_1 : ∃ (s : State) (k : StackId) (w : HbmWrite),
    s.hbmQ.find? (fun w => s.stackOf w.addr = k && s.writeInOrder w) = some w ∧
    s.stackFenced k = false ∧
    (s.stack k).st = .active ∧
    s.bucketHeld w.addr w.bytes.length = false :=
  ⟨{ lit tile0 ctx0 with hbmQ := [hbmW], hbmStacks := [(31, { st := .active })] }, 31, hbmW, rfl, rfl, rfl, rfl⟩

theorem witness_HbmWriteLands_2 : ∃ (s : State) (k : StackId),
    (s.stack k).st = .waking ∧
    s.stackFenced k = false :=
  ⟨{ lit tile0 ctx0 with hbmStacks := [(0, { st := .waking })] }, 0, rfl, rfl⟩

/-- The small package with HBM stack 0 active. -/
def hbmLit (x : Tile) : State := { lit x ctx0 with hbmStacks := [(0, { st := .active })] }
def op0 (fs : List (Nat × Nat × Nat)) : DmaOp := { cmd := cmdOf fs }
def gatherOp : DmaOp := { op0 [(8, 0, 4), (8, 12, 1), (20, 0, 8), (22, 0, 1), (26, 0, 1)] with idxs := [0], asked := 1 }
def copyOp : DmaOp := { op0 [(8, 0, 1), (8, 12, 2)] with asked := 2 }
def streamOp : DmaOp := { op0 [(8, 0, 3), (8, 12, 1)] with asked := 1 }
def kslot0 : KSlot := { len := 8, addVal := 1 }
/-- The parameter of a kindling request of 8 bytes. -/
def kindlingTile : Tile := { tile0 with banks := [(0, { regs := [(2, dwOf [(25, 8)])] })] }

theorem witness_HbmDataReturns_1 : ∃ (s : State) (t : TileId) (id k : Nat) (o : DmaOp) (m : MapEntry),
    (s.tile t).op id = some o ∧
    o.host = false ∧
    o.faulted = false ∧
    (s.tile t).entry o.slot = some m ∧
    s.replays o.ctx = false ∧
    let a := (unitRange o k).1

    let n := (unitRange o k).2

    let got := captureStoked t o a (s.hbmRead a n) (countVn t o.ctx .p (linesOf a n) ((touchRange a n s).modTile t (·.count (some o.slot) 0x22 n)))

    let u := unitData t 0 o (s.hbmRead a n) got

    dOp copyOp.cmd = 1 ∧
    1 < copyOp.asked ∧
    (1 ∉ copyOp.got) ∧
    (hbmLit { tile0 with ops := [copyOp] }).hbmFenced a n = false ∧
    (hbmLit { tile0 with ops := [copyOp] }).hbmReadable a n = true :=
  ⟨hbmLit { tile0 with ops := [copyOp] }, 0, 0, 1, copyOp, entry0, rfl, rfl, rfl, rfl, rfl, rfl, by decide, by decide, rfl, rfl⟩

theorem witness_HbmDataReturns_2 : ∃ (s : State) (t : TileId) (id k : Nat) (o : DmaOp) (m : MapEntry) (y : Carousel),
    (s.tile t).op id = some o ∧
    o.host = false ∧
    o.faulted = false ∧
    (s.tile t).entry o.slot = some m ∧
    s.replays o.ctx = false ∧
    dOp o.cmd = 3 ∧
    (s.tile t).car (carKey o.slot (dCar o.cmd)) = some y ∧
    let j := o.issued / o.unit

    let a := (unitRange o j).1

    let n := (unitRange o j).2

    let got := captureStoked t o a (s.hbmRead a n) (countVn t o.ctx .p (linesOf a n) ((touchRange a n s).modTile t (·.count (some o.slot) 0x22 n)))

    let u := unitData t 1 o (s.hbmRead a n) got

    o.issued + o.unit ≤ o.unit * o.asked ∧
    s.hbmFenced a n = false ∧
    s.hbmReadable a n = true :=
  ⟨hbmLit { tile0 with ops := [streamOp], cars := [(0, ring0)] }, 0, 0, 0, streamOp, entry0, ring0, rfl, rfl, rfl, rfl, rfl, rfl, rfl, by decide, rfl, rfl⟩

theorem witness_HbmDataReturns_3 : ∃ (s : State) (t : TileId) (id k : Nat) (o : DmaOp) (m : MapEntry) (i : Word) (r : List Word),
    (s.tile t).op id = some o ∧
    o.host = false ∧
    o.faulted = false ∧
    (s.tile t).entry o.slot = some m ∧
    s.replays o.ctx = false ∧
    dOp o.cmd = 4 ∧
    o.idxs = i :: r ∧
    0 < o.asked ∧
    i ≠ 0xFFFFFFFF ∧
    let n := dRowUnits o.cmd * 64

    let a := dHbm o.cmd + i.toNat * n

    let got := captureStoked t o a (s.hbmRead a n) (countVn t o.ctx .p (linesOf a n) ((touchRange a n s).modTile t (·.count (some o.slot) 0x22 n)))

    s.hbmFenced a n = false ∧
    s.hbmReadable a n = true :=
  ⟨hbmLit { tile0 with ops := [gatherOp], cars := [(0, ring0), (1, ring0)] }, 0, 0, 0, gatherOp, entry0, 0, [], rfl, rfl, rfl, rfl, rfl, rfl, rfl, by decide, by decide, rfl, rfl⟩

theorem witness_HbmDataReturns_4 : ∃ (s : State) (t : TileId) (id k : Nat) (j : KSlot),
    (s.tile t).op id = none ∧
    (s.tile t).ksl.find? (fun j => j.id = id) = some j ∧
    j.put = false ∧
    j.sent = false ∧
    (s.tile t).kOlder j (fun j => if j.put then j.done else j.sent) = false ∧
    s.replays j.ctx = false ∧
    s.hbmFenced j.addr j.len = false ∧
    s.hbmReadable j.addr j.len = true :=
  ⟨hbmLit { tile0 with ksl := [kslot0] }, 0, 0, 0, kslot0, rfl, rfl, rfl, rfl, rfl, rfl, rfl, rfl⟩

theorem witness_HbmDataReturns_5 : ∃ (s : State) (t : TileId) (id : Nat) (o : DmaOp),
    (s.tile t).op id = some o ∧
    ({ op0 [(8, 0, 1), (8, 12, 1)] with written := 1 } : DmaOp).host = false ∧
    ({ op0 [(8, 0, 1), (8, 12, 1)] with written := 1 } : DmaOp).complete 0 tile0 = true :=
  ⟨lit { tile0 with ops := [{ op0 [(8, 0, 1), (8, 12, 1)] with written := 1 }] } ctx0, 0, 0, { op0 [(8, 0, 1), (8, 12, 1)] with written := 1 }, rfl, rfl, rfl⟩

theorem witness_HbmDataReturns_5b : ∃ (s : State) (t : TileId) (id : Nat) (o : DmaOp),
    (s.tile t).op id = some o ∧
    ({ host := true } : DmaOp).host = true ∧
    ({ host := true } : DmaOp).written = ({ host := true } : DmaOp).issued :=
  ⟨lit { tile0 with ops := [{ host := true }] } ctx0, 0, 0, { host := true }, rfl, rfl, rfl⟩

theorem witness_HbmDataReturns_6 : ∃ (s : State) (t : TileId) (slot : Nat) (e : MapEntry) (c : Ctx) (rs rt : Fin 32) (st : StoreId) (i : Nat),
    coreIssue s t (fun st => st = .none || st = .kindling) = some (slot, e) ∧
    s.ctx e.ctx = some c ∧
    let a := ((s.tile t).reg slot rs).toNat

    let p := (s.tile t).reg slot rt

    kindlingCheck s e c a p = none ∧
    kLength p ≠ 0 ∧
    s.hbmFenced a (kLength p) = false ∧
    (s.tile t).ksl.length < 16 ∧
    e.resolve (kBillet p) 1 = .ok (st, i) :=
  ⟨hbmLit kindlingTile, 0, 0, entry0, ctx0, 1, 2, .woodpile, 0, rfl, rfl, rfl, by decide, rfl, by decide, rfl⟩

theorem witness_HbmDataReturns_7 : ∃ (s : State) (t : TileId) (id : Nat) (k : KSlot),
    (s.tile t).ksl.find? (fun j => j.id = id) = some k ∧
    k.done = true ∧
    k.failed = false ∧
    (s.tile t).kOlder k (fun _ => false) = false :=
  ⟨lit { tile0 with ksl := [{ kslot0 with done := true, sent := true }] } ctx0, 0, 0, { kslot0 with done := true, sent := true }, rfl, rfl, rfl, rfl⟩

/-! ### Channels -/

/-- Tile 0 with a send endpoint 0 towards tile 1 and a message of LENGTH n in register 1. -/
def sendTile (n : Nat) : Tile :=
  { tile0 with
    banks := [(0, { regs := [(1, dwOf [(16, n)])] })]
    eps := [(0, { valid := true, peerTile := 1, peerRing := 2, free := 16 })] }
def msg0 : Msg := { lines := 1, len := 16 }
def recvEp (m : Msg) : Endpoint := { valid := true, recv := true, ringBillets := 2, free := 1, inbox := [m] }
def recvTile (m : Msg) : Tile := { tile0 with eps := [(0, recvEp m)] }
/-- The package after tile 0 took that flit. -/
def taken (x : Tile) (f : Flit) : State :=
  (lit x ctx0).modTile 0 (fun x => { x.countCtx f.ctx 0x29 1 with router := ({ (x.router.lose 0 4 f.vn) with rr := sset x.router.rr (bufKey 4 f.vn) 3 }).pop 3 f.vn })
/-- A flit of a channel at the west input of tile 0. -/
def looseTile (b : FlitBody) (x : Tile) : Tile := { x with router := { bufs := [(15, [{ vn := .l, src := 1, dst := 0, body := b }])] } }
def lineFlit : Flit := { vn := .l, src := 1, dst := 0, body := .line 0 0 true }
def creditFlit : Flit := { vn := .l, src := 1, dst := 0, body := .credit 0 1 }

theorem witness_ChannelSendCompletes_1 : ∃ (s : State) (t : TileId) (slot : Nat) (e : MapEntry) (rs rt : Fin 32) (st : StoreId) (i : Nat),
    coreIssue s t chStall =
      some (slot, e) ∧
    let x := s.tile t

    let p := x.reg slot rs

    let n := chEp p

    let k := x.ep n

    let l := msgLines (chLen p)

    let skip := k.skipLines l

    let user := bf (x.reg slot rt).toNat 0 32

    let s1 := if skip = 0 then s else sendSkip t e.ctx slot n k skip s

    pickCode (chChecks x slot e p) = none ∧
    chLen p ≠ 0 ∧
    s.replays e.ctx = false ∧
    sendRefusal s k.peerTile = none ∧
    x.msgUse < 4 ∧
    skip + l ≤ k.free ∧
    e.resolve (chSrc p) (ceilDiv (chLen p) 512) = .ok (st, i) ∧
    (skip ≠ 0 → ∀ m ∈ x.msgs, sendRefusal s m.peer = none) :=
  ⟨lit (sendTile 48) ctx0, 0, 0, entry0, 1, 0, .woodpile, 0, by decide, rfl, by decide, rfl, rfl, by decide, by decide, rfl, (fun h => absurd rfl h)⟩

theorem witness_ChannelSendCompletes_2 : ∃ (s : State) (t : TileId) (slot : Nat) (e : MapEntry) (rs rt : Fin 32) (ecc : Check),
    coreIssue s t chStall =
      some (slot, e) ∧
    let p := (s.tile t).reg slot rs

    pickCode (chChecks (s.tile t) slot e p) = none ∧
    chLen p = 0 :=
  ⟨lit { sendTile 0 with stall := .chSend 0 } ctx0, 0, 0, entry0, 1, 0, .clean, by decide, rfl, rfl⟩

theorem witness_ChannelSendCompletes_3 : ∃ (s : State) (t : TileId) (msg : Nat) (m : SendMsg),
    (s.tile t).msgs.find? (fun m => m.id = msg) = some m ∧
    s.tileLit t = true ∧
    m.lines ≤ m.sent ∧
    (∀ f ∈ (s.tile t).router.inj, f.src = t → f.body.ofMsg msg = false) :=
  ⟨lit { tile0 with msgs := [{ id := 3 }] } ctx0, 0, 3, { id := 3 }, rfl, rfl, by decide, by decide⟩

theorem witness_ChannelReceiveCompletes_1 : ∃ (s : State) (t : TileId) (f : Flit) (s1 : State) (n id : Nat) (last : Bool),
    s.statues = false ∧
    (∀ c, (s.tile t).runCtx = some c → s.replays c = false) ∧
    takeLoose t FlitBody.isLine .clean s = some (some f, s1) ∧
    f.body = .line n id last ∧
    ((lit (looseTile (.line 0 0 true) tile0) ctx0).tile 0).epEntry 0 true = none :=
  ⟨lit (looseTile (.line 0 0 true) tile0) ctx0, 0, lineFlit, taken (looseTile (.line 0 0 true) tile0) lineFlit, 0, 0, true, rfl, (fun c h => by cases h; rfl), rfl, rfl, rfl⟩

theorem witness_ChannelReceiveCompletes_1b : ∃ (s : State) (t : TileId) (f : Flit) (s1 : State) (n id : Nat) (last : Bool),
    s.statues = false ∧
    (∀ c, (s.tile t).runCtx = some c → s.replays c = false) ∧
    takeLoose t FlitBody.isLine .clean s = some (some f, s1) ∧
    f.body = .line n id last ∧
    ((lit (looseTile (.line 0 0 true) (recvTile msg0)) ctx0).tile 0).epEntry 0 true = some entry0 ∧
    ctx0.hasTile lineFlit.src = true :=
  ⟨lit (looseTile (.line 0 0 true) (recvTile msg0)) ctx0, 0, lineFlit, taken (looseTile (.line 0 0 true) (recvTile msg0)) lineFlit, 0, 0, true, rfl, (fun c h => by cases h; rfl), rfl, rfl, rfl, rfl⟩

theorem witness_ChannelReceiveCompletes_2 : ∃ (s : State) (t : TileId) (ep : Fin 32) (e : MapEntry) (m : Msg),
    let k := (s.tile t).ep ep

    (s.tile t).epEntry ep true = some e ∧
    k.inbox.find? (fun m => !m.skip && !m.delivered) = some m ∧
    m.left = 0 ∧
    (s.tile t).quiet (.chan ep) (.chan ep) = true :=
  ⟨lit (recvTile msg0) ctx0, 0, 0, entry0, msg0, rfl, rfl, rfl, rfl⟩

theorem witness_ChannelReceiveCompletes_3 : ∃ (s : State) (t : TileId) (slot : Nat) (e : MapEntry) (ep rd : Fin 32),
    coreIssue s t freeCore = some (slot, e) ∧
    ((s.tile t).ep ep).valid = true ∧
    ((s.tile t).ep ep).recv = true ∧
    ((s.tile t).ep ep).slot = slot ∧
    ((lit (recvTile { msg0 with delivered := true }) ctx0).tile 0).ep 0 = recvEp { msg0 with delivered := true } :=
  ⟨lit (recvTile { msg0 with delivered := true }) ctx0, 0, 0, entry0, 0, 5, rfl, rfl, rfl, rfl, rfl⟩

theorem witness_ChannelReceiveCompletes_3b : ∃ (s : State) (t : TileId) (slot : Nat) (e : MapEntry) (ep rd : Fin 32),
    coreIssue s t freeCore = some (slot, e) ∧
    ((s.tile t).ep ep).valid = true ∧
    ((s.tile t).ep ep).recv = true ∧
    ((s.tile t).ep ep).slot = slot ∧
    ((lit (recvTile msg0) ctx0).tile 0).ep 0 = recvEp msg0 :=
  ⟨lit (recvTile msg0) ctx0, 0, 0, entry0, 0, 5, rfl, rfl, rfl, rfl, rfl⟩

theorem witness_ChannelReceiveCompletes_4 : ∃ (s : State) (t : TileId) (slot : Nat) (e : MapEntry) (ep : Fin 32) (m : Msg) (r : List Msg),
    coreIssue s t freeCore = some (slot, e) ∧
    ((s.tile t).ep ep).valid = true ∧
    ((s.tile t).ep ep).recv = true ∧
    ((s.tile t).ep ep).slot = slot ∧
    ((s.tile t).ep ep).inbox = m :: r ∧
    m.delivered = true :=
  ⟨lit (recvTile { msg0 with delivered := true }) ctx0, 0, 0, entry0, 0, { msg0 with delivered := true }, [], rfl, rfl, rfl, rfl, rfl, rfl⟩

theorem witness_ChannelReceiveCompletes_5 : ∃ (s : State) (t : TileId) (f : Flit) (s1 : State) (n lines : Nat) (e : MapEntry),
    s.statues = false ∧
    takeLoose t FlitBody.isCredit .clean s = some (some f, s1) ∧
    f.body = .credit n lines ∧
    (s.tile t).epEntry n false = some e :=
  ⟨lit (looseTile (.credit 0 1) (sendTile 0)) ctx0, 0, creditFlit, taken (looseTile (.credit 0 1) (sendTile 0)) creditFlit, 0, 1, entry0, rfl, rfl, rfl, rfl⟩

/-! ### Vector and matrix engines -/

/-- Tile 0 with a command at the head of a queue. -/
def vecS (q : QEntry) : State := lit { tile0 with vecQ := [q] } ctx0
def matS (q : QEntry) (m : MatrixSt) : State := lit { tile0 with matQ := [q], matrix := m } ctx0
/-- An ADD of one billet, a CVT_NARROW of none. -/
def addQ : QEntry := { cmd := cmdOf [(8, 0, 1), (12, 0, 1)] }
def narrowQ : QEntry := { cmd := cmdOf [(8, 0, 0x21)] }

theorem witness_VectorCommandsComplete_1 : ∃ (s : State) (t : TileId) (q : QEntry) (e : MapEntry) (c : Ctx) (p : Instr × Nat),
    p ∈ vectorCommands t .clean ∧
    (s.tile t).vecQ.head? = some q ∧
    q.done = false ∧
    vOp q.cmd = p.2 ∧
    headEntry s t (some q) = .go q e c ∧
    vCount narrowQ.cmd = 0 :=
  ⟨vecS narrowQ, 0, narrowQ, entry0, ctx0, (.cvtNarrow 0 .clean, 0x21), by simp [vectorCommands], rfl, rfl, rfl, rfl, rfl⟩

theorem witness_VectorCommandsComplete_1b : ∃ (s : State) (t : TileId) (q : QEntry) (e : MapEntry) (c : Ctx) (p : Instr × Nat),
    p ∈ vectorCommands t .clean ∧
    (s.tile t).vecQ.head? = some q ∧
    q.done = false ∧
    vOp q.cmd = p.2 ∧
    headEntry s t (some q) = .go q e c ∧
    addQ.started = false ∧
    vCount addQ.cmd ≠ 0 ∧
    vecRefusal entry0 addQ.cmd = none :=
  ⟨vecS addQ, 0, addQ, entry0, ctx0, (.add 0 .clean, 0x01), by simp [vectorCommands], rfl, rfl, rfl, rfl, rfl, by decide, rfl⟩

theorem witness_VectorCommandsComplete_1c : ∃ (s : State) (t : TileId) (q : QEntry) (e : MapEntry) (c : Ctx) (p : Instr × Nat),
    p ∈ vectorCommands t .clean ∧
    (s.tile t).vecQ.head? = some q ∧
    q.done = false ∧
    vOp q.cmd = p.2 ∧
    headEntry s t (some q) = .go q e c ∧
    ({ addQ with started := true } : QEntry).started = true ∧
    0 < vCount addQ.cmd ∧
    ((vecS { addQ with started := true }).tile 0).reqs = [] :=
  ⟨vecS { addQ with started := true }, 0, { addQ with started := true }, entry0, ctx0, (.add 0 .clean, 0x01), by simp [vectorCommands], rfl, rfl, rfl, rfl, rfl, by decide, rfl⟩

theorem witness_VectorCommandsComplete_1d : ∃ (s : State) (t : TileId) (q : QEntry) (e : MapEntry) (c : Ctx) (p : Instr × Nat),
    p ∈ vectorCommands t .clean ∧
    (s.tile t).vecQ.head? = some q ∧
    q.done = false ∧
    vOp q.cmd = p.2 ∧
    headEntry s t (some q) = .go q e c ∧
    ({ addQ with started := true } : QEntry).started = true ∧
    vCount addQ.cmd ≤ 1 ∧
    ((vecS { addQ with started := true, kDone := 1 }).tile 0).noneAsked (·.isVecSrc) = true :=
  ⟨vecS { addQ with started := true, kDone := 1 }, 0, { addQ with started := true, kDone := 1 }, entry0, ctx0, (.add 0 .clean, 0x01), by simp [vectorCommands], rfl, rfl, rfl, rfl, rfl, by decide, rfl⟩

theorem witness_VectorCommandsComplete_2 : ∃ (s : State) (t : TileId) (q : QEntry) (r : List QEntry),
    (s.tile t).vecQ = q :: r ∧
    s.tileLit t = true ∧
    q.done = true ∧
    (q.faulted = true ∨ (s.tile t).quiet .vector .cvtTail = true) :=
  ⟨vecS { addQ with done := true }, 0, { addQ with done := true }, [], rfl, rfl, rfl, .inr rfl⟩

theorem witness_VectorArithmeticRules_5 : ∃ (ty x : Nat) (a b c a' b' c' : Fp),
    x < 2 ^ ((typeFmt ty).eb + (typeFmt ty).mb + 1) :=
  ⟨0, 2 ^ 32 - 1, .nan, .nan, .nan, .nan, .nan, .nan, by decide⟩

theorem witness_VectorArithmeticRules_2 : ∃ (ty x : Nat) (a b c : Fp),
    (Fp.nan = .nan ∨ Fp.inf true = .nan) :=
  ⟨0, 0, .nan, .inf true, .nan, .inl rfl⟩

theorem witness_FunctionSpecialCases_1 : ∃ v ∈ [0x10, 0x11, 0x12, 0x13, 0x14, 0x15, 0x16, 0x17, 0x18, 0x19], ∃ x, v = 0x19 ∧ fp32.decode x = .nan :=
  ⟨0x19, by decide, 0xFFFFFFFF, rfl, rfl⟩

theorem witness_FunctionSpecialCases_4 : ∃ v ∈ [0x11, 0x12, 0x16, 0x17], ∃ x m e, v = 0x11 ∧ fp32.decode x = .fin true m e ∧ m ≠ 0 :=
  ⟨0x11, by decide, 0x80000001, 1, -149, rfl, rfl, by decide⟩

theorem present_clear : ({} : LimbVal).present = [] := by decide +kernel
theorem field_clear : natLe 2 ({} : LimbVal).field = List.replicate 2 0 := by decide +kernel
theorem spillImage_clear : spillImage (List.replicate 4096 {}) = (0, (List.range 16).map (fun b => (640 + b, List.replicate 512 0))) := by
  have e1 : ∀ n, (List.replicate n ({} : LimbVal)).flatMap (·.present) = [] := fun n => by
    rw [List.flatMap_replicate, present_clear]; simp
  have e2 : (List.replicate 4096 ({} : LimbVal)).flatMap (fun v => natLe 2 v.field) = List.replicate 8192 0 := by
    rw [List.flatMap_replicate, field_clear, List.flatten_replicate_replicate]
  simp only [spillImage, e1, e2, List.length_nil, List.drop_replicate, List.take_replicate]
  simp only [Prod.mk.injEq]
  refine ⟨rfl, ?_⟩
  show [] ++ _ = _
  rw [List.nil_append]
  refine List.map_congr_left fun b hb => ?_
  have := List.mem_range.1 hb
  rw [show min 512 (8192 - 512 * b) = 512 by omega]
/-- A spill region of no limb reads as a tile of zeros. -/
theorem readSpill_clear : ∃ vs, readSpill (fun _ => []) = some (0, vs) := by
  have h : (readSpill (fun _ => [])).map (·.1) = some 0 := by decide +kernel
  obtain ⟨v, hv, h0⟩ := Option.map_eq_some_iff.1 h
  exact ⟨v.2, by rw [hv, ← h0]⟩

/-- An ACCUMULATE and an ACCUMULATE_DRAIN of no K-steps, and of two. -/
def accQ (op k : Nat) : QEntry := { cmd := cmdOf [(8, 0, op), (8, 3, 1), (12, 0, k), (16, 0, 8)] }
/-- The context with an Ember slice that holds a spill region. -/
def bigEntry : MapEntry := { entry0 with emSize := 1000 }
def bigS (q : QEntry) (m : MatrixSt) : State := lit { tile0 with map := [(0, bigEntry)], matQ := [q], matrix := m } ctx0
def spillQ (op : Nat) : QEntry := { cmd := cmdOf [(8, 0, op), (22, 0, 0x8000)] }

/-- A command that has the array, with what its feeders hold. -/
def onArray (q : QEntry) : QEntry := { q with started := true }
def fedS (q : QEntry) (m : MatrixSt) (fed : List (ReqDst × List Byte)) : State := lit { tile0 with map := [(0, bigEntry)], matQ := [onArray q], matrix := m, arrived := fed } ctx0
def fed0 : List (ReqDst × List Byte) := [(.feed 0 0 0, []), (.feed 0 1 0, [])]
/-- A RESUME that has read its cell fields, which are all zero. -/
def resumeQ : QEntry := { spillQ 5 with kDone := 1 }

theorem witness_MatrixCommandsComplete_1 : ∃ (s : State) (t : TileId) (q : QEntry) (e : MapEntry) (c : Ctx) (pre : List QEntry) (p : Instr × Nat),
    p ∈ [(.accumulate t .clean, 1), (.drain ⟨t, .clean⟩, 2), (.accumulateDrain t .clean, 3), (.spill ⟨t, .clean⟩, 4), (.resume t .clean, 5), (.discard ⟨t, .clean⟩, 6)] ∧
    (s.tile t).matStart = some (q, pre) ∧
    mOp q.cmd = p.2 ∧
    mayStart q pre = true ∧
    headEntry s t (some q) = .go q e c ∧
    startRefusal (s.tile t) e q ((s.tile t).openAfter pre) = none :=
  ⟨matS (accQ 1 0) {}, 0, accQ 1 0, entry0, ctx0, [], (.accumulate 0 .clean, 1), by simp, rfl, rfl, rfl, rfl, rfl⟩

theorem witness_MatrixCommandsComplete_1b : ∃ (s : State) (t : TileId) (q : QEntry) (e : MapEntry) (c : Ctx) (pre : List QEntry) (p : Instr × Nat),
    p ∈ [(.accumulate t .clean, 1), (.drain ⟨t, .clean⟩, 2), (.accumulateDrain t .clean, 3), (.spill ⟨t, .clean⟩, 4), (.resume t .clean, 5), (.discard ⟨t, .clean⟩, 6)] ∧
    (s.tile t).matStart = some (q, pre) ∧
    mOp q.cmd = p.2 ∧
    mayStart q pre = true ∧
    headEntry s t (some q) = .go q e c ∧
    startRefusal (s.tile t) e q ((s.tile t).openAfter pre) = none :=
  ⟨matS (accQ 3 2) {}, 0, accQ 3 2, entry0, ctx0, [], (.accumulateDrain 0 .clean, 3), by simp, rfl, rfl, rfl, rfl, rfl⟩

theorem witness_MatrixCommandsComplete_1c : ∃ (s : State) (t : TileId) (q : QEntry) (e : MapEntry) (c : Ctx) (pre : List QEntry) (p : Instr × Nat),
    p ∈ [(.accumulate t .clean, 1), (.drain ⟨t, .clean⟩, 2), (.accumulateDrain t .clean, 3), (.spill ⟨t, .clean⟩, 4), (.resume t .clean, 5), (.discard ⟨t, .clean⟩, 6)] ∧
    (s.tile t).matStart = some (q, pre) ∧
    mOp q.cmd = p.2 ∧
    mayStart q pre = true ∧
    headEntry s t (some q) = .go q e c ∧
    startRefusal (s.tile t) e q ((s.tile t).openAfter pre) = none :=
  ⟨matS (spillQ 2) { isOpen := true }, 0, spillQ 2, entry0, ctx0, [], (.drain ⟨0, .clean⟩, 2), by simp, rfl, rfl, rfl, rfl, rfl⟩

theorem witness_MatrixCommandsComplete_1d : ∃ (s : State) (t : TileId) (q : QEntry) (e : MapEntry) (c : Ctx) (pre : List QEntry) (p : Instr × Nat),
    p ∈ [(.accumulate t .clean, 1), (.drain ⟨t, .clean⟩, 2), (.accumulateDrain t .clean, 3), (.spill ⟨t, .clean⟩, 4), (.resume t .clean, 5), (.discard ⟨t, .clean⟩, 6)] ∧
    (s.tile t).matStart = some (q, pre) ∧
    mOp q.cmd = p.2 ∧
    mayStart q pre = true ∧
    headEntry s t (some q) = .go q e c ∧
    startRefusal (s.tile t) e q ((s.tile t).openAfter pre) = none :=
  ⟨bigS (spillQ 4) { isOpen := true }, 0, spillQ 4, bigEntry, ctx0, [], (.spill ⟨0, .clean⟩, 4), by simp, rfl, rfl, rfl, rfl, rfl⟩

theorem witness_MatrixCommandsComplete_1e : ∃ (s : State) (t : TileId) (q : QEntry) (e : MapEntry) (c : Ctx) (pre : List QEntry) (p : Instr × Nat),
    p ∈ [(.accumulate t .clean, 1), (.drain ⟨t, .clean⟩, 2), (.accumulateDrain t .clean, 3), (.spill ⟨t, .clean⟩, 4), (.resume t .clean, 5), (.discard ⟨t, .clean⟩, 6)] ∧
    (s.tile t).matStart = some (q, pre) ∧
    mOp q.cmd = p.2 ∧
    mayStart q pre = true ∧
    headEntry s t (some q) = .go q e c ∧
    startRefusal (s.tile t) e q ((s.tile t).openAfter pre) = none :=
  ⟨bigS (spillQ 5) {}, 0, spillQ 5, bigEntry, ctx0, [], (.resume 0 .clean, 5), by simp, rfl, rfl, rfl, rfl, rfl⟩

theorem witness_MatrixCommandsComplete_1f : ∃ (s : State) (t : TileId) (q : QEntry) (e : MapEntry) (c : Ctx) (pre : List QEntry) (p : Instr × Nat),
    p ∈ [(.accumulate t .clean, 1), (.drain ⟨t, .clean⟩, 2), (.accumulateDrain t .clean, 3), (.spill ⟨t, .clean⟩, 4), (.resume t .clean, 5), (.discard ⟨t, .clean⟩, 6)] ∧
    (s.tile t).matStart = some (q, pre) ∧
    mOp q.cmd = p.2 ∧
    mayStart q pre = true ∧
    headEntry s t (some q) = .go q e c ∧
    startRefusal (s.tile t) e q ((s.tile t).openAfter pre) = none :=
  ⟨matS (spillQ 6) { isOpen := true }, 0, spillQ 6, entry0, ctx0, [], (.discard ⟨0, .clean⟩, 6), by simp, rfl, rfl, rfl, rfl, rfl⟩

theorem witness_MatrixCommandsComplete_2 : ∃ (s : State) (t : TileId) (q : QEntry) (e : MapEntry) (c : Ctx),
    (s.tile t).matNext = some q ∧
    q.started = true ∧
    headEntry s t (some q) = .go q e c ∧
    (∀ n pre, (s.tile t).matStart = some (n, pre) → mOp n.cmd ≠ mOp q.cmd ∨ mayStart n pre = false) ∧
    let x := s.tile t

    let n := x.readySteps q

    let u := s.setTile t (x.applyKSteps q n)

    ((fedS (accQ 1 2) { isOpen := true } fed0).tile 0).matrix.isOpen = true ∧
    0 < ((fedS (accQ 1 2) { isOpen := true } fed0).tile 0).readySteps (onArray (accQ 1 2)) ∧
    mOp (onArray (accQ 1 2)).cmd = 1 ∧
    mK (accQ 1 2).cmd ≤ 0 + (((fedS (accQ 1 2) { isOpen := true } fed0).tile 0).readySteps (onArray (accQ 1 2))) :=
  ⟨fedS (accQ 1 2) { isOpen := true } fed0, 0, onArray (accQ 1 2), bigEntry, ctx0, rfl, rfl, rfl, (fun n pre h => by cases h), rfl, by decide, rfl, by decide⟩

theorem witness_MatrixCommandsComplete_2b : ∃ (s : State) (t : TileId) (q : QEntry) (e : MapEntry) (c : Ctx),
    (s.tile t).matNext = some q ∧
    q.started = true ∧
    headEntry s t (some q) = .go q e c ∧
    (∀ n pre, (s.tile t).matStart = some (n, pre) → mOp n.cmd ≠ mOp q.cmd ∨ mayStart n pre = false) ∧
    let x := s.tile t

    let n := x.readySteps q

    let u := s.setTile t (x.applyKSteps q n)

    ((fedS (accQ 3 2) { isOpen := true } fed0).tile 0).matrix.isOpen = true ∧
    0 < ((fedS (accQ 3 2) { isOpen := true } fed0).tile 0).readySteps (onArray (accQ 3 2)) ∧
    mOp (onArray (accQ 3 2)).cmd = 3 ∧
    mK (accQ 3 2).cmd ≤ 0 + (((fedS (accQ 3 2) { isOpen := true } fed0).tile 0).readySteps (onArray (accQ 3 2))) :=
  ⟨fedS (accQ 3 2) { isOpen := true } fed0, 0, onArray (accQ 3 2), bigEntry, ctx0, rfl, rfl, rfl, (fun n pre h => by cases h), rfl, by decide, rfl, by decide⟩

theorem witness_MatrixCommandsComplete_2c : ∃ (s : State) (t : TileId) (q : QEntry) (e : MapEntry) (c : Ctx),
    (s.tile t).matNext = some q ∧
    q.started = true ∧
    headEntry s t (some q) = .go q e c ∧
    (∀ n pre, (s.tile t).matStart = some (n, pre) → mOp n.cmd ≠ mOp q.cmd ∨ mayStart n pre = false) ∧
    let x := s.tile t

    let n := x.readySteps q

    let u := s.setTile t (x.applyKSteps q n)

    ((fedS (accQ 1 100) { isOpen := true } fed0).tile 0).matrix.isOpen = true ∧
    0 < ((fedS (accQ 1 100) { isOpen := true } fed0).tile 0).readySteps (onArray (accQ 1 100)) ∧
    mOp (onArray (accQ 1 100)).cmd = 1 ∧
    0 + (((fedS (accQ 1 100) { isOpen := true } fed0).tile 0).readySteps (onArray (accQ 1 100))) < mK (accQ 1 100).cmd :=
  ⟨fedS (accQ 1 100) { isOpen := true } fed0, 0, onArray (accQ 1 100), bigEntry, ctx0, rfl, rfl, rfl, (fun n pre h => by cases h), rfl, by decide, rfl, by decide⟩

theorem witness_MatrixCommandsComplete_2d : ∃ (s : State) (t : TileId) (q : QEntry) (e : MapEntry) (c : Ctx),
    (s.tile t).matNext = some q ∧
    q.started = true ∧
    headEntry s t (some q) = .go q e c ∧
    (∀ n pre, (s.tile t).matStart = some (n, pre) → mOp n.cmd ≠ mOp q.cmd ∨ mayStart n pre = false) ∧
    let x := s.tile t

    let n := x.readySteps q

    let u := s.setTile t (x.applyKSteps q n)

    ((fedS (accQ 3 100) { isOpen := true } fed0).tile 0).matrix.isOpen = true ∧
    0 < ((fedS (accQ 3 100) { isOpen := true } fed0).tile 0).readySteps (onArray (accQ 3 100)) ∧
    mOp (onArray (accQ 3 100)).cmd = 3 ∧
    0 + (((fedS (accQ 3 100) { isOpen := true } fed0).tile 0).readySteps (onArray (accQ 3 100))) < mK (accQ 3 100).cmd :=
  ⟨fedS (accQ 3 100) { isOpen := true } fed0, 0, onArray (accQ 3 100), bigEntry, ctx0, rfl, rfl, rfl, (fun n pre h => by cases h), rfl, by decide, rfl, by decide⟩

theorem witness_MatrixCommandsComplete_2e : ∃ (s : State) (t : TileId) (q : QEntry) (e : MapEntry) (c : Ctx),
    (s.tile t).matNext = some q ∧
    q.started = true ∧
    headEntry s t (some q) = .go q e c ∧
    (∀ n pre, (s.tile t).matStart = some (n, pre) → mOp n.cmd ≠ mOp q.cmd ∨ mayStart n pre = false) ∧
    let x := s.tile t

    let n := x.readySteps q

    let u := s.setTile t (x.applyKSteps q n)

    mOp (onArray (spillQ 2)).cmd = 2 :=
  ⟨fedS (spillQ 2) { isOpen := true } [], 0, onArray (spillQ 2), bigEntry, ctx0, rfl, rfl, rfl, (fun n pre h => by cases h), rfl⟩

theorem witness_MatrixCommandsComplete_2f : ∃ (s : State) (t : TileId) (q : QEntry) (e : MapEntry) (c : Ctx),
    (s.tile t).matNext = some q ∧
    q.started = true ∧
    headEntry s t (some q) = .go q e c ∧
    (∀ n pre, (s.tile t).matStart = some (n, pre) → mOp n.cmd ≠ mOp q.cmd ∨ mayStart n pre = false) ∧
    let x := s.tile t

    let n := x.readySteps q

    let u := s.setTile t (x.applyKSteps q n)

    mOp (onArray (spillQ 4)).cmd = 4 ∧
    bigEntry.resolve (mDest (spillQ 4).cmd) 656 = .ok (.ember, 8) :=
  ⟨fedS (spillQ 4) { isOpen := true } [], 0, onArray (spillQ 4), bigEntry, ctx0, rfl, rfl, rfl, (fun n pre h => by cases h), rfl, rfl⟩

theorem witness_MatrixCommandsComplete_2g : ∃ (s : State) (t : TileId) (q : QEntry) (e : MapEntry) (c : Ctx),
    (s.tile t).matNext = some q ∧
    q.started = true ∧
    headEntry s t (some q) = .go q e c ∧
    (∀ n pre, (s.tile t).matStart = some (n, pre) → mOp n.cmd ≠ mOp q.cmd ∨ mayStart n pre = false) ∧
    let x := s.tile t

    let n := x.readySteps q

    let u := s.setTile t (x.applyKSteps q n)

    mOp (onArray (spillQ 6)).cmd = 6 :=
  ⟨fedS (spillQ 6) { isOpen := true } [], 0, onArray (spillQ 6), bigEntry, ctx0, rfl, rfl, rfl, (fun n pre h => by cases h), rfl⟩

theorem witness_MatrixCommandsComplete_2h : ∃ (s : State) (t : TileId) (q : QEntry) (e : MapEntry) (c : Ctx),
    (s.tile t).matNext = some q ∧
    q.started = true ∧
    headEntry s t (some q) = .go q e c ∧
    (∀ n pre, (s.tile t).matStart = some (n, pre) → mOp n.cmd ≠ mOp q.cmd ∨ mayStart n pre = false) ∧
    let x := s.tile t

    let n := x.readySteps q

    let u := s.setTile t (x.applyKSteps q n)

    mOp resumeQ.cmd = 5 ∧
    resumeQ.kDone = 0 + 1 ∧
    (∃ vs, readSpill (((fedS resumeQ {} []).tile 0).resumeBillet 0) = some (0, vs)) :=
  ⟨fedS resumeQ {} [], 0, onArray resumeQ, bigEntry, ctx0, rfl, rfl, rfl, (fun n pre h => by cases h), rfl, rfl, readSpill_clear⟩

theorem witness_MatrixCommandsComplete_3 : ∃ (s : State) (t : TileId) (q : QEntry),
    (s.tile t).matQ.find? (fun q => q.done && (q.faulted || !(s.tile t).matBusy q)) = some q ∧
    s.tileLit t = true :=
  ⟨matS { accQ 1 2 with done := true } {}, 0, { accQ 1 2 with done := true }, rfl, rfl⟩

theorem witness_DrainWritesAndCloses_1 : ∃ (s : State) (t : Nat) (q : QEntry) (e : MapEntry) (c : Ctx) (st : StoreId) (i : Nat),
    mRick q.cmd = false ∧
    outMx (mOut q.cmd) = false ∧
    e.resolve (mDest q.cmd) (outBillets (mOut q.cmd)) = .ok (st, i) :=
  ⟨matS (spillQ 2) { isOpen := true }, 0, spillQ 2, entry0, ctx0, .ember, 8, rfl, rfl, rfl⟩

theorem witness_DrainWritesAndCloses_2 : ∃ (s : State) (t : Nat) (q : QEntry) (e : MapEntry) (c : Ctx),
    outMx (mOut q.cmd) = false ∧
    (s.tile t).matrix.draining = true ∧
    (s.tile t).matrix.drainRow = 64 ∧
    (s.tile t).matrix.owner = some q.id :=
  ⟨lit { tile0 with matQ := [onArray (spillQ 2)], matrix := { isOpen := true, draining := true, drainRow := 64, owner := some 0 } } ctx0, 0, onArray (spillQ 2), entry0, ctx0, rfl, rfl, rfl, rfl⟩

theorem witness_ZeroProductsAddNothing_1 : ∃ (c : Cell) (wide n1 n2 : Bool) (m1 m2 : Nat) (e1 e2 : Int),
    (m1 = 0 ∨ m2 = 0) :=
  ⟨{}, false, true, false, 0, 255, 0, 9, .inl rfl⟩

theorem witness_ZeroProductsAddNothing_2 : ∃ (c : Cell),
    c.resolved = 0 ∧
    c.nan = false ∧
    c.posInf = false ∧
    c.negInf = false ∧
    c.overflow = false :=
  ⟨{}, rfl, rfl, rfl, rfl, rfl⟩

theorem witness_SpillRoundTrip_2 : ∃ (rd : Nat → List Byte) (vs : List LimbVal),
    vs.length = 4096 ∧
    (∀ p ∈ (spillImage vs).2, rd p.1 = p.2) :=
  ⟨fun _ => List.replicate 512 0, List.replicate 4096 {}, List.length_replicate, by
    rw [spillImage_clear]; intro p hp; obtain ⟨b, _, rfl⟩ := List.mem_map.1 hp; rfl⟩

/-! ### Combining queues -/

def rickS (q : QEntry) (k : RickSt) : State := lit { tile0 with rickQ := [q], rick := k } ctx0
def rq (fs : List (Nat × Nat × Nat)) : QEntry := { cmd := cmdOf fs }
/-- Stream 0 of the context: forwarding, and local with 64 elements. -/
def fwdStream : RickStream := { defined := true, forward := true, peerTile := 1, pitch := 1 }
def locStream : RickStream := { defined := true, elements := 64, base := 8, segGap := 1, sideBase := 12, sideEntries := 4 }
/-- A FINISH of DEST_KIND d and OUT o. -/
def finQ (d o : Nat) : QEntry := rq [(8, 0, 3), (9, 2, d), (9, 4, o), (14, 0, 0x8000)]
def finS (d o : Nat) : State := rickS (finQ d o) { streams := [(0, locStream)] }

/-- The rick command q once started, and one that has asked for n groups of billets. -/
def begun (q : QEntry) (n : Nat) : QEntry := { q with started := true, kDone := n }
/-- The first source billet of a CONTRIBUTE has arrived. -/
def srcS (q : QEntry) : State := lit { tile0 with rickQ := [q], rick := { streams := [(0, { locStream with elements := 128 })] }, arrived := [(.rickSrc 0, [])] } ctx0

theorem witness_RickCommandsComplete_1 : ∃ (s : State) (t : TileId) (q : QEntry) (e : MapEntry) (c : Ctx),
    (s.tile t).rickQ.head? = some q ∧
    q.done = false ∧
    headEntry s t (some q) = .go q e c ∧
    let n := rStream q.cmd

    let x := s.tile t

    let k := x.stream n

    rOp (rq [(8, 0, 1), (8, 5, 1)]).cmd = 1 ∧
    rForward (rq [(8, 0, 1), (8, 5, 1)]).cmd = true ∧
    ((rickS (rq [(8, 0, 1), (8, 5, 1)]) {}).tile 0 |>.stream 0).defined = false :=
  ⟨rickS (rq [(8, 0, 1), (8, 5, 1)]) {}, 0, rq [(8, 0, 1), (8, 5, 1)], entry0, ctx0, rfl, rfl, rfl, rfl, rfl, rfl⟩

theorem witness_RickCommandsComplete_1b : ∃ (s : State) (t : TileId) (q : QEntry) (e : MapEntry) (c : Ctx),
    (s.tile t).rickQ.head? = some q ∧
    q.done = false ∧
    headEntry s t (some q) = .go q e c ∧
    let n := rStream q.cmd

    let x := s.tile t

    let k := x.stream n

    rOp (rq [(8, 0, 1), (12, 0, 64), (22, 0, 1)]).cmd = 1 ∧
    rForward (rq [(8, 0, 1), (12, 0, 64), (22, 0, 1)]).cmd = false ∧
    ((rickS (rq [(8, 0, 1), (12, 0, 64), (22, 0, 1)]) {}).tile 0 |>.stream 0).defined = false :=
  ⟨rickS (rq [(8, 0, 1), (12, 0, 64), (22, 0, 1)]) {}, 0, rq [(8, 0, 1), (12, 0, 64), (22, 0, 1)], entry0, ctx0, rfl, rfl, rfl, rfl, rfl, rfl⟩

theorem witness_RickCommandsComplete_1c : ∃ (s : State) (t : TileId) (q : QEntry) (e : MapEntry) (c : Ctx),
    (s.tile t).rickQ.head? = some q ∧
    q.done = false ∧
    headEntry s t (some q) = .go q e c ∧
    let n := rStream q.cmd

    let x := s.tile t

    let k := x.stream n

    rOp (rq [(8, 0, 2)]).cmd = 2 ∧
    (rq [(8, 0, 2)]).started = false ∧
    rCount (rq [(8, 0, 2)]).cmd = 0 :=
  ⟨rickS (rq [(8, 0, 2)]) {}, 0, rq [(8, 0, 2)], entry0, ctx0, rfl, rfl, rfl, rfl, rfl, rfl⟩

theorem witness_RickCommandsComplete_1d : ∃ (s : State) (t : TileId) (q : QEntry) (e : MapEntry) (c : Ctx),
    (s.tile t).rickQ.head? = some q ∧
    q.done = false ∧
    headEntry s t (some q) = .go q e c ∧
    let n := rStream q.cmd

    let x := s.tile t

    let k := x.stream n

    rOp (rq [(8, 0, 2), (12, 0, 1)]).cmd = 2 ∧
    rCount (rq [(8, 0, 2), (12, 0, 1)]).cmd ≠ 0 ∧
    ((rickS (rq [(8, 0, 2), (12, 0, 1)]) { streams := [(0, { locStream with elements := 128 })] }).tile 0).ownStream (rq [(8, 0, 2), (12, 0, 1)]) = true ∧
    entry0.resolve (rAddr (rq [(8, 0, 2), (12, 0, 1)]).cmd) (rCount (rq [(8, 0, 2), (12, 0, 1)]).cmd) = .ok (.woodpile, 0) ∧
    (((rickS (rq [(8, 0, 2), (12, 0, 1)]) { streams := [(0, { locStream with elements := 128 })] }).tile 0).stream 0).holds (rFirst (rq [(8, 0, 2), (12, 0, 1)]).cmd) (128 * rCount (rq [(8, 0, 2), (12, 0, 1)]).cmd) = true :=
  ⟨rickS (rq [(8, 0, 2), (12, 0, 1)]) { streams := [(0, { locStream with elements := 128 })] }, 0, rq [(8, 0, 2), (12, 0, 1)], entry0, ctx0, rfl, rfl, rfl, rfl, by decide, rfl, rfl, rfl⟩

theorem witness_RickCommandsComplete_1e : ∃ (s : State) (t : TileId) (q : QEntry) (e : MapEntry) (c : Ctx),
    (s.tile t).rickQ.head? = some q ∧
    q.done = false ∧
    headEntry s t (some q) = .go q e c ∧
    let n := rStream q.cmd

    let x := s.tile t

    let k := x.stream n

    rOp (begun (rq [(8, 0, 2), (12, 0, 1)]) 1).cmd = 2 ∧
    (begun (rq [(8, 0, 2), (12, 0, 1)]) 1).started = true ∧
    (((srcS (begun (rq [(8, 0, 2), (12, 0, 1)]) 1)).tile 0).stream 0).forward = false ∧
    ((srcS (begun (rq [(8, 0, 2), (12, 0, 1)]) 1)).tile 0).arrival (.rickSrc (begun (rq [(8, 0, 2), (12, 0, 1)]) 1).given) = some [] :=
  ⟨srcS (begun (rq [(8, 0, 2), (12, 0, 1)]) 1), 0, begun (rq [(8, 0, 2), (12, 0, 1)]) 1, entry0, ctx0, rfl, rfl, rfl, rfl, rfl, rfl, rfl⟩

theorem witness_RickCommandsComplete_1f : ∃ (s : State) (t : TileId) (q : QEntry) (e : MapEntry) (c : Ctx),
    (s.tile t).rickQ.head? = some q ∧
    q.done = false ∧
    headEntry s t (some q) = .go q e c ∧
    let n := rStream q.cmd

    let x := s.tile t

    let k := x.stream n

    rOp (finQ 0 0).cmd = 3 ∧
    (finQ 0 0).started = false ∧
    finishRefusal { finS 0 0 with tiles := [(0, { (finS 0 0).tile 0 with map := [(0, { entry0 with rickN := 8 })] })] } 0 (finQ 0 0) { entry0 with rickN := 8 } = none :=
  ⟨{ finS 0 0 with tiles := [(0, { (finS 0 0).tile 0 with map := [(0, { entry0 with rickN := 8 })] })] }, 0, finQ 0 0, { entry0 with rickN := 8 }, ctx0, rfl, rfl, rfl, rfl, rfl, rfl⟩

theorem witness_RickCommandsComplete_1g : ∃ (s : State) (t : TileId) (q : QEntry) (e : MapEntry) (c : Ctx),
    (s.tile t).rickQ.head? = some q ∧
    q.done = false ∧
    headEntry s t (some q) = .go q e c ∧
    let n := rStream q.cmd

    let x := s.tile t

    let k := x.stream n

    rOp (begun (finQ 0 0) 0).cmd = 3 ∧
    (begun (finQ 0 0) 0).started = true ∧
    (((rickS (begun (finQ 0 0) 0) { streams := [(0, locStream)] }).tile 0).stream 0).arrived = locStream.expect ∧
    ((rickS (begun (finQ 0 0) 0) { streams := [(0, locStream)] }).tile 0).rick.busy 0 = false ∧
    0 < locStream.reads.length :=
  ⟨rickS (begun (finQ 0 0) 0) { streams := [(0, locStream)] }, 0, begun (finQ 0 0) 0, entry0, ctx0, rfl, rfl, rfl, rfl, rfl, rfl, rfl, by decide⟩

theorem witness_RickCommandsComplete_1h : ∃ (s : State) (t : TileId) (q : QEntry) (e : MapEntry) (c : Ctx),
    (s.tile t).rickQ.head? = some q ∧
    q.done = false ∧
    headEntry s t (some q) = .go q e c ∧
    let n := rStream q.cmd

    let x := s.tile t

    let k := x.stream n

    rOp (begun (finQ 0 0) 5).cmd = 3 ∧
    (begun (finQ 0 0) 5).started = true ∧
    (((rickS (begun (finQ 0 0) 5) { streams := [(0, locStream)] }).tile 0).stream 0).arrived = locStream.expect ∧
    ((rickS (begun (finQ 0 0) 5) { streams := [(0, locStream)] }).tile 0).rick.busy 0 = false ∧
    locStream.reads.length = 5 ∧
    ((rickS (begun (finQ 0 0) 5) { streams := [(0, locStream)] }).tile 0).noneAsked (·.isRickSrc) = true ∧
    rDestKind (begun (finQ 0 0) 5).cmd = 0 :=
  ⟨rickS (begun (finQ 0 0) 5) { streams := [(0, locStream)] }, 0, begun (finQ 0 0) 5, entry0, ctx0, rfl, rfl, rfl, rfl, rfl, rfl, rfl, rfl, rfl, rfl⟩

theorem witness_RickCommandsComplete_1i : ∃ (s : State) (t : TileId) (q : QEntry) (e : MapEntry) (c : Ctx),
    (s.tile t).rickQ.head? = some q ∧
    q.done = false ∧
    headEntry s t (some q) = .go q e c ∧
    let n := rStream q.cmd

    let x := s.tile t

    let k := x.stream n

    rOp (begun (finQ 1 0) 5).cmd = 3 ∧
    (begun (finQ 1 0) 5).started = true ∧
    (((rickS (begun (finQ 1 0) 5) { streams := [(0, locStream)] }).tile 0).stream 0).arrived = locStream.expect ∧
    ((rickS (begun (finQ 1 0) 5) { streams := [(0, locStream)] }).tile 0).rick.busy 0 = false ∧
    locStream.reads.length = 5 ∧
    ((rickS (begun (finQ 1 0) 5) { streams := [(0, locStream)] }).tile 0).noneAsked (·.isRickSrc) = true ∧
    rDestKind (begun (finQ 1 0) 5).cmd = 1 :=
  ⟨rickS (begun (finQ 1 0) 5) { streams := [(0, locStream)] }, 0, begun (finQ 1 0) 5, entry0, ctx0, rfl, rfl, rfl, rfl, rfl, rfl, rfl, rfl, rfl, rfl⟩

theorem witness_RickCommandsComplete_1j : ∃ (s : State) (t : TileId) (q : QEntry) (e : MapEntry) (c : Ctx),
    (s.tile t).rickQ.head? = some q ∧
    q.done = false ∧
    headEntry s t (some q) = .go q e c ∧
    let n := rStream q.cmd

    let x := s.tile t

    let k := x.stream n

    rOp (begun (finQ 2 0) 5).cmd = 3 ∧
    (begun (finQ 2 0) 5).started = true ∧
    (((rickS (begun (finQ 2 0) 5) { streams := [(0, locStream)] }).tile 0).stream 0).arrived = locStream.expect ∧
    ((rickS (begun (finQ 2 0) 5) { streams := [(0, locStream)] }).tile 0).rick.busy 0 = false ∧
    locStream.reads.length = 5 ∧
    ((rickS (begun (finQ 2 0) 5) { streams := [(0, locStream)] }).tile 0).noneAsked (·.isRickSrc) = true ∧
    2 ≤ rDestKind (begun (finQ 2 0) 5).cmd ∧
    rOut (begun (finQ 2 0) 5).cmd ≠ 0xF :=
  ⟨rickS (begun (finQ 2 0) 5) { streams := [(0, locStream)] }, 0, begun (finQ 2 0) 5, entry0, ctx0, rfl, rfl, rfl, rfl, rfl, rfl, rfl, rfl, rfl, by decide, by decide⟩

theorem witness_RickCommandsComplete_1k : ∃ (s : State) (t : TileId) (q : QEntry) (e : MapEntry) (c : Ctx),
    (s.tile t).rickQ.head? = some q ∧
    q.done = false ∧
    headEntry s t (some q) = .go q e c ∧
    let n := rStream q.cmd

    let x := s.tile t

    let k := x.stream n

    rOp (begun (finQ 2 15) 5).cmd = 3 ∧
    (begun (finQ 2 15) 5).started = true ∧
    (((rickS (begun (finQ 2 15) 5) { streams := [(0, locStream)] }).tile 0).stream 0).arrived = locStream.expect ∧
    ((rickS (begun (finQ 2 15) 5) { streams := [(0, locStream)] }).tile 0).rick.busy 0 = false ∧
    locStream.reads.length = 5 ∧
    ((rickS (begun (finQ 2 15) 5) { streams := [(0, locStream)] }).tile 0).noneAsked (·.isRickSrc) = true ∧
    2 ≤ rDestKind (begun (finQ 2 15) 5).cmd ∧
    rOut (begun (finQ 2 15) 5).cmd = 0xF :=
  ⟨rickS (begun (finQ 2 15) 5) { streams := [(0, locStream)] }, 0, begun (finQ 2 15) 5, entry0, ctx0, rfl, rfl, rfl, rfl, rfl, rfl, rfl, rfl, rfl, by decide, rfl⟩

theorem witness_RickCommandsComplete_1l : ∃ (s : State) (t : TileId) (q : QEntry) (e : MapEntry) (c : Ctx),
    (s.tile t).rickQ.head? = some q ∧
    q.done = false ∧
    headEntry s t (some q) = .go q e c ∧
    let n := rStream q.cmd

    let x := s.tile t

    let k := x.stream n

    rOp (rq [(8, 0, 4)]).cmd = 4 ∧
    ((rickS (rq [(8, 0, 4)]) { streams := [(0, locStream)] }).tile 0).ownStream (rq [(8, 0, 4)]) = true ∧
    locStream.arrived = 0 ∧
    ((rickS (rq [(8, 0, 4)]) { streams := [(0, locStream)] }).tile 0).rick.busy 0 = false ∧
    locStream.forward = false :=
  ⟨rickS (rq [(8, 0, 4)]) { streams := [(0, locStream)] }, 0, rq [(8, 0, 4)], entry0, ctx0, rfl, rfl, rfl, rfl, rfl, rfl, rfl, rfl⟩

theorem witness_RickCommandsComplete_2 : ∃ (s : State) (t : TileId) (q : QEntry) (r : List QEntry),
    (s.tile t).rickQ = q :: r ∧
    s.tileLit t = true ∧
    (q.faulted = true ∨ (q.done = true ∧ (s.tile t).rickQuiet q = true)) :=
  ⟨rickS { rq [(8, 0, 1)] with done := true } {}, 0, { rq [(8, 0, 1)] with done := true }, [], rfl, rfl, .inr ⟨rfl, by decide⟩⟩

/-- A package with one bucket of one record, owned by context 0. -/
def bucket0 : Bucket := { records := 1 }
def bucketS (b : Bucket) : State := { hbmLit tile0 with buckets := [(0, b)] }
def contrib0 : Contrib := { stream := 0, elem := 0, value := { limbs := 1 } }
def packet0 : Packet := { vals := List.replicate 32 0 }

/-- Stream 0 with an addition whose word has been read, and with one that reads the side table. -/
def work0 : AddWork := { stream := 0, bil := 8, conts := [{ contrib0 with value := { limbs := 1 <<< 286 } }] }
def side0 : SideAdd := { cont := { contrib0 with elem := 3 } }
def workS (k : RickSt) (a : List (ReqDst × List Byte)) : State := lit { tile0 with rick := { k with streams := [(0, { locStream with expect := 1 })] }, arrived := a } ctx0
/-- FINISH to the bucket with row r waiting for its credit. -/
def creditS (r : Nat) : State :=
  { lit { tile0 with rickQ := [finQ 1 0], rick := { streams := [(0, locStream)], waitCredit := some r } } ctx0 with buckets := [(0, bucket0)] }

theorem witness_RickArrivalsComplete_1 : ∃ (s : State) (t : TileId),
    s.tileActs t = true :=
  ⟨lit { tile0 with rick := { input := [{ vn := .l, body := .rickHead 0 0 1 false }] } } ctx0, 0, rfl⟩

theorem witness_RickArrivalsComplete_2 : ∃ (s : State) (t : TileId) (a : Contrib) (r : List Contrib),
    (s.tile t).rick.adds = a :: r ∧
    (s.tile t).rick.works = [] ∧
    (s.tile t).rick.sides = [] ∧
    s.tileActs t = true ∧
    let x := s.tile t

    let k := x.stream a.stream

    let b := (k.word (a.elem - k.first)).1

    let same := fun (c : Contrib) => c.stream = a.stream && ((x.stream c.stream).word (c.elem - (x.stream c.stream).first)).1 = b

    let cs := x.rick.adds.filter same

    k.defined = true ∧
    k.stopped = false ∧
    k.arrived + cs.length ≤ k.expect ∧
    (((workS { adds := [contrib0] } []).tile 0).stream 0).defined = true ∧
    (((workS { adds := [contrib0] } []).tile 0).stream 0).stopped = false ∧
    cs.length ≤ (((workS { adds := [contrib0] } []).tile 0).stream 0).expect :=
  ⟨workS { adds := [contrib0] } [], 0, contrib0, [], rfl, rfl, rfl, rfl, rfl, rfl, by decide, rfl, rfl, by decide⟩

theorem witness_RickArrivalsComplete_3 : ∃ (s : State) (t : TileId) (w : AddWork) (img img' : List Byte),
    (s.tile t).rick.works = [w] ∧
    (s.tile t).rick.adds = [] ∧
    (s.tile t).rick.sides = [] ∧
    s.tileActs t = true ∧
    w.wrote = false ∧
    let x := s.tile t

    x.arrival (.ember w.bil) = some img ∧
    addWords (x.stream w.stream) w.conts img = (img', []) :=
  ⟨workS { works := [work0] } [(.ember 8, List.replicate 512 0)], 0, work0, List.replicate 512 0, (addWords { locStream with expect := 1 } work0.conts (List.replicate 512 0)).1, rfl, rfl, rfl, rfl, rfl, rfl, by decide +kernel⟩

theorem witness_RickArrivalsComplete_4 : ∃ (s : State) (t : TileId) (a : SideAdd) (img : List Byte) (j : Nat) (used : Bool),
    (s.tile t).rick.sides = [a] ∧
    (s.tile t).rick.works = [] ∧
    (s.tile t).rick.adds = [] ∧
    s.tileActs t = true ∧
    a.cont.stream < 4 ∧
    a.wrote = false ∧
    let x := s.tile t

    let n := a.cont.stream

    let k := x.stream n

    let m := (a.cont.elem + a.probed) % k.sideEntries

    a.probed < k.sideEntries ∧
    x.arrival (.side n) = some img ∧
    sideFind img a.cont.elem m (min (4 - m % 4) (k.sideEntries - a.probed)) = some (j, used) :=
  ⟨workS { sides := [side0] } [(.side 0, List.replicate 512 0xFF)], 0, side0, List.replicate 512 0xFF, 3, false, rfl, rfl, rfl, rfl, by decide, rfl, by decide, rfl, by decide +kernel⟩

theorem witness_RickArrivalsComplete_5 : ∃ (s : State) (t : TileId) (q : QEntry) (e : MapEntry) (c : Ctx) (r : Nat) (b : Bucket),
    (s.tile t).rickQ.head? = some q ∧
    q.done = false ∧
    rOp q.cmd = 3 ∧
    headEntry s t (some q) = .go q e c ∧
    (s.tile t).rick.waitCredit = some r ∧
    s.replays q.ctx = false ∧
    s.bucket (bf (rFirst q.cmd) 0 10) = some b ∧
    c.held = false ∧
    let x := s.tile t

    let n := rStream q.cmd

    let k := x.stream n

    stagingUse s (recordStack s b (k.first / 32 + r)) < 65536 ∧
    let d := fun (i : Nat) => if rRound q.cmd = 2 then stochastic c.seed c.superstep (rSrTag q.cmd) (k.first + 32 * r + i) 0xC0000000 else 0

    let vals := (List.range 32).map (fun i => BitVec.ofNat 32 (finishValue 0 (rRound q.cmd) (d i) (x.element k (32 * r + i))))

    let u : State := { countVn t q.ctx .q 3 ((countVn t q.ctx .p 1 s).modTile t (fun x => { x with rick := { x.rick with unaccepted := x.rick.unaccepted + 1 } })) with
      handoffs := s.handoffs ++ [{ bucket := bf (rFirst q.cmd) 0 10, recNo := k.first / 32 + r, vals := vals, src := t }] }

    32 * (0 + 1) ≠ locStream.elements :=
  ⟨creditS 0, 0, finQ 1 0, entry0, ctx0, 0, bucket0, rfl, rfl, rfl, rfl, rfl, rfl, rfl, rfl, by decide, by decide⟩

theorem witness_RickArrivalsComplete_5b : ∃ (s : State) (t : TileId) (q : QEntry) (e : MapEntry) (c : Ctx) (r : Nat) (b : Bucket),
    (s.tile t).rickQ.head? = some q ∧
    q.done = false ∧
    rOp q.cmd = 3 ∧
    headEntry s t (some q) = .go q e c ∧
    (s.tile t).rick.waitCredit = some r ∧
    s.replays q.ctx = false ∧
    s.bucket (bf (rFirst q.cmd) 0 10) = some b ∧
    c.held = false ∧
    let x := s.tile t

    let n := rStream q.cmd

    let k := x.stream n

    stagingUse s (recordStack s b (k.first / 32 + r)) < 65536 ∧
    let d := fun (i : Nat) => if rRound q.cmd = 2 then stochastic c.seed c.superstep (rSrTag q.cmd) (k.first + 32 * r + i) 0xC0000000 else 0

    let vals := (List.range 32).map (fun i => BitVec.ofNat 32 (finishValue 0 (rRound q.cmd) (d i) (x.element k (32 * r + i))))

    let u : State := { countVn t q.ctx .q 3 ((countVn t q.ctx .p 1 s).modTile t (fun x => { x with rick := { x.rick with unaccepted := x.rick.unaccepted + 1 } })) with
      handoffs := s.handoffs ++ [{ bucket := bf (rFirst q.cmd) 0 10, recNo := k.first / 32 + r, vals := vals, src := t }] }

    32 * (1 + 1) = locStream.elements :=
  ⟨creditS 1, 0, finQ 1 0, entry0, ctx0, 1, bucket0, rfl, rfl, rfl, rfl, rfl, rfl, rfl, rfl, by decide, rfl⟩

theorem witness_RickAdditionExact_1 : ∃ (k : RickStream) (cs : List Contrib) (img : List Byte) (b r : Nat),
    img.length = 512 ∧
    -286 ≤ k.anchor ∧
    k.anchor ≤ 98 ∧
    k.elements / 64 ≤ k.segGap ∧
    r < k.elements ∧
    (k.word r).1 = b ∧
    (∀ c ∈ cs, k.first ≤ c.elem ∧ c.elem - k.first < k.elements ∧ (k.word (c.elem - k.first)).1 = b) :=
  ⟨locStream, [contrib0], List.replicate 512 0, 8, 0, List.length_replicate, by decide, by decide, by decide, by decide, rfl, by decide⟩

theorem witness_RickAdditionExact_2 : ∃ (img : List Byte) (e j : Nat) (v : LimbVal),
    img.length = 512 ∧
    e < 0xFFFFFFFF ∧
    j < 4 :=
  ⟨List.replicate 512 0, 0, 0, {}, List.length_replicate, by decide, by decide⟩

/-! ### Stokers -/

/-- Round 1 with fingerprint f. -/
def fp0 (f : BitVec 64) : FpRound := { round := 1, total := f }

theorem witness_StokerCommandsComplete_1 : ∃ (s : State) (p : Packet) (r : List Packet) (b : Bucket),
    s.handoffs = p :: r ∧
    s.bucket p.bucket = some b ∧
    b.st ≠ .failed :=
  ⟨{ bucketS bucket0 with handoffs := [packet0] }, packet0, [], bucket0, rfl, rfl, by decide⟩

theorem witness_StokerCommandsComplete_2 : ∃ (s : State) (n : Fin 1024) (b : Bucket),
    s.bucket n = some b ∧
    b.st = .running ∧
    b.doneRecs.length = b.records :=
  ⟨bucketS { bucket0 with st := .running, doneRecs := [0] }, 0, { bucket0 with st := .running, doneRecs := [0] }, rfl, rfl, rfl⟩

theorem witness_StokerCommandsComplete_3 : ∃ (s : State) (n : Fin 1024) (b : Bucket),
    s.bucket n = some b ∧
    b.st = .running ∧
    b.startTick + s.forn.watchdog ≤ s.cad.count.toNat :=
  ⟨{ bucketS { bucket0 with st := .running } with cad := { (bucketS bucket0).cad with count := BitVec.ofNat 48 (2 ^ 48 - 1) } }, 0, { bucket0 with st := .running }, rfl, rfl, by decide⟩

theorem witness_StokerCommandsComplete_4 : ∃ (s : State) (n : Fin 1024) (b : Bucket) (f g : FpRound),
    s.bucket n = some b ∧
    b.partnerCtx ≠ 0xFF ∧
    b.fps.reverse.find? (fun f => 0 < b.checkEvery && f.round % b.checkEvery = 0 && decide (b.compared < f.round) && (partnerPrint s b f.round).isSome) = some f ∧
    partnerPrint s b f.round = some g ∧
    let s1 := s.setBucket n { b with compared := f.round, partnerFps := b.partnerFps.filter (fun g => decide (f.round < g.round)) }

    (fp0 5).total = (fp0 5).total :=
  ⟨{ bucketS { bucket0 with checkEvery := 1, partner := 1, partnerCtx := 0, fps := [fp0 5] } with buckets := [(0, { bucket0 with checkEvery := 1, partner := 1, partnerCtx := 0, fps := [fp0 5] }), (1, { bucket0 with fps := [fp0 5] })] }, 0, { bucket0 with checkEvery := 1, partner := 1, partnerCtx := 0, fps := [fp0 5] }, fp0 5, fp0 5, rfl, by decide, by decide, rfl, rfl⟩

theorem witness_StokerCommandsComplete_4b : ∃ (s : State) (n : Fin 1024) (b : Bucket) (f g : FpRound),
    s.bucket n = some b ∧
    b.partnerCtx ≠ 0xFF ∧
    b.fps.reverse.find? (fun f => 0 < b.checkEvery && f.round % b.checkEvery = 0 && decide (b.compared < f.round) && (partnerPrint s b f.round).isSome) = some f ∧
    partnerPrint s b f.round = some g ∧
    let s1 := s.setBucket n { b with compared := f.round, partnerFps := b.partnerFps.filter (fun g => decide (f.round < g.round)) }

    (fp0 5).total ≠ (fp0 6).total ∧
    (bucketS bucket0).ctx 0 = some ctx0 :=
  ⟨{ bucketS { bucket0 with checkEvery := 1, partner := 1, partnerCtx := 0, fps := [fp0 5] } with buckets := [(0, { bucket0 with checkEvery := 1, partner := 1, partnerCtx := 0, fps := [fp0 5] }), (1, { bucket0 with fps := [fp0 6] })] }, 0, { bucket0 with checkEvery := 1, partner := 1, partnerCtx := 0, fps := [fp0 5] }, fp0 5, fp0 6, rfl, by decide, by decide, rfl, by decide, rfl⟩

theorem witness_RecordApplyChangesItsRanges_1 : ∃ (s : State) (k : StackId) (n : Fin 1024) (b : Bucket) (p : Packet),
    s.bucket n = some b ∧
    b.st = .running ∧
    s.statues = false ∧
    s.stackFenced k = false ∧
    (s.stack k).st = .active ∧
    (s.stack k).staged.find? (fun p => p.bucket = n.val && !b.doneRecs.contains p.recNo) = some p :=
  ⟨{ bucketS { bucket0 with st := .running } with hbmStacks := [(0, { st := .active, staged := [packet0] })] }, 0, 0, { bucket0 with st := .running }, packet0, rfl, rfl, rfl, rfl, rfl, rfl⟩

/-! ### Rings and contexts -/

/-- Ring 15 holds one command, the rest of the package is the small one. -/
def ringS (cmd : Memory) (x : Tile) (c : Ctx) : State :=
  { lit x c with
    boot := { (lit x c).boot with ready := true }
    hostMem := cmd
    evl := { (lit x c).evl with rings := [(15, { sqEn := true, sqLog := 4, sqTail := 1 })] } }
/-- A command that must be refused: opcode 12, and an opcode 9 with a byte it does not use. -/
def badCmd : Memory := [(0, 12)]
def dirtyCmd : Memory := [(0, 9), (63, 1)]
/-- A record of context 1 with an image of one section: its body is 80 zero bytes, whose SHA-512 digest stands in the header. -/
def createHbm : Memory :=
  [(0, 1), (1, 1), (6, 1), (7, 1), (29, 1), (41, 16), (4096, 0x50), (4097, 0x4C), (4098, 0x59), (4099, 0x4E), (4100, 1), (4101, 2), (4102, 1), (4112, 1), (4116, 1), (4117, 1), (4124, 80)]
  ++ [(4128, 182), (4129, 180), (4130, 193), (4131, 144), (4132, 204), (4133, 213), (4134, 55), (4135, 247), (4136, 184), (4137, 121), (4138, 101), (4139, 143), (4140, 179), (4141, 171), (4142, 57), (4143, 168), (4144, 19), (4145, 71), (4146, 225), (4147, 236), (4148, 182), (4149, 130), (4150, 70), (4151, 218), (4152, 185), (4153, 86), (4154, 72), (4155, 86), (4156, 5), (4157, 135), (4158, 184), (4159, 67), (4160, 126), (4161, 203), (4162, 2), (4163, 183), (4164, 130), (4165, 95), (4166, 70), (4167, 169), (4168, 20), (4169, 16), (4170, 89), (4171, 174), (4172, 97), (4173, 136), (4174, 126), (4175, 199), (4176, 176), (4177, 17), (4178, 193), (4179, 49), (4180, 76), (4181, 188), (4182, 197), (4183, 116), (4184, 28), (4185, 159), (4186, 174), (4187, 149), (4188, 62), (4189, 170), (4190, 2), (4191, 236)]
def createS : State := { ringS [(0, 1)] {} ctx0 with hbm := createHbm, ctxs := [] }
/-- DEFINE_BUCKET 0 of context 0: 4,096 records from address 0, the descriptor behind them. -/
def defineCmd : Memory := [(0, 8), (25, 16), (34, 16), (46, 255)]
def wideCtx : Ctx := { ctx0 with apertures := [(0, 2097152)] }
/-- LOCATE of one record of bucket 0. -/
def locateCmd : Memory := [(0, 11), (16, 1), (25, 2)]
def locateS : State := { ringS locateCmd tile0 { ctx0 with held := true } with buckets := [(0, bucket0)], holds := [0] }
def graphS (op : Nat) : State := { ringS [(0, BitVec.ofNat 8 op)] tile0 ctx0 with graphs := [(0, { st := .running })] }

theorem createWaits (k : Ctx) : (tookCommand 15 createS).mapWaits k = false := by
  have h : ∀ t, ((tookCommand 15 createS).tile t).gone = [] := fun t => by
    have e : (tookCommand 15 createS).tiles = [(0, {})] := rfl
    simp only [State.tile, e, sgetD, sget]
    split <;> rfl
  simp [State.mapWaits, Tile.oldPosts, h]

theorem witness_RingCommandsComplete_1 : ∃ (s : State) (r : RingId),
    s.nextRing = some r.val ∧
    cmdReserved (s.ringCmd r) = false ∧
    let c := s.ringCmd r

    let u := tookCommand r s

    cmdOpcode (createS.ringCmd 15) = 1 ∧
    createRefusal (tookCommand 15 createS) (bytesAt (createS.ringCmd 15) 8 8) ((tookCommand 15 createS).hbmRead (bytesAt (createS.ringCmd 15) 8 8) 128) true = none ∧
    (∀ k : Ctx, (tookCommand 15 createS).mapWaits k = false) :=
  ⟨createS, 15, rfl, rfl, rfl, by decide +kernel, createWaits⟩

theorem witness_RingCommandsComplete_1b : ∃ (s : State) (r : RingId),
    s.nextRing = some r.val ∧
    cmdReserved (s.ringCmd r) = false ∧
    let c := s.ringCmd r

    let u := tookCommand r s

    cmdOpcode ((ringS [(0, 2)] tile0 ctx0).ringCmd 15) = 2 ∧
    (tookCommand 15 (ringS [(0, 2)] tile0 ctx0)).ctx 0 = some ctx0 ∧
    (tookCommand 15 (ringS [(0, 2)] tile0 ctx0)).statues = false ∧
    ctx0.destroy = none ∧
    (tookCommand 15 (ringS [(0, 2)] tile0 ctx0)).taskPending 0 = false ∧
    ctx0.task = none :=
  ⟨ringS [(0, 2)] tile0 ctx0, 15, rfl, rfl, rfl, rfl, rfl, rfl, rfl, rfl⟩

theorem witness_RingCommandsComplete_1c : ∃ (s : State) (r : RingId),
    s.nextRing = some r.val ∧
    cmdReserved (s.ringCmd r) = false ∧
    let c := s.ringCmd r

    let u := tookCommand r s

    cmdOpcode ((ringS [(0, 3), (16, 1)] tile0 { ctx0 with sections := [[0]] }).ringCmd 15) = 3 ∧
    (tookCommand 15 (ringS [(0, 3), (16, 1)] tile0 { ctx0 with sections := [[0]] })).freeGraph = some 0 ∧
    pickCode (taskChecks (ringS [] tile0 { ctx0 with sections := [[0]] }) 1 0 (List.replicate 32 0)) = none :=
  ⟨ringS [(0, 3), (16, 1)] tile0 { ctx0 with sections := [[0]] }, 15, rfl, rfl, rfl, rfl, rfl⟩

theorem witness_RingCommandsComplete_1d : ∃ (s : State) (r : RingId),
    s.nextRing = some r.val ∧
    cmdReserved (s.ringCmd r) = false ∧
    let c := s.ringCmd r

    let u := tookCommand r s

    cmdOpcode ((graphS 4).ringCmd 15) = 4 ∧
    cmdCtx ((graphS 4).ringCmd 15) ≤ 15 ∧
    ((tookCommand 15 (graphS 4)).graph 0).inFlight = true :=
  ⟨graphS 4, 15, rfl, rfl, rfl, by decide, rfl⟩

theorem witness_RingCommandsComplete_1e : ∃ (s : State) (r : RingId),
    s.nextRing = some r.val ∧
    cmdReserved (s.ringCmd r) = false ∧
    let c := s.ringCmd r

    let u := tookCommand r s

    cmdOpcode ((graphS 5).ringCmd 15) = 5 :=
  ⟨graphS 5, 15, rfl, rfl, rfl⟩

theorem witness_RingCommandsComplete_1f : ∃ (s : State) (r : RingId),
    s.nextRing = some r.val ∧
    cmdReserved (s.ringCmd r) = false ∧
    let c := s.ringCmd r

    let u := tookCommand r s

    cmdOpcode ((graphS 6).ringCmd 15) = 6 ∧
    ((tookCommand 15 (graphS 6)).graph 0).cancel = false :=
  ⟨graphS 6, 15, rfl, rfl, rfl, rfl⟩

theorem witness_RingCommandsComplete_1g : ∃ (s : State) (r : RingId),
    s.nextRing = some r.val ∧
    cmdReserved (s.ringCmd r) = false ∧
    let c := s.ringCmd r

    let u := tookCommand r s

    cmdOpcode ((ringS [(0, 7)] tile0 { ctx0 with onTiles := false }).ringCmd 15) = 7 ∧
    (tookCommand 15 (ringS [(0, 7)] tile0 { ctx0 with onTiles := false })).quiescent 0 { ctx0 with onTiles := false } = true :=
  ⟨ringS [(0, 7)] tile0 { ctx0 with onTiles := false }, 15, rfl, rfl, rfl, rfl⟩

theorem witness_RingCommandsComplete_1h : ∃ (s : State) (r : RingId),
    s.nextRing = some r.val ∧
    cmdReserved (s.ringCmd r) = false ∧
    let c := s.ringCmd r

    let u := tookCommand r s

    cmdOpcode ((ringS [(0, 7)] tile0 ctx0).ringCmd 15) = 7 ∧
    (tookCommand 15 (ringS [(0, 7)] tile0 ctx0)).quiescent 0 ctx0 = false :=
  ⟨ringS [(0, 7)] tile0 ctx0, 15, rfl, rfl, rfl, rfl⟩

theorem witness_RingCommandsComplete_1i : ∃ (s : State) (r : RingId),
    s.nextRing = some r.val ∧
    cmdReserved (s.ringCmd r) = false ∧
    let c := s.ringCmd r

    let u := tookCommand r s

    cmdOpcode ((ringS defineCmd tile0 wideCtx).ringCmd 15) = 8 ∧
    bytesAt ((ringS defineCmd tile0 wideCtx).ringCmd 15) 24 4 = 4096 ∧
    pickCode ((!inAperture wideCtx 1048576 64, 0x06) :: rangeChecks (tookCommand 15 (ringS defineCmd tile0 wideCtx)) 0 wideCtx [(0, 1048576)]) = none :=
  ⟨ringS defineCmd tile0 wideCtx, 15, rfl, rfl, rfl, rfl, by decide +kernel⟩

theorem witness_RingCommandsComplete_1j : ∃ (s : State) (r : RingId),
    s.nextRing = some r.val ∧
    cmdReserved (s.ringCmd r) = false ∧
    let c := s.ringCmd r

    let u := tookCommand r s

    cmdOpcode (({ ringS [(0, 9)] tile0 ctx0 with buckets := [(0, bucket0)] } : State).ringCmd 15) = 9 :=
  ⟨{ ringS [(0, 9)] tile0 ctx0 with buckets := [(0, bucket0)] }, 15, rfl, rfl, rfl⟩

theorem witness_RingCommandsComplete_1k : ∃ (s : State) (r : RingId),
    s.nextRing = some r.val ∧
    cmdReserved (s.ringCmd r) = false ∧
    let c := s.ringCmd r

    let u := tookCommand r s

    cmdOpcode ((ringS [(0, 10), (8, 63)] tile0 ctx0).ringCmd 15) = 10 ∧
    cmdCtx ((ringS [(0, 10), (8, 63)] tile0 ctx0).ringCmd 15) = 63 :=
  ⟨ringS [(0, 10), (8, 63)] tile0 ctx0, 15, rfl, rfl, rfl, rfl⟩

theorem witness_RingCommandsComplete_1l : ∃ (s : State) (r : RingId),
    s.nextRing = some r.val ∧
    cmdReserved (s.ringCmd r) = false ∧
    let c := s.ringCmd r

    let u := tookCommand r s

    cmdOpcode (locateS.ringCmd 15) = 11 ∧
    bytesAt (locateS.ringCmd 15) 16 4 = 1 ∧
    inAperture ctx0 512 8 = true ∧
    (tookCommand 15 locateS).modelHeld bucket0 = true :=
  ⟨locateS, 15, rfl, rfl, rfl, rfl, rfl, rfl⟩

theorem witness_ReservedRingCommandsRefused_1 : ∃ (s : State) (r : RingId) (e : Ecc) (i : Instr) (op : Nat),
    s.nextRing = some r.val ∧
    (i, op) ∈ ringCommands r e ∧
    let c := s.ringCmd r

    (cmdOpcode c = 0 ∨ 11 < cmdOpcode c ∨ (cmdOpcode c = op ∧ cmdReserved c = true)) :=
  ⟨ringS badCmd tile0 ctx0, 15, .clean, .locate 15, 11, rfl, by simp [ringCommands], .inr (.inl (by decide))⟩

theorem witness_ReservedRingCommandsRefused_1b : ∃ (s : State) (r : RingId) (e : Ecc) (i : Instr) (op : Nat),
    s.nextRing = some r.val ∧
    (i, op) ∈ ringCommands r e ∧
    let c := s.ringCmd r

    (cmdOpcode c = 0 ∨ 11 < cmdOpcode c ∨ (cmdOpcode c = op ∧ cmdReserved c = true)) :=
  ⟨ringS dirtyCmd tile0 ctx0, 15, .clean, .removeBucket 15, 9, rfl, by simp [ringCommands], .inr (.inr ⟨rfl, rfl⟩)⟩

def dying : Ctx := { ctx0 with destroy := some { ring := 15, tag := 7, step := 2 } }

theorem witness_ContextLifeCompletes_1 : ∃ (s : State) (n : CtxId) (c : Ctx) (r : Nat) (tag : Word) (i : Nat),
    s.ctx n = some c ∧
    c.mapRetry = some (r, tag, i) ∧
    s.mapWaits c = false :=
  ⟨lit tile0 { ctx0 with mapRetry := some (15, 7, 4096) }, 0, { ctx0 with mapRetry := some (15, 7, 4096) }, 15, 7, 4096, rfl, rfl, rfl⟩

theorem witness_ContextLifeCompletes_2 : ∃ (s : State) (n : CtxId) (c : Ctx) (d : Destroy),
    s.ctx n = some c ∧
    c.destroy = some d ∧
    s.drained n c = true ∧
    let s1 := (unbind c false s).modCtx n (fun c => { c with destroy := some { d with step := 3 } })

    s1.recvWaits c = false :=
  ⟨lit tile0 dying, 0, dying, { ring := 15, tag := 7, step := 2 }, rfl, rfl, rfl, rfl⟩

theorem witness_ContextLifeCompletes_3 : ∃ (s : State) (n : CtxId) (c : Ctx) (fc : Nat),
    s.ctx n = some c ∧
    c.stop = some fc ∧
    c.st ≠ .stopped :=
  ⟨lit tile0 { ctx0 with stop := some 0x1205 }, 0, { ctx0 with stop := some 0x1205 }, 0x1205, rfl, rfl, by decide⟩

def bc : Ctx := { ctx0 with barrier := 2, arrived := ctx0.tiles }
def armed : State := { lit tile0 bc with forn := { State.reset.forn with snaps := [(0, { ctrl := 1, st := 2 })] } }

theorem witness_BoundaryCommandsComplete_1 : ∃ (s : State) (n : CtxId) (c : Ctx) (depOk : Bool),
    s.atBoundary n .none = some c ∧
    s.boundaryMet c = true ∧
    let s1 := logPhase n c s

    let s2 := startCapture n c (closeCapture n c (forAll ((s1.forn.snaps.filter (fun p => p.2.due n c)).map (·.1)) (takeSnap n c) s1))

    (∀ p ∈ s2.forn.snaps, ¬ (p.2.st = 2 ∧ p.2.ctx = n.val)) :=
  ⟨lit tile0 bc, 0, bc, true, rfl, rfl, by decide⟩

theorem witness_BoundaryCommandsComplete_1b : ∃ (s : State) (n : CtxId) (c : Ctx) (depOk : Bool),
    s.atBoundary n .none = some c ∧
    s.boundaryMet c = true ∧
    let s1 := logPhase n c s

    let s2 := startCapture n c (closeCapture n c (forAll ((s1.forn.snaps.filter (fun p => p.2.due n c)).map (·.1)) (takeSnap n c) s1))

    (∃ p ∈ s2.forn.snaps, p.2.st = 2 ∧ p.2.ctx = n.val) :=
  ⟨armed, 0, bc, true, rfl, rfl, by decide⟩

theorem witness_BoundaryCommandsComplete_2 : ∃ (s : State) (n : CtxId) (c : Ctx) (depOk : Bool),
    s.atBoundary n .snapshot = some c :=
  ⟨lit tile0 { bc with bound := .snapshot }, 0, { bc with bound := .snapshot }, true, rfl⟩

theorem witness_BoundaryCommandsComplete_3 : ∃ (s : State) (n : CtxId) (c : Ctx),
    s.atBoundary n .switching = some c ∧
    (∀ t ∈ c.tiles, (s.tile t).resumeHeld c = false) ∧
    (∀ r ∈ c.regions, s.regionFenced r = false) ∧
    let s1 := forAll c.tiles (fun t s => switchResume t n c s) s

    (∀ d, s1.ctx n = some d → d.stop = none) :=
  ⟨lit tile0 { bc with bound := .switching }, 0, { bc with bound := .switching }, rfl, by decide, by decide, by decide⟩

theorem witness_BoundaryCommandsComplete_4 : ∃ (s : State) (r : RegionId) (k : Nat),
    (s.stepGroup r).findSome? (fun j => (s.region j).wantStep) = some k ∧
    (s.region r).changing = true ∧
    s.statues = false :=
  ⟨{ lit tile0 bc with regions := [(0, { st := .lit, wantStep := some 1, changing := true })] }, 0, 1, rfl, rfl, rfl⟩

theorem witness_BoundaryCommandsComplete_5 : ∃ (s : State) (r : RegionId),
    (∃ n ∈ s.stepHeld (s.stepGroup r), s.stepLate n = true) ∧
    (s.region r).changing = false ∧
    s.statues = false :=
  ⟨{ lit tile0 { bc with bound := .stepHold, stepSince := some 0 } with pwr := { State.reset.pwr with stagCfg := 0 } }, 0, by decide, rfl, rfl⟩

theorem witness_BoundaryCommandsComplete_6 : ∃ (s : State),
    s.statues = false ∧
    let can := fun (p : Nat × Ctx) => p.2.st = .running && p.2.onTiles && p.2.stop.isNone

    let waiting := (s.ctxs.filter (fun p => can p && p.2.bound = .stagger && p.2.heldFor.any (fun t => decide (t ≤ s.us)))).map (·.1)

    let cut := (s.ctxs.filter (fun p => can p && p.2.bound = .stepHold && p.2.target.any (fun t => decide (t ≤ s.us)) &&
      p.2.regions.all (fun r => !(s.region r).changing))).map (·.1)

    (waiting ≠ [] ∨ cut ≠ []) ∧
    let v := forAll cut (fun n s =>
      match s.ctx n with
      | none => s
      | some c =>
        if c.bound ≠ .stepHold then s
        else
          let rs := s.stepGroup (c.regions.headD 0)
          forAll ((s.stepHeld rs).filter (fun k => !cut.contains k)) (letGo staggerStep) (letGo alignRelease n (withdrawStep rs s))) (forAll waiting alignRelease s)

    waiting ≠ [] :=
  ⟨lit tile0 { bc with bound := .stagger, heldFor := some 0 }, rfl, by decide, by decide⟩

theorem witness_BoundaryCommandsComplete_6b : ∃ (s : State),
    s.statues = false ∧
    let can := fun (p : Nat × Ctx) => p.2.st = .running && p.2.onTiles && p.2.stop.isNone

    let waiting := (s.ctxs.filter (fun p => can p && p.2.bound = .stagger && p.2.heldFor.any (fun t => decide (t ≤ s.us)))).map (·.1)

    let cut := (s.ctxs.filter (fun p => can p && p.2.bound = .stepHold && p.2.target.any (fun t => decide (t ≤ s.us)) &&
      p.2.regions.all (fun r => !(s.region r).changing))).map (·.1)

    (waiting ≠ [] ∨ cut ≠ []) ∧
    let v := forAll cut (fun n s =>
      match s.ctx n with
      | none => s
      | some c =>
        if c.bound ≠ .stepHold then s
        else
          let rs := s.stepGroup (c.regions.headD 0)
          forAll ((s.stepHeld rs).filter (fun k => !cut.contains k)) (letGo staggerStep) (letGo alignRelease n (withdrawStep rs s))) (forAll waiting alignRelease s)

    cut ≠ [] :=
  ⟨lit tile0 { bc with bound := .stepHold, target := some 0 }, rfl, .inr (by decide), by decide⟩

theorem witness_BoundaryReleases_1 : ∃ (s : State) (n : Nat) (c : Ctx),
    s.ctx n = some c ∧
    c.tiles.Nodup ∧
    c.tileMap.length = c.tiles.length :=
  ⟨lit tile0 { bc with tileMap := bc.tiles }, 0, { bc with tileMap := bc.tiles }, rfl, by decide, rfl⟩

/-! ### Cadence and power -/

/-- A package whose cadence unit is in state c. -/
def cadS (c : Cadence) (us : Nat) : State := { State.reset with cad := c, us := us }
/-- A package in which slot k fires. -/
def slotS (k : Nat) : State := cadS { slots := [(k, { fire := true })] } 0

theorem witness_CadenceEventsComplete_1 : ∃ (s : State) (p h : Nat),
    s.awake = true ∧
    let q := nearNominal s.sec.nominal p && (tickWidth p h || markWidth p h)

    let c1 := { s.cad with
      allPeriods := (p :: s.cad.allPeriods).take 64
      badRun := if tickWidth p h || markWidth p h then 0 else min (s.cad.badRun + 1) 3 }

    let c2 := { c1 with periods := (p :: s.cad.periods).take 64, lastQual := s.us, qualRun := min (s.cad.qualRun + 1) 16 }

    q = false :=
  ⟨cadS {} 0, 10000, 900, rfl, rfl⟩

theorem witness_CadenceEventsComplete_1b : ∃ (s : State) (p h : Nat),
    s.awake = true ∧
    let q := nearNominal s.sec.nominal p && (tickWidth p h || markWidth p h)

    let c1 := { s.cad with
      allPeriods := (p :: s.cad.allPeriods).take 64
      badRun := if tickWidth p h || markWidth p h then 0 else min (s.cad.badRun + 1) 3 }

    let c2 := { c1 with periods := (p :: s.cad.periods).take 64, lastQual := s.us, qualRun := min (s.cad.qualRun + 1) 16 }

    q = true ∧
    s.cad.st = .locked :=
  ⟨cadS { st := .locked } 0, 9900, 990, rfl, rfl, rfl⟩

theorem witness_CadenceEventsComplete_1c : ∃ (s : State) (p h : Nat),
    s.awake = true ∧
    let q := nearNominal s.sec.nominal p && (tickWidth p h || markWidth p h)

    let c1 := { s.cad with
      allPeriods := (p :: s.cad.allPeriods).take 64
      badRun := if tickWidth p h || markWidth p h then 0 else min (s.cad.badRun + 1) 3 }

    let c2 := { c1 with periods := (p :: s.cad.periods).take 64, lastQual := s.us, qualRun := min (s.cad.qualRun + 1) 16 }

    q = true ∧
    s.cad.st ≠ .locked ∧
    s.cad.qualRun < 15 :=
  ⟨cadS { qualRun := 14 } 0, 10100, 3535, rfl, rfl, by decide, by decide⟩

theorem witness_CadenceEventsComplete_1d : ∃ (s : State) (p h : Nat),
    s.awake = true ∧
    let q := nearNominal s.sec.nominal p && (tickWidth p h || markWidth p h)

    let c1 := { s.cad with
      allPeriods := (p :: s.cad.allPeriods).take 64
      badRun := if tickWidth p h || markWidth p h then 0 else min (s.cad.badRun + 1) 3 }

    let c2 := { c1 with periods := (p :: s.cad.periods).take 64, lastQual := s.us, qualRun := min (s.cad.qualRun + 1) 16 }

    q = true ∧
    s.cad.st ≠ .locked ∧
    15 ≤ s.cad.qualRun :=
  ⟨cadS { qualRun := 15 } 0, 10000, 4500, rfl, rfl, by decide, by decide⟩

theorem witness_CadenceEventsComplete_2 : ∃ (s : State),
    s.cad.st = .acquiring ∧
    1000000 ≤ s.us :=
  ⟨cadS {} 1000000, rfl, by decide⟩

theorem witness_CadenceEventsComplete_3 : ∃ (s : State),
    s.cad.st = .locked ∧
    s.holdoverDue = true :=
  ⟨cadS { st := .locked, badRun := 3 } 0, rfl, rfl⟩

theorem witness_CadenceEventsComplete_4 : ∃ (s : State),
    s.cad.st = .holdover :=
  ⟨cadS { st := .holdover } 0, rfl⟩

theorem witness_CadenceEventsComplete_5 : ∃ (s : State) (e : Nat),
    s.cad.opened = true ∧
    s.cad.expected = some e ∧
    e + 2 ≤ s.cad.count.toNat :=
  ⟨cadS { opened := true, expected := some 6000, count := 6002 } 0, 6000, rfl, rfl, by decide⟩

theorem witness_CadenceEventsComplete_6 : ∃ (s : State) (t : Nat),
    s.cad.st = .holdover ∧
    s.cad.fallback = false ∧
    s.cad.holdSince = some t ∧
    60000000 + t ≤ s.us :=
  ⟨cadS { st := .holdover, holdSince := some 5 } 60000005, 5, rfl, rfl, rfl, by decide⟩

theorem witness_SlotActionsComplete_fires : ∀ k < 16, (slotS k).slotActs k = true := by decide
theorem witness_SlotActionsComplete_tallyClose : ∃ (s : State) (e : Nat), s.slotActs 1 = true ∧ s.pwr.cur.endTick = some e ∧ 3 ≤ s.boot.stage :=
  ⟨{ slotS 1 with pwr := { State.reset.pwr with cur := { endTick := some 6000 } }, boot := { State.reset.boot with stage := 3 } }, 6000, rfl, rfl, by decide⟩
theorem witness_SlotActionsComplete_tallySigned : ∃ (s : State) (b : List Byte) (k : BitVec 256), s.pwr.closing = some b ∧ s.pwr.powerKey = some k :=
  ⟨{ State.reset with pwr := { State.reset.pwr with closing := some [1], powerKey := some 3 } }, [1], 3, rfl, rfl⟩
theorem witness_SlotActionsComplete_syncIn : ∃ (s : State), s.stagSource = false ∧ s.awake = true := ⟨State.reset, rfl, rfl⟩
theorem witness_SlotActionsComplete_counterSnapshot : ∃ (s : State) (a : Nat) (v : State), s.slotActs 6 = true ∧
    reserveRecord 643904 (s.modSlot 6 (fun x => { x with fire := false })) = (some a, v) :=
  ⟨{ slotS 6 with forn := { State.reset.forn with ctrl := 0x00001401 } },
    (reserveRecord 643904 (State.modSlot { slotS 6 with forn := { State.reset.forn with ctrl := 0x00001401 } } 6 (fun x => { x with fire := false }))).1.getD 0,
    (reserveRecord 643904 (State.modSlot { slotS 6 with forn := { State.reset.forn with ctrl := 0x00001401 } } 6 (fun x => { x with fire := false }))).2, rfl, rfl⟩
theorem witness_SlotActionsComplete_software : ∃ (s : State) (k : SlotId), 8 ≤ k.val ∧ s.slotActs k = true ∧ (s.slot k).period = 0 := ⟨slotS 8, 8, by decide, rfl, rfl⟩
theorem witness_SlotActionsComplete_periodic : ∃ (s : State) (k : SlotId), 8 ≤ k.val ∧ s.slotActs k = true ∧ (s.slot k).period ≠ 0 :=
  ⟨cadS { slots := [(15, { fire := true, period := 1 })] } 0, 15, by decide, rfl, by decide⟩

/-- A package whose region 0 is on its way to a state. -/
def goS (g : RegionState) : State := { State.reset with regions := [(0, { st := .transition, goal := g })] }
/-- A package that evaluates its power. -/
def pwrS : State := { lit tile0 ctx0 with us := 10 }

theorem witness_PowerEventsComplete_1 : ∃ (s : State) (w : Nat),
    s.awake = true :=
  ⟨State.reset, 7200, rfl⟩

theorem witness_PowerEventsComplete_2 : ∃ (s : State) (ts : List (Nat × Nat)),
    s.pwr.evalUs + 10 ≤ s.us ∧
    s.powerRuns = true ∧
    let s0 := takeTemps ts s

    let d := s0.pwr.d1ms

    let l := s0.evalLimit

    let s1 := noteEvaluation l d (s0.allGroups.any s0.groupHot) (applyDuty (dutyAction l s0.pwr.d10 d) s0)

    let s2 := forAll s0.groups (stepRules (decide (d < 85 * l))) s1

    let s3 := if s2.unreachable then flagTally 512 { s2 with pwr := { s2.pwr with unreach := true } } else s2

    d ≤ 9200000 :=
  ⟨pwrS, [], by decide, rfl, by decide +kernel⟩

theorem witness_PowerEventsComplete_2b : ∃ (s : State) (ts : List (Nat × Nat)),
    s.pwr.evalUs + 10 ≤ s.us ∧
    s.powerRuns = true ∧
    let s0 := takeTemps ts s

    let d := s0.pwr.d1ms

    let l := s0.evalLimit

    let s1 := noteEvaluation l d (s0.allGroups.any s0.groupHot) (applyDuty (dutyAction l s0.pwr.d10 d) s0)

    let s2 := forAll s0.groups (stepRules (decide (d < 85 * l))) s1

    let s3 := if s2.unreachable then flagTally 512 { s2 with pwr := { s2.pwr with unreach := true } } else s2

    9200000 < d :=
  ⟨{ pwrS with pwr := { pwrS.pwr with samples := List.replicate 1000 9201 } }, [], by decide, rfl, by decide +kernel⟩

theorem witness_PowerEventsComplete_3 : ∃ (s : State) (r : RegionId),
    (s.region r).st = .transition ∧
    let g := s.region r

    g.goal = .dark :=
  ⟨goS .dark, 0, rfl, rfl⟩

theorem witness_PowerEventsComplete_3b : ∃ (s : State) (r : RegionId),
    (s.region r).st = .transition ∧
    let g := s.region r

    g.goal = .lit :=
  ⟨goS .lit, 0, rfl, rfl⟩

theorem witness_PowerEventsComplete_3c : ∃ (s : State) (r : RegionId),
    (s.region r).st = .transition ∧
    let g := s.region r

    g.goal = .banked :=
  ⟨goS .banked, 0, rfl, rfl⟩

theorem witness_PowerEventsComplete_4 : ∃ (s : State) (k : StackId),
    s.envEntry.bank = true ∧
    (s.stack k).st = .active ∧
    (s.stack k).lastReq + 100 ≤ s.us :=
  ⟨{ lit tile0 ctx0 with hbmStacks := [(31, { st := .active })], us := 100, pwr := { State.reset.pwr with env := [{ bank := true }] } }, 31, rfl, rfl, by decide⟩

theorem witness_PowerEventsComplete_5 : ∃ (s : State) (k : StackId) (l : Nat),
    (s.stack k).st ≠ .untrained ∧
    l < stackLines ∧
    let q := s.stack k

    0 + 1 < stackLines :=
  ⟨hbmLit tile0, 0, 0, by decide, by decide, by decide⟩

theorem witness_PowerEventsComplete_5b : ∃ (s : State) (k : StackId) (l : Nat),
    (s.stack k).st ≠ .untrained ∧
    l < stackLines ∧
    let q := s.stack k

    2 ^ 30 - 1 + 1 = stackLines :=
  ⟨hbmLit tile0, 0, 2 ^ 30 - 1, by decide, by decide, rfl⟩

theorem witness_PowerEventsComplete_6 : ∃ (s : State) (k : StackId) (c : Nat),
    s.awake = true ∧
    stackHotAt ≤ c % 2048 :=
  ⟨State.reset, 0, 760, rfl, by decide⟩

theorem witness_PowerEventsComplete_7 : ∃ (s : State) (j : JunctionId) (c : Nat),
    s.awake = true ∧
    s.pins.thermLatch = false ∧
    tripAt ≤ c % 2048 :=
  ⟨State.reset, 23, 840, rfl, rfl, by decide⟩

theorem witness_PowerEventsComplete_8 : ∃ (s : State),
    (∀ r < 24, (s.region r).temp < coolAt) ∧
    (∀ d < 4, (s.die d).temp < coolAt) ∧
    (∀ k < 32, (s.stack k).temp < stackCoolAt) ∧
    s.pins.thermLatch = false :=
  ⟨State.reset, by decide, by decide, by decide, rfl⟩

theorem witness_DutyActionRules_1 : ∃ (l d m : Nat),
    8000000 < 8000001 :=
  ⟨8000000, 8000001, 0, by decide⟩

theorem witness_DutyActionRules_1b : ∃ (l d m : Nat),
    8000000 ≤ 8000000 ∧
    98 * 8000000 < 100 * 8000000 :=
  ⟨8000000, 8000000, 0, by decide, by decide⟩

theorem witness_DutyActionRules_1c : ∃ (l d m : Nat),
    100 * 7199999 < 90 * 8000000 ∧
    7199999 < 90 * 8000000 :=
  ⟨8000000, 7199999, 7199999, by decide, by decide⟩

theorem witness_DutyActionRules_2 : ∃ (l d d' m a : Nat),
    d ≤ d' ∧
    a ≤ 56 :=
  ⟨8000000, 7000000, 9000000, 7000000, 56, by decide, by decide⟩

theorem witness_DutyActionRules_4 : ∃ (act a : Nat),
    a ≤ 55 :=
  ⟨0, 55, by decide⟩

theorem witness_DutyActionRules_5 : ∃ (l d m a : Nat),
    a ≤ 56 :=
  ⟨8000000, 7000000, 7000000, 56, by decide⟩

/-! ### EVL port -/

/-- A package whose EVL port is up. -/
def evlS (e : Evl) : State := { hbmLit tile0 with evl := { e with up := true } }
/-- Header of a bulk request of n lines at HBM address 0: read or write, on no context. -/
def bulkH (w n : Nat) : BitVec 128 := BitVec.ofNat 128 (w + 0x3F * 2 ^ 8 + n * 2 ^ 32 + 1048576 * 2 ^ 64)
/-- The same into the Woodpile window of tile 0, for context 0. -/
def windowH : BitVec 128 := BitVec.ofNat 128 (8 * 2 ^ 32 + 0x080000000000 * 2 ^ 64)

/-- The same while THERM_ALERT is high. -/
def hotS : State := { evlS {} with pins := { State.reset.pins with thermLatch := true } }

theorem witness_EvlCommandsComplete_1 : ∃ (s : State) (v : BitVec 4),
    s.evlServes = true ∧
    s.evl.up = false ∧
    (lit tile0 ctx0).evl.tried = false :=
  ⟨lit tile0 ctx0, 0xF, rfl, rfl, rfl⟩

theorem witness_EvlCommandsComplete_1b : ∃ (s : State) (v : BitVec 4),
    s.evlServes = true ∧
    s.evl.up = false ∧
    ({ lit tile0 ctx0 with evl := { State.reset.evl with tried := true } } : State).evl.tried = true :=
  ⟨{ lit tile0 ctx0 with evl := { State.reset.evl with tried := true } }, 0x8, rfl, rfl, rfl⟩

theorem witness_EvlCommandsComplete_2 : ∃ (s s1 : State) (q : Word) (good : Bool) (c : Fin 3) (n : Nat) (want : Option (Checked Word)),
    s.evl.up = true ∧
    evlAsked good want s = some s1 ∧
    let e := s1.evl

    let used := sgetD e.credits c 0

    0 = e.rxNext ∧
    used + 128 ≤ evlGrant 0 :=
  ⟨evlS {}, evlS {}, 0, true, 0, 128, none, rfl, rfl, rfl, by decide⟩

theorem witness_EvlCommandsComplete_2b : ∃ (s s1 : State) (q : Word) (good : Bool) (c : Fin 3) (n : Nat) (want : Option (Checked Word)),
    s.evl.up = true ∧
    evlAsked good want s = some s1 ∧
    let e := s1.evl

    let used := sgetD e.credits c 0

    0 = e.rxNext ∧
    evlGrant 0 < used + 129 :=
  ⟨evlS {}, evlS {}, 0, true, 0, 129, none, rfl, rfl, rfl, by decide⟩

theorem witness_EvlCommandsComplete_2c : ∃ (s s1 : State) (q : Word) (good : Bool) (c : Fin 3) (n : Nat) (want : Option (Checked Word)),
    s.evl.up = true ∧
    evlAsked good want s = some s1 ∧
    let e := s1.evl

    let used := sgetD e.credits c 0

    4 ≠ e.rxNext ∧
    seqLater 4 e.rxNext = false :=
  ⟨evlS { rxNext := 5 }, evlS { rxNext := 5 }, 4, true, 0, 0, none, rfl, rfl, by decide, rfl⟩

theorem witness_EvlCommandsComplete_2d : ∃ (s s1 : State) (q : Word) (good : Bool) (c : Fin 3) (n : Nat) (want : Option (Checked Word)),
    s.evl.up = true ∧
    evlAsked good want s = some s1 ∧
    let e := s1.evl

    let used := sgetD e.credits c 0

    0 = e.rxNext ∧
    e.rxWant = some e.rxNext ∧
    e.rxTries + 1 < 8 :=
  ⟨evlS { rxTries := 6, rxWant := some 0 }, evlS { rxTries := 6, rxWant := some 0 }, 0, false, 0, 0, none, rfl, rfl, rfl, rfl, by decide⟩

theorem witness_EvlCommandsComplete_2e : ∃ (s s1 : State) (q : Word) (good : Bool) (c : Fin 3) (n : Nat) (want : Option (Checked Word)),
    s.evl.up = true ∧
    evlAsked good want s = some s1 ∧
    let e := s1.evl

    let used := sgetD e.credits c 0

    0 = e.rxNext ∧
    e.rxWant = some e.rxNext ∧
    8 ≤ e.rxTries + 1 :=
  ⟨evlS { rxTries := 7, rxWant := some 0 }, evlS { rxTries := 7, rxWant := some 0 }, 0, false, 0, 0, none, rfl, rfl, rfl, rfl, by decide⟩

theorem witness_EvlCommandsComplete_2f : ∃ (s s1 : State) (q : Word) (good : Bool) (c : Fin 3) (n : Nat) (want : Option (Checked Word)),
    s.evl.up = true ∧
    evlAsked good want s = some s1 ∧
    let e := s1.evl

    let used := sgetD e.credits c 0

    1 ≠ e.rxNext ∧
    seqLater 1 e.rxNext = true ∧
    e.rxTries < 8 :=
  ⟨evlS { rxTries := 7 }, evlS { rxTries := 7 }, 1, true, 0, 0, none, rfl, rfl, by decide, rfl, by decide⟩

theorem witness_EvlCommandsComplete_3 : ∃ (s : State) (q m : Word) (c : Fin 3) (n : Nat),
    s.evl.up = true ∧
    ((evlS { txNext := 3, txOldest := 1 }).evl.replay 2).isSome = true :=
  ⟨evlS { txNext := 3, txOldest := 1 }, 0, 2, 0, 0, rfl, rfl⟩

theorem witness_EvlCommandsComplete_3b : ∃ (s : State) (q m : Word) (c : Fin 3) (n : Nat),
    s.evl.up = true ∧
    (evlS { txNext := 3, txOldest := 1 }).evl.replay 3 = none :=
  ⟨evlS { txNext := 3, txOldest := 1 }, 0, 3, 0, 0, rfl, rfl⟩

theorem witness_EvlCommandsComplete_4 : ∃ (s : State) (h : BitVec 128) (data : List Byte),
    s.evl.up = true ∧
    let s1 : State := if bWrite h then { s with evl := { s.evl with credits := smod s.evl.credits 1 0 (· - bLines h) } } else s

    bulkRefusal (evlS {}) (bulkH 0 0) = some 0x02 :=
  ⟨evlS {}, bulkH 0 0, [], rfl, rfl⟩

theorem witness_EvlCommandsComplete_4b : ∃ (s : State) (h : BitVec 128) (data : List Byte),
    s.evl.up = true ∧
    let s1 : State := if bWrite h then { s with evl := { s.evl with credits := smod s.evl.credits 1 0 (· - bLines h) } } else s

    bulkRefusal (evlS {}) windowH = none ∧
    (evlS {}).evl.waiting = [] ∧
    (evlS {}).bulkCan false windowH = true ∧
    bWindow windowH = true :=
  ⟨evlS {}, windowH, [], rfl, rfl, rfl, rfl, rfl⟩

theorem witness_EvlCommandsComplete_4c : ∃ (s : State) (h : BitVec 128) (data : List Byte),
    s.evl.up = true ∧
    let s1 : State := if bWrite h then { s with evl := { s.evl with credits := smod s.evl.credits 1 0 (· - bLines h) } } else s

    bulkRefusal (evlS {}) (bulkH 0 64) = none ∧
    (evlS {}).bulkCan false (bulkH 0 64) = true ∧
    bWindow (bulkH 0 64) = false ∧
    bWrite (bulkH 0 64) = false :=
  ⟨evlS {}, bulkH 0 64, [], rfl, rfl, rfl, rfl, rfl⟩

theorem witness_EvlCommandsComplete_4d : ∃ (s : State) (h : BitVec 128) (data : List Byte),
    s.evl.up = true ∧
    let s1 : State := if bWrite h then { s with evl := { s.evl with credits := smod s.evl.credits 1 0 (· - bLines h) } } else s

    bulkRefusal (evlS {}) (bulkH 1 1) = none ∧
    (evlS {}).bulkCan false (bulkH 1 1) = true ∧
    bWindow (bulkH 1 1) = false ∧
    bWrite (bulkH 1 1) = true ∧
    64 = bBytes (bulkH 1 1) :=
  ⟨evlS {}, bulkH 1 1, List.replicate 64 1, rfl, rfl, rfl, rfl, rfl, rfl⟩

theorem witness_EvlCommandsComplete_4e : ∃ (s : State) (h : BitVec 128) (data : List Byte),
    s.evl.up = true ∧
    let s1 : State := if bWrite h then { s with evl := { s.evl with credits := smod s.evl.credits 1 0 (· - bLines h) } } else s

    bulkRefusal hotS (bulkH 0 64) = none ∧
    hotS.evl.waiting = [] ∧
    hotS.bulkCan false (bulkH 0 64) = false :=
  ⟨hotS, bulkH 0 64, [], rfl, rfl, rfl, rfl⟩

theorem witness_EvlCommandsComplete_5 : ∃ (s : State) (a : Nat) (bs : List Byte),
    bs.length = 64 ∧
    let e := s.evl

    let inside := e.up = true ∧ e.winBase ≤ a ∧ a < e.winBase + 4096 * e.winSize

    let v : State := { s with
      evl := { e with cache := e.cache.filter (· ≠ a / 64) }
      snoop := { bytes := [BitVec.ofNat 8 (if inside ∧ a / 64 ∈ e.cache then 1 else 0)] } }

    inside :=
  ⟨evlS { winBase := 4096, winSize := 1 }, 8191, List.replicate 64 0, rfl, by decide⟩

/-! ### Cords -/

/-- A package with one cord link in state k. -/
def linkS (l : Nat) (k : Link) : State := { lit tile0 { ctx0 with cordPorts := 1 } with links := [(l, k)] }
/-- A control word with its complement. -/
def wordOf (kind arg value : Nat) : BitVec 128 := (~~~ (ctlWord kind arg value)) ++ ctlWord kind arg value
/-- A frame sent and not acknowledged. -/
def frame0 (q r : Nat) : CordFrame := { seq := q, replays := r }

theorem witness_CordHandshakeCompletes_1 : ∃ (s : State) (l : LinkId),
    s.linkFree l = true ∧
    (s.link l).st = .absent ∧
    3 ≤ s.boot.stage :=
  ⟨linkS 0 {}, 0, rfl, rfl, by decide⟩

theorem witness_CordHandshakeCompletes_2 : ∃ (s : State) (l : LinkId) (half : Bool),
    s.linkExists l = true ∧
    (s.link l).st = .training :=
  ⟨linkS 0 { st := .training }, 0, true, rfl, rfl⟩

theorem witness_CordHandshakeCompletes_3 : ∃ (s : State) (l : LinkId),
    (s.link l).st = .training :=
  ⟨linkS 0 { st := .training }, 0, rfl⟩

theorem witness_CordHandshakeCompletes_4 : ∃ (s : State) (l : LinkId),
    (s.link l).carries = true :=
  ⟨linkS 0 { st := .up }, 0, rfl⟩

theorem witness_CordHandshakeCompletes_5 : ∃ (s : State) (l : LinkId) (h : List Byte) (ok : Bool),
    (s.link l).st = .authenticating ∧
    (linkS 30 { st := .authenticating }).helloOk 30 (bytesOf 232 []) true = true :=
  ⟨linkS 30 { st := .authenticating }, 30, bytesOf 232 [], true, rfl, by decide +kernel⟩

theorem witness_CordHandshakeCompletes_5b : ∃ (s : State) (l : LinkId) (h : List Byte) (ok : Bool),
    (s.link l).st = .authenticating ∧
    (linkS 30 { st := .authenticating }).helloOk 30 [] false = false :=
  ⟨linkS 30 { st := .authenticating }, 30, [], false, rfl, rfl⟩

theorem witness_CordHandshakeCompletes_6 : ∃ (s : State) (l : LinkId) (h : List Byte),
    (s.link l).st = .authenticating ∧
    let k := s.link l

    let d := leNat ((helloDigest k.helloSent k.helloGot).take 6)

    k.helloGot ≠ [] :=
  ⟨linkS 0 { st := .authenticating, helloGot := [1], helloSent := [2] }, 0, [], rfl, by decide⟩

theorem witness_CordHandshakeCompletes_7 : ∃ (s : State) (l : LinkId) (w : BitVec 128) (ok : Bool),
    (s.link l).st = .authenticating ∧
    let k := s.link l

    let d := leNat ((helloDigest k.helloSent k.helloGot).take 6)

    wordOk 0 = false :=
  ⟨linkS 0 { st := .authenticating }, 0, 0, true, rfl, rfl⟩

theorem witness_CordHandshakeCompletes_7b : ∃ (s : State) (l : LinkId) (w : BitVec 128) (ok : Bool),
    (s.link l).st = .authenticating ∧
    let k := s.link l

    let d := leNat ((helloDigest k.helloSent k.helloGot).take 6)

    wordOk (wordOf 7 0 0) = true ∧
    k.confSent = none :=
  ⟨linkS 0 { st := .authenticating }, 0, wordOf 7 0 0, true, rfl, rfl, rfl⟩

theorem witness_CordHandshakeCompletes_7c : ∃ (s : State) (l : LinkId) (w : BitVec 128) (ok : Bool),
    (s.link l).st = .authenticating ∧
    let k := s.link l

    let d := leNat ((helloDigest k.helloSent k.helloGot).take 6)

    wordOk (wordOf 7 0 (leNat ((helloDigest [] []).take 6))) = true ∧
    k.confSent = some 1 ∧
    wordKind (wordOf 7 0 (leNat ((helloDigest [] []).take 6))) = 7 ∧
    wordValue (wordOf 7 0 (leNat ((helloDigest [] []).take 6))) = d :=
  ⟨linkS 0 { st := .authenticating, confSent := some 1 }, 0, wordOf 7 0 (leNat ((helloDigest [] []).take 6)), true, rfl, by decide +kernel, rfl, by decide +kernel, by decide +kernel⟩

theorem witness_CordHandshakeCompletes_8 : ∃ (s : State) (l : LinkId) (t : Nat),
    let k := s.link l

    1000000 * within s.us 10000000 k.retryTimes < max 1 (within s.us 10000000 k.sentTimes) ∧
    k.st = .degraded :=
  ⟨{ linkS 0 { st := .degraded, degSince := some 0 } with us := 10000000 }, 0, 0, by decide, rfl⟩

theorem witness_CordHandshakeCompletes_8b : ∃ (s : State) (l : LinkId) (t : Nat),
    let k := s.link l

    k.carries = true ∧
    600000000 + 1 ≤ s.us :=
  ⟨{ linkS 0 { st := .up, upSince := some 1 } with us := 600000001 }, 0, 1, rfl, by decide⟩

theorem witness_CordHandshakeCompletes_9 : ∃ (s : State) (src : Source) (l : LinkId) (v : Word),
    (s.link l).st = .quarantined ∧
    s.linkFree l = true ∧
    (linkS 0 {}).serves = true ∧
    (5 : Word).getLsbD 2 = true ∧
    (5 : Word).getLsbD 0 = true ∧
    (5 : Word).getLsbD 1 = ((linkS 0 {}).port 0).splitWant :=
  ⟨{ linkS 0 { st := .quarantined, backoffEnd := 9 } with us := 9 }, .host, 0, 5, rfl, rfl, rfl, rfl, rfl, rfl⟩

theorem witness_CordHandshakeCompletes_9b : ∃ (s : State) (src : Source) (l : LinkId) (v : Word),
    (s.link l).st = .quarantined ∧
    s.linkFree l = true ∧
    (linkS 0 {}).serves = true ∧
    (7 : Word).getLsbD 2 = true ∧
    (7 : Word).getLsbD 0 = true ∧
    (7 : Word).getLsbD 1 ≠ ((linkS 0 {}).port 0).splitWant :=
  ⟨{ linkS 0 { st := .quarantined, backoffEnd := 9 } with us := 9 }, .host, 0, 7, rfl, rfl, rfl, rfl, rfl, by decide⟩

theorem witness_CordHandshakeCompletes_10 : ∃ (s : State) (src : Source) (l : LinkId),
    src ≠ .sideband ∧
    s.serves = true ∧
    s.linkExists l = true ∧
    (s.link l).enable = true :=
  ⟨linkS 0 { st := .up }, .host, 0, by decide, rfl, rfl, rfl⟩

theorem witness_CordHandshakeCompletes_11 : ∃ (s : State) (src : Source) (p : PortId),
    src ≠ .sideband ∧
    s.serves = true ∧
    (s.link (2 * p.val)).enable = true ∧
    s.portQuiet p = true ∧
    (s.port p).splitWant = false ∧
    (s.port p).split = false :=
  ⟨linkS 0 {}, .host, 15, by decide, rfl, rfl, rfl, rfl, rfl⟩

/-- The word w as the first word of the frame of SEQ q, and as a later word of it. -/
def cw (w : BitVec 128) (q : BitVec 24 := 0) : CordWord := ⟨w, q, true⟩
def cwNext (w : BitVec 128) (q : BitVec 24 := 0) : CordWord := ⟨w, q, false⟩

theorem witness_CordTrafficCompletes_1 : ∃ (s : State) (l : LinkId) (q : CordWord),
    (s.link l).carries = true ∧
    wordOk q.bits = true ∧
    q.first = true ∧
    (s.link l).place q.seq.toNat = .due ∧
    (s.link l).again = 0 ∧
    let k := s.link l

    let w := q.bits

    let next := (k.rxNext + 1) % 2 ^ 24

    let took : Link := { k with framesRx := k.framesRx + 1, cnt := smod k.cnt 1 0 (· + 1), rxNext := next, twice := false }

    let got : Link := { took with ctlOut := k.ctlOut ++ [ctlWord 1 0 ((next + 2 ^ 24 - 1) % 2 ^ 24)] }

    let v := wordValue w % 2 ^ 24

    let new : List CordFrame := (k.txQ.dropWhile (fun f => f.seq ≠ v)).map (fun f => { f with replays := f.replays + 1 })

    let k2 : Link := { got with
      txQ := k.txQ.takeWhile (fun f => f.seq ≠ v) ++ new
      frames := k.frames + new.length
      cnt := smod got.cnt 2 0 (· + BitVec.ofNat 64 new.length)
      retryTimes := List.replicate new.length s.us ++ k.retryTimes.filter (fun t => s.us < 10000000 + t) }

    (∃ f ∈ k.txQ, f.seq = v) :=
  ⟨linkS 0 { st := .degraded, txQ := [frame0 0 0, frame0 1 14] }, 0, cw (wordOf 1 0 0), rfl, by decide +kernel, rfl, by decide +kernel, rfl, by decide⟩

theorem witness_CordTrafficCompletes_1b : ∃ (s : State) (l : LinkId) (q : CordWord),
    (s.link l).carries = true ∧
    wordOk q.bits = true ∧
    q.first = true ∧
    (s.link l).place q.seq.toNat = .due ∧
    (s.link l).again = 0 ∧
    let k := s.link l

    let w := q.bits

    let next := (k.rxNext + 1) % 2 ^ 24

    let took : Link := { k with framesRx := k.framesRx + 1, cnt := smod k.cnt 1 0 (· + 1), rxNext := next, twice := false }

    let got : Link := { took with ctlOut := k.ctlOut ++ [ctlWord 1 0 ((next + 2 ^ 24 - 1) % 2 ^ 24)] }

    let v := wordValue w % 2 ^ 24

    let new : List CordFrame := (k.txQ.dropWhile (fun f => f.seq ≠ v)).map (fun f => { f with replays := f.replays + 1 })

    let k2 : Link := { got with
      txQ := k.txQ.takeWhile (fun f => f.seq ≠ v) ++ new
      frames := k.frames + new.length
      cnt := smod got.cnt 2 0 (· + BitVec.ofNat 64 new.length)
      retryTimes := List.replicate new.length s.us ++ k.retryTimes.filter (fun t => s.us < 10000000 + t) }

    (∃ f ∈ k.txQ, f.seq = v) ∧
    (∀ f ∈ new, f.replays < 16) :=
  ⟨linkS 0 { st := .degraded, txQ := [frame0 0 0, frame0 1 14] }, 0, cw (wordOf 2 0 1), rfl, by decide +kernel, rfl, by decide +kernel, rfl, by decide, by decide⟩

theorem witness_CordTrafficCompletes_1c : ∃ (s : State) (l : LinkId) (q : CordWord),
    (s.link l).carries = true ∧
    wordOk q.bits = true ∧
    q.first = true ∧
    (s.link l).place q.seq.toNat = .due ∧
    (s.link l).again = 0 ∧
    let k := s.link l

    let w := q.bits

    let next := (k.rxNext + 1) % 2 ^ 24

    let took : Link := { k with framesRx := k.framesRx + 1, cnt := smod k.cnt 1 0 (· + 1), rxNext := next, twice := false }

    let got : Link := { took with ctlOut := k.ctlOut ++ [ctlWord 1 0 ((next + 2 ^ 24 - 1) % 2 ^ 24)] }

    let v := wordValue w % 2 ^ 24

    let new : List CordFrame := (k.txQ.dropWhile (fun f => f.seq ≠ v)).map (fun f => { f with replays := f.replays + 1 })

    let k2 : Link := { got with
      txQ := k.txQ.takeWhile (fun f => f.seq ≠ v) ++ new
      frames := k.frames + new.length
      cnt := smod got.cnt 2 0 (· + BitVec.ofNat 64 new.length)
      retryTimes := List.replicate new.length s.us ++ k.retryTimes.filter (fun t => s.us < 10000000 + t) }

    (∃ f ∈ k.txQ, f.seq = v) ∧
    (∃ f ∈ new, 16 ≤ f.replays) :=
  ⟨linkS 0 { st := .up, txQ := [frame0 0 0, frame0 1 15] }, 0, cw (wordOf 2 0 1), rfl, by decide +kernel, rfl, by decide +kernel, rfl, by decide, by decide⟩

theorem witness_CordTrafficCompletes_1d : ∃ (s : State) (l : LinkId) (q : CordWord),
    (s.link l).carries = true ∧
    wordOk q.bits = true ∧
    q.first = true ∧
    (s.link l).place q.seq.toNat = .due ∧
    (s.link l).again = 0 ∧
    let k := s.link l

    let w := q.bits

    let next := (k.rxNext + 1) % 2 ^ 24

    let took : Link := { k with framesRx := k.framesRx + 1, cnt := smod k.cnt 1 0 (· + 1), rxNext := next, twice := false }

    let got : Link := { took with ctlOut := k.ctlOut ++ [ctlWord 1 0 ((next + 2 ^ 24 - 1) % 2 ^ 24)] }

    let v := wordValue w % 2 ^ 24

    let new : List CordFrame := (k.txQ.dropWhile (fun f => f.seq ≠ v)).map (fun f => { f with replays := f.replays + 1 })

    let k2 : Link := { got with
      txQ := k.txQ.takeWhile (fun f => f.seq ≠ v) ++ new
      frames := k.frames + new.length
      cnt := smod got.cnt 2 0 (· + BitVec.ofNat 64 new.length)
      retryTimes := List.replicate new.length s.us ++ k.retryTimes.filter (fun t => s.us < 10000000 + t) }

    (∀ f ∈ k.txQ, f.seq ≠ v) ∧
    v ≠ k.txNext :=
  ⟨linkS 0 { st := .up, txNext := 7 }, 0, cw (wordOf 2 0 8), rfl, by decide +kernel, rfl, by decide +kernel, rfl, by decide, by decide⟩

theorem witness_CordTrafficCompletes_1e : ∃ (s : State) (l : LinkId) (q : CordWord),
    (s.link l).carries = true ∧
    wordOk q.bits = true ∧
    q.first = true ∧
    (s.link l).place q.seq.toNat = .due ∧
    (s.link l).again = 0 ∧
    let k := s.link l

    let w := q.bits

    let next := (k.rxNext + 1) % 2 ^ 24

    let took : Link := { k with framesRx := k.framesRx + 1, cnt := smod k.cnt 1 0 (· + 1), rxNext := next, twice := false }

    let got : Link := { took with ctlOut := k.ctlOut ++ [ctlWord 1 0 ((next + 2 ^ 24 - 1) % 2 ^ 24)] }

    let v := wordValue w % 2 ^ 24

    let new : List CordFrame := (k.txQ.dropWhile (fun f => f.seq ≠ v)).map (fun f => { f with replays := f.replays + 1 })

    let k2 : Link := { got with
      txQ := k.txQ.takeWhile (fun f => f.seq ≠ v) ++ new
      frames := k.frames + new.length
      cnt := smod got.cnt 2 0 (· + BitVec.ofNat 64 new.length)
      retryTimes := List.replicate new.length s.us ++ k.retryTimes.filter (fun t => s.us < 10000000 + t) }

    2 < wordArg (wordOf 3 3 0) :=
  ⟨linkS 0 { st := .up, rxNext := 0xFFFFFF }, 0, cw (wordOf 3 3 0) 0xFFFFFF, rfl, by decide +kernel, rfl, by decide +kernel, rfl, by decide⟩

theorem witness_CordTrafficCompletes_1f : ∃ (s : State) (l : LinkId) (q : CordWord),
    (s.link l).carries = true ∧
    wordOk q.bits = true ∧
    q.first = true ∧
    (s.link l).place q.seq.toNat = .due ∧
    (s.link l).again = 0 ∧
    let k := s.link l

    let w := q.bits

    let next := (k.rxNext + 1) % 2 ^ 24

    let took : Link := { k with framesRx := k.framesRx + 1, cnt := smod k.cnt 1 0 (· + 1), rxNext := next, twice := false }

    let got : Link := { took with ctlOut := k.ctlOut ++ [ctlWord 1 0 ((next + 2 ^ 24 - 1) % 2 ^ 24)] }

    let v := wordValue w % 2 ^ 24

    let new : List CordFrame := (k.txQ.dropWhile (fun f => f.seq ≠ v)).map (fun f => { f with replays := f.replays + 1 })

    let k2 : Link := { got with
      txQ := k.txQ.takeWhile (fun f => f.seq ≠ v) ++ new
      frames := k.frames + new.length
      cnt := smod got.cnt 2 0 (· + BitVec.ofNat 64 new.length)
      retryTimes := List.replicate new.length s.us ++ k.retryTimes.filter (fun t => s.us < 10000000 + t) }

    wordArg (wordOf 3 2 64) ≤ 2 :=
  ⟨linkS 0 { st := .up, credit := [(2, 64)] }, 0, cw (wordOf 3 2 64), rfl, by decide +kernel, rfl, by decide +kernel, rfl, by decide⟩

theorem witness_CordTrafficCompletes_1g : ∃ (s : State) (l : LinkId) (q : CordWord),
    (s.link l).carries = true ∧
    wordOk q.bits = true ∧
    q.first = true ∧
    (s.link l).place q.seq.toNat = .due ∧
    (s.link l).again = 0 ∧
    let k := s.link l

    let w := q.bits

    let next := (k.rxNext + 1) % 2 ^ 24

    let took : Link := { k with framesRx := k.framesRx + 1, cnt := smod k.cnt 1 0 (· + 1), rxNext := next, twice := false }

    let got : Link := { took with ctlOut := k.ctlOut ++ [ctlWord 1 0 ((next + 2 ^ 24 - 1) % 2 ^ 24)] }

    let v := wordValue w % 2 ^ 24

    let new : List CordFrame := (k.txQ.dropWhile (fun f => f.seq ≠ v)).map (fun f => { f with replays := f.replays + 1 })

    let k2 : Link := { got with
      txQ := k.txQ.takeWhile (fun f => f.seq ≠ v) ++ new
      frames := k.frames + new.length
      cnt := smod got.cnt 2 0 (· + BitVec.ofNat 64 new.length)
      retryTimes := List.replicate new.length s.us ++ k.retryTimes.filter (fun t => s.us < 10000000 + t) }

    s.ctx (wordArg (wordOf 4 0 0)) = some { ctx0 with cordPorts := 1 } ∧
    Ctx.permits { ctx0 with cordPorts := 1 } 0 = true ∧
    wordValue (wordOf 4 0 0) = ctx0.superstep :=
  ⟨linkS 0 { st := .up }, 0, cw (wordOf 4 0 0), rfl, by decide +kernel, rfl, by decide +kernel, rfl, rfl, rfl, rfl⟩

theorem witness_CordTrafficCompletes_1h : ∃ (s : State) (l : LinkId) (q : CordWord),
    (s.link l).carries = true ∧
    wordOk q.bits = true ∧
    q.first = true ∧
    (s.link l).place q.seq.toNat = .due ∧
    (s.link l).again = 0 ∧
    let k := s.link l

    let w := q.bits

    let next := (k.rxNext + 1) % 2 ^ 24

    let took : Link := { k with framesRx := k.framesRx + 1, cnt := smod k.cnt 1 0 (· + 1), rxNext := next, twice := false }

    let got : Link := { took with ctlOut := k.ctlOut ++ [ctlWord 1 0 ((next + 2 ^ 24 - 1) % 2 ^ 24)] }

    let v := wordValue w % 2 ^ 24

    let new : List CordFrame := (k.txQ.dropWhile (fun f => f.seq ≠ v)).map (fun f => { f with replays := f.replays + 1 })

    let k2 : Link := { got with
      txQ := k.txQ.takeWhile (fun f => f.seq ≠ v) ++ new
      frames := k.frames + new.length
      cnt := smod got.cnt 2 0 (· + BitVec.ofNat 64 new.length)
      retryTimes := List.replicate new.length s.us ++ k.retryTimes.filter (fun t => s.us < 10000000 + t) }

    s.ctx (wordArg (wordOf 4 0 1)) = some { ctx0 with cordPorts := 1 } ∧
    wordValue (wordOf 4 0 1) ≠ ctx0.superstep :=
  ⟨linkS 0 { st := .up }, 0, cw (wordOf 4 0 1), rfl, by decide +kernel, rfl, by decide +kernel, rfl, rfl, by decide⟩

theorem witness_CordTrafficCompletes_1i : ∃ (s : State) (l : LinkId) (q : CordWord),
    (s.link l).carries = true ∧
    wordOk q.bits = true ∧
    q.first = true ∧
    (s.link l).place q.seq.toNat = .due ∧
    (s.link l).again = 0 ∧
    let k := s.link l

    let w := q.bits

    let next := (k.rxNext + 1) % 2 ^ 24

    let took : Link := { k with framesRx := k.framesRx + 1, cnt := smod k.cnt 1 0 (· + 1), rxNext := next, twice := false }

    let got : Link := { took with ctlOut := k.ctlOut ++ [ctlWord 1 0 ((next + 2 ^ 24 - 1) % 2 ^ 24)] }

    let v := wordValue w % 2 ^ 24

    let new : List CordFrame := (k.txQ.dropWhile (fun f => f.seq ≠ v)).map (fun f => { f with replays := f.replays + 1 })

    let k2 : Link := { got with
      txQ := k.txQ.takeWhile (fun f => f.seq ≠ v) ++ new
      frames := k.frames + new.length
      cnt := smod got.cnt 2 0 (· + BitVec.ofNat 64 new.length)
      retryTimes := List.replicate new.length s.us ++ k.retryTimes.filter (fun t => s.us < 10000000 + t) }

    s.cad.opened = false :=
  ⟨linkS 0 { st := .up }, 0, cw (wordOf 5 0 9), rfl, by decide +kernel, rfl, by decide +kernel, rfl, rfl⟩

theorem witness_CordTrafficCompletes_1j : ∃ (s : State) (l : LinkId) (q : CordWord),
    (s.link l).carries = true ∧
    wordOk q.bits = true ∧
    q.first = true ∧
    (s.link l).place q.seq.toNat = .due ∧
    (s.link l).again = 0 ∧
    let k := s.link l

    let w := q.bits

    let next := (k.rxNext + 1) % 2 ^ 24

    let took : Link := { k with framesRx := k.framesRx + 1, cnt := smod k.cnt 1 0 (· + 1), rxNext := next, twice := false }

    let got : Link := { took with ctlOut := k.ctlOut ++ [ctlWord 1 0 ((next + 2 ^ 24 - 1) % 2 ^ 24)] }

    let v := wordValue w % 2 ^ 24

    let new : List CordFrame := (k.txQ.dropWhile (fun f => f.seq ≠ v)).map (fun f => { f with replays := f.replays + 1 })

    let k2 : Link := { got with
      txQ := k.txQ.takeWhile (fun f => f.seq ≠ v) ++ new
      frames := k.frames + new.length
      cnt := smod got.cnt 2 0 (· + BitVec.ofNat 64 new.length)
      retryTimes := List.replicate new.length s.us ++ k.retryTimes.filter (fun t => s.us < 10000000 + t) }

    k.rekey = 0 ∧
    wordArg (wordOf 6 1 0) = 1 :=
  ⟨linkS 0 { st := .up }, 0, cw (wordOf 6 1 0), rfl, by decide +kernel, rfl, by decide +kernel, rfl, rfl, rfl⟩

theorem witness_CordTrafficCompletes_1k : ∃ (s : State) (l : LinkId) (q : CordWord),
    (s.link l).carries = true ∧
    wordOk q.bits = true ∧
    q.first = true ∧
    (s.link l).place q.seq.toNat = .due ∧
    (s.link l).again = 0 ∧
    let k := s.link l

    let w := q.bits

    let next := (k.rxNext + 1) % 2 ^ 24

    let took : Link := { k with framesRx := k.framesRx + 1, cnt := smod k.cnt 1 0 (· + 1), rxNext := next, twice := false }

    let got : Link := { took with ctlOut := k.ctlOut ++ [ctlWord 1 0 ((next + 2 ^ 24 - 1) % 2 ^ 24)] }

    let v := wordValue w % 2 ^ 24

    let new : List CordFrame := (k.txQ.dropWhile (fun f => f.seq ≠ v)).map (fun f => { f with replays := f.replays + 1 })

    let k2 : Link := { got with
      txQ := k.txQ.takeWhile (fun f => f.seq ≠ v) ++ new
      frames := k.frames + new.length
      cnt := smod got.cnt 2 0 (· + BitVec.ofNat 64 new.length)
      retryTimes := List.replicate new.length s.us ++ k.retryTimes.filter (fun t => s.us < 10000000 + t) }

    k.rekey = 2 ∧
    wordArg (wordOf 6 2 0) = 2 :=
  ⟨linkS 0 { st := .up, rekey := 2 }, 0, cw (wordOf 6 2 0), rfl, by decide +kernel, rfl, by decide +kernel, rfl, rfl, rfl⟩

theorem witness_CordTrafficCompletes_1l : ∃ (s : State) (l : LinkId) (q : CordWord),
    (s.link l).carries = true ∧
    wordOk q.bits = true ∧
    q.first = true ∧
    (s.link l).place q.seq.toNat = .due ∧
    (s.link l).again = 0 ∧
    let k := s.link l

    let w := q.bits

    let next := (k.rxNext + 1) % 2 ^ 24

    let took : Link := { k with framesRx := k.framesRx + 1, cnt := smod k.cnt 1 0 (· + 1), rxNext := next, twice := false }

    let got : Link := { took with ctlOut := k.ctlOut ++ [ctlWord 1 0 ((next + 2 ^ 24 - 1) % 2 ^ 24)] }

    let v := wordValue w % 2 ^ 24

    let new : List CordFrame := (k.txQ.dropWhile (fun f => f.seq ≠ v)).map (fun f => { f with replays := f.replays + 1 })

    let k2 : Link := { got with
      txQ := k.txQ.takeWhile (fun f => f.seq ≠ v) ++ new
      frames := k.frames + new.length
      cnt := smod got.cnt 2 0 (· + BitVec.ofNat 64 new.length)
      retryTimes := List.replicate new.length s.us ++ k.retryTimes.filter (fun t => s.us < 10000000 + t) }

    k.rekey = 1 ∧
    wordArg (wordOf 6 2 0) = 2 :=
  ⟨linkS 0 { st := .up, rekey := 1 }, 0, cw (wordOf 6 2 0), rfl, by decide +kernel, rfl, by decide +kernel, rfl, rfl, rfl⟩

theorem witness_CordTrafficCompletes_2 : ∃ (s : State) (l : LinkId) (q : CordWord),
    (s.link l).carries = true ∧
    wordOk 0 = false :=
  ⟨linkS 0 { st := .up }, 0, cw 0, rfl, rfl⟩

theorem witness_CordTrafficCompletes_2b : ∃ (s : State) (l : LinkId) (q : CordWord),
    (s.link l).carries = true ∧
    wordOk (wordOf 0 0 0) = true ∧
    wordKind (wordOf 0 0 0) = 0 :=
  ⟨linkS 0 { st := .up }, 0, cw (wordOf 0 0 0), rfl, by decide +kernel, rfl⟩

theorem witness_CordTrafficCompletes_2c : ∃ (s : State) (l : LinkId) (q : CordWord),
    (s.link l).carries = true ∧
    wordOk (wordOf 8 0 0) = true ∧
    7 < wordKind (wordOf 8 0 0) :=
  ⟨linkS 0 { st := .up }, 0, cw (wordOf 8 0 0), rfl, by decide +kernel, by decide⟩

theorem witness_CordTrafficCompletes_2d : ∃ (s : State) (l : LinkId) (q : CordWord),
    (s.link l).carries = true ∧
    wordOk (wordOf 3 0 1) = true ∧
    wordKind (wordOf 3 0 1) = 3 ∧
    (s.link l).place q.seq.toNat = .behind :=
  ⟨linkS 0 { st := .up, rxNext := 8 }, 0, cw (wordOf 3 0 1) 7, rfl, by decide +kernel, rfl, by decide +kernel⟩

theorem witness_CordTrafficCompletes_2e : ∃ (s : State) (l : LinkId) (q : CordWord),
    (s.link l).carries = true ∧
    wordOk (wordOf 3 0 1) = true ∧
    wordKind (wordOf 3 0 1) = 3 ∧
    (s.link l).place q.seq.toNat = .ahead :=
  ⟨linkS 0 { st := .up }, 0, cw (wordOf 3 0 1) 512, rfl, by decide +kernel, rfl, by decide +kernel⟩

theorem witness_CordTrafficCompletes_2f : ∃ (s : State) (l : LinkId) (q : CordWord),
    (s.link l).carries = true ∧
    wordOk (wordOf 3 0 1) = true ∧
    wordKind (wordOf 3 0 1) = 3 ∧
    (s.link l).place q.seq.toNat = .outside :=
  ⟨linkS 0 { st := .up }, 0, cw (wordOf 3 0 1) 513, rfl, by decide +kernel, rfl, by decide +kernel⟩

theorem witness_CordTrafficCompletes_2g : ∃ (s : State) (l : LinkId) (q : CordWord),
    (s.link l).carries = true ∧
    wordOk (wordOf 3 0 1) = true ∧
    wordKind (wordOf 3 0 1) = 3 ∧
    (s.link l).place q.seq.toNat = .due ∧
    0 < (s.link l).again :=
  ⟨linkS 0 { st := .up, again := 1 }, 0, cw (wordOf 3 0 1), rfl, by decide +kernel, rfl, by decide +kernel, by decide⟩

theorem witness_CordTrafficCompletes_2h : ∃ (s : State) (l : LinkId) (q : CordWord),
    (s.link l).carries = true ∧
    wordOk (wordOf 3 2 1) = true ∧
    wordKind (wordOf 3 2 1) = 3 ∧
    q.seq + 1 = BitVec.ofNat 24 (s.link l).rxNext ∧
    (s.link l).twice = false ∧
    wordArg q.bits ≤ 2 :=
  ⟨linkS 0 { st := .up }, 0, cwNext (wordOf 3 2 1) 0xFFFFFF, rfl, by decide +kernel, rfl, by decide +kernel, rfl, by decide⟩

theorem witness_CordTrafficCompletes_2i : ∃ (s : State) (l : LinkId) (q : CordWord),
    (s.link l).carries = true ∧
    wordOk (wordOf 3 0 1) = true ∧
    wordKind (wordOf 3 0 1) = 3 ∧
    (s.link l).twice = true :=
  ⟨linkS 0 { st := .up, twice := true }, 0, cwNext (wordOf 3 0 1), rfl, by decide +kernel, rfl, by decide +kernel⟩

theorem witness_CordTrafficCompletes_3 : ∃ (s : State) (l : LinkId),
    let k := s.link l

    k.carries = true ∧
    k.rekey = 0 ∧
    (2 ^ 31 ≤ k.frames ∨ 2 ^ 31 ≤ k.framesRx) :=
  ⟨linkS 0 { st := .up, frames := 2 ^ 31 }, 0, rfl, rfl, .inl (by decide)⟩

theorem witness_CordTrafficCompletes_3b : ∃ (s : State) (l : LinkId),
    let k := s.link l

    k.carries = true ∧
    k.rekey = 0 ∧
    (2 ^ 31 ≤ k.frames ∨ 2 ^ 31 ≤ k.framesRx) :=
  ⟨linkS 0 { st := .up, framesRx := 2 ^ 31 }, 0, rfl, rfl, .inr (by decide)⟩

theorem witness_CordTrafficCompletes_4 : ∃ (s : State) (l : LinkId) (h : List Byte),
    let k := s.link l

    k.carries = true ∧
    (k.rekey = 1 ∨ k.rekey = 3) ∧
    (linkS 30 { st := .up, rekey := 1 }).helloOk 30 (bytesOf 232 []) true = true :=
  ⟨linkS 30 { st := .up, rekey := 1 }, 30, bytesOf 232 [], rfl, .inl rfl, by decide +kernel⟩

theorem witness_CordTrafficCompletes_4b : ∃ (s : State) (l : LinkId) (h : List Byte),
    let k := s.link l

    k.carries = true ∧
    (k.rekey = 1 ∨ k.rekey = 3) ∧
    k.helloGot ≠ [] :=
  ⟨linkS 0 { st := .up, rekey := 3, helloGot := [1] }, 0, [], rfl, .inr rfl, by decide⟩

theorem witness_CordTrafficCompletes_5 : ∃ (s : State) (l : LinkId) (b : List Byte),
    let k := s.link l

    k.carries = true ∧
    frameKind (bytesOf 16 []) = 0 ∧
    frameClass (bytesOf 16 []) = 0 ∧
    frameSeq (bytesOf 16 []) = k.rxNext ∧
    k.rxNext < 2 ^ 24 ∧
    sgetD k.granted 0 0 < 64 ∧
    s.ctx (frameCtx (bytesOf 16 [])) = some { ctx0 with cordPorts := 1 } ∧
    Ctx.permits { ctx0 with cordPorts := 1 } 0 = true ∧
    frameMatch (bytesOf 16 []) % 2048 < 16 ∧
    k.again = 0 :=
  ⟨linkS 0 { st := .up }, 0, bytesOf 16 [], rfl, rfl, rfl, rfl, by decide, by decide, rfl, rfl, by decide, rfl⟩

theorem witness_CordTrafficCompletes_5b : ∃ (s : State) (l : LinkId) (b : List Byte),
    let k := s.link l

    k.carries = true ∧
    frameKind (bytesOf 16 []) = 0 ∧
    frameClass (bytesOf 16 []) = 0 ∧
    frameSeq (bytesOf 16 []) = k.rxNext ∧
    sgetD k.granted 0 0 < 64 ∧
    0 < k.again :=
  ⟨linkS 0 { st := .up, again := 1 }, 0, bytesOf 16 [], rfl, rfl, rfl, rfl, by decide, by decide⟩

theorem witness_CordTrafficCompletes_5c : ∃ (s : State) (l : LinkId) (b : List Byte),
    let k := s.link l

    k.carries = true ∧
    frameSeq (bytesOf 16 [(1, 255), (2, 255), (3, 255), (4, 63)]) = k.rxNext ∧
    k.rxNext < 2 ^ 24 ∧
    s.ctx (frameCtx (bytesOf 16 [(1, 255), (2, 255), (3, 255), (4, 63)])) = none ∧
    k.again = 0 :=
  ⟨linkS 0 { st := .up, rxNext := 0xFFFFFF }, 0, bytesOf 16 [(1, 255), (2, 255), (3, 255), (4, 63)], rfl, rfl, by decide, rfl, rfl⟩

theorem witness_CordTrafficCompletes_5d : ∃ (s : State) (l : LinkId) (b : List Byte),
    let k := s.link l

    k.carries = true ∧
    (k.tagTimes.filter (fun t => s.us < 1000000 + t)).length < 8 :=
  ⟨linkS 0 { st := .up, tagTimes := List.replicate 7 0 }, 0, [], rfl, by decide⟩

theorem witness_CordTrafficCompletes_5e : ∃ (s : State) (l : LinkId) (b : List Byte),
    let k := s.link l

    k.carries = true ∧
    8 ≤ (k.tagTimes.filter (fun t => s.us < 1000000 + t)).length :=
  ⟨linkS 0 { st := .up, tagTimes := List.replicate 8 0 }, 0, [], rfl, by decide⟩

theorem witness_CordTrafficCompletes_6 : ∃ (s : State) (n : CtxId) (c : Ctx) (k : Nat),
    s.ctx n = some c ∧
    c.sysTicks = some k ∧
    c.sysT ≤ k ∧
    let missing := (s.ctxLinks c).filter (fun l => !c.arriveIn.contains l)

    missing ≠ [] :=
  ⟨lit tile0 { ctx0 with cordPorts := 1, sysTicks := some 1000, sysT := 1000 }, 0, { ctx0 with cordPorts := 1, sysTicks := some 1000, sysT := 1000 }, 1000, rfl, rfl, by decide, by decide⟩

theorem witness_BackoffDoublesToCap_1 : ∃ n,
    1 ≤ n ∧
    n ≤ 11 :=
  ⟨11, by decide, by decide⟩

theorem witness_BackoffDoublesToCap_1b : ∃ n,
    1 ≤ n ∧
    n ≤ 11 :=
  ⟨1, by decide, by decide⟩

theorem witness_BackoffDoublesToCap_2 : ∃ n,
    11 ≤ n :=
  ⟨12, by decide⟩

theorem witness_TrainingKeepsUnacknowledged_1 : ∃ (s : State) (l : Nat),
    s.linkExists l = true ∧
    (s.port (l / 2)).split = (s.port (l / 2)).splitWant ∧
    let u := enterTraining l s

    let k := u.link l

    (s.link l).txQ[0]? = some (frame0 4 3) ∧
    (frame0 4 3).cls ≠ 3 :=
  ⟨linkS 0 { st := .up, txQ := [frame0 4 3] }, 0, rfl, rfl, rfl, by decide⟩

theorem witness_TrainingKeepsUnacknowledged_1b : ∃ (s : State) (l : Nat),
    s.linkExists l = true ∧
    (s.port (l / 2)).split = (s.port (l / 2)).splitWant ∧
    let u := enterTraining l s

    let k := u.link l

    (s.link l).txQ[0]? = some { frame0 4 3 with cls := 3 } :=
  ⟨linkS 0 { st := .up, txQ := [{ frame0 4 3 with cls := 3 }] }, 0, rfl, rfl, rfl⟩

/-! ### Role commands and the Settings Store -/

/-- A role command with no signature bytes of its own: the verdicts are operands. -/
def roleCmd (role op : Nat) (body : List Byte) : List Byte :=
  natLe 2 1 ++ natLe 1 role ++ natLe 1 0 ++ natLe 2 op ++ natLe 2 body.length ++ natLe 8 0 ++ natLe 8 0 ++ natLe 8 (keyId 0) ++ List.replicate 32 0
    ++ body ++ List.replicate (up64 (64 + body.length) - (64 + body.length)) 0 ++ List.replicate 64 0
def allOk : RoleCheck := { sig := true, poss := true, entry := true, head := true }
/-- A served package with the three keys bound and one audit entry. -/
def roleS : State :=
  { lit tile0 ctx0 with ctxs := [], sec := { State.reset.sec with opKey := some 1, ownKey := some 2, attKey := some 3, audit := [[0]] } }
def regBody : List Byte := [0x18, 0x01, 0x00, 0x58, 0x00, 0x0F, 0x00, 0x00, 0xFF, 0, 0, 0, 0, 0, 0, 0]
def envBody : List Byte := [1, 0, 0, 0, 0, 0, 0, 0, 0x90, 0x01, 10, 0, 0x10, 0x27, 7, 0]
def bindBody : List Byte := 4 :: List.replicate 127 0
def ackBody : List Byte := List.replicate 64 0 ++ sha512 [0]

theorem witness_RoleCommandsComplete_1 : ∃ (s : State) (sb : Bool) (b : List Byte) (chk : RoleCheck),
    s.serves = true ∧
    rcStep s sb b chk = none ∧
    let s1 := noteHead chk (advanceNonce b s)

    let body := rcBody b

    rcOp (roleCmd 2 1 regBody) = 1 :=
  ⟨roleS, false, roleCmd 2 1 regBody, allOk, rfl, by decide +kernel, rfl⟩

theorem witness_RoleCommandsComplete_1b : ∃ (s : State) (sb : Bool) (b : List Byte) (chk : RoleCheck),
    s.serves = true ∧
    rcStep s sb b chk = none ∧
    let s1 := noteHead chk (advanceNonce b s)

    let body := rcBody b

    rcOp (roleCmd 1 2 envBody) = 2 :=
  ⟨roleS, true, roleCmd 1 2 envBody, allOk, rfl, by decide +kernel, rfl⟩

theorem witness_RoleCommandsComplete_1c : ∃ (s : State) (sb : Bool) (b : List Byte) (chk : RoleCheck),
    s.serves = true ∧
    rcStep s sb b chk = none ∧
    let s1 := noteHead chk (advanceNonce b s)

    let body := rcBody b

    rcOp (roleCmd 1 3 (List.replicate 6 0)) = 3 :=
  ⟨roleS, false, roleCmd 1 3 (List.replicate 6 0), allOk, rfl, by decide +kernel, rfl⟩

theorem witness_RoleCommandsComplete_1d : ∃ (s : State) (sb : Bool) (b : List Byte) (chk : RoleCheck),
    s.serves = true ∧
    rcStep s sb b chk = none ∧
    let s1 := noteHead chk (advanceNonce b s)

    let body := rcBody b

    rcOp (roleCmd 2 4 []) = 4 ∧
    s.sec.run = none ∧
    storeRefusal s (s.sec.staged (rcRole (roleCmd 2 4 []))) 0 = none :=
  ⟨roleS, false, roleCmd 2 4 [], allOk, rfl, by decide +kernel, rfl, rfl, rfl⟩

theorem witness_RoleCommandsComplete_1e : ∃ (s : State) (sb : Bool) (b : List Byte) (chk : RoleCheck),
    s.serves = true ∧
    rcStep s sb b chk = none ∧
    let s1 := noteHead chk (advanceNonce b s)

    let body := rcBody b

    rcOp (roleCmd 1 5 []) = 5 :=
  ⟨roleS, false, roleCmd 1 5 [], allOk, rfl, by decide +kernel, rfl⟩

theorem witness_RoleCommandsComplete_1f : ∃ (s : State) (sb : Bool) (b : List Byte) (chk : RoleCheck),
    s.serves = true ∧
    rcStep s sb b chk = none ∧
    let s1 := noteHead chk (advanceNonce b s)

    let body := rcBody b

    rcOp (roleCmd 2 6 bindBody) = 6 :=
  ⟨roleS, false, roleCmd 2 6 bindBody, allOk, rfl, by decide +kernel, rfl⟩

theorem witness_RoleCommandsComplete_1g : ∃ (s : State) (sb : Bool) (b : List Byte) (chk : RoleCheck),
    s.serves = true ∧
    rcStep s sb b chk = none ∧
    let s1 := noteHead chk (advanceNonce b s)

    let body := rcBody b

    rcOp (roleCmd 1 7 []) = 7 ∧
    s.sec.run = none ∧
    s.ctxs = [] ∧
    s.sec.nOwn ≠ 0 ∧
    s.sec.audit.length ≤ 1000 :=
  ⟨roleS, false, roleCmd 1 7 [], allOk, rfl, by decide +kernel, rfl, rfl, rfl, by decide, by decide⟩

theorem witness_RoleCommandsComplete_1h : ∃ (s : State) (sb : Bool) (b : List Byte) (chk : RoleCheck),
    s.serves = true ∧
    rcStep s sb b chk = none ∧
    let s1 := noteHead chk (advanceNonce b s)

    let body := rcBody b

    rcOp (roleCmd 1 8 []) = 8 :=
  ⟨roleS, false, roleCmd 1 8 [], allOk, rfl, by decide +kernel, rfl⟩

theorem witness_RoleCommandsComplete_1i : ∃ (s : State) (sb : Bool) (b : List Byte) (chk : RoleCheck),
    s.serves = true ∧
    rcStep s sb b chk = none ∧
    let s1 := noteHead chk (advanceNonce b s)

    let body := rcBody b

    rcOp (roleCmd 1 9 ackBody) = 9 :=
  ⟨roleS, false, roleCmd 1 9 ackBody, allOk, rfl, by decide +kernel, by decide +kernel⟩

theorem witness_RoleCommandsComplete_1j : ∃ (s : State) (sb : Bool) (b : List Byte) (chk : RoleCheck),
    s.serves = true ∧
    rcStep s sb b chk = none ∧
    let s1 := noteHead chk (advanceNonce b s)

    let body := rcBody b

    rcOp (roleCmd 2 10 (List.replicate 512 1)) = 10 :=
  ⟨roleS, false, roleCmd 2 10 (List.replicate 512 1), allOk, rfl, by decide +kernel, rfl⟩

theorem witness_RoleCommandsComplete_1k : ∃ (s : State) (sb : Bool) (b : List Byte) (chk : RoleCheck),
    s.serves = true ∧
    rcStep s sb b chk = none ∧
    let s1 := noteHead chk (advanceNonce b s)

    let body := rcBody b

    rcOp (roleCmd 3 11 (List.replicate 32 1)) = 11 :=
  ⟨roleS, false, roleCmd 3 11 (List.replicate 32 1), allOk, rfl, by decide +kernel, rfl⟩

theorem witness_FailedCheckRefusesRoleCommand_1 : ∃ (s : State) (sb : Bool) (b : List Byte) (chk : RoleCheck) (k : Nat),
    s.serves = true ∧
    rcStep s sb b chk = some k :=
  ⟨roleS, false, [], allOk, 1, rfl, rfl⟩

theorem witness_FailedCheckRefusesRoleCommand_1b : ∃ (s : State) (sb : Bool) (b : List Byte) (chk : RoleCheck) (k : Nat),
    s.serves = true ∧
    rcStep s sb b chk = some k :=
  ⟨{ roleS with sec := { roleS.sec with identPub := 9 } }, false, roleCmd 1 5 [], allOk, 2, rfl, by decide +kernel⟩

theorem witness_FailedCheckRefusesRoleCommand_1c : ∃ (s : State) (sb : Bool) (b : List Byte) (chk : RoleCheck) (k : Nat),
    s.serves = true ∧
    rcStep s sb b chk = some k :=
  ⟨roleS, false, roleCmd 1 5 [], { allOk with sig := false }, 3, rfl, by decide +kernel⟩

theorem witness_FailedCheckRefusesRoleCommand_1d : ∃ (s : State) (sb : Bool) (b : List Byte) (chk : RoleCheck) (k : Nat),
    s.serves = true ∧
    rcStep s sb b chk = some k :=
  ⟨{ roleS with sec := { roleS.sec with nonces := [(1, 1)] } }, false, roleCmd 1 5 [], allOk, 4, rfl, by decide +kernel⟩

theorem witness_FailedCheckRefusesRoleCommand_1e : ∃ (s : State) (sb : Bool) (b : List Byte) (chk : RoleCheck) (k : Nat),
    s.serves = true ∧
    rcStep s sb b chk = some k :=
  ⟨{ roleS with cad := { roleS.cad with count := BitVec.ofNat 48 (2 ^ 48 - 1) } }, false, roleCmd 1 5 [], allOk, 5, rfl, by decide +kernel⟩

theorem witness_FailedCheckRefusesRoleCommand_1f : ∃ (s : State) (sb : Bool) (b : List Byte) (chk : RoleCheck) (k : Nat),
    s.serves = true ∧
    rcStep s sb b chk = some k :=
  ⟨roleS, false, roleCmd 3 5 [], allOk, 6, rfl, by decide +kernel⟩

/-- The state an answer leaves. -/
def nextOf (o : Host.Outcome State Fault Refusal) : State :=
  match o with
  | .next u => u
  | _ => State.reset

theorem witness_AcceptedNonceIsSpent_1 : ∃ (s u v : State) (sb sb' : Bool) (b b' : List Byte) (chk chk' : RoleCheck),
    s.serves = true ∧
    rcStep s sb b chk = none ∧
    exec (.roleCommand sb b chk) s = .next u ∧
    rcRole b' = rcRole b ∧
    rcNonce b' = rcNonce b ∧
    (sgetD u.sec.nonces (rcRole b) 0).toNat ≤ (sgetD v.sec.nonces (rcRole b) 0).toNat :=
  ⟨roleS, nextOf (exec (.roleCommand false (roleCmd 1 5 []) allOk) roleS), nextOf (exec (.roleCommand false (roleCmd 1 5 []) allOk) roleS), false, true, roleCmd 1 5 [], roleCmd 1 5 [], allOk, allOk, rfl, by decide +kernel, rfl, rfl, rfl, Nat.le_refl _⟩

def runS (r : StoreRun) : State := { roleS with sec := { roleS.sec with run := some r } }

theorem witness_StoresAndReportsComplete_1 : ∃ (s : State) (r : StoreRun),
    s.storesRun = true ∧
    s.sec.run = some r ∧
    r.release = false ∧
    s.sec.waiting = [] :=
  ⟨runS { role := 1 }, { role := 1 }, rfl, rfl, rfl, rfl⟩

theorem witness_StoresAndReportsComplete_2 : ∃ (s : State) (r : StoreRun),
    s.storesRun = true ∧
    s.sec.run = some r ∧
    r.release = true ∧
    s.sec.waiting = [] ∧
    s.forn.pitOn = false :=
  ⟨runS { role := 1, release := true }, { role := 1, release := true }, rfl, rfl, rfl, rfl, rfl⟩

theorem witness_StoresAndReportsComplete_3 : ∃ (s : State) (src : Source) (v : Word),
    src ≠ .sideband ∧
    s.serves = true ∧
    v.getLsbD 0 = true ∧
    let nonce := (List.range 8).flatMap (fun i => natLe 4 (sgetD s.sec.attNonce i 0).toNat)

    s.sec.attSt ≠ 1 :=
  ⟨roleS, .host, 1, by decide, rfl, rfl, by decide⟩

theorem witness_StoresAndReportsComplete_3b : ∃ (s : State) (src : Source) (v : Word),
    src ≠ .sideband ∧
    s.serves = true ∧
    v.getLsbD 0 = true ∧
    let nonce := (List.range 8).flatMap (fun i => natLe 4 (sgetD s.sec.attNonce i 0).toNat)

    s.sec.attSt = 1 :=
  ⟨{ roleS with sec := { roleS.sec with attSt := 1 } }, .cp, 1, by decide, rfl, rfl, rfl⟩

theorem witness_StoresAndReportsComplete_4 : ∃ (s : State) (a : AttBuild) (rest : List AttBuild),
    s.sec.attBuild = a :: rest ∧
    let rep := a.body ++ (Config.sign 0 (sha512 a.body) ++ List.replicate 64 0).take 64

    ({ owner := false } : AttBuild).owner = false :=
  ⟨{ roleS with sec := { roleS.sec with attBuild := [{ owner := false }] } }, { owner := false }, [], rfl, rfl⟩

theorem witness_StoresAndReportsComplete_4b : ∃ (s : State) (a : AttBuild) (rest : List AttBuild),
    s.sec.attBuild = a :: rest ∧
    let rep := a.body ++ (Config.sign 0 (sha512 a.body) ++ List.replicate 64 0).take 64

    ({ owner := true } : AttBuild).owner = true :=
  ⟨{ roleS with sec := { roleS.sec with attBuild := [{ owner := true }] } }, { owner := true }, [], rfl, rfl⟩

theorem witness_NotchesOnlyFall_1 : ∃ (k : Security) (i j : Nat),
    i ≠ j :=
  ⟨{}, 3, 4, by decide⟩

theorem witness_NotchesOnlyFall_2 : ∃ (k : Security) (i n : Nat),
    k.notches i = some n ∧
    (i ≠ 10 ∨ k.debugPol ≠ 3) :=
  ⟨{}, 5, 32, rfl, .inl (by decide)⟩

theorem witness_NotchesOnlyFall_3 : ∃ (k : Security),
    k.debugPol = 3 :=
  ⟨{ debugPol := 3 }, rfl⟩

theorem witness_NotchesOnlyFall_5 : ∃ (s : State) (w : Staged) (n i : Nat),
    i ∈ w.changes s ∧
    s.sec.notches i = some 0 :=
  ⟨{ State.reset with sec := { State.reset.sec with nOwn := 0 } }, { keys := [(7, some 5)] }, 0, 7, by decide +kernel, rfl⟩

theorem witness_NotchesOnlyFall_6 : ∃ (s : State) (sb : Bool) (b : List Byte) (chk : RoleCheck) (k : Nat),
    s.serves = true ∧
    rcStep s sb b chk = none ∧
    rcOp b = 4 ∧
    s.sec.run = none ∧
    s.sec.waiting = [] ∧
    storeRefusal s (s.sec.staged (rcRole b)) 0 = some k :=
  ⟨{ roleS with sec := { roleS.sec with nOwn := 0, stOwn := { keys := [(7, some 5)] } } }, false, roleCmd 2 4 [], allOk, 10, rfl, by decide +kernel, rfl, rfl, rfl, by decide +kernel⟩

/-! ### Start-up and update -/

/-- A package at a stage of its start-up. -/
def stageS (n : Nat) : State := { State.reset with boot := { State.reset.boot with stage := n } }

theorem witness_StartStagesComplete_1 : ∃ s : State,
    s.pins.resetN = false :=
  ⟨{ State.reset with pins := { State.reset.pins with resetN := false } }, rfl⟩

theorem witness_StartStagesComplete_2 : ∃ (s : State) (j a b : Bool),
    s.boot.stage = 1 ∧
    s.awake = true ∧
    s.sec.run = none ∧
    let s1 := enterStage 2 s

    (∃ i, s1.chooseBank true true = some i) :=
  ⟨State.reset, false, true, true, rfl, rfl, rfl, ⟨0, rfl⟩⟩

theorem witness_StartStagesComplete_2b : ∃ (s : State) (j a b : Bool),
    s.boot.stage = 1 ∧
    s.awake = true ∧
    s.sec.run = none ∧
    let s1 := enterStage 2 s

    s1.chooseBank false false = none :=
  ⟨State.reset, false, false, false, rfl, rfl, rfl, rfl⟩

theorem witness_StartStagesComplete_3 : ∃ s : State,
    s.boots 2 = true :=
  ⟨stageS 2, rfl⟩

theorem witness_StartStagesComplete_4 : ∃ s : State,
    s.boots 3 = true ∧
    s.runBank.schema ≤ max s.sec.schemaA s.sec.schemaB ∧
    s.runBank.ashFmt = s.sec.pitFmt :=
  ⟨stageS 3, rfl, by decide, rfl⟩

theorem witness_StartStagesComplete_5 : ∃ s : State,
    s.boots 3 = true ∧
    max s.sec.schemaA s.sec.schemaB < s.runBank.schema ∧
    s.sec.audit.length < 1024 :=
  ⟨{ stageS 3 with boot := { (stageS 3).boot with bankA := { (stageS 3).boot.bankA with schema := 9 } } }, rfl, by decide, by decide⟩

theorem witness_StartStagesComplete_6 : ∃ s : State,
    s.boots 4 = true :=
  ⟨stageS 4, rfl⟩

theorem witness_StartStagesComplete_7 : ∃ (s : State) (r : RegionId) (rs : List RegionId),
    s.boots 4 = true :=
  ⟨stageS 4, 0, [], rfl⟩

theorem witness_StartStagesComplete_8 : ∃ s : State,
    s.boots 5 = true ∧
    s.boot.crossFail = false :=
  ⟨stageS 5, rfl, rfl⟩

theorem witness_StartStagesComplete_9 : ∃ (s : State) (f : BitVec 32),
    s.boots 5 = true ∧
    s.boot.crossFail = false ∧
    f.getLsbD 31 = true ∧
    s.fences.hbmStacks.getLsbD 31 = false :=
  ⟨stageS 5, 0x80000000, rfl, rfl, rfl, rfl⟩

theorem witness_StartStagesComplete_9b : ∃ (s : State) (f : BitVec 32),
    s.boots 5 = true ∧
    s.boot.crossFail = false ∧
    f.getLsbD 31 = false ∧
    (∀ j < 8, f.getLsbD (8 * 0 + j) = true ∧ s.fences.hbmStacks.getLsbD (8 * 0 + j) = false) :=
  ⟨stageS 5, 0xFF, rfl, rfl, rfl, by decide⟩

theorem witness_StartStagesComplete_10 : ∃ s : State,
    s.boot.crossFail = true ∧
    s.boots 5 = true :=
  ⟨{ stageS 5 with boot := { (stageS 5).boot with crossFail := true } }, rfl, rfl⟩

theorem witness_StartStagesComplete_10b : ∃ s : State,
    s.boot.crossFail = true ∧
    s.boots 6 = true :=
  ⟨{ stageS 6 with boot := { (stageS 6).boot with crossFail := true } }, rfl, rfl⟩

theorem witness_StartStagesComplete_11 : ∃ s : State,
    s.boots 6 = true ∧
    s.boot.crossFail = false ∧
    s.pwr.d10 + 2500 ≤ 10 * s.workingC :=
  ⟨stageS 6, rfl, rfl, by decide⟩

theorem witness_StartStagesComplete_12 : ∃ (s : State) (f : BitVec 24) (p : BitVec 20),
    s.boots 6 = true ∧
    s.boot.crossFail = false ∧
    s.pwr.d10 + 2500 ≤ 10 * s.workingC ∧
    f.getLsbD 23 = true ∧
    f.getLsbD 0 = false ∧
    p.getLsbD (16 + dieOfRegion 0) = false ∧
    p.getLsbD 15 = true :=
  ⟨stageS 6, 0x800000, 0x08000, rfl, rfl, by decide, rfl, rfl, rfl, rfl⟩

theorem witness_StartStagesComplete_12b : ∃ (s : State) (f : BitVec 24) (p : BitVec 20),
    s.boots 6 = true ∧
    s.boot.crossFail = false ∧
    s.pwr.d10 + 2500 ≤ 10 * s.workingC ∧
    p.getLsbD (16 + 3) = true ∧
    s.fences.dies.getLsbD 3 = false :=
  ⟨stageS 6, 0, 0x80000, rfl, rfl, by decide, rfl, rfl⟩

theorem witness_StartStagesComplete_13 : ∃ s : State,
    s.boots 7 = true ∧
    (s.boot.flash s.boot.bank).st = .valid :=
  ⟨stageS 7, rfl, rfl⟩

theorem witness_StartStagesComplete_13b : ∃ s : State,
    s.boots 7 = true ∧
    (s.boot.flash s.boot.bank).st = .pending ∧
    s.boot.bank < 2 :=
  ⟨{ stageS 7 with boot := { (stageS 7).boot with bankA := { (stageS 7).boot.bankA with st := .pending } } }, rfl, rfl, by decide⟩

theorem witness_StartStagesComplete_14 : ∃ s : State,
    let b := s.boot

    b.stage ≤ 6 ∧
    b.late = false ∧
    b.recovery = false ∧
    s.summary.dead = false ∧
    b.since + stageLimit b.stage ≤ s.us ∧
    b.stage ≠ 2 ∧
    b.stage ≠ 3 :=
  ⟨{ stageS 6 with us := 2 ^ 24 }, by decide, rfl, rfl, rfl, by decide, by decide, by decide⟩

theorem witness_StartStagesComplete_14b : ∃ s : State,
    let b := s.boot

    b.stage ≤ 6 ∧
    b.late = false ∧
    b.recovery = false ∧
    s.summary.dead = false ∧
    b.since + stageLimit b.stage ≤ s.us ∧
    (b.flash b.bank).st ≠ .pending :=
  ⟨{ stageS 2 with us := 2 ^ 24 }, by decide, rfl, rfl, rfl, by decide, by decide⟩

theorem witness_StartStagesComplete_14c : ∃ s : State,
    let b := s.boot

    b.stage ≤ 6 ∧
    b.late = false ∧
    b.recovery = false ∧
    s.summary.dead = false ∧
    b.since + stageLimit b.stage ≤ s.us ∧
    b.stage = 2 ∧
    (b.flash b.bank).st = .pending :=
  ⟨{ stageS 2 with us := 2 ^ 24, boot := { (stageS 2).boot with bankA := { (stageS 2).boot.bankA with st := .pending } } }, by decide, rfl, rfl, rfl, by decide, rfl, rfl⟩

theorem witness_StartStagesComplete_14d : ∃ s : State,
    let b := s.boot

    b.stage ≤ 6 ∧
    b.late = false ∧
    b.recovery = false ∧
    s.summary.dead = false ∧
    b.since + stageLimit b.stage ≤ s.us ∧
    b.stage = 3 ∧
    (b.flash b.bank).st = .pending :=
  ⟨{ stageS 3 with us := 2 ^ 24, boot := { (stageS 3).boot with bankA := { (stageS 3).boot.bankA with st := .pending } } }, by decide, rfl, rfl, rfl, by decide, rfl, rfl⟩

theorem witness_StartStagesComplete_15 : ∃ s : State,
    s.boot.stage < 8 ∧
    2 ≤ s.boot.stage ∧
    (s.boot.flash s.boot.bank).st = .pending ∧
    s.boot.bank < 2 ∧
    5000000 ≤ s.us :=
  ⟨{ stageS 2 with us := 5000000, boot := { (stageS 2).boot with bankA := { (stageS 2).boot.bankA with st := .pending } } }, by decide, by decide, rfl, by decide, by decide⟩

theorem witness_StartStagesComplete_15b : ∃ s : State,
    s.boot.stage < 8 ∧
    2 ≤ s.boot.stage ∧
    (s.boot.flash s.boot.bank).st = .pending ∧
    s.boot.bank < 2 ∧
    5000000 ≤ s.us :=
  ⟨{ stageS 7 with us := 5000000, boot := { (stageS 7).boot with bankA := { (stageS 7).boot.bankA with st := .pending } } }, by decide, by decide, rfl, by decide, by decide⟩

theorem witness_StartStagesComplete_16 : ∃ (s : State) (r : RegionId) (t : Nat),
    (s.region r).st = .banked ∧
    s.regionFenced r = true ∧
    (s.region r).fencedAt = some t ∧
    1000000 + t ≤ s.us :=
  ⟨{ State.reset with us := 1000007, regions := [(5, { st := .banked, fencedAt := some 7 })], fences := { State.reset.fences with regions := 32 } }, 5, 7, rfl, rfl, rfl, by decide⟩

theorem witness_ResetKeepsStoredSettings_reset : ∃ (s : State) (c : Instr), c = .resetNAssert ∧ s.sec.audit ≠ [] := ⟨roleS, .resetNAssert, rfl, by decide⟩
theorem witness_ResetKeepsStoredSettings_loss : ∃ (s : State) (c : Instr), c = .powerLoss ∧ s.sec.audit ≠ [] := ⟨roleS, .powerLoss, rfl, by decide⟩
theorem witness_ResetKeepsStoredSettings_revert : ∃ s : State,
    s.boot.stage < 8 ∧ 2 ≤ s.boot.stage ∧ (s.boot.flash s.boot.bank).st = .pending ∧ s.boot.bank < 2 ∧ 5000000 ≤ s.us :=
  ⟨{ stageS 7 with us := 5000000, boot := { (stageS 7).boot with bankA := { (stageS 7).boot.bankA with st := .pending } } },
    by decide, by decide, rfl, by decide, by decide⟩

/-- An update block of an operation. -/
def block (op kind : Nat) : List Byte := bytesOf 128 [(0, op), (1, kind)]
def sessS (q : Session) : State := { lit tile0 ctx0 with boot := { (lit tile0 ctx0).boot with session := q } }
/-- A manifest that replaces nothing. -/
def manifest : List Byte := bytesOf 768 [(0, 0x46), (1, 0x4D), (2, 0x4E), (3, 0x46), (4, 1)]
/-- Its block. -/
def manBlock : List Byte :=
  (natLe 1 2 ++ natLe 1 0xF ++ List.replicate 6 0 ++ natLe 4 768 ++ List.replicate 52 0 ++ sha512 manifest ++ manifest ++ List.replicate (4096 - 768) 0)
/-- An image block of 64 KiB. -/
def imgBlock : List Byte :=
  (natLe 1 2 ++ natLe 1 0 ++ List.replicate 6 0 ++ natLe 4 0x10000 ++ List.replicate 52 0 ++ sha512 (List.replicate 0x10000 0) ++ List.replicate 0x10000 0)

theorem witness_UpdateCommandsComplete_1 : ∃ (s : State) (b : List Byte),
    s.serves = true ∧
    ubHeader 1 b = true ∧
    (s.boot.session.st = 0 ∨ s.boot.session.st = 4) :=
  ⟨sessS {}, block 1 0, rfl, rfl, .inl rfl⟩

theorem witness_UpdateCommandsComplete_1b : ∃ (s : State) (b : List Byte),
    s.serves = true ∧
    ubHeader 1 b = true ∧
    (s.boot.session.st = 0 ∨ s.boot.session.st = 4) :=
  ⟨sessS { st := 4 }, block 1 0, rfl, rfl, .inr rfl⟩

theorem witness_UpdateCommandsComplete_2 : ∃ s : State,
    s.boot.session.st = 1 :=
  ⟨sessS { st := 1 }, rfl⟩

theorem witness_UpdateCommandsComplete_3 : ∃ (s : State) (b : List Byte),
    s.serves = true ∧
    s.boot.session.st = 2 ∧
    ubHeader 2 b = true ∧
    ubWhole b = true ∧
    ubDigest b = true ∧
    s.boot.session.man = none ∧
    ubKind manBlock = 0xF ∧
    manifestOk (ubData manBlock) = true :=
  ⟨sessS { st := 2 }, manBlock, rfl, rfl, rfl, by decide +kernel, by decide +kernel, rfl, rfl, by decide +kernel⟩

theorem witness_UpdateCommandsComplete_4 : ∃ (s : State) (b : List Byte) (m : FwBank),
    s.serves = true ∧
    s.boot.session.st = 2 ∧
    ubHeader 3 b = true ∧
    s.boot.session.man = some m ∧
    let q := s.boot.session

    q.nextKind = none ∧
    (∀ i, q.begun.head? = some i → s.imageWhole m i = true) ∧
    pairs m (s.boot.flash s.boot.spare) q.begun (s.pairSet q.begun) = true :=
  ⟨sessS { st := 2, man := some {} }, block 3 0, {}, rfl, rfl, rfl, rfl, rfl, (fun _ h => by cases h), by decide +kernel⟩

theorem witness_UpdateCommandsComplete_5 : ∃ s : State,
    s.serves = true ∧
    (s.boot.session.st = 1 ∨ s.boot.session.st = 2) :=
  ⟨sessS { st := 1 }, rfl, .inl rfl⟩

theorem witness_UpdateCommandsComplete_5b : ∃ s : State,
    s.serves = true ∧
    (s.boot.session.st = 1 ∨ s.boot.session.st = 2) :=
  ⟨sessS { st := 2 }, rfl, .inr rfl⟩

theorem witness_UpdateCommandsComplete_6 : ∃ (s : State) (b : List Byte) (ok : Bool),
    s.serves = true ∧
    ubOp b = 4 ∧
    ubHeader 4 b = true :=
  ⟨sessS { st := 2 }, block 4 0, true, rfl, rfl, rfl⟩

theorem witness_UpdateCommandsComplete_7 : ∃ (s u : State) (c : Instr) (b : List Byte) (ok : Bool),
    s.boot.active < 2 ∧
    c ∈ [Instr.updateBegin b, .updateCopyComplete, .updateBlock b ok, .updateEnd b, .updateAbort] ∧
    exec c s = .next u :=
  ⟨sessS { st := 2 }, nextOf (exec .updateAbort (sessS { st := 2 })), .updateAbort, [], true, by decide, by simp, rfl⟩

/-! ### Registers, forensics and pins -/

def S0 : State := lit tile0 ctx0
/-- Address of a register. -/
def regA (cls inst off : Nat) : Nat := (0x0F00 <<< 32) + (cls <<< 24) + (inst <<< 12) + off
/-- The small package with a value pending on a page from the host. -/
def pendS (k off : Nat) (v : Word) (s : State) : State := s.modPage k (·.setPend .host (some (off, v)))

theorem witness_RegisterAccessRules_1 : ∃ (s : State) (src : Source) (a n : Nat) (v : BitVec 64),
    s.serves = true ∧
    3 % 4 ≠ 0 :=
  ⟨S0, .host, 3, 4, 0, rfl, by decide⟩

theorem witness_RegisterAccessRules_1b : ∃ (s : State) (src : Source) (a n : Nat) (v : BitVec 64),
    s.serves = true ∧
    (2 ≠ 4 ∧ 2 ≠ 8) :=
  ⟨S0, .host, 0, 2, 0, rfl, by decide⟩

theorem witness_RegisterAccessRules_1c : ∃ (s : State) (src : Source) (a n : Nat) (v : BitVec 64),
    s.serves = true ∧
    regA 0x10 1536 0 % 4 = 0 ∧
    regPlace (regA 0x10 1536 0) = none :=
  ⟨S0, .host, regA 0x10 1536 0, 4, 0, rfl, rfl, rfl⟩

theorem witness_RegisterAccessRules_4 : ∃ (cls inst off : Nat),
    cls < 256 ∧
    inst < 4096 ∧
    off < 4096 ∧
    1535 < classCount 0x10 :=
  ⟨0x10, 1535, 4095, by decide, by decide, by decide, by decide⟩

theorem witness_RegisterAccessRules_4b : ∃ (cls inst off : Nat),
    cls < 256 ∧
    inst < 4096 ∧
    off < 4096 ∧
    ¬ 1536 < classCount 0x10 :=
  ⟨0x10, 1536, 0, by decide, by decide, by decide, by decide⟩

theorem witness_RegisterAccessRules_6 : ∃ (s : State) (a n : Nat),
    s.serves = true ∧
    ((n ≠ 4 ∧ n ≠ 8) ∨ a % n ≠ 0) :=
  ⟨S0, 3, 4, rfl, .inr (by decide)⟩

theorem witness_RegisterAccessRules_6b : ∃ (s : State) (a n : Nat),
    s.serves = true ∧
    ((n ≠ 4 ∧ n ≠ 8) ∨ a % n ≠ 0) :=
  ⟨S0, 0, 2, rfl, .inl ⟨by decide, by decide⟩⟩

theorem witness_RegisterAccessRules_7 : ∃ (s : State) (src : Source) (a cls inst off : Nat) (v : BitVec 64),
    s.serves = true ∧
    a % 4 = 0 ∧
    regPlace a = some (cls, inst, off) ∧
    0x40 ≤ off ∧
    s.writeBar cls inst off = false ∧
    roleLocked 0x50 0x104 = true :=
  ⟨S0, .host, regA 0x50 0 0x104, 0x50, 0, 0x104, 0, rfl, rfl, rfl, by decide, rfl, rfl⟩

theorem witness_RegisterAccessRules_7b : ∃ (s : State) (src : Source) (a cls inst off : Nat) (v : BitVec 64),
    s.serves = true ∧
    a % 4 = 0 ∧
    regPlace a = some (cls, inst, off) ∧
    0x40 ≤ off ∧
    s.writeBar cls inst off = false ∧
    roleLocked 0x10 0x120 = false ∧
    cpOnly 0x10 0x120 = true ∧
    src ≠ .cp :=
  ⟨S0, .host, regA 0x10 0 0x120, 0x10, 0, 0x120, 0, rfl, rfl, rfl, by decide, rfl, rfl, rfl, by decide⟩

theorem witness_RegisterAccessRules_7c : ∃ (s : State) (src : Source) (a cls inst off : Nat) (v : BitVec 64),
    s.serves = true ∧
    a % 4 = 0 ∧
    regPlace a = some (cls, inst, off) ∧
    0x40 ≤ off ∧
    s.writeBar cls inst off = false ∧
    unitReg 0x3C 0 0x100 0 s = none :=
  ⟨S0, .host, regA 0x3C 0 0x100, 0x3C, 0, 0x100, 0, rfl, rfl, rfl, by decide, rfl, rfl⟩

theorem witness_RegisterAccessRules_8 : ∃ (s : State) (src : Source) (a cls inst off : Nat) (v : BitVec 64),
    s.serves = true ∧
    a % 8 = 0 ∧
    regPlace a = some (cls, inst, off) ∧
    cls ≠ 0x50 :=
  ⟨S0, .host, regA 0x3C 31 0x040, 0x3C, 31, 0x040, 0x0102030405060708, rfl, rfl, rfl, by decide⟩

theorem witness_RegisterAccessRules_9 : ∃ (s : State) (key blk code : Nat),
    let u := recordFault key blk code s

    let fc := faultCode blk code

    let cls := classOf code

    let p := s.page key

    let q := u.page key

    let before := [2, 3, 7, 6, 4, 5, 1].takeWhile (· ≠ cls)

    (∀ k ∈ before, p.fault.getLsbD k = false) ∧
    p.mask.getLsbD cls = false ∧
    cls ≠ 1 :=
  ⟨S0, pageKey 0x10 1535, 0, 0x03, by decide, rfl, by decide⟩

theorem witness_RegisterAccessRules_9b : ∃ (s : State) (key blk code : Nat),
    let u := recordFault key blk code s

    let fc := faultCode blk code

    let cls := classOf code

    let p := s.page key

    let q := u.page key

    let before := [2, 3, 7, 6, 4, 5, 1].takeWhile (· ≠ cls)

    (∃ k ∈ before, p.fault.getLsbD k = true) ∧
    p.mask.getLsbD cls = true :=
  ⟨S0.modPage (pageKey 0x78 0) (fun p => { p with fault := 4, mask := 0xFF }), pageKey 0x78 0, 0, 0x03, by decide, rfl⟩

theorem witness_RegisterAccessRules_9c : ∃ (s : State) (key blk code : Nat),
    let u := recordFault key blk code s

    let fc := faultCode blk code

    let cls := classOf code

    let p := s.page key

    let q := u.page key

    let before := [2, 3, 7, 6, 4, 5, 1].takeWhile (· ≠ cls)

    cls = 1 :=
  ⟨S0.modPage (pageKey 0x28 0) (fun p => { p with count := 0xFFFF }), pageKey 0x28 0, 0, 0x14, rfl⟩

theorem witness_RegisterCommandsComplete_1 : ∃ (s u : State) (src : Source) (a cls inst off : Nat) (v : BitVec 64),
    s.serves = true ∧
    src ≠ .sideband ∧
    a % 4 = 0 ∧
    regPlace a = some (cls, inst, off) ∧
    0x40 ≤ off ∧
    0x3C ≤ cls ∧
    cls ≠ 0x70 ∧
    roleLocked cls off = false ∧
    unitReg cls inst off (v.setWidth 32) s = some u :=
  ⟨S0, (S0.modStack 31 (fun q => { q with bucketSel := 1023 })).done, .host, regA 0x3C 31 0x110, 0x3C, 31, 0x110, 1023, rfl, by decide, rfl, rfl, by decide, by decide, by decide, rfl, rfl⟩

theorem witness_RegisterCommandsComplete_2 : ∃ (s : State) (src : Source) (r : RegionId),
    src ≠ .sideband ∧
    s.serves = true ∧
    5 ≤ s.stageNow ∧
    s.statues = false ∧
    let k := pageKey 0x28 r

    regPlace (regA 0x28 23 0x108) = some (0x28, 23, 0x108) :=
  ⟨S0, .host, 23, by decide, rfl, by decide, rfl, rfl⟩

theorem witness_RegisterCommandsComplete_2b : ∃ (s : State) (src : Source) (r : RegionId),
    src ≠ .sideband ∧
    s.serves = true ∧
    5 ≤ s.stageNow ∧
    s.statues = false ∧
    let k := pageKey 0x28 r

    (s.page k).pend src = some (0x108, 1) ∧
    s.regionFenced 23 = false ∧
    s.pins.thermLatch = false ∧
    (s.region 23).st = .dark :=
  ⟨pendS (pageKey 0x28 23) 0x108 1 S0, .host, 23, by decide, rfl, by decide, rfl, rfl, rfl, rfl, rfl⟩

theorem witness_RegisterCommandsComplete_2c : ∃ (s : State) (src : Source) (r : RegionId),
    src ≠ .sideband ∧
    s.serves = true ∧
    5 ≤ s.stageNow ∧
    s.statues = false ∧
    let k := pageKey 0x28 r

    (s.page k).pend src = some (0x108, 2) ∧
    (∀ p ∈ s.ctxs, 0 ∉ p.2.regions) ∧
    (s.region 0).st = .lit :=
  ⟨pendS (pageKey 0x28 0) 0x108 2 { S0 with ctxs := [] }, .host, 0, by decide, rfl, by decide, rfl, rfl, by decide, rfl⟩

theorem witness_RegisterCommandsComplete_3 : ∃ (s : State) (src : Source) (v : Word),
    src ≠ .sideband ∧
    s.serves = true ∧
    5 ≤ s.stageNow ∧
    (s.page (pageKey 0x30 0)).pend src = some (0x110, v) ∧
    12 ≤ bf v.toNat 0 4 ∧
    s.ctxs = [] ∧
    s.buckets = [] ∧
    s.forn.pitOn = false ∧
    (∀ p ∈ s.tiles, ∀ o ∈ p.2.ops, o.host = false) ∧
    (∀ w ∈ s.evl.waiting, w.isBulk = false) :=
  ⟨pendS (pageKey 0x30 0) 0x110 12 { S0 with ctxs := [] }, .host, 12, by decide, rfl, by decide, rfl, by decide, rfl, rfl, rfl, by decide, by decide⟩

theorem witness_RegisterCommandsComplete_4 : ∃ (s : State) (src : Source) (r : RingId) (v : Word),
    src ≠ .sideband ∧
    s.serves = true ∧
    s.writesDue = false ∧
    (∀ w ∈ s.evl.waiting, w.bellOf r = false) ∧
    (s.ring r).sqEn = true ∧
    (v - (s.ring r).sqHead).toNat ≤ 2 ^ (s.ring r).sqLog :=
  ⟨{ S0 with evl := { S0.evl with rings := [(15, { sqEn := true, sqLog := 4 })] } }, .host, 15, 16, by decide, rfl, rfl, (fun _ h => by cases h), rfl, by decide⟩

theorem witness_RegisterCommandsComplete_4b : ∃ (s : State) (src : Source) (r : RingId) (v : Word),
    src ≠ .sideband ∧
    s.serves = true ∧
    (∃ w ∈ s.evl.waiting, w.bellOf r = true) :=
  ⟨{ S0 with evl := { S0.evl with waiting := [.bell 15 0] } }, .host, 15, 16, by decide, rfl, ⟨_, .head _, rfl⟩⟩

theorem witness_RegisterCommandsComplete_5 : ∃ (s : State) (src : Source) (r : RingId) (v : Word),
    src ≠ .sideband ∧
    s.serves = true ∧
    v.getLsbD 0 = true ∧
    let k := bf v.toNat 1 5

    4 ≤ k ∧
    k ≤ 16 ∧
    let g := s.ring r

    g.sqEn = false ∧
    s.inWindow g.sqBase (64 * 2 ^ k) = true ∧
    g.eqEn = false ∧
    s.inWindow g.eqBase (64 * 2 ^ k) = true :=
  ⟨{ S0 with evl := { S0.evl with winSize := 1 } }, .host, 15, 9, by decide, rfl, rfl, by decide, by decide, rfl, rfl, rfl, rfl⟩

theorem witness_RegisterCommandsComplete_6 : ∃ (s : State) (src : Source) (k : SlotId) (hi : Bool) (v : Word),
    src ≠ .sideband ∧
    s.serves = true ∧
    8 ≤ k.val ∧
    let x := s.slot k

    x.enable = false :=
  ⟨S0, .host, 15, true, 1, by decide, rfl, by decide, rfl⟩

theorem witness_RegisterCommandsComplete_7 : ∃ (s : State) (t : TileId) (reg : Fin 3) (v : Word),
    s.serves = true ∧
    s.writeBar 0x10 t (0x120 + 4 * reg.val) = false :=
  ⟨S0, 0, 2, 0xFFFFFF, rfl, rfl⟩

theorem witness_RegisterCommandsComplete_8 : ∃ (s : State) (src : Source) (a i : Nat),
    src ≠ .sideband ∧
    s.serves = true ∧
    regPlace (regA 0x3C 31 8) = some (0x3C, 31, 8) :=
  ⟨S0, .host, regA 0x3C 31 8, 31, by decide, rfl, rfl⟩

theorem witness_RegisterCommandsComplete_8b : ∃ (s : State) (src : Source) (a i : Nat),
    src ≠ .sideband ∧
    s.serves = true ∧
    regPlace (regA 0x40 15 8) = some (0x40, 15, 8) :=
  ⟨S0, .host, regA 0x40 15 8, 15, by decide, rfl, rfl⟩

theorem witness_RegisterCommandsComplete_9 : ∃ (s : State) (a t off : Nat) (e : Ecc),
    s.serves = true ∧
    loWord 0x12 off = true ∧
    let lo := s.readWord 0x12 t off

    let hi := s.readWord 0x12 t (off + 4)

    a % 8 = 0 ∧
    regPlace a = some (0x12, t, off) :=
  ⟨S0, regA 0x12 1535 0x2F8, 1535, 0x2F8, .clean, rfl, rfl, rfl, rfl⟩

theorem witness_RegisterCommandsComplete_9b : ∃ (s : State) (a t off : Nat) (e : Ecc),
    s.serves = true ∧
    loWord 0x12 off = true ∧
    let lo := s.readWord 0x12 t off

    let hi := s.readWord 0x12 t (off + 4)

    a % 4 = 0 ∧
    regPlace a = some (0x12, t, off + 4) :=
  ⟨S0, regA 0x12 1535 0x2FC, 1535, 0x2F8, .clean, rfl, rfl, rfl, rfl⟩

theorem witness_RegisterCommandsComplete_10 : ∃ (s : State) (a i off : Nat) (e : Ecc),
    s.serves = true ∧
    a % 4 = 0 ∧
    e ≠ .clean ∧
    regPlace a = some (0x58, i, off) ∧
    0x400 ≤ off ∧
    off < 0x500 ∧
    (sget s.pwr.tallies s.pwr.sel).isSome = true :=
  ⟨{ S0 with pwr := { S0.pwr with tallies := [(0, [])] } }, regA 0x58 0 0x4FC, 0, 0x4FC, .uncorrectable, rfl, rfl, by decide, rfl, by decide, by decide, rfl⟩

theorem witness_RegisterCommandsComplete_10b : ∃ (s : State) (a i off : Nat) (e : Ecc),
    s.serves = true ∧
    a % 4 = 0 ∧
    e ≠ .clean ∧
    regPlace a = some (0x68, i, off) ∧
    0x200 ≤ off ∧
    off < 0x280 ∧
    s.sec.auditSel < s.sec.audit.length :=
  ⟨{ S0 with sec := { S0.sec with audit := [[0]] } }, regA 0x68 0 0x200, 0, 0x200, .corrected, rfl, rfl, by decide, rfl, by decide, by decide, by decide⟩

theorem witness_RegisterCommandsComplete_11 : ∃ (s : State) (a i n : Nat),
    s.serves = true ∧
    (n = 4 ∨ n = 8) ∧
    a % n = 0 ∧
    regPlace a = some (0x78, i, 0x200) :=
  ⟨S0, regA 0x78 0 0x200, 0, 8, rfl, .inr rfl, rfl, rfl⟩

/-- The small package with its ash pit on. -/
def pitS : State := { S0 with ctxs := [], forn := { S0.forn with ctrl := 0x00003001 } }
/-- A capture of context 1, whose replay the idle context 0 takes. -/
def cap0 : Capture := { seq := 5, saved := some ctx0, tiles := [(0, { tile0 with map := [(0, { entry0 with ctx := 1 })] })] }
def replayS : State := { lit tile0 { ctx0 with st := .idle } with forn := { S0.forn with caps := [cap0] } }

theorem witness_ForensicsCommandsComplete_1 : ∃ (s : State) (src : Source) (v : Word),
    src ≠ .sideband ∧
    s.serves = true ∧
    let g : Forensics := { s.forn with ctrl := v }

    let k : Forensics := { g.takeHeader (s.hbmRead (g.base + 4096 * s.sec.pitSlot) 128) with
      phaseNext := 0, phaseWraps := 0, recNext := 0, recOldest := 0, recs := [], caps := [] }

    s.forn.pitOn = false ∧
    (0x00003001 : Word).getLsbD 12 = true ∧
    bf (0x00003001 : Word).toNat 0 11 = 1 ∧
    0 < bf (0x00003001 : Word).toNat 13 11 ∧
    g.base + g.pitBytes ≤ hbmBytes ∧
    g.fits = true ∧
    (∀ i ∈ s.stacksOf g.base g.pitBytes, s.stackFenced i = false) :=
  ⟨{ S0 with ctxs := [] }, .host, 0x00003001, by decide, rfl, rfl, rfl, rfl, by decide, by decide +kernel, rfl, (fun i _ => BitVec.getLsbD_zero)⟩

theorem witness_ForensicsCommandsComplete_1b : ∃ (s : State) (src : Source) (v : Word),
    src ≠ .sideband ∧
    s.serves = true ∧
    let g : Forensics := { s.forn with ctrl := v }

    let k : Forensics := { g.takeHeader (s.hbmRead (g.base + 4096 * s.sec.pitSlot) 128) with
      phaseNext := 0, phaseWraps := 0, recNext := 0, recOldest := 0, recs := [], caps := [] }

    s.forn.pitOn = true ∧
    (0x00002001 : Word).getLsbD 12 = false ∧
    s.ctxs = [] :=
  ⟨pitS, .host, 0x00002001, by decide, rfl, rfl, rfl, rfl⟩

theorem witness_ForensicsCommandsComplete_2 : ∃ s : State,
    s.awake = true :=
  ⟨pitS, rfl⟩

theorem witness_ForensicsCommandsComplete_3 : ∃ (s : State) (src : Source) (v : Word) (c : Ctx),
    src ≠ .sideband ∧
    s.serves = true ∧
    let n := bf s.forn.tagKey.toNat 0 6

    s.ctx n = some c ∧
    4 ≤ c.pw * c.ph ∧
    s.cachesOf n ≠ [] :=
  ⟨{ S0 with clusters := [(0, { owner := some 0 })], ctxs := [(0, { ctx0 with pw := 2, ph := 2 })] }, .host, 7, { ctx0 with pw := 2, ph := 2 }, by decide, rfl, rfl, by decide, by decide⟩

theorem witness_ForensicsCommandsComplete_4 : ∃ (s : State) (src : Source) (n : Fin 4) (v : Word),
    src ≠ .sideband ∧
    s.serves = true ∧
    v.getLsbD 0 = true ∧
    let q := sgetD s.forn.snaps n.val {}

    let q1 : Snap := { q with ctrl := v &&& 0x003FFFFF }

    q.st ≠ 1 ∧
    q.st ≠ 2 ∧
    (∀ p ∈ armChecks q1 s, p.1 = false) :=
  ⟨{ S0 with forn := { S0.forn with snaps := [(3, { rng := 8192 })] } }, .host, 3, 1, by decide, rfl, rfl, by decide, by decide, by decide⟩

theorem witness_ForensicsCommandsComplete_5 : ∃ (s : State) (src : Source) (v : Word) (c : Ctx),
    src ≠ .sideband ∧
    s.serves = true ∧
    v.getLsbD 0 = true ∧
    s.forn.cap.st ≠ 1 ∧
    s.forn.cap.st ≠ 2 ∧
    s.ctx (bf v.toNat 1 6) = some c ∧
    s.policyShut = false ∧
    c.superstep < s.forn.cap.trigger :=
  ⟨{ S0 with forn := { S0.forn with cap := { stepLo := 1 } } }, .host, 1, ctx0, by decide, rfl, rfl, by decide, by decide, rfl, rfl, by decide⟩

theorem witness_ForensicsCommandsComplete_6 : ∃ (s : State) (src : Source) (v : Word),
    src ≠ .sideband ∧
    s.serves = true ∧
    v.getLsbD 0 = false ∧
    (∀ p ∈ s.ctxs, p.2.replay.isSome = true → p.2.onTiles = false) :=
  ⟨S0, .host, 0, by decide, rfl, rfl, by decide⟩

theorem witness_ForensicsCommandsComplete_7 : ∃ (s : State) (src : Source) (v : Word) (k : Capture) (c d : Ctx) (n : Nat),
    src ≠ .sideband ∧
    s.serves = true ∧
    v.getLsbD 0 = true ∧
    s.forn.caps.find? (fun k => k.seq = bf v.toNat 7 25) = some k ∧
    s.ctx (bf v.toNat 1 6) = some d ∧
    k.saved = some c ∧
    k.tiles.head?.bind (fun p => (p.2.entry c.slot).map (·.ctx)) = some n ∧
    replayMatch c d = true ∧
    (d.entry.spill = true ∨ ∀ p ∈ k.tiles, p.2.matrix.isOpen = false) ∧
    d.st = .idle ∧
    d.task = none ∧
    (∀ p ∈ s.ctxs, p.2.replay = none) ∧
    streamTaken k c d n (bf v.toNat 1 6) s = false :=
  ⟨replayS, .host, BitVec.ofNat 32 (1 + 5 * 2 ^ 7), cap0, ctx0, { ctx0 with st := .idle }, 1, by decide, rfl, rfl, rfl, rfl, rfl, rfl, rfl, .inr (by decide), rfl, rfl, by decide, rfl⟩

theorem witness_ForensicsCommandsComplete_8 : ∃ (s : State),
    s.statues = false ∧
    s.serves = true ∧
    s.awake = true :=
  ⟨S0, rfl, rfl, rfl⟩

theorem witness_ForensicsCommandsComplete_8b : ∃ (s : State),
    s.statues = false ∧
    s.ctx 0 = some { ctx0 with wdTicks := 10000 } ∧
    s.forn.watchdog ≤ 10000 :=
  ⟨lit tile0 { ctx0 with wdTicks := 10000 }, rfl, rfl, by decide⟩

theorem witness_ForensicsCommandsComplete_9 : ∃ (s : State),
    s.forn.stSt = 1 ∧
    s.forn.pitOn = false :=
  ⟨{ S0 with forn := { S0.forn with stSt := 1 } }, rfl, rfl⟩

theorem witness_ForensicsCommandsComplete_9b : ∃ (s : State),
    s.forn.stSt = 1 ∧
    s.forn.pitOn = true :=
  ⟨{ pitS with forn := { pitS.forn with stSt := 1 } }, rfl, rfl⟩

theorem witness_ForensicsCommandsComplete_10 : ∃ (s : State),
    s.forn.stSt = 2 ∧
    let f := s.forn

    let dog := bit f.cause 1

    let w := writeHeader { s with forn := { f with stSt := 3, scanValid := f.pitOn || f.scanValid, scanInc := if f.pitOn then false else f.scanInc, hdrCause := f.cause } }

    let v := forAll s.ctxs (fun p => stopContext p.1 (if dog && f.stCtxs.contains p.1 then 0x65A8 else 0x65AC)) w

    dog = false :=
  ⟨{ pitS with forn := { pitS.forn with stSt := 2 } }, rfl, rfl⟩

theorem witness_ForensicsCommandsComplete_10b : ∃ (s : State),
    s.forn.stSt = 2 ∧
    let f := s.forn

    let dog := bit f.cause 1

    let w := writeHeader { s with forn := { f with stSt := 3, scanValid := f.pitOn || f.scanValid, scanInc := if f.pitOn then false else f.scanInc, hdrCause := f.cause } }

    let v := forAll s.ctxs (fun p => stopContext p.1 (if dog && f.stCtxs.contains p.1 then 0x65A8 else 0x65AC)) w

    dog = true :=
  ⟨{ pitS with forn := { pitS.forn with stSt := 2, cause := 2 } }, rfl, rfl⟩

theorem witness_ForensicsCommandsComplete_11 : ∃ (s : State),
    s.forn.stSt = 2 ∧
    (∀ p ∈ s.ctxs, ∀ t ∈ p.2.tiles, (s.tile t).ops = []) ∧
    s.ctx 0 = some ctx0 :=
  ⟨{ S0 with forn := { S0.forn with stSt := 2 } }, rfl, by decide, rfl⟩

theorem witness_ForensicsCommandsComplete_12 : ∃ (s : State),
    s.forn.stSt = 2 ∧
    s.ctxs = [] :=
  ⟨{ pitS with forn := { pitS.forn with stSt := 2 } }, rfl, rfl⟩

theorem witness_ForensicsCommandsComplete_13 : ∃ (s : State) (src : Source),
    src ≠ .sideband ∧
    s.serves = true ∧
    s.forn.stSt = 3 :=
  ⟨{ pitS with forn := { pitS.forn with stSt := 3 } }, .host, by decide, rfl, rfl⟩

theorem witness_PinCommandsComplete_1 : ∃ s : State,
    s.sideband = true :=
  ⟨stageS 2, rfl⟩

theorem witness_PinCommandsComplete_2 : ∃ s : State,
    s.smbAddr.isSome = true ∧
    s.summary.dead = true :=
  ⟨{ stageS 2 with summary := { (stageS 2).summary with dead := true } }, rfl, rfl⟩

theorem witness_PinCommandsComplete_3 : ∃ (s : State) (h : Byte) (data : List Byte) (chk : RoleCheck),
    s.serves = true ∧
    data.length ≤ 240 ∧
    let n := bf h.toNat 0 7

    let got : SmbBlock := ⟨h :: data, true⟩

    n = 0 ∧
    h.getLsbD 7 = false :=
  ⟨S0, 0, List.replicate 240 1, allOk, rfl, by decide, rfl, rfl⟩

theorem witness_PinCommandsComplete_3b : ∃ (s : State) (h : Byte) (data : List Byte) (chk : RoleCheck),
    s.serves = true ∧
    data.length ≤ 240 ∧
    let n := bf h.toNat 0 7

    let got : SmbBlock := ⟨h :: data, true⟩

    n ≠ 0 ∧
    n = s.sec.chunks.length ∧
    h.getLsbD 7 = false :=
  ⟨{ S0 with sec := { S0.sec with chunks := [[1]] } }, 1, [1], allOk, rfl, by decide, by decide, rfl, rfl⟩

theorem witness_PinCommandsComplete_3c : ∃ (s : State) (h : Byte) (data : List Byte) (chk : RoleCheck),
    s.serves = true ∧
    data.length ≤ 240 ∧
    let n := bf h.toNat 0 7

    let got : SmbBlock := ⟨h :: data, true⟩

    n ≠ 0 ∧
    n = s.sec.chunks.length ∧
    h.getLsbD 7 = true :=
  ⟨{ S0 with sec := { S0.sec with chunks := [[1]] } }, 0x81, [], allOk, rfl, by decide, by decide, rfl, rfl⟩

theorem witness_PinCommandsComplete_3d : ∃ (s : State) (h : Byte) (data : List Byte) (chk : RoleCheck),
    s.serves = true ∧
    data.length ≤ 240 ∧
    let n := bf h.toNat 0 7

    let got : SmbBlock := ⟨h :: data, true⟩

    n = 0 ∧
    h.getLsbD 7 = true :=
  ⟨S0, 0x80, [1], allOk, rfl, by decide, rfl, rfl⟩

theorem witness_PinCommandsComplete_3e : ∃ (s : State) (h : Byte) (data : List Byte) (chk : RoleCheck),
    s.serves = true ∧
    data.length ≤ 240 ∧
    let n := bf h.toNat 0 7

    let got : SmbBlock := ⟨h :: data, true⟩

    n ≠ 0 ∧
    n ≠ s.sec.chunks.length :=
  ⟨S0, 3, [1], allOk, rfl, by decide, by decide, by decide⟩

theorem witness_PinCommandsComplete_4 : ∃ s : State,
    s.serves = true ∧
    let r := s.sec.replyBytes

    let n := s.sec.replyAt

    240 * (n + 1) < r.length :=
  ⟨{ S0 with sec := { S0.sec with reply := List.replicate 239 1 } }, rfl, by decide⟩

theorem witness_PinCommandsComplete_4b : ∃ s : State,
    s.serves = true ∧
    let r := s.sec.replyBytes

    let n := s.sec.replyAt

    r.length ≤ 240 * (n + 1) :=
  ⟨{ S0 with sec := { S0.sec with reply := List.replicate 238 1 } }, rfl, by decide⟩

theorem witness_PinCommandsComplete_5 : ∃ (s : State) (op : Nat),
    s.awake = true ∧
    (op < 2 ∨ op = 2 ∧ s.sec.debugIn = 0) :=
  ⟨S0, 1, rfl, .inl (by decide)⟩

theorem witness_PinCommandsComplete_5b : ∃ (s : State) (op : Nat),
    s.awake = true ∧
    (op < 2 ∨ op = 2 ∧ s.sec.debugIn = 0) :=
  ⟨{ S0 with sec := { S0.sec with debugIn := 0 } }, 2, rfl, .inr ⟨rfl, rfl⟩⟩

theorem witness_PinCommandsComplete_6 : ∃ (s : State),
    s.awake = true ∧
    s.sec.debugIn ≠ 0 :=
  ⟨{ S0 with sec := { S0.sec with debugIn := 3 } }, rfl, by decide⟩

theorem witness_StepRunsFrontCommand_2 : ∃ (s : State) (c : Instr) (rest : List Instr),
    s.pending = c :: rest :=
  ⟨{ S0 with pending := [.deviceReady, .stopInEdge] }, .deviceReady, [.stopInEdge], rfl⟩

theorem witness_StepRunsFrontCommand_3 : ∃ s : State,
    s.pending = [] ∧
    s.awake = true :=
  ⟨S0, rfl, rfl⟩

theorem witness_StepRunsFrontCommand_4 : ∃ s : State,
    s.pending = [] ∧
    s.awake = false :=
  ⟨{ S0 with pins := { S0.pins with resetN := false } }, rfl, rfl⟩

theorem witness_WaitIsModulo_1 : ∃ (c : BitVec 48) (v : Nat),
    v < 2 ^ 24 :=
  ⟨0, 2 ^ 24 - 1, by omega⟩

theorem witness_WaitIsModulo_1b : ∃ (c : BitVec 48) (v : Nat),
    v < 2 ^ 24 ∧
    waitMet 0 0 = true :=
  ⟨0, 0, by omega, by decide +kernel⟩

theorem witness_WaitIsModulo_1c : ∃ (c : BitVec 48) (v : Nat),
    v < 2 ^ 24 ∧
    waitMet 0 1 = false :=
  ⟨0, 1, by omega, by decide +kernel⟩

theorem witness_WaitIsModulo_1d : ∃ (c : BitVec 48) (v : Nat),
    v < 2 ^ 24 ∧
    waitMet 0 (2 ^ 23 + 1) = true :=
  ⟨0, 2 ^ 23 + 1, by omega, by decide +kernel⟩

theorem witness_WaitIsModulo_1e : ∃ (c : BitVec 48) (v : Nat),
    v < 2 ^ 24 ∧
    waitMet 0 (2 ^ 23) = false :=
  ⟨0, 2 ^ 23, by omega, by decide +kernel⟩

theorem witness_MemoriesStayCanonical : ∃ s u : State, s.memOk ∧ step s = .next u :=
  ⟨{ (lit tile0 ctx0) with hbm := [(64, 1)] }, _, by unfold State.memOk; decide +kernel, rfl⟩
theorem witness_NothingUndoesNotchesNoncesFloors : ∃ s u : State, s.memOk ∧ step s = .next u :=
  ⟨{ (lit tile0 ctx0) with pending := [.deviceReady] }, _, by unfold State.memOk; decide +kernel, rfl⟩

/-! ### Ill-formed commands are refused by the check -/

theorem test_wf_registerWrite : (Instr.registerWrite .host 0x1000000000000 8 0).wf = false := by decide
theorem test_wf_countLoRead : (Instr.countLoRead ⟨0x1000000000000, 4, .clean⟩).wf = false := by decide
theorem test_wf_faultSummaryRead : (Instr.faultSummaryRead 0x1000000000000 4).wf = false := by decide
theorem test_wf_mirrorValueWrite : (Instr.mirrorValueWrite .host 0x1000000000000 0).wf = false := by decide
theorem test_wf_ctrlLatchStart : (Instr.ctrlLatchStart .host 0x1000000000000).wf = false := by decide
theorem test_wf_ctrlLatchEnd : (Instr.ctrlLatchEnd .host 0x1000000000000).wf = false := by decide
theorem test_wf_instructionFetch : (Instr.instructionFetch 0 (some 32768) true .clean).wf = false := by decide
theorem test_wf_patrolScrub : (Instr.patrolScrub 0 1073741824 .clean).wf = false := by decide
theorem test_wf_exchSelect : (Instr.exchSelect 0 8192 .clean).wf = false := by decide
theorem test_wf_sendReadAhead : (Instr.sendReadAhead 0 8192).wf = false := by decide
theorem test_wf_sendComplete : (Instr.sendComplete 0 8192).wf = false := by decide
theorem test_wf_receiveComplete : (Instr.receiveComplete 0 8192).wf = false := by decide
theorem test_wf_cadenceEdge_no_period : (Instr.cadenceEdge 0 0).wf = false := by decide
theorem test_wf_cadenceEdge_high_beyond_period : (Instr.cadenceEdge 10 11).wf = false := by decide
theorem test_wf_powerEvaluation : (Instr.powerEvaluation [(0, 2048)]).wf = false := by decide
theorem test_wf_coherentSnoop_address : (Instr.coherentSnoop 0x1000000000000 none .clean).wf = false := by decide
theorem test_wf_coherentSnoop_alignment : (Instr.coherentSnoop 32 none .clean).wf = false := by decide
theorem test_wf_coherentSnoop_line : (Instr.coherentSnoop 64 (some [0]) .clean).wf = false := by decide
theorem test_wf_cordDataFrameReceive : (Instr.cordDataFrameReceive 0 (List.replicate 2081 0) true).wf = false := by decide +kernel
theorem test_wf_bootRomStage_reports : (Instr.bootRomStage true true true true [1, 1] []).wf = false := by decide
theorem test_wf_bootRomStage_failures : (Instr.bootRomStage true true true true [] [2, 2]).wf = false := by decide
theorem test_wf_crossingTrainingStage : (Instr.crossingTrainingStage [3, 3]).wf = false := by decide
theorem test_wf_thermalTrip : (Instr.thermalTrip 0 2048).wf = false := by decide
theorem test_wf_stackHot : (Instr.stackHot 0 2048).wf = false := by decide
theorem test_wf_smbusRoleChunk_empty : (Instr.smbusRoleChunk ⟨[], true⟩ ⟨true, true, true, true⟩).wf = false := by decide
theorem test_wf_smbusRoleChunk_long : (Instr.smbusRoleChunk ⟨List.replicate 256 0, true⟩ ⟨true, true, true, true⟩).wf = false := by decide +kernel
theorem test_wf_accepts : (Instr.registerWrite .host 0x0F002800F108 8 0).wf = true ∧ (Instr.cadenceEdge 10 10).wf = true := by decide

/-- The table gives no row any bits, so no word spells a command. -/
theorem test_no_word_spells_a_command : decodeTableWord 0 0 = none ∧ decodeTableWord 32 0xFFFFFFFF = none := by decide

/-! ### The manual's worked examples -/

/-- R16, example: tile (30, 21) is 1,038, in cluster 67, region 15 and die 3. -/
theorem test_tile_identifiers : tileAt 30 21 = 1038 ∧ clusterOf 1038 = 67 ∧ regionOf 1038 = 15 ∧ dieOf 1038 = 3 := by decide +kernel
theorem test_tile_from_id : tileX 1038 = 30 ∧ tileY 1038 = 21 := by decide +kernel
/-- "Register pages", example: granule 0x12_345 is on stack 5, and its byte 0x567 is at local address 0x0091_A567 there (log 38 on the address that the example prints). -/
theorem test_granule_example : (lit tile0 ctx0).stackOf 0x12345567 = 5 ∧ (lit tile0 ctx0).localAddr 0x12345567 = 0x0091A567 := by decide +kernel
/-- "Register pages", example: the page of region 15. -/
theorem test_region_page_address : pageAddr (pageKey 0x28 15) = 0x0F002800F000 := by decide +kernel
/-- "The tile and its stores", example: billet 2,148 in the window of tile 1,038. -/
theorem test_window_address : windowPlace 0x08020710C800 512 = some (1038, .woodpile, 2148, 0, 1) := by decide +kernel
/-- R406, example: a closed Tinder bank, and an uncorrectable word in Tinder. -/
theorem test_fault_codes : faultCode 0x04 0x08 = 0x5108 ∧ faultCode 0x06 0x10 = 0x2190 := by decide +kernel
/-- "Mesh and exchange", example: B = 38 cycles for the partition at (20, 16). -/
theorem test_barrier_cycles : ({ ctx0 with px := 5, py := 4, pw := 2, ph := 2 } : Ctx).barrierCycles = 38 := by decide +kernel
/-- R170, example: the counter 0x0312_0A05 keeps 0x12_0A05 at a rebase, and a wait for 0x12_0A10 takes 11 more adds. -/
theorem test_wait_eleven_more : waitMet 0x03120A05 0x120A10 = false ∧ waitMet (0x120A05 + 10) 0x120A10 = false ∧ waitMet (0x120A05 + 11) 0x120A10 = true := by decide +kernel
/-- R114, check: key 0 and counter 0 give 0x6627_E8D5. -/
theorem test_philox_check : philox 0 0 0 0 0 = 0x6627E8D5 := by decide +kernel

/-- "Kiln accumulation", worked example: the cell after its three products, by element format E4M3. -/
def kilnCell : Cell :=
  [(0x38, 0x3C), (0x01, 0x01), (0xC4, 0x40)].foldl (fun c p => c.product false false (elemVal 0 p.1) (elemVal 0 p.2)) {}
theorem test_coal_sum : kilnCell.coal = 0xFFFFFFFFFB80004000 := by decide +kernel
/-- The kiln after the promotion under the scales 0x81 and 0x7C. -/
def kilnValue : LimbVal := (kilnCell.promote (scaleExp 0x81) (scaleExp 0x7C)).value
theorem test_kiln_limbs : limb kilnValue.limbs 3 = 0 ∧ limb kilnValue.limbs 4 = 0xFFFFFFFF70000800 ∧ limb kilnValue.limbs 5 = 0xFFFFFFFFFFFFFFFF := by decide +kernel
theorem test_kiln_drains : finishValue 0 0 0 kilnValue = 0xC00FFFF8 ∧ finishValue 1 0 0 kilnValue = 0xC010 ∧ finishValue 1 1 0 kilnValue = 0xC00F := by decide +kernel
theorem test_kiln_stochastic : finishValue 1 2 0xFFF7FFFF kilnValue = 0xC010 ∧ finishValue 1 2 0xFFF80000 kilnValue = 0xC00F := by decide +kernel
theorem test_kiln_limb_masked : kilnValue.field = 0x0410 ∧ kilnValue.present = [0xFFFFFFFF70000800] := by decide +kernel
/-- R116, example: −2³⁴ is the cell field 0x0410 and one limb of zeros. -/
theorem test_limb_masked_zero_limb :
    (({ limbs := BitVec.ofInt 640 (-(2 ^ (286 + 34))) } : LimbVal).field = 0x0410) ∧
    (({ limbs := BitVec.ofInt 640 (-(2 ^ (286 + 34))) } : LimbVal).present = [0]) := by decide +kernel
/-- R135, worked example: an MXFP4 row half. -/
theorem test_mxfp4_drain :
    (narrowBlock 8 0 ([ofInt 15 0, ofInt (-5) (-1), ofInt 11 0, ofInt 3 (-2)].map (fun v => (v, 0)))).1 = 0x80 ∧
    ((narrowBlock 8 0 ([ofInt 15 0, ofInt (-5) (-1), ofInt 11 0, (fp32.decode 0x3E99999A)].map (fun v => (v, 0)))).2.1 = [0x7, 0xA, 0x7, 0x0]) := by decide +kernel
theorem test_mxfp4_infinite_half : (narrowBlock 8 0 [(ofInt 15 0, 0), (.inf false, 0)]).1 = 0xFF ∧ (narrowBlock 8 0 [(ofInt 15 0, 0), (.inf false, 0)]).2.1 = [0, 0] := by decide +kernel
/-- "Operand cases", example: three E5M2 products in this order leave both infinities and one unit, and the cell drains as invalid. -/
def infCell : Cell :=
  [(0x7C, 0x40), (0x3C, 0x3C), (0xFC, 0x3C)].foldl (fun c p => c.product false false (elemVal 1 p.1) (elemVal 1 p.2)) {}
theorem test_both_infinities : infCell.posInf = true ∧ infCell.negInf = true ∧ infCell.nan = false ∧ infCell.coal = 0x100000000 ∧ finishValue 0 0 0 infCell.value = 0x7FC00000 := by decide +kernel
/-- R131: an infinity of each sign is invalid, and one infinity outranks OVERFLOW. -/
theorem test_special_results :
    finishValue 1 0 0 { posInf := true, negInf := true } = 0x7FC0 ∧ finishValue 0 0 0 { negInf := true, overflow := true } = 0xFF800000 := by decide +kernel
/-- R238, example: element 248,647 of the stream is relative element 2,887, in segment 0, at billet offset 45 and word 7. -/
theorem test_rick_element :
    ({ first := 245760, segGap := 1000 } : RickStream).word 2887 = (45, 32 * 7) ∧ fp32Limb 0x3A800000 = { limbs := BitVec.ofNat 640 (2 ^ 276) } := by decide +kernel
/-- R267: the check value of "123456789". -/
theorem test_crc_check : crc64 [0x31, 0x32, 0x33, 0x34, 0x35, 0x36, 0x37, 0x38, 0x39] = 0x6C40DF5F0B497347 := by decide +kernel

end Sys2Proof.Tests
end

section
/-! PROOFS. The path of a register access, and what the commands that write, latch and read registers leave. -/

namespace Sys2Proof.Machine

/-! ### The path of an access to its register (R7, R9, R362, R423, R429) -/

/-- A serving package carries out an aligned access of 4 or 8 bytes at an address of the map. -/
theorem atPlace_of_place {s : State} {a n cls inst off : Nat} (hs : s.serves = true) (hn : n = 4 ∨ n = 8) (ha : a % n = 0)
    (hp : regPlace a = some (cls, inst, off)) (bad : Nat → State) (f : Nat → Nat → Nat → State) :
    atPlace a n s bad f = f cls inst off := by
  have size : ¬ ((n ≠ 4 && n ≠ 8) || a % n ≠ 0) = true := by
    rcases hn with rfl | rfl <;> simp [ha]
  rw [atPlace, if_neg (by simp [hs]), if_neg size, hp]

theorem withPage_of_open {s : State} {cls inst off : Nat} (hs : s.serves = true) (hb : s.writeBar cls inst off = false) (f : State → State) :
    withPage cls inst off s f = f s := by
  simp [withPage, hs, hb]

theorem withReg_of_open {s : State} {src : Source} {cls inst off : Nat} (hsrc : src ≠ .sideband) (hs : s.serves = true)
    (hb : s.writeBar cls inst off = false) (f : State → State) : withReg src cls inst off s f = f s := by
  rw [withReg, withPage_of_open hs hb, if_neg hsrc]

/-- Pages above the tiles and clusters are not shut by a dark region (R423). -/
theorem pageShut_above_clusters (s : State) {cls : Nat} (inst : Nat) (hc : 0x20 < cls) : s.pageShut cls inst = false := by
  simp [State.pageShut, Nat.not_le.mpr hc]

/-- A page above the clusters takes writes from stage 5 on and while Statues is not raised, as far as either holds that page. -/
theorem writeBar_above_clusters {s : State} {cls : Nat} (inst off : Nat) (hc : 0x20 < cls) (h5 : 5 ≤ s.stageNow ∨ 0x30 < cls)
    (hq : s.statues = false ∨ 0x28 < cls) : s.writeBar cls inst off = false := by
  have early : (s.stageNow < 5 && cls ≤ 0x30) = false := by simp; omega
  have held : (s.statues && cls ≤ 0x28) = false := by
    rcases hq with hq | hq
    · simp [hq]
    · simp [Nat.not_le.mpr hq]
  simp [State.writeBar, early, held, pageShut_above_clusters s inst hc]

/-- The pages of the control complex take a write at every stage that serves it. -/
theorem withReg_of_control {s : State} {src : Source} {cls : Nat} (inst off : Nat) (hsrc : src ≠ .sideband) (hs : s.serves = true) (hc : 0x30 < cls)
    (f : State → State) : withReg src cls inst off s f = f s :=
  withReg_of_open hsrc hs (writeBar_above_clusters inst off (by omega) (.inr hc) (.inr (by omega))) f

theorem checkedWrite_of_pass {cls inst off : Nat} {checks : List (Bool × Nat)} (s : State) (f : State → State) (h : ∀ p ∈ checks, p.1 = false) :
    checkedWrite cls inst off checks s f = (f s).done := by
  rw [checkedWrite, pickCode_none h]

/-- A word of a page of the control complex beyond its head. -/
theorem readWord_of_control (s : State) {cls off : Nat} (inst : Nat) (hc : 0x30 < cls) (ho : 0x40 ≤ off) :
    s.readWord cls inst off = s.readBody cls inst off := by
  have early : (s.stageNow < 5 && cls ≤ 0x30) = false := by simp; omega
  simp [State.readWord, early, Nat.not_lt.mpr ho, pageShut_above_clusters s inst (show 0x20 < cls by omega)]

/-! ### Recorded faults (R404, R407) -/

theorem classOf_lt (code : Nat) : classOf code < 8 := by
  unfold classOf
  split_ifs <;> omega

/-- The class field of a fault code is the class of its condition. -/
theorem faultCode_class {blk code : Nat} (hb : blk < 64) (hc : code < 64) : faultCode blk code / 4096 = classOf code := by
  unfold faultCode
  omega

/-- A recorded fault sets the bit of its class in FAULT of its page. -/
theorem recordFault_sets_class {blk code : Nat} (hb : blk < 64) (hc : code < 64) (key : Nat) (s : State) :
    ((recordFault key blk code s).page key).fault.getLsbD (classOf code) = true := by
  have hlt := classOf_lt code
  rw [recordFault_page_self]
  simp only [Page.record, faultCode_class hb hc, BitVec.getLsbD_or, BitVec.getLsbD_ofNat, Nat.testBit_two_pow_self, hlt, decide_true, Bool.and_self,
    Bool.or_true]

/-- What a recorded fault leaves alone, as far as reads of tallies and audit entries see. -/
theorem recordFault_pwr (key blk code : Nat) (s : State) : (recordFault key blk code s).pwr = s.pwr := by rw [recordFault_rest]
theorem recordFault_sec (key blk code : Nat) (s : State) : (recordFault key blk code s).sec = s.sec := by rw [recordFault_rest]

/-! ### Writes of one register -/

/-- A write that is permitted, of a register that software writes on a page of the control complex (R9). -/
theorem regWrite_of_unitReg {s u : State} {src : Source} {cls inst off : Nat} {v : Word} (hs : s.serves = true) (hsrc : src ≠ .sideband)
    (ho : 0x40 ≤ off) (hc : 0x3C ≤ cls) (h70 : cls ≠ 0x70) (hr : roleLocked cls off = false) (hu : unitReg cls inst off v s = some u) :
    regWrite src cls inst off v s = u := by
  have cp : cpOnly cls off = false := by simp [cpOnly, show cls ≠ 0x10 by omega, show cls ≠ 0x13 by omega]
  have pair : mirrored cls off = false := by simp [mirrored, show cls ≠ 0x28 by omega, show cls ≠ 0x30 by omega]
  simp only [regWrite, Nat.not_lt.mpr ho, hr, cp, pair, show ¬ cls ≤ 0x13 by omega, h70, hu, Bool.false_and, Bool.false_eq_true, if_false]
  exact withReg_of_control inst off hsrc hs (by omega) _

/-! ### Mirrored pairs (R427, R431, R432) -/

/-- The complement of the pending value of its source commits the pair. -/
theorem mirrorCommit_of_complement {s : State} {src : Source} {cls inst off : Nat} {v : Word} (h : (s.page (pageKey cls inst)).pend src = some (off, v))
    (f : Word → State → State) :
    mirrorCommit src cls inst off (~~~v) f s = (f v (s.modPage (pageKey cls inst) (·.setPend src none))).done := by
  simp [mirrorCommit, h]

/-- Any other word fails the pair. -/
theorem mirrorCommit_of_mismatch {s : State} {src : Source} {cls inst off : Nat} {v w : Word} (h : (s.page (pageKey cls inst)).pend src = some (off, v))
    (hw : w ≠ ~~~v) (f : Word → State → State) :
    mirrorCommit src cls inst off w f s = mirrorFail cls inst off (s.modPage (pageKey cls inst) (·.setPend src none)) := by
  simp [mirrorCommit, h, hw]

/-- A pair that fails after its pending value is taken marks its page and records a class I fault there. -/
theorem mirrorFail_eq (cls inst off : Nat) (s : State) :
    mirrorFail cls inst off s = (recordFault (pageKey cls inst) (pageBlock cls off) 0x18
      (s.modPage (pageKey cls inst) (fun p => { p with mismatch := true, lastOff := off }))).answer 0 [] := rfl

theorem exec_mirrorValueWrite_region {s : State} {src : Source} {r : RegionId} {a : Nat} (v : Word) (hsrc : src ≠ .sideband) (hs : s.serves = true)
    (hb : s.writeBar 0x28 r 0x108 = false) (ha : a % 4 = 0) (hp : regPlace a = some (0x28, r.val, 0x108)) :
    exec (.mirrorValueWrite src a v) s = .next ((s.modPage (pageKey 0x28 r) (·.setPend src (some (0x108, v)))).answer 0 []) := by
  change Host.Outcome.next (atPlace a 4 s _ _) = _
  rw [atPlace_of_place hs (.inl rfl) ha hp]
  exact congrArg Host.Outcome.next (withReg_of_open hsrc hs hb _)

/-- The complement word of a REGION_REQUEST reaches its pair, whichever command brings it. -/
theorem exec_regionComplement {s : State} {src : Source} {r : RegionId} (w : Word) (hsrc : src ≠ .sideband) (hs : s.serves = true)
    (hb : s.writeBar 0x28 r 0x10C = false) :
    exec (.regionMakeLit src r w) s = .next (mirrorCommit src 0x28 r 0x108 w (regionRequest r) s) ∧
    exec (.regionMakeDark src r w) s = .next (mirrorCommit src 0x28 r 0x108 w (regionRequest r) s) :=
  have path := congrArg Host.Outcome.next (withReg_of_open hsrc hs hb (mirrorWrite src 0x28 r 0x10C w))
  ⟨path, path⟩

/-- A request for lit begins the transition of a dark region. -/
theorem regionRequest_lit {s : State} {r : Nat} {v : Word} (hv : bf v.toNat 0 2 = 1) (hf : s.regionFenced r = false) (ht : s.pins.thermLatch = false)
    (hd : (s.region r).st = .dark) :
    regionRequest r v s = refuseWaiting r 0x07 (s.setRegion r { s.region r with st := .transition, goal := .lit, request := 1 }) := by
  simp [regionRequest, hv, hf, ht, hd]

/-- A request for dark begins the transition of a lit or banked region that no context has. -/
theorem regionRequest_dark {s : State} {r : Nat} {v : Word} (hv : bf v.toNat 0 2 = 2) (hc : ∀ p ∈ s.ctxs, r ∉ p.2.regions)
    (hd : (s.region r).st = .lit ∨ (s.region r).st = .banked) :
    regionRequest r v s = refuseWaiting r 0x07 (s.setRegion r { s.region r with st := .transition, goal := .dark, request := 2 }) := by
  have free : s.ctxs.any (fun p => p.2.regions.contains r) = false := by simpa using hc
  rcases hd with hd | hd <;> simp only [regionRequest, hv, free, hd] <;> rfl

/-- A new granule on a quiet package: addresses name other bytes, and no data moves (R420, R432). -/
theorem memMap_of_quiet {s : State} {v : Word} (hg : 12 ≤ bf v.toNat 0 4) (hc : s.ctxs = []) (hb : s.buckets = []) (hp : s.forn.pitOn = false)
    (ho : ∀ p ∈ s.tiles, ∀ o ∈ p.2.ops, o.host = false) (hw : ∀ w ∈ s.evl.waiting, w.isBulk = false) :
    memMap v s = { s with granule := bf v.toNat 0 4, hbm := regrainMem s.granule (bf v.toNat 0 4) s.hbm } := by
  have top : bf v.toNat 0 4 < 16 := Nat.mod_lt _ (by decide)
  have ops : s.tiles.any (fun p => p.2.ops.any (·.host)) = false := by simpa using ho
  have bulk : s.evl.waiting.any (·.isBulk) = false := by simpa using hw
  simp [memMap, Nat.not_lt.mpr hg, show ¬ 16 < bf v.toNat 0 4 by omega, hc, hb, hp, ops, bulk]

/-- The complement of MEM_MAP's pending value commits it on die 0, which holds the register. -/
theorem exec_memMapWrite_of_complement {s : State} {src : Source} {v : Word} (hsrc : src ≠ .sideband) (hs : s.serves = true) (h5 : 5 ≤ s.stageNow)
    (h : (s.page (pageKey 0x30 0)).pend src = some (0x110, v)) :
    exec (.memMapWrite src 0 (~~~v)) s = .next ((memMap v (s.modPage (pageKey 0x30 0) (·.setPend src none))).answer 0 []) := by
  change Host.Outcome.next (withReg src 0x30 0 0x114 s (mirrorCommit src 0x30 0 0x110 (~~~v) memMap)) = _
  rw [withReg_of_open hsrc hs (writeBar_above_clusters 0 0x114 (by decide) (.inl h5) (.inr (by decide))), mirrorCommit_of_complement h]
  rfl

/-! ### Rings (R327, R328) -/

/-- A doorbell of an enabled ring that holds no more than the ring takes. -/
theorem doorbell_within {s : State} {r : Nat} {v : Word} (hen : (s.ring r).sqEn = true) (hv : (v - (s.ring r).sqHead).toNat ≤ 2 ^ (s.ring r).sqLog) :
    doorbell r v s = (s.modRing r (fun g => { g with sqTail := v })).answer 0 [] := by
  unfold doorbell
  exact checkedWrite_of_pass s _ (by simpa [hen] using hv)

theorem exec_sqTailWrite {s : State} {src : Source} (r : RingId) (v : Word) (hsrc : src ≠ .sideband) (hs : s.serves = true) :
    exec (.sqTailWrite src r v) s = .next (writeTail r v s) :=
  congrArg Host.Outcome.next (withReg_of_control 0 _ hsrc hs (by decide) _)

/-- A doorbell with nothing to wait for takes effect at once. -/
theorem writeTail_at_once {s : State} {r : Nat} (v : Word) (hw : s.writesDue = false) (hb : ∀ w ∈ s.evl.waiting, w.bellOf r = false) :
    writeTail r v s = doorbell r v s := by
  have bell : s.evl.waiting.any (·.bellOf r) = false := by simpa using hb
  simp [writeTail, hw, bell]

/-- A doorbell waits behind a bulk write, and behind an older doorbell of its ring. -/
theorem writeTail_waits {s : State} {r : Nat} (v : Word) (h : s.writesDue = true ∨ ∃ w ∈ s.evl.waiting, w.bellOf r = true) :
    writeTail r v s = ({ s with evl := { s.evl with waiting := s.evl.waiting ++ [.bell r v] } } : State).answer 0 [] := by
  have waits : (s.writesDue || s.evl.waiting.any (·.bellOf r)) = true := by simpa using h
  simp only [writeTail, waits, if_true]
  rfl

theorem exec_ringCtrlWrite {s : State} {src : Source} (r : RingId) (event : Bool) (v : Word) (hsrc : src ≠ .sideband) (hs : s.serves = true) :
    exec (.ringCtrlWrite src r event v) s = .next (writeRing r event v s) :=
  congrArg Host.Outcome.next (withReg_of_control 0 _ hsrc hs (by decide) _)

/-- The enable of a ring, of submissions or of events, that lies inside the window takes its size and its base. -/
theorem writeRing_enables {s : State} {r : Nat} {v : Word} (event : Bool) (hv : v.getLsbD 0 = true) (h4 : 4 ≤ bf v.toNat 1 5) (h16 : bf v.toNat 1 5 ≤ 16)
    (hoff : (if event then (s.ring r).eqEn else (s.ring r).sqEn) = false)
    (hin : s.inWindow (if event then (s.ring r).eqBase else (s.ring r).sqBase) (64 * 2 ^ bf v.toNat 1 5) = true) :
    writeRing r event v s = (s.modRing r (fun g =>
      if event then { g with eqEn := true, eqLog := bf v.toNat 1 5, eqAt := g.eqBase }
      else { g with sqEn := true, sqLog := bf v.toNat 1 5, sqAt := g.sqBase })).answer 0 [] := by
  unfold writeRing
  refine (checkedWrite_of_pass s _ ?_).trans ?_
  · simp [hoff, hin]
    omega
  · rw [hv]
    cases event <;> rfl

/-! ### Compare slots (R302, R303) -/

theorem exec_compareWrite {s : State} {src : Source} {k : SlotId} (hi : Bool) (v : Word) (hsrc : src ≠ .sideband) (hs : s.serves = true) (hk : 8 ≤ k.val) :
    exec (.compareWrite src k hi v) s = .next (writeCompare k hi v s) := by
  change Host.Outcome.next (if k.val < 8 then _ else _) = _
  rw [if_neg (by omega), withReg_of_control 0 _ hsrc hs (by decide)]

theorem exec_slotCtrlWrite {s : State} {src : Source} {k : SlotId} (v : Word) (hsrc : src ≠ .sideband) (hs : s.serves = true) (hk : 8 ≤ k.val) :
    exec (.slotCtrlWrite src k v) s = .next (writeSlotCtrl k v s) := by
  change Host.Outcome.next (if k.val < 8 then _ else _) = _
  rw [if_neg (by omega), withReg_of_control 0 _ hsrc hs (by decide)]

/-- ENABLE of a disarmed slot arms it, and marks it LATE when its tick has passed. -/
theorem writeSlotCtrl_arms {s : State} {k : Nat} (h : (s.slot k).enable = false) :
    writeSlotCtrl k 1 s = (s.modSlot k (fun x => { x with
      enable := true
      due := x.due || decide (x.compare.toNat ≤ s.cad.count.toNat)
      late := x.late || decide (x.compare.toNat ≤ s.cad.count.toNat) })).answer 0 [] := by
  unfold State.slot at h
  unfold writeSlotCtrl State.modSlot smod State.done
  generalize sgetD s.cad.slots k {} = x at h ⊢
  simp [h]

/-! ### Gates and latches (R60, R428) -/

/-- The gate registers belong to the control processor (R65): its write gates the banks, and the host's is refused. -/
theorem exec_bankGateWrite {s : State} {t : TileId} {reg : Fin 3} (v : Word) (hs : s.serves = true) (hb : s.writeBar 0x10 t (0x120 + 4 * reg.val) = false) :
    exec (.bankGateWrite .cp t reg v) s = .next ((s.modTile t (·.writeGate (s.tileCycle t) reg v)).answer 0 []) ∧
    exec (.bankGateWrite .host t reg v) s = .next (refuseAccess (pageKey 0x10 t) 0x06 0x07 s) := by
  have cp := withReg_of_open (src := .cp) (by decide) hs hb
  have host := withPage_of_open hs hb
  fin_cases reg
  all_goals exact ⟨congrArg Host.Outcome.next (cp _), congrArg Host.Outcome.next (host _)⟩

/-- A write of a latch bit of CTRL on a page of the control complex. -/
theorem latchAt_of_control {s : State} {src : Source} {a cls inst : Nat} (atEnd : Bool) (hsrc : src ≠ .sideband) (hs : s.serves = true)
    (hc : 0x30 < cls) (hp : regPlace a = some (cls, inst, 0x008)) : latchAt src a atEnd s = (latchPage cls inst atEnd s).answer 0 [] := by
  simp only [latchAt, hp]
  exact withReg_of_control inst 0x008 hsrc hs hc _

/-! ### Reads of counters (R167) -/

@[simp] theorem State.answer_tile (s : State) (code : Nat) (bs : List Byte) (t : Nat) : (s.answer code bs).tile t = s.tile t := rfl

theorem exec_countLoRead_of_place {s : State} {a n cls inst off : Nat} (e : Ecc) (hs : s.serves = true) (hn : n = 4 ∨ n = 8) (ha : a % n = 0)
    (hp : regPlace a = some (cls, inst, off)) :
    exec (.countLoRead ⟨a, n, e⟩) s = .next (
      if heldWord cls off then (checkWord cls off e s).answer 0 ((checkWord cls off e s).readBytes cls inst off n)
      else if !loWord cls (off / 8 * 8) then s
      else if n = 8 then s.answer 0 (s.readBytes cls inst (off / 8 * 8) 8)
      else if off = off / 8 * 8 then
        (s.modTile inst (fun x => x.setShadow cls (sset (x.shadow cls) (off / 8 * 8 + 4) (s.readWord cls inst (off / 8 * 8 + 4))))).answer 0
          (natLe 4 (s.readWord cls inst (off / 8 * 8)).toNat)
      else (s.modTile inst (fun x => x.setShadow cls (sdel (x.shadow cls) off))).answer 0 (natLe 4 (s.readHigh cls inst off).toNat)) :=
  congrArg Host.Outcome.next (atPlace_of_place hs hn ha hp _ _)

/-- No register of the tile sync page is held with its complement. -/
theorem heldWord_tileSync {off : Nat} (h : off < 0x1000) : heldWord 0x12 off = false := by
  have noSetting : recordReg 0x12 off = none := by
    simp (disch := omega) only [recordReg, regSetting, if_neg]
  simp [heldWord, noSetting]

theorem loWord_tileSync {off : Nat} (h : loWord 0x12 off = true) : off % 8 = 0 ∧ 0x100 ≤ off ∧ off < 0x300 := by
  simpa [loWord] using h

/-- A 32-bit read of a counter's low word captures the high word. -/
theorem exec_countLoRead_low {s : State} {a t off : Nat} (e : Ecc) (hs : s.serves = true) (hl : loWord 0x12 off = true) (ha : a % 4 = 0)
    (hp : regPlace a = some (0x12, t, off)) :
    exec (.countLoRead ⟨a, 4, e⟩) s = .next ((s.modTile t (fun x => { x with ctrShadow := sset x.ctrShadow (off + 4) (s.readWord 0x12 t (off + 4)) })).answer 0
      (natLe 4 (s.readWord 0x12 t off).toNat)) := by
  obtain ⟨h8, hlo, hhi⟩ := loWord_tileSync hl
  have word : off / 8 * 8 = off := by omega
  rw [exec_countLoRead_of_place e hs (.inl rfl) ha hp, heldWord_tileSync (by omega), word, hl]
  simp only [Bool.false_eq_true, if_false, Bool.not_true, if_true, show ¬ (4 : Nat) = 8 by decide]
  rfl

/-- A 64-bit read returns both words as one value. -/
theorem exec_countLoRead_both {s : State} {a t off : Nat} (e : Ecc) (hs : s.serves = true) (hl : loWord 0x12 off = true) (ha : a % 8 = 0)
    (hp : regPlace a = some (0x12, t, off)) :
    exec (.countLoRead ⟨a, 8, e⟩) s = .next (s.answer 0 (natLe 4 (s.readWord 0x12 t off).toNat ++ natLe 4 (s.readWord 0x12 t (off + 4)).toNat)) := by
  obtain ⟨h8, hlo, hhi⟩ := loWord_tileSync hl
  have word : off / 8 * 8 = off := by omega
  rw [exec_countLoRead_of_place e hs (.inr rfl) ha hp, heldWord_tileSync (by omega), word, hl]
  rfl

/-- A 32-bit read of a counter's high word returns and drops what was captured, or else the live bits. -/
theorem exec_countLoRead_high {s : State} {a t off : Nat} (e : Ecc) (hs : s.serves = true) (hl : loWord 0x12 off = true) (ha : a % 4 = 0)
    (hp : regPlace a = some (0x12, t, off + 4)) :
    exec (.countLoRead ⟨a, 4, e⟩) s = .next ((s.modTile t (fun x => { x with ctrShadow := sdel x.ctrShadow (off + 4) })).answer 0
      (natLe 4 ((sget (s.tile t).ctrShadow (off + 4)).getD (s.readWord 0x12 t (off + 4))).toNat)) := by
  obtain ⟨h8, hlo, hhi⟩ := loWord_tileSync hl
  have word : (off + 4) / 8 * 8 = off := by omega
  rw [exec_countLoRead_of_place e hs (.inl rfl) ha hp, heldWord_tileSync (by omega), word, hl]
  simp only [Bool.false_eq_true, if_false, Bool.not_true, show ¬ off + 4 = off by omega, show ¬ (4 : Nat) = 8 by decide]
  rfl

/-! ### Reads of words held with their complement (R319, R357, R411) -/

theorem mem_nub (x : Nat) (xs : List Nat) : x ∈ nub xs ↔ x ∈ xs := by
  induction xs with
  | nil => rfl
  | cons y ys ih =>
    by_cases h : x = y <;> simp [nub, ih, h]

theorem leNat_replicate_zero (n : Nat) : leNat (List.replicate n 0) = 0 := by
  induction n with
  | zero => rfl
  | succ n ih => simpa [List.replicate_succ, leNat] using ih

theorem bytesAt_replicate_zero (n a k : Nat) : bytesAt (List.replicate n 0) a k = 0 := by
  rw [bytesAt, List.drop_replicate, List.take_replicate, leNat_replicate_zero]

/-- A read of a word held with its complement checks it first. -/
theorem exec_countLoRead_held {s : State} {a cls inst off : Nat} (e : Ecc) (hs : s.serves = true) (ha : a % 4 = 0)
    (hp : regPlace a = some (cls, inst, off)) (hh : heldWord cls off = true) :
    exec (.countLoRead ⟨a, 4, e⟩) s = .next ((checkWord cls off e s).answer 0 (natLe 4 ((checkWord cls off e s).readWord cls inst off).toNat)) := by
  rw [exec_countLoRead_of_place e hs (.inl rfl) ha hp, if_pos hh]
  simp [State.readBytes]

/-- A tally that differs from its complement is marked, with a class I fault on the power page. -/
theorem checkWord_tally {s : State} {off : Nat} {e : Ecc} (h1 : 0x400 ≤ off) (h2 : off < 0x500) (he : e ≠ .clean)
    (ht : (sget s.pwr.tallies s.pwr.sel).isSome = true) :
    checkWord 0x58 off e s = recordFault (pageKey 0x58 0) 0x13 0x18 { s with pwr := { s.pwr with tallyBad := nub (s.pwr.tallyBad ++ [s.pwr.sel]) } } := by
  have noSetting : recordReg 0x58 off = none := by
    simp (disch := omega) only [recordReg, regSetting, if_neg]
  have held : ¬ (sget s.pwr.tallies s.pwr.sel).isNone = true := by simpa [Option.isNone_iff_eq_none, Option.isSome_iff_ne_none] using ht
  simp [checkWord, noSetting, held, he]

/-- An audit entry that differs from its complement is marked, with a class I fault on the security page. -/
theorem checkWord_audit {s : State} {off : Nat} {e : Ecc} (h1 : 0x200 ≤ off) (h2 : off < 0x280) (he : e ≠ .clean)
    (ha : s.sec.auditSel < s.sec.audit.length) :
    checkWord 0x68 off e s = recordFault (pageKey 0x68 0) 0x15 0x18 { s with sec := { s.sec with
      auditBad := nub (s.sec.auditBad ++ [bytesAt (s.sec.audit.getD s.sec.auditSel []) 0 4]) } } := by
  have noSetting : recordReg 0x68 off = none := by
    simp (disch := omega) only [recordReg, regSetting, if_neg]
  simp [checkWord, noSetting, Nat.not_le.mpr ha, he]

/-- The selected tally reads as zero once it is marked. -/
theorem readWord_bad_tally {s : State} {off : Nat} (i : Nat) (h1 : 0x400 ≤ off) (h2 : off < 0x500) (hb : s.pwr.tallyBad.contains s.pwr.sel = true) :
    s.readWord 0x58 i off = 0 := by
  rw [readWord_of_control s i (by decide) (by omega)]
  change s.read58 off = 0
  simp (disch := omega) only [State.read58, if_neg]
  simp only [h1, h2, hb, decide_true, Bool.and_self, if_true]

/-- The selected audit entry reads as zero once it is marked. -/
theorem readWord_bad_audit {s : State} {off : Nat} (i : Nat) (h1 : 0x200 ≤ off) (h2 : off < 0x280)
    (hb : s.sec.auditBad.contains (bytesAt (s.sec.audit.getD s.sec.auditSel []) 0 4) = true) : s.readWord 0x68 i off = 0 := by
  rw [readWord_of_control s i (by decide) (by omega)]
  change s.read68 off = 0
  simp (disch := omega) only [State.read68, if_neg, decide_eq_false, decide_eq_true, Bool.and_false, Bool.and_self, Bool.false_eq_true, if_false, if_true]
  rw [Security.auditRead, if_pos hb, bytesAt_replicate_zero]
  rfl

/-- The mark of a tally that was read bad stays through the fault that reports it: the next read gives zeros (R319). -/
theorem exec_countLoRead_bad_tally {s : State} {a i off : Nat} {e : Ecc} (hs : s.serves = true) (ha : a % 4 = 0) (he : e ≠ .clean)
    (hp : regPlace a = some (0x58, i, off)) (h1 : 0x400 ≤ off) (h2 : off < 0x500) (ht : (sget s.pwr.tallies s.pwr.sel).isSome = true) :
    Completes (.countLoRead ⟨a, 4, e⟩) s fun u =>
      u.pwr.tallyBad.contains s.pwr.sel = true ∧ (u.page (pageKey 0x58 0)).fault.getLsbD 3 = true ∧ u.mgmt = { code := 0, bytes := [0, 0, 0, 0] } := by
  have held : heldWord 0x58 off = true := by simp [heldWord, h1, h2]
  refine ⟨_, exec_countLoRead_held e hs ha hp held, ?_⟩
  rw [checkWord_tally h1 h2 he ht]
  set w : State := { s with pwr := { s.pwr with tallyBad := nub (s.pwr.tallyBad ++ [s.pwr.sel]) } } with hw
  have marked : w.pwr.tallyBad.contains w.pwr.sel = true := by simp [hw, mem_nub]
  refine ⟨?_, recordFault_sets_class (by decide) (by decide) _ w, ?_⟩
  · rw [State.answer_pwr, recordFault_pwr]
    exact marked
  · rw [readWord_bad_tally i h1 h2 (by rw [recordFault_pwr]; exact marked)]
    rfl

/-- The entry that was read bad stays in the audit log, and reads as zeros (R411). -/
theorem exec_countLoRead_bad_audit {s : State} {a i off : Nat} {e : Ecc} (hs : s.serves = true) (ha : a % 4 = 0) (he : e ≠ .clean)
    (hp : regPlace a = some (0x68, i, off)) (h1 : 0x200 ≤ off) (h2 : off < 0x280) (hl : s.sec.auditSel < s.sec.audit.length) :
    Completes (.countLoRead ⟨a, 4, e⟩) s fun u =>
      u.sec.audit = s.sec.audit ∧ (u.page (pageKey 0x68 0)).fault.getLsbD 3 = true ∧ u.mgmt = { code := 0, bytes := [0, 0, 0, 0] } := by
  have held : heldWord 0x68 off = true := by simp [heldWord, h1, h2]
  refine ⟨_, exec_countLoRead_held e hs ha hp held, ?_⟩
  rw [checkWord_audit h1 h2 he hl]
  set w : State := { s with sec := { s.sec with auditBad := nub (s.sec.auditBad ++ [bytesAt (s.sec.audit.getD s.sec.auditSel []) 0 4]) } } with hw
  have marked : w.sec.auditBad.contains (bytesAt (w.sec.audit.getD w.sec.auditSel []) 0 4) = true := by simp [hw, mem_nub]
  refine ⟨?_, recordFault_sets_class (by decide) (by decide) _ w, ?_⟩
  · rw [State.answer_sec, recordFault_sec]
  · rw [readWord_bad_audit i h1 h2 (by rw [recordFault_sec]; exact marked)]
    rfl

/-- A read of the fault summary's first word captures the record and returns its first bytes (R434). -/
theorem exec_faultSummaryRead_first {s : State} {a i n : Nat} (hs : s.serves = true) (hn : n = 4 ∨ n = 8) (ha : a % n = 0)
    (hp : regPlace a = some (0x78, i, 0x200)) :
    exec (.faultSummaryRead a n) s =
      .next (({ s with summary := { s.summary with shadow := some s.summaryBytes } } : State).answer 0 (s.summaryBytes.take n)) :=
  congrArg Host.Outcome.next (atPlace_of_place hs hn ha hp _ _)

/-! ### Register commands -/

/-- Settles O52: every access passes its page and reaches its register; what the register does then is the lemma of its own. -/
theorem registerCommandsComplete : Obligations.RegisterCommandsComplete := by
  unfold Obligations.RegisterCommandsComplete
  refine ⟨?write, ?region, ?granule, ?bell, ?ring, ?slot, ?gate, ?latch, ?counter, ?held, ?summary⟩
  case write =>
    intro s u src a cls inst off v hs hsrc ha hp ho hc h70 hr hu
    change Host.Outcome.next (atPlace a 4 s _ _) = _
    rw [atPlace_of_place hs (.inl rfl) ha hp]
    exact congrArg Host.Outcome.next (regWrite_of_unitReg hs hsrc ho hc h70 hr hu)
  case region =>
    intro s src r hsrc hs h5 hq k
    have isOpen (off : Nat) : s.writeBar 0x28 r off = false := writeBar_above_clusters r off (by decide) (.inl h5) (.inl hq)
    refine ⟨fun a v ha hp => exec_mirrorValueWrite_region v hsrc hs (isOpen _) ha hp, fun v hv => ⟨fun hgo hf ht hd => ?_, fun hgo hc hd => ?_, fun w hw => ?_⟩⟩
    · rw [(exec_regionComplement _ hsrc hs (isOpen _)).1, mirrorCommit_of_complement hv,
        regionRequest_lit (s := s.modPage k (·.setPend src none)) hgo hf ht hd]
      rfl
    · rw [(exec_regionComplement _ hsrc hs (isOpen _)).2, mirrorCommit_of_complement hv,
        regionRequest_dark (s := s.modPage k (·.setPend src none)) hgo hc hd]
      rfl
    · rw [(exec_regionComplement _ hsrc hs (isOpen _)).1, mirrorCommit_of_mismatch hv hw, mirrorFail_eq]
      rfl
  case granule =>
    intro s src v hsrc hs h5 hv hg hc hb hp ho hw
    refine ⟨_, exec_memMapWrite_of_complement hsrc hs h5 hv, ?_⟩
    rw [memMap_of_quiet hg (by exact hc) (by exact hb) (by exact hp) (by exact ho) (by exact hw)]
    exact ⟨rfl, rfl, rfl⟩
  case bell =>
    intro s src r v hsrc hs
    rw [exec_sqTailWrite r v hsrc hs]
    refine ⟨fun hw hb hen hv => ?_, fun hw => ?_⟩
    · rw [writeTail_at_once v hw hb, doorbell_within hen hv]
    · rw [writeTail_waits v hw]
  case ring =>
    intro s src r v hsrc hs hv k h4 h16 g
    refine ⟨fun hoff hin => ?_, fun hoff hin => ?_⟩
    · rw [exec_ringCtrlWrite r false v hsrc hs, writeRing_enables false hv h4 h16 hoff hin]
      rfl
    · rw [exec_ringCtrlWrite r true v hsrc hs, writeRing_enables true hv h4 h16 hoff hin]
      rfl
  case slot =>
    intro s src k hi v hsrc hs hk x
    refine ⟨exec_compareWrite hi v hsrc hs hk, ?_⟩
    rintro rfl hoff
    rw [exec_slotCtrlWrite 1 hsrc hs hk, writeSlotCtrl_arms hoff]
  case gate =>
    intro s t reg v hs hb
    exact exec_bankGateWrite v hs hb
  case latch =>
    intro s src a i hsrc hs
    refine ⟨fun hp => ⟨?_, ?_⟩, fun hp => ⟨?_, ?_⟩⟩
    all_goals exact congrArg Host.Outcome.next (latchAt_of_control _ hsrc hs (by decide) hp)
  case counter =>
    intro s a t off e hs hl lo hi
    refine ⟨fun ha hp => ?_, fun ha hp => exec_countLoRead_both e hs hl ha hp, fun ha hp => ?_⟩
    · exact ⟨_, exec_countLoRead_low e hs hl ha hp, by rw [State.answer_tile, State.modTile_self], rfl, rfl⟩
    · refine ⟨_, exec_countLoRead_high e hs hl ha hp, ?_, fun o ho => ?_, rfl, rfl⟩
      all_goals rw [State.answer_tile, State.modTile_self, sget_sdel]
      · exact if_pos rfl
      · exact if_neg ho
  case held =>
    intro s a i off e hs ha he
    exact ⟨exec_countLoRead_bad_tally hs ha he, exec_countLoRead_bad_audit hs ha he⟩
  case summary =>
    intro s a i n hs hn ha hp
    exact exec_faultSummaryRead_first hs hn ha hp

end Sys2Proof.Machine
end

section
/-! PROOFS. What a reset, a loss of power and a revert leave of the Settings Store, the flash and the host's side. -/

namespace Sys2Proof.Machine

/-! ### Flash banks (R371, R372) -/

@[simp] theorem Boot.setFlash_active (b : Boot) (i : Nat) (k : FwBank) : (b.setFlash i k).active = b.active := by
  unfold Boot.setFlash
  split <;> rfl

@[simp] theorem Boot.setFlash_floor (b : Boot) (i : Nat) (k : FwBank) : (b.setFlash i k).floor = b.floor := by
  unfold Boot.setFlash
  split <;> rfl

@[simp] theorem Boot.flash_setFlash_same (b : Boot) (i : Nat) (k : FwBank) : (b.setFlash i k).flash i = k := by
  by_cases h : i = 0 <;> simp [Boot.setFlash, Boot.flash, h]

/-- Writing one bank leaves the other. -/
theorem Boot.flash_setFlash_other (b : Boot) {i j : Nat} (k : FwBank) (h : i = 0 ↔ j ≠ 0) : (b.setFlash i k).flash j = b.flash j := by
  by_cases hi : i = 0
  · simp [Boot.setFlash, Boot.flash, hi, h.mp hi]
  · have hj : j = 0 := not_not.mp (mt h.mpr hi)
    simp [Boot.setFlash, Boot.flash, hi, hj]

/-! ### What a reset keeps (R27, R349, R350, R370) -/

@[simp] theorem resetPackage_sec (keep : Bool) (s : State) : (resetPackage keep s).sec = s.sec.kept := rfl

/-- The committed envelope table lasts: one that waited for its minute mark is in force after the reset (R304). -/
theorem resetPackage_envCommitted (keep : Bool) (s : State) : (resetPackage keep s).envCommitted = s.envCommitted := rfl

theorem resetPackage_settingWord (keep : Bool) (s : State) (i : Nat) : (resetPackage keep s).settingWord i = s.settingWord i := rfl

theorem resetPackage_settingBytes (keep : Bool) (s : State) (i : Nat) : (resetPackage keep s).settingBytes i = s.settingBytes i := by
  unfold State.settingBytes
  rw [resetPackage_envCommitted, resetPackage_settingWord]
  rfl

/-- `u` holds what the stores of `s` hold after a reset: the committed settings, the rest of the security block as `Security.kept` leaves it, the ACTIVE bank, the version floors, and what lies outside the package; its update session is closed. -/
structure State.OutlastsReset (s u : State) : Prop where
  settings : ∀ i, u.settingBytes i = s.settingBytes i
  sec : u.sec = s.sec.kept
  active : u.boot.active = s.boot.active
  floor : u.boot.floor = s.boot.floor
  session : u.boot.session = {}
  hostMem : u.hostMem = s.hostMem
  pending : u.pending = s.pending

theorem resetPackage_outlasts (keep : Bool) (s : State) : s.OutlastsReset (resetPackage keep s) where
  settings := resetPackage_settingBytes keep s
  sec := resetPackage_sec keep s
  active := rfl
  floor := rfl
  session := rfl
  hostMem := rfl
  pending := rfl

/-- What lasts does not rest on the pins. -/
theorem State.OutlastsReset.of_pins {s u : State} (h : s.OutlastsReset u) (p : Pins) : s.OutlastsReset { u with pins := p } :=
  { h with }

/-- A revert leaves what a reset leaves: the mark on its bank touches neither the ACTIVE bank's number nor the floors. -/
theorem revertBoot_outlasts (s : State) : s.OutlastsReset (revertBoot s) := by
  obtain ⟨settings, sec, active, floor, session, hostMem, pending⟩ :=
    resetPackage_outlasts true { s with boot := s.boot.setFlash s.boot.bank { s.boot.flash s.boot.bank with st := .invalid } }
  exact ⟨settings, sec, active.trans (s.boot.setFlash_active _ _), floor.trans (s.boot.setFlash_floor _ _), session, hostMem, pending⟩

/-- After a revert the banks are those of `s` with the one that was booted marked INVALID. -/
theorem revertBoot_flash (s : State) (i : Nat) :
    (revertBoot s).boot.flash i = (s.boot.setFlash s.boot.bank { s.boot.flash s.boot.bank with st := .invalid }).flash i := rfl

/-- The parts of the security block that its kept form leaves as they are, and the staged changes that it drops. -/
theorem State.OutlastsReset.store {s u : State} (h : s.OutlastsReset u) :
    (∀ i, u.sec.notches i = s.sec.notches i) ∧ u.sec.nonces = s.sec.nonces ∧ u.sec.audit = s.sec.audit ∧ u.sec.auditSeq = s.sec.auditSeq ∧
      u.sec.stOp = {} ∧ u.sec.stOwn = {} ∧ u.sec.waiting = [] := by
  rw [h.sec]
  exact ⟨fun _ => rfl, rfl, rfl, rfl, rfl, rfl, rfl⟩

/-! ### The commands that reset the package -/

theorem exec_resetNAssert (s : State) :
    exec .resetNAssert s = .next { resetPackage true s with pins := { (resetPackage true s).pins with resetN := false } } := rfl

theorem exec_powerLoss (s : State) :
    exec .powerLoss s = .next { resetPackage false s with pins := { (resetPackage false s).pins with pwrOk := false } } := rfl

/-- A boot from a PENDING bank that is 5 s old and short of stage 8 is reverted (R372). -/
theorem exec_pendingBootTimeout_reverts {s : State} (h8 : s.boot.stage < 8) (h2 : 2 ≤ s.boot.stage)
    (hp : (s.boot.flash s.boot.bank).st = .pending) (ht : 5000000 ≤ s.us) : exec .pendingBootTimeout s = .next (revertBoot s) := by
  have due : (s.boot.stage < 8 && 2 ≤ s.boot.stage && (s.boot.flash s.boot.bank).st = .pending && 5000000 ≤ s.us) = true := by
    simp [h8, h2, hp, ht]
  change execPendingBootTimeout s = _
  rw [execPendingBootTimeout, if_pos due]

/-- Settles O49: each of the three commands answers the package's reset, or the reset after one bank is marked, and what outlasts the reset outlasts the command. Without power HBM is empty (log entry 25). -/
theorem resetKeepsStoredSettings : Obligations.ResetKeepsStoredSettings := by
  unfold Obligations.ResetKeepsStoredSettings
  intro kept
  have kept_of_outlasts {s u : State} (h : s.OutlastsReset u) : kept s u := by
    obtain ⟨notches, nonces, audit, auditSeq, stOp, stOwn, waiting⟩ := h.store
    exact ⟨fun i _ => h.settings i, notches, nonces, audit, auditSeq, h.active, h.floor, h.session, stOp, stOwn, waiting, h.hostMem, h.pending⟩
  refine ⟨?reset, ?revert⟩
  case reset =>
    rintro s c (rfl | rfl)
    · exact ⟨_, exec_resetNAssert s, kept_of_outlasts ((resetPackage_outlasts true s).of_pins _), rfl, rfl, nofun⟩
    · exact ⟨_, exec_powerLoss s, kept_of_outlasts ((resetPackage_outlasts false s).of_pins _), rfl, rfl, fun _ => rfl⟩
  case revert =>
    intro s h8 h2 hp hb ht
    refine ⟨_, exec_pendingBootTimeout_reverts h8 h2 hp ht, kept_of_outlasts (revertBoot_outlasts s), ?_, ?_⟩
    · rw [revertBoot_flash, Boot.flash_setFlash_other _ _ (by omega)]
    · rw [revertBoot_flash, Boot.flash_setFlash_same]

end Sys2Proof.Machine
end

section
/-! PROOFS. Every step keeps the byte memories canonical: what each command keeps, and what a cycle of the clocks keeps, put together. -/

namespace Sys2Proof.Machine

/-- A next state of any command keeps what its meaning keeps: the case split of `exec`, with the law of each command's meaning. -/
theorem exec_keeps {s0 s : State} (i : Instr) (h : Keeps s0 s) : OutcomeKeeps s0 (exec i s) :=
  match i with
  | .registerWrite src addr size val => execRegisterWrite_keeps src addr size val s h
  | .countLoRead read => execCountLoRead_keeps read s h
  | .faultSummaryRead addr size => execFaultSummaryRead_keeps addr size s h
  | .mirrorValueWrite src addr val => execMirrorValueWrite_keeps src addr val s h
  | .regionMakeLit src region comp => execRegionMakeLit_keeps src region comp s h
  | .regionMakeDark src region comp => execRegionMakeDark_keeps src region comp s h
  | .memMapWrite src die comp => execMemMapWrite_keeps src die comp s h
  | .enqueue tile eng cmd => execEnqueue_keeps tile eng cmd s h
  | .barrierArrival tile => execBarrierArrival_keeps tile s h
  | .exchangeBarrierArrival tile => execExchangeBarrierArrival_keeps tile s h
  | .exchangeRelease ctx badNode => execExchangeRelease_keeps ctx badNode s h
  | .boundaryBarrierArrival tile => execBoundaryBarrierArrival_keeps tile s h
  | .boundaryActions ctx badNode depOk => execBoundaryActions_keeps ctx badNode depOk s h
  | .contextSwitchComplete done => execContextSwitchComplete_keeps done s h
  | .stepChangeComplete region => execStepChangeComplete_keeps region s h
  | .stepHoldTimeout region => execStepHoldTimeout_keeps region s h
  | .staggerTargetReached => execStaggerTargetReached_keeps s h
  | .scalarLoad tile rd bil dword => execScalarLoad_keeps tile rd bil dword s h
  | .scalarStore tile rs bil off => execScalarStore_keeps tile rs bil off s h
  | .instructionFetch tile target mapOk ecc => execInstructionFetch_keeps tile target mapOk ecc s h
  | .storeAccessGrant tile bank => execStoreAccessGrant_keeps tile bank s h
  | .storeReadDataReturn tile ecc => execStoreReadDataReturn_keeps tile ecc s h
  | .correctedBilletWriteback tile bank => execCorrectedBilletWriteback_keeps tile bank s h
  | .subBilletWrite tile store => execSubBilletWrite_keeps tile store s h
  | .mergeComplete site store => execMergeComplete_keeps site store s h
  | .bankGateWrite src tile reg val => execBankGateWrite_keeps src tile reg val s h
  | .bankPowerOff tile bank => execBankPowerOff_keeps tile bank s h
  | .bankPowerRestored tile bank => execBankPowerRestored_keeps tile bank s h
  | .bankWakeComplete tile bank => execBankWakeComplete_keeps tile bank s h
  | .accumulate tile ecc => execAccumulate_keeps tile ecc s h
  | .drain site => execDrain_keeps site s h
  | .accumulateDrain tile ecc => execAccumulateDrain_keeps tile ecc s h
  | .spill site => execSpill_keeps site s h
  | .resume tile ecc => execResume_keeps tile ecc s h
  | .discard site => execDiscard_keeps site s h
  | .matrixCommandComplete tile => execMatrixCommandComplete_keeps tile s h
  | .add tile ecc => execAdd_keeps tile ecc s h
  | .sub tile ecc => execSub_keeps tile ecc s h
  | .mul tile ecc => execMul_keeps tile ecc s h
  | .fma tile ecc => execFma_keeps tile ecc s h
  | .min tile ecc => execMin_keeps tile ecc s h
  | .max tile ecc => execMax_keeps tile ecc s h
  | .abs tile ecc => execAbs_keeps tile ecc s h
  | .neg tile ecc => execNeg_keeps tile ecc s h
  | .cmpLt tile ecc => execCmpLt_keeps tile ecc s h
  | .cmpLe tile ecc => execCmpLe_keeps tile ecc s h
  | .cmpEq tile ecc => execCmpEq_keeps tile ecc s h
  | .rcp tile ecc => execRcp_keeps tile ecc s h
  | .sqrt tile ecc => execSqrt_keeps tile ecc s h
  | .rsqrt tile ecc => execRsqrt_keeps tile ecc s h
  | .exp tile ecc => execExp_keeps tile ecc s h
  | .exp2 tile ecc => execExp2_keeps tile ecc s h
  | .expm1 tile ecc => execExpm1_keeps tile ecc s h
  | .log tile ecc => execLog_keeps tile ecc s h
  | .log2 tile ecc => execLog2_keeps tile ecc s h
  | .tanh tile ecc => execTanh_keeps tile ecc s h
  | .sigmoid tile ecc => execSigmoid_keeps tile ecc s h
  | .cvtWiden tile ecc => execCvtWiden_keeps tile ecc s h
  | .cvtNarrow tile ecc => execCvtNarrow_keeps tile ecc s h
  | .vectorCommandComplete tile => execVectorCommandComplete_keeps tile s h
  | .ctrWait tile rs rt => execCtrWait_keeps tile rs rt s h
  | .ctrAdd tile id val => execCtrAdd_keeps tile id val s h
  | .ctrRead tile rd id => execCtrRead_keeps tile rd id s h
  | .rebaseApply ctx => execRebaseApply_keeps ctx s h
  | .copyIn site => execCopyIn_keeps site s h
  | .copyOut site => execCopyOut_keeps site s h
  | .streamIn site => execStreamIn_keeps site s h
  | .gather site => execGather_keeps site s h
  | .unload site => execUnload_keeps site s h
  | .carouselSet site => execCarouselSet_keeps site s h
  | .streamStop site => execStreamStop_keeps site s h
  | .hbmReadDataReturn tile op k ecc => execHbmReadDataReturn_keeps tile op k ecc s h
  | .hbmWriteAccept stack ecc => execHbmWriteAccept_keeps stack ecc s h
  | .dmaCommandComplete tile op => execDmaCommandComplete_keeps tile op s h
  | .stackWakeComplete stack => execStackWakeComplete_keeps stack s h
  | .stackIdleBank stack => execStackIdleBank_keeps stack s h
  | .patrolScrub stack line ecc => execPatrolScrub_keeps stack line ecc s h
  | .kget tile rs rt => execKget_keeps tile rs rt s h
  | .kput tile rs rt => execKput_keeps tile rs rt s h
  | .kindlingComplete tile id => execKindlingComplete_keeps tile id s h
  | .exchSelect tile pos ecc => execExchSelect_keeps tile pos ecc s h
  | .planEntryRead tile ecc => execPlanEntryRead_keeps tile ecc s h
  | .sendReadAhead tile entry => execSendReadAhead_keeps tile entry s h
  | .planEntryDue site => execPlanEntryDue_keeps site s h
  | .sendComplete tile entry => execSendComplete_keeps tile entry s h
  | .flitForward tile port ecc => execFlitForward_keeps tile port ecc s h
  | .flitArrival tile => execFlitArrival_keeps tile s h
  | .receiveComplete tile entry => execReceiveComplete_keeps tile entry s h
  | .chSend tile rs rt ecc => execChSend_keeps tile rs rt ecc s h
  | .chSendComplete tile msg => execChSendComplete_keeps tile msg s h
  | .chPeek tile ep rd => execChPeek_keeps tile ep rd s h
  | .chRelease tile ep => execChRelease_keeps tile ep s h
  | .channelLineArrival site => execChannelLineArrival_keeps site s h
  | .messageDelivered tile ep => execMessageDelivered_keeps tile ep s h
  | .creditFlitArrival site => execCreditFlitArrival_keeps site s h
  | .define site => execDefine_keeps site s h
  | .contribute tile ecc => execContribute_keeps tile ecc s h
  | .finish tile ecc => execFinish_keeps tile ecc s h
  | .release site => execRelease_keeps site s h
  | .rickCommandComplete tile => execRickCommandComplete_keeps tile s h
  | .rickPacketArrival tile => execRickPacketArrival_keeps tile s h
  | .rickAddition tile ecc => execRickAddition_keeps tile ecc s h
  | .handoffCredit tile => execHandoffCredit_keeps tile s h
  | .handoffPacketArrival ecc => execHandoffPacketArrival_keeps ecc s h
  | .stokerRecordApply stack bucket ecc => execStokerRecordApply_keeps stack bucket ecc s h
  | .roundComplete bucket => execRoundComplete_keeps bucket s h
  | .roundTimeout bucket => execRoundTimeout_keeps bucket s h
  | .fingerprintCompare bucket => execFingerprintCompare_keeps bucket s h
  | .createContext ring sigOk => execCreateContext_keeps ring sigOk s h
  | .destroyContext ring => execDestroyContext_keeps ring s h
  | .destroyContextComplete ctx => execDestroyContextComplete_keeps ctx s h
  | .contextMapRetry ctx => execContextMapRetry_keeps ctx s h
  | .submitGraph ring => execSubmitGraph_keeps ring s h
  | .cancelGraph ring => execCancelGraph_keeps ring s h
  | .pauseGraph ring => execPauseGraph_keeps ring s h
  | .resumeGraph ring => execResumeGraph_keeps ring s h
  | .rebase ring => execRebase_keeps ring s h
  | .defineBucket ring => execDefineBucket_keeps ring s h
  | .removeBucket ring => execRemoveBucket_keeps ring s h
  | .releaseHold ring => execReleaseHold_keeps ring s h
  | .locate ring => execLocate_keeps ring s h
  | .sqTailWrite src ring val => execSqTailWrite_keeps src ring val s h
  | .ringCtrlWrite src ring event val => execRingCtrlWrite_keeps src ring event val s h
  | .contextStop ctx => execContextStop_keeps ctx s h
  | .cadenceEdge period high => execCadenceEdge_keeps period high s h
  | .acquireTimeout => execAcquireTimeout_keeps s h
  | .minuteMarkMissing => execMinuteMarkMissing_keeps s h
  | .holdoverEntry => execHoldoverEntry_keeps s h
  | .generatedTick => execGeneratedTick_keeps s h
  | .fallbackTimeout => execFallbackTimeout_keeps s h
  | .compareWrite src slot hi val => execCompareWrite_keeps src slot hi val s h
  | .slotCtrlWrite src slot val => execSlotCtrlWrite_keeps src slot val s h
  | .envelopeMinuteRoll => execEnvelopeMinuteRoll_keeps s h
  | .tallyClose => execTallyClose_keeps s h
  | .tallySigned => execTallySigned_keeps s h
  | .envelopeLead => execEnvelopeLead_keeps s h
  | .staggerSlotFire => execStaggerSlotFire_keeps s h
  | .syncInEdge => execSyncInEdge_keeps s h
  | .snapshotTickTrigger => execSnapshotTickTrigger_keeps s h
  | .replicaCheckSend => execReplicaCheckSend_keeps s h
  | .counterSnapshot => execCounterSnapshot_keeps s h
  | .timeoutTick => execTimeoutTick_keeps s h
  | .softwareSlotFire slot => execSoftwareSlotFire_keeps slot s h
  | .railSample watts => execRailSample_keeps watts s h
  | .powerEvaluation temps => execPowerEvaluation_keeps temps s h
  | .regionTransitionComplete region => execRegionTransitionComplete_keeps region s h
  | .superstepWatchdogExpiry ctx => execSuperstepWatchdogExpiry_keeps ctx s h
  | .evlTraining lanes => execEvlTraining_keeps lanes s h
  | .evlTrainingRetry lanes => execEvlTrainingRetry_keeps lanes s h
  | .evlFrameReceive seq good chan units want => execEvlFrameReceive_keeps seq good chan units want s h
  | .bulkRequest head data ecc => execBulkRequest_keeps head data ecc s h
  | .coherentSnoop addr line ecc => execCoherentSnoop_keeps addr line ecc s h
  | .cordSignalDetect link => execCordSignalDetect_keeps link s h
  | .cordFecLock link half => execCordFecLock_keeps link half s h
  | .cordTrainingTimeout link => execCordTrainingTimeout_keeps link s h
  | .cordSignalLost link => execCordSignalLost_keeps link s h
  | .hello link frame certOk => execHello_keeps link frame certOk s h
  | .proof link frame sigOk => execProof_keeps link frame sigOk s h
  | .confirm link word tagOk => execConfirm_keeps link word tagOk s h
  | .authenticationTimeout link => execAuthenticationTimeout_keeps link s h
  | .cordDataFrameReceive link frame tagOk => execCordDataFrameReceive_keeps link frame tagOk s h
  | .ack link word => execAck_keeps link word s h
  | .replay link word => execReplay_keeps link word s h
  | .credit link word => execCredit_keeps link word s h
  | .arrive link word => execArrive_keeps link word s h
  | .cadence link word => execCadence_keeps link word s h
  | .rekey link word => execRekey_keeps link word s h
  | .rekeyStart link => execRekeyStart_keeps link s h
  | .cordDegradedRecovery link => execCordDegradedRecovery_keeps link s h
  | .quarantineBackoffExpiry link => execQuarantineBackoffExpiry_keeps link s h
  | .quarantineCountReset link => execQuarantineCountReset_keeps link s h
  | .systemBarrierTimeout ctx => execSystemBarrierTimeout_keeps ctx s h
  | .cordEnableWrite src link val => execCordEnableWrite_keeps src link val s h
  | .cordSplitWrite src port val => execCordSplitWrite_keeps src port val s h
  | .quarantineRelease src link val => execQuarantineRelease_keeps src link val s h
  | .roleCommand sideband bytes chk => execRoleCommand_keeps sideband bytes chk s h
  | .writeRegs sideband bytes chk => execWriteRegs_keeps sideband bytes chk s h
  | .stageEnvelope sideband bytes chk => execStageEnvelope_keeps sideband bytes chk s h
  | .envelopeAlign sideband bytes chk => execEnvelopeAlign_keeps sideband bytes chk s h
  | .store sideband bytes chk => execStore_keeps sideband bytes chk s h
  | .storeComplete => execStoreComplete_keeps s h
  | .discardStaged sideband bytes chk => execDiscardStaged_keeps sideband bytes chk s h
  | .bindKey sideband bytes chk => execBindKey_keeps sideband bytes chk s h
  | .ownerRelease sideband bytes chk => execOwnerRelease_keeps sideband bytes chk s h
  | .ownerReleaseComplete => execOwnerReleaseComplete_keeps s h
  | .powerKeyBind sideband bytes chk => execPowerKeyBind_keeps sideband bytes chk s h
  | .auditAck sideband bytes chk => execAuditAck_keeps sideband bytes chk s h
  | .stagePartners sideband bytes chk => execStagePartners_keeps sideband bytes chk s h
  | .attestOwner sideband bytes chk => execAttestOwner_keeps sideband bytes chk s h
  | .attestRequest src val => execAttestRequest_keeps src val s h
  | .attestReportReady => execAttestReportReady_keeps s h
  | .powerOkRise => execPowerOkRise_keeps s h
  | .resetNAssert => execResetNAssert_keeps s h
  | .resetNRelease => execResetNRelease_keeps s h
  | .powerLoss => execPowerLoss_keeps s h
  | .bootRomStage romOk journal aOk bOk badA bad => execBootRomStage_keeps romOk journal aOk bOk badA bad s h
  | .firmwareLoadStage ok => execFirmwareLoadStage_keeps ok s h
  | .migrationStage ok => execMigrationStage_keeps ok s h
  | .crossingTrainingStage failed => execCrossingTrainingStage_keeps failed s h
  | .hbmTrainingStage failed => execHbmTrainingStage_keeps failed s h
  | .selfTestStage regions ports => execSelfTestStage_keeps regions ports s h
  | .deviceReady => execDeviceReady_keeps s h
  | .startStageTimeout => execStartStageTimeout_keeps s h
  | .pendingBootTimeout => execPendingBootTimeout_keeps s h
  | .fencedRegionDark region => execFencedRegionDark_keeps region s h
  | .updateBegin bytes => execUpdateBegin_keeps bytes s h
  | .updateCopyComplete => execUpdateCopyComplete_keeps s h
  | .updateBlock bytes sigOk => execUpdateBlock_keeps bytes sigOk s h
  | .updateEnd bytes => execUpdateEnd_keeps bytes s h
  | .updateAbort => execUpdateAbort_keeps s h
  | .ashpitEnableWrite src val => execAshpitEnableWrite_keeps src val s h
  | .ashpitHeaderRewrite => execAshpitHeaderRewrite_keeps s h
  | .ctrlLatchStart src addr => execCtrlLatchStart_keeps src addr s h
  | .ctrlLatchEnd src addr => execCtrlLatchEnd_keeps src addr s h
  | .tagLoad src val => execTagLoad_keeps src val s h
  | .snapshotArm src req val => execSnapshotArm_keeps src req val s h
  | .snapshotComplete ctx depOk => execSnapshotComplete_keeps ctx depOk s h
  | .captureArm src val => execCaptureArm_keeps src val s h
  | .replayArm src val => execReplayArm_keeps src val s h
  | .statuesStopWrite src => execStatuesStopWrite_keeps src s h
  | .stopInEdge => execStopInEdge_keeps s h
  | .scanOutStart => execScanOutStart_keeps s h
  | .scanOutEnd => execScanOutEnd_keeps s h
  | .recover src => execRecover_keeps src s h
  | .thermalTrip junction temp => execThermalTrip_keeps junction temp s h
  | .stackHot stack temp => execStackHot_keeps stack temp s h
  | .smbusReadBootStatus => execSmbusReadBootStatus_keeps s h
  | .smbusReadIdentity => execSmbusReadIdentity_keeps s h
  | .smbusReadTemperatures => execSmbusReadTemperatures_keeps s h
  | .smbusReadFaultSummary => execSmbusReadFaultSummary_keeps s h
  | .smbusRoleChunk bytes chk => execSmbusRoleChunk_keeps bytes chk s h
  | .smbusRoleReply => execSmbusRoleReply_keeps s h
  | .jtagAccess op => execJtagAccess_keeps op s h
  | .syncOutPulseEnd => execSyncOutPulseEnd_keeps s h
  | .thermAlertRelease => execThermAlertRelease_keeps s h

/-- The queue is no byte memory: a state whose front command is taken off keeps what it is. -/
theorem State.memOk.pending {s : State} (h : s.memOk) (q : List Instr) : State.memOk { s with pending := q } := h

/-- A step from canonical memories keeps them, whether a command runs or the clocks do. -/
theorem step_memOk {s u : State} (h : s.memOk) (hu : step s = .next u) : u.memOk := by
  unfold step at hu
  split at hu
  case h_1 =>
    cases hu
    exact (tick_keeps s (Keeps.refl s h)).memOk
  case h_2 i rest _ =>
    exact (exec_keeps i (Keeps.refl _ (h.pending rest)) u hu).memOk

/-- Settles O57: every meaning of a command, and a cycle of the clocks, keeps the memories canonical (log entry 3). -/
theorem memoriesStayCanonical : Obligations.MemoriesStayCanonical :=
  fun _ _ h hu => step_memOk h hu

end Sys2Proof.Machine
end

section
/-! PROOFS. Changes of one unit, read as writes of it, for the equations of the commands. -/

namespace Sys2Proof.Machine

@[simp] theorem State.setTile_modTile (s : State) (t : Nat) (x : Tile) (f : Tile → Tile) : (s.setTile t x).modTile t f = s.setTile t (f x) := by
  rw [State.modTile, State.setTile_self, State.setTile_setTile]

@[simp] theorem State.modTile_modTile (s : State) (t : Nat) (f g : Tile → Tile) : (s.modTile t f).modTile t g = s.modTile t (fun x => g (f x)) :=
  s.setTile_modTile t _ g

/-- A change of one tile leaves every other. -/
theorem State.setTile_onlyTile (s : State) (t : Nat) (x : Tile) : s.OnlyTile (s.setTile t x) t := by
  rw [State.OnlyTile, State.setTile_self]

theorem State.modCtx_of_some (s : State) {n : Nat} {c : Ctx} (h : s.ctx n = some c) (f : Ctx → Ctx) : s.modCtx n f = s.setCtx n (f c) := by
  rw [State.modCtx, h]

/-- Changing a context touches the contexts alone. -/
theorem State.modCtx_rest (s : State) (n : Nat) (f : Ctx → Ctx) : s.modCtx n f = { s with ctxs := (s.modCtx n f).ctxs } := by
  unfold State.modCtx
  split <;> rfl

end Sys2Proof.Machine
end

section
/-! PROOFS. What the barriers of a partition leave (R39, R204 to R206). -/

namespace Sys2Proof.Machine

/-! ### The exchange barrier (R39, R205) -/

theorem exec_exchangeBarrierArrival {s : State} {t : TileId} {a : Nat × MapEntry} {n : Nat} {c : Ctx}
    (hi : coreIssue s t (fun st => st = .barrier) = some a) (hr : (s.tile t).runCtx = some n) (hs : (s.tile t).settled n = true) (hc : s.ctx n = some c) :
    exec (.exchangeBarrierArrival t) s = .next ((s.setTile t { s.tile t with
        stall := .exchange, coreSt := 3, exch := { (s.tile t).exch with phase := 1 }, arrivedAt := (s.region (regionOf t)).cycles }).setCtx n
      { c with
        barrier := 1
        arrived := if c.arrived.contains t then c.arrived else c.arrived ++ [t.val]
        planIds := c.planIds ++ [(s.tile t).exch.planId]
        firstArr := if c.arrived = [] then s.ctxCycles c else c.firstArr
        lastArr := s.ctxCycles c, lastExArr := s.ctxCycles c }) := by
  change execExchangeBarrierArrival t s = _
  rw [execExchangeBarrierArrival, hi, hr]
  dsimp only
  rw [if_pos hs]
  exact congrArg Host.Outcome.next ((s.setTile t _).modCtx_of_some hc _)

/-! ### The release into the exchange phase (R204, R206) -/

/-- What the release makes of a tile of the partition: its plan starts at offset 0, and without a plan it waits at the boundary. -/
def Tile.startExchange (x : Tile) : Tile :=
  { x with exch := { x.exch with phase := if x.exch.plan.isSome then 2 else 3, offset := 0, slip := 0, holding := none, ended := false } }

theorem Tile.startExchange_startExchange (x : Tile) : x.startExchange.startExchange = x.startExchange := rfl

theorem sendArrives_tile (n : Nat) (s : State) (t : Nat) : (sendArrives n s).tile t = s.tile t := by
  rw [sendArrives_rest]
  rfl

theorem releaseExchange_tile (n : Nat) (c : Ctx) (s : State) (t : Nat) :
    (releaseExchange n c s).tile t = if t ∈ c.tiles then (s.tile t).startExchange else s.tile t := by
  rw [← forAll_modTile_tile c.tiles Tile.startExchange Tile.startExchange_startExchange s t, releaseExchange, sendArrives_tile, State.modCtx_rest]
  rfl

/-- A release touches tiles, contexts and the ARRIVE words on the links alone. -/
theorem releaseExchange_rest (n : Nat) (c : Ctx) (s : State) :
    releaseExchange n c s = { s with
      tiles := (releaseExchange n c s).tiles, ctxs := (releaseExchange n c s).ctxs, links := (releaseExchange n c s).links } := by
  unfold releaseExchange
  rw [sendArrives_rest, State.modCtx_rest, forAll_modTile_rest c.tiles (fun _ => _) s]

/-- With every tile arrived under one PLAN_ID and no node in error the partition is released. -/
theorem exec_exchangeRelease {s : State} {n : CtxId} {c : Ctx} {p : Nat} (hc : s.ctx n = some c) (hq : s.statues = false) (hst : c.st = .running)
    (hstop : c.stop = none) (hb : c.barrier = 1) (hin : ∀ t ∈ c.tiles, t ∈ c.arrived) (hp : ∀ q ∈ c.planIds, q = p) :
    exec (.exchangeRelease n none) s = .next (releaseExchange n c s) := by
  have all_in : c.allIn = true := by simpa [Ctx.allIn] using hin
  have one_plan : c.planIds.all (fun q => some q = c.planIds.head?) = true := by
    cases hl : c.planIds with
    | nil => rfl
    | cons a r =>
      rw [hl] at hp
      simp only [List.all_eq_true, decide_eq_true_eq, List.head?_cons, Option.some.injEq]
      exact fun q hqm => (hp q hqm).trans (hp a List.mem_cons_self).symm
  change execExchangeRelease n none s = _
  simp [execExchangeRelease, hc, hq, hst, hstop, hb, all_in, one_plan]

/-! ### The boundary barrier (R206) -/

theorem exec_boundaryBarrierArrival {s : State} {t : TileId} {slot : Nat} {m : MapEntry} {c : Ctx} (hx : exchCtx s t = some (slot, m, c))
    (hp : (s.tile t).exch.phase = 2) (hb : c.barrier = 2) (ho : (s.tile t).exch.isOver = true) :
    exec (.boundaryBarrierArrival t) s = .next (sendArrives m.ctx
      (((finishSends t s).modTile t (fun x => { x with exch := { x.exch with phase := 3 } })).modCtx m.ctx (fun c' => { c' with
        arrived := if c'.arrived.contains t then c'.arrived else c'.arrived ++ [t.val], lastArr := s.ctxCycles c' }))) := by
  have plan_ended : ((s.tile t).exch.phase = 2 && c.barrier = 2 && (s.tile t).exch.isOver) = true := by simp [hp, hb, ho]
  change execBoundaryBarrierArrival t s = _
  rw [execBoundaryBarrierArrival, hx]
  dsimp only
  rw [if_pos plan_ended]
  rfl

/-- Settles O6: each of the three commands does what its rule says once its conditions hold; a released tile starts its exchange phase at offset 0. -/
theorem barrierCommandsComplete : Obligations.BarrierCommandsComplete := by
  unfold Obligations.BarrierCommandsComplete
  refine ⟨?arrival, ?release, ?boundary⟩
  case arrival =>
    intro s t a n c hi hr hs hc
    exact exec_exchangeBarrierArrival hi hr hs hc
  case release =>
    intro s n c p hc hq hst hstop hb hin hp
    exact ⟨_, exec_exchangeRelease hc hq hst hstop hb hin hp, releaseExchange_tile n c s, releaseExchange_rest n c s⟩
  case boundary =>
    intro s t slot m c hx hp hb ho
    exact exec_boundaryBarrierArrival hx hp hb ho

end Sys2Proof.Machine
end

section
/-! PROOFS. What the instructions of a tile's core leave (R34 to R40, R64, R157 to R160). -/

namespace Sys2Proof.Machine

/-! ### Loads, stores and fetches (R40, R58, R64) -/

theorem exec_scalarLoad {s : State} {t : TileId} {slot : Nat} {e : MapEntry} {bil : BitVec 16} {d : Nat} {st : StoreId} {i : Nat} (rd : Fin 32)
    (hi : coreIssue s t freeCore = some (slot, e)) (hd : d < 64) (hr : e.resolve bil.toNat 1 = .ok (st, i)) :
    exec (.scalarLoad t rd bil (8 * d)) s = .next (s.setTile t
      { (s.tile t).post (s.tileCycle t) { who := .core, store := st, bil := i, dst := .coreReg slot rd d } with stall := .load, coreSt := 1 }) := by
  have aligned : ¬ 8 * d % 8 ≠ 0 := by omega
  have inside : ¬ 512 ≤ 8 * d := by omega
  have dword : 8 * d / 8 = d := by omega
  change execScalarLoad t rd bil (8 * d) s = _
  rw [execScalarLoad, hi]
  dsimp only
  rw [if_neg aligned, if_neg inside, hr, dword]
  exact congrArg Host.Outcome.next (s.modTile_modTile t _ _)

theorem exec_scalarStore {s : State} {t : TileId} {slot : Nat} {e : MapEntry} {bil : BitVec 16} {d : Nat} {st : StoreId} {i : Nat} (rs : Fin 32)
    (hi : coreIssue s t freeCore = some (slot, e)) (hd : d < 64) (hr : e.resolve bil.toNat 1 = .ok (st, i)) :
    exec (.scalarStore t rs bil (8 * d)) s = .next (s.setTile t { s.tile t with
      merges := (s.tile t).merges ++ [{ store := st, bil := i, off := 8 * d, bytes := natLe 8 ((s.tile t).reg slot rs).toNat, org := .core, seq := (s.tile t).nextReq }]
      nextReq := (s.tile t).nextReq + 1 }) := by
  have aligned : ¬ 8 * d % 8 ≠ 0 := by omega
  have inside : ¬ 512 < 8 * d + 8 := by omega
  change execScalarStore t rs bil (8 * d) s = _
  rw [execScalarStore, hi]
  dsimp only
  rw [if_neg aligned, if_neg inside, hr]
  rfl

/-- A read of the instruction memory that its check finds clean changes nothing. -/
theorem imemEcc_clean (t bil : Nat) (s : State) : imemEcc t bil .clean s = (some s, s) := rfl

theorem exec_instructionFetch {s : State} {t : TileId} {slot : Nat} {e : MapEntry} {target : Option Nat} {pc : Nat}
    (hi : coreIssue s t freeCore = some (slot, e)) (hpc : target.getD (sgetD (s.tile t).banks slot {}).pc = pc)
    (hslice : 4 * pc < 1024 * e.imSize) (hcode : 4 * pc < e.codeLen) :
    exec (.instructionFetch t target true .clean) s = .next (s.setTile t { s.tile t with
      fetched := BitVec.ofNat 32 (leNat (memRead (s.tile t).store (storeOff .imem + 1024 * e.imBase + 4 * pc) 4))
      coreSlot := slot
      banks := sset (s.tile t).banks slot { sgetD (s.tile t).banks slot {} with pc := pc + 1 } }) := by
  have inside : ¬ (1024 * e.imSize ≤ 4 * pc || e.codeLen ≤ 4 * pc) = true := by simp [hslice, hcode]
  change execInstructionFetch t target true .clean s = _
  rw [execInstructionFetch, hi]
  dsimp only
  rw [hpc, if_neg (by decide), if_neg inside, checkOf, imemEcc_clean]
  rfl

/-! ### Counters (R152, R157 to R160) -/

/-- An add for the context that holds the slot is applied to the counter (R154, R159). -/
theorem postAdd_of_entry {s : State} {t slot n : Nat} {e : MapEntry} (h : (s.tile t).entry slot = some e) (hn : n ≠ 0) (id : Nat) :
    postAdd t e.ctx slot id n s = s.setTile t ((s.tile t).addCounter (e.ctrBase + id) n) := by
  rw [postAdd, if_neg hn, h]
  dsimp only
  rw [if_pos rfl]
  rfl

theorem Tile.addCounter_of_lt {x : Tile} {p n : Nat} (h : (x.counter p).toNat + n < 2 ^ 48) :
    x.addCounter p n = { x with ctr := sset x.ctr p (BitVec.ofNat 48 ((x.counter p).toNat + n)) } :=
  if_pos h

/-- Beyond 48 bits a counter holds at its greatest value, with its flag (R159, R163). -/
theorem Tile.addCounter_of_ge {x : Tile} {p n : Nat} (h : 2 ^ 48 ≤ (x.counter p).toNat + n) :
    x.addCounter p n = { x with ctr := sset x.ctr p (BitVec.ofNat 48 (2 ^ 48 - 1)), sat := x.sat ||| BitVec.ofNat 64 (2 ^ p) } :=
  if_neg (Nat.not_lt.mpr h)

theorem exec_ctrAdd {s : State} {t : TileId} {slot : Nat} {e : MapEntry} {id val : BitVec 8} (hi : coreIssue s t freeCore = some (slot, e))
    (hid : id.toNat < e.ctrSize) (hv : val ≠ 0) :
    exec (.ctrAdd t id val) s = .next (s.setTile t ((s.tile t).addCounter (e.ctrBase + id.toNat) val.toNat)) := by
  have nonzero : val.toNat ≠ 0 := by simpa [← BitVec.toNat_inj] using hv
  change execCtrAdd t id val s = _
  rw [execCtrAdd, hi]
  dsimp only
  rw [if_neg (Nat.not_le.mpr hid), if_neg hv, postAdd_of_entry (coreIssue_entry hi) nonzero]

theorem exec_ctrRead {s : State} {t : TileId} {slot : Nat} {e : MapEntry} {id : BitVec 8} (rd : Fin 32) (hi : coreIssue s t freeCore = some (slot, e))
    (hid : id.toNat < e.ctrSize) :
    exec (.ctrRead t rd id) s =
      .next (s.modTile t (fun x => x.setReg slot rd ((x.counter (e.ctrBase + id.toNat)).setWidth 64))) := by
  change execCtrRead t rd id s = _
  rw [execCtrRead, hi]
  dsimp only
  rw [if_neg (Nat.not_le.mpr hid)]
  rfl

/-- A wait for a counter that is not saturated finds it met or unmet (R157). -/
theorem Tile.waits_of_unsaturated {x : Tile} {e : MapEntry} {v : Nat} (h : x.sat.getLsbD (e.ctrBase + v) = false) (value : Nat) :
    x.waits e v value = if waitMet (x.counter (e.ctrBase + v)) value then .met else .unmet :=
  if_neg (by simp [MapEntry.counter, h])

theorem exec_ctrWait {s : State} {t : TileId} {slot : Nat} {e : MapEntry} {rs : Fin 32} (rt : Fin 32)
    (hi : coreIssue s t (fun st => st = .none || st = .ctrWait) = some (slot, e)) (hid : ((s.tile t).reg slot rs).toNat < e.ctrSize)
    (hs : (s.tile t).sat.getLsbD (e.ctrBase + ((s.tile t).reg slot rs).toNat) = false) :
    exec (.ctrWait t rs rt) s = .next (s.setTile t { s.tile t with
      stall := if waitMet ((s.tile t).counter (e.ctrBase + ((s.tile t).reg slot rs).toNat)) ((s.tile t).reg slot rt).toNat then .none else .ctrWait
      coreSt := 1 }) := by
  change execCtrWait t rs rt s = _
  rw [execCtrWait, hi]
  dsimp only
  rw [if_neg (Nat.not_le.mpr hid), Tile.waits_of_unsaturated hs]
  split_ifs <;> rfl

/-- Settles O1: one equation for each instruction, under the conditions that let the core issue it. -/
theorem coreInstructionsComplete : Obligations.CoreInstructionsComplete := by
  unfold Obligations.CoreInstructionsComplete
  refine ⟨?load, ?store, ?fetch, ?add, ?saturate, ?read, ?wait⟩
  case load =>
    intro s t slot e rd bil d st i hi hd hr
    exact exec_scalarLoad rd hi hd hr
  case store =>
    intro s t slot e rs bil d st i hi hd hr
    exact exec_scalarStore rs hi hd hr
  case fetch =>
    intro s t slot e target hi pc hslice hcode
    exact exec_instructionFetch hi rfl hslice hcode
  case add =>
    intro s t slot e id val hi hid hv hlt
    rw [exec_ctrAdd hi hid hv, Tile.addCounter_of_lt hlt]
  case saturate =>
    intro s t slot e id val hi hid hv hge
    rw [exec_ctrAdd hi hid hv, Tile.addCounter_of_ge hge]
  case read =>
    intro s t slot e rd id hi hid
    refine ⟨_, exec_ctrRead rd hi hid, s.setTile_onlyTile t _, ?_⟩
    rw [State.modTile_self]
    refine ⟨Tile.setReg_banks _ _ _ _, ?written, ?others⟩
    case written => simp [Tile.reg_setReg]
    case others =>
      intro k r hkr
      rw [Tile.reg_setReg, if_neg (by omega)]
  case wait =>
    intro s t slot e rs rt hi hid hs
    exact exec_ctrWait rt hi hid hs

/-! ### ENQUEUE and the barrier-arrival instruction (R36, R37, R39, R279) -/

/-- A check that passes behind checks that pass refuses nothing. -/
theorem pickCode_append_pass {xs : List (Bool × Nat)} {p : Bool} (c : Nat) (h : pickCode xs = none) (hp : p = false) :
    pickCode (xs ++ [(p, c)]) = none := by
  subst hp
  simpa [pickCode] using h

theorem exec_enqueue_room {s : State} {t : TileId} {eng : Engine} {cmd : BitVec 256} {slot : Nat} {e : MapEntry}
    (hi : coreIssue s t (fun st => st = .none || st = .queueFull eng) = some (slot, e)) (hq : (s.tile t).queueUse eng < queueDepth eng)
    (hc : pickCode (engineChecks e eng cmd) = none) (hf : ∀ b ∈ featureBits eng cmd, ∃ c, s.ctx e.ctx = some c ∧ bit c.features b = true) :
    exec (.enqueue t eng ⟨cmd, true⟩) s = .next (s.setTile t
      (({ s.tile t with stall := .none, coreSt := 1 } : Tile).push eng { ctx := e.ctx, slot := slot, cmd := cmd })) := by
  change execEnqueue t eng ⟨cmd, true⟩ s = _
  rw [execEnqueue, hi]
  dsimp only
  rw [if_neg (by decide), if_neg (Nat.not_le.mpr hq), pickCode_append_pass _ hc]
  · rfl
  · rw [List.any_eq_false]
    intro b hb
    obtain ⟨c, hctx, hbit⟩ := hf b hb
    simp [hctx, hbit]

/-- At a full queue the core stalls, whatever the command (R36). -/
theorem exec_enqueue_full {s : State} {t : TileId} {eng : Engine} {slot : Nat} {e : MapEntry} (cmd : BitVec 256)
    (hi : coreIssue s t (fun st => st = .none || st = .queueFull eng) = some (slot, e)) (hq : queueDepth eng ≤ (s.tile t).queueUse eng) :
    exec (.enqueue t eng ⟨cmd, true⟩) s = .next (s.setTile t { s.tile t with stall := .queueFull eng, coreSt := 2 }) := by
  change execEnqueue t eng ⟨cmd, true⟩ s = _
  rw [execEnqueue, hi]
  dsimp only
  rw [if_neg (by decide), if_pos hq]
  rfl

theorem exec_barrierArrival {s : State} {t : TileId} {a : Nat × MapEntry} (hi : coreIssue s t freeCore = some a) :
    exec (.barrierArrival t) s = .next (s.setTile t { s.tile t with stall := .barrier, coreSt := 3 }) := by
  change execBarrierArrival t s = _
  rw [execBarrierArrival, hi]
  rfl

/-- Settles O2: ENQUEUE with room and at a full queue, for every engine, and the barrier-arrival instruction. -/
theorem enqueueCompletes : Obligations.EnqueueCompletes := by
  unfold Obligations.EnqueueCompletes
  refine ⟨?room, ?full, ?barrier⟩
  case room =>
    intro s t eng cmd slot e hi hq hc hf
    exact exec_enqueue_room hi hq hc hf
  case full =>
    intro s t eng cmd slot e hi hq
    exact exec_enqueue_full cmd hi hq
  case barrier =>
    intro s t slot e hi
    exact exec_barrierArrival hi

end Sys2Proof.Machine
end

section
/-! PROOFS. What the banks of a tile leave: grants and reads, merges, and gating (R45 to R49, R58, R60 to R63). -/

namespace Sys2Proof.Machine

/-! ### Grants (R46 to R49, R61, R62) -/

/-- A bank takes a request: it is lit, or it is closing and has accepted it (R61, R62). -/
def Tile.takes (x : Tile) (b : Nat) (r : BankReq) : Bool := x.bankOpen b || (r.acc && (x.bank b).st = .closing)

theorem Tile.takes_iff {x : Tile} {b : Nat} {r : BankReq} : x.takes b r = true ↔ x.bankOpen b = true ∨ r.acc = true ∧ (x.bank b).st = .closing := by
  simp [Tile.takes]

/-- What becomes of a request that its bank takes: a write lands, a read waits with the image of its billet. -/
def grantTaken (t b : Nat) (r : BankReq) (s : State) : State :=
  let y := (s.tile t).granted (s.tileCycle t) b r
  match r.wr with
  | some bs => applyWrite t r bs (s.setTile t y)
  | none => s.setTile t (({ y with
      reads := y.reads ++ [{ r with readyAt := s.tileCycle t + bankLatency b, data := (s.tile t).billet r.store r.bil }] } : Tile).consume r)

theorem grantTaken_write {r : BankReq} {bs : List Byte} (h : r.wr = some bs) (t b : Nat) (s : State) :
    grantTaken t b r s = applyWrite t r bs (s.setTile t ((s.tile t).granted (s.tileCycle t) b r)) := by
  rw [grantTaken, h]

theorem grantTaken_read {r : BankReq} (h : r.wr = none) (t b : Nat) (s : State) :
    grantTaken t b r s = s.setTile t (({ (s.tile t).granted (s.tileCycle t) b r with
      reads := ((s.tile t).granted (s.tileCycle t) b r).reads ++
        [{ r with readyAt := s.tileCycle t + bankLatency b, data := (s.tile t).billet r.store r.bil }] } : Tile).consume r) := by
  rw [grantTaken, h]

/-- Nothing keeps a free bank from its leading request, which it takes or refuses. -/
theorem exec_storeAccessGrant {s : State} {t : TileId} {b : Fin 89} {r : BankReq} (hl : leader ((s.tile t).waiting (s.tileCycle t) b) = some r)
    (hf : (s.tile t).bankFree (s.tileCycle t) b = true) (hw : ((s.tile t).bank b).writeback = [])
    (hc : (s.tile t).bondCarries (s.tileCycle t) b r = true) (hp : b.val = 88 → (s.tile t).planTurn (s.tileCycle t) = false) :
    exec (.storeAccessGrant t b) s = .next (if (s.tile t).takes b r then grantTaken t b r s else refuseDark t r s) := by
  have free : ¬ (!(s.tile t).bankFree (s.tileCycle t) b || ((s.tile t).bank b).writeback ≠ [] || !(s.tile t).bondCarries (s.tileCycle t) b r
      || (b.val = 88 && (s.tile t).planTurn (s.tileCycle t))) = true := by
    simpa [hf, hw, hc] using hp
  change execStoreAccessGrant t b s = _
  rw [execStoreAccessGrant]
  dsimp only
  rw [hl]
  dsimp only
  rw [if_neg free, ← Tile.takes]
  by_cases h : (s.tile t).takes b r = true
  · rw [if_pos h, if_neg (by simp [h]), grantTaken]
    cases r.wr with
    | some bs => rfl
    | none => exact congrArg Host.Outcome.next (s.modTile_modTile t _ _)
  · rw [if_neg h, if_pos (by simp [h])]

/-! ### Read returns and corrected billets (R45, R46) -/

theorem exec_storeReadDataReturn {s : State} {t : TileId} {r : BankReq}
    (h : (s.tile t).reads.find? (fun r => r.readyAt ≤ (s.tileCycle t)) = some r) :
    exec (.storeReadDataReturn t .clean) s = .next (deliver t r (s.setTile t { s.tile t with reads := (s.tile t).reads.erase r })) := by
  change execStoreReadDataReturn t .clean s = _
  rw [execStoreReadDataReturn]
  dsimp only
  rw [h]
  rfl

/-- A billet for the core brings its register the doubleword asked for, and the core runs on (R40). -/
theorem deliver_coreReg {r : BankReq} {slot reg d : Nat} (h : r.dst = .coreReg slot reg d) (t : Nat) (s : State) :
    deliver t r s = s.modTile t (fun x => (x.setReg slot reg (BitVec.ofNat 64 (bytesAt r.data (8 * d) 8))).setStall .none) := by
  simp only [deliver, h]

theorem exec_correctedBilletWriteback {s : State} {t : TileId} {b : Fin 89} (hw : ((s.tile t).bank b).writeback ≠ [])
    (hf : (s.tile t).bankFree (s.tileCycle t) b = true) :
    exec (.correctedBilletWriteback t b) s = .next (s.setTile t ((s.tile t).setBank b
      { (s.tile t).bank b with writeback := ((s.tile t).bank b).writeback.drop 1, lastGrant := s.tileCycle t + 1, lastWho := none })) := by
  have due : (((s.tile t).bank b).writeback ≠ [] && (s.tile t).bankFree (s.tileCycle t) b) = true := by simp [hw, hf]
  change execCorrectedBilletWriteback t b s = _
  rw [execCorrectedBilletWriteback]
  dsimp only
  rw [if_pos due]

/-- Settles O3: a free bank's leading request is granted or refused, a read returns what the grant saw, and a corrected billet takes a grant. -/
theorem bankAccessCompletes : Obligations.BankAccessCompletes := by
  unfold Obligations.BankAccessCompletes
  refine ⟨?grant, ?back, ?corrected⟩
  case grant =>
    intro s t b r hl hf hw hc hp takes
    rw [exec_storeAccessGrant hl hf hw hc hp]
    refine ⟨?read, ?write, ?dark⟩
    case read =>
      intro h hr
      rw [if_pos (Tile.takes_iff.mpr h), grantTaken_read hr]
    case write =>
      intro h bs hr
      rw [if_pos (Tile.takes_iff.mpr h), grantTaken_write hr]
    case dark =>
      intro h
      rw [if_neg (mt Tile.takes_iff.mp h)]
  case back =>
    intro s t r h
    refine ⟨exec_storeReadDataReturn h, ?_⟩
    intro slot reg d hd
    rw [exec_storeReadDataReturn h, deliver_coreReg hd, State.setTile_modTile]
    rfl
  case corrected =>
    intro s t b hw hf
    exact exec_correctedBilletWriteback hw hf

/-! ### Merges (R58, R191) -/

theorem exec_subBilletWrite {s : State} {t : TileId} {st : StoreId} {m : MergeEntry}
    (hn : ((s.tile t).merges.filter (fun m => m.store = st && m.stage ≠ .queued)).length < 4)
    (hm : (s.tile t).merges.find? (fun m => m.store = st && m.stage = .queued && !(s.tile t).inMerge st m.bil && !(s.tile t).kputWaits st m.bil m.seq)
      = some m) :
    exec (.subBilletWrite t st) s = .next (s.setTile t
      (({ s.tile t with merges := (s.tile t).merges.replace m { m with stage := .reading } } : Tile).post
        (s.tileCycle t) { who := .merge, store := st, bil := m.bil, dst := .merge })) := by
  change execSubBilletWrite t st s = _
  rw [execSubBilletWrite]
  dsimp only
  rw [if_neg (Nat.not_le.mpr hn), hm]
  exact congrArg Host.Outcome.next (s.setTile_modTile t _ _)

theorem exec_mergeComplete {s : State} {t : TileId} {st : StoreId} {m : MergeEntry}
    (hm : (s.tile t).merges.find? (fun m => m.store = st && m.stage = .granted) = some m) :
    exec (.mergeComplete ⟨t, .clean⟩ st) s = .next (s.modTile t (fun x =>
      let y := { x with merges := x.merges.erase m }
      match m.org with
      | .kget id => y.modK id (fun k => { k with done := true })
      | _ => y)) := by
  change execMergeComplete ⟨t, .clean⟩ st s = _
  rw [execMergeComplete]
  dsimp only
  rw [hm]
  rfl

/-- Settles O4: the oldest waiting write of a store takes an entry, and the oldest written-back merge leaves; of its origins a KGET alone is told. -/
theorem mergeCompletes : Obligations.MergeCompletes := by
  unfold Obligations.MergeCompletes
  refine ⟨?start, ?finish⟩
  case start =>
    intro s t st m hn hm
    exact exec_subBilletWrite hn hm
  case finish =>
    intro s t st m hm
    rw [exec_mergeComplete hm]
    cases h : m.org <;> rfl

/-! ### Gating (R60 to R63) -/

theorem Tile.bank_setBank_same (x : Tile) (b : Nat) (k : BankSt) : (x.setBank b k).bank b = k := sgetD_sset_self _ _ _ _

theorem Tile.bank_setBank_other (x : Tile) {b j : Nat} (k : BankSt) (h : j ≠ b) : (x.setBank b k).bank j = x.bank j := sgetD_sset_ne _ _ _ _ _ h

theorem exec_bankPowerOff {s : State} {t : TileId} {b : Fin 88} (hk : ((s.tile t).bank b).st = .closing)
    (hq : ∀ r ∈ (s.tile t).reqs, r.bank = b → r.acc = false) (hr : ∀ r ∈ (s.tile t).reads, r.bank ≠ b) :
    exec (.bankPowerOff t b) s = .next (s.setTile t ((s.tile t).setBank b { (s.tile t).bank b with st := .dark, writeback := [] })) := by
  have served : (((s.tile t).bank b).st = .closing && (s.tile t).reqs.all (fun r => r.bank ≠ b || !r.acc)
      && (s.tile t).reads.all (fun r => r.bank ≠ b)) = true := by
    simp only [hk, decide_true, Bool.true_and, Bool.and_eq_true, List.all_eq_true, Bool.or_eq_true, decide_eq_true_eq, Bool.not_eq_true']
    exact ⟨fun r h => or_iff_not_imp_left.mpr (fun hb => hq r h (not_not.mp hb)), hr⟩
  change execBankPowerOff t b s = _
  rw [execBankPowerOff]
  dsimp only
  rw [if_pos served]

theorem exec_bankPowerRestored {s : State} {t : TileId} {b : Fin 88} (hk : ((s.tile t).bank b).st = .waking) :
    exec (.bankPowerRestored t b) s = .next (s.setTile t ((s.tile t).setBank b { (s.tile t).bank b with st := .zeroing })) := by
  change execBankPowerRestored t b s = _
  rw [execBankPowerRestored]
  dsimp only
  rw [if_pos hk]

/-- The store without the bytes from `lo` to below `hi`. -/
def clearBytes (m : Memory) (lo hi : Nat) : Memory := m.filter (fun p => p.1 < lo || hi ≤ p.1)

theorem memByte_clearBytes (m : Memory) (lo hi a : Nat) : memByte (clearBytes m lo hi) a = if lo ≤ a ∧ a < hi then 0 else memByte m a := by
  have kept : (decide (a < lo) || decide (hi ≤ a)) = true ↔ ¬ (lo ≤ a ∧ a < hi) := by
    simp only [Bool.or_eq_true, decide_eq_true_eq]
    omega
  rw [memByte, clearBytes, sgetD_filter _ _ (fun _ _ _ => rfl)]
  simp only [kept, ite_not]
  rfl

/-- The first window offset of a bank, and the one behind it. -/
def bankSpan (b : Nat) : Nat × Nat :=
  let (st, first, n) := bankBillets b
  (bilOff st first, bilOff st (first + n))

theorem exec_bankWakeComplete {s : State} {t : TileId} {b : Fin 88} (hk : ((s.tile t).bank b).st = .zeroing) :
    exec (.bankWakeComplete t b) s = .next (s.setTile t { (s.tile t).setBank b { (s.tile t).bank b with st := .lit } with
      store := clearBytes (s.tile t).store (bankSpan b).1 (bankSpan b).2 }) := by
  change execBankWakeComplete t b s = _
  rw [execBankWakeComplete]
  dsimp only
  rw [if_pos hk]
  rfl

/-- A bank that is not dark or closing and lies in a slice is not gated (R60). -/
theorem Tile.gateBank_of_mapped {x : Tile} {b : Nat} (cycle : Nat) (hd : (x.bank b).st ≠ .dark) (hc : (x.bank b).st ≠ .closing)
    (hm : x.bankMapped b = true) : x.gateBank cycle b true = { x with gateRefused := true } := by
  simp [Tile.gateBank, hd, hc, hm]

/-- A lit bank outside every slice closes, and takes note of what it has accepted (R61). -/
theorem Tile.gateBank_of_lit {x : Tile} {b : Nat} (cycle : Nat) (hl : (x.bank b).st = .lit) (hm : x.bankMapped b = false) :
    x.gateBank cycle b true = (x.acceptAll b).setBank b { x.bank b with st := .closing, closedAt := cycle } := by
  simp [Tile.gateBank, hl, hm]

/-- A dark bank whose bit is cleared starts to wake (R63). -/
theorem Tile.gateBank_of_dark {x : Tile} {b : Nat} (cycle : Nat) (hd : (x.bank b).st = .dark) :
    x.gateBank cycle b false = x.setBank b { x.bank b with st := .waking } := by
  simp [Tile.gateBank, hd]

/-- Settles O5: the three commands of a bank's power, with the bytes that a woken bank reads as 0, and the bits of a gate register. -/
theorem bankGatingCompletes : Obligations.BankGatingCompletes := by
  unfold Obligations.BankGatingCompletes
  refine ⟨?off, ?restored, ?woken, ?gate⟩
  case off =>
    intro s t b hk hq hr
    exact exec_bankPowerOff hk hq hr
  case restored =>
    intro s t b hk
    exact exec_bankPowerRestored hk
  case woken =>
    intro s t b hk
    refine ⟨_, exec_bankWakeComplete hk, s.setTile_onlyTile t _, ?_⟩
    rw [State.setTile_self]
    exact ⟨rfl, Tile.bank_setBank_same _ _ _, fun k h => Tile.bank_setBank_other _ _ h, fun a => memByte_clearBytes _ _ _ a⟩
  case gate =>
    intro x cycle b
    exact ⟨Tile.gateBank_of_lit cycle, Tile.gateBank_of_mapped cycle, Tile.gateBank_of_dark cycle⟩

end Sys2Proof.Machine
end

section
/-! PROOFS. What a drain of the matrix engine leaves: its rows, and its end (R86, R93, R94, R97, R110). -/

namespace Sys2Proof.Machine

/-! ### A row of a drain to the store (R86, R93, R94, R110) -/

/-- A list whose entries are kept by their number alone: those kept read as before, the others as their default. -/
theorem sgetD_filter_fst {α : Type} (m : Sparse α) (p : Nat → Bool) (k : Nat) (d : α) :
    sgetD (m.filter (fun e => p e.1)) k d = if p k then sgetD m k d else d := by
  induction m with
  | nil => simp [sgetD]
  | cons e r ih =>
    obtain ⟨j, v⟩ := e
    by_cases hj : j = k
    · subst hj
      cases hp : p j <;> simp_all [sgetD, sget]
    · cases hp : p j <;> simpa [sgetD, sget, hp, hj] using ih

theorem natLe_length (n v : Nat) : (natLe n v).length = n := by
  induction n generalizing v with
  | zero => rfl
  | succ n ih => rw [natLe, List.length_cons, ih]

/-- An output row without scales has the bytes of R86. -/
theorem drainRow_length {o : Nat} (ho : outMx o = false) (mode : Nat) (shift : Int) (draw : Nat → Nat) (vs : List LimbVal) :
    (drainRow o mode shift draw vs).1.length = rowBytes o := by
  rw [drainRow]
  dsimp only
  rw [if_neg (by simp [ho])]
  exact natLe_length _ _

/-- Setting flags of the vector unit leaves the matrix engine, the requests, the stores, the carousels and the counters. -/
theorem Tile.orFlags_kept (x : Tile) (slot f : Nat) :
    let z := x.orFlags slot f
    z.matrix = x.matrix ∧ z.reqs = x.reqs ∧ z.store = x.store ∧ z.merges = x.merges ∧ z.cars = x.cars ∧ z.ctr = x.ctr := by
  dsimp only
  unfold Tile.orFlags
  split <;> exact ⟨rfl, rfl, rfl, rfl, rfl, rfl⟩

/-- The tile once the array has given row `drainRow` to the drain: its cells are clear, its flags and scales kept, and the array has worked one cycle. -/
def Tile.rowRead (x : Tile) (slot : Nat) (sc : List Nat) : Tile :=
  let m := x.matrix
  ({ x with matrix := { m with
      cells := m.cells.filter (fun p => p.1 / 64 ≠ m.drainRow)
      drainRow := m.drainRow + 1
      drainFlags := drainFlags m.drainFlags (m.rowValues m.drainRow)
      scales := m.scales ++ [(sc.getD 0 0, sc.getD 1 0)] } } : Tile).count (some slot) 0x00 1

theorem Tile.rowRead_cells (x : Tile) (slot : Nat) (sc : List Nat) (k : Nat) :
    sgetD (x.rowRead slot sc).matrix.cells k {} = if k / 64 = x.matrix.drainRow then {} else sgetD x.matrix.cells k {} := by
  change sgetD (x.matrix.cells.filter (fun p => decide (p.1 / 64 ≠ x.matrix.drainRow))) k {} = _
  rw [sgetD_filter_fst x.matrix.cells (fun j => decide (j / 64 ≠ x.matrix.drainRow))]
  simp only [ne_eq, decide_not, Bool.not_eq_true', decide_eq_false_iff_not, ite_not]

/-- The tile once a rounded row has joined the output billet of command `id`, whose output tile begins at billet `i` of the store. -/
def Tile.rowStored (x : Tile) (cycle id : Nat) (st : StoreId) (i : Nat) (bs : List Byte) : Tile :=
  let m := x.matrix
  let out := m.out ++ bs
  if out.length < 512 then { x with matrix := { m with out := out } }
  else ({ x with matrix := { m with out := out.drop 512, outN := m.outN + 1 } } : Tile).post cycle
    { who := .drain, store := st, bil := i + m.outN, wr := some (out.take 512), dst := .drain id }

/-- A row that does not fill the billet presents no request. -/
theorem Tile.rowStored_of_lt {x : Tile} {bs : List Byte} (h : x.matrix.out.length + bs.length < 512) (cycle id : Nat) (st : StoreId) (i : Nat) :
    x.rowStored cycle id st i bs = { x with matrix := { x.matrix with out := x.matrix.out ++ bs } } := by
  rw [Tile.rowStored]
  dsimp only
  rw [if_pos (by rwa [List.length_append])]

/-- A row that fills the billet has its first 512 bytes presented as one write. -/
theorem Tile.rowStored_of_ge {x : Tile} {bs : List Byte} (h : 512 ≤ x.matrix.out.length + bs.length) (cycle id : Nat) (st : StoreId) (i : Nat) :
    x.rowStored cycle id st i bs = ({ x with matrix := { x.matrix with out := (x.matrix.out ++ bs).drop 512, outN := x.matrix.outN + 1 } } : Tile).post cycle
      { who := .drain, store := st, bil := i + x.matrix.outN, wr := some ((x.matrix.out ++ bs).take 512), dst := .drain id } := by
  rw [Tile.rowStored]
  dsimp only
  rw [if_neg (by rw [List.length_append]; omega)]

/-- A row on its way to the store changes the output billet and the requests alone: not what the array holds, nor the rest of the tile. -/
theorem Tile.rowStored_kept (x : Tile) (cycle id : Nat) (st : StoreId) (i : Nat) (bs : List Byte) :
    let y := x.rowStored cycle id st i bs
    (y.matrix.drainRow = x.matrix.drainRow ∧ y.matrix.drainFlags = x.matrix.drainFlags ∧ y.matrix.cells = x.matrix.cells) ∧
    y.store = x.store ∧ y.merges = x.merges ∧ y.cars = x.cars ∧ y.ctr = x.ctr := by
  dsimp only
  rcases Nat.lt_or_ge (x.matrix.out.length + bs.length) 512 with h | h
  · rw [Tile.rowStored_of_lt h]
    exact ⟨⟨rfl, rfl, rfl⟩, rfl, rfl, rfl, rfl⟩
  · rw [Tile.rowStored_of_ge h]
    exact ⟨⟨rfl, rfl, rfl⟩, rfl, rfl, rfl, rfl⟩

theorem storeRow_of_resolve {q : QEntry} {e : MapEntry} {st : StoreId} {i : Nat} (hr : e.resolve (mDest q.cmd) (outBillets (mOut q.cmd)) = .ok (st, i))
    (t : Nat) (bs : List Byte) (s : State) : storeRow t q e bs s = s.modTile t (·.rowStored (s.tileCycle t) q.id st i bs) := by
  rw [storeRow, hr]
  dsimp only
  rw [List.length_append, State.modTile]
  rcases Nat.lt_or_ge ((s.tile t).matrix.out.length + bs.length) 512 with h | h
  · rw [if_pos h, Tile.rowStored_of_lt h]
    rfl
  · rw [if_neg (Nat.not_lt.mpr h), Tile.rowStored_of_ge h]
    exact s.modTile_modTile t _ _

/-- The next row of a drain, rounded: its bytes, its scale bytes and the flags raised (R110). -/
def Tile.outRow (x : Tile) (q : QEntry) (c : Ctx) : List Byte × List Nat × Nat :=
  drainRow (mOut q.cmd) (mRound q.cmd) (mShift q.cmd)
    (fun j => stochastic c.seed c.superstep (mSrTag q.cmd) (64 * mCol q.cmd + j) (64 * mRow q.cmd + x.matrix.drainRow))
    (x.matrix.rowValues x.matrix.drainRow)

/-- The tile after a row of a drain whose output tile begins at billet `i` of the store; the vector flags are those of a row that did not saturate. -/
def Tile.rowDrained (x : Tile) (cycle : Nat) (q : QEntry) (c : Ctx) (st : StoreId) (i : Nat) : Tile :=
  (x.rowRead q.slot (x.outRow q c).2.1).rowStored cycle q.id st i (x.outRow q c).1

/-- A row of a drain to the store is read, joins its output billet, and sets the flag of a saturated element (R93, R150). -/
theorem drainOne_of_resolve {q : QEntry} {e : MapEntry} {st : StoreId} {i : Nat} (hk : mRick q.cmd = false)
    (hr : e.resolve (mDest q.cmd) (outBillets (mOut q.cmd)) = .ok (st, i)) (t : Nat) (c : Ctx) (s : State) :
    drainOne t q e c s = s.setTile t (
      let y := (s.tile t).rowDrained (s.tileCycle t) q c st i
      if bit ((s.tile t).outRow q c).2.2 4 then y.orFlags q.slot flagMatrixSaturated else y) := by
  have stored : drainOne t q e c s =
      let u := storeRow t q e ((s.tile t).outRow q c).1 (s.setTile t ((s.tile t).rowRead q.slot ((s.tile t).outRow q c).2.1))
      if bit ((s.tile t).outRow q c).2.2 4 then u.modTile t (·.orFlags q.slot flagMatrixSaturated) else u := by
    rw [drainOne]
    dsimp only
    rw [if_neg (by simp [hk]), working, modMatrix, State.modTile_modTile]
    rfl
  rw [stored, storeRow_of_resolve hr, State.setTile_modTile]
  dsimp only
  rw [State.setTile_modTile]
  split <;> rfl

/-- A row that leaves the output billet unfilled lengthens it. -/
theorem Tile.rowDrained_of_lt {x : Tile} {q : QEntry} (ho : outMx (mOut q.cmd) = false) (h : x.matrix.out.length + rowBytes (mOut q.cmd) < 512)
    (cycle : Nat) (c : Ctx) (st : StoreId) (i : Nat) :
    let y := x.rowDrained cycle q c st i
    y.reqs = x.reqs ∧ y.matrix.outN = x.matrix.outN ∧ y.matrix.out.length = x.matrix.out.length + rowBytes (mOut q.cmd) := by
  have len : rowBytes (mOut q.cmd) = (x.outRow q c).1.length := (drainRow_length ho _ _ _ _).symm
  rw [len] at h ⊢
  have part : (x.rowRead q.slot (x.outRow q c).2.1).matrix.out.length + (x.outRow q c).1.length < 512 := h
  rw [Tile.rowDrained, Tile.rowStored_of_lt part]
  exact ⟨rfl, rfl, List.length_append⟩

/-- A row that fills the output billet has it presented as one write, and what is left begins the next. -/
theorem Tile.rowDrained_of_ge {x : Tile} {q : QEntry} (ho : outMx (mOut q.cmd) = false) (h : 512 ≤ x.matrix.out.length + rowBytes (mOut q.cmd))
    (cycle : Nat) (c : Ctx) (st : StoreId) (i : Nat) :
    let y := x.rowDrained cycle q c st i
    y.matrix.outN = x.matrix.outN + 1 ∧ y.matrix.out.length = x.matrix.out.length + rowBytes (mOut q.cmd) - 512 ∧
      ∃ r, y.reqs = x.reqs ++ [r] ∧ (r.who, r.store, r.bil, r.wr.map List.length, r.dst) =
        (Requester.drain, st, i + x.matrix.outN, some 512, ReqDst.drain q.id) := by
  have len : x.matrix.out.length + rowBytes (mOut q.cmd) = (x.matrix.out ++ (x.outRow q c).1).length := by
    rw [List.length_append, Tile.outRow, drainRow_length ho]
  rw [len] at h ⊢
  have whole : 512 ≤ (x.rowRead q.slot (x.outRow q c).2.1).matrix.out.length + (x.outRow q c).1.length := List.length_append ▸ h
  have billet : ((x.matrix.out ++ (x.outRow q c).1).take 512).length = 512 := List.length_take_of_le h
  rw [Tile.rowDrained, Tile.rowStored_of_ge whole]
  exact ⟨rfl, List.length_drop, _, rfl, congrArg (fun n => (Requester.drain, st, i + x.matrix.outN, some n, ReqDst.drain q.id)) billet⟩

/-! ### The end of a drain (R93, R97) -/

theorem storeScales_of_not_mx {q : QEntry} (ho : outMx (mOut q.cmd) = false) (t : Nat) (e : MapEntry) (s : State) : storeScales t q e s = s := by
  rw [storeScales, ho]

/-- Once all 64 rows have been read no further one is. -/
theorem drainRows_of_read {s : State} {t : Nat} (h : 64 ≤ (s.tile t).matrix.drainRow) (fuel : Nat) (q : QEntry) (e : MapEntry) (c : Ctx) :
    drainRows fuel t q e c s = s := by
  cases fuel with
  | zero => rfl
  | succ n => rw [drainRows, if_pos (by simp [h])]

theorem drainTile_of_read {s : State} {t : Nat} {q : QEntry} (ho : outMx (mOut q.cmd) = false) (hd : (s.tile t).matrix.draining = true)
    (hr : (s.tile t).matrix.drainRow = 64) (hq : (s.tile t).matrix.owner = some q.id) (e : MapEntry) (c : Ctx) :
    drainTile t q e c s = doneMat t q.id (modMatrix t (·.close) s) := by
  simp only [drainTile, hd, if_true]
  rw [drainRows_of_read hr.ge, if_neg (by simp [hr, hq]), storeScales_of_not_mx ho]

/-- Settles O19: reading a row clears its own cells, storing it touches the output billet and the requests, and the flag of a saturated element none of these; after row 63 nothing is left to read. -/
theorem drainWritesAndCloses : Obligations.DrainWritesAndCloses := by
  unfold Obligations.DrainWritesAndCloses
  refine ⟨?row, ?finish⟩
  case row =>
    intro s t q e c st i hk ho hr
    dsimp only
    rw [drainOne_of_resolve hk hr, State.setTile_self]
    set x := s.tile t
    set y := x.rowDrained (s.tileCycle t) q c st i
    set z := if bit (x.outRow q c).2.2 4 then y.orFlags q.slot flagMatrixSaturated else y with hz
    have flagged : z.matrix = y.matrix ∧ z.reqs = y.reqs ∧ z.store = y.store ∧ z.merges = y.merges ∧ z.cars = y.cars ∧ z.ctr = y.ctr := by
      rw [hz]
      split
      · exact y.orFlags_kept _ _
      · exact ⟨rfl, rfl, rfl, rfl, rfl, rfl⟩
    obtain ⟨hmatrix, hreqs, hstore, hmerges, hcars, hctr⟩ := flagged
    rw [hmatrix, hreqs, hstore, hmerges, hcars, hctr]
    obtain ⟨⟨row, flags, cells⟩, others⟩ := Tile.rowStored_kept (x.rowRead q.slot (x.outRow q c).2.1) (s.tileCycle t) q.id st i (x.outRow q c).1
    exact ⟨s.setTile_onlyTile t _, row, flags, fun k => cells ▸ x.rowRead_cells _ _ k, fun h => Tile.rowDrained_of_lt ho h _ _ _ _,
      fun h => Tile.rowDrained_of_ge ho h _ _ _ _, others⟩
  case finish =>
    intro s t q e c ho hd hr hq
    exact drainTile_of_read ho hd hr hq e c

end Sys2Proof.Machine
end

section
/-! PROOFS. What the matrix commands leave: their start, their turn at the array, and their completion (R85 to R97, R118, R119). -/

namespace Sys2Proof.Machine

/-! ### Starts (R87, R88, R92) -/

/-- The next command starts: it is of the row's OP, its wait is met, the command before it lets it, and nothing refuses it. -/
theorem startMat_of_go {s : State} {t : Nat} {q : QEntry} {e : MapEntry} {c : Ctx} {pre : List QEntry} {op : Nat}
    (hn : (s.tile t).matStart = some (q, pre)) (ho : mOp q.cmd = op) (hm : mayStart q pre = true) (hg : headEntry s t (some q) = .go q e c)
    (hr : startRefusal (s.tile t) e q ((s.tile t).openAfter pre) = none) : startMat t op .clean s = beginMat t q e s := by
  rw [startMat]
  rw [hn]
  dsimp only
  rw [if_neg (by simp [ho, hm]), hg, tileEcc_clean]
  dsimp only
  rw [hr]

/-- No command starts that is of another OP or that the command before it does not let go. -/
theorem startMat_of_stays {s : State} {t op : Nat} (h : ∀ n pre, (s.tile t).matStart = some (n, pre) → mOp n.cmd ≠ op ∨ mayStart n pre = false)
    (ecc : Check) : startMat t op ecc s = s := by
  rw [startMat]
  cases hn : (s.tile t).matStart with
  | none => rfl
  | some p =>
    obtain ⟨n, pre⟩ := p
    exact if_pos (by simpa using h n pre hn)

/-! ### The command that has the array (R85, R89, R97, R118, R119) -/

/-- What a command does that has the array, by its OP. -/
def arrayTurn (t op : Nat) (q : QEntry) (e : MapEntry) (c : Ctx) (s : State) : State :=
  match op with
  | 2 => drainTile t q e c s
  | 4 => spillTile t q e s
  | 5 => resumeTile t q s
  | 6 => working t q.slot 1 (doneMat t q.id (modMatrix t (·.close) s))
  | _ => accumulate t q e c s

theorem arrayWork_of_go {s : State} {t : Nat} {q : QEntry} {e : MapEntry} {c : Ctx} {op : Nat} (hn : (s.tile t).matNext = some q)
    (ho : mOp q.cmd = op) (hs : q.started = true) (hg : headEntry s t (some q) = .go q e c) : arrayWork t op s = arrayTurn t op q e c s := by
  rw [arrayWork, hn]
  dsimp only
  rw [if_neg (by simp [ho, hs]), hg]
  rfl

/-- A row at which no command starts is the turn of the command that has the array, and then the feeders ask. -/
theorem matrixRow_of_go {s : State} {t : Nat} {q : QEntry} {e : MapEntry} {c : Ctx} {op : Nat} (hn : (s.tile t).matNext = some q)
    (ho : mOp q.cmd = op) (hs : q.started = true) (hg : headEntry s t (some q) = .go q e c)
    (hw : ∀ n pre, (s.tile t).matStart = some (n, pre) → mOp n.cmd ≠ mOp q.cmd ∨ mayStart n pre = false) :
    matrixRow t op .clean s = feedPump t (arrayTurn t op q e c s) := by
  rw [matrixRow, startMat_of_stays (ho ▸ hw), arrayWork_of_go hn ho hs hg]

/-- K-steps remain: those whose operands have arrived are applied. -/
theorem accumulate_of_lt {s : State} {t : Nat} {q : QEntry} (hi : (s.tile t).matrix.isOpen = true) (h0 : 0 < (s.tile t).readySteps q)
    (hk : q.kDone + (s.tile t).readySteps q < mK q.cmd) (e : MapEntry) (c : Ctx) :
    accumulate t q e c s = s.setTile t ((s.tile t).applyKSteps q ((s.tile t).readySteps q)) := by
  simp only [accumulate, hi, hk, h0.ne', Bool.not_true, Bool.false_eq_true, if_true, if_false]
  rfl

/-- The last K-step is applied: the command drains if it is to, and is done otherwise. -/
theorem accumulate_of_ge {s : State} {t : Nat} {q : QEntry} (hi : (s.tile t).matrix.isOpen = true) (h0 : 0 < (s.tile t).readySteps q)
    (hk : mK q.cmd ≤ q.kDone + (s.tile t).readySteps q) (e : MapEntry) (c : Ctx) :
    accumulate t q e c s =
      let u := s.setTile t ((s.tile t).applyKSteps q ((s.tile t).readySteps q))
      if mOp q.cmd = 3 then drainTile t q e c u else doneMat t q.id u := by
  simp only [accumulate, hi, Nat.not_lt.mpr hk, h0.ne', Bool.not_true, Bool.false_eq_true, if_false]
  rfl

theorem spillTile_of_resolve {q : QEntry} {e : MapEntry} {st : StoreId} {i : Nat} (hr : e.resolve (mDest q.cmd) 656 = .ok (st, i)) (t : Nat) (s : State) :
    let vs := (s.tile t).matrix.values
    let img := spillImage vs
    spillTile t q e s = working t q.slot (spillCycles img.1) (doneMat t q.id (forAll img.2
      (fun p s => postWrite t .drain st (i + p.1) p.2 (.drain q.id) s)
      (modMatrix t (fun m => { m.close with spillLast := spillLast img.1 false false q.slot (flaggedCells vs) }) s))) := by
  rw [spillTile, hr]

/-- A RESUME whose limb billets have all arrived loads the image it has read. -/
theorem resumeTile_of_read {s : State} {t : Nat} {q : QEntry} {l : Nat} {vs : List LimbVal} (hk : q.kDone = l + 1)
    (ha : ∀ b < l, ((s.tile t).arrival (.resume q.id b)).isSome = true) (hr : readSpill ((s.tile t).resumeBillet q.id) = some (l, vs)) :
    resumeTile t q s = working t q.slot (spillCycles l) (doneMat t q.id ((modMatrix t (fun m => { m.close with
      isOpen := true, cells := resumeCells vs, spillLast := spillLast l true false q.slot (flaggedCells vs) }) s).modTile t (·.dropReqs (·.ofMat q.id)))) := by
  have arrived : ¬ (decide (q.kDone = 0) || (List.range (q.kDone - 1)).any (fun b => ((s.tile t).arrival (.resume q.id b)).isNone)) = true := by
    simpa [hk, ← Option.isSome_iff_ne_none] using ha
  rw [resumeTile]
  dsimp only
  rw [if_neg arrived, hr]

/-! ### The matrix commands -/

/-- The rows of the matrix engine with their OP (R85). -/
def matrixCommands (t : TileId) : List (Instr × Nat) :=
  [(.accumulate t .clean, 1), (.drain ⟨t, .clean⟩, 2), (.accumulateDrain t .clean, 3), (.spill ⟨t, .clean⟩, 4), (.resume t .clean, 5), (.discard ⟨t, .clean⟩, 6)]

theorem exec_matrixCommand {t : TileId} {p : Instr × Nat} (hp : p ∈ matrixCommands t) (s : State) :
    exec p.1 s = .next (matrixRow t p.2 .clean s) := by
  simp only [matrixCommands, List.mem_cons, List.not_mem_nil, or_false] at hp
  rcases hp with rfl | rfl | rfl | rfl | rfl | rfl <;> rfl

theorem exec_matrixCommandComplete {s : State} {t : TileId} {q : QEntry}
    (h : (s.tile t).matQ.find? (fun q => q.done && (q.faulted || !(s.tile t).matBusy q)) = some q) (hl : s.tileLit t = true) :
    exec (.matrixCommandComplete t) s = .next (completeEntry t 0 q (s.setTile t { s.tile t with
      matQ := (s.tile t).matQ.erase q, drains := (s.tile t).drains.filter (fun d => d.cmd ≠ q.id) })) := by
  change execMatrixCommandComplete t s = _
  rw [execMatrixCommandComplete]
  dsimp only
  rw [h]
  dsimp only
  rw [if_pos hl]
  rfl

/-- Settles O18: the start of each of the six commands, the turn of the one that has the array, by its OP, and the completion. -/
theorem matrixCommandsComplete : Obligations.MatrixCommandsComplete := by
  unfold Obligations.MatrixCommandsComplete
  refine ⟨?start, ?turn, ?complete⟩
  case start =>
    intro s t q e c pre p hp hn ho hm hg hr
    rw [exec_matrixCommand hp, matrixRow, startMat_of_go hn ho hm hg hr]
  case turn =>
    intro s t q e c hn hs hg hw
    have row (i : Instr) (op : Nat) (hi : (i, op) ∈ matrixCommands t) (ho : mOp q.cmd = op) :
        exec i s = .next (feedPump t (arrayTurn t op q e c s)) := by
      rw [exec_matrixCommand hi, matrixRow_of_go hn ho hs hg hw]
    dsimp only
    refine ⟨?more, ?last, ?drain, ?spill, ?resume, ?discard⟩
    case more =>
      intro hi h0 hk
      rw [← accumulate_of_lt hi h0 hk e c]
      exact ⟨row (.accumulate t .clean) 1 (by simp [matrixCommands]), row (.accumulateDrain t .clean) 3 (by simp [matrixCommands])⟩
    case last =>
      intro hi h0 hk
      refine ⟨?ends, ?drains⟩
      case ends =>
        intro ho
        have ends := (accumulate_of_ge hi h0 hk e c).trans (if_neg (by simp [ho]))
        rw [← ends]
        exact row (.accumulate t .clean) 1 (by simp [matrixCommands]) ho
      case drains =>
        intro ho
        have drains := (accumulate_of_ge hi h0 hk e c).trans (if_pos ho)
        rw [← drains]
        exact row (.accumulateDrain t .clean) 3 (by simp [matrixCommands]) ho
    case drain => exact row (.drain ⟨t, .clean⟩) 2 (by simp [matrixCommands])
    case spill =>
      intro ho st i hr
      rw [← spillTile_of_resolve hr]
      exact row (.spill ⟨t, .clean⟩) 4 (by simp [matrixCommands]) ho
    case resume =>
      intro ho l vs hk ha hr
      rw [← resumeTile_of_read hk ha hr]
      exact row (.resume t .clean) 5 (by simp [matrixCommands]) ho
    case discard => exact row (.discard ⟨t, .clean⟩) 6 (by simp [matrixCommands])
  case complete =>
    intro s t q h hl
    exact exec_matrixCommandComplete h hl

end Sys2Proof.Machine
end

section
/-! PROOFS. Numbers of 640 bits as sums of their limbs, and numbers as sums of their bits. -/

namespace Sys2Proof.Machine

/-! ### Sums over limbs and over bits -/

theorem foldl_range_add {M : Type} [AddCommMonoid M] (f : Nat → M) (a : M) (n : Nat) :
    (List.range n).foldl (fun v k => v + f k) a = a + ∑ k ∈ Finset.range n, f k := by
  induction n with
  | zero => simp
  | succ n ih => rw [List.range_succ, List.foldl_append, ih, Finset.sum_range_succ, List.foldl_cons, List.foldl_nil, add_assoc]

theorem foldl_range_add_pair {M N : Type} [AddCommMonoid M] [AddCommMonoid N] (f : Nat → M) (g : Nat → N) (p : M × N) (n : Nat) :
    (List.range n).foldl (fun p k => (p.1 + f k, p.2 + g k)) p = (p.1 + ∑ k ∈ Finset.range n, f k, p.2 + ∑ k ∈ Finset.range n, g k) := by
  have pairs : (fun (p : M × N) k => (p.1 + f k, p.2 + g k)) = fun p k => p + (f k, g k) := rfl
  rw [pairs, foldl_range_add, Prod.ext_iff]
  simp [Prod.fst_sum, Prod.snd_sum]

theorem b2n_le_one (b : Bool) : b2n b ≤ 1 := by cases b <;> decide

theorem bf_lt (v lo len : Nat) : bf v lo len < 2 ^ len := Nat.mod_lt _ (Nat.two_pow_pos len)

/-- The lowest n limbs of a number (R102). -/
theorem sum_limbs_mod (v n : Nat) : ∑ k ∈ Finset.range n, bf v (64 * k) 64 * 2 ^ (64 * k) = v % 2 ^ (64 * n) := by
  induction n with
  | zero => simp [Nat.mod_one]
  | succ n ih =>
    rw [Finset.sum_range_succ, ih, bf, Nat.shiftRight_eq_div_pow, Nat.mul_succ, Nat.pow_add, Nat.mod_mul, Nat.mul_comm (2 ^ (64 * n))]

/-- A 640-bit number is the sum of its ten limbs (R102). -/
theorem sum_limbs (v : BitVec 640) : ∑ k ∈ Finset.range 10, bf v.toNat (64 * k) 64 * 2 ^ (64 * k) = v.toNat := by
  rw [sum_limbs_mod, Nat.mod_eq_of_lt v.isLt]

/-- The number of n bits whose bits are given. -/
def bitSum (p : Nat → Bool) (n : Nat) : Nat := ∑ k ∈ Finset.range n, b2n (p k) * 2 ^ k

theorem bitSum_succ (p : Nat → Bool) (n : Nat) : bitSum p (n + 1) = 2 ^ n * b2n (p n) + bitSum p n := by
  rw [bitSum, Finset.sum_range_succ, Nat.add_comm, Nat.mul_comm, bitSum]

theorem bitSum_lt (p : Nat → Bool) (n : Nat) : bitSum p n < 2 ^ n := by
  induction n with
  | zero => simp [bitSum]
  | succ n ih =>
    have top : 2 ^ n * b2n (p n) ≤ 2 ^ n * 1 := Nat.mul_le_mul_left _ (b2n_le_one _)
    rw [bitSum_succ, Nat.pow_succ]
    omega

theorem testBit_bitSum (p : Nat → Bool) (n j : Nat) : (bitSum p n).testBit j = (decide (j < n) && p j) := by
  induction n with
  | zero => simp [bitSum]
  | succ n ih =>
    rw [bitSum_succ, Nat.testBit_two_pow_mul_add _ (bitSum_lt p n), ih]
    obtain hj | rfl | hj := Nat.lt_trichotomy j n
    · simp [hj, Nat.lt_succ_of_lt hj]
    · cases hp : p j <;> simp [b2n]
    · obtain ⟨d, rfl⟩ := Nat.exists_eq_add_of_lt hj
      have above : (b2n (p n)).testBit (d + 1) = false := by cases p n <;> simp [b2n, Nat.testBit_succ]
      simpa [Nat.add_assoc, Nat.not_lt.mpr (Nat.le_add_right n _)] using above

end Sys2Proof.Machine
end

section
/-! PROOFS. The kiln: carry-save addition is exact, and products are added in any order (R105, R107, R109, R126). -/

namespace Sys2Proof.Machine

/-! ### Carry-save addition into the kiln (R105) -/

/-- The pending carry into limb k, from the boundary below it. -/
def Cell.carryIn (c : Cell) (k : Nat) : Nat := if k = 0 then 0 else b2n (c.carries.getLsbD (k - 1))

/-- What meets at limb k when a number is added: both limbs and the pending carry. -/
def Cell.limbSum (c : Cell) (x : BitVec 640) (k : Nat) : Nat :=
  bf c.limbs.toNat (64 * k) 64 + bf x.toNat (64 * k) 64 + c.carryIn k

theorem Cell.carryIn_zero (c : Cell) : c.carryIn 0 = 0 := rfl

theorem Cell.carryIn_le_one (c : Cell) (k : Nat) : c.carryIn k ≤ 1 := by
  unfold Cell.carryIn
  split
  · exact Nat.zero_le 1
  · exact b2n_le_one _

/-- A limb leaves one carry at most. -/
theorem Cell.limbSum_div (c : Cell) (x : BitVec 640) (k : Nat) : c.limbSum x k / 2 ^ 64 = b2n (decide (2 ^ 64 ≤ c.limbSum x k)) := by
  have ha := bf_lt c.limbs.toNat (64 * k) 64
  have hb := bf_lt x.toNat (64 * k) 64
  have hc := c.carryIn_le_one k
  have bound : c.limbSum x k < 2 * 2 ^ 64 := by unfold Cell.limbSum; omega
  by_cases h : 2 ^ 64 ≤ c.limbSum x k
  · simp only [h, decide_true, b2n, if_true]; omega
  · simp only [h, decide_false, b2n]; exact Nat.div_eq_of_lt (Nat.not_le.mp h)

/-- Each limb keeps 64 bits of what meets there and leaves a carry at the boundary above. -/
theorem Cell.addKiln_eq (c : Cell) (x : BitVec 640) :
    c.addKiln x = { c with
      limbs := BitVec.ofNat 640 (∑ k ∈ Finset.range 10, c.limbSum x k % 2 ^ 64 * 2 ^ (64 * k))
      carries := BitVec.ofNat 9 (bitSum (fun k => decide (2 ^ 64 ≤ c.limbSum x k)) 9) } := by
  have step : (fun (acc : Nat × Nat) k =>
      let t := bf c.limbs.toNat (64 * k) 64 + bf x.toNat (64 * k) 64 + (if k = 0 then 0 else b2n (c.carries.getLsbD (k - 1)))
      (acc.1 + (t % 2 ^ 64) <<< (64 * k), if k < 9 then acc.2 + (t / 2 ^ 64) <<< k else acc.2)) =
      fun acc k => (acc.1 + c.limbSum x k % 2 ^ 64 * 2 ^ (64 * k), acc.2 + if k < 9 then c.limbSum x k / 2 ^ 64 * 2 ^ k else 0) := by
    funext acc k
    change (acc.1 + (c.limbSum x k % 2 ^ 64) <<< (64 * k), if k < 9 then acc.2 + (c.limbSum x k / 2 ^ 64) <<< k else acc.2) = _
    simp only [Nat.shiftLeft_eq]
    split <;> rfl
  have carries : ∑ k ∈ Finset.range 10, (if k < 9 then c.limbSum x k / 2 ^ 64 * 2 ^ k else 0) =
      bitSum (fun k => decide (2 ^ 64 ≤ c.limbSum x k)) 9 := by
    rw [bitSum, Finset.sum_range_succ, if_neg (Nat.lt_irrefl 9), Nat.add_zero]
    exact Finset.sum_congr rfl fun k hk => by rw [if_pos (Finset.mem_range.mp hk), Cell.limbSum_div]
  rw [Cell.addKiln, step, foldl_range_add_pair, carries]
  simp only [Nat.zero_add]

/-- The resolved value is the sum of the limbs and the pending carries, modulo 2^640. -/
theorem Cell.resolved_eq (c : Cell) : c.resolved = c.limbs + BitVec.ofNat 640 (∑ k ∈ Finset.range 10, c.carryIn k * 2 ^ (64 * k)) := by
  have step : (fun (v : BitVec 640) k => if c.carries.getLsbD k then v + BitVec.ofNat 640 (2 ^ (64 * (k + 1))) else v) =
      fun v k => v + BitVec.ofNat 640 (c.carryIn (k + 1) * 2 ^ (64 * (k + 1))) := by
    funext v k
    cases h : c.carries.getLsbD k <;> simp [Cell.carryIn, h, b2n]
  have cast (s : Finset Nat) (f : Nat → Nat) : ∑ k ∈ s, BitVec.ofNat 640 (f k) = BitVec.ofNat 640 (∑ k ∈ s, f k) :=
    (map_sum (⟨⟨BitVec.ofNat 640, rfl⟩, BitVec.ofNat_add⟩ : Nat →+ BitVec 640) f s).symm
  rw [Cell.resolved, step, foldl_range_add, cast, Finset.sum_range_succ' _ 9, Cell.carryIn_zero, Nat.zero_mul, Nat.add_zero]

/-- The carry into a limb after an addition is what the limb below it has passed on. -/
theorem Cell.carryIn_addKiln (c : Cell) (x : BitVec 640) {k : Nat} (hk : k < 9) :
    (c.addKiln x).carryIn (k + 1) = c.limbSum x k / 2 ^ 64 := by
  rw [Cell.addKiln_eq, Cell.limbSum_div, Cell.carryIn, if_neg k.succ_ne_zero, Nat.add_sub_cancel, BitVec.getLsbD_ofNat, testBit_bitSum]
  simp only [hk, decide_true, Bool.true_and]

/-- The limb sums of an addition are worth both numbers and the carries that were pending. -/
theorem Cell.sum_limbSum (c : Cell) (x : BitVec 640) : ∑ k ∈ Finset.range 10, c.limbSum x k * 2 ^ (64 * k) =
    c.limbs.toNat + x.toNat + ∑ k ∈ Finset.range 10, c.carryIn k * 2 ^ (64 * k) := by
  simp only [Cell.limbSum, Nat.add_mul, Finset.sum_add_distrib, sum_limbs]

/-- Limb sums split into the limbs that stay and the carries between them are worth the same, but for the carry out of the last. -/
theorem sum_split_carries (t : Nat → Nat) (n : Nat) :
    (∑ k ∈ Finset.range (n + 1), t k % 2 ^ 64 * 2 ^ (64 * k)) + (∑ k ∈ Finset.range n, t k / 2 ^ 64 * 2 ^ (64 * (k + 1)))
      + t n / 2 ^ 64 * 2 ^ (64 * (n + 1)) = ∑ k ∈ Finset.range (n + 1), t k * 2 ^ (64 * k) := by
  rw [Nat.add_assoc, ← Finset.sum_range_succ (fun k => t k / 2 ^ 64 * 2 ^ (64 * (k + 1))) n, ← Finset.sum_add_distrib]
  refine Finset.sum_congr rfl fun k _ => ?_
  rw [Nat.mul_succ, Nat.pow_add, Nat.mul_comm (2 ^ (64 * k)), ← Nat.mul_assoc, ← Nat.add_mul, Nat.mod_add_div']

/-- The limbs and carries after an addition are worth both numbers and the carries that were pending, but for the carry out of limb 9. -/
theorem Cell.sum_addKiln (c : Cell) (x : BitVec 640) :
    (∑ k ∈ Finset.range 10, c.limbSum x k % 2 ^ 64 * 2 ^ (64 * k)) + (∑ k ∈ Finset.range 10, (c.addKiln x).carryIn k * 2 ^ (64 * k))
      + c.limbSum x 9 / 2 ^ 64 * 2 ^ 640 = c.limbs.toNat + x.toNat + ∑ k ∈ Finset.range 10, c.carryIn k * 2 ^ (64 * k) := by
  have carries : ∑ k ∈ Finset.range 10, (c.addKiln x).carryIn k * 2 ^ (64 * k) =
      ∑ k ∈ Finset.range 9, c.limbSum x k / 2 ^ 64 * 2 ^ (64 * (k + 1)) := by
    rw [Finset.sum_range_succ' _ 9, Cell.carryIn_zero, Nat.zero_mul, Nat.add_zero]
    exact Finset.sum_congr rfl fun k hk => by rw [c.carryIn_addKiln x (Finset.mem_range.mp hk)]
  rw [carries, ← c.sum_limbSum x, ← sum_split_carries (c.limbSum x) 9, show 64 * (9 + 1) = 640 from rfl]

theorem ofNat_add_mul_two_pow (w a q : Nat) : BitVec.ofNat w (a + q * 2 ^ w) = BitVec.ofNat w a := by
  apply BitVec.eq_of_toNat_eq
  rw [BitVec.toNat_ofNat, BitVec.toNat_ofNat, Nat.add_mul_mod_self_right]

/-- Carry-save addition is exact modulo 2^640: only the carry out of limb 9 is lost. -/
theorem Cell.addKiln_resolved (c : Cell) (x : BitVec 640) : (c.addKiln x).resolved = c.resolved + x := by
  have limbs : (c.addKiln x).limbs = BitVec.ofNat 640 (∑ k ∈ Finset.range 10, c.limbSum x k % 2 ^ 64 * 2 ^ (64 * k)) := by
    rw [Cell.addKiln_eq]
  rw [Cell.resolved_eq, Cell.resolved_eq, limbs, ← BitVec.ofNat_add, ← ofNat_add_mul_two_pow 640 _ (c.limbSum x 9 / 2 ^ 64), c.sum_addKiln x]
  simp only [BitVec.ofNat_add, BitVec.ofNat_toNat, BitVec.setWidth_eq, BitVec.add_assoc, BitVec.add_comm x]

/-! ### Products in any order (R107, R109, R126) -/

/-- A cell with its pending carries added in. -/
def Cell.settled (c : Cell) : Cell := { c with limbs := c.resolved, carries := 0 }

/-- What two settled cells hold together: the sums of kilns and coals, and the flags of both. -/
def Cell.join (c d : Cell) : Cell :=
  { limbs := c.limbs + d.limbs, carries := 0, coal := c.coal + d.coal, nan := c.nan || d.nan
    posInf := c.posInf || d.posInf, negInf := c.negInf || d.negInf, overflow := c.overflow || d.overflow }

theorem Cell.join_right_comm (c d e : Cell) : (c.join d).join e = (c.join e).join d := by
  simp only [Cell.join, BitVec.add_assoc, BitVec.add_comm d.limbs, BitVec.add_comm d.coal, Bool.or_right_comm]

/-- Cells are alike once settled just when their resolved values, coals and flags are the same. -/
theorem Cell.settled_eq_iff (y z : Cell) :
    y.settled = z.settled ↔ y.resolved = z.resolved ∧ { y with limbs := z.limbs, carries := z.carries } = z := by
  obtain ⟨l, cy, coal, nan, pos, neg, ov⟩ := y
  obtain ⟨l', cy', coal', nan', pos', neg', ov'⟩ := z
  simp [Cell.settled]

/-- An addition to the kiln joins the number to the settled cell. -/
theorem Cell.settled_addKiln (c : Cell) (x : BitVec 640) : (c.addKiln x).settled = c.settled.join { limbs := x } := by
  rw [Cell.settled, Cell.addKiln_resolved, Cell.addKiln_eq]
  simp [Cell.join, Cell.settled]

/-- The flag that a product with an infinity and no NaN sets, by its value (R126). -/
def Cell.flagProduct (p : Fp) (c : Cell) : Cell :=
  match p with
  | .inf n => if n then { c with negInf := true } else { c with posInf := true }
  | _ => { c with nan := true }

theorem Cell.product_inf_left (wide n : Bool) (c : Cell) {b : Fp} (hb : b ≠ .nan) :
    c.product wide false (.inf n) b = c.flagProduct ((Fp.inf n).mul b).1 := by
  cases b with
  | nan => exact absurd rfl hb
  | inf n' => rfl
  | fin n' m' e' => rfl

theorem Cell.product_inf_right (wide n : Bool) (m : Nat) (e : Int) (n' : Bool) (c : Cell) :
    c.product wide false (.fin n m e) (.inf n') = c.flagProduct ((Fp.fin n m e).mul (.inf n')).1 := rfl

theorem Cell.product_nan_right (wide : Bool) (c : Cell) (a : Fp) : c.product wide false a .nan = { c with nan := true } := by
  cases a <;> rfl

/-- The product of two finite elements as an integer, before it is placed by its exponent. -/
def finProduct (n1 n2 : Bool) (m1 m2 : Nat) : Int := if n1 != n2 then -((m1 * m2 : Nat) : Int) else (m1 * m2 : Nat)

theorem Cell.product_fin (wide n1 n2 : Bool) (m1 m2 : Nat) (e1 e2 : Int) (c : Cell) :
    c.product wide false (.fin n1 m1 e1) (.fin n2 m2 e2) =
      if m1 * m2 = 0 then c
      else if wide then c.addKiln (BitVec.ofInt 640 (finProduct n1 n2 m1 m2 * 2 ^ (e1 + e2 + 286).toNat))
      else { c with coal := c.coal + BitVec.ofInt 72 (finProduct n1 n2 m1 m2 * 2 ^ (e1 + e2 + 32).toNat) } := rfl

/-- What a product adds to a cell does not depend on the cell: a number to the kiln or to the coal, a flag, or nothing (R101, R107, R126, R127). -/
inductive ProductEffect where
  | none
  | kiln (x : BitVec 640)
  | coal (x : BitVec 72)
  | nan
  | inf (neg : Bool)

/-- A cell after an effect. -/
def ProductEffect.apply (c : Cell) : ProductEffect → Cell
  | .none => c
  | .kiln x => c.addKiln x
  | .coal x => { c with coal := c.coal + x }
  | .nan => { c with nan := true }
  | .inf true => { c with negInf := true }
  | .inf false => { c with posInf := true }

theorem Cell.flagProduct_effect (p : Fp) : ∃ f : ProductEffect, ∀ c : Cell, c.flagProduct p = f.apply c := by
  cases p with
  | nan => exact ⟨.nan, fun _ => rfl⟩
  | inf n => exact ⟨.inf n, fun _ => by cases n <;> rfl⟩
  | fin n m e => exact ⟨.nan, fun _ => rfl⟩

/-- A product is one effect on every cell: its scales and operands decide which. -/
theorem Cell.product_effect (wide bad : Bool) (a b : Fp) : ∃ f : ProductEffect, ∀ c : Cell, c.product wide bad a b = f.apply c := by
  cases bad with
  | true => exact ⟨.nan, fun _ => rfl⟩
  | false =>
    by_cases hb : b = .nan
    · exact ⟨.nan, fun c => hb ▸ c.product_nan_right wide a⟩
    cases a with
    | nan => exact ⟨.nan, fun _ => rfl⟩
    | inf n => exact (Cell.flagProduct_effect ((Fp.inf n).mul b).1).imp fun f hf c => (c.product_inf_left wide n hb).trans (hf c)
    | fin n m e =>
      cases b with
      | nan => exact absurd rfl hb
      | inf n' =>
        exact (Cell.flagProduct_effect ((Fp.fin n m e).mul (.inf n')).1).imp fun f hf c => (c.product_inf_right wide n m e n').trans (hf c)
      | fin n' m' e' =>
        simp only [Cell.product_fin]
        by_cases hm : m * m' = 0
        · exact ⟨.none, fun _ => if_pos hm⟩
        · cases wide with
          | true => exact ⟨.kiln _, fun _ => if_neg hm⟩
          | false => exact ⟨.coal _, fun _ => if_neg hm⟩

/-- An effect adds its own share to the settled cell, the same whatever the cell holds. -/
theorem ProductEffect.settled_apply (f : ProductEffect) : ∃ d : Cell, ∀ c : Cell, (f.apply c).settled = c.settled.join d := by
  cases f with
  | none => exact ⟨{}, fun c => by simp [Cell.settled, Cell.join, ProductEffect.apply]⟩
  | kiln x => exact ⟨{ limbs := x }, fun c => c.settled_addKiln x⟩
  | coal x => exact ⟨{ coal := x }, fun c => by simp [Cell.settled, Cell.join, Cell.resolved, ProductEffect.apply]⟩
  | nan => exact ⟨{ nan := true }, fun c => by simp [Cell.settled, Cell.join, Cell.resolved, ProductEffect.apply]⟩
  | inf n =>
    refine ⟨{ posInf := !n, negInf := n }, fun c => ?_⟩
    cases n <;> simp [Cell.settled, Cell.join, Cell.resolved, ProductEffect.apply]

/-- Settles O20: an addition is exact by the sum of its limbs, and a product adds to the settled cell a share of its own, so that two commute. -/
theorem kilnAddsExactly : Obligations.KilnAddsExactly := by
  unfold Obligations.KilnAddsExactly
  refine ⟨?adds, ?commutes⟩
  case adds =>
    intro c x
    exact ⟨c.addKiln_resolved x, by rw [Cell.addKiln_eq]⟩
  case commutes =>
    intro c w v p r a b a' b'
    obtain ⟨f, hf⟩ := Cell.product_effect w p a b
    obtain ⟨g, hg⟩ := Cell.product_effect v r a' b'
    obtain ⟨d, hd⟩ := f.settled_apply
    obtain ⟨e, he⟩ := g.settled_apply
    rw [← Cell.settled_eq_iff]
    simp only [hf, hg, hd, he, Cell.join_right_comm]

end Sys2Proof.Machine
end

section
/-! PROOFS. The limb-masked form and the spill image: what SPILL writes, RESUME reads back (R115 to R117, R119). -/

namespace Sys2Proof.Machine

/-! ### The canonical mask (R115, R116) -/

/-- The limb that the sign stands for: what every limb above the last present one holds. -/
def fillLimb (v : BitVec 640) : Nat := if v.getLsbD 639 then 2 ^ 64 - 1 else 0

theorem limbMask_eq (v : BitVec 640) : limbMask v =
    ((List.range 10).reverse.find? (fun k => limb v k ≠ fillLimb v)).elim 0 fun t => 2 ^ t + bitSum (fun k => decide (limb v k ≠ 0)) t := by
  have step : (fun m k => if limb v k = 0 then m else m + 2 ^ k) = fun m k => m + b2n (decide (limb v k ≠ 0)) * 2 ^ k := by
    funext m k
    by_cases h : limb v k = 0 <;> simp [h, b2n]
  rw [limbMask, step]
  change (match (List.range 10).reverse.find? (fun k => limb v k ≠ fillLimb v) with | none => _ | some t => _) = _
  cases (List.range 10).reverse.find? (fun k => limb v k ≠ fillLimb v) with
  | none => rfl
  | some t => exact foldl_range_add _ _ _

/-- The present limbs: none when every limb is the fill, else the top limb that is not, and the limbs below it that are not 0. -/
theorem limbMask_cases (v : BitVec 640) :
    (limbMask v = 0 ∧ ∀ k < 10, limb v k = fillLimb v) ∨
    ∃ t < 10, limbMask v = 2 ^ t + bitSum (fun k => decide (limb v k ≠ 0)) t ∧ ∀ k < 10, t < k → limb v k = fillLimb v := by
  rw [limbMask_eq]
  cases hf : (List.range 10).reverse.find? (fun k => limb v k ≠ fillLimb v) with
  | none => exact .inl ⟨rfl, by simpa using hf⟩
  | some t =>
    obtain ⟨-, as, bs, hl, has⟩ := List.find?_eq_some_iff_append.mp hf
    have falling : (as ++ t :: bs).Pairwise (· > ·) := hl ▸ List.pairwise_reverse.mpr List.pairwise_lt_range
    have mem (k : Nat) : k < 10 ↔ k ∈ as ++ t :: bs := by rw [← hl, List.mem_reverse, List.mem_range]
    refine .inr ⟨t, (mem t).mpr (by simp), rfl, fun k hk ht => ?_⟩
    obtain hk | hk := List.mem_append.mp ((mem k).mp hk)
    · simpa using has k hk
    · obtain rfl | hk := List.mem_cons.mp hk
      · exact absurd ht (Nat.lt_irrefl _)
      · exact absurd ((List.pairwise_cons.mp (List.pairwise_append.mp falling).2.1).1 k hk) (Nat.lt_asymm ht)

theorem limbMask_lt (v : BitVec 640) : limbMask v < 2 ^ 10 := by
  obtain ⟨h, -⟩ | ⟨t, ht, h, -⟩ := limbMask_cases v
  · rw [h]; decide
  · calc limbMask v < 2 ^ t + 2 ^ t := h ▸ Nat.add_lt_add_left (bitSum_lt _ t) _
      _ = 2 ^ (t + 1) := by rw [Nat.pow_succ, Nat.mul_two]
      _ ≤ 2 ^ 10 := Nat.pow_le_pow_right (by decide) ht

/-- An absent limb is the fill above the mask, and 0 within it. -/
theorem limb_of_absent {v : BitVec 640} {k : Nat} (hk : k < 10) (h : bit (limbMask v) k = false) :
    limb v k = if limbMask v < 2 ^ k then fillLimb v else 0 := by
  obtain ⟨hm, hl⟩ | ⟨t, -, hm, hl⟩ := limbMask_cases v
  · rw [hl k hk, if_pos (hm ▸ Nat.two_pow_pos k)]
  · have low := bitSum_lt (fun k => decide (limb v k ≠ 0)) t
    have bits : bit (limbMask v) k = if k < t then decide (limb v k ≠ 0) else Nat.testBit 1 (k - t) := by
      rw [hm, bit, ← Nat.mul_one (2 ^ t), Nat.testBit_two_pow_mul_add _ low, testBit_bitSum]
      split <;> simp [*]
    rw [bits] at h
    obtain hkt | rfl | hkt := Nat.lt_trichotomy k t
    · have le : 2 ^ k ≤ 2 ^ t := Nat.pow_le_pow_right (by decide) hkt.le
      rw [if_neg (by omega)]
      simpa [hkt] using h
    · simp at h
    · have le : 2 ^ (t + 1) ≤ 2 ^ k := Nat.pow_le_pow_right (by decide) hkt
      rw [if_pos (by omega), hl k hk hkt]

/-! ### The cell field (R115) -/

theorem LimbVal.flags_lt (v : LimbVal) : v.flags < 2 ^ 4 := by
  have h : ∀ a b c d : Bool, b2n a + 2 * b2n b + 4 * b2n c + 8 * b2n d < 2 ^ 4 := by decide
  exact h _ _ _ _

theorem LimbVal.mk'_flags (v : LimbVal) : LimbVal.mk' v.limbs v.flags = v := by
  have h : ∀ a b c d : Bool, let f := b2n a + 2 * b2n b + 4 * b2n c + 8 * b2n d
      bit f 0 = a ∧ bit f 1 = b ∧ bit f 2 = c ∧ bit f 3 = d := by decide
  obtain ⟨l, nan, pos, neg, ov⟩ := v
  obtain ⟨h0, h1, h2, h3⟩ := h nan pos neg ov
  simp only [LimbVal.mk', LimbVal.flags, h0, h1, h2, h3]

theorem LimbVal.field_eq (v : LimbVal) : v.field = limbMask v.limbs + 1024 * b2n (v.limbs.getLsbD 639) + 2048 * v.flags := by
  rw [LimbVal.field, Nat.shiftLeft_eq, Nat.shiftLeft_eq, Nat.mul_comm _ (2 ^ 10), Nat.mul_comm _ (2 ^ 11)]

/-- Bits [9:0] of a cell field are the mask. -/
theorem LimbVal.bf_field_mask (v : LimbVal) : bf v.field 0 10 = limbMask v.limbs := by
  have hm := limbMask_lt v.limbs
  rw [v.field_eq, bf, Nat.shiftRight_zero]
  omega

/-- Bit 10 of a cell field is the sign. -/
theorem LimbVal.bit_field_sign (v : LimbVal) : bit v.field 10 = v.limbs.getLsbD 639 := by
  have hm := limbMask_lt v.limbs
  rw [v.field_eq, bit, Nat.testBit_eq_decide_div_mod_eq]
  cases v.limbs.getLsbD 639 <;> simp [b2n] <;> omega

/-- Bits [14:11] of a cell field are the flags. -/
theorem LimbVal.bf_field_flags (v : LimbVal) : bf v.field 11 4 = v.flags := by
  have hm := limbMask_lt v.limbs
  have hs := b2n_le_one (v.limbs.getLsbD 639)
  have hf := v.flags_lt
  rw [v.field_eq, bf, Nat.shiftRight_eq_div_pow]
  omega

theorem LimbVal.field_lt (v : LimbVal) : v.field < 2 ^ 15 := by
  have hm := limbMask_lt v.limbs
  have hs := b2n_le_one (v.limbs.getLsbD 639)
  have hf := v.flags_lt
  rw [v.field_eq]
  omega

theorem LimbVal.bit_field_of_lt (v : LimbVal) {k : Nat} (hk : k < 10) : bit v.field k = bit (limbMask v.limbs) k := by
  have mask : limbMask v.limbs = v.field % 2 ^ 10 := v.bf_field_mask.symm
  rw [mask, bit, bit, Nat.testBit_mod_two_pow, decide_eq_true hk, Bool.true_and]

/-- A cell field says how many limbs follow it. -/
theorem LimbVal.fieldLimbs_field (v : LimbVal) : fieldLimbs v.field = v.present.length := by
  have present : v.present = ((List.range 10).filter (fun k => bit (limbMask v.limbs) k)).map (limb v.limbs) := by
    rw [← List.filterMap_eq_map, List.filterMap_filter]
    rfl
  rw [present, List.length_map, fieldLimbs]
  exact congrArg List.length (List.filter_congr fun k hk => v.bit_field_of_lt (List.mem_range.mp hk))

/-! ### Decoding (R116) -/

/-- The number above the last present limb. -/
def maskTop (m : Nat) : Nat := if m = 0 then 0 else Nat.log2 m + 1

/-- The limbs from there on are those above every bit of the mask. -/
theorem maskTop_le_iff (m k : Nat) : maskTop m ≤ k ↔ m < 2 ^ k := by
  unfold maskTop
  split
  case isTrue h => simp [h]
  case isFalse h => exact Nat.succ_le_iff.trans (Nat.log2_lt h)

/-- One limb of a decoded value: the next present one, the fill above the mask, or 0. -/
def decodeLimb (m fill : Nat) (acc : Nat × List Nat) (k : Nat) : Nat × List Nat :=
  if bit m k then (acc.1 + (acc.2.headD 0) <<< (64 * k), acc.2.drop 1)
  else if maskTop m ≤ k then (acc.1 + fill <<< (64 * k), acc.2)
  else acc

theorem limbDecode_eq (f : Nat) (ls : List Nat) :
    limbDecode f ls = LimbVal.mk' (BitVec.ofNat 640
      ((List.range 10).foldl (decodeLimb (bf f 0 10) (if bit f 10 then 2 ^ 64 - 1 else 0)) (0, ls)).1) (bf f 11 4) := by
  unfold limbDecode decodeLimb maskTop
  rfl

/-- Limbs `g k` of which those in the mask are listed, and the others are what the mask says, are all added. -/
theorem foldl_decodeLimb (m fill : Nat) (g : Nat → Nat) (ks : List Nat)
    (h : ∀ k ∈ ks, bit m k = false → g k = if m < 2 ^ k then fill else 0) (a : Nat) :
    ks.foldl (decodeLimb m fill) (a, ks.filterMap (fun k => if bit m k then some (g k) else none)) =
      (ks.foldl (fun a k => a + g k * 2 ^ (64 * k)) a, []) := by
  induction ks generalizing a with
  | nil => rfl
  | cons k ks ih =>
    have step : decodeLimb m fill (a, (k :: ks).filterMap (fun k => if bit m k then some (g k) else none)) k =
        (a + g k * 2 ^ (64 * k), ks.filterMap (fun k => if bit m k then some (g k) else none)) := by
      cases hb : bit m k with
      | true => simp [decodeLimb, hb, Nat.shiftLeft_eq]
      | false =>
        have absent := h k List.mem_cons_self hb
        by_cases ht : m < 2 ^ k <;> simp [decodeLimb, hb, maskTop_le_iff, ht, absent, Nat.shiftLeft_eq]
    rw [List.foldl_cons, List.foldl_cons, step]
    exact ih (fun k hk => h k (List.mem_cons_of_mem _ hk)) _

/-- A canonical limb-masked value decodes to itself: what the mask leaves out is what the decoder fills in. -/
theorem limbDecode_field_present (v : LimbVal) : limbDecode v.field v.present = v := by
  have absent : ∀ k ∈ List.range 10, bit (limbMask v.limbs) k = false →
      limb v.limbs k = if limbMask v.limbs < 2 ^ k then fillLimb v.limbs else 0 :=
    fun k hk => limb_of_absent (List.mem_range.mp hk)
  have sum : (List.range 10).foldl (fun a k => a + limb v.limbs k * 2 ^ (64 * k)) 0 = v.limbs.toNat := by
    rw [foldl_range_add, Nat.zero_add]
    exact sum_limbs v.limbs
  have decoded := foldl_decodeLimb _ _ _ _ absent 0
  rw [sum] at decoded
  rw [limbDecode_eq, v.bf_field_mask, v.bit_field_sign, v.bf_field_flags]
  change LimbVal.mk' (BitVec.ofNat 640 ((List.range 10).foldl (decodeLimb (limbMask v.limbs) (fillLimb v.limbs)) (0, v.present)).1) v.flags = v
  rw [LimbVal.present, decoded, BitVec.ofNat_toNat, BitVec.setWidth_eq, v.mk'_flags]

/-! ### Words in bytes -/

theorem leNat_natLe (n v : Nat) : leNat (natLe n v) = v % 256 ^ n := by
  induction n generalizing v with
  | zero => simp [natLe, leNat, Nat.mod_one]
  | succ n ih => rw [natLe, leNat, ih, BitVec.toNat_ofNat, Nat.pow_succ' (m := 256), Nat.mod_mul (a := 256)]

/-- Words are dropped and taken by dropping and taking their bytes. -/
theorem drop_words (n k : Nat) (xs : List Nat) : (xs.flatMap (natLe n)).drop (n * k) = (xs.drop k).flatMap (natLe n) := by
  induction xs generalizing k with
  | nil => simp
  | cons x xs ih =>
    cases k with
    | zero => rfl
    | succ k =>
      rw [List.flatMap_cons, Nat.mul_succ, Nat.add_comm, ← List.drop_drop, List.drop_left' (natLe_length n x), ih, List.drop_succ_cons]

theorem take_words (n k : Nat) (xs : List Nat) : (xs.flatMap (natLe n)).take (n * k) = (xs.take k).flatMap (natLe n) := by
  induction xs generalizing k with
  | nil => simp
  | cons x xs ih =>
    cases k with
    | zero => rfl
    | succ k =>
      rw [List.flatMap_cons, Nat.mul_succ, Nat.add_comm, List.take_succ_cons, List.flatMap_cons, ← ih, List.take_append,
        List.take_of_length_le (by rw [natLe_length]; omega), natLe_length, Nat.add_sub_cancel_left]

/-- Words of n bytes read back from the bytes they were written to. -/
theorem read_words {n : Nat} {xs : List Nat} (h : ∀ x ∈ xs, x < 256 ^ n) :
    (List.range xs.length).map (fun j => bytesAt (xs.flatMap (natLe n)) (n * j) n) = xs := by
  refine List.ext_getElem (by simp) fun j hj hx => ?_
  have word : ((xs.drop j).flatMap (natLe n)).take n = natLe n xs[j] := by
    rw [List.drop_eq_getElem_cons hx, List.flatMap_cons, List.take_left' (natLe_length n _)]
  rw [List.getElem_map, List.getElem_range, bytesAt, drop_words, word, leNat_natLe, Nat.mod_eq_of_lt (h _ (List.getElem_mem hx))]

/-- Blocks of w in a row are the list they were cut from. -/
theorem flatMap_blocks {α : Type} (xs : List α) (w l : Nat) :
    (List.range l).flatMap (fun b => (xs.drop (w * b)).take w) = xs.take (w * l) := by
  induction l with
  | zero => simp
  | succ l ih => rw [List.range_succ, List.flatMap_append, ih, List.flatMap_singleton, Nat.mul_succ, List.take_add]

/-- Words w at a time, from blocks of their bytes. -/
theorem read_blocks {n w l : Nat} {xs : List Nat} (h : ∀ x ∈ xs, x < 256 ^ n) (hl : xs.length = w * l) (rd : Nat → List Byte)
    (hrd : ∀ b < l, rd b = (((xs.flatMap (natLe n)).drop (n * w * b)).take (n * w))) :
    (List.range l).flatMap (fun b => (List.range w).map (fun j => bytesAt (rd b) (n * j) n)) = xs := by
  have block : ∀ b ∈ List.range l, (List.range w).map (fun j => bytesAt (rd b) (n * j) n) = (xs.drop (w * b)).take w := by
    intro b hb
    have hb := List.mem_range.mp hb
    have fits : w * b + w ≤ w * l := Nat.mul_le_mul_left w hb
    have hlen : ((xs.drop (w * b)).take w).length = w := by
      rw [List.length_take, List.length_drop, hl]
      omega
    have words := read_words (n := n) (xs := (xs.drop (w * b)).take w) fun x hx => h x (List.mem_of_mem_drop (List.mem_of_mem_take hx))
    rw [hlen] at words
    rw [hrd b hb, Nat.mul_assoc, drop_words, take_words, words]
  rw [List.flatMap_congr block, flatMap_blocks, ← hl, List.take_length]

/-! ### The spill image (R117) -/

theorem natLe_zero (n : Nat) : natLe n 0 = List.replicate n 0 := by
  induction n with
  | zero => rfl
  | succ n ih => rw [natLe, Nat.zero_div, ih]; rfl

theorem zero_words (n k : Nat) : (List.replicate k 0).flatMap (natLe n) = List.replicate (n * k) 0 := by
  rw [List.flatMap_replicate, natLe_zero, List.flatten_replicate_replicate, Nat.mul_comm]

theorem length_words (n : Nat) (xs : List Nat) : (xs.flatMap (natLe n)).length = n * xs.length := by
  simp [List.length_flatMap, natLe_length, Nat.mul_comm]

/-- A block filled up with a value is a block of the whole list filled up with it. -/
theorem take_drop_pad {α : Type} (xs : List α) (z : α) {k w m : Nat} (h : k + w ≤ xs.length + m) :
    ((xs.drop k).take w ++ List.replicate w z).take w = ((xs ++ List.replicate m z).drop k).take w := by
  simp only [List.drop_append, List.take_append, List.take_take, List.drop_replicate, List.take_replicate, List.length_take, List.length_drop, Nat.min_self]
  congr 2
  omega

theorem LimbVal.present_lt (v : LimbVal) : ∀ x ∈ v.present, x < 256 ^ 8 := by
  intro x hx
  obtain ⟨k, -, hk⟩ := List.mem_filterMap.mp hx
  split at hk
  · exact Option.some.inj hk ▸ bf_lt v.limbs.toNat (64 * k) 64
  · cases hk

/-- Zeros that fill up the limbs of a spill image to whole billets. -/
def limbPad (ls : List Nat) : List Nat := List.replicate (64 * ceilDiv ls.length 64 - ls.length) 0

theorem length_padded (ls : List Nat) : (ls ++ limbPad ls).length = 64 * ceilDiv ls.length 64 := by
  rw [List.length_append, limbPad, List.length_replicate, ceilDiv]
  omega

/-- The cell fields imply the number of limb billets that the spill counted (R118). -/
theorem spillLimbs_fields (vs : List LimbVal) : spillLimbs (vs.map (·.field)) = (spillImage vs).1 := by
  rw [spillLimbs, List.map_map, List.map_congr_left (g := fun v => v.present.length) fun v _ => v.fieldLimbs_field, ← List.length_flatMap]
  rfl

section
variable {rd : Nat → List Byte} {vs : List LimbVal} (hrd : ∀ p ∈ (spillImage vs).2, rd p.1 = p.2)
include hrd

/-- The cell-field billets of a region that holds the image. -/
theorem rd_fieldBillet {b : Nat} (hb : b < 16) :
    rd (640 + b) = (((vs.map (·.field)).flatMap (natLe 2)).drop (512 * b)).take 512 := by
  rw [List.flatMap_map]
  exact hrd (640 + b, _) (List.mem_append_right _ (List.mem_map.mpr ⟨b, List.mem_range.mpr hb, rfl⟩))

/-- The limb billets of a region that holds the image. -/
theorem rd_limbBillet {b : Nat} (hb : b < (spillImage vs).1) :
    let ls := vs.flatMap (·.present)
    rd b = (((ls ++ limbPad ls).flatMap (natLe 8)).drop (512 * b)).take 512 := by
  intro ls
  have len := length_padded ls
  have hb' : b + 1 ≤ ceilDiv ls.length 64 := hb
  rw [List.length_append, limbPad, List.length_replicate] at len
  rw [List.flatMap_append, limbPad, zero_words, ← take_drop_pad _ _ (by rw [length_words]; omega)]
  exact hrd (b, _) (List.mem_append_left _ (List.mem_map.mpr ⟨b, List.mem_range.mpr hb, rfl⟩))

/-- The 16 cell-field billets read as the fields of the 4,096 values. -/
theorem spillFields_of_image (hn : vs.length = 4096) : spillFields rd = vs.map (·.field) := by
  have fields : ∀ x ∈ vs.map (·.field), x < 256 ^ 2 := by
    intro x hx
    obtain ⟨v, -, rfl⟩ := List.mem_map.mp hx
    exact v.field_lt.trans (by decide)
  rw [spillFields, rangeFrom, List.flatMap_map]
  exact read_blocks (w := 256) fields (by rw [List.length_map, hn]) (fun b => rd (640 + b)) fun b hb => rd_fieldBillet hrd hb

/-- The limb billets read as the present limbs of all values, and zeros after them. -/
theorem limbs_of_image :
    let ls := vs.flatMap (·.present)
    (List.range (spillImage vs).1).flatMap (fun b => (List.range 64).map (fun j => bytesAt (rd b) (8 * j) 8)) = ls ++ limbPad ls := by
  intro ls
  have words : ∀ x ∈ ls ++ limbPad ls, x < 256 ^ 8 := by
    intro x hx
    obtain hx | hx := List.mem_append.mp hx
    · obtain ⟨v, -, hv⟩ := List.mem_flatMap.mp hx
      exact v.present_lt x hv
    · rw [List.eq_of_mem_replicate hx]
      decide
  exact read_blocks (w := 64) words (length_padded ls) rd fun b hb => rd_limbBillet hrd hb

end

/-- The fields and limbs of a list of values, with whatever follows the limbs, give the values. -/
theorem spillDecode_fields (vs : List LimbVal) (rest : List Nat) :
    spillDecode (vs.map (·.field)) (vs.flatMap (·.present) ++ rest) = vs := by
  induction vs with
  | nil => rfl
  | cons v vs ih =>
    rw [List.map_cons, List.flatMap_cons, List.append_assoc, spillDecode, v.fieldLimbs_field, List.take_left, List.drop_left, ih,
      limbDecode_field_present]

theorem readSpill_of_image {rd : Nat → List Byte} {vs : List LimbVal} (hn : vs.length = 4096) (hrd : ∀ p ∈ (spillImage vs).2, rd p.1 = p.2) :
    readSpill rd = some ((spillImage vs).1, vs) := by
  have reserved : (vs.map (·.field)).any (fun f => bit f 15) = false := by
    rw [List.any_eq_false]
    intro f hf
    obtain ⟨v, -, rfl⟩ := List.mem_map.mp hf
    rw [bit, Nat.testBit_lt_two_pow v.field_lt]
    decide
  have limbs := limbs_of_image hrd
  dsimp only at limbs
  rw [readSpill]
  dsimp only
  rw [spillFields_of_image hrd hn, reserved, spillLimbs_fields, limbs, spillDecode_fields]
  rfl

/-- Settles O22: a canonical mask says what every absent limb holds, so that no limb is lost; and the image gives back its fields, which say how many limbs each value takes. -/
theorem spillRoundTrip : Obligations.SpillRoundTrip := by
  unfold Obligations.SpillRoundTrip
  exact ⟨limbDecode_field_present, fun rd vs hn hrd => readSpill_of_image hn hrd⟩

end Sys2Proof.Machine
end

section
/-! PROOFS. What the vector commands leave: their start, their turns at the head of the queue, and their completion (R139, R140, R142, R145, R147, R148, R150, R452). -/

namespace Sys2Proof.Machine

/-! ### Starts leave the queue (R380, R387) -/

theorem pushTrace_vecQ (t : Nat) (slot : Option Nat) (gapByte gapBit : Nat) (bs : List Byte) (s : State) :
    ((pushTrace t slot gapByte gapBit bs s).tile t).vecQ = (s.tile t).vecQ := by
  unfold pushTrace
  dsimp only
  split
  · simp only [State.tile, State.modTile, State.setTile, sgetD_sset_self, Tile.count]
  · rw [State.setTile_self]

theorem latchRecord_vecQ (t : Nat) (q : QEntry) (s : State) : ((latchRecord t q s).tile t).vecQ = (s.tile t).vecQ := by
  unfold latchRecord
  dsimp only
  split
  · exact pushTrace_vecQ t _ _ _ _ _
  · rfl

theorem Tile.latch_vecQ (x : Tile) (cycle : Nat) (atEnd : Bool) (eng tag slot : Nat) : (x.latch cycle atEnd eng tag slot).vecQ = x.vecQ := by
  simp only [Tile.latch, apply_ite Tile.vecQ, ite_self]

theorem startLatch_vecQ (t eng : Nat) (q : QEntry) (s : State) : ((startLatch t eng q s).tile t).vecQ = (s.tile t).vecQ := by
  unfold startLatch
  split
  · rw [latchRecord_vecQ, State.modTile_self, Tile.latch_vecQ]
  · rfl

/-- A command that has started stands at the head of its queue, marked as started. -/
theorem startVec_head {q : QEntry} (hs : q.started = false) (t : Nat) (s : State) :
    ((startVec t q s).tile t).vecQ.head? = some (startedEntry s t q) := by
  rw [startVec, if_neg (by simp [hs]), startLatch_vecQ, setVecHead, State.modTile_self]
  rfl

/-! ### The turns of the head command (R139, R140, R452) -/

section
variable {s : State} {t op : Nat} {q : QEntry} {e : MapEntry} {c : Ctx}
  (hq : (s.tile t).vecQ.head? = some q) (hd : q.done = false) (ho : vOp q.cmd = op) (hg : headEntry s t (some q) = .go q e c)
include hq hd ho hg

/-- The row of the head's VOP acts on the head. -/
theorem withVector_of_go (f : QEntry → MapEntry → Ctx → State) : withVector t op s f = f q e c := by
  rw [withVector, hq, if_pos (by simp [hd, ho]), hg]

/-- COUNT 0: the command starts and is done. -/
theorem vectorRow_of_count_zero (hs : q.started = false) (hc : vCount q.cmd = 0) : vectorRow t op .clean s = doneVec t (startVec t q s) := by
  rw [vectorRow, withVector_of_go hq hd ho hg]
  simp only [hs, hc, tileEcc_clean, Bool.false_eq_true, if_true, if_false]

/-- The command starts, and its first reads are presented. -/
theorem vectorRow_of_start (hs : q.started = false) (hc : vCount q.cmd ≠ 0) (hr : vecRefusal e q.cmd = none) :
    vectorRow t op .clean s = vecAsk t e (startedEntry s t q) (startVec t q s) := by
  rw [vectorRow, withVector_of_go hq hd ho hg]
  simp only [hs, hc, hr, tileEcc_clean, startVec_head hs, Bool.false_eq_true, if_false]

/-- Billets remain and the reads before have been granted: the next ones are presented. -/
theorem vectorRow_of_ask (hs : q.started = true) (hk : q.kDone < vCount q.cmd) (hr : ∀ r ∈ (s.tile t).reqs, r.dst.isVecSrc = false)
    (ecc : Check) : vectorRow t op ecc s = vecAsk t e q s := by
  have granted : (s.tile t).reqs.all (fun r => !r.dst.isVecSrc) = true := by simpa using hr
  rw [vectorRow, withVector_of_go hq hd ho hg]
  simp only [hs, hk, granted, if_true]

/-- Every source billet has arrived: the results are presented, with their flags. -/
theorem vectorRow_of_arrived (hs : q.started = true) (hk : vCount q.cmd ≤ q.kDone) (hn : (s.tile t).noneAsked (·.isVecSrc) = true)
    (ecc : Check) :
    let r := vecResults (s.tile t) q c.seed c.superstep
    vectorRow t op ecc s =
      doneVec t ((vecWrite t e q.cmd r.1 r.2.1 (s.setTile t ((s.tile t).dropReqs (·.isVecSrc)))).modTile t (·.raiseFlags q.slot op r.2.2)) := by
  rw [vectorRow, withVector_of_go hq hd ho hg]
  simp only [hs, Nat.not_lt.mpr hk, hn, if_true, if_false]
  rfl

end

/-! ### The vector commands -/

theorem exec_vectorCommand {t : TileId} {ecc : Check} {p : Instr × Nat} (hp : p ∈ vectorCommands t ecc) (s : State) :
    exec p.1 s = .next (vectorRow t p.2 ecc s) := by
  simp only [vectorCommands, List.mem_cons, List.not_mem_nil, or_false] at hp
  rcases hp with rfl | rfl | rfl | rfl | rfl | rfl | rfl | rfl | rfl | rfl | rfl | rfl | rfl | rfl | rfl | rfl | rfl | rfl | rfl | rfl | rfl | rfl |
    rfl <;> rfl

theorem exec_vectorCommandComplete {s : State} {t : TileId} {q : QEntry} {r : List QEntry} (hq : (s.tile t).vecQ = q :: r)
    (hl : s.tileLit t = true) (hd : q.done = true) (hw : q.faulted = true ∨ (s.tile t).quiet .vector .cvtTail = true) :
    exec (.vectorCommandComplete t) s = .next (completeEntry t 1 q (s.setTile t { s.tile t with vecQ := r })) := by
  change execVectorCommandComplete t s = _
  rw [execVectorCommandComplete, hq]
  dsimp only
  rw [if_pos (by simpa [hl, hd] using hw)]
  rfl

/-- Settles O15: the turn of the head command at each of its stages, whichever of the 23 rows it is of, and the completion. -/
theorem vectorCommandsComplete : Obligations.VectorCommandsComplete := by
  unfold Obligations.VectorCommandsComplete
  refine ⟨?row, ?complete⟩
  case row =>
    intro s t q e c p hp hq hd ho hg
    rw [exec_vectorCommand hp]
    refine ⟨?empty, ?start, ?ask, ?present⟩
    case empty =>
      intro hs hc
      rw [vectorRow_of_count_zero hq hd ho hg hs hc]
    case start =>
      intro hs hc hr
      rw [vectorRow_of_start hq hd ho hg hs hc hr]
    case ask =>
      intro hs hk hr
      rw [vectorRow_of_ask hq hd ho hg hs hk hr]
    case present =>
      intro hs hk hn
      dsimp only
      rw [vectorRow_of_arrived hq hd ho hg hs hk hn]
  case complete =>
    intro s t q r hq hl hd hw
    exact exec_vectorCommandComplete hq hl hd hw

end Sys2Proof.Machine
end

section
/-! PROOFS. Sums, products and comparisons of values, and the algebraic laws of the vector elements (R141, R142). -/

namespace Sys2Proof.Machine

/-! ### Sums and products (R141) -/

/-- A finite value as a whole number of units 2^e, for `e` not above its own exponent. -/
def unitsAt (e : Int) (n : Bool) (m : Nat) (k : Int) : Int := if n then -((m <<< (k - e).toNat : Nat) : Int) else (m <<< (k - e).toNat : Nat)

theorem unitsAt_not (e : Int) (n : Bool) (m : Nat) (k : Int) : unitsAt e (!n) m k = -unitsAt e n m k := by
  cases n <;> simp [unitsAt]

/-- The exact sum of two finite values is taken in units of the lower exponent; a zero sum is −0 for two −0 alone. -/
theorem Fp.add_fin (n1 : Bool) (m1 : Nat) (e1 : Int) (n2 : Bool) (m2 : Nat) (e2 : Int) :
    (Fp.fin n1 m1 e1).add (.fin n2 m2 e2) =
      let e := Min.min e1 e2
      let s := unitsAt e n1 m1 e1 + unitsAt e n2 m2 e2
      (.fin (if s = 0 then n1 && n2 else decide (s < 0)) s.natAbs e, 0) := rfl

theorem Fp.add_comm (a b : Fp) : a.add b = b.add a := by
  cases a with
  | nan => cases b <;> rfl
  | inf x =>
    cases b with
    | nan => rfl
    | inf y => cases x <;> cases y <;> rfl
    | fin n m e => rfl
  | fin n1 m1 e1 =>
    cases b with
    | nan => rfl
    | inf y => rfl
    | fin n2 m2 e2 =>
      rw [Fp.add_fin, Fp.add_fin, min_comm]
      dsimp only
      rw [Int.add_comm, Bool.and_comm]

theorem Fp.mul_comm (a b : Fp) : a.mul b = b.mul a := by
  cases a with
  | nan => cases b <;> rfl
  | inf x =>
    cases b with
    | nan => rfl
    | inf y => cases x <;> cases y <;> rfl
    | fin n m e => simp only [Fp.mul, bne_comm]
  | fin n1 m1 e1 =>
    cases b with
    | nan => rfl
    | inf y => simp only [Fp.mul, bne_comm]
    | fin n2 m2 e2 => simp only [Fp.mul, bne_comm, Nat.mul_comm, Int.add_comm]

/-- x − x is +0, exact (R141). -/
theorem Fp.add_neg_self (n : Bool) (m : Nat) (e : Int) : (Fp.fin n m e).add (Fp.fin n m e).neg = (.fin false 0 e, 0) := by
  simp [Fp.neg, Fp.add_fin, unitsAt_not]

/-! ### Comparisons (R142) -/

theorem Fp.cmp_nan {a b : Fp} (h : a = .nan ∨ b = .nan) : a.cmp b = none := by
  obtain rfl | rfl := h
  · rfl
  · cases a <;> rfl

/-- Finite values compare as their difference in units of the lower exponent. -/
theorem Fp.cmp_fin (n1 : Bool) (m1 : Nat) (e1 : Int) (n2 : Bool) (m2 : Nat) (e2 : Int) :
    (Fp.fin n1 m1 e1).cmp (.fin n2 m2 e2) =
      let e := Min.min e1 e2
      some (unitsAt e n1 m1 e1 - unitsAt e n2 m2 e2).sign := by
  simp only [Fp.cmp, Fp.neg, Fp.add_fin, unitsAt_not, ← Int.sub_eq_add_neg]
  generalize unitsAt _ n1 m1 e1 - unitsAt _ n2 m2 e2 = d
  obtain hd | rfl | hd := Int.lt_trichotomy d 0
  · simp [hd.ne, hd, Int.sign_eq_neg_one_of_neg hd]
  · rfl
  · simp [hd.ne', Int.not_lt.mpr hd.le, Int.sign_eq_one_of_pos hd]

/-- Swapping the operands turns the order round. -/
theorem Fp.cmp_swap (a b : Fp) : b.cmp a = (a.cmp b).map (- ·) := by
  cases a with
  | nan => rw [Fp.cmp_nan (.inl rfl), Fp.cmp_nan (.inr rfl)]; rfl
  | inf x =>
    cases b with
    | nan => rfl
    | inf y => cases x <;> cases y <;> rfl
    | fin n m e => cases x <;> rfl
  | fin n1 m1 e1 =>
    cases b with
    | nan => rfl
    | inf y => cases y <;> rfl
    | fin n2 m2 e2 =>
      rw [Fp.cmp_fin, Fp.cmp_fin, min_comm]
      dsimp only
      rw [← Int.neg_sub, Int.sign_neg]
      rfl

theorem Fp.min_nan {a b : Fp} (h : a = .nan ∨ b = .nan) : a.min b = .nan := by
  rw [Fp.min, Fp.cmp_nan h]

theorem Fp.max_nan {a b : Fp} (h : a = .nan ∨ b = .nan) : a.max b = .nan := by
  rw [Fp.max, Fp.cmp_nan h]

/-! ### Encodings of zeros and NaNs -/

theorem Fmt.round_zero (f : Fmt) (mode r : Nat) (e : Int) : f.round mode r 0 e = (0, false) := rfl

/-- A positive zero is delivered as +0, with no flag, whatever its exponent. -/
theorem Fmt.ieee_zero (f : Fmt) (mode r : Nat) (e : Int) : f.ieee mode r false 0 e = (0, 0) := by
  simp [Fmt.ieee, Fmt.round_zero, Fmt.sgn, Fmt.under, b2n]

/-! ### Vector elements (R142) -/

/-- An exact result with its flags, rounded to a layout. -/
def Fmt.deliver (f : Fmt) (p : Fp × Nat) : Nat × Nat := ((f.encode p.1).1, p.2 ||| (f.encode p.1).2)

theorem Fmt.deliver_nan (f : Fmt) (g : Nat) : f.deliver (.nan, g) = (f.quiet, g) := by
  rw [Fmt.deliver, Fmt.encode, Nat.or_zero]

theorem Fmt.deliver_zero (f : Fmt) (e : Int) : f.deliver (.fin false 0 e, 0) = (0, 0) := by
  simp [Fmt.deliver, Fmt.encode, Fmt.ieee_zero]

/-- 1.0 in a TYPE, which a comparison that holds delivers. -/
def typeOne (ty : Nat) : Nat := if ty = 0 then 0x3F800000 else 0x3F80

theorem typeOne_ne_zero (ty : Nat) : typeOne ty ≠ 0 := by
  unfold typeOne
  split <;> decide

section
variable (ty x : Nat) (a b c : Fp)

theorem vecElem_add : vecElem 0x01 ty x a b c = (typeFmt ty).deliver (a.add b) := rfl
theorem vecElem_sub : vecElem 0x02 ty x a b c = (typeFmt ty).deliver (a.add b.neg) := rfl
theorem vecElem_mul : vecElem 0x03 ty x a b c = (typeFmt ty).deliver (a.mul b) := rfl
theorem vecElem_fma : vecElem 0x04 ty x a b c = (typeFmt ty).deliver (a.fma b c) := rfl
theorem vecElem_min : vecElem 0x05 ty x a b c = (typeFmt ty).deliver (a.min b, 0) := rfl
theorem vecElem_max : vecElem 0x06 ty x a b c = (typeFmt ty).deliver (a.max b, 0) := rfl
theorem vecElem_abs : vecElem 0x07 ty x a b c = (x % 2 ^ ((typeFmt ty).eb + (typeFmt ty).mb), 0) := rfl
theorem vecElem_neg : vecElem 0x08 ty x a b c = (x ^^^ 2 ^ ((typeFmt ty).eb + (typeFmt ty).mb), 0) := rfl
theorem vecElem_lt : vecElem 0x09 ty x a b c = (if a.cmp b = some (-1) then typeOne ty else 0, 0) := rfl
theorem vecElem_le : vecElem 0x0A ty x a b c = (if a.cmp b = some (-1) || a.cmp b = some 0 then typeOne ty else 0, 0) := rfl
theorem vecElem_eq : vecElem 0x0B ty x a b c = (if a.cmp b = some 0 then typeOne ty else 0, 0) := rfl

theorem vecElem_lt_eq_zero : (vecElem 0x09 ty x a b c).1 = 0 ↔ a.cmp b ≠ some (-1) := by
  simp [vecElem_lt, typeOne_ne_zero]

theorem vecElem_le_eq_zero : (vecElem 0x0A ty x a b c).1 = 0 ↔ a.cmp b ≠ some (-1) ∧ a.cmp b ≠ some 0 := by
  simp [vecElem_le, typeOne_ne_zero]

theorem vecElem_eq_eq_zero : (vecElem 0x0B ty x a b c).1 = 0 ↔ a.cmp b ≠ some 0 := by
  simp [vecElem_eq, typeOne_ne_zero]

/-- b < a and a ≤ b exclude each other. -/
theorem vecElem_lt_swap_or_le : (vecElem 0x09 ty x b a c).1 = 0 ∨ (vecElem 0x0A ty x a b c).1 = 0 := by
  rw [vecElem_lt_eq_zero, vecElem_le_eq_zero, Fp.cmp_swap]
  by_cases h : a.cmp b = some 1
  · exact .inr (by simp [h])
  · refine .inl fun hs => h ?_
    obtain ⟨d, hd, hn⟩ := Option.map_eq_some_iff.mp hs
    rw [hd, Int.neg_inj.mp hn]

end

/-- Settles O16: sums and products commute as exact values, comparisons go by the sign of the difference, and NEG and ABS touch the sign bit alone. -/
theorem vectorArithmeticRules : Obligations.VectorArithmeticRules := by
  unfold Obligations.VectorArithmeticRules
  refine ⟨?commute, ?compare, ?diff, ?fma, ?sign⟩
  case commute =>
    intro ty x y a b c
    rw [vecElem_add, vecElem_add, Fp.add_comm, vecElem_mul, vecElem_mul, Fp.mul_comm]
    exact ⟨rfl, rfl⟩
  case compare =>
    intro ty x a b c
    refine ⟨?le, vecElem_lt_swap_or_le ty x a b c, ?unordered, ?minmax⟩
    case le => rw [vecElem_le_eq_zero, vecElem_lt_eq_zero, vecElem_eq_eq_zero]
    case unordered =>
      intro h
      simp [vecElem_lt, vecElem_le, vecElem_eq, Fp.cmp_nan h]
    case minmax =>
      intro h
      simp [vecElem_min, vecElem_max, Fp.min_nan h, Fp.max_nan h, Fmt.deliver_nan]
  case diff =>
    intro ty x n m e c
    rw [vecElem_sub, Fp.add_neg_self, Fmt.deliver_zero]
  case fma =>
    intro ty x n k e
    have invalid : (Fp.fin n 0 e).fma (.inf k) .nan = (.nan, flagInvalid) := rfl
    rw [vecElem_fma, invalid, Fmt.deliver_nan]
  case sign =>
    intro ty x a b c a' b' c' _
    rw [vecElem_neg, vecElem_neg, vecElem_abs, vecElem_abs]
    dsimp only
    rw [Nat.xor_assoc, Nat.xor_self, Nat.xor_zero, Nat.xor_mod_two_pow, Nat.mod_self, Nat.xor_zero]
    exact ⟨rfl, rfl⟩

end Sys2Proof.Machine
end

section
/-! PROOFS. Zeros in the matrix engine: a product with one adds nothing, and a sum of zero drains as +0 (R110, R127). -/

namespace Sys2Proof.Machine

/-! ### Products with a zero -/

theorem Cell.product_zero (wide n1 n2 : Bool) {m1 m2 : Nat} (e1 e2 : Int) (c : Cell) (h : m1 = 0 ∨ m2 = 0) :
    c.product wide false (.fin n1 m1 e1) (.fin n2 m2 e2) = c := by
  rw [Cell.product_fin, if_pos (Nat.mul_eq_zero.mpr h)]

/-! ### A sum of zero -/

theorem outOfRange_zero : outOfRange 0#640 = false := by
  rw [outOfRange, BitVec.toNat_zero]
  rfl

/-- A cell without flags whose kiln resolves to zero stands for +0. -/
theorem Cell.value_toFp_zero {c : Cell} (h : c.resolved = 0) (hn : c.nan = false) (hp : c.posInf = false) (hm : c.negInf = false)
    (ho : c.overflow = false) : c.value.toFp = .fin false 0 (-286) := by
  simp [Cell.value, LimbVal.toFp, h, hn, hp, hm, ho, outOfRange_zero, ofInt]

theorem roundAt_zero (mode r : Nat) (e q : Int) : roundAt mode r 0 e q = (0, false) := by
  simp [roundAt]

theorem Fmt.beyond_zero (f : Fmt) (e : Int) : f.beyond 0 e = false := by
  simp [Fmt.beyond, Fmt.round_zero]

/-- +0 is delivered as the zero of every output format, with no flag. -/
theorem narrowElem_zero (o mode r : Nat) (e : Int) : narrowElem o mode r (.fin false 0 e) = (0, 0) := by
  rw [narrowElem]
  split
  · simp [Fmt.ieee_zero, Fmt.beyond_zero]
  · split
    · simp [roundAt_zero]
    · simp [Fmt.round_zero, Fmt.sgn, Fmt.under, b2n]

/-- Settles O21: the product of the magnitudes is zero, so nothing is added; and a zero kiln stands for +0, which every rounding keeps. -/
theorem zeroProductsAddNothing : Obligations.ZeroProductsAddNothing := by
  unfold Obligations.ZeroProductsAddNothing
  refine ⟨?product, ?drain⟩
  case product =>
    intro c wide n1 n2 m1 m2 e1 e2 h
    exact c.product_zero wide n1 n2 e1 e2 h
  case drain =>
    intro c h hn hp hm ho o mode r shift _
    rw [Cell.value_toFp_zero h hn hp hm ho]
    exact narrowElem_zero o mode r _

end Sys2Proof.Machine
end

section
/-! PROOFS. The special cases of the functions: NaNs, infinities, zeros, negative operands and 1.0 (R145, R146). -/

namespace Sys2Proof.Machine

/-! ### FP32 encodings of the special operands -/

theorem decode_negInf : fp32.decode 0xFF800000 = .inf true := by decide
theorem decode_posInf : fp32.decode 0x7F800000 = .inf false := by decide
theorem decode_negZero : fp32.decode 0x80000000 = .fin true 0 (-149) := by decide
theorem decode_posZero : fp32.decode 0 = .fin false 0 (-149) := by decide
theorem decode_one : fp32.decode 0x3F800000 = .fin false (2 ^ 23) (-23) := by decide

/-! ### The functions by the class of their operand (R145) -/

section
variable {x m : Nat} {n : Bool} {e : Int}

theorem funcBase_nan (v : Nat) (h : fp32.decode x = .nan) : funcBase v x = (0x7FC00000, 0) := by
  unfold funcBase; rw [h]

theorem funcBase_rcp_inf (h : fp32.decode x = .inf n) : funcBase 0x10 x = (fp32.sgn n, 0) := by
  unfold funcBase; rw [h]; rfl

theorem funcBase_rcp_zero (h : fp32.decode x = .fin n 0 e) : funcBase 0x10 x = (0x7F800000 + fp32.sgn n, flagDivZero) := by
  unfold funcBase; rw [h]; rfl

theorem funcBase_sqrt_inf (h : fp32.decode x = .inf n) : funcBase 0x11 x = if n then (0x7FC00000, flagInvalid) else (0x7F800000, 0) := by
  unfold funcBase; rw [h]; rfl

theorem funcBase_sqrt_zero (h : fp32.decode x = .fin n 0 e) : funcBase 0x11 x = (fp32.sgn n, 0) := by
  unfold funcBase; rw [h]; rfl

theorem funcBase_rsqrt_inf (h : fp32.decode x = .inf n) : funcBase 0x12 x = if n then (0x7FC00000, flagInvalid) else (0, 0) := by
  unfold funcBase; rw [h]; rfl

theorem funcBase_rsqrt_zero (h : fp32.decode x = .fin n 0 e) : funcBase 0x12 x = (0x7F800000 + fp32.sgn n, flagDivZero) := by
  unfold funcBase; rw [h]; rfl

theorem funcBase_exp_inf (h : fp32.decode x = .inf n) : funcBase 0x13 x = (if n then 0 else 0x7F800000, 0) := by
  unfold funcBase; rw [h]; rfl

theorem funcBase_exp_zero (h : fp32.decode x = .fin n 0 e) : funcBase 0x13 x = (0x3F800000, 0) := by
  unfold funcBase; rw [h]; rfl

theorem funcBase_exp2_inf (h : fp32.decode x = .inf n) : funcBase 0x14 x = (if n then 0 else 0x7F800000, 0) := by
  unfold funcBase; rw [h]; rfl

theorem funcBase_exp2_zero (h : fp32.decode x = .fin n 0 e) : funcBase 0x14 x = (0x3F800000, 0) := by
  unfold funcBase; rw [h]; rfl

theorem funcBase_expm1_inf (h : fp32.decode x = .inf n) : funcBase 0x15 x = (if n then 0xBF800000 else 0x7F800000, 0) := by
  unfold funcBase; rw [h]; rfl

theorem funcBase_expm1_zero (h : fp32.decode x = .fin n 0 e) : funcBase 0x15 x = (fp32.sgn n, 0) := by
  unfold funcBase; rw [h]; rfl

/-- VOP of LOG or LOG2. -/
def logVop (two : Bool) : Nat := if two then 0x17 else 0x16

theorem funcBase_log_inf (two : Bool) (h : fp32.decode x = .inf n) :
    funcBase (logVop two) x = if n then (0x7FC00000, flagInvalid) else (0x7F800000, 0) := by
  unfold funcBase; rw [h]; cases two <;> rfl

theorem funcBase_log_zero (two : Bool) (h : fp32.decode x = .fin n 0 e) : funcBase (logVop two) x = (0xFF800000, flagDivZero) := by
  unfold funcBase; rw [h]; cases two <;> rfl

theorem funcBase_log_pos (two : Bool) (h : fp32.decode x = .fin false m e) (hm : m ≠ 0) : funcBase (logVop two) x = logFn (logVop two) x two m e := by
  obtain ⟨k, rfl⟩ := Nat.exists_eq_succ_of_ne_zero hm
  unfold funcBase; rw [h]; cases two <;> rfl

/-- A root or a logarithm of a negative number is invalid. -/
theorem funcBase_negative {v : Nat} (hv : v ∈ [0x11, 0x12, 0x16, 0x17]) (h : fp32.decode x = .fin true m e) (hm : m ≠ 0) :
    funcBase v x = (0x7FC00000, flagInvalid) := by
  obtain ⟨k, rfl⟩ := Nat.exists_eq_succ_of_ne_zero hm
  simp only [List.mem_cons, List.not_mem_nil, or_false] at hv
  unfold funcBase
  rw [h]
  obtain rfl | rfl | rfl | rfl := hv <;> rfl

end

/-- A logarithm of 1.0 is +0: 1.0 is the power of two with exponent 0, whose logarithm is exact. -/
theorem logFn_one (v x : Nat) (two : Bool) : logFn v x two (2 ^ 23) (-23) = (0, 0) := by
  have log2 : Nat.log2 (2 ^ 23) = 23 := Nat.log2_two_pow
  have top : topExp (2 ^ 23) (-23) = 0 := by rw [topExp, log2]; rfl
  simp only [logFn, log2, top, decide_true, Bool.or_true, Bool.and_self, if_true]
  rfl

/-! ### TANH and SIGMOID at their special operands (R146) -/

/-- TANH step by step: `y` is −2|x|, `e` its EXPM1, `d` e + 2.0, `r` the reciprocal. -/
theorem tanhFn_of_steps {x y e d r : Nat} (hx : fp32.decode x ≠ .nan) (hy : mulEnc 0xC0000000 (absEnc x) = y) (he : (funcBase 0x15 y).1 = e)
    (hd : addEnc e 0x40000000 = d) (hr : (funcBase 0x10 d).1 = r) : tanhFn x = absEnc (mulEnc (negEnc e) r) + (x - absEnc x) := by
  subst hy he hd hr
  rw [tanhFn, if_neg hx]

/-- At an infinity the steps are −∞, −1.0, 1.0 and 1.0. -/
theorem tanhFn_inf {x : Nat} (hx : fp32.decode x ≠ .nan) (ha : absEnc x = 0x7F800000) : tanhFn x = 0x3F800000 + (x - 0x7F800000) := by
  rw [tanhFn_of_steps (y := 0xFF800000) (e := 0xBF800000) (d := 0x3F800000) (r := 0x3F800000) hx (by rw [ha]; decide) (by decide) (by decide)
    (by decide), ha]
  rfl

/-- At a zero the steps are −0, −0, 2.0 and 0.5. -/
theorem tanhFn_zero {x : Nat} (hx : fp32.decode x ≠ .nan) (ha : absEnc x = 0) : tanhFn x = x := by
  rw [tanhFn_of_steps (y := 0x80000000) (e := 0x80000000) (d := 0x40000000) (r := 0x3F000000) hx (by rw [ha]; decide) (by decide) (by decide)
    (by decide), ha]
  exact Nat.zero_add x

/-- SIGMOID step by step: `e` is the EXP of −x, `d` 1.0 + e. -/
theorem sigmoidFn_of_steps {x e d : Nat} (hx : fp32.decode x ≠ .nan) (he : (funcBase 0x13 (negEnc x)).1 = e)
    (hd : addEnc 0x3F800000 e = d) : sigmoidFn x = (funcBase 0x10 d).1 := by
  subst he hd
  rw [sigmoidFn, if_neg hx]

theorem sigmoidFn_negInf : sigmoidFn 0xFF800000 = 0 :=
  sigmoidFn_of_steps (e := 0x7F800000) (d := 0x7F800000) (by decide) (by decide) (by decide)

theorem sigmoidFn_posInf : sigmoidFn 0x7F800000 = 0x3F800000 :=
  sigmoidFn_of_steps (e := 0) (d := 0x3F800000) (by decide) (by decide) (by decide)

/-- At a zero the EXP is 1.0, so the sum is 2.0. -/
theorem sigmoidFn_zero {x : Nat} (hx : fp32.decode x ≠ .nan) (he : (funcBase 0x13 (negEnc x)).1 = 0x3F800000) : sigmoidFn x = 0x3F000000 :=
  sigmoidFn_of_steps (d := 0x40000000) hx he (by decide)

/-! ### The rows of the table (R145) -/

/-- A NaN gives the canonical NaN, in the functions that are sequences too. -/
theorem funcEnc_nan {x : Nat} (v : Nat) (h : fp32.decode x = .nan) : funcEnc v x = (0x7FC00000, 0) := by
  rw [funcEnc, tanhFn, sigmoidFn, if_pos h, if_pos h, funcBase_nan v h, ite_self, ite_self]

/-- The functions other than TANH and SIGMOID are one step. -/
theorem funcEnc_base {v : Nat} (hv : v < 0x18) (x : Nat) : funcEnc v x = funcBase v x := by
  rw [funcEnc, if_neg (by omega), if_neg (by omega)]

/-- A function delivers these results, each with its flags, at −∞, −0, +0 and +∞. -/
def Specials (v : Nat) (negInf negZero posZero posInf : Nat × Nat) : Prop :=
  funcEnc v 0xFF800000 = negInf ∧ funcEnc v 0x80000000 = negZero ∧ funcEnc v 0 = posZero ∧ funcEnc v 0x7F800000 = posInf

theorem specials_rcp : Specials 0x10 (0x80000000, 0) (0xFF800000, 2) (0x7F800000, 2) (0, 0) :=
  ⟨funcBase_rcp_inf decode_negInf, funcBase_rcp_zero decode_negZero, funcBase_rcp_zero decode_posZero, funcBase_rcp_inf decode_posInf⟩

theorem specials_sqrt : Specials 0x11 (0x7FC00000, 1) (0x80000000, 0) (0, 0) (0x7F800000, 0) :=
  ⟨funcBase_sqrt_inf decode_negInf, funcBase_sqrt_zero decode_negZero, funcBase_sqrt_zero decode_posZero, funcBase_sqrt_inf decode_posInf⟩

theorem specials_rsqrt : Specials 0x12 (0x7FC00000, 1) (0xFF800000, 2) (0x7F800000, 2) (0, 0) :=
  ⟨funcBase_rsqrt_inf decode_negInf, funcBase_rsqrt_zero decode_negZero, funcBase_rsqrt_zero decode_posZero, funcBase_rsqrt_inf decode_posInf⟩

theorem specials_exp : Specials 0x13 (0, 0) (0x3F800000, 0) (0x3F800000, 0) (0x7F800000, 0) :=
  ⟨funcBase_exp_inf decode_negInf, funcBase_exp_zero decode_negZero, funcBase_exp_zero decode_posZero, funcBase_exp_inf decode_posInf⟩

theorem specials_exp2 : Specials 0x14 (0, 0) (0x3F800000, 0) (0x3F800000, 0) (0x7F800000, 0) :=
  ⟨funcBase_exp2_inf decode_negInf, funcBase_exp2_zero decode_negZero, funcBase_exp2_zero decode_posZero, funcBase_exp2_inf decode_posInf⟩

theorem specials_expm1 : Specials 0x15 (0xBF800000, 0) (0x80000000, 0) (0, 0) (0x7F800000, 0) :=
  ⟨funcBase_expm1_inf decode_negInf, funcBase_expm1_zero decode_negZero, funcBase_expm1_zero decode_posZero, funcBase_expm1_inf decode_posInf⟩

theorem specials_log (two : Bool) : Specials (logVop two) (0x7FC00000, 1) (0xFF800000, 2) (0xFF800000, 2) (0x7F800000, 0) := by
  have step (x : Nat) : funcEnc (logVop two) x = funcBase (logVop two) x := funcEnc_base (by cases two <;> decide) x
  rw [Specials, step, step, step, step]
  exact ⟨funcBase_log_inf two decode_negInf, funcBase_log_zero two decode_negZero, funcBase_log_zero two decode_posZero, funcBase_log_inf two decode_posInf⟩

theorem specials_tanh : Specials 0x18 (0xBF800000, 0) (0x80000000, 0) (0, 0) (0x3F800000, 0) := by
  have tanh (x : Nat) : funcEnc 0x18 x = (tanhFn x, 0) := rfl
  rw [Specials, tanh, tanh, tanh, tanh, tanhFn_inf (x := 0xFF800000) (by decide) (by decide), tanhFn_zero (x := 0x80000000) (by decide) (by decide),
    tanhFn_zero (x := 0) (by decide) (by decide), tanhFn_inf (x := 0x7F800000) (by decide) (by decide)]
  exact ⟨rfl, rfl, rfl, rfl⟩

theorem specials_sigmoid : Specials 0x19 (0, 0) (0x3F000000, 0) (0x3F000000, 0) (0x3F800000, 0) := by
  have sigmoid (x : Nat) : funcEnc 0x19 x = (sigmoidFn x, 0) := rfl
  rw [Specials, sigmoid, sigmoid, sigmoid, sigmoid, sigmoidFn_negInf, sigmoidFn_zero (x := 0x80000000) (by decide) (by decide),
    sigmoidFn_zero (x := 0) (by decide) (by decide), sigmoidFn_posInf]
  exact ⟨rfl, rfl, rfl, rfl⟩

/-- Settles O17: the rows of the table, one for each function, from the function's value on the class of the operand; TANH and SIGMOID by their steps. -/
theorem functionSpecialCases : Obligations.FunctionSpecialCases := by
  unfold Obligations.FunctionSpecialCases
  refine ⟨?nan, ?rows, ?one, ?negative⟩
  case nan =>
    intro v _ x h
    exact funcEnc_nan v h
  case rows =>
    simp only [List.forall_mem_cons]
    exact ⟨specials_rcp, specials_sqrt, specials_rsqrt, specials_exp, specials_exp2, specials_expm1, specials_log false, specials_log true,
      specials_tanh, specials_sigmoid, List.forall_mem_nil _⟩
  case one =>
    have one (two : Bool) : funcBase (logVop two) 0x3F800000 = (0, 0) := by
      rw [funcBase_log_pos two decode_one (by decide), logFn_one]
    simp only [List.forall_mem_cons]
    exact ⟨one false, one true, List.forall_mem_nil _⟩
  case negative =>
    intro v hv x m e hx hm
    have base : v < 0x18 := by
      simp only [List.mem_cons, List.not_mem_nil, or_false] at hv
      omega
    rw [funcEnc_base base, funcBase_negative hv hx hm]

end Sys2Proof.Machine
end

section
/-! PROOFS. Sync counters: when a wait is met, and what a rebase leaves (R157, R164 to R166). -/

namespace Sys2Proof.Machine

/-! ### The wait (R157) -/

/-- The wait through the distance of the counter beyond the value, modulo 2^24. -/
theorem waitMet_iff_distance (c : BitVec 48) {v : Nat} (hv : v < 2 ^ 24) :
    waitMet c v = true ↔ (c.toNat % 2 ^ 24 + 2 ^ 24 - v) % 2 ^ 24 < 2 ^ 23 := by
  rw [waitMet, decide_eq_true_iff, Nat.mod_eq_of_lt hv]

/-- Settles O60: both forms say that the distance of the counter beyond the value lies below 2^23. -/
theorem waitIsModulo : Obligations.WaitIsModulo := by
  intro c v hv
  have low : c.toNat % 2 ^ 24 < 2 ^ 24 := Nat.mod_lt _ (by decide)
  rw [waitMet_iff_distance c hv]
  generalize c.toNat % 2 ^ 24 = k at low ⊢
  refine ⟨by omega, ?beyond, ?met⟩
  case beyond =>
    intro h
    exact ⟨(k + 2 ^ 24 - v) % 2 ^ 24, by omega, by omega⟩
  case met =>
    rintro ⟨d, hd, hk⟩
    omega

/-! ### A rebase on a tile (R165) -/

section
variable (x : Tile) (e : MapEntry) (fill slot p : Nat)

theorem Tile.rebase_counter : (x.rebase e fill slot).counter p =
    if e.ctrBase ≤ p ∧ p < e.ctrBase + e.ctrSize then
      (if x.sat.getLsbD p then BitVec.ofNat 48 (fill % 2 ^ 24) else BitVec.ofNat 48 ((x.counter p).toNat % 2 ^ 24))
    else x.counter p := by
  obtain ⟨value, -, -⟩ := rebase_fold fill (rangeFrom e.ctrBase e.ctrSize) (rangeFrom_nodup _ _) x p
  simp only [mem_rangeFrom] at value
  exact value

theorem Tile.rebase_sat : (x.rebase e fill slot).sat.getLsbD p =
    if e.ctrBase ≤ p ∧ p < e.ctrBase + e.ctrSize then false else x.sat.getLsbD p := by
  obtain ⟨-, flag, -⟩ := rebase_fold fill (rangeFrom e.ctrBase e.ctrSize) (rangeFrom_nodup _ _) x p
  simp only [mem_rangeFrom] at flag
  exact flag

/-- A rebase touches the counters, their flags and the rebase fields of a tile alone. -/
theorem Tile.rebase_rest :
    { x.rebase e fill slot with ctr := x.ctr, sat := x.sat, rebaseSlot := x.rebaseSlot, rebaseDone := x.rebaseDone, rebaseDefer := x.rebaseDefer } = x := by
  obtain ⟨-, -, rest⟩ := rebase_fold fill (rangeFrom e.ctrBase e.ctrSize) (rangeFrom_nodup _ _) x 0
  exact congrArg (fun y : Tile => { y with rebaseSlot := x.rebaseSlot, rebaseDone := x.rebaseDone, rebaseDefer := x.rebaseDefer }) rest

end

/-! ### REBASE_APPLY (R166) -/

/-- The partition after a rebase has been carried out: its tiles are rebased, and the request is gone. -/
def rebased (n : Nat) (c : Ctx) (fill : Nat) (s : State) : State :=
  (forAll c.tiles (fun t s => s.modTile t (·.rebase c.entry fill c.slot)) s).setCtx n { c with rebase := none }

theorem exec_rebaseApply {s : State} {n : CtxId} {c : Ctx} {fill : Nat} (hc : s.ctx n = some c) (hf : c.rebase = some fill)
    (hq : s.quiescent n c = true) : exec (.rebaseApply n) s = .next (rebased n c fill s) := by
  have kept : (forAll c.tiles (fun t s => s.modTile t (·.rebase c.entry fill c.slot)) s).ctx n = some c := by
    rw [forAll_modTile_rest c.tiles (fun _ => _) s]
    exact hc
  change execRebaseApply n s = _
  simp only [execRebaseApply, hc, hf, hq, if_true, State.modCtx_of_some _ kept, rebased]

section
variable (n : Nat) (c : Ctx) (fill : Nat) (s : State)

theorem rebased_tile_of_mem {t : Nat} (ht : t ∈ c.tiles) (hn : c.tiles.Nodup) :
    (rebased n c fill s).tile t = (s.tile t).rebase c.entry fill c.slot :=
  (forAll_modTile_nodup c.tiles hn _ s t).trans (if_pos ht)

theorem rebased_tile_of_not_mem {t : Nat} (ht : t ∉ c.tiles) : (rebased n c fill s).tile t = s.tile t :=
  forAll_modTile_out c.tiles _ s t ht

theorem rebased_ctx_self : (rebased n c fill s).ctx n = some { c with rebase := none } := State.setCtx_self _ n _

theorem rebased_rest : rebased n c fill s = { s with tiles := (rebased n c fill s).tiles, ctxs := (rebased n c fill s).ctxs } := by
  unfold rebased
  rw [forAll_modTile_rest c.tiles (fun _ => _) s]
  rfl

theorem rebased_ctx_ne {m : Nat} (hm : m ≠ n) : (rebased n c fill s).ctx m = s.ctx m := by
  rw [rebased, State.setCtx_ne _ n m _ hm, forAll_modTile_rest c.tiles (fun _ => _) s]
  rfl

end

/-- Settles O7: the rebase runs over the counters of the window, each of which it meets once, and over the tiles of the partition. -/
theorem rebaseKeepsCountersModulo : Obligations.RebaseKeepsCountersModulo := by
  unfold Obligations.RebaseKeepsCountersModulo
  refine ⟨?apply, ?tile⟩
  case apply =>
    intro s n c fill hc hf hq
    exact ⟨_, exec_rebaseApply hc hf hq, fun t ht => rebased_tile_of_not_mem n c fill s ht, rebased_ctx_self n c fill s,
      fun m hm => rebased_ctx_ne n c fill s hm, rebased_rest n c fill s, fun t ht hn => rebased_tile_of_mem n c fill s ht hn⟩
  case tile =>
    intro x e fill slot p y inside
    have value : y.counter p = _ := x.rebase_counter e fill slot p
    have flag : y.sat.getLsbD p = _ := x.rebase_sat e fill slot p
    refine ⟨?unsaturated, ?saturated, ?cleared, ?outside, rfl, rfl, x.rebase_rest e fill slot⟩
    case unsaturated =>
      intro hp hs
      rw [value, if_pos hp, hs, if_neg Bool.false_ne_true]
    case saturated =>
      intro hp hs
      rw [value, if_pos hp, if_pos hs]
    case cleared =>
      intro hp
      rw [flag, if_pos hp]
    case outside =>
      intro hp
      exact ⟨by rw [value, if_neg hp], by rw [flag, if_neg hp]⟩

end Sys2Proof.Machine
end

section
/-! PROOFS. The commands of the submission rings whose checks are passed (R166, R256, R270, R271, R276, R286 to R294). -/

namespace Sys2Proof.Machine

/-! ### Taking a command (R287) -/

/-- The command `c` of ring `r` is the one of that opcode in turn, and `u` is the state with it taken. -/
def Takes (s : State) (r op : Nat) (c : List Byte) (u : State) : Prop := ∀ f, withCommand r op s f = f c u

/-- The ring next in turn, its command of a defined opcode and no reserved byte set: the command is taken. -/
theorem takes_of_nextRing {s : State} {r op : Nat} (hn : s.nextRing = some r) (hr : cmdReserved (s.ringCmd r) = false)
    (ho : cmdOpcode (s.ringCmd r) = op) (hd : 1 ≤ op ∧ op ≤ 11) : Takes s r op (s.ringCmd r) (tookCommand r s) := by
  intro f
  have defined : (decide (op = 0) || decide (11 < op)) = false := by
    simp only [Bool.or_eq_false_iff, decide_eq_false_iff_not]
    omega
  simp [withCommand, hn, hr, ho, defined]

/-- Touching the stacks of a range changes nothing but stacks. -/
theorem touchRange_rest (a n : Nat) (s : State) : touchRange a n s = { s with hbmStacks := (touchRange a n s).hbmStacks } := by
  unfold touchRange forAll
  induction s.stacksOf a n generalizing s with
  | nil => rfl
  | cons k ks ih => exact ih (touchStack k s)

section
variable {s u : State} {r : RingId} {op : Nat} {c : List Byte}

/-- The dispatcher's tables reading clean, the command is taken as any other (R409). -/
theorem Takes.withTables_clean (ht : Takes s r op c u) (f : List Byte → State → State) : withTables ⟨r, .clean⟩ op s f = f c u := ht _

/-! ### CREATE_CONTEXT and DESTROY_CONTEXT (R276, R293) -/

theorem exec_createContext {sigOk : Bool} (ht : Takes s r 1 c u)
    (hp : createRefusal u (bytesAt c 8 8) (u.hbmRead (bytesAt c 8 8) 128) sigOk = none) :
    let d := u.hbmRead (bytesAt c 8 8) 128
    let n := createCtx (bytesAt c 8 8) d
    let i := recordImage d
    let k := withImage u (recordCtx d) (u.hbmRead i 256) (u.imageBody i) sigOk
    u.mapWaits k = false →
    exec (.createContext ⟨r, .clean⟩ sigOk) s = .next (schedule (complete r c n 0xFF 0 (loadContext n (u.imageBody i)
      ((touchRange (bytesAt c 8 8) 128 (touchRange i (256 + (u.imageBody i).length) u)).setCtx n
        { k with st := .pending, loggedAt := u.ctxCycles k })))) := by
  intro d n i k hw
  change execCreateContext ⟨r, .clean⟩ sigOk s = _
  rw [execCreateContext, ht.withTables_clean]
  dsimp only
  rw [hp]
  exact congrArg Host.Outcome.next (if_neg (Bool.eq_false_iff.mp hw))

theorem exec_destroyContext {k : Ctx} (ht : Takes s r 2 c u) (hk : u.ctx (cmdCtx c) = some k) (hq : u.statues = false) (hd : k.destroy = none)
    (hm : k.mapRetry = none) (hp : u.taskPending (cmdCtx c) = false) (hi : k.task = none) (hb : ∀ p ∈ u.buckets, p.2.ctx ≠ cmdCtx c) :
    exec (.destroyContext r) s = .next ((stopStreams (cmdCtx c) k.tiles u).modCtx (cmdCtx c)
      (fun k => { k with destroy := some { ring := r, tag := BitVec.ofNat 32 (bytesAt c 4 4), step := 2 } })) := by
  have no_bucket : u.buckets.any (fun p => p.2.ctx = cmdCtx c) = false := by simpa using hb
  change execDestroyContext r s = _
  rw [execDestroyContext, ht]
  simp [hk, hq, hd, hm, hp, hi, no_bucket]

/-! ### Graphs (R287 to R291) -/

theorem exec_submitGraph {g : Nat} (ht : Takes s r 3 c u) (hg : u.freeGraph = some g) :
    let a := bytesAt c 8 8
    let n := bytesAt c 16 4
    let raw := (List.range n).map (fun i => u.hbmRead (a + 32 * i) 32)
    pickCode ([(n = 0 || 65536 < n, 0x02), (a % 64 ≠ 0, 0x03), (false, 0x07)] ++ hbmChecks u a (32 * n)) = none →
    pickCode (raw.zipIdx.flatMap (fun p => taskChecks u n p.2 p.1) ++ [(depsWrong (raw.map (taskOf u)), 0x02)]) = none →
    exec (.submitGraph ⟨r, .clean⟩) s = .next (schedule (complete r c 0xFF g 0 { touchRange a (32 * n) u with
      graphs := sset u.graphs g { st := .running, order := u.graphOrder, tasks := raw.map (taskOf u) }
      graphOrder := u.graphOrder + 1 })) := by
  intro a n raw hrange htasks
  change execSubmitGraph ⟨r, .clean⟩ s = _
  rw [execSubmitGraph, ht.withTables_clean]
  dsimp only
  rw [hg, Option.isNone_some, hrange, htasks, touchRange_rest]

/-- A command on a graph in flight that nothing forbids. -/
theorem graphCommand_of_takes {bad : Graph → Bool} (ht : Takes s r op c u) (hg : cmdCtx c ≤ 15) (hf : (u.graph (cmdCtx c)).inFlight = true)
    (hb : bad (u.graph (cmdCtx c)) = false) (f : Graph → Graph) :
    graphCommand r op s bad f = schedule (accept r c (u.modGraph (cmdCtx c) f)) := by
  rw [graphCommand, ht]
  dsimp only
  rw [if_neg (Nat.not_lt.mpr hg), hf, hb]
  rfl

/-! ### REBASE (R166) -/

/-- At a quiescent boundary the rebase is carried out at once, else each tile and the context note it. -/
theorem exec_rebase {k : Ctx} (ht : Takes s r 7 c u) (hk : u.ctx (cmdCtx c) = some k) (hs : k.st ≠ .stopped) (hm : k.mapRetry = none) :
    exec (.rebase r) s = .next (accept r c (
      if u.quiescent (cmdCtx c) k then forAll k.tiles (fun t s => s.modTile t (·.rebase k.entry (bytesAt c 12 3) k.slot)) u
      else forAll k.tiles (fun t s => s.modTile t (fun x => { x with rebaseSlot := k.slot, rebaseDone := false, rebaseDefer := true }))
        (u.modCtx (cmdCtx c) (fun k => { k with rebase := some (bytesAt c 12 3) })))) := by
  change execRebase r s = _
  rw [execRebase, ht]
  simp [hk, hs, hm]

/-! ### Buckets (R256, R294) -/

/-- A range that lies in HBM and on no fenced stack passes the dispatcher's checks (R177, R419). -/
theorem hbmChecks_pass {a n : Nat} (hb : a + n ≤ hbmBytes) (hf : (u.stacksOf a n).any u.stackFenced = false) : ∀ p ∈ hbmChecks u a n, p.1 = false := by
  simp only [hbmChecks, List.forall_mem_cons]
  exact ⟨decide_eq_false (Nat.not_lt.mpr hb), hf, List.forall_mem_nil _⟩

/-- The bucket that the bytes of a DEFINE_BUCKET name, before its descriptor is read (R256). -/
def namedBucket (c : List Byte) : Bucket :=
  { ctx := bytesAt c 10 1, base := bytesAt c 16 8, records := bytesAt c 24 4, descAddr := bytesAt c 32 8, checkEvery := bytesAt c 40 4
    partner := bytesAt c 44 2, partnerCtx := bytesAt c 46 1, partnerPort := bytesAt c 47 1 }

/-- The checks of DEFINE_BUCKET before the ranges of the records (R256, R268). -/
def bucketChecks (u : State) (n : Nat) (b : Bucket) : List (Bool × Nat) :=
  [ (decide (1023 < n) || decide (63 < b.ctx) || decide (1023 < b.partner) || (decide (63 < b.partnerCtx) && b.partnerCtx ≠ 0xFF) || decide (15 < b.partnerPort), 0x06)
  , ((u.bucket n).isSome || (u.ctx b.ctx).isNone || (u.ctx b.ctx).any (fun q => q.st = .stopped || q.mapRetry.isSome || q.destroy.isSome), 0x07)
  , (decide (b.records < 4096) || decide (262144 < b.records), 0x02)
  , (b.base % 256 ≠ 0 || b.descAddr % 64 ≠ 0, 0x03) ] ++ hbmChecks u b.descAddr 64

theorem exec_defineBucket {q : Ctx} (ht : Takes s r 8 c u) :
    let b := namedBucket c
    let d := BitVec.ofNat 512 (leNat (u.hbmRead b.descAddr 64))
    u.ctx b.ctx = some q → pickCode (bucketChecks u (cmdBucket c) b) = none →
    pickCode ((!inAperture q b.descAddr 64, 0x06) :: rangeChecks u (cmdBucket c) q ((b.base, b.bytes) :: workRanges d b.records)) = none →
    exec (.defineBucket ⟨r, .clean⟩) s = .next (accept r c ((touchRange b.descAddr 64 u).setBucket (cmdBucket c) { b with desc := d })) := by
  intro b d hq hchecks hranges
  change execDefineBucket ⟨r, .clean⟩ s = _
  rw [execDefineBucket, ht.withTables_clean]
  simp only [b, d, namedBucket, bucketChecks] at hq hchecks hranges
  dsimp only
  rw [hchecks, hq]
  dsimp only
  rw [hranges]
  rfl

theorem exec_removeBucket {b : Bucket} (ht : Takes s r 9 c u) (hb : u.bucket (cmdBucket c) = some b) :
    exec (.removeBucket r) s = .next (accept r c { u with
      buckets := sdel u.buckets (cmdBucket c)
      hbmStacks := u.hbmStacks.map (fun p => (p.1, { p.2 with staged := p.2.staged.filter (fun q => q.bucket ≠ cmdBucket c) })) }) := by
  change execRemoveBucket r s = _
  rw [execRemoveBucket, ht]
  dsimp only
  rw [hb]

/-! ### Holds of a model (R270, R271) -/

theorem exec_releaseHold (ht : Takes s r 10 c u) (hm : cmdCtx c ≤ 63) :
    let v : State := { u with
      holds := u.holds.filter (· ≠ cmdCtx c), holdsDue := u.holdsDue.filter (· ≠ cmdCtx c)
      ctxs := u.ctxs.map (fun p => if p.2.model = cmdCtx c then (p.1, { p.2 with held := false }) else p) }
    exec (.releaseHold r) s = .next (schedule (forAll (u.buckets.map (·.1)) nextRound (accept r c v))) := by
  change execReleaseHold r s = _
  rw [execReleaseHold, ht]
  exact congrArg Host.Outcome.next (if_neg (Nat.not_lt.mpr hm))

/-- The CRCs of the records of bucket `b` from `first` on that lie on stack `k`, written without gaps from `a` on (R271, log entry 34). -/
def locateCrcs (b : Bucket) (k first count a : Nat) (u : State) : State :=
  forAll ((rangeFrom first count).filter (fun i => recordStack u b i = k)).zipIdx
    (fun p s => s.hbmWrite (a + 8 * p.2) (natLe 8 (crc64 (s.hbmRead (b.base + 256 * p.1) 256)).toNat)) (touchStack k (touchRange a (8 * count) u))

/-- The checks of LOCATE (R271). -/
def locateChecks (u : State) (b : Bucket) (k first count a : Nat) : List (Bool × Nat) :=
  [ (count = 0 || decide (65536 < count), 0x02)
  , (decide (31 < k), 0x06)
  , (decide (b.records < first + count), 0x05)
  , (!(u.ctx b.ctx).any (fun q => u.ctxs.any (fun p => p.2.model = q.model && inAperture p.2 a (8 * count))), 0x06)
  , (a % 8 ≠ 0, 0x03)
  , (!u.modelHeld b, 0x07)
  , (u.stackFenced k || (u.stacksOf a (8 * count)).any u.stackFenced, 0x09) ]

theorem exec_locate {b : Bucket} (ht : Takes s r 11 c u) (hb : u.bucket (cmdBucket c) = some b) :
    let k := bytesAt c 10 1
    let first := bytesAt c 12 4
    let count := bytesAt c 16 4
    let a := bytesAt c 24 8
    pickCode (locateChecks u b k first count a) = none → exec (.locate r) s = .next (accept r c (locateCrcs b k first count a u)) := by
  intro k first count a hchecks
  change execLocate r s = _
  rw [execLocate, ht]
  simp only [locateChecks] at hchecks
  dsimp only
  rw [hb]
  dsimp only
  rw [hchecks]
  rfl

end

/-- Settles O28: each of the eleven commands, taken from its ring with its checks passed. -/
theorem ringCommandsComplete : Obligations.RingCommandsComplete := by
  unfold Obligations.RingCommandsComplete
  intro s r hn hr c u
  have takes {op : Nat} (ho : cmdOpcode c = op) (hd : 1 ≤ op ∧ op ≤ 11) : Takes s r op c u := takes_of_nextRing hn hr ho hd
  refine ⟨?create, ?destroy, ?submit, ?graphs, ?rebase, ?define, ?remove, ?release, ?locate⟩
  case create =>
    intro ho sigOk hp d n i k hw
    exact exec_createContext (takes ho (by decide)) hp hw
  case destroy =>
    intro ho k hk hq hd hm hp hi hb
    exact exec_destroyContext (takes ho (by decide)) hk hq hd hm hp hi hb
  case submit =>
    intro ho g hg a n raw hrange htasks
    exact exec_submitGraph (takes ho (by decide)) hg hrange htasks
  case graphs =>
    intro hg hf
    refine ⟨fun ho => ?cancel, fun ho => ?pause, fun ho hc => ?resume⟩
    case cancel => exact congrArg Host.Outcome.next (graphCommand_of_takes (takes ho (by decide)) hg hf rfl _)
    case pause => exact congrArg Host.Outcome.next (graphCommand_of_takes (takes ho (by decide)) hg hf rfl _)
    case resume => exact congrArg Host.Outcome.next (graphCommand_of_takes (takes ho (by decide)) hg hf hc _)
  case rebase =>
    intro ho k hk hs hm
    have rebase := exec_rebase (takes ho (by decide)) hk hs hm
    refine ⟨fun hq => ?_, fun hq => ?_⟩
    · rw [rebase, if_pos hq]
    · rw [rebase, if_neg (Bool.eq_false_iff.mp hq)]
  case define =>
    intro ho q hq hs hm hd b d hb hctx hp hpc hpp hfree hlo hhi ha hda hin hf hranges
    have pass : pickCode (bucketChecks u (cmdBucket c) b) = none := by
      apply pickCode_none
      simp only [bucketChecks, List.forall_mem_append, List.forall_mem_cons]
      refine ⟨⟨?numbers, ?live, ?records, ?aligned, List.forall_mem_nil _⟩, hbmChecks_pass hin hf⟩
      case numbers =>
        have partner_ctx (h : 63 < b.partnerCtx) : b.partnerCtx = 0xFF := hpc.resolve_left (Nat.not_le.mpr h)
        simpa [hb, hctx, hp, hpp] using partner_ctx
      case live => simp [hfree, b, hq, hs, hm, hd]
      case records => simp [hlo, hhi]
      case aligned => simp [ha, hda]
    exact exec_defineBucket (takes ho (by decide)) hq pass hranges
  case remove =>
    intro ho b hb
    exact exec_removeBucket (takes ho (by decide)) hb
  case release =>
    intro ho hm
    exact exec_releaseHold (takes ho (by decide)) hm
  case locate =>
    intro ho b q hb hq k first count a hk hsome hmany hrecs hown ha hh hf hfs
    have pass : pickCode (locateChecks u b k first count a) = none := by
      apply pickCode_none
      simp only [locateChecks, List.forall_mem_cons]
      refine ⟨?size, ?stack, ?records, ?buffer, ?aligned, ?held, ?fences, List.forall_mem_nil _⟩
      case size => simp [hsome, hmany]
      case stack => simp [hk]
      case records => simp [hrecs]
      case buffer => simpa [hq] using hown
      case aligned => simp [ha]
      case held => simp [hh]
      case fences => rw [hf, hfs, Bool.or_false]
    exact exec_locate (takes ho (by decide)) hb pass

end Sys2Proof.Machine
end

section
/-! PROOFS. The rest of a context's life: its waiting map load, its removal and its stop (R153, R292, R293, R413). -/

namespace Sys2Proof.Machine

section
variable {s : State} {n : CtxId} {c : Ctx}

/-! ### A map load that waited (R153) -/

theorem exec_contextMapRetry {r : Nat} {tag : Word} {i : Nat} (hc : s.ctx n = some c) (hm : c.mapRetry = some (r, tag, i)) (hw : s.mapWaits c = false) :
    exec (.contextMapRetry n) s = .next (schedule (complete r (natLe 4 1 ++ natLe 4 tag.toNat) n 0xFF 0
      (loadContext n (s.imageBody i) (s.setCtx n { c with mapRetry := none })))) := by
  change execContextMapRetry n s = _
  rw [execContextMapRetry, hc]
  dsimp only
  rw [hm]
  exact congrArg Host.Outcome.next (if_neg (Bool.eq_false_iff.mp hw))

/-! ### Removal (R293) -/

theorem exec_destroyContextComplete {d : Destroy} (hc : s.ctx n = some c) (hd : c.destroy = some d) (hdr : s.drained n c = true) :
    let s1 := (unbind c false s).modCtx n (fun c => { c with destroy := some { d with step := 3 } })
    s1.recvWaits c = false →
    exec (.destroyContextComplete n) s = .next (schedule (complete d.ring (natLe 4 2 ++ natLe 4 d.tag.toNat ++ natLe 1 n) 0xFF 0xFF 0
      (removeContext n c (unbind c true s1)))) := by
  intro s1 hr
  change execDestroyContextComplete n s = _
  rw [execDestroyContextComplete, hc]
  dsimp only
  rw [hd]
  dsimp only
  rw [hdr, Bool.not_true, if_neg Bool.false_ne_true]
  exact congrArg Host.Outcome.next (if_neg (Bool.eq_false_iff.mp hr))

end

section
variable (n : Nat) (c : Ctx) (s : State)

theorem removeContext_ctx_self : (removeContext n c s).ctx n = none := (sget_sdel _ n n).trans (if_pos rfl)

/-- Taking a context off a tile a second time changes nothing: whether its operations are outstanding does not rest on the map (R153). -/
theorem Tile.unmap_unmap (x : Tile) : (x.unmap n c).unmap n c = x.unmap n c := by
  have same_posts : (x.unmap n c).postsFor n = x.postsFor n := rfl
  rw [Tile.unmap, same_posts]
  by_cases hp : x.postsFor n = true
  · simp [Tile.unmap, hp, sset_sset]
  · simp [Tile.unmap, hp, sdel]

theorem removeContext_tile (t : Nat) : (removeContext n c s).tile t = if t ∈ c.tiles then (s.tile t).unmap n c else s.tile t :=
  forAll_modTile_tile c.tiles (·.unmap n c) (Tile.unmap_unmap n c) s t

theorem removeContext_unmaps {t : Nat} (ht : t ∈ c.tiles) : ∀ p ∈ ((removeContext n c s).tile t).map, p.2.ctx ≠ n := by
  intro p hp
  rw [removeContext_tile, if_pos ht] at hp
  exact of_decide_eq_true (List.mem_filter.mp hp).2

theorem removeContext_frees_caches : ∀ p ∈ (removeContext n c s).clusters, p.2.owner ≠ some n := by
  intro p hp
  obtain ⟨q, -, rfl⟩ := List.mem_map.mp hp
  split
  · simp
  · assumption

end

/-! ### The stop of a marked context (R413) -/

theorem exec_contextStop {s : State} {n : CtxId} {c : Ctx} {fc : Nat} (hc : s.ctx n = some c) (hm : c.stop = some fc) (hs : c.st ≠ .stopped) :
    let s1 := forAll c.tiles (fun t s => s.modTile t (·.stopCtx n)) s
    let s2 := stopStreams n c.tiles (s1.setCtx n { c with st := .stopped, task := none, ran := 0, bound := .none, sysTicks := none, stop := none })
    exec (.contextStop n) s = .next (schedule (parkSettle (forAll (s.graphsOf n) (fun q s => failGraph q.1 q.2 n fc s) s2))) := by
  intro s1 s2
  change execContextStop n s = _
  rw [execContextStop, hc]
  dsimp only
  rw [hm]
  dsimp only
  rw [stopContext, hc]
  exact congrArg Host.Outcome.next (if_neg hs)

/-- Settles O30: the load, the removal and the stop; a removal takes the context off every tile and cache that could name it. -/
theorem contextLifeCompletes : Obligations.ContextLifeCompletes := by
  unfold Obligations.ContextLifeCompletes
  refine ⟨?load, ?removal, ?stop⟩
  case load =>
    intro s n c r tag i hc hm hw
    exact exec_contextMapRetry hc hm hw
  case removal =>
    intro s n c d hc hd hdr s1 hr v
    exact ⟨exec_destroyContextComplete hc hd hdr hr, removeContext_ctx_self n c _, fun t ht => removeContext_unmaps n c _ ht,
      removeContext_frees_caches n c _⟩
  case stop =>
    intro s n c fc hc hm hs
    exact exec_contextStop hc hm hs

end Sys2Proof.Machine
end

section
/-! PROOFS. What the HBM controllers leave: an accepted write, and a stack that answers again (R175, R177, R192). -/

namespace Sys2Proof.Machine

/-! ### Writes (R175, R192) -/

/-- A write that is done touches tiles alone: its requester, and the flits counted there. -/
theorem writeDone_rest (org : HbmOrg) (ok : Bool) (s : State) : writeDone org ok s = { s with tiles := (writeDone org ok s).tiles } := by
  cases org with
  | dma t id =>
    simp only [writeDone]
    cases (s.tile t).op id <;> rfl
  | kput t id =>
    simp only [writeDone]
    cases (s.tile t).ksl.find? (fun k => k.id = id) <;> rfl

/-- A write whose merges all read clean is merged whole. -/
theorem mergeFailure_clean (a n : Nat) : mergeFailure a n .clean = none := rfl

/-- Nothing keeps the oldest write of a stack out: it leaves the list of writes, its stack is touched, and its bytes land. -/
theorem exec_hbmWriteAccept_lands {s : State} {k : StackId} {w : HbmWrite}
    (hw : s.hbmQ.find? (fun w => s.stackOf w.addr = k && s.writeInOrder w) = some w) (hf : s.stackFenced k = false) (ha : (s.stack k).st = .active)
    (hb : s.bucketHeld w.addr w.bytes.length = false) :
    exec (.hbmWriteAccept k .clean) s =
      .next (writeDone w.org true ((touchStack k { s with hbmQ := s.hbmQ.erase w }).hbmWrite w.addr w.bytes)) := by
  change execHbmWriteAccept k .clean s = _
  rw [execHbmWriteAccept, hw]
  dsimp only
  rw [if_neg (by simp [hf]), if_neg (by simp [ha]), if_neg (by simp [hb]), mergeFailure_clean]
  dsimp only
  rw [if_neg (by simp)]

/-! ### Stacks (R177) -/

theorem exec_stackWakeComplete {s : State} {k : StackId} (hw : (s.stack k).st = .waking) (hf : s.stackFenced k = false) :
    exec (.stackWakeComplete k) s = .next (s.setStack k { s.stack k with st := .active }) :=
  congrArg Host.Outcome.next (if_pos (by simp [hw, hf]))

/-- Settles O11: the bytes land as one write of HBM, and telling the requester touches tiles alone. -/
theorem hbmWriteLands : Obligations.HbmWriteLands := by
  unfold Obligations.HbmWriteLands
  refine ⟨?write, ?wake⟩
  case write =>
    intro s k w hw hf ha hb
    refine ⟨_, exec_hbmWriteAccept_lands hw hf ha hb, ?_⟩
    rw [writeDone_rest]
    exact ⟨memRead_memWrite s.hbm w.addr w.bytes, fun a h => memByte_memWrite_out w.bytes s.hbm w.addr a h, rfl, rfl⟩
  case wake =>
    intro s k hw hf
    exact exec_stackWakeComplete hw hf

end Sys2Proof.Machine
end

section
/-! PROOFS. The starts of the DMA commands (R169 to R187). -/

namespace Sys2Proof.Machine

/-- The rows that move data, with their OP (R169). -/
def movingCommands (t : TileId) : List (Instr × Nat) :=
  [(.copyIn ⟨t, .clean⟩, 1), (.copyOut ⟨t, .clean⟩, 2), (.streamIn ⟨t, .clean⟩, 3), (.gather ⟨t, .clean⟩, 4), (.unload ⟨t, .clean⟩, 5)]

section
variable {s : State} {t : TileId} {q : QEntry} {e : MapEntry} {c : Ctx} (hq : (s.tile t).dmaQ.head? = some q) (hg : headEntry s t (some q) = .go q e c)
include hq hg

/-- The row of the head's OP acts on the head. -/
theorem withDmaHead_of_go {op : Nat} (ho : dOp q.cmd = op) (f : QEntry → MapEntry → Ctx → State → State) :
    withDmaHead ⟨t, .clean⟩ op s f = f q e c s := by
  rw [withDmaHead]
  dsimp only
  rw [hq, if_pos (by simp [ho]), hg, tileEcc_clean]

/-! ### Commands of LENGTH 0 (R170) -/

/-- With LENGTH 0 a command that moves data is a no-op, whatever the rest of it names. -/
theorem exec_movingCommand_of_length_zero {p : Instr × Nat} (hp : p ∈ movingCommands t) (ho : dOp q.cmd = p.2) (hl : dLength q.cmd = 0) :
    exec p.1 s = .next (noopDma t q s) := by
  simp only [movingCommands, List.mem_cons, List.not_mem_nil, or_false] at hp
  rcases hp with rfl | rfl | rfl | rfl | rfl
  all_goals exact congrArg Host.Outcome.next ((withDmaHead_of_go hq hg ho _).trans (if_pos hl))

/-! ### COPY_IN and COPY_OUT (R169, R173, R176) -/

theorem exec_copyIn_starts {st : StoreId} {i : Nat} (ho : dOp q.cmd = 1) (hl : 0 < dLength q.cmd)
    (hr : e.resolve (dStore q.cmd) (dLength q.cmd) = .ok (st, i)) (hh : hbmRefusal s q.ctx c q.cmd = none) (hu : (s.tile t).rangeUse st < 8) :
    exec (.copyIn ⟨t, .clean⟩) s = .next (pumpOp t (s.tile t).nextOp ((startOp t q { physBase := i, store := st } s).modTile t
      (·.addRange (s.tile t).nextOp st i (dLength q.cmd)))) := by
  change execCopyIn ⟨t, .clean⟩ s = _
  simp only [execCopyIn, withDmaHead_of_go hq hg ho, hl.ne', hr, hh, Nat.not_le.mpr hu, if_false]

theorem exec_copyOut_starts {st : StoreId} {i : Nat} (ho : dOp q.cmd = 2) (hl : 0 < dLength q.cmd)
    (hr : e.resolve (dStore q.cmd) (dLength q.cmd) = .ok (st, i)) (hh : hbmRefusal s q.ctx c q.cmd = none) :
    exec (.copyOut ⟨t, .clean⟩) s = .next (pumpOp t (s.tile t).nextOp (startOp t q { physBase := i, store := st } s)) := by
  change execCopyOut ⟨t, .clean⟩ s = _
  simp only [execCopyOut, withDmaHead_of_go hq hg ho, hl.ne', hr, hh, if_false]

/-! ### Attachments to carousels (R181, R184, R186, R187) -/

theorem exec_streamIn_starts {y : Carousel} (ho : dOp q.cmd = 3) (hl : 0 < dLength q.cmd)
    (hy : (s.tile t).car (carKey q.slot (dCar q.cmd)) = some y) (hs : dLength q.cmd % y.slotBillets = 0)
    (hw : dTranspose q.cmd = true → y.slotBillets % blockBillets (dWidth q.cmd) = 0) (hh : hbmRefusal s q.ctx c q.cmd = none) (hp : y.prod = none)
    (hu : (s.tile t).streams.length < 8) :
    exec (.streamIn ⟨t, .clean⟩) s = .next (pumpOp t (s.tile t).nextOp ((startOp t q {} s).modTile t
      (·.modCar (carKey q.slot (dCar q.cmd)) (fun y => { y with prod := some (s.tile t).nextOp })))) := by
  have whole : (decide (dLength q.cmd % y.slotBillets ≠ 0) || (dTranspose q.cmd && decide (y.slotBillets % blockBillets (dWidth q.cmd) ≠ 0))) = false := by
    simpa [hs] using hw
  have attaches : (y.prod.isSome || decide (8 ≤ (s.tile t).streams.length)) = false := by simp [hp, hu]
  change execStreamIn ⟨t, .clean⟩ s = _
  simp only [execStreamIn, withDmaHead_of_go hq hg ho, hl.ne', hy, whole, hh, attaches, Bool.false_eq_true, if_false]

theorem exec_gather_starts {y iy : Carousel} (ho : dOp q.cmd = 4) (hl : 0 < dLength q.cmd)
    (hy : (s.tile t).car (carKey q.slot (dCar q.cmd)) = some y) (hi : (s.tile t).car (carKey q.slot (dIndexCar q.cmd)) = some iy)
    (hr : gatherRows y q.cmd ≠ 0) (hc : iy.cons = none) (hp : y.prod = none) (hh : hbmRefusal s q.ctx c q.cmd = none)
    (hu : (s.tile t).streams.length < 8) (hone : ∀ o ∈ (s.tile t).streams, dOp o.cmd ≠ 4) :
    exec (.gather ⟨t, .clean⟩) s = .next (pumpOp t (s.tile t).nextOp
      ((startOp t q {} s).modTile t (fun x =>
        (x.modCar (carKey q.slot (dCar q.cmd)) (fun y => { y with prod := some (s.tile t).nextOp })).modCar
          (carKey q.slot (dIndexCar q.cmd)) (fun y => { y with cons := some (.dma (s.tile t).nextOp) })))) := by
  have no_gather : (s.tile t).streams.any (fun o => dOp o.cmd = 4) = false := by simpa using hone
  have attaches : (y.prod.isSome || iy.cons.isSome || decide (8 ≤ (s.tile t).streams.length) || (s.tile t).streams.any (fun o => dOp o.cmd = 4)) = false := by
    simp [hp, hc, hu, no_gather]
  have not_matrix : iy.cons ≠ some .matrix := by simp [hc]
  change execGather ⟨t, .clean⟩ s = _
  simp only [execGather, withDmaHead_of_go hq hg ho, hl.ne', hy, hi, hr, not_matrix, hh, attaches, Bool.false_eq_true, if_false]

theorem exec_unload_starts {st : StoreId} {i : Nat} {y : Carousel} (ho : dOp q.cmd = 5) (hl : 0 < dLength q.cmd)
    (hr : e.resolve (dStore q.cmd) (dLength q.cmd) = .ok (st, i)) (hy : (s.tile t).car (carKey q.slot (dCar q.cmd)) = some y) (hc : y.cons = none)
    (hu : (s.tile t).rangeUse st < 8) :
    exec (.unload ⟨t, .clean⟩) s = .next (pumpOp t (s.tile t).nextOp ((startOp t q { physBase := i, store := st } s).modTile t (fun x =>
      (x.modCar (carKey q.slot (dCar q.cmd)) (fun y => { y with cons := some (.dma (s.tile t).nextOp) })).addRange
        (s.tile t).nextOp st i (dLength q.cmd)))) := by
  have attaches : (y.cons.isSome || decide (8 ≤ (s.tile t).rangeUse st)) = false := by simp [hc, hu]
  have not_matrix : y.cons ≠ some .matrix := by simp [hc]
  change execUnload ⟨t, .clean⟩ s = _
  simp only [execUnload, withDmaHead_of_go hq hg ho, hl.ne', hr, hy, not_matrix, attaches, Bool.false_eq_true, if_false]

/-! ### CAROUSEL_SET and STREAM_STOP (R178, R181, R183) -/

theorem exec_carouselSet_defines {p : StoreId × Nat} (ho : dOp q.cmd = 6) (hr : e.resolve (dStore q.cmd) (dSlots q.cmd * dSlotBillets q.cmd) = .ok p)
    (hf : ∀ y, (s.tile t).car (carKey q.slot (dCar q.cmd)) = some y → y.prod = none ∧ y.cons = none) :
    exec (.carouselSet ⟨t, .clean⟩) s = .next ((startOp t q {} s).modTile t (fun x =>
      ({ x with reqs := x.reqs.map (fun r => if r.car = some (carKey q.slot (dCar q.cmd)) then { r with car := none } else r) } : Tile).setCar (carKey q.slot (dCar q.cmd))
      { base := dStore q.cmd, slots := dSlots q.cmd, slotBillets := dSlotBillets q.cmd })) := by
  have detached : ((s.tile t).car (carKey q.slot (dCar q.cmd))).any (fun y => y.prod.isSome || y.cons.isSome) = false := by
    cases hy : (s.tile t).car (carKey q.slot (dCar q.cmd)) with
    | none => simp
    | some y => simp [hf y hy]
  change execCarouselSet ⟨t, .clean⟩ s = _
  simp only [execCarouselSet, withDmaHead_of_go hq hg ho, hr, detached, Bool.false_eq_true, if_false]

theorem exec_streamStop {y : Carousel} (ho : dOp q.cmd = 7) (hy : (s.tile t).car (carKey q.slot (dCar q.cmd)) = some y) :
    exec (.streamStop ⟨t, .clean⟩) s =
      .next (y.prod.elim (noopDma t q s) (fun id => startOp t q {} (stopStream t id s))) := by
  change execStreamStop ⟨t, .clean⟩ s = _
  simp only [execStreamStop, withDmaHead_of_go hq hg ho, hy]
  cases y.prod <;> rfl

end

/-- Settles O10: the head command that is of the row's OP starts as its own rule says; with LENGTH 0 all that move data end at once. -/
theorem dmaCommandsStart : Obligations.DmaCommandsStart := by
  unfold Obligations.DmaCommandsStart
  refine ⟨?empty, ?copyIn, ?copyOut, ?streamIn, ?gather, ?unload, ?carouselSet, ?streamStop⟩
  case empty =>
    intro s t q e c hq hg hl
    have noop (i : Instr) (op : Nat) (hi : (i, op) ∈ movingCommands t) (ho : dOp q.cmd = op) : exec i s = .next (noopDma t q s) :=
      exec_movingCommand_of_length_zero hq hg hi ho hl
    exact ⟨noop _ 1 (by simp [movingCommands]), noop _ 2 (by simp [movingCommands]), noop _ 3 (by simp [movingCommands]),
      noop _ 4 (by simp [movingCommands]), noop _ 5 (by simp [movingCommands])⟩
  case copyIn =>
    intro s t q e c st i hq hg ho hl hr hh hu
    exact exec_copyIn_starts hq hg ho hl hr hh hu
  case copyOut =>
    intro s t q e c st i hq hg ho hl hr hh
    exact exec_copyOut_starts hq hg ho hl hr hh
  case streamIn =>
    intro s t q e c y hq hg ho hl hy hs hw hh hp hu
    exact exec_streamIn_starts hq hg ho hl hy hs hw hh hp hu
  case gather =>
    intro s t q e c y iy hq hg ho hl hy hi hr hc hp hh hu hone
    exact exec_gather_starts hq hg ho hl hy hi hr hc hp hh hu hone
  case unload =>
    intro s t q e c st i y hq hg ho hl hr hy hc hu
    exact exec_unload_starts hq hg ho hl hr hy hc hu
  case carouselSet =>
    intro s t q e c p hq hg ho hr hf
    exact exec_carouselSet_defines hq hg ho hr hf
  case streamStop =>
    intro s t q e c y hq hg ho hy
    rw [exec_streamStop hq hg ho hy]
    refine ⟨fun hp => ?_, fun id hp => ?_⟩
    · rw [hp, Option.elim_none]
    · rw [hp, Option.elim_some]

end Sys2Proof.Machine
end

section
/-! PROOFS. What data read from HBM leaves, and the ends of DMA commands and kindling requests (R174, R175, R189 to R192). -/

namespace Sys2Proof.Machine

/-! ### Data for a DMA command (R174, R186) -/

/-- The state once the controllers have answered a read of the `n` bytes from `a` for a command: its stacks are touched, the bytes and the flits are counted, and what a stoker round wrote is captured. -/
def hbmAnswered (t : Nat) (o : DmaOp) (a n : Nat) (s : State) : State :=
  captureStoked t o a (s.hbmRead a n) (countVn t o.ctx .p (linesOf a n) ((touchRange a n s).modTile t (·.count (some o.slot) 0x22 n)))

/-- The stacks of a range that no round holds answer a read with its bytes. -/
theorem hbmData_of_readable {s : State} {o : DmaOp} {a n : Nat} (hr : s.replays o.ctx = false) (hf : s.hbmFenced a n = false)
    (ha : s.hbmReadable a n = true) (t id kind : Nat) :
    hbmData t id kind o a n .clean s = (some (s.hbmRead a n), hbmAnswered t o a n s) := by
  simp only [hbmData, hr, hf, ha, hbmFetch, Bool.not_true, Bool.false_eq_true, if_false]
  rfl

section
variable {s : State} {t : TileId} {id : Nat} {o : DmaOp} (ho : (s.tile t).op id = some o)
include ho

section
variable {m : MapEntry} (hh : o.host = false) (hx : o.faulted = false) (hm : (s.tile t).entry o.slot = some m) (hr : s.replays o.ctx = false)
include hh hx

theorem exec_hbmReadDataReturn_op (k : Nat) (ecc : HbmEcc) : exec (.hbmReadDataReturn t id k ecc) s = .next (opReturn t id k ecc o s) := by
  change execHbmReadDataReturn t id k ecc s = _
  simp only [execHbmReadDataReturn, ho, hh, hx, Bool.or_self, Bool.false_eq_true, if_false]

include hr

theorem exec_hbmReadDataReturn_copyIn {k a n : Nat} (hop : dOp o.cmd = 1) (hk : k < o.asked) (hg : k ∉ o.got)
    (hu : unitRange o k = (a, n)) (hf : s.hbmFenced a n = false) (ha : s.hbmReadable a n = true) :
    let u := unitData t 0 o (s.hbmRead a n) (hbmAnswered t o a n s)
    exec (.hbmReadDataReturn t id k .clean) s = .next (pumpOp t id (copyInData t o k u.1 u.2)) := by
  have awaited : (decide (o.asked ≤ k) || o.got.contains k) = false := by simp [hk, hg]
  rw [exec_hbmReadDataReturn_op ho hh hx]
  simp only [opReturn, hop, awaited, hu, hbmData_of_readable hr hf ha, Bool.false_eq_true, if_false]

include hm

theorem exec_hbmReadDataReturn_streamIn {y : Carousel} {a n : Nat} (k : Nat) (hop : dOp o.cmd = 3)
    (hy : (s.tile t).car (carKey o.slot (dCar o.cmd)) = some y) (hk : o.issued + o.unit ≤ o.unit * o.asked)
    (hu : unitRange o (o.issued / o.unit) = (a, n)) (hf : s.hbmFenced a n = false) (ha : s.hbmReadable a n = true) :
    let u := unitData t 1 o (s.hbmRead a n) (hbmAnswered t o a n s)
    exec (.hbmReadDataReturn t id k .clean) s = .next (pumpOp t id (streamData t o y m u.1 u.2)) := by
  have ring : (s.tile t).opCar o = some (carKey o.slot (dCar o.cmd), y) := by rw [Tile.opCar, hy]; rfl
  rw [exec_hbmReadDataReturn_op ho hh hx]
  simp only [opReturn, hop, hm, ring, Nat.not_lt.mpr hk, hu, hbmData_of_readable hr hf ha, if_false]

theorem exec_hbmReadDataReturn_gather {i : Word} {r : List Word} {a n : Nat} (k : Nat) (hop : dOp o.cmd = 4) (hi : o.idxs = i :: r)
    (hk : 0 < o.asked) (hp : i ≠ padIndex) (hw : gatherRow o.cmd i = (a, n)) (hf : s.hbmFenced a n = false) (ha : s.hbmReadable a n = true) :
    exec (.hbmReadDataReturn t id k .clean) s = .next (pumpOp t id ((noteArrival t 1 o (s.hbmRead a n) (hbmAnswered t o a n s)).modTile t
      (·.modOp id (fun o => { o with idxs := r, asked := o.asked - 1, buf := o.buf ++ s.hbmRead a n })))) := by
  have awaited : (decide (o.asked = 0) || decide (i = padIndex)) = false := by simp [hk.ne', hp]
  rw [exec_hbmReadDataReturn_op ho hh hx]
  simp only [opReturn, hop, hm, hi, awaited, hw, hbmData_of_readable hr hf ha, Bool.false_eq_true, if_false]

end

/-! ### The end of a DMA command (R175, R326) -/

theorem exec_dmaCommandComplete_op (hh : o.host = false) (hc : o.complete (s.tileCycle t) (s.tile t) = true) :
    exec (.dmaCommandComplete t id) s = .next (pumpTile t (finishOp t o s)) := by
  change execDmaCommandComplete t id s = _
  simp only [execDmaCommandComplete, ho, hh, hc, Bool.false_eq_true, if_false, if_true]

/-- A request of the host ends with its answer on the bulk channel. -/
theorem exec_dmaCommandComplete_host (hh : o.host = true) (hw : o.written = o.issued) (hl : o.lost = false) :
    exec (.dmaCommandComplete t id) s = .next { s.setTile t ((s.tile t).dropOp id) with
      bulk := { tag := o.tag, code := o.code, bytes := if o.wr || o.faulted then [] else o.buf.take o.len } } := by
  change execDmaCommandComplete t id s = _
  simp only [execDmaCommandComplete, ho, hh, hw, hl, decide_true, Bool.true_or, Bool.false_eq_true, if_false, if_true]
  rfl

end

/-! ### Kindling (R189 to R192) -/

theorem exec_hbmReadDataReturn_kget {s : State} {t : TileId} {id : Nat} {j : KSlot} (k : Nat) (ho : (s.tile t).op id = none)
    (hj : (s.tile t).ksl.find? (fun j => j.id = id) = some j) (hp : j.put = false) (hs : j.sent = false)
    (hold : (s.tile t).kOlder j (fun j => if j.put then j.done else j.sent) = false) (hr : s.replays j.ctx = false)
    (hf : s.hbmFenced j.addr j.len = false) (ha : s.hbmReadable j.addr j.len = true) :
    exec (.hbmReadDataReturn t id k .clean) s = .next (queueMerge t j.store j.bil j.off (s.hbmRead j.addr j.len) (.kget j.id)
      ((captureArrival j.ctx t 2 (s.hbmRead j.addr j.len) (countVn t j.ctx .p (ceilDiv j.len 64) (touchRange j.addr j.len s))).modTile t
        (·.modK j.id (fun k => { k with sent := true })))) := by
  have turn : (j.put || j.sent || (s.tile t).kOlder j (fun j => if j.put then j.done else j.sent)) = false := by simp only [hp, hs, hold, Bool.or_self]
  change execHbmReadDataReturn t id k .clean s = _
  rw [execHbmReadDataReturn, ho]
  dsimp only
  rw [hj]
  simp only [kgetReturn, turn, hr, hf, ha, hbmFetch, Bool.not_true, Bool.false_eq_true, if_false]

/-- The slot that a kindling request of context `e.ctx` takes, which its core issues with address `a` and parameters `p` for billet `i` of a store. -/
def kindlingSlot (x : Tile) (put : Bool) (slot : Nat) (e : MapEntry) (a : Nat) (p : BitVec 64) (st : StoreId) (i : Nat) : KSlot :=
  { id := x.nextOp, put := put, ctx := e.ctx, slot := slot, addr := a, len := kLength p, store := st, bil := i, off := kOffset p, addId := kAddId p
    addVal := kAddVal p }

/-- The tile once its core has issued a kindling request. -/
def Tile.kindled (x : Tile) (r : KSlot) : Tile := { x with stall := .none, coreSt := 1, ksl := x.ksl ++ [r], nextOp := x.nextOp + 1 }

/-- A request that passes its checks, of bytes that no fence shuts, takes a free slot; a KGET sets out to HBM, a KPUT reads its billet. -/
theorem kindle_of_free {s : State} {t slot : Nat} {e : MapEntry} {c : Ctx} {rs rt a : Nat} {p : BitVec 64} {st : StoreId} {i : Nat}
    (hi : coreIssue s t (fun st => st = .none || st = .kindling) = some (slot, e)) (hc : s.ctx e.ctx = some c)
    (ha : ((s.tile t).reg slot rs).toNat = a) (hp : (s.tile t).reg slot rt = p) (hk : kindlingCheck s e c a p = none) (hl : kLength p ≠ 0)
    (hf : s.hbmFenced a (kLength p) = false) (hu : (s.tile t).ksl.length < 16) (hr : e.resolve (kBillet p) 1 = .ok (st, i)) (put : Bool) :
    let r := kindlingSlot (s.tile t) put slot e a p st i
    let u := s.modTile t (·.kindled r)
    kindle t put rs rt s = if put then postRead t .dma st i (.kput r.id) u else kRequest t r 1 u := by
  simp only [kindle, hi, hc, ha, hp, hk, hl, hf, hr, Nat.not_le.mpr hu, Bool.and_false, Bool.false_eq_true, if_false]
  rfl

theorem exec_kindlingComplete {s : State} {t : TileId} {id : Nat} {k : KSlot} (hk : (s.tile t).ksl.find? (fun j => j.id = id) = some k)
    (hd : k.done = true) (hf : k.failed = false) (hold : (s.tile t).kOlder k (fun _ => false) = false) :
    exec (.kindlingComplete t id) s = .next (postAdd t k.ctx k.slot k.addId k.addVal
      (s.setTile t { s.tile t with ksl := (s.tile t).ksl.filter (fun j => j.id ≠ id) })) := by
  change execKindlingComplete t id s = _
  simp only [execKindlingComplete, hk, hd, hf, hold, Bool.not_true, Bool.or_self, Bool.false_eq_true, if_false]
  rfl

/-- Settles O12: the answer of the controllers goes to the command or request that asked, whichever it is; what is complete leaves. -/
theorem hbmDataReturns : Obligations.HbmDataReturns := by
  unfold Obligations.HbmDataReturns
  refine ⟨?copyIn, ?streamIn, ?gather, ?kget, ?complete, ?kindle, ?kindled⟩
  case copyIn =>
    intro s t id k o m ho hh hx hm hr a n got u hop hk hg hf ha
    exact exec_hbmReadDataReturn_copyIn ho hh hx hr hop hk hg rfl hf ha
  case streamIn =>
    intro s t id k o m y ho hh hx hm hr hop hy j a n got u hk hf ha
    exact exec_hbmReadDataReturn_streamIn ho hh hx hm hr k hop hy hk rfl hf ha
  case gather =>
    intro s t id k o m i r ho hh hx hm hr hop hi hk hp n a got hf ha
    exact exec_hbmReadDataReturn_gather ho hh hx hm hr k hop hi hk hp rfl hf ha
  case kget =>
    intro s t id k j ho hj hp hs hold hr hf ha
    exact exec_hbmReadDataReturn_kget k ho hj hp hs hold hr hf ha
  case complete =>
    intro s t id o ho
    exact ⟨exec_dmaCommandComplete_op ho, exec_dmaCommandComplete_host ho⟩
  case kindle =>
    intro s t slot e c rs rt st i hi hc a p hk hl hf hu hr r u
    have issued := kindle_of_free hi hc rfl rfl hk hl hf hu hr
    exact ⟨congrArg Host.Outcome.next (issued false), congrArg Host.Outcome.next (issued true)⟩
  case kindled =>
    intro s t id k hk hd hf hold
    exact exec_kindlingComplete hk hd hf hold

end Sys2Proof.Machine
end

section
/-! PROOFS. What the events of the power manager leave (R177, R306, R308, R310 to R312, R317, R445, R446). -/

namespace Sys2Proof.Machine

/-! ### Samples (R310, R317) -/

theorem exec_railSample_of_awake {s : State} (w : Nat) (h : s.awake = true) : Completes (.railSample w) s fun u =>
    u = { s with us := s.us + 1, hbmStacks := u.hbmStacks, pwr := u.pwr } ∧ u.pwr.samples = (w :: s.pwr.samples).take 1000 ∧
    u.pwr.cur.energy = satAdd 64 s.pwr.cur.energy w :=
  ⟨_, congrArg Host.Outcome.next (if_neg (by simp [h])), rfl, rfl, rfl⟩

/-! ### Transitions (R306, R308, R431) -/

theorem exec_regionTransitionComplete_dark {s : State} {r : RegionId} (h : (s.region r).st = .transition) (hg : (s.region r).goal = .dark) :
    exec (.regionTransitionComplete r) s = .next (forAll (regionTiles r) (fun t s => s.modTile t Tile.goneDark)
      (s.setRegion r { s.region r with st := .dark, request := 0, duty := 0, step := 3 })) := by
  change execRegionTransitionComplete r s = _
  simp only [execRegionTransitionComplete, h, hg, ne_eq, not_true_eq_false, if_true, if_false]

theorem exec_regionTransitionComplete_lit {s : State} {r : RegionId} (h : (s.region r).st = .transition) (hg : (s.region r).goal = .lit) :
    exec (.regionTransitionComplete r) s = .next (schedule (forAll ((regionTiles r).filter (fun t => shas s.tiles t)) (fun t s => s.modTile t Tile.wakeBanks)
      (s.setRegion r { s.region r with st := .lit, request := 0 }))) := by
  change execRegionTransitionComplete r s = _
  simp only [execRegionTransitionComplete, h, hg, ne_eq, not_true_eq_false, if_false]
  rfl

theorem exec_regionTransitionComplete_banked {s : State} {r : RegionId} (h : (s.region r).st = .transition) (hg : (s.region r).goal = .banked) :
    exec (.regionTransitionComplete r) s = .next (s.setRegion r { s.region r with st := .banked, request := 0 }) := by
  change execRegionTransitionComplete r s = _
  simp only [execRegionTransitionComplete, h, hg, ne_eq, not_true_eq_false, if_false]
  rfl

theorem exec_stackIdleBank_of_idle {s : State} {k : StackId} (hb : s.envEntry.bank = true) (ha : (s.stack k).st = .active)
    (hi : (s.stack k).lastReq + 100 ≤ s.us) :
    exec (.stackIdleBank k) s = .next { s.setStack k { s.stack k with st := .banked } with
      pwr := { s.pwr with cur := { s.pwr.cur with banks := satAdd 16 s.pwr.cur.banks 1 } } } :=
  congrArg Host.Outcome.next (if_pos (by simp [hb, ha, hi]))

/-! ### The scrub (R177) -/

/-- A line that the scrub finds clean moves its progress on; the last one ends a pass. -/
theorem exec_patrolScrub_clean {s : State} {k : StackId} {l : Nat} (ht : (s.stack k).st ≠ .untrained) (hl : l < stackLines) :
    exec (.patrolScrub k l .clean) s = .next (s.setStack k { s.stack k with
      progress := if l + 1 = stackLines then 0 else (l + 1) <<< 16 / stackLines
      passes := if l + 1 = stackLines then satAdd 16 (s.stack k).passes 1 else (s.stack k).passes }) :=
  congrArg Host.Outcome.next (if_neg (by simp [ht, hl]))

/-! ### Temperatures (R445, R446) -/

/-- A reading by itself leaves the pins. -/
theorem takeTemp_pins (p : Nat × Nat) (s : State) : (takeTemp p s).pins = s.pins := by
  unfold takeTemp
  dsimp only
  split_ifs <;> rfl

/-- A reading of a stack at 95 degrees or above asserts the alert, and trips nothing. -/
theorem takeTemps_of_hot_stack {k c : Nat} (hk : k < 32) (hc : stackHotAt ≤ c % 2048) (s : State) :
    takeTemps [(64 + k, c)] s = thermAlert (takeTemp (64 + k, c) s) := by
  have not_region : ¬ 64 + k < 24 := by omega
  have not_die : ¬ 64 + k < 36 := by omega
  have of_stack : 64 + k < 96 := by omega
  simp [takeTemps, forAll, not_region, not_die, of_stack, hc]

theorem exec_stackHot_alerts {s : State} {k : StackId} {c : Nat} (h : s.awake = true) (hc : stackHotAt ≤ c % 2048) :
    exec (.stackHot k c) s = .next { takeTemp (64 + k, c) s with pins := { s.pins with thermAlert := true } } := by
  change execStackHot k c s = _
  rw [execStackHot, if_pos h, takeTemps_of_hot_stack k.isLt hc, thermAlert, takeTemp_pins]

/-- A reading of a junction, of a region or of a base die, at 105 degrees or above trips unless a trip has latched; that of a region asserts the alert too. -/
theorem takeTemps_of_trip {j c : Nat} {s : State} (hj : j < 24 ∨ 32 ≤ j ∧ j < 36) (hl : s.pins.thermLatch = false) (hc : tripAt ≤ c % 2048) :
    takeTemps [(j, c)] s = tripAll (if j < 24 then thermAlert (takeTemp (j, c) s) else takeTemp (j, c) s) := by
  have hot : hotAt ≤ c % 2048 := Nat.le_trans (by decide) hc
  have not_stack : ¬ 64 ≤ j := by omega
  have unlatched : (if j < 24 then thermAlert (takeTemp (j, c) s) else takeTemp (j, c) s).pins.thermLatch = false := by
    split_ifs <;> simp [thermAlert, takeTemp_pins, hl]
  simp [takeTemps, forAll, hot, hc, hj, not_stack, unlatched]

theorem markStop_pins (c fc : Nat) (s : State) : (markStop c fc s).pins = s.pins := by
  rw [markStop, State.modCtx_rest]

theorem forAll_markStop_pins (cs : List Nat) (fc : Nat) (s : State) : (forAll cs (fun c s => markStop c fc s) s).pins = s.pins := by
  unfold forAll
  induction cs generalizing s with
  | nil => rfl
  | cons c cs ih => exact (ih _).trans (markStop_pins c fc s)

/-- A trip asserts the alert and latches it. -/
theorem tripAll_pins (s : State) : (tripAll s).pins.thermAlert = true ∧ (tripAll s).pins.thermLatch = true := by
  simp only [tripAll, forAll_markStop_pins, and_self]

/-- Sensor of a junction: of a region, or of a base die (log entry 8). -/
def junctionSensor (j : Nat) : Nat := if j < 24 then j else j + 8

theorem junctionSensor_range {j : Nat} (h : j < 28) : junctionSensor j < 24 ∨ 32 ≤ junctionSensor j ∧ junctionSensor j < 36 := by
  unfold junctionSensor
  split_ifs <;> omega

theorem exec_thermalTrip_latches {s : State} {j : JunctionId} {c : Nat} (h : s.awake = true) (hl : s.pins.thermLatch = false) (hc : tripAt ≤ c % 2048) :
    Completes (.thermalTrip j c) s fun u => u.pins.thermAlert = true ∧ u.pins.thermLatch = true := by
  refine ⟨takeTemps [(junctionSensor j, c)] s, congrArg Host.Outcome.next (if_pos h), ?_⟩
  rw [takeTemps_of_trip (junctionSensor_range j.isLt) hl hc]
  exact tripAll_pins _

theorem exec_thermAlertRelease_of_cool {s : State} (hr : ∀ r < 24, (s.region r).temp < coolAt) (hd : ∀ d < 4, (s.die d).temp < coolAt)
    (hk : ∀ k < 32, (s.stack k).temp < stackCoolAt) (hl : s.pins.thermLatch = false) :
    exec .thermAlertRelease s = .next { s with pins := { s.pins with thermAlert := false } } :=
  congrArg Host.Outcome.next (if_pos (by simpa [hl, and_assoc] using ⟨hr, hd, hk⟩))

/-- Settles O36: one equation for each event of the power manager; of a trip what it does to the pins. -/
theorem powerEventsComplete : Obligations.PowerEventsComplete := by
  unfold Obligations.PowerEventsComplete
  refine ⟨?sample, ?evaluation, ?transition, ?idle, ?scrub, ?hot, ?trip, ?release⟩
  case sample =>
    intro s w h
    exact exec_railSample_of_awake w h
  case evaluation =>
    intro s ts hd hp s0 d l s1 s2 s3
    have due : ¬ (decide (s.us < s.pwr.evalUs + 10) || !s.powerRuns) = true := by simp [hp, hd]
    exact ⟨fun h => congrArg Host.Outcome.next ((if_neg due).trans (if_neg (Nat.not_lt.mpr h))),
      fun h => congrArg Host.Outcome.next ((if_neg due).trans (if_pos h))⟩
  case transition =>
    intro s r h g
    exact ⟨exec_regionTransitionComplete_dark h, exec_regionTransitionComplete_lit h, exec_regionTransitionComplete_banked h⟩
  case idle =>
    intro s k hb ha hi
    exact exec_stackIdleBank_of_idle hb ha hi
  case scrub =>
    intro s k l ht hl q
    rw [exec_patrolScrub_clean ht hl]
    refine ⟨fun h => ?_, fun h => ?_⟩
    · rw [if_neg h.ne, if_neg h.ne]
    · rw [if_pos h, if_pos h]
  case hot =>
    intro s k c h hc
    exact exec_stackHot_alerts h hc
  case trip =>
    intro s j c h hl hc
    exact exec_thermalTrip_latches h hl hc
  case release =>
    intro s hr hd hk hl
    exact exec_thermAlertRelease_of_cool hr hd hk hl

end Sys2Proof.Machine
end

section
/-! PROOFS. The state after reset (R206, R297, R335, R341, R361, R424, R427, R430). -/

namespace Sys2Proof.Machine

/-- Settles O56: every field has its default, and a unit that no list holds reads as the default of its kind. -/
theorem resetValues : Obligations.ResetValues := by
  unfold Obligations.ResetValues
  refine ⟨rfl, rfl, rfl, rfl, rfl, rfl, rfl, rfl, rfl, fun k => ?page, rfl, fun l => ?link, fun r => ?region, rfl, rfl, rfl, rfl, fun t => ?tile, rfl, ?memories⟩
  case page => exact ⟨rfl, rfl, rfl⟩
  case link => exact ⟨rfl, rfl, rfl⟩
  case region => rfl
  case tile => rfl
  case memories => exact ⟨Memory.wf_empty, Memory.wf_empty, tilesOk_empty⟩

end Sys2Proof.Machine
end

section
/-! PROOFS. What the release of a superstep boundary changes (R204, R206, R281, R290). -/

namespace Sys2Proof.Machine

/-! ### Changing the tiles that a list of pairs names -/

@[simp] theorem State.setCtx_tile (s : State) (n : Nat) (c : Ctx) (t : Nat) : (s.setCtx n c).tile t = s.tile t := rfl

/-- Changing tiles named by pairs changes nothing but tiles. -/
theorem forAll_modTile_fst_rest (ps : List (Nat × Nat)) (f : Nat × Nat → Tile → Tile) (s : State) :
    forAll ps (fun p s => s.modTile p.1 (f p)) s = { s with tiles := (forAll ps (fun p s => s.modTile p.1 (f p)) s).tiles } := by
  unfold forAll
  induction ps generalizing s with
  | nil => rfl
  | cons p r ih => exact ih _

theorem forAll_modTile_fst_out (ps : List (Nat × Nat)) (f : Nat × Nat → Tile → Tile) (s : State) {t : Nat} (h : t ∉ ps.map Prod.fst) :
    (forAll ps (fun p s => s.modTile p.1 (f p)) s).tile t = s.tile t := by
  unfold forAll
  induction ps generalizing s with
  | nil => rfl
  | cons p r ih =>
    rw [List.map_cons, List.mem_cons, not_or] at h
    rw [List.foldl_cons, ih _ h.2, State.modTile_ne _ _ _ _ h.1]

/-- A tile that a list without repeats names is changed once, as its pair has it. -/
theorem forAll_modTile_fst_in {ps : List (Nat × Nat)} (hn : (ps.map Prod.fst).Nodup) (f : Nat × Nat → Tile → Tile) (s : State) {p : Nat × Nat}
    (h : p ∈ ps) : (forAll ps (fun p s => s.modTile p.1 (f p)) s).tile p.1 = f p (s.tile p.1) := by
  induction ps generalizing s with
  | nil => cases h
  | cons q r ih =>
    obtain ⟨hq, hr⟩ := List.nodup_cons.mp hn
    change (forAll r _ (s.modTile q.1 (f q))).tile p.1 = _
    rcases List.mem_cons.mp h with rfl | hp
    · rw [forAll_modTile_fst_out r f _ hq, State.modTile_self]
    · have other : p.1 ≠ q.1 := fun e => hq (e ▸ List.mem_map_of_mem hp)
      rw [ih hr _ hp, State.modTile_ne _ _ _ _ other]

/-! ### The release -/

/-- What the release makes of a tile of the partition: its core goes on, with the register banks given, and no plan is selected. -/
def Tile.restarted (x : Tile) (banks : Sparse CoreBank) : Tile :=
  { x.setStall .none with
    banks := banks
    exch := { x.exch with phase := 0, holding := none, plan := none, planId := 0xFFFF, entries := 0, next := 0, read := 0, ents := [], ended := false } }

/-- A release restarts the tiles of the partition and writes the context, which counts a superstep that has ended and stands at no barrier. -/
theorem releaseBoundary_of_some {s : State} {n : Nat} {c : Ctx} (hc : s.ctx n = some c) :
    ∃ (banks : Nat × Nat → Tile → Sparse CoreBank) (d : Ctx),
      releaseBoundary n s = (forAll (c.tiles.zip c.tileMap) (fun p s => s.modTile p.1 (fun x => x.restarted (banks p x))) s).setCtx n d ∧
      d.superstep = (c.superstep + b2n c.ended) % 2 ^ 48 ∧ d.ended = false ∧ d.bound = .none ∧ d.barrier = 0 ∧
      d.arrived = [] ∧ d.task = c.task ∧ d.rel0 = c.regions.map (fun r => (r, (s.region r).cycles)) := by
  rw [releaseBoundary, hc]
  exact ⟨_, _, rfl, rfl, rfl, rfl, rfl, rfl, rfl, rfl⟩

/-- Settles O32: the release is one change of each tile of the partition and one write of the context. -/
theorem boundaryReleases : Obligations.BoundaryReleases := by
  unfold Obligations.BoundaryReleases
  intro s n c hc hnodup hlen u
  obtain ⟨banks, d, released, hd⟩ := releaseBoundary_of_some hc
  have keys : (c.tiles.zip c.tileMap).map Prod.fst = c.tiles := List.map_fst_zip hlen.ge
  have rest := forAll_modTile_fst_rest (c.tiles.zip c.tileMap) (fun p x => x.restarted (banks p x)) s
  subst u
  rw [released]
  refine ⟨?package, ⟨d, State.setCtx_self _ _ _, hd⟩, fun k hk => ?contexts, fun t ht => ?outside, fun t ht => ?inside⟩
  case package =>
    rw [rest]
    rfl
  case contexts =>
    rw [State.setCtx_ne _ _ _ _ hk, rest]
    rfl
  case outside =>
    exact forAll_modTile_fst_out _ _ s (by rwa [keys])
  case inside =>
    rw [← keys] at ht hnodup
    obtain ⟨p, hp, rfl⟩ := List.mem_map.mp ht
    rw [State.setCtx_tile, forAll_modTile_fst_in hnodup _ s hp]
    exact ⟨rfl, rfl, rfl, rfl, rfl, rfl, rfl, rfl, rfl, rfl, rfl, rfl, rfl⟩

end Sys2Proof.Machine
end

section
/-! PROOFS. What becomes of a flit: an output port forwards it, and the exchange unit takes it (R194 to R197, R215, R217, R218). -/

namespace Sys2Proof.Machine

/-! ### A flit leaves its router (R194, R196) -/

/-- What a flit that leaves input buffer `i` through a port makes of its tile: it is counted, and the networks that wait lose a cycle. -/
def Tile.sendsOff (x : Tile) (t port i : Nat) (f : Flit) : Tile :=
  let copied := f.parcel.isSome && f.src ≠ t && port ≠ 4
  let y := x.countCtx f.ctx (flitCounter f.vn) (if copied then 2 else 1)
  let y := if f.vn = .s then y.countCtx f.ctx 0x27 ((x.router.heads t port .s).length - 1) else y
  { y with router := ({ (y.router.lose t port f.vn) with rr := sset y.router.rr (bufKey port f.vn) i }).pop i f.vn }

theorem flitLeaves_clean (t port i : Nat) (f : Flit) (s : State) :
    flitLeaves t port i f .clean s = (some (s.setTile t ((s.tile t).sendsOff t port i f)), s.setTile t ((s.tile t).sendsOff t port i f)) := rfl

@[simp] theorem Tile.sendsOff_exch (x : Tile) (t port i : Nat) (f : Flit) : (x.sendsOff t port i f).exch = x.exch := by
  unfold Tile.sendsOff
  dsimp only
  split_ifs <;> rfl

@[simp] theorem Tile.sendsOff_rick (x : Tile) (t port i : Nat) (f : Flit) : (x.sendsOff t port i f).rick = x.rick := by
  unfold Tile.sendsOff
  dsimp only
  split_ifs <;> rfl

/-! ### A flit lands (R195, R217) -/

/-- The tile with a flit that has landed: one of VN-S waits in the delivery buffer, any other at the rick unit. -/
def Tile.absorbed (x : Tile) (f : Flit) : Tile :=
  match f.vn with
  | .s => { x with exch := { x.exch with deliver := x.exch.deliver ++ [f] } }
  | _ => { x with rick := { x.rick with input := x.rick.input ++ [f] } }

theorem absorb_eq (t : Nat) (f : Flit) (s : State) : absorb t f s = s.modTile t (·.absorbed f) := rfl

theorem Tile.absorbed_deliver (x : Tile) {f : Flit} (h : f.vn = .s) : (x.absorbed f).exch.deliver = x.exch.deliver ++ [f] := by
  rw [Tile.absorbed, h]

theorem Tile.absorbed_input (x : Tile) {f : Flit} (h : f.vn ≠ .s) : (x.absorbed f).rick.input = x.rick.input ++ [f] := by
  unfold Tile.absorbed
  split
  · contradiction
  · rfl

/-- The tile with a flit at the end of an input buffer of its router. -/
def Tile.buffers (x : Tile) (port : Nat) (f : Flit) : Tile :=
  { x with router := { x.router with bufs := sset x.router.bufs (bufKey port f.vn) (x.router.buf port f.vn ++ [f]) } }

theorem Tile.buffers_buf (x : Tile) (port : Nat) (f : Flit) : (x.buffers port f).router.buf port f.vn = x.router.buf port f.vn ++ [f] :=
  sgetD_sset_self _ _ _ _

/-! ### FLIT_FORWARD -/

/-- The flit that a port grants goes on, unless it is one that a channel row takes at the local port. -/
theorem exec_flitForward_of_grant {s : State} {t : TileId} {port : Fin 5} {i : Nat} {f : Flit} (hs : s.statues = false)
    (hg : portGrant s t port = some (i, f)) (hl : port.val ≠ 4 ∨ f.loose = false) :
    let s1 := s.setTile t ((s.tile t).sendsOff t port i f)
    exec (.flitForward t port .clean) s = .next (
      if port = 4 then absorb t f s1
      else (if f.parcel.isSome && f.src ≠ t then absorb t f s1 else s1).modTile (neighbour t port) (·.buffers (facing port) f)) := by
  have active : ¬ s.statues = true := by simp [hs]
  have not_taken : (port ≠ 4 || !f.loose) = true := by
    rcases hl with hp | hl
    · exact Bool.or_eq_true_iff.mpr (.inl (decide_eq_true fun h => hp (congrArg Fin.val h)))
    · simp [hl]
  have granted : (portGrant s t port).filter (fun p => port ≠ 4 || !p.2.loose) = some (i, f) := by rw [hg, Option.filter_some, if_pos not_taken]
  change execFlitForward t port .clean s = _
  rw [execFlitForward, if_neg active, granted]
  rfl

theorem exec_flitForward_local {s : State} {t : TileId} {port : Fin 5} {i : Nat} {f : Flit} (hs : s.statues = false)
    (hg : portGrant s t port = some (i, f)) (hp : port.val = 4) (hl : f.loose = false) :
    exec (.flitForward t port .clean) s = .next (s.setTile t (((s.tile t).sendsOff t port i f).absorbed f)) := by
  rw [exec_flitForward_of_grant hs hg (.inr hl), if_pos (Fin.ext hp), absorb_eq, State.setTile_modTile]

theorem exec_flitForward_onward {s : State} {t : TileId} {port : Fin 5} {i : Nat} {f : Flit} (hs : s.statues = false)
    (hg : portGrant s t port = some (i, f)) (hp : port.val ≠ 4) :
    ∃ x, exec (.flitForward t port .clean) s = .next ((s.setTile t x).modTile (neighbour t port) (·.buffers (facing port) f)) := by
  rw [exec_flitForward_of_grant hs hg (.inl hp), if_neg fun h => hp (congrArg Fin.val h)]
  split
  · exact ⟨_, by rw [absorb_eq, State.setTile_modTile]⟩
  · exact ⟨_, rfl⟩

/-! ### FLIT_ARRIVAL (R215) -/

/-- What a receive entry holds of billets that are not whole, with a flit that it takes. -/
def PlanEnt.gathered (e : PlanEnt) (f : Flit) : List (Nat × List Byte) := e.got ++ [(f.idx, f.bytes)]

/-- The flits of the billet of `f` among them. -/
def PlanEnt.billetFlits (e : PlanEnt) (f : Flit) : List (Nat × List Byte) := (e.gathered f).filter (fun p => p.1 / 8 = f.idx / 8)

/-- The bytes of that billet. -/
def PlanEnt.billetBytes (e : PlanEnt) (f : Flit) : List Byte :=
  (List.range 8).flatMap (fun j => (((e.billetFlits f).find? (fun p => p.1 = 8 * (f.idx / 8) + j)).map (·.2)).getD [])

/-- The tile once entry `e` has taken the flit `f` out of the delivery buffer, of which `r` is the rest; the flits of a whole billet leave the entry. -/
def Tile.takesFlit (x : Tile) (e : PlanEnt) (f : Flit) (r : List Flit) : Tile :=
  ({ x with exch := { x.exch with deliver := r, heldArr := false } }).modEnt e.idx (fun q => { q with
    seen := q.seen ++ [f.idx]
    got := if (e.billetFlits f).length = 8 then (e.gathered f).filter (fun p => p.1 / 8 ≠ f.idx / 8) else e.gathered f })

theorem Tile.takesFlit_seen (x : Tile) (e : PlanEnt) (f : Flit) (r : List Flit) :
    (x.takesFlit e f r).exch.ents.map (·.seen) = x.exch.ents.map (fun q => if q.idx = e.idx then q.seen ++ [f.idx] else q.seen) := by
  change (x.exch.ents.map _).map _ = _
  rw [List.map_map]
  exact List.map_congr_left fun q _ => apply_ite PlanEnt.seen _ _ _

/-- The write that a received billet makes at its bank leaves the exchange unit. -/
theorem receiveBillet_exch (t : Nat) (m : MapEntry) (e : PlanEnt) (k : Nat) (bs : List Byte) (s : State) :
    ((receiveBillet t m e k bs s).tile t).exch = (s.tile t).exch := by
  unfold receiveBillet
  split
  · rfl
  · rw [postWrite, State.modTile_self]
    rfl

theorem receiveBillet_onlyTile (t : Nat) (m : MapEntry) (e : PlanEnt) (k : Nat) (bs : List Byte) (s : State) (x : Tile) :
    s.OnlyTile (receiveBillet t m e k bs (s.setTile t x)) t := by
  unfold receiveBillet
  split
  · exact s.setTile_onlyTile t x
  · rw [postWrite, State.setTile_modTile]
    exact s.setTile_onlyTile t _

section
variable {s : State} {t : TileId} {slot : Nat} {m : MapEntry} {c : Ctx}

theorem exec_flitArrival_empty (hx : exchRun s t = some (slot, m, c)) (hd : (s.tile t).exch.deliver = []) :
    exec (.flitArrival t) s = .next (takeCord t s) := by
  change execFlitArrival t s = _
  simp only [execFlitArrival, hx, hd]

theorem exec_flitArrival_held {f : Flit} {r : List Flit} (hx : exchRun s t = some (slot, m, c)) (hd : (s.tile t).exch.deliver = f :: r)
    (hm : matchFlit (s.tile t) c f = none) :
    exec (.flitArrival t) s = .next (takeCord t (s.setTile t { s.tile t with exch := { (s.tile t).exch with heldArr := true } })) := by
  change execFlitArrival t s = _
  simp only [execFlitArrival, hx, hd, hm]

/-- The entry that matches takes the head; with the last flit of a billet that billet is written. -/
theorem exec_flitArrival_taken {f : Flit} {r : List Flit} {e : PlanEnt} (hx : exchRun s t = some (slot, m, c)) (hd : (s.tile t).exch.deliver = f :: r)
    (hm : matchFlit (s.tile t) c f = some e) :
    exec (.flitArrival t) s = .next (
      if (e.billetFlits f).length = 8 then receiveBillet t m e (f.idx / 8) (e.billetBytes f) (s.setTile t ((s.tile t).takesFlit e f r))
      else s.setTile t ((s.tile t).takesFlit e f r)) := by
  change execFlitArrival t s = _
  simp only [execFlitArrival, hx, hd, hm]
  rfl

/-- Whether or not the head completes its billet, it is noted in the entry that takes it, and one tile changes. -/
theorem flitArrival_completes_of_match {f : Flit} {r : List Flit} {e : PlanEnt} (hx : exchRun s t = some (slot, m, c))
    (hd : (s.tile t).exch.deliver = f :: r) (hm : matchFlit (s.tile t) c f = some e) :
    Completes (.flitArrival t) s fun u => s.OnlyTile u t ∧ (u.tile t).exch = ((s.tile t).takesFlit e f r).exch := by
  refine ⟨_, exec_flitArrival_taken hx hd hm, ?_⟩
  split
  · exact ⟨receiveBillet_onlyTile _ _ _ _ _ _ _, by rw [receiveBillet_exch, State.setTile_self]⟩
  · exact ⟨s.setTile_onlyTile t _, by rw [State.setTile_self]⟩

end

/-- Settles O9: a forwarded flit is at the end of the buffer it enters; of the head of the delivery buffer, what the entry that matches it makes of it. -/
theorem flitCommandsComplete : Obligations.FlitCommandsComplete := by
  unfold Obligations.FlitCommandsComplete
  refine ⟨?forward, ?arrival, ?empty⟩
  case forward =>
    intro s t port i f hs hg hl
    by_cases hp : port.val = 4
    · have loose := hl.resolve_left (not_not_intro hp)
      refine ⟨_, exec_flitForward_local hs hg hp loose, rfl, fun k hk _ => State.setTile_ne _ _ _ _ hk, fun h => absurd hp h, fun _ hv => ?_, fun _ hv => ?_⟩
      · rw [State.setTile_self, Tile.absorbed_deliver _ hv, Tile.sendsOff_exch]
      · rw [State.setTile_self, Tile.absorbed_input _ hv, Tile.sendsOff_rick]
    · obtain ⟨x, forwarded⟩ := exec_flitForward_onward hs hg hp
      refine ⟨_, forwarded, rfl, fun k hk hn => ?_, fun _ hn => ?_, fun h => absurd h hp, fun h => absurd h hp⟩
      · rw [State.modTile_ne _ _ _ _ hn, State.setTile_ne _ _ _ _ hk]
      · rw [State.modTile_self, State.setTile_ne _ _ _ _ hn, Tile.buffers_buf]
  case arrival =>
    intro s t slot m c f r hx hd
    refine ⟨fun e hm => ?_, exec_flitArrival_held hx hd⟩
    obtain ⟨u, done, only, exch⟩ := flitArrival_completes_of_match hx hd hm
    exact ⟨u, done, only, by rw [exch]; rfl, by rw [exch]; rfl, by rw [exch, Tile.takesFlit_seen]⟩
  case empty =>
    intro s t slot m c hx hd
    exact exec_flitArrival_empty hx hd

end Sys2Proof.Machine
end

section
/-! PROOFS. What the commands of the exchange unit leave of a plan and its entries (R206 to R216, R415). -/

namespace Sys2Proof.Machine

/-! ### The plan is selected and read (R207, R208, R211) -/

theorem exec_exchSelect_of_valid {s : State} {t : TileId} {slot : Nat} {e : MapEntry} {pos : Nat} (hi : coreIssue s t freeCore = some (slot, e))
    {h : List Byte} (hh : imemBytes (s.tile t) e (16 * pos) 16 = h) (h3 : bytesAt h 3 9 = 0) (h14 : bytesAt h 14 2 = 0) (hid : bytesAt h 12 2 ≠ 0xFFFF)
    (hpos : 0 < bytesAt h 0 2) (hle : bytesAt h 0 2 ≤ 8191) (htable : ∃ c, s.ctx e.ctx = some c ∧ c.table = bytesAt h 2 1)
    (hfit : 16 * (pos + 1 + bytesAt h 0 2) ≤ 1024 * e.imSize) :
    exec (.exchSelect t pos .clean) s = .next (s.setTile t { s.tile t with exch := { (s.tile t).exch with
      plan := some pos, planId := bytesAt h 12 2, entries := bytesAt h 0 2, next := 0, read := 0, ents := [], ended := false, holding := none } }) := by
  obtain ⟨c, hc, ht⟩ := htable
  have header_in : ¬ 1024 * e.imSize < 16 * pos + 16 := by omega
  have valid : pickCode
      [ (bytesAt h 3 9 ≠ 0 || bytesAt h 14 2 ≠ 0 || bytesAt h 12 2 = 0xFFFF, 0x01)
      , (decide (1024 * e.imSize < 16 * (pos + 1 + bytesAt h 0 2)), 0x05)
      , (bytesAt h 0 2 = 0 || 8191 < bytesAt h 0 2 || !((s.ctx e.ctx).any (fun c => c.table = bytesAt h 2 1)), 0x02) ] = none := by
    refine pickCode_none ?_
    simp [h3, h14, hid, hfit, hpos.ne', hle, hc, ht]
  subst hh
  change execExchSelect t pos .clean s = _
  simp only [execExchSelect, hi, if_neg header_in, imemEcc_clean]
  rw [valid]
  rfl

theorem exec_planEntryRead_of_valid {s : State} {t : TileId} {slot : Nat} {e : MapEntry} {c : Ctx} {pos : Nat} {p : PlanEnt}
    (hx : exchCtx s t = some (slot, e, c)) (hplan : (s.tile t).exch.plan = some pos)
    (hp : { idx := (s.tile t).exch.read
            raw := BitVec.ofNat 128 (leNat (imemBytes (s.tile t) e (16 * (pos + 1 + (s.tile t).exch.read)) 16)) } = p)
    (hturn : (s.tile t).planTurn (s.tileCycle t) = true)
    (hvalid : pickCode (entryChecks s t e c (s.tile t).exch.ents.getLast? (s.tile t).exch.entries p) = none) :
    exec (.planEntryRead t .clean) s = .next ((s.modTile t (·.planGrant (s.tileCycle t))).modTile t
      (fun y => { y with exch := { y.exch with read := (s.tile t).exch.read + 1, ents := y.exch.ents ++ [p] } })) := by
  subst hp
  change execPlanEntryRead t .clean s = _
  simp only [execPlanEntryRead, hx, hplan, hturn, Bool.not_true, Bool.false_eq_true, if_false, imemEcc_clean, hvalid]

/-! ### Sends read ahead (R213) -/

theorem exec_sendReadAhead_of_first {s : State} {t : TileId} {n slot : Nat} {m : MapEntry} {c : Ctx} {e : PlanEnt}
    (hx : exchCtx s t = some (slot, m, c)) (he : (s.tile t).ent n = some e) (hphase : (s.tile t).exch.phase = 2) (hsends : e.sends = true)
    (hdone : e.done = false) (hasked : e.asked = 0)
    (hbefore : ∀ f ∈ (s.tile t).exch.ents, f.idx < n → f.sends = true → f.asked = f.count) (hcycle : e.cycle ≤ (s.tile t).exch.offset + 24) :
    exec (.sendReadAhead t n) s = .next (readAhead t n m s) := by
  have before : (s.tile t).exch.ents.all (fun f => n ≤ f.idx || !f.sends || f.asked = f.count) = true := by
    rw [List.all_eq_true]
    intro f hf
    by_cases hlt : f.idx < n
    · cases hs : f.sends with
      | false => simp
      | true => simp [hbefore f hf hlt hs]
    · simp [Nat.not_lt.mp hlt]
  change execSendReadAhead t n s = _
  simp [execSendReadAhead, hx, he, hphase, hsends, hdone, hasked, before, hcycle]

/-! ### An entry falls due (R206, R213, R216, R415) -/

/-- The tile once its next entry has fallen due. -/
def Tile.fallsDue (x : Tile) (e : PlanEnt) : Tile :=
  let y := x.modEnt e.idx (fun e => { e with due := true })
  { y with exch := { y.exch with next := e.idx + 1 } }

/-- An entry that sends is no END. -/
theorem PlanEnt.kind_of_sends {e : PlanEnt} (h : e.sends = true) : e.kind ≠ 7 := by
  intro hk
  simp [PlanEnt.sends, hk] at h

section
variable {s : State} {t : TileId} {slot : Nat} {m : MapEntry} {c : Ctx} {e : PlanEnt}

/-- What becomes of a due entry: the plan ends, the entry completes, its sends go on, or a receive that is not complete holds the plan offset. -/
theorem exec_planEntryDue_of_due (hx : exchCtx s t = some (slot, m, c)) (he : (s.tile t).ent (s.tile t).exch.next = some e)
    (hphase : (s.tile t).exch.phase = 2) (hhold : (s.tile t).exch.holding = none) (hcycle : e.cycle ≤ (s.tile t).exch.offset) :
    let y := (s.tile t).fallsDue e
    exec (.planEntryDue ⟨t, .clean⟩) s = .next (
      if e.kind = 7 then s.setTile t { y with exch := { y.exch with ended := true } }
      else if e.count = 0 then entryDone t slot m.ctx e (s.setTile t y)
      else if e.sends then pumpSends t (s.setTile t y)
      else if e.done then s.setTile t y
      else s.setTile t { y with exch := { y.exch with holding := some e.idx, lastEntry := e.idx, lastCord := e.kind = 6, lastCycles := 0 } }) := by
  have due : ¬ ((s.tile t).exch.phase ≠ 2 || (s.tile t).exch.holding.isSome || (s.tile t).exch.offset < e.cycle) = true := by
    simp [hphase, hhold, hcycle]
  change execPlanEntryDue ⟨t, .clean⟩ s = _
  simp only [execPlanEntryDue, hx, he, if_neg due, tileEcc_clean]
  by_cases hk : e.kind = 7
  · simp only [hk, decide_true, Bool.or_true, if_true]
    rfl
  · simp only [hk, decide_false, Bool.or_false, if_false, State.modTile_modTile]
    rfl

end

/-! ### An entry completes (R213, R214) -/

theorem exec_sendComplete_of_left {s : State} {t : TileId} {n slot : Nat} {m : MapEntry} {c : Ctx} {e : PlanEnt}
    (hx : exchRun s t = some (slot, m, c)) (he : (s.tile t).ent n = some e) (hsends : e.sends = true) (hdue : e.due = true) (hdone : e.done = false)
    (hleft : e.left = e.count) : exec (.sendComplete t n) s = .next (entryDone t slot m.ctx e s) := by
  change execSendComplete t n s = _
  simp [execSendComplete, hx, he, hsends, hdue, hdone, hleft]

theorem exec_receiveComplete_of_wrote {s : State} {t : TileId} {n slot : Nat} {m : MapEntry} {c : Ctx} {e : PlanEnt}
    (hx : exchRun s t = some (slot, m, c)) (he : (s.tile t).ent n = some e) (hrecvs : e.recvs = true) (hdone : e.done = false)
    (hcount : 0 < e.count) (hwrote : e.wrote = e.count) : exec (.receiveComplete t n) s = .next (entryDone t slot m.ctx e s) := by
  change execReceiveComplete t n s = _
  simp [execReceiveComplete, hx, he, hrecvs, hdone, hcount, hwrote]

/-- Settles O8: one equation for each command of the exchange unit once its conditions hold. -/
theorem planCommandsComplete : Obligations.PlanCommandsComplete := by
  unfold Obligations.PlanCommandsComplete
  refine ⟨?select, ?read, ?ahead, ?due, ?sent, ?received⟩
  case select =>
    intro s t slot e pos hi h n h3 h14 hid hpos hle htable hfit
    exact exec_exchSelect_of_valid hi rfl h3 h14 hid hpos hle htable hfit
  case read =>
    intro s t slot e c pos hx hplan n p hturn hvalid
    exact exec_planEntryRead_of_valid hx hplan rfl hturn hvalid
  case ahead =>
    intro s t n slot m c e hx he hphase hsends hdone hasked hbefore hcycle
    exact exec_sendReadAhead_of_first hx he hphase hsends hdone hasked hbefore hcycle
  case due =>
    intro s t slot m c e hx he hphase hhold hcycle y
    have due := exec_planEntryDue_of_due hx he hphase hhold hcycle
    refine ⟨fun hk => ?_, fun hk hc => ?_, fun hc hs => ?_, fun hk hc hs hd => ?_, fun hk hc hs hd => ?_⟩
    · rw [due, if_pos hk]
      rfl
    · rw [due, if_neg hk, if_pos hc]
      rfl
    · rw [due, if_neg (PlanEnt.kind_of_sends hs), if_neg hc, if_pos hs]
      rfl
    · rw [due, if_neg hk, if_neg hc, if_neg (by simp [hs]), if_pos hd]
      rfl
    · rw [due, if_neg hk, if_neg hc, if_neg (by simp [hs]), if_neg (by simp [hd])]
      rfl
  case sent =>
    intro s t n slot m c e hx he hsends hdue hdone hleft
    exact exec_sendComplete_of_left hx he hsends hdue hdone hleft
  case received =>
    intro s t n slot m c e hx he hrecvs hdone hcount hwrote
    exact exec_receiveComplete_of_wrote hx he hrecvs hdone hcount hwrote

end Sys2Proof.Machine
end

section
/-! PROOFS. What CH_SEND and its completion leave: the messages on their way, the lines of the ring, and the reads of the payload (R226 to R230). -/

namespace Sys2Proof.Machine

theorem Tile.ep_modEp_same (x : Tile) (n : Nat) (f : Endpoint → Endpoint) : (x.modEp n f).ep n = f (x.ep n) := sgetD_smod_self _ _ _ _

/-! ### What sending changes (R195, R226, R397) -/

/-- What lines on their way change: of tile `t` the router, the messages and the billets that have arrived, and outside the tiles the output of a replay. -/
structure State.Sends (s u : State) (t : Nat) : Prop where
  rest : u = { s with tiles := u.tiles, forn := u.forn }
  others : ∀ r, r ≠ t → u.tile r = s.tile r
  tile : u.tile t = { s.tile t with router := (u.tile t).router, msgs := (u.tile t).msgs, arrived := (u.tile t).arrived }

theorem State.Sends.refl (s : State) (t : Nat) : s.Sends s t := ⟨rfl, fun _ _ => rfl, rfl⟩

theorem State.Sends.trans {s u v : State} {t : Nat} (h : s.Sends u t) (g : u.Sends v t) : s.Sends v t where
  rest := by rw [g.rest, h.rest]
  others r hr := (g.others r hr).trans (h.others r hr)
  tile := by rw [g.tile, h.tile]

theorem State.modTile_sends (s : State) (t : Nat) {f : Tile → Tile}
    (hf : ∀ x, f x = { x with router := (f x).router, msgs := (f x).msgs, arrived := (f x).arrived }) : s.Sends (s.modTile t f) t where
  rest := rfl
  others r hr := s.modTile_ne t r f hr
  tile := by rw [State.modTile_self, ← hf]

/-- What refuses a flit at its sender is not changed by sending. -/
theorem State.Sends.sendRefusal {s u : State} {t : Nat} (h : s.Sends u t) (dst : Nat) : sendRefusal u dst = sendRefusal s dst := by
  rw [h.rest]
  rfl

theorem State.Sends.nextOp {s u : State} {t : Nat} (h : s.Sends u t) : (u.tile t).nextOp = (s.tile t).nextOp := by rw [h.tile]

theorem State.Sends.ep {s u : State} {t : Nat} (h : s.Sends u t) (n : Nat) : (u.tile t).ep n = (s.tile t).ep n := by
  rw [h.tile]
  rfl

theorem sendLines_sends (t ctx dst : Nat) (lines : List (FlitBody × List Byte)) (s : State) : s.Sends (sendLines t ctx dst lines s) t := by
  unfold sendLines
  split
  · exact ⟨rfl, fun _ _ => rfl, rfl⟩
  · exact s.modTile_sends t (fun _ => rfl)

/-- Lines that go leave the messages as they are. -/
theorem sendLines_msgs (t ctx dst : Nat) (lines : List (FlitBody × List Byte)) (s : State) :
    ((sendLines t ctx dst lines s).tile t).msgs = (s.tile t).msgs := by
  unfold sendLines
  split
  · rfl
  · rw [inject, State.modTile_self]

/-! ### Messages on their way (R198, R230) -/

/-- No message of the tile goes to a tile that its sender refuses. -/
def State.MsgsOpen (s : State) (t : Nat) : Prop := ∀ m ∈ (s.tile t).msgs, sendRefusal s m.peer = none

theorem lineRefusal_of_open {s : State} {dst : Nat} (h : sendRefusal s dst = none) (ctx : Nat) : lineRefusal s ctx dst = none := by
  rw [lineRefusal, h, ite_self]

theorem mem_of_mem_replace {α : Type} [BEq α] {a b x : α} {xs : List α} (h : x ∈ xs.replace a b) : x ∈ xs ∨ x = b := by
  induction xs with
  | nil => exact .inl h
  | cons y ys ih =>
    rw [List.replace_cons] at h
    split at h
    · rcases List.mem_cons.mp h with h | h
      · exact .inr h
      · exact .inl (List.mem_cons_of_mem y h)
    · rcases List.mem_cons.mp h with h | h
      · exact .inl (h ▸ List.mem_cons_self)
      · exact (ih h).imp_left (List.mem_cons_of_mem y)

/-- A message whose destination is open goes on; it and the others keep their destinations. -/
theorem pumpMsg_of_open {s : State} {t : Nat} (h : s.MsgsOpen t) (id : Nat) : s.Sends (pumpMsg t id s) t ∧ (pumpMsg t id s).MsgsOpen t := by
  unfold pumpMsg
  dsimp only
  split
  · exact ⟨.refl s t, h⟩
  next m hm =>
    have open_m : sendRefusal s m.peer = none := h m (List.mem_of_find?_eq_some hm)
    generalize (if (s.tile t).chBehind m then m.sent else _) = n
    rw [lineRefusal_of_open open_m, ite_self]
    dsimp only
    generalize hu : sendLines t m.ctx m.peer _ s = u
    have sent : s.Sends u t := hu ▸ sendLines_sends t m.ctx m.peer _ s
    have same : (u.tile t).msgs = (s.tile t).msgs := hu ▸ sendLines_msgs t m.ctx m.peer _ s
    refine ⟨sent.trans (u.modTile_sends t (fun _ => rfl)), fun p hp => ?_⟩
    refine (sent.trans (u.modTile_sends t (fun _ => rfl))).sendRefusal p.peer |>.trans ?_
    rw [State.modTile_self, same] at hp
    dsimp only at hp
    split at hp
    · exact h p (List.mem_of_mem_erase hp)
    · rcases mem_of_mem_replace hp with hp | rfl
      · exact h p hp
      · exact open_m

theorem forAll_pumpMsg_of_open {s : State} {t : Nat} (h : s.MsgsOpen t) (ids : List Nat) : s.Sends (forAll ids (fun id s => pumpMsg t id s) s) t := by
  unfold forAll
  induction ids generalizing s with
  | nil => exact .refl s t
  | cons id ids ih =>
    obtain ⟨sent, still⟩ := pumpMsg_of_open h id
    exact sent.trans (ih still)

/-! ### The ring before a message (R229) -/

/-- The state in which a message of its endpoint takes its lines: a skip marker of `skip` lines goes before it, if any. -/
def ringReady (t ctx slot n skip : Nat) (s : State) : State :=
  if skip = 0 then s else sendSkip t ctx slot n ((s.tile t).ep n) skip s

/-- The marker of `skip` lines takes them and the ring goes on at line 0; one of no lines changes nothing. -/
theorem ringReady_spec {s : State} {t n skip : Nat} (ctx slot : Nat) (hk : sendRefusal s ((s.tile t).ep n).peerTile = none)
    (ho : skip ≠ 0 → s.MsgsOpen t) :
    let k := (s.tile t).ep n
    let u := ringReady t ctx slot n skip s
    u = { s with tiles := u.tiles, forn := u.forn } ∧ (∀ r, r ≠ t → u.tile r = s.tile r) ∧ (skip = 0 → u.forn = s.forn) ∧
    (u.tile t).nextOp = (s.tile t).nextOp + (if skip = 0 then 0 else 1) ∧
    (u.tile t).ep n = { k with free := k.free - skip, pos := if skip = 0 then k.pos else 0 } := by
  dsimp only
  unfold ringReady
  by_cases h0 : skip = 0
  · simp only [h0, if_true]
    exact ⟨trivial, fun _ _ => trivial, fun _ => trivial, rfl, rfl⟩
  · simp only [h0, if_false]
    unfold sendSkip pumpMsgs
    dsimp only
    generalize hv : s.modTile t _ = v
    have open_v : v.MsgsOpen t := by
      intro m hm
      subst hv
      rw [State.modTile_self] at hm
      rcases List.mem_append.mp hm with hm | hm
      · exact ho h0 m hm
      · rw [List.mem_singleton.mp hm]
        exact hk
    have sent := forAll_pumpMsg_of_open open_v ((v.tile t).msgs.map (·.id))
    refine ⟨?_, fun r hr => ?_, fun h => h.elim, ?_, ?_⟩
    · rw [sent.rest, ← hv]
      rfl
    · rw [sent.others r hr, ← hv, State.modTile_ne _ _ _ _ hr]
    · rw [sent.nextOp, ← hv, State.modTile_self]
    · rw [sent.ep, ← hv, State.modTile_self]
      exact Tile.ep_modEp_same (s.tile t) n (fun k => { k with free := k.free - skip, pos := 0 })

/-! ### The reads of the payload (R230) -/

/-- The tile with requests presented behind those that wait. -/
def Tile.presents (x : Tile) (rs : List BankReq) : Tile := { x with reqs := x.reqs ++ rs, nextReq := x.nextReq + rs.length }

theorem Tile.presents_nil (x : Tile) : x.presents [] = x := by rw [presents, List.append_nil, List.length_nil, Nat.add_zero]

theorem Tile.presents_presents (x : Tile) (rs qs : List BankReq) : (x.presents rs).presents qs = x.presents (rs ++ qs) := by
  simp only [presents, List.append_assoc, List.length_append, Nat.add_assoc]

theorem Tile.post_presents (x : Tile) (cycle : Nat) (r : BankReq) : ∃ q, x.post cycle r = x.presents [q] ∧
    (q.who, q.store, q.bil, q.wr.isSome, q.dst) = (r.who, r.store, r.bil, r.wr.isSome, r.dst) := ⟨_, rfl, rfl⟩

/-- Reads presented one after the other stand behind the tile's requests, in their order. -/
theorem forAll_postRead {α : Type} (xs : List α) (t : Nat) (who : Requester) (place : α → StoreId × Nat) (dst : α → ReqDst) (s : State) (x : Tile) :
    ∃ rs, forAll xs (fun a s => postRead t who (place a).1 (place a).2 (dst a) s) (s.setTile t x) = s.setTile t (x.presents rs) ∧
      rs.map (fun r => (r.who, r.store, r.bil, r.wr.isSome, r.dst)) = xs.map (fun a => (who, (place a).1, (place a).2, false, dst a)) := by
  unfold forAll
  induction xs generalizing x with
  | nil => exact ⟨[], by rw [Tile.presents_nil]; rfl, rfl⟩
  | cons a xs ih =>
    obtain ⟨q, hq, hkept⟩ := x.post_presents (s.tileCycle t) { who := who, store := (place a).1, bil := (place a).2, dst := dst a }
    obtain ⟨rs, hrs, hmap⟩ := ih (x.presents [q])
    refine ⟨q :: rs, ?_, by rw [List.map_cons, List.map_cons, hmap, hkept]; rfl⟩
    rw [List.foldl_cons]
    dsimp only
    rw [postRead, State.setTile_modTile, State.setTile_tileCycle, hq, hrs, Tile.presents_presents]
    rfl

/-! ### CH_SEND (R228 to R230) -/

/-- The message that a CH_SEND with parameters `p` of endpoint `k` makes, under the number `id`. -/
def chMessage (t slot : Nat) (e : MapEntry) (user : Nat) (p : BitVec 64) (k : Endpoint) (id : Nat) : SendMsg :=
  { ep := chEp p, ctx := e.ctx, slot := slot, id := id, addId := chAddId p, addVal := chAddVal p, peer := k.peerTile, peerEp := k.peerEp
    lines := msgLines (chLen p), len := chLen p, bytes := msgHeader (chLen p) false (chEp p) t k.seq user (msgLines (chLen p)) }

/-- The tile whose endpoint `n` has taken the `l` lines of the message `m`, and whose core runs. -/
def Tile.sendsMsg (x : Tile) (n l : Nat) (m : SendMsg) : Tile :=
  { x.chGo.modEp n (fun k => { k with
      free := k.free - l, pos := (k.pos + l) % (8 * k.peerRing), seq := (k.seq + 1) % 65536, messages := satAdd 32 k.messages 1 }) with
    msgs := x.msgs ++ [m], nextOp := m.id + 1 }

theorem Tile.sendsMsg_ep (x : Tile) (n l : Nat) (m : SendMsg) : (x.sendsMsg n l m).ep n = { x.ep n with
    free := (x.ep n).free - l, pos := ((x.ep n).pos + l) % (8 * (x.ep n).peerRing)
    seq := ((x.ep n).seq + 1) % 65536, messages := satAdd 32 (x.ep n).messages 1 } :=
  x.chGo.ep_modEp_same n (fun k => { k with
    free := k.free - l, pos := (k.pos + l) % (8 * k.peerRing), seq := (k.seq + 1) % 65536, messages := satAdd 32 k.messages 1 })

/-- What the tile has once its message has gone and the reads `rs` of its payload wait. -/
theorem Tile.sendsMsg_presents (x : Tile) (n l : Nat) (m : SendMsg) (rs : List BankReq) :
    let y := (x.sendsMsg n l m).presents rs
    y.stall = .none ∧ y.chBlocked = none ∧ y.nextOp = m.id + 1 ∧ y.msgs = x.msgs ++ [m] ∧ y.reqs = x.reqs ++ rs ∧ y.ep n = (x.sendsMsg n l m).ep n :=
  ⟨rfl, rfl, rfl, rfl, rfl, rfl⟩

/-- A message that goes takes its lines and presents the reads of its payload in order. -/
theorem sendMessage_presents (t slot : Nat) (e : MapEntry) (user : Nat) (p : BitVec 64) (k : Endpoint) (src : StoreId × Nat) (s : State) :
    let x := s.tile t
    ∃ rs, sendMessage t slot e false user p k src s =
        s.setTile t ((x.sendsMsg (chEp p) (msgLines (chLen p)) (chMessage t slot e user p k x.nextOp)).presents rs) ∧
      rs.map (fun r => (r.who, r.store, r.bil, r.wr.isSome, r.dst)) =
        (List.range (ceilDiv (chLen p) 512)).map (fun j => (Requester.dma, src.1, src.2 + j, false, ReqDst.chSrc x.nextOp j)) :=
  forAll_postRead _ t .dma (fun j => (src.1, src.2 + j)) (fun j => .chSrc (s.tile t).nextOp j) s _

section
variable {s : State} {t : TileId} {slot : Nat} {e : MapEntry} {rs : Fin 32} {p : BitVec 64} (hi : coreIssue s t chStall = some (slot, e))
  (hp : (s.tile t).reg slot rs = p) (hc : pickCode (chChecks (s.tile t) slot e p) = none)
include hi hp hc

/-- With a place in the channel unit and room in the ring the message goes, behind its skip marker if it needs one. -/
theorem exec_chSend_of_room {k : Endpoint} {st : StoreId} {i : Nat} (rt : Fin 32) (hk : (s.tile t).ep (chEp p) = k) (h0 : chLen p ≠ 0)
    (hr : s.replays e.ctx = false) (ho : sendRefusal s k.peerTile = none) (hu : (s.tile t).msgUse < 4)
    (hf : k.skipLines (msgLines (chLen p)) + msgLines (chLen p) ≤ k.free) (hs : e.resolve (chSrc p) (ceilDiv (chLen p) 512) = .ok (st, i)) :
    exec (.chSend t rs rt .clean) s = .next (sendMessage t slot e false (bf ((s.tile t).reg slot rt).toNat 0 32) p k (st, i)
      (ringReady t e.ctx slot (chEp p) (k.skipLines (msgLines (chLen p))) s)) := by
  have place : ¬ 4 ≤ (s.tile t).msgUse := by omega
  have marker_room : ¬ k.free < k.skipLines (msgLines (chLen p)) := by omega
  have message_room : ¬ k.free - k.skipLines (msgLines (chLen p)) < msgLines (chLen p) := by omega
  change execChSend t rs rt .clean s = _
  unfold execChSend
  rw [hi]
  dsimp only
  rw [hp, hc, hk, hr]
  simp only [h0, ho, place, marker_room, message_room, hs, tileEcc_clean, Bool.false_and, Bool.not_false, Bool.true_and, decide_false,
    Bool.false_eq_true, if_false]
  rw [ringReady, hk]

/-- A message of no bytes is counted, and posts its add at once (R228). -/
theorem exec_chSend_of_empty (rt : Fin 32) (ecc : Check) (h0 : chLen p = 0) :
    exec (.chSend t rs rt ecc) s = .next (postAdd t e.ctx slot (chAddId p) (chAddVal p) (s.setTile t
      ((s.tile t).chGo.modEp (chEp p) (fun k => { k with messages := satAdd 32 k.messages 1 })))) := by
  change execChSend t rs rt ecc s = _
  unfold execChSend
  rw [hi]
  dsimp only
  rw [hp, hc]
  dsimp only
  rw [if_pos h0]
  rfl

end

/-- The place of a message whose lines have all left is free again (R230). -/
theorem exec_chSendComplete_of_left {s : State} {t : TileId} {msg : Nat} {m : SendMsg} (hm : (s.tile t).msgs.find? (fun m => m.id = msg) = some m)
    (hl : s.tileLit t = true) (hs : m.lines ≤ m.sent) (hq : ∀ f ∈ (s.tile t).router.inj, f.src = t → f.body.ofMsg msg = false) :
    exec (.chSendComplete t msg) s = .next (postAdd t m.ctx m.slot m.addId m.addVal
      (s.setTile t { s.tile t with msgs := (s.tile t).msgs.erase m })) := by
  have none_waits : (s.tile t).router.inj.any (fun f => f.src = t && f.body.ofMsg msg) = false := by simpa using hq
  change execChSendComplete t msg s = _
  unfold execChSendComplete
  dsimp only
  rw [hm]
  dsimp only
  rw [none_waits, hl, if_neg (by simpa using hs)]

/-- Settles O13: the message goes behind its skip marker, which leaves the ring at line 0; what a message then takes is read off the tile. -/
theorem channelSendCompletes : Obligations.ChannelSendCompletes := by
  unfold Obligations.ChannelSendCompletes
  refine ⟨?send, ?empty, ?complete⟩
  case send =>
    intro s t slot e rs rt st i hi x p n k l skip user s1 hc h0 hr ho hu hf hs hopen
    have sends : exec (.chSend t rs rt .clean) s = .next (sendMessage t slot e false user p k (st, i) s1) :=
      exec_chSend_of_room hi rfl hc rt rfl h0 hr ho hu hf hs
    have marker := ringReady_spec e.ctx slot ho hopen
    have ready : ringReady t e.ctx slot n skip s = s1 := rfl
    rw [ready] at marker
    clear_value s1
    obtain ⟨rest, others, forn, next, ring⟩ := marker
    obtain ⟨qs, sent, reads⟩ := sendMessage_presents t slot e user p k (st, i) s1
    obtain ⟨runs, unblocked, named, queued, asked, taken⟩ :=
      (s1.tile t).sendsMsg_presents n l (chMessage t slot e user p k (s1.tile t).nextOp) qs
    refine ⟨sends, _, sends.trans (congrArg Host.Outcome.next sent), ?_, fun r hr => ?_, forn, ?_⟩
    · rw [rest]
      rfl
    · rw [State.setTile_ne _ _ _ _ hr, others r hr]
    · rw [State.setTile_self]
      refine ⟨runs, unblocked, ?_, queued, ⟨qs, asked, reads⟩, ?_⟩
      · rw [named]
        change (s1.tile t).nextOp + 1 = _
        rw [next]
        split <;> rfl
      · rw [taken, Tile.sendsMsg_ep, ring]
  case empty =>
    intro s t slot e rs rt ecc hi p hc h0
    exact exec_chSend_of_empty hi rfl hc rt ecc h0
  case complete =>
    intro s t msg m hm hl hs hq
    exact exec_chSendComplete_of_left hm hl hs hq

end Sys2Proof.Machine
end

section
/-! PROOFS. What the receive side of a channel leaves: lines that land, messages delivered, peeked at and released, and credits (R231 to R233). -/

namespace Sys2Proof.Machine

/-! ### Flits of a channel at the local port (R194, R199, R231, R232) -/

/-- A tile whose running context replays nothing takes the line that the mesh brings it. -/
theorem exec_channelLineArrival_of_flit {s s1 : State} {t : TileId} {f : Flit} {n id : Nat} {last : Bool} (hq : s.statues = false)
    (hr : ∀ c, (s.tile t).runCtx = some c → s.replays c = false) (hf : takeLoose t FlitBody.isLine .clean s = some (some f, s1))
    (hb : f.body = .line n id last) :
    exec (.channelLineArrival ⟨t, .clean⟩) s = .next (((s.tile t).epEntry n true).elim (strayChannel t s1) (fun e =>
      takeLine t n f.bytes last e (if (s.ctx e.ctx).any (fun c => c.hasTile f.src) then s1
        else captureArrival e.ctx t 3 (natLe 1 n ++ natLe 1 (b2n last) ++ f.bytes) s1))) := by
  have no_replay : (s.tile t).runCtx.any s.replays = false := by
    cases h : (s.tile t).runCtx with
    | none => rfl
    | some c => exact hr c h
  have clean : flitOf .clean = .clean := rfl
  change execChannelLineArrival ⟨t, .clean⟩ s = _
  unfold execChannelLineArrival
  dsimp only
  rw [hq, no_replay, clean, hf]
  dsimp only
  rw [hb]
  dsimp only
  cases (s.tile t).epEntry n true with
  | none => rfl
  | some e => cases h : (s.ctx e.ctx).any (fun c => c.hasTile f.src) <;> simp [h]

theorem exec_creditFlitArrival_of_flit {s s1 : State} {t : TileId} {f : Flit} {n lines : Nat} {e : MapEntry} (hq : s.statues = false)
    (hf : takeLoose t FlitBody.isCredit .clean s = some (some f, s1)) (hb : f.body = .credit n lines) (he : (s.tile t).epEntry n false = some e) :
    exec (.creditFlitArrival ⟨t, .clean⟩) s = .next (s1.modTile t (·.modEp n (fun k => { k with free := k.free + lines }))) := by
  have clean : flitOf .clean = .clean := rfl
  change execCreditFlitArrival ⟨t, .clean⟩ s = _
  unfold execCreditFlitArrival
  dsimp only
  rw [hq, clean, hf]
  dsimp only
  rw [hb]
  dsimp only
  rw [he]
  rfl

/-! ### Messages at the receive endpoint (R231, R232) -/

theorem exec_messageDelivered_of_written {s : State} {t : TileId} {ep : Fin 32} {e : MapEntry} {m : Msg} (he : (s.tile t).epEntry ep true = some e)
    (hm : ((s.tile t).ep ep).inbox.find? (fun m => !m.skip && !m.delivered) = some m) (hl : m.left = 0)
    (hq : (s.tile t).quiet (.chan ep) (.chan ep) = true) :
    exec (.messageDelivered t ep) s = .next (postAdd t e.ctx ((s.tile t).ep ep).slot ((s.tile t).ep ep).addId ((s.tile t).ep ep).addVal (s.setTile t
      (((s.tile t).count (some ((s.tile t).ep ep).slot) 0x2E 1).modEp ep (fun k => { k with
        inbox := k.inbox.replace m { m with delivered := true }, messages := satAdd 32 k.messages 1 })))) := by
  change execMessageDelivered t ep s = _
  unfold execMessageDelivered
  dsimp only
  rw [he, hm]
  dsimp only
  rw [hl, hq, if_neg (by simp)]

section
variable {s : State} {t : TileId} {slot : Nat} {e : MapEntry} {ep : Fin 32} (hi : coreIssue s t freeCore = some (slot, e))
  (hv : ((s.tile t).ep ep).valid = true) (hr : ((s.tile t).ep ep).recv = true) (hs : ((s.tile t).ep ep).slot = slot)
include hi hv hr hs

/-- A receive endpoint of the running context is acted on. -/
theorem chRecv_of_own (f : Nat → MapEntry → Endpoint → State) : chRecv t ep s f = f slot e ((s.tile t).ep ep) := by
  rw [chRecv, hi]
  dsimp only
  rw [if_pos (by simp [hv, hr, hs])]

theorem exec_chPeek_of_delivered {m : Msg} {r : List Msg} (rd : Fin 32) (hb : ((s.tile t).ep ep).inbox = m :: r) (hd : m.delivered = true) :
    exec (.chPeek t ep rd) s = .next (s.setTile t ((s.tile t).setReg slot rd (BitVec.ofNat 64 (m.line + m.len <<< 16 + 1 <<< 32)))) := by
  change execChPeek t ep rd s = _
  rw [execChPeek, chRecv_of_own hi hv hr hs, hb]
  dsimp only
  rw [if_pos hd]
  rfl

/-- With no delivered message at the head the register takes a free value, of which only bits [31:0] are free. -/
theorem exec_chPeek_of_undelivered (rd : Fin 32) (hd : ∀ m r, ((s.tile t).ep ep).inbox = m :: r → m.delivered = false) :
    exec (.chPeek t ep rd) s = .next { s.setTile t ((s.tile t).setReg slot rd (BitVec.ofNat 64 (bf s.draw.1.toNat 0 32))) with freeCtr := s.freeCtr + 1 } := by
  change execChPeek t ep rd s = _
  rw [execChPeek, chRecv_of_own hi hv hr hs]
  cases hb : ((s.tile t).ep ep).inbox with
  | nil => rfl
  | cons m r =>
    dsimp only
    rw [hd m r hb, if_neg Bool.false_ne_true]
    rfl

theorem exec_chRelease_of_delivered {m : Msg} {r : List Msg} (hb : ((s.tile t).ep ep).inbox = m :: r) (hd : m.delivered = true) :
    let k := (s.tile t).ep ep
    let k1 := Endpoint.dropSkips { k with inbox := r, free := k.free - m.lines, pos := (m.line + m.lines) % (8 * k.ringBillets) }
    exec (.chRelease t ep) s = .next (creditBack t k e.ctx (m.lines + k1.2) (s.setTile t { s.tile t with eps := sset (s.tile t).eps ep k1.1 })) := by
  change execChRelease t ep s = _
  rw [execChRelease, chRecv_of_own hi hv hr hs, hb]
  dsimp only
  rw [if_pos hd]
  rfl

end

/-- Settles O14: each of the five commands on its flit, message or endpoint; what a peek answers without a delivered message fits 32 bits. -/
theorem channelReceiveCompletes : Obligations.ChannelReceiveCompletes := by
  unfold Obligations.ChannelReceiveCompletes
  refine ⟨?line, ?delivered, ?peek, ?release, ?credit⟩
  case line =>
    intro s t f s1 n id last hq hr hf hb
    rw [exec_channelLineArrival_of_flit hq hr hf hb]
    refine ⟨fun he => by rw [he, Option.elim_none], fun e c he hc => ⟨fun ht => ?_, fun ht => ?_⟩⟩
    · simp only [he, hc, ht, Option.elim_some, Option.any_some, if_true]
    · simp only [he, hc, ht, Option.elim_some, Option.any_some, Bool.false_eq_true, if_false]
  case delivered =>
    intro s t ep e m k he hm hl hq
    exact exec_messageDelivered_of_written he hm hl hq
  case peek =>
    intro s t slot e ep rd hi hv hr hs
    refine ⟨fun m r hb hd => exec_chPeek_of_delivered hi hv hr hs rd hb hd, fun hd => ?_⟩
    refine ⟨_, exec_chPeek_of_undelivered hi hv hr hs rd hd, _, ?_, rfl⟩
    rw [BitVec.toNat_ofNat]
    exact (Nat.mod_le _ _).trans_lt (bf_lt _ 0 32)
  case release =>
    intro s t slot e ep m r hi hv hr hs hb hd
    exact exec_chRelease_of_delivered hi hv hr hs hb hd
  case credit =>
    intro s t f s1 n lines e hq hf hb he
    exact exec_creditFlitArrival_of_flit hq hf hb he

end Sys2Proof.Machine
end

section
/-! PROOFS. What the commands of the combining queue leave: DEFINE, CONTRIBUTE, FINISH, RELEASE, and the completion of the head (R235 to R238, R241, R244, R453). -/

namespace Sys2Proof.Machine

section
variable {s : State} {t : TileId} {q : QEntry} {e : MapEntry} {c : Ctx}
  (hq : (s.tile t).rickQ.head? = some q) (hd : q.done = false) (hg : headEntry s t (some q) = .go q e c)
include hq hd hg

/-- The row of the head's OP acts on the head. -/
theorem withRickHead_of_go {op : Nat} (ho : rOp q.cmd = op) (f : QEntry → MapEntry → Ctx → State) : withRickHead t op s f = f q e c := by
  rw [withRickHead, hq, if_pos (by simp [hd, ho]), hg]

/-! ### DEFINE and RELEASE (R235 to R237) -/

omit hq hd hg in
theorem definedStream_forward (hf : rForward q.cmd = true) (e : MapEntry) : definedStream q e = {
    defined := true, forward := true, slot := q.slot, ctx := q.ctx, pitch := rPitch q.cmd, peerTile := rPeerTile q.cmd
    peerStream := rPeerStream q.cmd } := by
  rw [definedStream, if_pos hf]

omit hq hd hg in
theorem definedStream_accumulate (hf : rForward q.cmd = false) (e : MapEntry) : definedStream q e = {
    defined := true, slot := q.slot, ctx := q.ctx, remote := rRemote q.cmd, anchor := rAnchor q.cmd, elements := rElements q.cmd
    pitch := rPitch q.cmd, first := rFirst q.cmd, base := e.emBase + bf (rBase q.cmd) 0 13, segGap := rSegGap q.cmd
    sideBase := e.emBase + bf (rSideBase q.cmd) 0 13, sideEntries := rSideEntries q.cmd, expect := rExpect q.cmd } := by
  rw [definedStream, if_neg (by simp [hf])]

/-- A stream that is not defined yet is set up; an accumulating one has its buffer and its side table emptied. -/
theorem exec_define_of_free (ho : rOp q.cmd = 1) (hk : ((s.tile t).stream (rStream q.cmd)).defined = false) :
    exec (.define ⟨t, .clean⟩) s = .next (rickDone t
      (let u := (startRick t q s).modTile t (·.setStream (rStream q.cmd) (definedStream q e))
       if (definedStream q e).forward then u else clearWrites t (definedStream q e) u)) := by
  change execDefine ⟨t, .clean⟩ s = _
  rw [execDefine, withRickHead_of_go hq hd hg ho, tileEcc_clean]
  dsimp only
  rw [if_neg (by simp [hk])]

/-- A stream of the slot that holds nothing and has nothing on its way is given up. -/
theorem exec_release_of_empty (ho : rOp q.cmd = 4) (hw : (s.tile t).ownStream q = true) (ha : ((s.tile t).stream (rStream q.cmd)).arrived = 0)
    (hb : (s.tile t).rick.busy (rStream q.cmd) = false)
    (hf : ((s.tile t).stream (rStream q.cmd)).forward = true → s.inFlight t (rStream q.cmd) = false) :
    exec (.release ⟨t, .clean⟩) s = .next (rickDone t ((startRick t q s).modTile t (fun x =>
      { x with rick := { x.rick with streams := sdel x.rick.streams (rStream q.cmd) } }))) := by
  change execRelease ⟨t, .clean⟩ s = _
  rw [execRelease, withRickHead_of_go hq hd hg ho, tileEcc_clean]
  dsimp only
  rw [if_neg (by simp [hw]), if_neg (by simpa [ha, hb] using hf)]

/-! ### CONTRIBUTE (R241, R415, R453) -/

/-- COUNT 0: the command starts and is done. -/
theorem exec_contribute_of_count_zero (ho : rOp q.cmd = 2) (hs : q.started = false) (h0 : rCount q.cmd = 0) :
    exec (.contribute t .clean) s = .next (rickDone t (startRick t q s)) := by
  change execContribute t .clean s = _
  rw [execContribute, withRickHead_of_go hq hd hg ho, tileEcc_clean]
  dsimp only
  rw [if_neg (by simp [hs]), if_pos h0]

/-- The command starts, and its first billet is asked for. -/
theorem exec_contribute_of_start {st : StoreId} {i : Nat} (ho : rOp q.cmd = 2) (hs : q.started = false) (h0 : rCount q.cmd ≠ 0)
    (hw : (s.tile t).ownStream q = true) (hr : e.resolve (rAddr q.cmd) (rCount q.cmd) = .ok (st, i))
    (hh : ((s.tile t).stream (rStream q.cmd)).holds (rFirst q.cmd) (128 * rCount q.cmd) = true) :
    exec (.contribute t .clean) s = .next (rickAsk t ((List.range (rCount q.cmd)).map (fun j => (st, i + j))) 1 (startRick t q s)) := by
  change execContribute t .clean s = _
  rw [execContribute, withRickHead_of_go hq hd hg ho, tileEcc_clean]
  dsimp only
  rw [if_neg (by simp [hs]), if_neg h0, if_neg (by simp [hw]), hr]
  dsimp only
  rw [if_neg (by simp [hh]), rSources, hr]

/-- The state in which a CONTRIBUTE has given its next billet, of bytes `bs`, to its stream, which does not forward. -/
def billetGiven (t : Nat) (q : QEntry) (bs : List Byte) (s : State) : State :=
  contribute t q.ctx (rStream q.cmd) (rFirst q.cmd + 128 * q.given) false (some q.id) (billetValues bs)
    ((setRickHead t { q with asked := sset q.asked 0 (q.given + 1) } s).modTile t (fun x => { x with
      arrived := x.arrived.filter (fun a => !a.1.isRickSrc || a.1 ≠ .rickSrc q.given) }))

omit hd hg in
theorem contributeGive_of_arrival {bs : List Byte} (hf : ((s.tile t).stream (rStream q.cmd)).forward = false)
    (ha : (s.tile t).arrival (.rickSrc q.given) = some bs) : contributeGive t s = billetGiven t q bs s := by
  unfold contributeGive
  dsimp only
  rw [hq]
  dsimp only
  rw [hf, ha]
  dsimp only
  simp only [Bool.false_eq_true, if_false, Nat.reduceLeDiff, decide_false, Bool.or_false]
  rfl

/-- A billet that has arrived is given, and the next one asked for; with the last one the command is done. -/
theorem exec_contribute_of_arrival {bs : List Byte} (ho : rOp q.cmd = 2) (hs : q.started = true)
    (hf : ((s.tile t).stream (rStream q.cmd)).forward = false) (ha : (s.tile t).arrival (.rickSrc q.given) = some bs) (ecc : Check) :
    let u := rickAsk t (rSources e q.cmd) 1 (billetGiven t q bs s)
    exec (.contribute t ecc) s = .next (if ((u.tile t).rickQ.head?).any (fun p => p.given = rCount q.cmd) then rickDone t u else u) := by
  change execContribute t ecc s = _
  rw [execContribute, withRickHead_of_go hq hd hg ho]
  dsimp only
  rw [if_pos hs, contributeGive_of_arrival hq hf ha]

/-! ### FINISH (R244, R260) -/

theorem exec_finish_of_start (ho : rOp q.cmd = 3) (hs : q.started = false) (hr : finishRefusal s t q e = none) :
    exec (.finish t .clean) s = .next ((startRick t q s).modTile t (·.modStream (rStream q.cmd) (fun k => { k with finishing := true }))) := by
  change execFinish t .clean s = _
  rw [execFinish, withRickHead_of_go hq hd hg ho, tileEcc_clean]
  dsimp only
  rw [if_pos (by simp [hs]), hr]

section
variable (ho : rOp q.cmd = 3) (hs : q.started = true)
  (ha : ((s.tile t).stream (rStream q.cmd)).arrived = ((s.tile t).stream (rStream q.cmd)).expect) (hb : (s.tile t).rick.busy (rStream q.cmd) = false)
include ho hs ha hb

/-- A FINISH whose stream is complete reads the billets of its stream, four at a time. -/
theorem exec_finish_of_reads (hk : q.kDone < ((s.tile t).stream (rStream q.cmd)).reads.length) (ecc : Check) :
    exec (.finish t ecc) s =
      .next (rickAsk t (((s.tile t).stream (rStream q.cmd)).reads.map (fun b => (StoreId.ember, b))) 4 s) := by
  change execFinish t ecc s = _
  rw [execFinish, withRickHead_of_go hq hd hg ho]
  dsimp only
  rw [if_neg (by simp [hs]), if_neg (by simp [ha]), if_neg (by simp [ha, hb]), if_pos (by simpa using hk)]

/-- Every billet has been read: the elements are delivered. -/
theorem exec_finish_of_read (hk : q.kDone = ((s.tile t).stream (rStream q.cmd)).reads.length)
    (hn : (s.tile t).noneAsked (·.isRickSrc) = true) (ecc : Check) : exec (.finish t ecc) s = .next (finishDeliver t q e c s) := by
  change execFinish t ecc s = _
  rw [execFinish, withRickHead_of_go hq hd hg ho]
  dsimp only
  rw [if_neg (by simp [hs]), if_neg (by simp [ha]), if_neg (by simp [ha, hb]), if_neg (by simp [hk]), if_pos (by simp [hk, hn])]

end
end

/-- A FINISH delivers to the store, starts a hand-off, or sends to a peer's stream, rounded or exact (R244, R260). -/
theorem finishDeliver_store {q : QEntry} (hk : rDestKind q.cmd = 0) (t : Nat) (e : MapEntry) (c : Ctx) (s : State) :
    finishDeliver t q e c s = rickDone t (resetStream t (rStream q.cmd) (storeResults t (e.emBase + bf (rAddr q.cmd) 0 13)
      ((finishResults (s.tile t) ((s.tile t).stream (rStream q.cmd)) q.cmd c.seed c.superstep).flatMap (natLe (if rOut q.cmd = 1 then 2 else 4))) s)) := by
  simp only [finishDeliver, hk]

theorem finishDeliver_handoff {q : QEntry} (hk : rDestKind q.cmd = 1) (t : Nat) (e : MapEntry) (c : Ctx) (s : State) :
    finishDeliver t q e c s =
      (setRickHead t { q with kDone := q.kDone + 1 } s).modTile t (fun x => { x with rick := { x.rick with waitCredit := some 0 } }) := by
  simp only [finishDeliver, hk]

theorem finishDeliver_peer {q : QEntry} (hk : 2 ≤ rDestKind q.cmd) (t : Nat) (e : MapEntry) (c : Ctx) (s : State) :
    let k := (s.tile t).stream (rStream q.cmd)
    finishDeliver t q e c s = rickDone t (resetStream t (rStream q.cmd) (sendPacket t q.ctx (rPeerTile q.cmd) (bf (rFirst q.cmd) 0 2) k.first
      (rOut q.cmd = 0xF) 0 (if rOut q.cmd = 0xF then (List.range k.elements).map ((s.tile t).element k)
        else (finishResults (s.tile t) k q.cmd c.seed c.superstep).map (fun r => fp32Limb (if rOut q.cmd = 1 then r <<< 16 else r))) s)) := by
  obtain ⟨j, hj⟩ := Nat.exists_eq_add_of_le' hk
  simp only [finishDeliver, hj]

/-! ### The completion of the head (R244, R453) -/

theorem exec_rickCommandComplete_of_done {s : State} {t : TileId} {q : QEntry} {r : List QEntry} (hq : (s.tile t).rickQ = q :: r)
    (hl : s.tileLit t = true) (hd : q.faulted = true ∨ (q.done = true ∧ (s.tile t).rickQuiet q = true)) :
    exec (.rickCommandComplete t) s = .next (completeEntry t 3 q (s.setTile t { s.tile t with rickQ := r })) := by
  have ended : (s.tileLit t && ((q.done && (s.tile t).rickQuiet q) || q.faulted)) = true := by
    rw [hl]
    simpa [or_comm] using hd
  change execRickCommandComplete t s = _
  rw [execRickCommandComplete, hq]
  dsimp only
  rw [if_pos ended, State.modTile, hq]
  rfl

/-- Settles O23: what the head command does at each of its stages; a FINISH whose billets have been read delivers by its destination. -/
theorem rickCommandsComplete : Obligations.RickCommandsComplete := by
  unfold Obligations.RickCommandsComplete
  refine ⟨?head, ?complete⟩
  case head =>
    intro s t q e c hq hd hg n x k
    refine ⟨?forward, ?accumulate, ?empty, ?start, ?give, ?begin, ?finish, ?release⟩
    case forward =>
      intro ho hf hk
      rw [exec_define_of_free hq hd hg ho hk, definedStream_forward hf]
      rfl
    case accumulate =>
      intro ho hf hk
      rw [exec_define_of_free hq hd hg ho hk, definedStream_accumulate hf]
      rfl
    case empty =>
      intro ho hs h0
      exact exec_contribute_of_count_zero hq hd hg ho hs h0
    case start =>
      intro ho hs h0 hw st i hr hh
      exact exec_contribute_of_start hq hd hg ho hs h0 hw hr hh
    case give =>
      intro ho hs hf bs ha
      exact exec_contribute_of_arrival hq hd hg ho hs hf ha .clean
    case begin =>
      intro ho hs hr
      exact exec_finish_of_start hq hd hg ho hs hr
    case finish =>
      intro ho hs ha hb res
      refine ⟨fun hk => exec_finish_of_reads hq hd hg ho hs ha hb hk .clean, fun hk hn => ?_⟩
      rw [exec_finish_of_read hq hd hg ho hs ha hb hk hn]
      refine ⟨fun h0 => ?_, fun h1 => ?_, fun h2 hr => ?_, fun h2 hr => ?_⟩
      · rw [finishDeliver_store h0]
      · rw [finishDeliver_handoff h1]
      · rw [finishDeliver_peer h2, if_neg hr, decide_eq_false hr]
      · rw [finishDeliver_peer h2, if_pos hr, decide_eq_true hr]
    case release =>
      intro ho hw ha hb hf
      exact exec_release_of_empty hq hd hg ho hw ha hb hf
  case complete =>
    intro s t q r hq hl hd
    exact exec_rickCommandComplete_of_done hq hl hd

end Sys2Proof.Machine
end

section
/-! PROOFS. What arrivals at the combining queue, additions and credits leave (R239 to R243, R260, R453). -/

namespace Sys2Proof.Machine

/-! ### Arrivals (R241, R242) -/

theorem exec_rickPacketArrival_of_acts {s : State} {t : TileId} (hl : s.tileActs t = true) :
    exec (.rickPacketArrival t) s = .next (forAll (s.tile t).rick.input (takeRickFlit t)
      (s.setTile t { s.tile t with rick := { (s.tile t).rick with input := [] } })) := by
  change execRickPacketArrival t s = _
  rw [execRickPacketArrival, if_pos hl]
  rfl

/-! ### Requests leave the combining queue -/

theorem forAll_nil {α : Type} (f : α → State → State) (s : State) : forAll [] f s = s := rfl

theorem forAll_singleton {α : Type} (a : α) (f : α → State → State) (s : State) : forAll [a] f s = f a s := rfl

/-- A write presented at a bank leaves the combining queue as it is. -/
theorem postWrite_rick (t : Nat) (who : Requester) (st : StoreId) (i : Nat) (bs : List Byte) (dst : ReqDst) (s : State) :
    ((postWrite t who st i bs dst s).tile t).rick = (s.tile t).rick := by
  rw [postWrite, State.modTile_self]
  rfl

/-! ### The parts of an addition (R239, R240, R243) -/

theorem exec_rickAddition_of_acts {s : State} {t : TileId} (hl : s.tileActs t = true) :
    exec (.rickAddition t .clean) s = .next (startAddition t (forAll (List.range 4) (fun n s => sideStep t n s)
      (forAll (s.tile t).rick.works (fun w s => finishAddition t w s) s))) := by
  change execRickAddition t .clean s = _
  rw [execRickAddition, if_neg (by simp [hl]), tileEcc_clean]

/-- With no contribution waiting none starts. -/
theorem startAddition_of_empty {s : State} {t : Nat} (h : (s.tile t).rick.adds = []) : startAddition t s = s := by
  simp only [startAddition, h, List.find?_nil]

/-- A stream with nothing on its way into its side table does nothing there. -/
theorem sideStep_of_other {s : State} {t n : Nat} (h : ∀ a ∈ (s.tile t).rick.sides, a.cont.stream ≠ n) : sideStep t n s = s := by
  have none_on_way : (s.tile t).rick.sides.find? (fun a => a.cont.stream = n) = none := by simpa using h
  unfold sideStep
  dsimp only
  rw [none_on_way]

theorem forAll_sideStep_of_others {s : State} {t : Nat} {ns : List Nat} (h : ∀ a ∈ (s.tile t).rick.sides, a.cont.stream ∉ ns) :
    forAll ns (fun n s => sideStep t n s) s = s := by
  unfold forAll
  induction ns with
  | nil => rfl
  | cons n ns ih =>
    rw [List.foldl_cons]
    dsimp only
    rw [sideStep_of_other fun a ha heq => h a ha (heq ▸ List.mem_cons_self), ih fun a ha hm => h a ha (List.mem_cons_of_mem n hm)]

/-- Of the streams the one whose contribution alone is on its way into its side table goes on. -/
theorem forAll_sideStep_of_single {s : State} {t n : Nat} {ns : List Nat} (hn : n ∈ ns) (hd : ns.Nodup)
    (hs : ∀ a ∈ (s.tile t).rick.sides, a.cont.stream = n) (hu : ∀ a ∈ ((sideStep t n s).tile t).rick.sides, a.cont.stream = n) :
    forAll ns (fun n s => sideStep t n s) s = sideStep t n s := by
  obtain ⟨l, r, rfl⟩ := List.append_of_mem hn
  obtain ⟨hl, hr⟩ : n ∉ l ∧ n ∉ r := by
    rw [List.nodup_middle, List.nodup_cons, List.mem_append, not_or] at hd
    exact hd.1
  have before : forAll l (fun n s => sideStep t n s) s = s := forAll_sideStep_of_others fun a ha => hs a ha ▸ hl
  have behind : forAll r (fun n s => sideStep t n s) (sideStep t n s) = sideStep t n s := forAll_sideStep_of_others fun a ha => hu a ha ▸ hr
  unfold forAll at *
  rw [List.foldl_append, before, List.foldl_cons, behind]

/-! ### An addition starts (R239, R243) -/

/-- The contributions that wait behind `a` and `a` itself, of its stream and its ember billet. -/
def Tile.together (x : Tile) (a c : Contrib) : Bool := c.stream = a.stream && x.contribBillet c = x.contribBillet a

/-- The oldest contribution starts with those of its billet, all of which the stream expects. -/
theorem startAddition_of_first {s : State} {t : Nat} {a : Contrib} {r : List Contrib} (ha : (s.tile t).rick.adds = a :: r)
    (hw : (s.tile t).rick.works = []) (hs : (s.tile t).rick.sides = []) (hd : ((s.tile t).stream a.stream).defined = true)
    (hst : ((s.tile t).stream a.stream).stopped = false)
    (hx : ((s.tile t).stream a.stream).arrived + ((s.tile t).rick.adds.filter ((s.tile t).together a)).length ≤ ((s.tile t).stream a.stream).expect) :
    let x := s.tile t
    let cs := x.rick.adds.filter (x.together a)
    startAddition t s = postRead t .rick .ember (x.contribBillet a) (.ember (x.contribBillet a)) (s.setTile t { x with rick := { x.rick with
      streams := sset x.rick.streams a.stream { x.stream a.stream with arrived := (x.stream a.stream).arrived + cs.length }
      adds := x.rick.adds.filter (fun c => !x.together a c)
      works := x.rick.works ++ [{ stream := a.stream, bil := x.contribBillet a, conts := cs }] } }) := by
  dsimp only
  have first : (s.tile t).rick.adds.find? (fun a => (s.tile t).adderFree a.stream &&
      !(s.tile t).rick.works.any (fun w => w.bil = (s.tile t).contribBillet a)) = some a := by
    rw [ha, List.find?_cons_of_pos]
    simp [Tile.adderFree, hd, hst, hs, hw]
  have some_start : (s.tile t).rick.adds.filter ((s.tile t).together a) ≠ [] := by
    rw [ha, List.filter_cons_of_pos (by simp [Tile.together])]
    exact List.cons_ne_nil _ _
  have all_fit : ((s.tile t).rick.adds.filter ((s.tile t).together a)).take
      (((s.tile t).stream a.stream).expect - ((s.tile t).stream a.stream).arrived) = (s.tile t).rick.adds.filter ((s.tile t).together a) :=
    List.take_of_length_le (by omega)
  unfold startAddition
  dsimp only
  rw [first]
  dsimp only
  have same : (fun c : Contrib => decide (c.stream = a.stream) && decide ((s.tile t).contribBillet c = (s.tile t).contribBillet a)) =
      (s.tile t).together a := rfl
  rw [same, all_fit, if_neg (Nat.lt_irrefl _)]
  simp only [if_neg some_start]
  rfl

/-! ### An addition in place (R239) -/

/-- A billet that has been read is written back with its contributions added, when all of them can be added in place. -/
theorem finishAddition_in_place {s : State} {t : Nat} {w : AddWork} {img img' : List Byte} (hw : (s.tile t).rick.works = [w])
    (hwr : w.wrote = false) (ha : (s.tile t).arrival (.ember w.bil) = some img)
    (hadd : addWords ((s.tile t).stream w.stream) w.conts img = (img', [])) :
    finishAddition t w s = postWrite t .rick .ember w.bil img' (.ember w.bil) (s.setTile t { s.tile t with
      arrived := (s.tile t).arrived.filter (fun a => a.1 ≠ .ember w.bil)
      rick := { (s.tile t).rick with works := [{ w with wrote := true }] } }) := by
  have all_added : w.conts.filter (fun c => !([] : List Contrib).contains c) = w.conts := by simp
  unfold finishAddition
  dsimp only
  rw [ha]
  dsimp only
  rw [if_neg (by simp [hwr]), hadd]
  dsimp only
  rw [State.modTile, hw, all_added, List.replace_cons_self, List.map_nil, List.append_nil]

/-! ### An addition in the side table (R240) -/

/-- The probe that finds the entry of the element, or a free one, adds there and writes the entry's billet back. -/
theorem sideStep_of_found {s : State} {t : Nat} {a : SideAdd} {img : List Byte} {j : Nat} {used : Bool} (hs : (s.tile t).rick.sides = [a])
    (hwr : a.wrote = false) (hp : a.probed < ((s.tile t).stream a.cont.stream).sideEntries)
    (ha : (s.tile t).arrival (.side a.cont.stream) = some img) :
    let x := s.tile t
    let n := a.cont.stream
    let k := x.stream n
    let m := (a.cont.elem + a.probed) % k.sideEntries
    sideFind img a.cont.elem m (min (4 - m % 4) (k.sideEntries - a.probed)) = some (j, used) →
    sideStep t n s = postWrite t .rick .ember (k.sideBase + m / 4)
      (overlay img (128 * j) (sideBytes a.cont.elem ((if used then sideValue ((img.drop (128 * j)).take 128) else {}).add a.cont.value))) (.side n)
      (s.setTile t { x with
        arrived := x.arrived.filter (fun p => p.1 ≠ .side n)
        rick := { x.rick with
          sides := [{ a with wrote := true }]
          streams := sset x.rick.streams n { k with sideUsed := if used then k.sideUsed else k.sideUsed + 1 } } }) := by
  intro x n k m hf
  have found : x.rick.sides.find? (fun b => b.cont.stream = n) = some a := by
    rw [hs, List.find?_cons_of_pos]
    simp [n]
  unfold sideStep
  dsimp only
  rw [found]
  dsimp only
  rw [if_neg (by simp [hwr]), if_neg (Nat.not_le.mpr hp), ha]
  dsimp only
  rw [hf]
  dsimp only
  rw [State.modTile_modTile, State.modTile, hs, List.replace_cons_self]
  rfl

/-! ### Credits of a hand-off (R260) -/

/-- The next record goes to a stoker that has room for it, with no hold on its bucket. -/
theorem exec_handoffCredit_of_room {s : State} {t : TileId} {q : QEntry} {e : MapEntry} {c : Ctx} {r : Nat} {b : Bucket}
    (hq : (s.tile t).rickQ.head? = some q) (hd : q.done = false) (ho : rOp q.cmd = 3) (hg : headEntry s t (some q) = .go q e c)
    (hw : (s.tile t).rick.waitCredit = some r) (hr : s.replays q.ctx = false) (hb : s.bucket (bf (rFirst q.cmd) 0 10) = some b) (hh : c.held = false) :
    let x := s.tile t
    let n := rStream q.cmd
    let k := x.stream n
    stagingUse s (recordStack s b (k.first / 32 + r)) < 65536 →
    let d := fun (i : Nat) => if rRound q.cmd = 2 then stochastic c.seed c.superstep (rSrTag q.cmd) (k.first + 32 * r + i) 0xC0000000 else 0
    let vals := (List.range 32).map (fun i => BitVec.ofNat 32 (finishValue 0 (rRound q.cmd) (d i) (x.element k (32 * r + i))))
    let u : State := { countVn t q.ctx .q 3 ((countVn t q.ctx .p 1 s).modTile t (fun x => { x with rick := { x.rick with unaccepted := x.rick.unaccepted + 1 } })) with
      handoffs := s.handoffs ++ [{ bucket := bf (rFirst q.cmd) 0 10, recNo := k.first / 32 + r, vals := vals, src := t }] }
    let v := u.modTile t (fun x => { x with rick := { x.rick with waitCredit := if 32 * (r + 1) = k.elements then none else some (r + 1) } })
    exec (.handoffCredit t) s = .next (if 32 * (r + 1) = k.elements then rickDone t (resetStream t n v) else v) := by
  intro x n k hroom
  change execHandoffCredit t s = _
  rw [execHandoffCredit, withRickHead_of_go hq hd hg ho]
  dsimp only
  rw [hw]
  dsimp only
  rw [if_neg (by simp [hr]), hb]
  dsimp only
  rw [if_neg (by simpa [hh] using fun _ => hroom)]

/-- Settles O24: a row of additions is its three parts in turn, of which the two that have nothing to do leave the state as it is. -/
theorem rickArrivalsComplete : Obligations.RickArrivalsComplete := by
  unfold Obligations.RickArrivalsComplete
  refine ⟨?packet, ?starts, ?adds, ?side, ?credit⟩
  case packet =>
    intro s t hl
    exact exec_rickPacketArrival_of_acts hl
  case starts =>
    intro s t a r ha hw hs hl x k b same cs hd hst hx
    rw [exec_rickAddition_of_acts hl, hw, forAll_nil, forAll_sideStep_of_others (by simp [hs]), startAddition_of_first ha hw hs hd hst hx, hw]
    rfl
  case adds =>
    intro s t w img img' hw ha hs hl hwr x hi hadd
    rw [exec_rickAddition_of_acts hl, hw, forAll_singleton, finishAddition_in_place hw hwr hi hadd]
    generalize hu : postWrite t .rick .ember w.bil img' (.ember w.bil) _ = u
    have rick : (u.tile t).rick = { (s.tile t).rick with works := [{ w with wrote := true }] } := by
      rw [← hu, postWrite_rick, State.setTile_self]
    rw [forAll_sideStep_of_others (by simp [rick, hs]), startAddition_of_empty (by rw [rick, ha]), ← hu]
  case side =>
    intro s t a img j used hs hw ha hl hn hwr x n k m hp hi hf
    have probe := sideStep_of_found hs hwr hp hi hf
    have sides : ((sideStep t n s).tile t).rick.sides = [{ a with wrote := true }] := by rw [probe, postWrite_rick, State.setTile_self]
    have adds : ((sideStep t n s).tile t).rick.adds = [] := by rw [probe, postWrite_rick, State.setTile_self, ha]
    have of_stream : ∀ b ∈ (s.tile t).rick.sides, b.cont.stream = n := by
      rw [hs]
      exact List.forall_mem_singleton.mpr rfl
    have still_of_stream : ∀ b ∈ ((sideStep t n s).tile t).rick.sides, b.cont.stream = n := by
      rw [sides]
      exact List.forall_mem_singleton.mpr rfl
    rw [exec_rickAddition_of_acts hl, hw, forAll_nil, forAll_sideStep_of_single (List.mem_range.mpr hn) List.nodup_range of_stream still_of_stream,
      startAddition_of_empty adds, probe]
  case credit =>
    intro s t q e c r b hq hd ho hg hw hr hb hh x n k hroom d vals u
    have sends := exec_handoffCredit_of_room hq hd ho hg hw hr hb hh hroom
    refine ⟨fun hmore => ?_, fun hlast => ?_⟩
    · rw [sends, if_neg hmore, if_neg hmore]
    · rw [sends, if_pos hlast, if_pos hlast]

end Sys2Proof.Machine
end

section
/-! PROOFS. Additions of contributions: exact in every ember word and side-table entry of a buffer of whole billets, and not in one that ends within a billet (R237 to R240). -/

namespace Sys2Proof.Machine

/-! ### Bytes replaced in a billet -/

section
variable {b bs : List Byte} {o : Nat} (h : o + bs.length ≤ b.length)
include h

theorem overlay_length : (overlay b o bs).length = b.length := by
  simp only [overlay, List.length_append, List.length_take, List.length_drop]
  omega

theorem getElem?_overlay (i : Nat) : (overlay b o bs)[i]? = if o ≤ i ∧ i < o + bs.length then bs[i - o]? else b[i]? := by
  have front : (b.take o ++ bs).length = o + bs.length := by
    rw [List.length_append, List.length_take]
    omega
  rw [overlay, List.getElem?_append, front]
  by_cases hlt : i < o + bs.length
  · rw [if_pos hlt, List.getElem?_append, List.length_take, Nat.min_eq_left (by omega)]
    by_cases hi : i < o
    · rw [if_pos hi, if_neg (by omega), List.getElem?_take_of_lt hi]
    · rw [if_neg hi, if_pos (by omega)]
  · rw [if_neg hlt, if_neg (by omega), List.getElem?_drop]
    congr 1
    omega

/-- The bytes put in are read back. -/
theorem slice_overlay_same : ((overlay b o bs).drop o).take bs.length = bs := by
  refine List.ext_getElem? fun i => ?_
  rw [List.getElem?_take, List.getElem?_drop, getElem?_overlay h, Nat.add_sub_cancel_left]
  by_cases hi : i < bs.length
  · rw [if_pos hi, if_pos (by omega)]
  · rw [if_neg hi, List.getElem?_eq_none (by omega)]

/-- Bytes beside those put in are as before. -/
theorem slice_overlay_other {a n : Nat} (ha : a + n ≤ o ∨ o + bs.length ≤ a) : ((overlay b o bs).drop a).take n = (b.drop a).take n := by
  refine List.ext_getElem? fun i => ?_
  rw [List.getElem?_take, List.getElem?_take, List.getElem?_drop, List.getElem?_drop, getElem?_overlay h]
  by_cases hi : i < n
  · rw [if_pos hi, if_pos hi, if_neg (by omega)]
  · rw [if_neg hi, if_neg hi]

end

/-! ### Ember words (R238, R239) -/

theorem emberWord_overlay_same {img : List Byte} {o : Nat} (h : o + 32 ≤ img.length) (x : BitVec 256) :
    emberWord (overlay img o (natLe 32 x.toNat)) o = x := by
  have hb : o + (natLe 32 x.toNat).length ≤ img.length := by rwa [natLe_length]
  have word := slice_overlay_same hb
  rw [natLe_length] at word
  rw [emberWord, bytesAt, word, leNat_natLe, Nat.mod_eq_of_lt (x.isLt.trans_le (by decide)), BitVec.ofNat_toNat, BitVec.setWidth_eq]

theorem emberWord_overlay_other {img : List Byte} {o a : Nat} (h : o + 32 ≤ img.length) (ha : a + 32 ≤ o ∨ o + 32 ≤ a) (v : Nat) :
    emberWord (overlay img o (natLe 32 v)) a = emberWord img a := by
  rw [emberWord, emberWord, bytesAt, bytesAt, slice_overlay_other (by rwa [natLe_length]) (by rwa [natLe_length])]

/-- The weight of an ember word's unit, in units of the exact sum. -/
def RickStream.unit (k : RickStream) : Int := 2 ^ (k.anchor + 286).toNat

/-- The value that the ember word at a byte of a billet stands for. -/
def RickStream.wordValue (k : RickStream) (img : List Byte) (o : Nat) : BitVec 640 := BitVec.ofInt 640 ((emberWord img o).toInt * k.unit)

/-- What is added in place has no flags, and the sum of word and contribution is a whole number of units that fits the word. -/
theorem addWord_some {k : RickStream} {img img' : List Byte} {e : Nat} {v : LimbVal} (h : addWord k img e v = some img') :
    let o := (k.word (e - k.first)).2
    v.flags = 0 ∧ ∃ q : Int, q * k.unit = (emberWord img o).toInt * k.unit + v.limbs.toInt ∧ -(2 ^ 255) ≤ q ∧ q < 2 ^ 255 ∧
      img' = overlay img o (natLe 32 (BitVec.ofInt 256 q).toNat) := by
  unfold addWord at h
  dsimp only at h ⊢
  split at h
  next hc =>
    simp only [Bool.and_eq_true, decide_eq_true_eq] at hc
    obtain ⟨⟨⟨flags, whole⟩, low⟩, high⟩ := hc
    refine ⟨flags, _, ?_, low, high, (Option.some.inj h).symm⟩
    rw [Int.add_mul, RickStream.unit, Int.ediv_mul_cancel (Int.dvd_of_emod_eq_zero whole)]
  next => cases h

theorem toInt_ofInt_of_fits {q : Int} (hl : -(2 ^ 255) ≤ q) (hh : q < 2 ^ 255) : (BitVec.ofInt 256 q).toInt = q := by
  rw [BitVec.toInt_ofInt]
  exact Int.bmod_eq_of_le (by omega) (by omega)

section
variable {k : RickStream} {img img' : List Byte} {e : Nat} {v : LimbVal} (h : addWord k img e v = some img')
include h

theorem addWord_length (hi : (k.word (e - k.first)).2 + 32 ≤ img.length) : img'.length = img.length := by
  obtain ⟨-, q, -, -, -, rfl⟩ := addWord_some h
  exact overlay_length (by rwa [natLe_length])

/-- The word of the element takes the whole contribution. -/
theorem addWord_wordValue_same (hi : (k.word (e - k.first)).2 + 32 ≤ img.length) :
    k.wordValue img' (k.word (e - k.first)).2 = k.wordValue img (k.word (e - k.first)).2 + v.limbs := by
  obtain ⟨-, q, sum, hl, hh, rfl⟩ := addWord_some h
  rw [RickStream.wordValue, emberWord_overlay_same hi, toInt_ofInt_of_fits hl hh, sum, BitVec.ofInt_add, BitVec.ofInt_toInt]
  rfl

/-- Every word beside it is as before. -/
theorem addWord_wordValue_other (hi : (k.word (e - k.first)).2 + 32 ≤ img.length) {o : Nat}
    (ho : o + 32 ≤ (k.word (e - k.first)).2 ∨ (k.word (e - k.first)).2 + 32 ≤ o) : k.wordValue img' o = k.wordValue img o := by
  obtain ⟨-, q, -, -, -, rfl⟩ := addWord_some h
  rw [RickStream.wordValue, emberWord_overlay_other hi ho]
  rfl

end

/-! ### Additions to a buffer of whole billets (R237 to R239) -/

/-- A check whose code R451 orders has passed when no code was picked. -/
theorem passed_of_pickCode {xs : List (Bool × Nat)} (h : pickCode xs = none) {failed : Bool} {c : Nat} (hp : (failed, c) ∈ xs)
    (hc : c ∈ [0x01, 0x04, 0x03, 0x05, 0x06, 0x02, 0x07, 0x09, 0x0F]) : failed = false := by
  have unpicked := List.find?_eq_none.mp h c hc
  rw [List.any_eq_true, not_exists] at unpicked
  simpa [hp] using unpicked (failed, c)

/-- Every accumulating stream that a DEFINE sets up has whole billets and segments that do not overlap (R237). -/
theorem definedStream_whole_billets {q : QEntry} {e : MapEntry} (hc : pickCode (rickChecks e q.cmd) = none) (ho : rOp q.cmd = 1)
    (hf : rForward q.cmd = false) :
    (definedStream q e).elements % 64 = 0 ∧ (definedStream q e).elements / 64 ≤ (definedStream q e).segGap := by
  have sized : (rOp q.cmd = 1 && !rForward q.cmd && (rElements q.cmd = 0 || rElements q.cmd % 64 ≠ 0 || 32768 < rElements q.cmd)) = false :=
    passed_of_pickCode hc (c := 0x02) (by simp [rickChecks]) (by decide)
  have spaced : (rOp q.cmd = 1 && !rForward q.cmd && rSegGap q.cmd < rElements q.cmd / 64) = false :=
    passed_of_pickCode hc (c := 0x02) (by simp [rickChecks]) (by decide)
  rw [definedStream_accumulate hf]
  simp only [ho, hf, decide_true, Bool.not_false, Bool.and_self, Bool.true_and, Bool.or_eq_false_iff, decide_eq_false_iff_not, not_not, not_lt] at sized spaced
  exact ⟨sized.1.2, spaced⟩

/-- In a buffer of whole billets, whose segments do not overlap, every element has an ember word of its own. -/
theorem RickStream.word_injective {k : RickStream} (h64 : k.elements % 64 = 0) (hg : k.elements / 64 ≤ k.segGap) {r r' : Nat}
    (hr : r < k.elements) (hr' : r' < k.elements) (h : k.word r = k.word r') : r = r' := by
  have column {j : Nat} (hj : j < k.elements) : j / 64 < k.segGap := by omega
  obtain ⟨hb, ho⟩ := Prod.mk.inj h
  have hb' : (r / 16 % 4) * k.segGap + r / 64 = (r' / 16 % 4) * k.segGap + r' / 64 := by omega
  have columns : r / 64 = r' / 64 := by
    have := congrArg (· % k.segGap) hb'
    simpa only [Nat.mul_add_mod', Nat.mod_eq_of_lt (column hr), Nat.mod_eq_of_lt (column hr')] using this
  have segments : r / 16 % 4 = r' / 16 % 4 := by
    rw [columns] at hb'
    exact Nat.eq_of_mul_eq_mul_right (Nat.zero_lt_of_lt (column hr)) (Nat.add_right_cancel hb')
  omega

theorem RickStream.word_room (k : RickStream) (j : Nat) : (k.word j).2 + 32 ≤ 512 := by
  change 32 * (j % 16) + 32 ≤ 512
  omega

section
variable {k : RickStream} (h64 : k.elements % 64 = 0) (hg : k.elements / 64 ≤ k.segGap) {r : Nat} (hr : r < k.elements)
include h64 hg hr

/-- The words of two elements in one billet lie apart. -/
theorem RickStream.word_apart {r' : Nat} (hr' : r' < k.elements) (hb : (k.word r).1 = (k.word r').1) (hne : r ≠ r') :
    (k.word r).2 + 32 ≤ (k.word r').2 ∨ (k.word r').2 + 32 ≤ (k.word r).2 := by
  have places : (k.word r).2 ≠ (k.word r').2 := fun ho => hne (RickStream.word_injective h64 hg hr hr' (Prod.ext hb ho))
  change 32 * (r % 16) ≠ 32 * (r' % 16) at places
  change 32 * (r % 16) + 32 ≤ 32 * (r' % 16) ∨ 32 * (r' % 16) + 32 ≤ 32 * (r % 16)
  omega

/-- A contribution added in place raises the sum of its own element, and of no other. -/
theorem addWord_wordValue {img img' : List Byte} {e : Nat} {v : LimbVal} (hi : img.length = 512) (he : k.first ≤ e) (hin : e - k.first < k.elements)
    (hb : (k.word r).1 = (k.word (e - k.first)).1) (h : addWord k img e v = some img') :
    k.wordValue img' (k.word r).2 = k.wordValue img (k.word r).2 + (if e = k.first + r then v.limbs else 0) := by
  have room : (k.word (e - k.first)).2 + 32 ≤ img.length := hi ▸ k.word_room _
  by_cases own : e - k.first = r
  · have own_sum := addWord_wordValue_same h room
    rw [own] at own_sum
    rw [own_sum, if_pos (by omega)]
  · rw [addWord_wordValue_other h room (RickStream.word_apart h64 hg hr hin hb (Ne.symm own)), if_neg (by omega)]
    exact (BitVec.add_zero _).symm

end

/-- What a list of contributions gives to an element. -/
def givenTo (e : Nat) (l : List Contrib) : BitVec 640 := ((l.filter (fun c => c.elem = e)).map (·.value.limbs)).foldl (· + ·) 0

theorem givenTo_cons (e : Nat) (c : Contrib) (l : List Contrib) :
    givenTo e (c :: l) = (if c.elem = e then c.value.limbs else 0) + givenTo e l := by
  unfold givenTo
  by_cases hc : c.elem = e
  · rw [List.filter_cons_of_pos (by simpa using hc), List.map_cons, List.foldl_cons, if_pos hc, BitVec.add_comm, List.foldl_assoc]
  · rw [List.filter_cons_of_neg (by simpa using hc), if_neg hc]
    exact (BitVec.zero_add _).symm

/-- What O25 says of additions in place holds of a buffer of whole billets: word and left-over parts together keep the sum, and what is added has no flags. -/
theorem addWords_exact {k : RickStream} (h64 : k.elements % 64 = 0) (hg : k.elements / 64 ≤ k.segGap) {b r : Nat} (hr : r < k.elements)
    (hb : (k.word r).1 = b) {cs : List Contrib}
    (hcs : ∀ c ∈ cs, k.first ≤ c.elem ∧ c.elem - k.first < k.elements ∧ (k.word (c.elem - k.first)).1 = b) {img : List Byte} (hi : img.length = 512) :
    let p := addWords k cs img
    p.1.length = 512 ∧
    k.wordValue p.1 (k.word r).2 + givenTo (k.first + r) p.2 = k.wordValue img (k.word r).2 + givenTo (k.first + r) cs ∧
    (∀ c ∈ cs, c ∉ p.2 → c.value.flags = 0) := by
  induction cs generalizing img with
  | nil => exact ⟨hi, rfl, fun c hc => (List.not_mem_nil hc).elim⟩
  | cons c cs ih =>
    obtain ⟨⟨hfirst, hin, hbil⟩, hrest⟩ := List.forall_mem_cons.mp hcs
    rw [addWords]
    cases hadd : addWord k img c.elem c.value with
    | some img' =>
      dsimp only
      obtain ⟨hlen, hsum, hflags⟩ := ih hrest ((addWord_length hadd (hi ▸ k.word_room _)).trans hi)
      refine ⟨hlen, ?_, List.forall_mem_cons.mpr ⟨fun _ => (addWord_some hadd).1, hflags⟩⟩
      rw [hsum, givenTo_cons, ← BitVec.add_assoc, addWord_wordValue h64 hg hr hi hfirst hin (hb.trans hbil.symm) hadd]
    | none =>
      dsimp only
      obtain ⟨hlen, hsum, hflags⟩ := ih hrest hi
      refine ⟨hlen, ?_, List.forall_mem_cons.mpr ⟨fun hc => (hc List.mem_cons_self).elim, fun d hd hn => ?_⟩⟩
      · rw [givenTo_cons, givenTo_cons, add_left_comm, hsum, add_left_comm]
      · exact hflags d hd fun hm => hn (List.mem_cons_of_mem c hm)

/-! ### Side-table entries (R240) -/

theorem sideBytes_length (e : Nat) (v : LimbVal) : (sideBytes e v).length = 128 := by
  simp only [sideBytes, List.length_append, natLe_length]

theorem bytesAt_append_left {xs ys : List Byte} {a n : Nat} (h : a + n ≤ xs.length) : bytesAt (xs ++ ys) a n = bytesAt xs a n := by
  rw [bytesAt, bytesAt, List.drop_append_of_le_length (by omega), List.take_append_of_le_length (by rw [List.length_drop]; omega)]

theorem bytesAt_append_right {xs ys : List Byte} {a : Nat} (h : xs.length = a) (n : Nat) : bytesAt (xs ++ ys) a n = bytesAt ys 0 n := by
  rw [bytesAt, bytesAt, List.drop_left' h, List.drop_zero]

theorem bytesAt_natLe {n v : Nat} (h : v < 256 ^ n) : bytesAt (natLe n v) 0 n = v := by
  rw [bytesAt, List.drop_zero, List.take_of_length_le (natLe_length n v).le, leNat_natLe, Nat.mod_eq_of_lt h]

/-- The words of an entry: the element's index, the flags and the limbs. -/
theorem sideBytes_index {e : Nat} (he : e < 256 ^ 4) (v : LimbVal) : bytesAt (sideBytes e v) 0 4 = e := by
  rw [sideBytes, bytesAt_append_left, bytesAt_append_left, bytesAt_append_left, bytesAt_append_left, bytesAt_natLe he] <;>
    simp only [List.length_append, natLe_length, Nat.reduceAdd, Nat.reduceLeDiff]

theorem sideBytes_flags (e : Nat) (v : LimbVal) : bytesAt (sideBytes e v) 4 2 = v.flags <<< 11 := by
  have small : v.flags <<< 11 < 256 ^ 2 := by
    have := v.flags_lt
    rw [Nat.shiftLeft_eq]
    omega
  rw [sideBytes, bytesAt_append_left, bytesAt_append_left, bytesAt_append_left, bytesAt_append_right (natLe_length 4 e), bytesAt_natLe small] <;>
    simp only [List.length_append, natLe_length, Nat.reduceAdd, Nat.reduceLeDiff]

theorem sideBytes_limbs (e : Nat) (v : LimbVal) : bytesAt (sideBytes e v) 16 80 = v.limbs.toNat := by
  have fits : v.limbs.toNat < 256 ^ 80 := by
    rw [show (256 : Nat) = 2 ^ 8 from rfl, ← Nat.pow_mul]
    exact v.limbs.toNat_lt_twoPow_of_le (n := 8 * 80) (by decide)
  have front : (natLe 4 e ++ natLe 2 (v.flags <<< 11) ++ natLe 10 0).length = 16 := by simp only [List.length_append, natLe_length]
  rw [sideBytes, bytesAt_append_left (by simp only [List.length_append, natLe_length, Nat.reduceAdd, Nat.reduceLeDiff]), bytesAt_append_right front,
    bytesAt_natLe fits]

/-- What is held in an entry is read back with its flags. -/
theorem sideValue_sideBytes (e : Nat) (v : LimbVal) : sideValue (sideBytes e v) = v := by
  have flags : bf (v.flags <<< 11) 11 4 = v.flags := by rw [bf, Nat.shiftLeft_shiftRight, Nat.mod_eq_of_lt v.flags_lt]
  rw [sideValue, sideBytes_limbs, sideBytes_flags, flags, BitVec.ofNat_toNat, BitVec.setWidth_eq, v.mk'_flags]

/-- An entry written into a billet of the side table is read back, and the other entries of the billet are as before (R240). -/
theorem sideEntry_written {img : List Byte} {e j : Nat} (v : LimbVal) (hi : img.length = 512) (he : e < 256 ^ 4) (hj : j < 4) :
    let i := overlay img (128 * j) (sideBytes e v)
    i.length = 512 ∧ bytesAt i (128 * j) 4 = e ∧ sideValue ((i.drop (128 * j)).take 128) = v ∧
    (∀ m < 4, m ≠ j → (i.drop (128 * m)).take 128 = (img.drop (128 * m)).take 128) := by
  have room : 128 * j + (sideBytes e v).length ≤ img.length := by
    rw [sideBytes_length]
    omega
  have entry := slice_overlay_same room
  rw [sideBytes_length] at entry
  have index := congrArg (List.take 4) entry
  rw [List.take_take, Nat.min_eq_left (by omega)] at index
  refine ⟨(overlay_length room).trans hi, ?_, ?_, fun m hm hne => ?_⟩
  · rw [bytesAt, index]
    exact sideBytes_index he v
  · rw [entry, sideValue_sideBytes]
  · exact slice_overlay_other room (by rw [sideBytes_length]; omega)

/-! ### Sums of values (R239) -/

theorem LimbVal.flags_mk' (l : BitVec 640) {f : Nat} (hf : f < 2 ^ 4) : (LimbVal.mk' l f).flags = f := by
  have h : ∀ f : Fin 16, (LimbVal.mk' 0 f).flags = f := by decide
  exact h ⟨f, hf⟩

theorem LimbVal.add_flags (a b : LimbVal) : (a.add b).flags = a.flags ||| b.flags :=
  LimbVal.flags_mk' _ (Nat.or_lt_two_pow a.flags_lt b.flags_lt)

/-! ### A buffer that ends within a billet (R237, R238) -/

/-- A stream of 65 elements, which DEFINE refuses (R237): with a segment gap of 1 its elements 16 and 64 share an ember word. -/
def raggedStream : RickStream := { anchor := -286, elements := 65, segGap := 1 }

/-- One unit for element 16. -/
def raggedContrib : Contrib := { elem := 16, value := { limbs := 1 } }

theorem raggedStream_shares_word : raggedStream.word 16 = (1, 0) ∧ raggedStream.word 64 = (1, 0) := by decide

/-- The contribution is added in place. -/
theorem raggedStream_adds_in_place :
    addWords raggedStream [raggedContrib] (List.replicate 512 0) = (overlay (List.replicate 512 0) 0 (natLe 32 (1 : BitVec 256).toNat), []) := by
  decide +kernel

theorem emberWord_zeros (n o : Nat) : emberWord (List.replicate n 0) o = 0 := by
  rw [emberWord, bytesAt_replicate_zero]
  rfl

/-- Refutes O25: the statement does not ask for whole billets (ELEMENTS a multiple of 64, R237), without which two elements may share an ember word (`RickStream.word_injective` needs it): what is given to element 16 changes the sum of element 64, to which nothing is given. -/
theorem not_rickAdditionExact : ¬ Obligations.RickAdditionExact := by
  unfold Obligations.RickAdditionExact
  rintro ⟨words, -, -⟩
  obtain ⟨-, sum, -⟩ := words raggedStream [raggedContrib] (List.replicate 512 0) 1 64 List.length_replicate (by decide) (by decide) (by decide)
    (by decide) rfl (by decide)
  dsimp only at sum
  rw [raggedStream_shares_word.2, raggedStream_adds_in_place, emberWord_zeros,
    emberWord_overlay_same (by rw [List.length_replicate]; omega)] at sum
  simp [raggedStream, raggedContrib] at sum

end Sys2Proof.Machine
end

section
/-! PROOFS. STOKER_RECORD_APPLY: the ranges that a record's update writes, and what it leaves of the stacks, the bucket and a capture in course (R246, R248, R254, R255, R261, R267). -/

namespace Sys2Proof.Machine

/-! ### Stacks that a request reaches (R177, R308) -/

theorem touchStack_stack (k : Nat) (s : State) (j : Nat) :
    ∃ t st, (touchStack k s).stack j = { s.stack j with lastReq := t, st := st } := by
  unfold touchStack
  by_cases h : j = k
  · subst h
    exact ⟨_, _, State.modStack_self ..⟩
  · exact ⟨_, _, State.modStack_ne _ _ _ _ h⟩

/-- What does not look at the time of the last request or at the power state sees the stacks of a touched range as they were. -/
theorem touchRange_stack {α : Type} {f : Stack → α} (hf : ∀ q t st, f { q with lastReq := t, st := st } = f q) (a n : Nat) (s : State) (j : Nat) :
    f ((touchRange a n s).stack j) = f (s.stack j) := by
  unfold touchRange forAll
  induction s.stacksOf a n generalizing s with
  | nil => rfl
  | cons k ks ih =>
    obtain ⟨t, st, touched⟩ := touchStack_stack k s j
    rw [List.foldl_cons, ih, touched, hf]

/-! ### A capture in course (R395) -/

theorem noteStoked_rest (a n : Nat) (s : State) : noteStoked a n s = { s with forn := (noteStoked a n s).forn } := by
  unfold noteStoked
  dsimp only
  split_ifs <;> rfl

theorem noteStoked_forn (a n : Nat) (s : State) :
    (noteStoked a n s).forn = { s.forn with cap := { s.forn.cap with stoked := (noteStoked a n s).forn.cap.stoked } } := by
  unfold noteStoked
  dsimp only
  split_ifs <;> rfl

theorem noteStoked_of_no_capture {s : State} (a n : Nat) (h : s.forn.cap.st ≠ 2) : noteStoked a n s = s :=
  if_neg (by simp [h])

/-! ### A packet leaves the staging queue, and its record's results reach HBM (R246, R254, R255, R261) -/

/-- `t` is `s` with packet `p` off the staging queue of stack `k`: HBM may be written and a capture may have noted it, and the record is not booked yet. -/
structure PacketTaken (s : State) (k : Nat) (p : Packet) (t : State) : Prop where
  rest : { t with hbm := s.hbm, hbmStacks := s.hbmStacks, buckets := s.buckets, forn := s.forn } = s
  buckets : t.buckets = s.buckets
  forn : t.forn = { s.forn with cap := { s.forn.cap with stoked := t.forn.cap.stoked } }
  no_capture : s.forn.cap.st ≠ 2 → t.forn = s.forn
  staged : (t.stack k).staged = (s.stack k).staged.erase p
  applied : (t.stack k).applied = (s.stack k).applied

/-- The stack is touched and packet `p` leaves its queue. -/
def takePacket (k : Nat) (p : Packet) (s : State) : State :=
  (touchStack k s).modStack k (fun q => { q with staged := q.staged.erase p })

theorem takePacket_taken (k : Nat) (p : Packet) (s : State) : PacketTaken s k p (takePacket k p s) := by
  have taken : (takePacket k p s).stack k = { (touchStack k s).stack k with staged := ((touchStack k s).stack k).staged.erase p } :=
    State.modStack_self ..
  obtain ⟨t, st, touched⟩ := touchStack_stack k s k
  rw [touched] at taken
  exact ⟨rfl, rfl, rfl, fun _ => rfl, by rw [taken], by rw [taken]⟩

namespace PacketTaken

variable {s t : State} {k : Nat} {p : Packet} (h : PacketTaken s k p t)
include h

theorem bucket (n : Nat) : t.bucket n = s.bucket n := congrArg (fun m => sget m n) h.buckets

theorem touchRange (a n : Nat) : PacketTaken s k p (touchRange a n t) where
  rest := by
    rw [touchRange_rest]
    exact h.rest
  buckets := by
    rw [touchRange_rest]
    exact h.buckets
  forn := by
    rw [touchRange_rest]
    exact h.forn
  no_capture := by
    rw [touchRange_rest]
    exact h.no_capture
  staged := (touchRange_stack (f := (·.staged)) (fun _ _ _ => rfl) a n t k).trans h.staged
  applied := (touchRange_stack (f := (·.applied)) (fun _ _ _ => rfl) a n t k).trans h.applied

theorem hbmWrite (a : Nat) (bs : List Byte) : PacketTaken s k p (t.hbmWrite a bs) := { h with rest := h.rest }

theorem noteStoked (a n : Nat) : PacketTaken s k p (noteStoked a n t) where
  rest := by
    rw [noteStoked_rest]
    exact h.rest
  buckets := by
    rw [noteStoked_rest]
    exact h.buckets
  forn := by
    rw [noteStoked_forn, h.forn]
  no_capture hc := by
    have still : t.forn.cap.st ≠ 2 := by rwa [h.no_capture hc]
    rw [noteStoked_of_no_capture a n still]
    exact h.no_capture hc
  staged := by
    rw [noteStoked_rest]
    exact h.staged
  applied := by
    rw [noteStoked_rest]
    exact h.applied

theorem modStack {f : Stack → Stack} (hf : ∀ q, (f q).staged = q.staged ∧ (f q).applied = q.applied) : PacketTaken s k p (t.modStack k f) :=
  { h with
    staged := by rw [State.modStack_self, (hf _).1, h.staged]
    applied := by rw [State.modStack_self, (hf _).2, h.applied] }

end PacketTaken

/-- Line requests of a range to stacks on another die than stack `k` (R24). -/
def farLines (s : State) (k x m : Nat) : Nat :=
  ((pieces s.granule 2 x m).map (fun q => if dieOfStack (s.stackOf q.1) = dieOfStack k then 0 else linesOf q.1 q.2)).sum

/-- The record, the working copy and the scale are written at their three addresses, and stack `k` of the package `s` counts the update. -/
def writeResults (s : State) (k a wa sa : Nat) (new work scale : List Byte) (sat : Bool) (t : State) : State :=
  (noteStoked wa work.length <| noteStoked sa scale.length <|
    ((touchRange wa work.length (touchRange sa scale.length t)).hbmWrite a new |>.hbmWrite wa work).hbmWrite sa scale).modStack k (fun q => { q with
      remoteW := q.remoteW + BitVec.ofNat 64 (farLines s k wa work.length + farLines s k sa scale.length)
      satRecords := q.satRecords + BitVec.ofNat 64 (b2n sat) })

section
variable (s : State) (k a wa sa : Nat) (new work scale : List Byte) (sat : Bool)

theorem writeResults_hbm (t : State) :
    (writeResults s k a wa sa new work scale sat t).hbm = memWrite (memWrite (memWrite t.hbm a new) wa work) sa scale := by
  rw [writeResults, State.modStack_hbm, noteStoked_rest, noteStoked_rest, touchRange_rest, touchRange_rest]
  rfl

variable {s k} in
theorem writeResults_taken {t : State} {p : Packet} (h : PacketTaken s k p t) : PacketTaken s k p (writeResults s k a wa sa new work scale sat t) :=
  (((((h.touchRange _ _).touchRange _ _).hbmWrite _ _).hbmWrite _ _).hbmWrite _ _).noteStoked _ _ |>.noteStoked _ _ |>.modStack fun _ => ⟨rfl, rfl⟩

end

/-- A byte in none of three ranges is as it was before they were written. -/
theorem memByte_three_writes {m : Memory} {a wa sa c : Nat} {new work scale : List Byte} (hn : c < a ∨ a + new.length ≤ c)
    (hw : c < wa ∨ wa + work.length ≤ c) (hs : c < sa ∨ sa + scale.length ≤ c) :
    memByte (memWrite (memWrite (memWrite m a new) wa work) sa scale) c = memByte m c := by
  rw [memByte_memWrite_out scale _ sa c hs, memByte_memWrite_out work _ wa c hw, memByte_memWrite_out new m a c hn]

/-! ### The record is booked (R248, R261, R263, R267) -/

theorem State.modBucket_of_some {s : State} {n : Nat} {b : Bucket} (h : s.bucket n = some b) (f : Bucket → Bucket) :
    s.modBucket n f = s.setBucket n (f b) := by
  rw [State.modBucket, h]

section
variable {s t : State} {k n : Nat} {b : Bucket} {p : Packet} (recNo : Nat) (crc : BitVec 64) (ap : Bool) (f : Bucket → Bucket)

theorem bookRecord_hbm : (bookRecord n k recNo crc ap f t).hbm = t.hbm := by
  rw [bookRecord, State.modStack_hbm, State.modBucket_hbm]

theorem bookRecord_bucket (hb : t.bucket n = some b) :
    (bookRecord n k recNo crc ap f t).bucket n = some (f { b with doneRecs := b.doneRecs ++ [recNo], parts := smod b.parts k 0 (· + crc) }) := by
  rw [bookRecord, State.modBucket_of_some hb]
  exact State.setBucket_self ..

/-- A state that differs from `s` in four fields at most is `s` with these four. -/
theorem State.eq_of_rest {u : State} (h : { u with hbm := s.hbm, hbmStacks := s.hbmStacks, buckets := s.buckets, forn := s.forn } = s) :
    u = { s with hbm := u.hbm, hbmStacks := u.hbmStacks, buckets := u.buckets, forn := u.forn } := by
  conv_rhs => rw [← h]

/-- Booking changes the bucket, and the count of the stack that has taken the packet. -/
theorem bookRecord_frame (h : PacketTaken s k p t) (hb : t.bucket n = some b) :
    let u := bookRecord n k recNo crc ap f t
    u = { s with hbm := u.hbm, hbmStacks := u.hbmStacks, buckets := u.buckets, forn := u.forn } ∧
    u.forn = { s.forn with cap := { s.forn.cap with stoked := u.forn.cap.stoked } } ∧ (s.forn.cap.st ≠ 2 → u.forn = s.forn) ∧
    (u.stack k).staged = (s.stack k).staged.erase p ∧ (u.stack k).applied = (s.stack k).applied + BitVec.ofNat 64 (b2n ap) := by
  rw [bookRecord, State.modBucket_of_some hb]
  refine ⟨State.eq_of_rest h.rest, h.forn, h.no_capture, ?_, ?_⟩
  · rw [State.modStack_self]
    exact h.staged
  · rw [State.modStack_self]
    exact congrArg (· + _) h.applied

end

/-! ### STOKER_RECORD_APPLY -/

/-! The counts of a round at stack `k` (R248, R253, R263). -/

def Bucket.countMalformed (k : Nat) (b : Bucket) : Bucket := { b with malformed := smod b.malformed k 0 (satAdd 16 · 1) }

def Bucket.countNonfinite (k : Nat) (b : Bucket) : Bucket := { b with nonfinite := smod b.nonfinite k 0 (satAdd 16 · 1) }

def Bucket.countSaturated (k : Nat) (sat : Bool) (b : Bucket) : Bucket :=
  { b with saturated := if sat then smod b.saturated k 0 (satAdd 16 · 1) else b.saturated }

/-- What the outcome of packet `p` of bucket `b` makes of `s` at stack `k`: a record that cannot be updated is counted, another is written, and each is booked. -/
def bookOutcome (k n : Nat) (b : Bucket) (p : Packet) (s : State) : Applied → State
  | .malformed =>
    bookRecord n k p.recNo (crc64 (s.hbmRead (b.base + 256 * p.recNo) 256)) false (Bucket.countMalformed k) (takePacket k p s)
  | .nonfinite =>
    bookRecord n k p.recNo (crc64 (s.hbmRead (b.base + 256 * p.recNo) 256)) false (Bucket.countNonfinite k) (takePacket k p s)
  | .done new work scale sat =>
    bookRecord n k p.recNo (crc64 new) true (Bucket.countSaturated k sat) (writeResults s k (b.base + 256 * p.recNo)
      (bf b.desc.toNat 320 48 + work.length * p.recNo) (bf b.desc.toNat 384 48 + p.recNo) new work scale sat (takePacket k p s))

theorem bookOutcome_done_hbm (k n : Nat) (b : Bucket) (p : Packet) (s : State) (new work scale : List Byte) (sat : Bool) :
    (bookOutcome k n b p s (.done new work scale sat)).hbm = memWrite (memWrite (memWrite s.hbm (b.base + 256 * p.recNo) new)
      (bf b.desc.toNat 320 48 + work.length * p.recNo) work) (bf b.desc.toNat 384 48 + p.recNo) scale :=
  (bookRecord_hbm ..).trans (writeResults_hbm ..)

/-- The oldest packet of a record not updated in the round is taken, and its record goes through the optimiser step. -/
theorem exec_stokerRecordApply_of_staged {s : State} {k : StackId} {n : Fin 1024} {b : Bucket} {p : Packet} (hb : s.bucket n = some b)
    (hr : b.st = .running) (hq : s.statues = false) (hf : s.stackFenced k = false) (ha : (s.stack k).st = .active)
    (hp : (s.stack k).staged.find? (fun p => p.bucket = n.val && !b.doneRecs.contains p.recNo) = some p) :
    exec (.stokerRecordApply k n .clean) s =
      .next (bookOutcome k n b p s (applyRecord b.desc (s.hbmRead (b.base + 256 * p.recNo) 256) p.vals)) := by
  change execStokerRecordApply k n .clean s = _
  rw [execStokerRecordApply, hb]
  dsimp only
  rw [hp]
  dsimp only
  rw [if_neg (by simp [hr, hq, hf]), if_neg (by simp [ha])]
  cases applyRecord b.desc (s.hbmRead (b.base + 256 * p.recNo) 256) p.vals with
  | malformed => rfl
  | nonfinite => rfl
  | done new work scale sat => cases sat <;> rfl

/-- Settles O27: whatever the outcome, the packet is taken and its record booked; of an updated record the three ranges are written before. -/
theorem recordApplyChangesItsRanges : Obligations.RecordApplyChangesItsRanges := by
  unfold Obligations.RecordApplyChangesItsRanges
  intro s k n b p hb hr hq hf ha hp a old
  have taken := takePacket_taken k p s
  have bucket := (taken.bucket n).trans hb
  refine ⟨_, exec_stokerRecordApply_of_staged hb hr hq hf ha hp, ?_⟩
  generalize applyRecord b.desc old p.vals = outcome
  cases outcome with
  | malformed =>
    obtain ⟨rest, forn, no_capture, staged, applied⟩ := bookRecord_frame p.recNo (crc64 old) false (Bucket.countMalformed k) taken bucket
    exact ⟨rest, forn, no_capture, staged, applied.trans (BitVec.add_zero _), _, bookRecord_bucket _ _ _ _ bucket, rfl, rfl, hr, rfl, rfl, bookRecord_hbm ..⟩
  | nonfinite =>
    obtain ⟨rest, forn, no_capture, staged, applied⟩ := bookRecord_frame p.recNo (crc64 old) false (Bucket.countNonfinite k) taken bucket
    exact ⟨rest, forn, no_capture, staged, applied.trans (BitVec.add_zero _), _, bookRecord_bucket _ _ _ _ bucket, rfl, rfl, hr, rfl, rfl, bookRecord_hbm ..⟩
  | done new work scale sat =>
    have written := writeResults_taken a (bf b.desc.toNat 320 48 + work.length * p.recNo) (bf b.desc.toNat 384 48 + p.recNo) new work scale sat taken
    have bucket := (written.bucket n).trans hb
    obtain ⟨rest, forn, no_capture, staged, applied⟩ := bookRecord_frame p.recNo (crc64 new) true (Bucket.countSaturated k sat) written bucket
    have hbm := bookOutcome_done_hbm k n b p s new work scale sat
    exact ⟨rest, forn, no_capture, staged, applied, _, bookRecord_bucket _ _ _ _ bucket, rfl, rfl, hr, rfl, rfl, hbm, fun c hn hw hs =>
      (congrArg (memByte · c) hbm).trans (memByte_three_writes hn hw hs)⟩

end Sys2Proof.Machine
end

section
/-! PROOFS. The stokers' rounds: a hand-off packet is staged, a round completes or times out, and fingerprints are compared (R258, R260, R261, R263, R264, R267 to R269). -/

namespace Sys2Proof.Machine

/-! ### Packets (R258, R260) -/

/-- A packet of a bucket that can still take it is staged at the stack of its record. -/
theorem exec_handoffPacketArrival_of_packet {s : State} {p : Packet} {r : List Packet} {b : Bucket} (hp : s.handoffs = p :: r)
    (hb : s.bucket p.bucket = some b) (hf : b.st ≠ .failed) :
    exec (.handoffPacketArrival .clean) s = .next (nextRound p.bucket
      ((({ s with handoffs := r } : State).modTile p.src (fun x => { x with rick := { x.rick with unaccepted := x.rick.unaccepted - 1 } })).modStack
        (recordStack s b p.recNo) (fun q => { q with staged := q.staged ++ [p] }))) := by
  change execHandoffPacketArrival .clean s = _
  rw [execHandoffPacketArrival, hp]
  dsimp only
  rw [hb]
  dsimp only
  rw [if_neg hf]
  rfl

/-! ### Rounds (R261, R263, R264, R267) -/

section
variable {s : State} {n : Fin 1024} {b : Bucket} (hb : s.bucket n = some b) (hr : b.st = .running)
include hb hr

theorem exec_roundComplete_of_done (hd : b.doneRecs.length = b.records) :
    let f := (b.parts.map (·.2)).foldl (· + ·) 0
    let fp : FpRound := { round := b.round + 1, total := f, parts := b.parts, step := dsStep b.desc }
    exec (.roundComplete n) s = .next (nextRound n (postEvent 0x05 b.ctx 0
      (natLe 2 n ++ natLe 1 b.ctx ++ natLe 1 0 ++ natLe 4 (dsStep b.desc) ++ natLe 8 (b.round + 1) ++ natLe 8 f.toNat)
      (s.setBucket n { b with st := .ready, round := b.round + 1, fps := (fp :: b.fps).take 4, lastNon := b.nonfinite, lastMal := b.malformed }))) := by
  change execRoundComplete n s = _
  rw [execRoundComplete, hb]
  dsimp only
  rw [if_neg (by simp [hr, hd])]

theorem exec_roundTimeout_of_late (ht : b.startTick + s.forn.watchdog ≤ s.cad.count.toNat) :
    let left := (List.range b.records).filter (fun r => !b.doneRecs.contains r)
    exec (.roundTimeout n) s = .next (failRound n (recordFault (pageKey 0x3C (lowestStack s b left)) 0x0F 0x2B s)) := by
  change execRoundTimeout n s = _
  rw [execRoundTimeout, hb]
  dsimp only
  rw [if_pos (by simp [hr, ht])]

end

/-! ### Fingerprints (R268, R269) -/

/-- A round of bucket `b` is due for comparison, and its partner has a print of it. -/
def comparable (s : State) (b : Bucket) (f : FpRound) : Bool :=
  0 < b.checkEvery && f.round % b.checkEvery = 0 && decide (b.compared < f.round) && (partnerPrint s b f.round).isSome

/-- Bucket `n` has compared the round of `f`; older prints of a partner beyond the cord are dropped. -/
def markCompared (n : Nat) (b : Bucket) (f : FpRound) (s : State) : State :=
  s.setBucket n { b with compared := f.round, partnerFps := b.partnerFps.filter (fun g => decide (f.round < g.round)) }

/-- The record of a mismatch with a partner in the package. -/
def mismatchBytes (s : State) (n : Nat) (b : Bucket) (f g : FpRound) : List Byte :=
  let same := (s.bucket b.partner).any (sameLayout s b)
  natLe 2 n ++ natLe 1 b.ctx ++ natLe 1 b.partnerCtx ++ natLe 4 f.step ++ natLe 8 f.round ++ natLe 8 f.total.toNat
    ++ natLe 8 g.total.toNat ++ natLe 1 (if same then firstDiffering f g else 0xFF) ++ natLe 1 (b2n same) ++ natLe 6 s.cad.count.toNat
    ++ List.replicate 24 0

section
variable {s : State} {n : Fin 1024} {b : Bucket} {f g : FpRound} (hb : s.bucket n = some b) (hf : b.fps.reverse.find? (comparable s b) = some f)
  (hg : partnerPrint s b f.round = some g)
include hb hf hg

theorem exec_fingerprintCompare_of_equal (h : f.total = g.total) : exec (.fingerprintCompare n) s = .next (markCompared n b f s) := by
  unfold comparable at hf
  change execFingerprintCompare n s = _
  rw [execFingerprintCompare, hb]
  dsimp only
  rw [hf]
  dsimp only
  rw [hg]
  dsimp only
  rw [if_pos h]
  rfl

theorem exec_fingerprintCompare_of_unequal {c : Ctx} (hp : b.partnerCtx ≠ 0xFF) (hc : s.ctx b.ctx = some c) (h : f.total ≠ g.total) :
    exec (.fingerprintCompare n) s = .next (dueHold c.model (postEvent 0x06 b.ctx 0 ((mismatchBytes s n b f g).take 40) { markCompared n b f s with
      mismatches := ({ bytes := mismatchBytes s n b f g } :: s.mismatches).take 64
      mismLost := if 64 ≤ s.mismatches.length then s.mismLost + 1 else s.mismLost })) := by
  unfold comparable at hf
  change execFingerprintCompare n s = _
  rw [execFingerprintCompare, hb]
  dsimp only
  rw [hf]
  dsimp only
  rw [hg]
  dsimp only
  rw [if_neg h, hc]
  simp only [hp, decide_false, Bool.false_eq_true, if_false, b2n, Nat.mul_zero, Nat.add_zero]
  rfl

end

/-- Settles O26: one equation for each of the stokers' four commands; a comparison with a partner in the package draws no free value. -/
theorem stokerCommandsComplete : Obligations.StokerCommandsComplete := by
  unfold Obligations.StokerCommandsComplete
  refine ⟨?packet, ?complete, ?timeout, ?compare⟩
  case packet =>
    intro s p r b hp hb hf
    exact exec_handoffPacketArrival_of_packet hp hb hf
  case complete =>
    intro s n b hb hr hd
    exact exec_roundComplete_of_done hb hr hd
  case timeout =>
    intro s n b hb hr ht
    exact exec_roundTimeout_of_late hb hr ht
  case compare =>
    intro s n b f g hb hp hf hg s1
    exact ⟨exec_fingerprintCompare_of_equal hb hf hg, fun h c hc => exec_fingerprintCompare_of_unequal hb hf hg hp hc h⟩

end Sys2Proof.Machine
end

section
/-! PROOFS. The action of each compare slot, and what stands beside the slots: the signing of a tally, and the edge on SYNC_IN (R268, R302 to R305, R313, R317 to R319, R386, R392, R399). -/

namespace Sys2Proof.Machine

/-! ### A slot acts (R303) -/

theorem onSlot_of_acts {s : State} {k : Nat} (h : s.slotActs k = true) (f : State → State) :
    onSlot k s f = f (s.modSlot k (fun x => { x with fire := false })) := if_pos h

/-- A device slot whose row is its action alone (the rows of slots 0, 2 to 5 and 7). -/
theorem next_onSlot_of_acts {s : State} {k : Nat} (h : s.slotActs k = true) (f : State → State) :
    (.next (onSlot k s f) : Host.Outcome State Fault Refusal) = .next (f (s.modSlot k (fun x => { x with fire := false }))) :=
  congrArg _ (onSlot_of_acts h f)

/-! ### The minute (R302, R304, R317 to R319) -/

theorem exec_tallyClose_of_acts {s : State} {e : Nat} (h : s.slotActs 1 = true) (he : s.pwr.cur.endTick = some e) (hp : s.powerRuns = true) :
    let u := s.modSlot 1 (fun x => { x with fire := false })
    exec .tallyClose s = .next { u with
      cad := { u.cad with openTick := e }
      pwr := { s.pwr with
        closing := some (s.tallyBody e), closeGen := s.sec.powerGen, cur := { s.freshMinute with energy := s.pwr.cur.energy % 1000 }
        restart := false, partialStart := false, exceeded := false, unreach := false } } := by
  intro u
  have ends : u.pwr.cur.endTick = some e := he
  have runs : u.powerRuns = true := hp
  change execTallyClose s = _
  rw [execTallyClose, onSlot_of_acts h]
  dsimp only
  rw [ends]
  dsimp only
  rw [if_neg (by simp [u, runs])]
  rfl

/-- A tally whose signing key is loaded. -/
theorem exec_tallySigned_of_key {s : State} {b : List Byte} {k : BitVec 256} (hb : s.pwr.closing = some b) (hk : s.pwr.powerKey = some k) :
    let r := b ++ (Config.sign s.pwr.closeGen b ++ List.replicate 64 0).take 64
    exec .tallySigned s = .next (postEvent 0x08 0xFF 0 (natLe 8 (bytesAt b 8 8) ++ natLe 4 (bytesAt b 28 4) ++ natLe 2 (bytesAt b 2 2))
      { s with pwr := { s.pwr with
        closing := none, tallies := sset s.pwr.tallies (bytesAt b 8 8 % 1440) r
        tallyBad := s.pwr.tallyBad.filter (· ≠ bytesAt b 8 8 % 1440), seq := bytesAt b 8 8, lost := bytesAt b 4 4, digest := digest r } }) := by
  change execTallySigned s = _
  rw [execTallySigned, hb]
  dsimp only
  simp only [hk]

/-! ### The counter snapshot (R386) -/

theorem exec_counterSnapshot_of_room {s : State} {a : Nat} {v : State} (h : s.slotActs 6 = true) :
    let u := s.modSlot 6 (fun x => { x with fire := false })
    reserveRecord 643904 u = (some a, v) →
    exec .counterSnapshot s = .next (nextSeq (v.hbmWrite a (varHeader 0x03 0 0xFF 0 0 643904 0 [] v ++ u.counterBody))) := by
  intro u hv
  change execCounterSnapshot s = _
  rw [execCounterSnapshot, onSlot_of_acts h]
  dsimp only
  rw [hv]

/-! ### Software slots (R302, R303) -/

theorem exec_softwareSlotFire_of_acts {s : State} {k : SlotId} (hk : 8 ≤ k.val) (h : s.slotActs k = true) :
    let u := s.modSlot k (fun x => { x with fire := false })
    let x := u.slot k
    let v := postEvent 0x07 0xFF 0 (natLe 8 k ++ natLe 6 x.compare.toNat) u
    let c := x.compare + x.period.setWidth 48
    let past := decide (c.toNat ≤ u.cad.count.toNat)
    exec (.softwareSlotFire k) s =
      .next (if x.period = 0 then v else v.modSlot k (fun x => { x with compare := c, due := past, late := x.late || past })) := by
  change execSoftwareSlotFire k s = _
  rw [execSoftwareSlotFire, if_neg (Nat.not_lt.mpr hk), onSlot_of_acts h]

/-- Settles O34: each device slot and each software slot acts on the state with its firing taken. -/
theorem slotActionsComplete : Obligations.SlotActionsComplete := by
  unfold Obligations.SlotActionsComplete
  refine ⟨?roll, ?close, ?signed, ?lead, ?stagger, ?sync, ?snapshot, ?replica, ?counters, ?timeout, ?software⟩
  case roll => exact fun s h => next_onSlot_of_acts h _
  case close => exact fun s e h he hp => exec_tallyClose_of_acts h he hp
  case signed => exact fun s b k hb hk => exec_tallySigned_of_key hb hk
  case lead => exact fun s h => next_onSlot_of_acts h _
  case stagger => exact fun s h => next_onSlot_of_acts h _
  case sync => exact fun s hs ha => congrArg Host.Outcome.next (if_neg (by simp [hs, ha]))
  case snapshot => exact fun s h => next_onSlot_of_acts h _
  case replica => exact fun s h => next_onSlot_of_acts h _
  case counters => exact fun s a v h hv => exec_counterSnapshot_of_room h hv
  case timeout => exact fun s h => next_onSlot_of_acts h _
  case software =>
    intro s k hk h x v c past
    have fires := exec_softwareSlotFire_of_acts hk h
    exact ⟨fun hp => fires.trans (congrArg _ (if_pos hp)), fun hp => fires.trans (congrArg _ (if_neg hp))⟩

end Sys2Proof.Machine
end

section
/-! PROOFS. Every command answers, and what no step undoes: the notches, the nonces and the version floors (R347, R352, R373, R412). -/

namespace Sys2Proof.Machine

/-- Every command answers a next state: each meaning of the dispatcher is one. -/
theorem exec_answers (c : Instr) (s : State) : ∃ u, exec c s = .next u := by
  cases c <;> exact ⟨_, rfl⟩

/-- Settles O59: what a command keeps includes the queue and the free values used before. -/
theorem everyCommandAnswers : Obligations.EveryCommandAnswers := by
  intro c s
  obtain ⟨u, hu⟩ := exec_answers c s
  refine ⟨u, hu, fun h => ?_⟩
  have kept := exec_keeps c (Keeps.refl s h) u hu
  exact ⟨kept.pending, kept.fresh⟩

/-- A step from canonical memories undoes nothing that lasts, whether a command runs or the clocks do. -/
theorem step_lasts {s u : State} (h : s.memOk) (hu : step s = .next u) : s.Lasts u := by
  unfold step at hu
  split at hu
  case h_1 =>
    cases hu
    exact (tick_keeps s (Keeps.refl s h)).lasts
  case h_2 i rest _ =>
    exact (exec_keeps i (Keeps.refl { s with pending := rest } (h.pending rest)) u hu).lasts

/-- Settles O58: every meaning of a command, resets and the loss of power included, and a cycle of the clocks, keep what lasts. -/
theorem nothingUndoesNotchesNoncesFloors : Obligations.NothingUndoesNotchesNoncesFloors :=
  fun _ _ h hu => step_lasts h hu

end Sys2Proof.Machine
end

section
/-! PROOFS. The checks of a role command, and the nonce it spends (R347, R411). -/

namespace Sys2Proof.Machine

/-! ### The six checks (R347) -/

/-- A check that fails, with every check before it passed. -/
theorem rcStep_some {s : State} {sb : Bool} {b : List Byte} {chk : RoleCheck} {k : Nat} (h : rcStep s sb b chk = some k) :
    1 ≤ k ∧ k ≤ 6 ∧ (k ≤ 1 ↔ rcForm b = false) ∧ (2 < k → bytesAt b 24 8 = keyId s.sec.identPub) ∧
    (3 < k → (s.signerKey sb b).isSome = true ∧ chk.sig = true) ∧
    (4 < k → (sgetD s.sec.nonces (rcRole b) 0).toNat ≤ rcNonce b ∧ rcNonce b ≠ 2 ^ 64 - 1) ∧
    (5 < k → rcTime b ≤ s.cad.count.toNat ∧ s.cad.count.toNat - rcTime b ≤ 2 * s.tpm ∧ rcBodyOk s b chk = false) := by
  unfold rcStep at h
  dsimp only at h
  split_ifs at h with form part signer nonce time body <;> cases h <;> simp_all [Option.isSome_iff_ne_none]

/-- Every check passed: the nonce is not below NEXT_NONCE, and is not the last value. -/
theorem rcStep_none_nonce {s : State} {sb : Bool} {b : List Byte} {chk : RoleCheck} (h : rcStep s sb b chk = none) :
    (sgetD s.sec.nonces (rcRole b) 0).toNat ≤ rcNonce b ∧ rcNonce b ≠ 2 ^ 64 - 1 := by
  unfold rcStep at h
  dsimp only at h
  split_ifs at h with form part signer nonce
  simp at nonce
  omega

/-! ### Refusals (R347, R411) -/

/-- The fields of LAST_REFUSAL. -/
theorem noteRefusal_fields {code role step : Nat} (hc : faultCode 0x15 code < 2 ^ 16) (hr : role < 4) (hk : step < 8) (op : Nat) (s : State) :
    let r := (noteRefusal code op role step s).sec.refusal
    r.extractLsb' 0 16 = BitVec.ofNat 16 (faultCode 0x15 code) ∧ r.extractLsb' 16 8 = BitVec.ofNat 8 op ∧
    r.extractLsb' 24 2 = BitVec.ofNat 2 role ∧ r.extractLsb' 26 3 = BitVec.ofNat 3 step := by
  have bits {n v i : Nat} (hv : v < 2 ^ n) (hi : n ≤ i) : v.testBit i = false :=
    Nat.testBit_lt_two_pow (hv.trans_le (Nat.pow_le_pow_right (by decide) hi))
  have role2 : role < 2 ^ 2 := hr
  have step3 : step < 2 ^ 3 := hk
  have op8 : op % 256 < 2 ^ 8 := Nat.mod_lt _ (by decide)
  have mod256 (i : Nat) : (op % 256).testBit i = (decide (i < 8) && op.testBit i) := Nat.testBit_mod_two_pow op 8 i
  dsimp only [noteRefusal]
  refine ⟨?code, ?op, ?role, ?step⟩ <;> apply BitVec.eq_of_getLsbD_eq <;> intro i hi <;>
    simp only [BitVec.getLsbD_extractLsb', BitVec.getLsbD_or, BitVec.getLsbD_shiftLeft, BitVec.getLsbD_ofNat]
  case code => simp [hi, (by omega : i < 32), (by omega : i < 24), (by omega : i < 26)]
  case op => simp [hi, mod256, bits hc (by omega : 16 ≤ 16 + i), (by omega : 16 + i < 24), (by omega : 16 + i < 26), (by omega : 16 + i < 32), (by omega : i < 32)]
  case role =>
    simp [bits hc (by omega : 16 ≤ 24 + i), bits op8 (by omega : 8 ≤ 24 + i - 16), (by omega : 24 + i < 26), (by omega : 24 + i < 32), (by omega : i < 32)]
  case step =>
    simp [bits hc (by omega : 16 ≤ 26 + i), bits op8 (by omega : 8 ≤ 26 + i - 16), bits role2 (by omega : 2 ≤ 26 + i - 24), (by omega : 26 + i < 32), (by omega : i < 32)]

/-- The entry an AUDIT_ACK names is noted only when it differs from its complement. -/
theorem noteEntry_of_sound {b : List Byte} {chk : RoleCheck} (h : rcOp b ≠ 9 ∨ chk.entry = true) (s : State) : noteEntry b chk s = s := by
  refine if_neg ?_
  rcases h with h | h <;> simp [h]

theorem exec_roleCommand_of_fails {s : State} {sb : Bool} {b : List Byte} {chk : RoleCheck} {k : Nat} (hs : s.serves = true)
    (h : rcStep s sb b chk = some k) :
    exec (.roleCommand sb b chk) s = .next (refuseRole sb b k (if k = 6 then noteEntry b chk s else s)) := by
  change execRoleCommand sb b chk s = _
  rw [execRoleCommand, if_pos hs, roleCommand, h]

/-- A refusal leaves LAST_REFUSAL and the reply. -/
theorem refuseRole_rest (sb : Bool) (b : List Byte) (k : Nat) (s : State) :
    let u := refuseRole sb b k s
    u = { s with sec := { s.sec with refusal := u.sec.refusal, replyCode := u.sec.replyCode, reply := u.sec.reply, replyAt := u.sec.replyAt }, mgmt := u.mgmt } := by
  cases sb <;> rfl

theorem refuseRole_refusal (sb : Bool) (b : List Byte) (k : Nat) (s : State) :
    (refuseRole sb b k s).sec.refusal = (noteRefusal 0x0A (rcOp b) (rcRole b) k s).sec.refusal := by
  cases sb <;> rfl

theorem rcRole_lt (b : List Byte) : rcRole b < 4 := Nat.mod_lt _ (by decide)

theorem failedCheckRefusesRoleCommand : Obligations.FailedCheckRefusesRoleCommand := by
  unfold Obligations.FailedCheckRefusesRoleCommand
  intro s sb b chk k hs h v
  obtain ⟨first, last, form, part, signer, nonce, body⟩ := rcStep_some h
  obtain ⟨code, op, role, step⟩ := noteRefusal_fields (code := 0x0A) (by decide) (rcRole_lt b) (Nat.lt_of_le_of_lt last (by decide)) (rcOp b) v
  rw [← refuseRole_refusal sb] at code op role step
  refine ⟨fun sound => ?_, _, exec_roleCommand_of_fails hs h, refuseRole_rest sb b k v, code, rfl, op, role, step, first, last, form, part, signer, nonce, body⟩
  rw [show v = if k = 6 then noteEntry b chk s else s from rfl, noteEntry_of_sound sound, ite_self]

/-! ### The nonce is spent (R347) -/

/-- What each step of a walk over a list keeps, the walk keeps. -/
theorem forAll_preserves {α : Type} {P : State → Prop} (xs : List α) {f : α → State → State} (hf : ∀ a s, P s → P (f a s)) {s : State} (h : P s) :
    P (forAll xs f s) := by
  unfold forAll
  induction xs generalizing s with
  | nil => exact h
  | cons a r ih => exact ih (hf a s h)

theorem Security.setStaged_nonces (k : Security) (role : Nat) (w : Staged) : (k.setStaged role w).nonces = k.nonces := by
  unfold Security.setStaged
  split <;> rfl

theorem doWriteRegs_nonces (b : List Byte) (s : State) : (doWriteRegs b s).sec.nonces = s.sec.nonces := by
  refine forAll_preserves (P := fun u => u.sec.nonces = s.sec.nonces) _ (fun a u h => ?_) rfl
  dsimp only
  split
  · exact h
  · split_ifs
    · exact h
    · exact h
    · split
      · exact h
      · exact (Security.setStaged_nonces _ _ _).trans h

theorem startRuns_nonces (rs : List StoreRun) (s : State) : (startRuns rs s).sec.nonces = s.sec.nonces := by
  induction rs generalizing s with
  | nil => rfl
  | cons r rs ih =>
    unfold startRuns
    split
    · rw [ih]
      dsimp only
      split <;> rfl
    · dsimp only
      split
      · rfl
      · exact Security.setStaged_nonces _ _ _

theorem queueRun_nonces (r : StoreRun) (s : State) : (queueRun r s).sec.nonces = s.sec.nonces := by
  unfold queueRun
  split
  · rfl
  · exact startRuns_nonces _ s

/-- No effect of a role command touches a nonce: that moved on before it. -/
theorem roleEffect_nonces (sb : Bool) (b : List Byte) (s : State) : (roleEffect sb b s).sec.nonces = s.sec.nonces := by
  unfold roleEffect
  split_ifs
  · exact doWriteRegs_nonces b s
  · rfl
  · rfl
  · exact queueRun_nonces _ s
  · exact Security.setStaged_nonces _ _ _
  · exact Security.setStaged_nonces _ _ _
  · exact queueRun_nonces _ s
  · rfl
  · unfold doAuditAck
    dsimp only
    split <;> rfl
  · rfl
  · rfl

theorem noteHead_nonces (chk : RoleCheck) (s : State) : (noteHead chk s).sec.nonces = s.sec.nonces := by
  unfold noteHead
  split
  · split <;> rfl
  · rfl

theorem roleReply_nonces (sb : Bool) (code : Nat) (bs : List Byte) (s : State) : (roleReply sb code bs s).sec.nonces = s.sec.nonces := by
  cases sb <;> rfl

/-- An accepted command leaves the nonce of its role moved on, and every other as it was. -/
theorem roleCommand_nonces {s : State} {sb : Bool} {b : List Byte} {chk : RoleCheck} (h : rcStep s sb b chk = none) :
    (roleCommand sb b chk s).sec.nonces = sset s.sec.nonces (rcRole b) (BitVec.ofNat 64 (rcNonce b + 1)) := by
  have effect := (roleEffect_nonces sb b (noteHead chk (advanceNonce b { s with sec := { s.sec with refusal := 0 } }))).trans (noteHead_nonces chk _)
  unfold roleCommand
  rw [h]
  dsimp only
  split_ifs
  · exact effect
  · exact effect
  · exact (roleReply_nonces _ _ _ _).trans effect
  · exact (roleReply_nonces _ _ _ _).trans effect

theorem rcNonce_lt (b : List Byte) : rcNonce b < 2 ^ 64 := bytesAt_lt b 8 8

/-- Settles O45: the accepted nonce lies below NEXT_NONCE of its role from then on, and step 4 refuses it. -/
theorem acceptedNonceIsSpent : Obligations.AcceptedNonceIsSpent := by
  unfold Obligations.AcceptedNonceIsSpent
  intro s u v sb sb' b b' chk chk' hs h hu hrole hnonce hle hnone
  obtain ⟨_, not_last⟩ := rcStep_none_nonce h
  obtain ⟨not_below, _⟩ := rcStep_none_nonce hnone
  have hlt := rcNonce_lt b
  have next : u = roleCommand sb b chk s := by
    have := hu.symm.trans (show exec (.roleCommand sb b chk) s = .next (if s.serves then roleCommand sb b chk s else s) from rfl)
    rw [if_pos hs] at this
    exact Host.Outcome.next.inj this
  have moved : (sgetD u.sec.nonces (rcRole b) 0).toNat = rcNonce b + 1 := by
    rw [next, roleCommand_nonces h, sgetD_sset_self, BitVec.toNat_ofNat]
    omega
  rw [hrole, hnonce] at not_below
  omega

/-! ### An OWNER_RELEASE under a failed Owner-key record (R349, R353) -/

/-- A serving package with an Operator key, whose record of the Owner key has failed and is frozen. -/
def frozenOwnerState : State :=
  { State.reset with boot := { State.reset.boot with stage := 8 }, sec := { State.reset.sec with opKey := some 1, recFailed := [7] } }

/-- An OWNER_RELEASE of the Operator with nonce 0, for a part whose identity key is 0. -/
def ownerReleaseBytes : List Byte :=
  [1, 0, 1, 0, 7, 0, 0, 0] ++ List.replicate 16 0 ++ natLe 8 (keyId 0) ++ List.replicate 96 0

/-- The verdicts on a command whose signature verifies and whose audit entries are sound. -/
def soundCheck : RoleCheck := { sig := true, poss := true, entry := true, head := true }

theorem ownerReleaseBytes_passes : rcStep frozenOwnerState false ownerReleaseBytes soundCheck = none := by decide +kernel

/-- The release does not start: runRefusal refuses it for the frozen record. -/
theorem ownerRelease_of_frozenOwner :
    exec (.ownerRelease false ownerReleaseBytes soundCheck) frozenOwnerState = .next (roleRow 7 false ownerReleaseBytes soundCheck frozenOwnerState) ∧
    (roleRow 7 false ownerReleaseBytes soundCheck frozenOwnerState).sec.erasing = false := by
  refine ⟨rfl, ?_⟩
  decide +kernel

/-- Refutes O43: an OWNER_RELEASE that passes the six checks with no STORE in progress, no context live, Owner notches left and room in the audit log
does not begin when the record of the Owner key has failed (R349), which the statement leaves out. -/
theorem not_roleCommandsComplete : ¬ Obligations.RoleCommandsComplete := by
  unfold Obligations.RoleCommandsComplete
  intro h
  obtain ⟨_, _, _, _, _, _, release, _⟩ := h frozenOwnerState false ownerReleaseBytes soundCheck rfl ownerReleaseBytes_passes
  obtain ⟨u, hu, erasing, _⟩ := release rfl rfl rfl (by decide) (by decide)
  obtain ⟨hv, idle⟩ := ownerRelease_of_frozenOwner
  rw [← Host.Outcome.next.inj (hv.symm.trans hu)] at erasing
  exact absurd (idle.symm.trans erasing) (by decide)

end Sys2Proof.Machine
end

section
/-! PROOFS. What the sends of the exchange units leave of a link and of the rest of the package, and with it every entry of a link to TRAINING and to QUARANTINED (R334, R335, R339, R340). -/

namespace Sys2Proof.Machine

/-! ### Sends that go on (R213, R334, R339) -/

/-- What a send does to a link: a frame behind those of the replay buffer of a link that carries traffic, with its counts; on a link that carries none a drop is counted. -/
structure Link.SendsOn (k j : Link) : Prop where
  buffer : ∃ new, j.txQ = k.txQ ++ new
  rest : { j with txQ := k.txQ, txNext := k.txNext, credit := k.credit, frames := k.frames, sentTimes := k.sentTimes, cnt := k.cnt, dropped := k.dropped } = k
  quiet : k.carries = false → { j with dropped := k.dropped } = k

theorem Link.SendsOn.refl (k : Link) : k.SendsOn k := ⟨⟨[], by simp⟩, rfl, fun _ => rfl⟩

theorem Link.SendsOn.st {k j : Link} (h : k.SendsOn j) : j.st = k.st := by rw [← h.rest]

theorem Link.SendsOn.carries {k j : Link} (h : k.SendsOn j) : j.carries = k.carries := by
  rw [Link.carries, h.st]
  rfl

theorem Link.SendsOn.trans {k j i : Link} (h : k.SendsOn j) (g : j.SendsOn i) : k.SendsOn i where
  buffer := by
    obtain ⟨a, ha⟩ := h.buffer
    obtain ⟨b, hb⟩ := g.buffer
    exact ⟨a ++ b, by rw [hb, ha, List.append_assoc]⟩
  rest := by
    conv_rhs => rw [← h.rest]
    conv_rhs => rw [← g.rest]
  quiet hk := by
    conv_rhs => rw [← h.quiet hk]
    conv_rhs => rw [← g.quiet (h.carries.trans hk)]

/-- What the sends of the exchange units leave: requests and flits on tiles, frames on links, the output of a replay, and the faults of sends that are refused with the stops of their contexts. -/
structure State.Pumps (s u : State) : Prop where
  rest : u = { s with
    tiles := u.tiles, ctxs := u.ctxs, links := u.links, forn := { s.forn with cap := u.forn.cap }
    pages := u.pages, summary := u.summary, pins := u.pins, evl := u.evl, hostMem := u.hostMem }
  stores : ∀ t, (u.tile t).store = (s.tile t).store
  links : ∀ m, (s.link m).SendsOn (u.link m)

theorem State.Pumps.refl (s : State) : s.Pumps s := ⟨rfl, fun _ => rfl, fun m => Link.SendsOn.refl (s.link m)⟩

theorem State.Pumps.trans {s u v : State} (h : s.Pumps u) (g : u.Pumps v) : s.Pumps v where
  rest := by rw [g.rest, h.rest]
  stores t := (g.stores t).trans (h.stores t)
  links m := (h.links m).trans (g.links m)

/-- A change of a tile that leaves its store. -/
theorem State.setTile_pumps (s : State) (t : Nat) {x : Tile} (hx : x.store = (s.tile t).store) : s.Pumps (s.setTile t x) where
  rest := rfl
  stores q := by
    by_cases h : q = t
    · subst h
      rw [State.setTile_self, hx]
    · rw [State.setTile_ne _ _ _ _ h]
  links m := Link.SendsOn.refl _

theorem State.modTile_pumps (s : State) (t : Nat) {f : Tile → Tile} (hf : ∀ x, (f x).store = x.store) : s.Pumps (s.modTile t f) :=
  s.setTile_pumps t (hf _)

/-- A change of a link as a send makes it. -/
theorem State.modLink_pumps (s : State) (l : Nat) {f : Link → Link} (hf : (s.link l).SendsOn (f (s.link l))) : s.Pumps (s.modLink l f) where
  rest := rfl
  stores _ := rfl
  links m := by
    by_cases h : m = l
    · subst h
      rw [State.modLink_self]
      exact hf
    · rw [State.modLink_ne _ _ _ _ h]
      exact Link.SendsOn.refl _

theorem forAll_pumps {α : Type} (xs : List α) {f : α → State → State} (hf : ∀ a (s : State), s.Pumps (f a s)) (s : State) : s.Pumps (forAll xs f s) := by
  unfold forAll
  induction xs generalizing s with
  | nil => exact State.Pumps.refl s
  | cons a r ih => exact (hf a s).trans (ih _)

theorem recordFault_pumps (key blk code : Nat) (s : State) : s.Pumps (recordFault key blk code s) := by
  rw [recordFault_rest]
  exact ⟨rfl, fun _ => rfl, fun _ => Link.SendsOn.refl _⟩

theorem ctxFault_pumps (t c blk code : Nat) (s : State) : s.Pumps (ctxFault t c blk code s) := by
  have stop (u : State) : u.Pumps (stopOnTile t c (faultCode blk code) u) := by
    rw [stopOnTile, State.modCtx_rest]
    refine State.Pumps.trans (u := u.modTile t (·.stopCtx c)) (u.modTile_pumps t fun _ => rfl) ?_
    exact ⟨rfl, fun _ => rfl, fun _ => Link.SendsOn.refl _⟩
  exact (recordFault_pumps _ _ _ s).trans (stop _)

theorem readAhead_pumps (t n : Nat) (m : MapEntry) (s : State) : s.Pumps (readAhead t n m s) := by
  unfold readAhead
  dsimp only
  split
  · exact State.Pumps.refl s
  · split
    · exact State.Pumps.refl s
    · refine State.Pumps.trans ?_ (forAll_pumps _ (fun _ u => ?_) _)
      · exact s.modTile_pumps t fun _ => rfl
      · exact u.modTile_pumps t fun _ => rfl

theorem enterFlit_pumps (t ctx n : Nat) (f : Flit) (s : State) : s.Pumps (enterFlit t ctx n f s) := by
  unfold enterFlit
  dsimp only
  split
  · exact ctxFault_pumps t ctx _ _ s
  · split
    · exact State.Pumps.refl s
    · exact s.setTile_pumps t rfl

theorem replayOutput_pumps (t kind : Nat) (bs : List Byte) (s : State) : s.Pumps (replayOutput t kind bs s) :=
  ⟨rfl, fun _ => rfl, fun _ => Link.SendsOn.refl _⟩

theorem sendFrame_pumps {l : Nat} {s : State} (h : (s.link l).carries = true) (cls ctx tag : Nat) (bs : List Byte) :
    s.Pumps (sendFrame l cls ctx tag bs s) :=
  s.modLink_pumps l ⟨⟨_, rfl⟩, rfl, fun hq => absurd (h.symm.trans hq) (by decide)⟩

theorem countVn_pumps (t ctx : Nat) (vn : Vn) (n : Nat) (s : State) : s.Pumps (countVn t ctx vn n s) := s.modTile_pumps t fun _ => rfl

theorem pumpSend_pumps (fuel t n ctx : Nat) (m : MapEntry) (c : Ctx) (s : State) : s.Pumps (pumpSend fuel t n ctx m c s) := by
  induction fuel generalizing s with
  | zero => exact State.Pumps.refl s
  | succ fuel ih =>
    have ahead := readAhead_pumps t n m s
    unfold pumpSend
    extract_lets s0
    split
    · exact ahead
    · next e _ =>
      extract_lets k drop l
      have dropped (x : Nat) (u : State) : u.Pumps (drop x u) := u.modTile_pumps t fun _ => rfl
      split
      · exact ahead
      · split
        · exact ahead
        · next bs _ =>
          generalize (if e.tag / 2048 = 31 then 1 else 0) = cls
          split_ifs with kind replays idle can
          · exact ((ahead.trans (replayOutput_pumps t 3 bs s0)).trans (dropped _ _)).trans (ih _)
          · refine (ahead.trans (s0.modLink_pumps l ⟨⟨[], by simp⟩, rfl, fun _ => rfl⟩)).trans (dropped _ _)
          · have carries : (s0.link l).carries = true := by simpa using idle
            exact (((ahead.trans (countVn_pumps t ctx .q 8 s0)).trans (sendFrame_pumps (s := countVn t ctx .q 8 s0) carries cls ctx e.tag bs)).trans (dropped _ _)).trans (ih _)
          · exact ahead
          · exact (ahead.trans (enterFlit_pumps t ctx n _ s0)).trans (readAhead_pumps t n m _)

/-- The due sends of a tile, in entry order. -/
theorem pumpSends_pumps (t : Nat) (s : State) : s.Pumps (pumpSends t s) := by
  unfold pumpSends
  split
  · exact State.Pumps.refl s
  · next m c _ =>
    extract_lets go
    have step (e : PlanEnt) (acc : Bool × State) (h : s.Pumps acc.2) : s.Pumps (go e acc).2 := by
      dsimp only [go]
      split
      · exact h
      · exact h.trans (pumpSend_pumps _ t _ _ m c _)
    have walk (es : List PlanEnt) (acc : Bool × State) (h : s.Pumps acc.2) : s.Pumps (es.foldl (fun acc e => go e acc) acc).2 := by
      induction es generalizing acc with
      | nil => exact h
      | cons e r ih => exact ih _ (step e acc h)
    exact walk _ _ (State.Pumps.refl s)

/-! ### A link changes state (R329, R335, R339) -/

theorem postEvent_pumps (ty so f : Nat) (b : List Byte) (s : State) : s.Pumps (postEvent ty so f b s) := by
  rw [postEvent_rest]
  exact ⟨rfl, fun _ => rfl, fun _ => Link.SendsOn.refl _⟩

/-- What a change of state writes of the link itself. -/
def Link.enters (k : Link) (new : LinkState) (us : Nat) : Link :=
  { k with
    st := new, joins := k.joins && new = .up
    upSince := if new = .up || new = .degraded then some (k.upSince.getD us) else none
    degSince := if new = .degraded then some us else none }

/-- A change of state writes the link, and what follows is an event and sends that go on. -/
theorem setLinkState_pumps (l : Nat) (new : LinkState) (reason : Nat) (s : State) :
    (s.setLink l ((s.link l).enters new s.us)).Pumps (setLinkState l new reason s) := by
  unfold setLinkState
  extract_lets old carry s1 s2
  have event : s1.Pumps s2 := postEvent_pumps _ _ _ _ s1
  split
  · exact event
  · exact event.trans (forAll_pumps _ pumpSends_pumps s2)

/-- A link that enters a state without traffic: nothing is sent on it, sends that wait for it are dropped. -/
theorem setLinkState_self {new : LinkState} (h : new ≠ .up ∧ new ≠ .degraded) (l reason : Nat) (s : State) :
    { (setLinkState l new reason s).link l with dropped := (s.link l).dropped } = (s.link l).enters new s.us := by
  have sends := (setLinkState_pumps l new reason s).links l
  rw [State.setLink_self] at sends
  exact sends.quiet (by simp [Link.enters, Link.carries, h])

theorem setLinkState_others (l : Nat) (new : LinkState) (reason : Nat) (s : State) {m : Nat} (hm : m ≠ l) :
    (s.link m).SendsOn ((setLinkState l new reason s).link m) := by
  have sends := (setLinkState_pumps l new reason s).links m
  rwa [State.setLink_ne _ _ _ _ hm] at sends

/-! ### QUARANTINED (R339, R340) -/

/-- What an entry to QUARANTINED writes of the link before it changes state. -/
def Link.backsOff (k : Link) (reason us : Nat) : Link :=
  let n := min 11 (k.quars + 1)
  { k with quars := n, reason := reason, backoffEnd := us + backoffUs n, rxQ := [], ctlOut := k.arrives, rekey := 0 }

theorem recordFault_links (key blk code : Nat) (s : State) : (recordFault key blk code s).links = s.links := by rw [recordFault_rest]

theorem recordFault_us (key blk code : Nat) (s : State) : (recordFault key blk code s).us = s.us := by rw [recordFault_rest]

theorem recordFault_link (key blk code : Nat) (s : State) (m : Nat) : (recordFault key blk code s).link m = s.link m := by
  rw [State.link, recordFault_links]
  rfl

theorem quarantine_eq (l reason code : Nat) (s : State) :
    quarantine l reason code s = setLinkState l .quarantined reason
      ((recordFault (cordPage l) 0x10 code s).setLink l ((s.link l).backsOff reason s.us)) := by
  simp only [quarantine, State.modLink, recordFault_link]
  rfl

theorem quarantine_self (l reason code : Nat) (s : State) :
    { (quarantine l reason code s).link l with dropped := (s.link l).dropped } = ((s.link l).backsOff reason s.us).enters .quarantined s.us := by
  have own := setLinkState_self (new := .quarantined) (by decide) l reason
    ((recordFault (cordPage l) 0x10 code s).setLink l ((s.link l).backsOff reason s.us))
  rw [← quarantine_eq, State.setLink_self, State.setLink_us, recordFault_us] at own
  exact own

theorem quarantine_others (l reason code : Nat) (s : State) {m : Nat} (hm : m ≠ l) : (s.link m).SendsOn ((quarantine l reason code s).link m) := by
  have sends := setLinkState_others l .quarantined reason ((recordFault (cordPage l) 0x10 code s).setLink l ((s.link l).backsOff reason s.us)) hm
  rwa [← quarantine_eq, State.setLink_ne _ _ _ _ hm, recordFault_link] at sends

/-- Settles O41: the back-off is 2^(n-1) s up to n = 11, and an entry to QUARANTINED writes the link; what its sends and its event add is framed. -/
theorem backoffDoublesToCap : Obligations.BackoffDoublesToCap := by
  unfold Obligations.BackoffDoublesToCap
  refine ⟨?doubles, ?cap, ?entry⟩
  case doubles =>
    intro n _ hn
    rw [backoffUs, Nat.min_eq_left hn]
  case cap =>
    intro n hn
    rw [backoffUs, Nat.min_eq_right hn]
    rfl
  case entry =>
    intro s l r c u n
    refine ⟨(quarantine_self l r c s).trans ?_, fun m hm => ?_⟩
    · simp [Link.enters, Link.backsOff, n]
    · obtain ⟨buffer, rest, _⟩ := quarantine_others l r c s hm
      exact ⟨buffer, rest⟩

/-! ### TRAINING (R322, R334, R335) -/

/-- What an entry to TRAINING writes of the link before it changes state, with no change of mode due. -/
def Link.retrains (k : Link) : Link :=
  { k with
    rxNext := 0, ackLeft := 0, again := (k.rxNext + 2 ^ 24 - k.ackLeft) % 2 ^ 24 + k.again, twice := false
    rxQ := k.rxQ.map (fun f => { f with kept := true }), granted := [], ctlOut := k.arrives, lastCad := none, rekey := 0
    helloSent := [], helloGot := [], proofSent := [], proofOk := false, confSent := none, confGot := false
    txQ := k.txQ.zipIdx.map (fun p => p.1.renew p.2), txNext := k.txQ.length
    credit := k.txQ.foldl (fun m f => if f.cls = 3 then m else smod m f.cls 0 (· + 1)) [] }

theorem applySplit_of_same {p : Nat} {s : State} (h : (s.port p).split = (s.port p).splitWant) : applySplit p s = s := if_pos h

theorem enterTraining_of_exists {l : Nat} {s : State} (he : s.linkExists l = true) (hm : (s.port (l / 2)).split = (s.port (l / 2)).splitWant) :
    enterTraining l s = setLinkState l .training 0 (s.setLink l (s.link l).retrains) := by
  unfold enterTraining
  rw [applySplit_of_same hm]
  simp only [he]
  rfl

theorem wordBytes_length (ws : List (BitVec 64)) : (wordBytes ws).length = 16 * ws.length := by
  induction ws with
  | nil => rfl
  | cons w r ih =>
    rw [wordBytes, List.flatMap_cons, List.length_append, ← wordBytes, ih, List.length_append, natLe_length, natLe_length, List.length_cons]
    omega

/-- The words of a control frame read back from the bytes it was made of: each word stands before its complement. -/
theorem words_wordBytes {ws : List (BitVec 64)} {f : CordFrame} (hf : f.bytes = wordBytes ws) : f.words = ws := by
  rw [CordFrame.words, hf, wordBytes_length, Nat.mul_div_cancel_left _ (by decide)]
  clear hf
  induction ws with
  | nil => rfl
  | cons w r ih =>
    have cons : wordBytes (w :: r) = natLe 8 w.toNat ++ (natLe 8 (~~~w).toNat ++ wordBytes r) := by
      rw [wordBytes, List.flatMap_cons, List.append_assoc, ← wordBytes]
    have first : bytesAt (wordBytes (w :: r)) 0 8 = w.toNat := by
      rw [cons, bytesAt_append_left (by rw [natLe_length]), bytesAt_natLe w.isLt]
    have later (i : Nat) : bytesAt (wordBytes (w :: r)) (16 * (i + 1)) 8 = bytesAt (wordBytes r) (16 * i) 8 := by
      rw [bytesAt, bytesAt, cons, ← List.append_assoc, Nat.mul_succ, Nat.add_comm, ← List.drop_drop, List.drop_left' (by simp [natLe_length])]
    rw [List.length_cons, List.range_succ_eq_map, List.map_cons, List.map_map, Nat.mul_zero, first, BitVec.ofNat_toNat, BitVec.setWidth_eq]
    exact congrArg (w :: ·) ((List.map_congr_left fun i _ => congrArg (BitVec.ofNat 64) (later i)).trans ih)

/-- A data frame goes again as it was, under its new number. -/
theorem renew_of_data {f : CordFrame} (h : f.cls ≠ 3) (n : Nat) : f.renew n = { f with seq := n, replays := 0 } := by
  simp [CordFrame.renew, h]

/-- Of a control frame the ARRIVE words go again, or an ACK of no frame. -/
theorem renew_of_control {f : CordFrame} (h : f.cls = 3) (n : Nat) :
    (f.renew n).words = if f.words.filter isArrive = [] then [ctlWord 1 0 (2 ^ 24 - 1)] else f.words.filter isArrive :=
  words_wordBytes (by simp [CordFrame.renew, h])

theorem retrains_frame {k : Link} {i : Nat} {f : CordFrame} (h : k.txQ[i]? = some f) : k.retrains.txQ[i]? = some (f.renew i) := by
  simp [Link.retrains, h]

/-- Settles O42: an entry to TRAINING renews the replay buffer in place, and the sends that go on touch nothing of a link that carries no traffic but its drops. -/
theorem trainingKeepsUnacknowledged : Obligations.TrainingKeepsUnacknowledged := by
  unfold Obligations.TrainingKeepsUnacknowledged
  intro s l he hm u k
  have entry := enterTraining_of_exists he hm
  have own : { k with dropped := (s.link l).dropped } = (s.link l).retrains.enters .training s.us := by
    have own := setLinkState_self (new := .training) (by decide) l 0 (s.setLink l (s.link l).retrains)
    rw [← entry, State.setLink_self] at own
    exact own
  have others (m : Nat) (hml : m ≠ l) : (s.link m).SendsOn (u.link m) := by
    have sends := setLinkState_others l .training 0 (s.setLink l (s.link l).retrains) hml
    rwa [← entry, State.setLink_ne _ _ _ _ hml] at sends
  have field {α : Type} (get : Link → α) (hg : ∀ j : Link, get { j with dropped := (s.link l).dropped } = get j) :
      get k = get ((s.link l).retrains.enters .training s.us) := by rw [← own, hg]
  have frames : k.txQ = (s.link l).retrains.txQ := field Link.txQ fun _ => rfl
  refine ⟨field Link.st fun _ => rfl, field Link.txNext fun _ => rfl, field Link.rxNext fun _ => rfl, field Link.ackLeft fun _ => rfl, field Link.twice fun _ => rfl,
    field Link.again fun _ => rfl, field Link.rxQ fun _ => rfl, field Link.ctlOut fun _ => rfl, field Link.helloGot fun _ => rfl, field Link.proofOk fun _ => rfl,
    field Link.confGot fun _ => rfl, ?length, ?renewed, ?others⟩
  case length => simp [frames, Link.retrains]
  case renewed =>
    intro i f hf
    rw [frames, retrains_frame hf]
    exact ⟨fun data => congrArg some (renew_of_data data i), fun control => ⟨_, rfl, rfl, renew_of_control control i⟩⟩
  case others =>
    intro m hml
    obtain ⟨buffer, rest, _⟩ := others m hml
    exact ⟨buffer, rest⟩

end Sys2Proof.Machine
end

section
/-! PROOFS. The Settings Store: the notches that a commit takes, the STORE that is refused, the ends of a STORE and of a release, and the reports (R349, R350, R352 to R354, R360, R433). -/

namespace Sys2Proof.Machine

/-! ### Notches (R352, R354) -/

theorem Security.notches_notch_other (k : Security) {i j : Nat} (h : i ≠ j) : (k.notch i).notches j = k.notches j := by
  unfold Security.notch
  split_ifs with ceiling operator owner debug sealed
  · subst ceiling
    simp [Security.notches, h.symm]
  · subst operator
    simp [Security.notches, h.symm]
  · subst owner
    simp [Security.notches, h.symm]
  · subst debug
    simp [Security.notches, h.symm]
  · subst debug
    simp [Security.notches, h.symm]
  · rfl

/-- A commit of a setting takes one notch, but for SEALED. -/
theorem Security.notches_notch_self {k : Security} {i n : Nat} (h : k.notches i = some n) (hi : i ≠ 10 ∨ k.debugPol ≠ 3) :
    (k.notch i).notches i = some (n - 1) := by
  unfold Security.notches at h
  split_ifs at h with ceiling operator owner debug <;> cases h
  · simp [Security.notch, Security.notches, ceiling]
  · simp [Security.notch, Security.notches, operator]
  · simp [Security.notch, Security.notches, owner]
  · have open_ : k.debugPol ≠ 3 := hi.resolve_left (not_not.mpr debug)
    simp [Security.notch, Security.notches, debug, open_]

theorem Security.notches_notch_sealed {k : Security} (h : k.debugPol = 3) : (k.notch 10).notches 10 = some 0 := by
  simp [Security.notch, Security.notches, h]

/-- What a commit of values leaves: beside the cadence unit, the power manager and the security block everything, and of these the levers that no setting holds. -/
structure State.Sets (s u : State) : Prop where
  rest : u = { s with cad := u.cad, pwr := u.pwr, sec := u.sec }
  exclude : u.pwr.exclude = s.pwr.exclude
  waiting : u.sec.waiting = s.sec.waiting
  notches : ∀ j, u.sec.notches j = s.sec.notches j

theorem commitValue_sets (w : Staged) (i : Nat) (s : State) : s.Sets (commitValue w i s) :=
  match i with
  | 0 | 1 | 2 | 3 | 4 | 5 | 6 | 7 | 8 | 9 | 10 | 11 | 12 | _ + 13 => ⟨rfl, rfl, rfl, fun _ => rfl⟩

theorem checkHead_rest (s : State) : checkHead s = { s with
    evl := (checkHead s).evl, hostMem := (checkHead s).hostMem, pages := (checkHead s).pages, summary := (checkHead s).summary, pins := (checkHead s).pins } := by
  unfold checkHead
  split
  · exact recordFault_rest _ _ _ s
  · rfl

/-- An entry joins the audit log, and the check of the one before it may record a fault. -/
theorem appendAudit_rest (rec role kind n : Nat) (nonce signer value : List Byte) (s : State) :
    let u := appendAudit rec role kind n nonce signer value s
    u = { s with
      sec := { s.sec with audit := u.sec.audit, auditSeq := s.sec.auditSeq + 1 }
      evl := u.evl, hostMem := u.hostMem, pages := u.pages, summary := u.summary, pins := u.pins } := by
  dsimp only [appendAudit]
  rw [checkHead_rest]

theorem commitOne_notches (r : StoreRun) (i j : Nat) (s : State) :
    (commitOne r i s).sec.notches j = ((commitValue r.work i s).sec.notch i).notches j := by
  unfold commitOne
  rw [appendAudit_rest]
  rfl

/-- A STORE with a changed setting that has no notch left is refused. -/
theorem storeRefusal_of_noNotch {s : State} {w : Staged} {i : Nat} (hi : i ∈ w.changes s) (h : s.sec.notches i = some 0) (n : Nat) :
    storeRefusal s w n = some 0x0A := by
  refine if_pos (List.any_eq_true.mpr ⟨i, hi, ?_⟩)
  simp [h]

/-! ### A STORE that its checks refuse (R350, R352, R358) -/

/-- What a role command finds when its effect starts: its nonce moved on, LAST_REFUSAL emptied and the newest audit entry noted where it is bad. -/
def State.accepted (s : State) (b : List Byte) (chk : RoleCheck) : State :=
  noteHead chk (advanceNonce b { s with sec := { s.sec with refusal := 0 } })

/-- Neither the nonces, LAST_REFUSAL nor the notes on the audit log bear on the changes of a STORE and its checks. -/
theorem accepted_rest (s : State) (b : List Byte) (chk : RoleCheck) : ∃ k : Security,
    s.accepted b chk = { s with sec := { s.sec with nonces := k.nonces, refusal := k.refusal, auditBad := k.auditBad } } := by
  refine ⟨(s.accepted b chk).sec, ?_⟩
  unfold State.accepted noteHead
  split
  · split <;> rfl
  · rfl

theorem accepted_storeRefusal (s : State) (b : List Byte) (chk : RoleCheck) (w : Staged) (n : Nat) :
    storeRefusal (s.accepted b chk) w n = storeRefusal s w n := by
  obtain ⟨k, hk⟩ := accepted_rest s b chk
  rw [hk]
  rfl

/-- A STORE that its checks refuse, with none in progress: LAST_REFUSAL is written, and nothing starts. -/
theorem queueRun_of_refused {s : State} {r : StoreRun} {code : Nat} (hrun : s.sec.run = none) (h : runRefusal s r = some code) :
    ∃ k : Security, queueRun r s = { s with sec := { s.sec with refusal := k.refusal, auditFull := k.auditFull, run := none, waiting := [], erasing := false } } := by
  refine ⟨(queueRun r s).sec, ?_⟩
  unfold queueRun
  rw [hrun]
  simp only [Option.isSome_none, Bool.false_eq_true, if_false, startRuns, h]
  split <;> rfl

/-- What a role command leaves once its effect has: LAST_REFUSAL and the reply. -/
theorem roleCommand_rest {s : State} {sb : Bool} {b : List Byte} {chk : RoleCheck} (h : rcStep s sb b chk = none) :
    let v := roleEffect sb b (s.accepted b chk)
    ∃ (k : Security) (m : Reply), roleCommand sb b chk s =
      { v with sec := { v.sec with refusal := k.refusal, reply := k.reply, replyCode := k.replyCode, replyAt := k.replyAt }, mgmt := m } := by
  refine ⟨(roleCommand sb b chk s).sec, (roleCommand sb b chk s).mgmt, ?_⟩
  have reply (code : Nat) (w : State) : roleReply sb code [] w = { w with
      sec := { w.sec with reply := (roleReply sb code [] w).sec.reply, replyCode := (roleReply sb code [] w).sec.replyCode, replyAt := (roleReply sb code [] w).sec.replyAt }
      mgmt := (roleReply sb code [] w).mgmt } := by
    cases sb <;> rfl
  unfold roleCommand
  rw [h]
  dsimp only
  split_ifs
  · rfl
  · rfl
  · rw [reply]
    rfl
  · rw [reply]
    rfl

/-- A STORE that its checks refuse leaves the settings, the notches, the audit log and the staged changes. -/
theorem roleRow_store_of_refused {s : State} {sb : Bool} {b : List Byte} {chk : RoleCheck} {code : Nat} (hs : s.serves = true)
    (h : rcStep s sb b chk = none) (hop : rcOp b = 4) (hrun : s.sec.run = none) (hr : storeRefusal s (s.sec.staged (rcRole b)) 0 = some code) :
    ∃ (k : Security) (m : Reply), roleRow 4 sb b chk s = { s with
      sec := { s.sec with
        nonces := k.nonces, refusal := k.refusal, auditBad := k.auditBad, auditFull := k.auditFull, run := none, waiting := [], erasing := false
        reply := k.reply, replyCode := k.replyCode, replyAt := k.replyAt }
      mgmt := m } := by
  let r : StoreRun := { role := rcRole b, nonce := BitVec.ofNat 64 (rcNonce b), signer := signerId (s.accepted b chk) sb b }
  have effect : roleEffect sb b (s.accepted b chk) = queueRun r (s.accepted b chk) := by
    simp [roleEffect, hop, doStore, r]
  have refused : runRefusal (s.accepted b chk) r = some code := by
    rw [← hr, ← accepted_storeRefusal s b chk]
    obtain ⟨k, accepted⟩ := accepted_rest s b chk
    simp only [runRefusal, r, Bool.false_eq_true, if_false]
    rw [accepted]
    rfl
  have row : roleRow 4 sb b chk s = roleCommand sb b chk s := if_pos (by simp [hs, hop])
  obtain ⟨k, m, left⟩ := roleCommand_rest h
  obtain ⟨k1, accepted⟩ := accepted_rest s b chk
  obtain ⟨k2, queue⟩ := queueRun_of_refused (by rw [accepted]; exact hrun) refused
  rw [row, left, effect, queue, accepted]
  exact ⟨{ k with nonces := k1.nonces, auditBad := k1.auditBad, auditFull := k2.auditFull }, m, rfl⟩

/-- Settles O47: a commit takes one notch of its setting, and a STORE that its checks refuse leaves all that it could change. -/
theorem notchesOnlyFall : Obligations.NotchesOnlyFall := by
  unfold Obligations.NotchesOnlyFall
  refine ⟨fun k i j => k.notches_notch_other, fun k i n => Security.notches_notch_self, fun k => Security.notches_notch_sealed, ?commit, ?missing, ?refused⟩
  case commit => exact fun s r i => ⟨fun j => commitOne_notches r i j s, (commitValue_sets r.work i s).notches⟩
  case missing => exact fun s w n i hi h => storeRefusal_of_noNotch hi h n
  case refused =>
    intro s sb b chk code hs h hop hrun _ hr
    obtain ⟨k, m, left⟩ := roleRow_store_of_refused hs h hop hrun hr
    refine ⟨_, rfl, ?_⟩
    rw [left]
    exact ⟨fun _ _ => rfl, fun _ => rfl, rfl, fun _ => rfl, rfl⟩

/-! ### The end of a STORE (R350) -/

/-- The part of the end of a migration that raises the schema and the floors (R373, R374). -/
def raiseSchema (s : State) : State :=
  if !s.boot.migrated then s else
    { s with
      boot := { s.boot with migrated := false, floor := (List.range 5).foldl (fun f i => sset f i (max (sgetD f i 0) (sgetD s.runBank.floors i 0))) s.boot.floor }
      sec := { s.sec with schemaA := s.runBank.schema, schemaB := s.runBank.schema } }

theorem endMigration_eq (s : State) : endMigration s =
    if !(raiseSchema s).sec.pitOld then raiseSchema s
    else if (raiseSchema s).forn.pitOn then clearOldHeader (raiseSchema s)
    else { raiseSchema s with sec := { (raiseSchema s).sec with pitClear := true } } := rfl

theorem hbmWrite_settingBytes (s : State) (a : Nat) (bs : List Byte) (i : Nat) : (s.hbmWrite a bs).settingBytes i = s.settingBytes i := rfl

theorem clearOldHeader_settingBytes (s : State) (i : Nat) : (clearOldHeader s).settingBytes i = s.settingBytes i :=
  (hbmWrite_settingBytes _ _ _ i).trans rfl

theorem endMigration_settingBytes (s : State) (i : Nat) : (endMigration s).settingBytes i = s.settingBytes i := by
  have raised : (raiseSchema s).settingBytes i = s.settingBytes i := by
    unfold raiseSchema
    split <;> rfl
  rw [endMigration_eq, ← raised]
  split_ifs
  · rfl
  · exact clearOldHeader_settingBytes _ i
  · rfl

theorem writeHeader_settingBytes (s : State) (i : Nat) : (writeHeader s).settingBytes i = s.settingBytes i := by
  unfold writeHeader
  split
  · exact hbmWrite_settingBytes _ _ _ i
  · rfl

theorem writeHeader_of_pitOff {s : State} (h : s.forn.pitOn = false) : writeHeader s = s := if_neg (by simp [h])

/-- A STORE without staged changes has none to commit. -/
theorem changes_empty (s : State) : Staged.changes s {} = [] := by
  have bytes (i : Nat) : Staged.bytes {} i = none := by
    simp [Staged.bytes, Staged.key]
  simp [Staged.changes, bytes]

theorem storeEvent_settingBytes (r : StoreRun) (s : State) (i : Nat) : (storeEvent r s).settingBytes i = s.settingBytes i := by
  rw [storeEvent, postEvent_rest]
  rfl

theorem commitRun_settingBytes {r : StoreRun} (h : r.work = {}) (s : State) (i : Nat) : (commitRun r s).settingBytes i = s.settingBytes i := by
  have committed : commitRun r s = writeHeader (endMigration { s with sec := { s.sec with chainSeq := s.pwr.seq, chainDig := s.pwr.digest } }) := by
    simp [commitRun, h, changes_empty, forAll]
  rw [committed, writeHeader_settingBytes, endMigration_settingBytes]
  rfl

theorem exec_storeComplete_of_last {s : State} {r : StoreRun} (hs : s.storesRun = true) (hrun : s.sec.run = some r) (hr : r.release = false)
    (hw : s.sec.waiting = []) : exec .storeComplete s = .next (startRuns [] (storeEvent r (commitRun r s))) := by
  change execStoreComplete s = _
  rw [execStoreComplete, hrun]
  dsimp only
  rw [if_neg (by simp [hs, hr]), hw]

/-! ### The end of a release (R353) -/

/-- What a release clears: HBM, the stores of the tiles and STAGGER_EXCLUDE, in a package with no ash pit and nothing that waits. -/
structure State.Cleared (s : State) : Prop where
  hbm : s.hbm = []
  stores : ∀ t, (s.tile t).store = []
  exclude : s.pwr.exclude = 0
  pitOff : s.forn.pitOn = false
  waiting : s.sec.waiting = []

/-- A state that has these parts of a cleared one is cleared. -/
theorem State.Cleared.of_same {s u : State} (h : s.Cleared) (hbm : u.hbm = s.hbm) (tiles : u.tiles = s.tiles) (exclude : u.pwr.exclude = s.pwr.exclude)
    (forn : u.forn = s.forn) (waiting : u.sec.waiting = s.sec.waiting) : u.Cleared where
  hbm := hbm.trans h.hbm
  stores t := by
    rw [State.tile, tiles]
    exact h.stores t
  exclude := exclude.trans h.exclude
  pitOff := by rw [forn, h.pitOff]
  waiting := waiting.trans h.waiting

theorem State.Cleared.of_pumps {s u : State} (h : s.Cleared) (p : s.Pumps u) : u.Cleared where
  hbm := by rw [p.rest]; exact h.hbm
  stores t := (p.stores t).trans (h.stores t)
  exclude := by rw [p.rest]; exact h.exclude
  pitOff := by rw [p.rest]; exact h.pitOff
  waiting := by rw [p.rest]; exact h.waiting

theorem eraseTenant_cleared {s : State} (he : s.pwr.exclude = 0) (hp : s.forn.pitOn = false) (hw : s.sec.waiting = []) : (eraseTenant s).Cleared where
  hbm := rfl
  stores t := by
    have mapped : sget (eraseTenant s).tiles t = (sget s.tiles t).map (fun x => { x with store := [] }) :=
      sget_map (β := Tile) s.tiles (fun (x : Tile) => { x with store := [] }) t
    rw [State.tile, sgetD, mapped]
    cases sget s.tiles t <;> rfl
  exclude := he
  pitOff := hp
  waiting := hw

theorem appendAudit_cleared {s : State} (h : s.Cleared) (rec role kind n : Nat) (nonce signer value : List Byte) :
    (appendAudit rec role kind n nonce signer value s).Cleared := by
  rw [appendAudit_rest]
  exact h.of_same rfl rfl rfl rfl rfl

theorem Security.notch_waiting (k : Security) (i : Nat) : (k.notch i).waiting = k.waiting := by
  unfold Security.notch
  split_ifs <;> rfl

theorem commitOne_cleared {s : State} (h : s.Cleared) (r : StoreRun) (i : Nat) : (commitOne r i s).Cleared := by
  have value := commitValue_sets r.work i s
  have same : (commitValue r.work i s).Cleared :=
    h.of_same (by rw [value.rest]) (by rw [value.rest]) value.exclude (by rw [value.rest]) value.waiting
  have notched : State.Cleared { commitValue r.work i s with
      sec := { (commitValue r.work i s).sec.notch i with recFailed := (commitValue r.work i s).sec.recFailed.filter (· ≠ i) } } :=
    same.of_same rfl rfl rfl rfl (Security.notch_waiting _ i)
  exact appendAudit_cleared notched _ _ _ _ _ _ _

theorem quarantine_cleared {s : State} (h : s.Cleared) (l reason code : Nat) : (quarantine l reason code s).Cleared := by
  rw [quarantine_eq]
  have fault := h.of_pumps (recordFault_pumps (cordPage l) 0x10 code s)
  refine State.Cleared.of_pumps ?_ (setLinkState_pumps l .quarantined reason _)
  exact fault.of_same rfl rfl rfl rfl rfl

theorem recheckPartners_cleared {s : State} (h : s.Cleared) : (recheckPartners s).Cleared := by
  refine forAll_preserves (P := State.Cleared) _ (fun l u hu => ?_) h
  split
  · exact hu
  · exact quarantine_cleared hu l 1 0x25

theorem endMigration_cleared {s : State} (h : s.Cleared) : (endMigration s).Cleared := by
  have raised : (raiseSchema s).Cleared := by
    unfold raiseSchema
    split
    · exact h
    · exact h.of_same rfl rfl rfl rfl rfl
  rw [endMigration_eq]
  split_ifs with _ pit
  · exact raised
  · rw [raised.pitOff] at pit
    cases pit
  · exact raised.of_same rfl rfl rfl rfl rfl

theorem commitRun_cleared {s : State} (h : s.Cleared) (r : StoreRun) : (commitRun r s).Cleared := by
  have values : (forAll (r.work.changes s) (commitOne r) s).Cleared :=
    forAll_preserves (P := State.Cleared) _ (fun i u hu => commitOne_cleared hu r i) h
  unfold commitRun
  dsimp only
  generalize forAll (r.work.changes s) (commitOne r) s = v at values
  have chained : State.Cleared { v with sec := { v.sec with chainSeq := v.pwr.seq, chainDig := v.pwr.digest } } := values.of_same rfl rfl rfl rfl rfl
  have ended {w : State} (hw : w.Cleared) : (writeHeader (endMigration w)).Cleared := by
    have left := endMigration_cleared hw
    rw [writeHeader_of_pitOff left.pitOff]
    exact left
  split
  · exact ended (recheckPartners_cleared chained)
  · exact ended chained

/-- The audit entry of a release, under a fresh RECORD_ID and value (R353, R357). -/
def releaseAudit (r : StoreRun) (v : State) : State :=
  appendAudit (leNat ((freeBytes 34 v).1.drop 32)) 1 2 (freeBytes 34 v).2.sec.nOwn (natLe 8 r.nonce.toNat) (natLe 8 r.signer.toNat) (freeBytes 34 v).1
    (freeBytes 34 v).2

/-- What ends a release once its changes are committed: the audit entry, the event, and the next run. -/
def releaseEnds (r : StoreRun) (v : State) : State := startRuns (releaseAudit r v).sec.waiting (storeEvent r (releaseAudit r v))

/-- The end of a release with no run that waits: what was cleared stays so until nothing is in progress any longer. -/
theorem exec_ownerReleaseComplete_of_last {s : State} {r : StoreRun} (hs : s.storesRun = true) (hrun : s.sec.run = some r) (hr : r.release = true)
    (hw : s.sec.waiting = []) (hp : s.forn.pitOn = false) : ∃ v : State, v.Cleared ∧ exec .ownerReleaseComplete s = .next (startRuns [] v) := by
  have erased : (eraseTenant { s with pwr := { s.pwr with exclude := 0 } }).Cleared := eraseTenant_cleared rfl hp hw
  have committed := commitRun_cleared erased r
  have notched : State.Cleared { commitRun r (eraseTenant { s with pwr := { s.pwr with exclude := 0 } }) with
      sec := (commitRun r (eraseTenant { s with pwr := { s.pwr with exclude := 0 } })).sec.notch 7 } :=
    committed.of_same rfl rfl rfl rfl (Security.notch_waiting _ 7)
  have ended {v : State} (hv : v.Cleared) : ∃ x : State, x.Cleared ∧
      Host.Outcome.next (releaseEnds r v) = (.next (startRuns [] x) : Host.Outcome State Fault Refusal) := by
    have drawn : (freeBytes 34 v).2.Cleared := hv.of_same rfl rfl rfl rfl rfl
    have audited : (releaseAudit r v).Cleared := appendAudit_cleared drawn _ _ _ _ _ _ _
    exact ⟨_, audited.of_pumps (postEvent_pumps _ _ _ _ _), by rw [releaseEnds, audited.waiting]; rfl⟩
  change ∃ v : State, v.Cleared ∧ execOwnerReleaseComplete s = _
  rw [execOwnerReleaseComplete, hrun]
  dsimp only
  rw [if_neg (by simp [hs, hr])]
  split
  · exact ended committed
  · exact ended notched

/-- Settles O46: with nothing that waits a STORE and a release leave none in progress; a STORE of no change leaves the settings, and what a release
clears stays cleared through its commit. -/
theorem storesAndReportsComplete : Obligations.StoresAndReportsComplete := by
  unfold Obligations.StoresAndReportsComplete
  refine ⟨?store, ?release, ?request, ?report⟩
  case store =>
    intro s r hs hrun hr hw
    refine ⟨_, exec_storeComplete_of_last hs hrun hr hw, rfl, fun hwork i _ => ?_⟩
    exact (storeEvent_settingBytes r _ i).trans (commitRun_settingBytes hwork s i)
  case release =>
    intro s r hs hrun hr hw hp
    obtain ⟨v, cleared, hv⟩ := exec_ownerReleaseComplete_of_last hs hrun hr hw hp
    exact ⟨_, hv, cleared.hbm, cleared.stores, cleared.exclude, rfl⟩
  case request =>
    intro s src v hsrc hs hv nonce
    have request : exec (.attestRequest src v) s = .next (writeAttest v s) := by
      change execAttestRequest src v s = _
      simp [execAttestRequest, hs, hsrc]
    rw [request, writeAttest]
    exact ⟨fun idle => by simp [hv, idle, nonce], fun building => by simp [hv, building]⟩
  case report =>
    intro s a rest hb rep
    have ready : exec .attestReportReady s = .next (if a.owner then
        roleReply a.sideband 0 (rep ++ a.ownerPart) { s with sec := { s.sec with attBuild := rest } }
        else { s with sec := { s.sec with attBuild := rest, attData := rep, attSt := 2 } }) := by
      change execAttestReportReady s = _
      rw [execAttestReportReady, hb]
    rw [ready]
    exact ⟨fun own => by simp [own], fun own => by simp [own]⟩

end Sys2Proof.Machine
end

section
/-! PROOFS. The cadence unit: what its events do, and what makes its count grow (R296 to R300). -/

namespace Sys2Proof.Machine

/-! ### The count is left alone (R297) -/

theorem flagTally_count (f : Nat) (s : State) : (flagTally f s).cad.count = s.cad.count := rfl

theorem recordFault_count (key blk code : Nat) (s : State) : (recordFault key blk code s).cad.count = s.cad.count := by rw [recordFault_rest]

theorem cadenceCheck_count (mark : Bool) (s : State) : (cadenceCheck mark s).cad.count = s.cad.count := by
  unfold cadenceCheck
  dsimp only
  generalize (s.links.any fun p => p.2.joins && p.2.lastCad.any fun v => decide (2 < apart v.1 v.2)) = bad
  cases bad with
  | false => rfl
  | true =>
    split
    · exact recordFault_count _ _ _ _
    · rfl

theorem sendCadence_count (n prev : Nat) (s : State) : (sendCadence n prev s).cad.count = s.cad.count := by
  refine (cadenceCheck_count true _).trans ?_
  refine forAll_preserves (P := fun u => u.cad.count = s.cad.count) _ (fun _ _ h => ?_) ?_
  · exact h
  · rfl

theorem openMinute_count (n : Nat) (s : State) : (openMinute n s).cad.count = s.cad.count := sendCadence_count _ _ _

theorem closeMinute_count (n flags : Nat) (s : State) : (closeMinute n flags s).cad.count = s.cad.count := sendCadence_count _ _ _

theorem judgeMark_count (gen : Bool) (s : State) : (judgeMark gen s).cad.count = s.cad.count := by
  unfold judgeMark
  extract_lets n c s0
  have fallback : s0.cad.count = s.cad.count := by
    dsimp only [s0]
    split <;> rfl
  rw [← fallback]
  split
  · exact openMinute_count n s0
  · split
    · exact closeMinute_count n 0 s0
    · split
      · exact closeMinute_count n _ s0
      · split
        · exact closeMinute_count n 8 _
        · rfl

theorem tickSlot_count (k : Nat) (s : State) : (tickSlot k s).cad.count = s.cad.count := by
  unfold tickSlot
  dsimp only
  split <;> rfl

theorem fireSlots_count (s : State) : (fireSlots s).cad.count = s.cad.count :=
  forAll_preserves (P := fun u => u.cad.count = s.cad.count) _ (fun k _ h => (tickSlot_count k _).trans h) rfl

theorem enterHoldover_count (s : State) : (enterHoldover s).cad.count = s.cad.count := recordFault_count _ _ _ _

/-- A tick moves the count on by one, whatever its slots and its mark do. -/
theorem tickOnce_count (mark gen : Bool) (s : State) : (tickOnce mark gen s).cad.count = s.cad.count + 1 := by
  unfold tickOnce
  dsimp only
  split
  · exact (judgeMark_count gen _).trans (fireSlots_count _)
  · exact fireSlots_count _

/-! ### Edges (R296, R297, R299) -/

/-- An edge qualifies: its period is near the nominal one and its pulse is that of a tick or of a mark (R296). -/
def State.qualifies (s : State) (p h : Nat) : Bool := nearNominal s.sec.nominal p && (tickWidth p h || markWidth p h)

/-- What every edge notes: its period, and the run of malformed pulses. -/
def Cadence.noteEdge (c : Cadence) (p h : Nat) : Cadence :=
  { c with
    allPeriods := (p :: c.allPeriods).take 64
    badRun := if tickWidth p h || markWidth p h then 0 else min (c.badRun + 1) 3 }

/-- What a qualified edge notes besides: its period for the mean, its time, and the run of qualified edges. -/
def Cadence.noteQualified (c : Cadence) (p us : Nat) : Cadence :=
  { c with periods := (p :: c.periods).take 64, lastQual := us, qualRun := min (c.qualRun + 1) 16 }

theorem exec_cadenceEdge (s : State) (p h : Nat) (ha : s.awake = true) :
    exec (.cadenceEdge p h) s = .next (
      let c1 := s.cad.noteEdge p h
      let c2 := c1.noteQualified p s.us
      if !s.qualifies p h then { s with cad := { c1 with qualRun := 0 } }
      else if s.cad.st = .locked then tickOnce (markWidth p h) false { s with cad := c2 }
      else if c2.qualRun < 16 then { s with cad := c2 }
      else { s with cad := { c2 with st := .locked, badRun := 0, allPeriods := [], holdSince := none } }) := by
  change execCadenceEdge p h s = _
  rw [execCadenceEdge, if_neg (by simp [ha])]
  rfl

theorem exec_cadenceEdge_of_asleep {s : State} (p h : Nat) (ha : s.awake = false) : exec (.cadenceEdge p h) s = .next s := by
  change execCadenceEdge p h s = _
  rw [execCadenceEdge, if_pos (by simp [ha])]

/-- An edge counts when the unit is awake and locked and the edge qualifies. -/
theorem cadenceEdge_counts (s : State) (p h : Nat) : Completes (.cadenceEdge p h) s fun u =>
    u.cad.count = s.cad.count + (if s.awake && s.cad.st = .locked && nearNominal s.sec.nominal p && (tickWidth p h || markWidth p h) then 1 else 0) := by
  have qual : (nearNominal s.sec.nominal p && (tickWidth p h || markWidth p h)) = s.qualifies p h := rfl
  rw [Bool.and_assoc, qual]
  cases ha : s.awake with
  | false => exact ⟨s, exec_cadenceEdge_of_asleep p h ha, by simp⟩
  | true =>
    refine ⟨_, exec_cadenceEdge s p h ha, ?_⟩
    dsimp only
    cases hq : s.qualifies p h with
    | false => simp [Cadence.noteEdge]
    | true =>
      by_cases hl : s.cad.st = .locked
      · simp only [Bool.not_true, Bool.false_eq_true, if_false, hl, if_true, decide_true, Bool.and_self]
        exact tickOnce_count _ _ _
      · simp only [Bool.not_true, Bool.false_eq_true, if_false, hl, decide_false, Bool.and_false, Bool.false_and]
        split <;> simp [Cadence.noteEdge, Cadence.noteQualified]

/-! ### Generated ticks and timeouts (R297 to R300) -/

theorem exec_generatedTick (s : State) : exec .generatedTick s =
    .next (if s.cad.st = .holdover then tickOnce (s.cad.expected = some (s.cad.count.toNat + 1)) true s else s) := rfl

theorem exec_acquireTimeout (s : State) : exec .acquireTimeout s =
    .next (if s.cad.st = .acquiring && 1000000 ≤ s.us then enterHoldover { s with cad := { s.cad with periods := [] } } else s) := rfl

theorem exec_holdoverEntry (s : State) : exec .holdoverEntry s = .next (if s.cad.st = .locked && s.holdoverDue then enterHoldover s else s) := rfl

theorem exec_minuteMarkMissing (s : State) : exec .minuteMarkMissing s =
    .next (if s.cad.opened && s.cad.expected.any (fun e => decide (e + 2 ≤ s.cad.count.toNat)) then closeMinute s.cad.count.toNat 16 s else s) := rfl

theorem exec_fallbackTimeout (s : State) : exec .fallbackTimeout s =
    .next (if s.cad.st = .holdover && !s.cad.fallback && s.cad.holdSince.any (fun t => decide (60000000 + t ≤ s.us)) then
      flagTally 2 (recordFault (pageKey 0x58 0) 0x13 0x32 { s with cad := { s.cad with fallback := true } }) else s) := rfl

/-- Settles O35: an edge and a generated tick count by one tick where they tick, and the timeouts write other parts of the unit. -/
theorem cadenceCounts : Obligations.CadenceCounts := by
  unfold Obligations.CadenceCounts
  refine ⟨cadenceEdge_counts, ?generated, ?timeouts⟩
  case generated =>
    intro s
    refine ⟨_, exec_generatedTick s, ?_⟩
    split
    · exact tickOnce_count _ _ _
    · simp
  case timeouts =>
    intro s c hc
    simp only [List.mem_cons, List.not_mem_nil, or_false] at hc
    rcases hc with rfl | rfl | rfl | rfl
    · refine ⟨_, exec_holdoverEntry s, ?_⟩
      split
      · exact enterHoldover_count s
      · rfl
    · refine ⟨_, exec_acquireTimeout s, ?_⟩
      split
      · exact enterHoldover_count _
      · rfl
    · refine ⟨_, exec_minuteMarkMissing s, ?_⟩
      split
      · exact closeMinute_count _ _ s
      · rfl
    · refine ⟨_, exec_fallbackTimeout s, ?_⟩
      split
      · exact recordFault_count _ _ _ _
      · rfl

/-- Settles O33: each event under its condition is the branch of its meaning that the condition opens. -/
theorem cadenceEventsComplete : Obligations.CadenceEventsComplete := by
  unfold Obligations.CadenceEventsComplete
  refine ⟨?edge, ?acquire, ?holdover, ?generated, ?missing, ?fallback⟩
  case edge =>
    intro s p h ha q c1 c2
    have edge := exec_cadenceEdge s p h ha
    have run : (s.cad.noteEdge p h |>.noteQualified p s.us).qualRun = min (s.cad.qualRun + 1) 16 := rfl
    have qual : s.qualifies p h = q := rfl
    refine ⟨fun hq => ?_, fun hq hl => ?_, fun hq hl hr => ?_, fun hq hl hr => ?_⟩ <;> rw [edge] <;>
      simp only [qual, hq, Bool.not_false, Bool.not_true, Bool.false_eq_true, if_true, if_false]
    · rfl
    · rw [if_pos hl]
      rfl
    · rw [if_neg hl, if_pos (by rw [run]; omega)]
      rfl
    · rw [if_neg hl, if_neg (by rw [run]; omega)]
      rfl
  case acquire =>
    intro s hst ht
    rw [exec_acquireTimeout, if_pos (by simp [hst, ht])]
  case holdover =>
    intro s hst hd
    rw [exec_holdoverEntry, if_pos (by simp [hst, hd])]
  case generated =>
    intro s hst
    rw [exec_generatedTick, if_pos hst]
  case missing =>
    intro s e ho he hn
    rw [exec_minuteMarkMissing, if_pos (by simp [ho, he, hn])]
  case fallback =>
    intro s t hst hf hh ht
    rw [exec_fallbackTimeout, if_pos (by simp [hst, hf, hh, ht])]

/-! ### Duty (R310, R311) -/

/-- The actions with their conditions: the first that holds is taken. -/
theorem dutyAction_cases (l d m : Nat) :
    (dutyAction l d m = 1 ∧ l < d) ∨ (dutyAction l d m = 2 ∧ d ≤ l ∧ 98 * l < 100 * d) ∨
    (dutyAction l d m = 3 ∧ 100 * d < 90 * l ∧ m < 90 * l) ∨
    (dutyAction l d m = 0 ∧ d ≤ l ∧ 100 * d ≤ 98 * l ∧ (90 * l ≤ 100 * d ∨ 90 * l ≤ m)) := by
  unfold dutyAction
  split_ifs with above near low
  · exact .inl ⟨rfl, above⟩
  · exact .inr (.inl ⟨rfl, by omega, near⟩)
  · simp only [Bool.and_eq_true, decide_eq_true_eq] at low
    exact .inr (.inr (.inl ⟨rfl, low⟩))
  · simp only [Bool.and_eq_true, decide_eq_true_eq] at low
    exact .inr (.inr (.inr ⟨rfl, by omega, by omega, by omega⟩))

/-- The duty of a group that is not hot. -/
theorem newDuty_cool (act a : Nat) :
    newDuty act false a = min 56 (if act = 1 then a + 4 else if act = 2 then a + 1 else if act = 3 then a - 1 else a) := by
  simp [newDuty]

/-- The duty of a hot group: the third action is not taken, and it rises by one more. -/
theorem newDuty_hot (act a : Nat) : newDuty act true a = min 56 ((if act = 1 then a + 4 else if act = 2 then a + 1 else a) + 1) := by
  simp [newDuty]

/-- A higher draw takes an action that raises the duty no less. -/
theorem newDuty_mono {l d d' : Nat} (h : d ≤ d') (m a : Nat) : newDuty (dutyAction l d m) false a ≤ newDuty (dutyAction l d' m) false a := by
  rw [newDuty_cool, newDuty_cool]
  rcases dutyAction_cases l d m with ⟨act, hd⟩ | ⟨act, hd⟩ | ⟨act, hd⟩ | ⟨act, hd⟩ <;>
  rcases dutyAction_cases l d' m with ⟨act', hd'⟩ | ⟨act', hd'⟩ | ⟨act', hd'⟩ | ⟨act', hd'⟩ <;>
  · simp only [act, act', Nat.reduceEqDiff, if_true, if_false, Nat.le_refl] <;> omega

theorem newDuty_le (act a : Nat) (hot : Bool) : newDuty act hot a ≤ 56 := Nat.min_le_left _ _

/-- Settles O37: the conditions of the actions exclude each other, and each duty is the action's, held at 56, and one more for a hot group. -/
theorem dutyActionRules : Obligations.DutyActionRules := by
  unfold Obligations.DutyActionRules
  refine ⟨fun l d m => ⟨?above, ?near, ?low⟩, fun l d d' m a h _ => newDuty_mono h m a, newDuty_le, ?rises, ?hot⟩
  case above => exact fun h => if_pos h
  case near =>
    intro below near
    rw [dutyAction, if_neg (by omega), if_pos near]
  case low =>
    rcases dutyAction_cases l d m with ⟨act, hd⟩ | ⟨act, hd⟩ | ⟨act, hd⟩ | ⟨act, hd⟩ <;>
    · rw [act]
      omega
  case rises =>
    intro act a ha
    rw [newDuty_hot]
    split_ifs <;> omega
  case hot =>
    intro l d m a ha
    rw [newDuty_hot, newDuty_cool]
    rcases dutyAction_cases l d m with ⟨act, _⟩ | ⟨act, _⟩ | ⟨act, _⟩ | ⟨act, _⟩ <;>
    · rw [act]
      simp only [Nat.reduceEqDiff, if_true, if_false]
      omega

end Sys2Proof.Machine
end

section
/-! PROOFS. Commands of the submission rings with a reserved opcode or a reserved byte set (R286, R287, R412). -/

namespace Sys2Proof.Machine

/-- Every ring command takes the command of its ring for the row of its own opcode, which is a defined one. -/
theorem exec_ringCommand {r : RingId} {e : Ecc} {i : Instr} {op : Nat} (h : (i, op) ∈ ringCommands r e) (s : State) :
    1 ≤ op ∧ op ≤ 11 ∧ ∃ f, exec i s = .next (withCommand r op s f) := by
  simp only [ringCommands, List.mem_cons, List.not_mem_nil, or_false, Prod.mk.injEq] at h
  rcases h with ⟨rfl, rfl⟩ | ⟨rfl, rfl⟩ | ⟨rfl, rfl⟩ | ⟨rfl, rfl⟩ | ⟨rfl, rfl⟩ | ⟨rfl, rfl⟩ | ⟨rfl, rfl⟩ | ⟨rfl, rfl⟩ | ⟨rfl, rfl⟩ |
    ⟨rfl, rfl⟩ | ⟨rfl, rfl⟩ | ⟨rfl, rfl⟩ <;> exact ⟨by decide, by decide, _, rfl⟩

/-- A reserved opcode is refused by the row of any opcode, a reserved byte by the row of the command's own. -/
theorem withCommand_of_reserved {r op : Nat} {s : State} (hn : s.nextRing = some r) (hop : 1 ≤ op ∧ op ≤ 11)
    (h : cmdOpcode (s.ringCmd r) = 0 ∨ 11 < cmdOpcode (s.ringCmd r) ∨ (cmdOpcode (s.ringCmd r) = op ∧ cmdReserved (s.ringCmd r) = true))
    (f : List Byte → State → State) : withCommand r op s f = reject r (s.ringCmd r) 0x01 (tookCommand r s) := by
  rw [withCommand, if_neg (not_not.mpr hn)]
  dsimp only
  rcases h with h | h | ⟨own, reserved⟩
  · rw [if_pos (by simp [h])]
  · rw [if_pos (by simp [h])]
  · have defined : ¬ (decide (cmdOpcode (s.ringCmd r) = 0) || decide (11 < cmdOpcode (s.ringCmd r))) = true := by
      simp
      omega
    rw [if_neg defined, if_neg (not_not.mpr own), if_pos reserved]

/-- A refused command changes its ring, the event of its completion and the host memory that takes the event. -/
theorem reject_tookCommand_rest (r : Nat) (c : List Byte) (code : Nat) (s : State) :
    ∃ (e : Evl) (m : Memory), reject r c code (tookCommand r s) = { s with evl := e, hostMem := m } := by
  have taken (e : Evl) (m : Memory) : ({ tookCommand r s with evl := e, hostMem := m } : State) = { s with evl := e, hostMem := m } := by
    simp only [tookCommand, State.modRing, State.cacheLine]
  exact ⟨_, _, (postTo_rest _ _ _ _ _ _ _).trans (taken _ _)⟩

/-- Settles O29: the command is taken and refused before its row's own meaning is reached. -/
theorem reservedRingCommandsRefused : Obligations.ReservedRingCommandsRefused := by
  unfold Obligations.ReservedRingCommandsRefused
  intro s r e i op hn hi c hc u
  obtain ⟨first, last, f, row⟩ := exec_ringCommand hi s
  have refused : exec i s = .next (reject r c 0x01 u) := by rw [row, withCommand_of_reserved hn ⟨first, last⟩ hc f]
  refine ⟨refused, fun v hv => ?_⟩
  obtain rfl := Host.Outcome.next.inj (refused.symm.trans hv)
  obtain ⟨e, m, left⟩ := reject_tookCommand_rest r c 0x01 s
  rw [left]

end Sys2Proof.Machine
end

section
/-! PROOFS. The sideband on SMBus, JTAG, and the end of a SYNC_OUT pulse (R316, R354, R362, R368, R447 to R450). -/

namespace Sys2Proof.Machine

/-! ### Reads on SMBus (R362, R368, R449) -/

theorem smbAnswer_of_sideband {s : State} (h : s.sideband = true) (f : State → List Byte) : smbAnswer f s = { s with smb := { bytes := f s } } :=
  if_pos h

theorem smbAnswer_of_silent {s : State} (h : s.sideband = false) (f : State → List Byte) : smbAnswer f s = s := if_neg (by simp [h])

theorem foldl_max_le (xs : List Nat) (a : Nat) : a ≤ xs.foldl max a ∧ ∀ x ∈ xs, x ≤ xs.foldl max a := by
  induction xs generalizing a with
  | nil => simp
  | cons y r ih =>
    obtain ⟨start, rest⟩ := ih (max a y)
    exact ⟨(Nat.le_max_left a y).trans start, List.forall_mem_cons.mpr ⟨(Nat.le_max_right a y).trans start, rest⟩⟩

/-- No unit of a kind is hotter than the hottest. -/
theorem le_hottest {n i : Nat} (f : Nat → Nat) (h : i < n) : f i ≤ hottest n f :=
  (foldl_max_le _ 0).2 (f i) (List.mem_map_of_mem (List.mem_range.mpr h))

theorem exec_smbusReadFaultSummary_of_address {s : State} (h : s.smbAddr.isSome = true) : exec .smbusReadFaultSummary s =
    .next { s with smb := { bytes := s.summaryBytes }, pins := { s.pins with smbAlert := false } } :=
  congrArg Host.Outcome.next (if_pos h)

/-! ### Role commands in chunks (R449) -/

/-- The index of a chunk and the LAST bit stand in its first byte. -/
theorem exec_smbusRoleChunk {s : State} (hs : s.serves = true) (h : Byte) {data : List Byte} (hd : data.length ≤ 240) (chk : RoleCheck)
    {held : List (List Byte)} (first : (if bf h.toNat 0 7 = 0 then [] else s.sec.chunks) = held) :
    exec (.smbusRoleChunk ⟨h :: data, true⟩ chk) s = .next
      (if bf h.toNat 0 7 ≠ held.length then { s with sec := { s.sec with chunks := [] } }
       else if h.getLsbD 7 then roleCommand true ((held ++ [data]).flatten) chk { s with sec := { s.sec with chunks := [] } }
       else { s with sec := { s.sec with chunks := held ++ [data] } }) := by
  subst first
  change execSmbusRoleChunk (⟨h :: data, true⟩ : SmbBlock) chk s = _
  rw [execSmbusRoleChunk]
  dsimp only
  rw [if_neg (by simp [hs]), if_neg (Nat.not_lt.mpr hd)]

/-- The LAST chunk submits the command whole (R449). -/
theorem exec_roleCommand_of_serves {s : State} (hs : s.serves = true) (bytes : List Byte) (chk : RoleCheck) :
    exec (.roleCommand true bytes chk) { s with sec := { s.sec with chunks := [] } } =
      .next (roleCommand true bytes chk { s with sec := { s.sec with chunks := [] } }) := by
  have serves : State.serves { s with sec := { s.sec with chunks := [] } } = true := hs
  change execRoleCommand true bytes chk _ = _
  rw [execRoleCommand, if_pos serves]

theorem exec_smbusRoleChunk_of_more {s : State} (hs : s.serves = true) {h : Byte} {data : List Byte} (hd : data.length ≤ 240) (chk : RoleCheck)
    {held : List (List Byte)} (first : (if bf h.toNat 0 7 = 0 then [] else s.sec.chunks) = held) (next : bf h.toNat 0 7 = held.length)
    (more : h.getLsbD 7 = false) :
    exec (.smbusRoleChunk ⟨h :: data, true⟩ chk) s = .next { s with sec := { s.sec with chunks := held ++ [data] } } := by
  rw [exec_smbusRoleChunk hs h hd chk first, if_neg (not_not_intro next), if_neg (Bool.eq_false_iff.mp more)]

theorem exec_smbusRoleChunk_of_last {s : State} (hs : s.serves = true) {h : Byte} {data : List Byte} (hd : data.length ≤ 240) (chk : RoleCheck)
    {held : List (List Byte)} (first : (if bf h.toNat 0 7 = 0 then [] else s.sec.chunks) = held) (next : bf h.toNat 0 7 = held.length)
    (last : h.getLsbD 7 = true) :
    exec (.smbusRoleChunk ⟨h :: data, true⟩ chk) s =
      exec (.roleCommand true ((held ++ [data]).flatten) chk) { s with sec := { s.sec with chunks := [] } } := by
  rw [exec_smbusRoleChunk hs h hd chk first, if_neg (not_not_intro next), if_pos last, exec_roleCommand_of_serves hs]

theorem exec_smbusRoleChunk_of_badPec (s : State) (h : Byte) (data : List Byte) (chk : RoleCheck) :
    exec (.smbusRoleChunk ⟨h :: data, false⟩ chk) s = .next s := by
  change execSmbusRoleChunk (⟨h :: data, false⟩ : SmbBlock) chk s = _
  rw [execSmbusRoleChunk]
  dsimp only
  rw [if_pos (by simp)]

theorem exec_smbusRoleReply {s : State} (hs : s.serves = true) :
    let r := s.sec.replyBytes
    let n := s.sec.replyAt
    exec .smbusRoleReply s = .next { s with
      smb := { bytes := natLe 1 (n + if r.length ≤ 240 * (n + 1) then 128 else 0) ++ (r.drop (240 * n)).take 240 }
      sec := { s.sec with replyAt := if r.length ≤ 240 * (n + 1) then 0 else n + 1 } } := by
  intro r n
  change execSmbusRoleReply s = _
  rw [execSmbusRoleReply, if_neg (by simp [hs])]

/-! ### JTAG (R354, R450) -/

theorem exec_jtagAccess_of_open {s : State} {op : Nat} (ha : s.awake = true) (h : op < 2 ∨ op = 2 ∧ s.sec.debugIn = 0) :
    exec (.jtagAccess ⟨op, true⟩) s = .next { s.draw.2 with jtag := { bytes := natLe 8 s.draw.1.toNat } } := by
  have known : ¬2 < op := by omega
  have permitted : ¬(op = 2 ∧ s.sec.debugIn ≠ 0) := by omega
  change execJtagAccess ⟨op, true⟩ s = _
  rw [execJtagAccess, if_neg (by simpa [ha] using known), if_neg (by simpa using permitted)]

theorem exec_jtagAccess_of_closed {s : State} (ha : s.awake = true) (h : s.sec.debugIn ≠ 0) :
    exec (.jtagAccess ⟨2, true⟩) s = .next { s with jtag := { code := faultCode 0 0x07 } } := by
  change execJtagAccess ⟨2, true⟩ s = _
  simp [execJtagAccess, ha, h]

/-- Settles O54: each read, chunk and access answers as its own equation says, and a part that failed stage 2 has no sideband but its fault summary. -/
theorem pinCommandsComplete : Obligations.PinCommandsComplete := by
  unfold Obligations.PinCommandsComplete
  refine ⟨?sideband, ?dead, ?chunk, ?reply, ?jtagOpen, ?jtagClosed, fun s op => rfl, fun s => rfl⟩
  case sideband =>
    intro s h
    have address : s.smbAddr.isSome = true := by
      simp only [State.sideband, Bool.and_eq_true] at h
      exact h.1
    exact ⟨congrArg Host.Outcome.next (smbAnswer_of_sideband h _), congrArg Host.Outcome.next (smbAnswer_of_sideband h _),
      exec_smbusReadFaultSummary_of_address address, rfl, _, congrArg Host.Outcome.next (smbAnswer_of_sideband h _), rfl, _, _, _, rfl,
      fun i hi => le_hottest (fun r => (s.region r).temp) hi, fun i hi => le_hottest (fun d => (s.die d).temp) hi,
      fun i hi => le_hottest (fun k => (s.stack k).temp) hi⟩
  case dead =>
    intro s address dead
    have silent : s.sideband = false := by simp [State.sideband, dead]
    exact ⟨exec_smbusReadFaultSummary_of_address address, congrArg Host.Outcome.next (smbAnswer_of_silent silent _), congrArg Host.Outcome.next (smbAnswer_of_silent silent _),
      congrArg Host.Outcome.next (smbAnswer_of_silent silent _)⟩
  case chunk =>
    intro s h data chk hs hd n got
    have start (hn : n = 0) : (if bf h.toNat 0 7 = 0 then [] else s.sec.chunks) = [] := if_pos hn
    have next (hn : n ≠ 0) : (if bf h.toNat 0 7 = 0 then [] else s.sec.chunks) = s.sec.chunks := if_neg hn
    refine ⟨fun hn last => ?_, fun hn last => ?_, fun hn hl last => ?_, fun hn hl last => ?_, fun hn hl => ?_, exec_smbusRoleChunk_of_badPec s h data chk⟩
    · exact exec_smbusRoleChunk_of_more hs hd chk (start hn) hn last
    · rw [exec_smbusRoleChunk_of_last hs hd chk (start hn) hn last]
      simp
    · exact exec_smbusRoleChunk_of_more hs hd chk (next hn) hl last
    · exact exec_smbusRoleChunk_of_last hs hd chk (next hn) hl last
    · rw [exec_smbusRoleChunk hs h hd chk (next hn), if_pos hl]
  case reply =>
    intro s hs r n
    rw [exec_smbusRoleReply hs]
    refine ⟨fun more => ?_, fun last => ?_⟩
    · rw [if_neg (Nat.not_le.mpr more), if_neg (Nat.not_le.mpr more)]
      rfl
    · rw [if_pos last, if_pos last]
  case jtagOpen => exact fun s op ha h => ⟨_, exec_jtagAccess_of_open ha h, rfl, rfl⟩
  case jtagClosed => exact fun s ha h => exec_jtagAccess_of_closed ha h

end Sys2Proof.Machine
end

section
/-! PROOFS. Update sessions (R375 to R378). -/

namespace Sys2Proof.Machine

/-! ### What the update commands leave of the ACTIVE bank (R378) -/

/-- The ACTIVE bank, which bank it is, and the floors stand. -/
def State.KeepsActive (s u : State) : Prop :=
  u.boot.flash s.boot.active = s.boot.flash s.boot.active ∧ u.boot.active = s.boot.active ∧ u.boot.floor = s.boot.floor

theorem State.KeepsActive.refl (s : State) : s.KeepsActive s := ⟨rfl, rfl, rfl⟩

theorem State.KeepsActive.ite {s a b : State} {c : Prop} [Decidable c] (ha : s.KeepsActive a) (hb : s.KeepsActive b) :
    s.KeepsActive (if c then a else b) := by
  split
  · exact ha
  · exact hb

theorem State.KeepsActive.answer {s u : State} (h : s.KeepsActive u) (code : Nat) (bytes : List Byte) : s.KeepsActive (u.answer code bytes) := h

theorem State.KeepsActive.modSession {s u : State} (h : s.KeepsActive u) (f : Session → Session) : s.KeepsActive (modSession f u) := h

theorem State.KeepsActive.refuseBlock (s : State) (flag code : Nat) : s.KeepsActive (refuseBlock flag code s) := .refl s

/-- The bank that is written is the other one (R378). -/
theorem State.KeepsActive.modSpare {s : State} (h : s.boot.active < 2) (f : FwBank → FwBank) : s.KeepsActive (modSpare f s) :=
  ⟨s.boot.flash_setFlash_other _ (by unfold Boot.spare; omega), s.boot.setFlash_active _ _, s.boot.setFlash_floor _ _⟩

theorem abandonUpdate_keepsActive (s : State) : s.KeepsActive (abandonUpdate s) := .ite (.refl s) (.refuseBlock s _ _)

theorem manifestBlock_keepsActive (b : List Byte) (ok : Bool) (s : State) : s.KeepsActive (manifestBlock b ok s) :=
  .ite (.refuseBlock s _ _) <| .ite (.refuseBlock s _ _) <| .ite (.refuseBlock s _ _) <| .ite (.refuseBlock s _ _) <|
    .ite (.refuseBlock s _ _) (.refl s)

theorem imageBlock_keepsActive {s : State} (h : s.boot.active < 2) (m : FwBank) (b : List Byte) : s.KeepsActive (imageBlock m b s) :=
  .ite (.refuseBlock s _ _) <| .ite (.refuseBlock s _ _) <| .ite (.refuseBlock s _ _) <| .ite (.refuseBlock s _ _) <|
    .ite (.refuseBlock s _ _) <| .ite (.refuseBlock s _ _) <| .ite (.refuseBlock s _ _) <| ((State.KeepsActive.modSpare h _).modSession _).answer _ _

theorem updateCommand_keepsActive {s u : State} {c : Instr} {b : List Byte} {ok : Bool} (h : s.boot.active < 2)
    (hc : c ∈ [Instr.updateBegin b, .updateCopyComplete, .updateBlock b ok, .updateEnd b, .updateAbort]) (run : exec c s = .next u) :
    s.KeepsActive u := by
  simp only [List.mem_cons, List.not_mem_nil, or_false] at hc
  obtain rfl | rfl | rfl | rfl | rfl := hc <;> cases run
  · exact .ite (.refl s) <| .ite (.refuseBlock s _ _) <| .ite (.refuseBlock s _ _) <| ((State.KeepsActive.modSpare h _).modSession _).answer _ _
  · exact .ite (.refl s) <| (State.KeepsActive.modSpare h _).modSession _
  · refine .ite (.refl s) <| .ite (.ite (abandonUpdate_keepsActive s) (.refuseBlock s _ _)) <| .ite (.refuseBlock s _ _) <|
      .ite (.refuseBlock s _ _) <| .ite (.refuseBlock s _ _) ?_
    split
    · exact .ite (manifestBlock_keepsActive b ok s) (.refuseBlock s _ _)
    · exact .ite (.refuseBlock s _ _) (imageBlock_keepsActive h _ b)
  · refine .ite (.refl s) <| .ite (.refuseBlock s _ _) <| .ite (.refuseBlock s _ _) ?_
    split
    · exact .refuseBlock s _ _
    · exact .ite (.refuseBlock s _ _) <| .ite (.refuseBlock s _ _) <| .ite (.refuseBlock s _ _) <|
        ((State.KeepsActive.modSpare h _).modSession _).answer _ _
  · exact .ite (abandonUpdate_keepsActive s) (.refl s)

/-! ### Commands whose checks hold -/

@[simp] theorem modSpare_session (f : FwBank → FwBank) (s : State) : (modSpare f s).boot.session = s.boot.session := by
  unfold modSpare Boot.setFlash
  dsimp only
  split <;> rfl

theorem modSpare_flash (f : FwBank → FwBank) (s : State) : (modSpare f s).boot.flash s.boot.spare = f (s.boot.flash s.boot.spare) :=
  s.boot.flash_setFlash_same _ _

theorem abandonUpdate_of_open {s : State} (h : s.boot.session.st = 1 ∨ s.boot.session.st = 2) :
    abandonUpdate s = (modSession (fun k => { flags := k.flags }) s).answer 0 [] := if_pos (by simpa using h)

theorem exec_updateAbort {s : State} (h : s.serves = true) : exec .updateAbort s = .next (abandonUpdate s) := congrArg Host.Outcome.next (if_pos h)

theorem exec_updateBegin {s : State} {b : List Byte} (h : s.serves = true) (hb : ubHeader 1 b = true)
    (closed : s.boot.session.st = 0 ∨ s.boot.session.st = 4) :
    exec (.updateBegin b) s = .next ((modSession (fun k => { st := if s.boot.recovery then 2 else 1, flags := k.flags })
      (modSpare (fun k => { k with st := .invalid }) s)).answer 0 []) := by
  change execUpdateBegin b s = _
  rw [execUpdateBegin, if_neg (by simp [h]), if_neg (by simp [hb]), if_neg (by simpa using by omega)]

theorem exec_updateCopyComplete {s : State} (h : s.boot.session.st = 1) :
    exec .updateCopyComplete s = .next (modSession (fun k => { k with st := 2 }) (modSpare (fun _ => { s.boot.flash s.boot.active with st := .invalid }) s)) :=
  congrArg Host.Outcome.next (if_neg (not_not_intro h))

theorem ubOp_of_header {op : Nat} {b : List Byte} (h : ubHeader op b = true) : ubOp b = op := by
  simp only [ubHeader, Bool.and_eq_true, decide_eq_true_eq] at h
  exact h.1.1

section
variable {s : State} {b : List Byte} (ok : Bool) (h : s.serves = true) (isOpen : s.boot.session.st = 2) (hb : ubHeader 2 b = true) (whole : ubWhole b = true)
include h isOpen hb whole

/-- The first whole block of a session carries its manifest (R377). -/
theorem exec_updateBlock_first (first : s.boot.session.man = none) (kind : ubKind b = 0xF) :
    exec (.updateBlock b ok) s = .next (manifestBlock b ok s) := by
  change execUpdateBlock b ok s = _
  rw [execUpdateBlock, if_neg (by simp [h]), if_neg (by simp [ubOp_of_header hb]), if_neg (not_not_intro isOpen), if_neg (by simp [hb]),
    if_neg (by simp [whole])]
  split
  · exact congrArg Host.Outcome.next (if_pos kind)
  · rename_i man
    cases first.symm.trans man

/-- Every later one carries a part of an image. -/
theorem exec_updateBlock_image {m : FwBank} (later : s.boot.session.man = some m) (kind : ubKind b ≠ 0xF) :
    exec (.updateBlock b ok) s = .next (imageBlock m b s) := by
  change execUpdateBlock b ok s = _
  rw [execUpdateBlock, if_neg (by simp [h]), if_neg (by simp [ubOp_of_header hb]), if_neg (not_not_intro isOpen), if_neg (by simp [hb]),
    if_neg (by simp [whole])]
  split
  · rename_i man
    cases later.symm.trans man
  · rename_i man
    cases later.symm.trans man
    exact congrArg Host.Outcome.next (if_neg kind)

end

theorem exec_updateBlock_abort {s : State} {b : List Byte} (ok : Bool) (h : s.serves = true) (hb : ubHeader 4 b = true) :
    exec (.updateBlock b ok) s = .next (abandonUpdate s) := by
  change execUpdateBlock b ok s = _
  rw [execUpdateBlock, if_neg (by simp [h]), if_pos (ubOp_of_header hb), if_pos hb]

theorem manifestBlock_of_good {s : State} {b : List Byte} (offset : ubOffset b = 0) (length : ubLength b = 768) (hm : manifestOk (ubData b) = true)
    (dig : ubDigest b = true) (full : s.boot.recovery = false)
    (floors : ∀ i ∈ (readManifest (ubData b) (s.boot.flash s.boot.spare)).present,
      sgetD s.boot.floor i 0 ≤ sgetD (readManifest (ubData b) (s.boot.flash s.boot.spare)).vers i 0) :
    manifestBlock b true s =
      (modSession (fun q => { q with man := some (readManifest (ubData b) (s.boot.flash s.boot.spare)) }) s).answer 0 [] := by
  rw [manifestBlock, if_neg (by simp [offset, length, hm]), if_neg (by simp [dig]), if_neg (by simp), if_neg (by simpa using floors),
    if_neg (by simp [full])]

/-- A further block of the image that began last, one of full length. -/
theorem imageBlock_of_begun {s : State} {b : List Byte} {m : FwBank} (dig : ubDigest b = true) (kind : ubKind b < 5) (present : ubKind b ∈ m.present)
    (begun : s.boot.session.begun.head? = some (ubKind b)) (last : ∀ i ∈ s.boot.session.begun, orderOf i ≤ orderOf (ubKind b))
    (length : ubLength b = 0x10000) (fits : ubOffset b <<< 16 + ubLength b ≤ sgetD m.lengths (ubKind b) 0) :
    imageBlock m b s = (modSession id (modSpare (fun f => { f with
      images := smod f.images (ubKind b) [] (fun i => memWrite i (ubOffset b <<< 16) (ubData b)) }) s)).answer 0 [] := by
  have old : ubKind b ∈ s.boot.session.begun := List.mem_of_head? begun
  rw [imageBlock]
  dsimp only
  rw [if_neg (by simp [dig]), if_neg (by simpa [present] using kind), if_neg (by simpa [old] using last), if_neg (Nat.not_lt.mpr fits),
    if_neg (by simp [length]), if_neg (by simp [old]), if_neg (by simp [old])]
  simp [old, modSession]

theorem exec_updateEnd {s : State} {b : List Byte} {m : FwBank} (h : s.serves = true) (isOpen : s.boot.session.st = 2) (hb : ubHeader 3 b = true)
    (hm : s.boot.session.man = some m) (all : s.boot.session.nextKind = none)
    (whole : ∀ i, s.boot.session.begun.head? = some i → s.imageWhole m i = true)
    (paired : pairs m (s.boot.flash s.boot.spare) s.boot.session.begun (s.pairSet s.boot.session.begun) = true) :
    exec (.updateEnd b) s = .next ((modSession (fun k => { st := 4, flags := k.flags })
      (modSpare (fun _ => { m with images := (s.boot.flash s.boot.spare).images, st := .pending, manifest := true }) s)).answer 0 []) := by
  have sound : ¬(s.boot.session.begun.head?).any (fun i => !s.imageWhole m i) = true := by
    cases hi : s.boot.session.begun.head? with
    | none => simp
    | some i => simp [whole i hi]
  change execUpdateEnd b s = _
  rw [execUpdateEnd]
  dsimp only
  rw [if_neg (by simp [h]), if_neg (not_not_intro isOpen), if_neg (by simp [hb]), hm]
  dsimp only
  rw [if_neg (not_not_intro all), if_neg sound, if_neg (by simp [paired])]

/-- Settles O50: a command whose checks hold runs its last branch, and the branch that writes a bank writes the one that is not ACTIVE. -/
theorem updateCommandsComplete : Obligations.UpdateCommandsComplete := by
  unfold Obligations.UpdateCommandsComplete
  refine ⟨?begin, ?copy, ?block, ?finish, ?abort, ?abortBlock, fun s u c b ok h hc run => updateCommand_keepsActive h hc run⟩
  case begin => exact fun s b h hb closed => ⟨_, exec_updateBegin h hb closed, by simp [modSession, State.answer], modSpare_flash _ s, rfl, rfl⟩
  case copy => exact fun s h => ⟨_, exec_updateCopyComplete h, by simp [modSession], modSpare_flash _ s, rfl⟩
  case block =>
    intro s b h isOpen hb whole dig
    refine ⟨fun first kind offset length hm => ?_, fun m hman kind present begun last length fits => ?_⟩
    · intro k floors full
      rw [exec_updateBlock_first true h isOpen hb whole first kind, manifestBlock_of_good offset length hm dig full floors]
      rfl
    · have notManifest : ubKind b ≠ 0xF := by omega
      have run := exec_updateBlock_image true h isOpen hb whole hman notManifest
      rw [imageBlock_of_begun dig kind present begun last length fits] at run
      exact ⟨_, run, by simp [modSession, State.answer], rfl, modSpare_flash _ s⟩
  case finish =>
    intro s b m h isOpen hb hm q all whole paired
    exact ⟨_, exec_updateEnd h isOpen hb hm all whole paired, by simp [modSession, State.answer, q], rfl, modSpare_flash _ s⟩
  case abort => exact fun s h isOpen => ⟨_, (exec_updateAbort h).trans (congrArg Host.Outcome.next (abandonUpdate_of_open isOpen)), rfl, rfl, rfl, rfl⟩
  case abortBlock => exact fun s b ok h _ hb => (exec_updateBlock_abort ok h hb).trans (exec_updateAbort h).symm

end Sys2Proof.Machine
end

section
/-! PROOFS. An enable of the ash pit before its HBM is trained (R382). -/

namespace Sys2Proof.Machine

/-- A check that fails refuses with one of the codes. -/
theorem pickCode_isSome {xs : List (Bool × Nat)} {c : Nat} (hc : c ∈ [0x01, 0x04, 0x03, 0x05, 0x06, 0x02, 0x07, 0x09, 0x0F]) (h : (true, c) ∈ xs) :
    ∃ d, pickCode xs = some d ∧ 0 < d % 64 := by
  have found : (pickCode xs).isSome = true :=
    List.find?_isSome.mpr ⟨c, hc, List.any_eq_true.mpr ⟨(true, c), h, by simp⟩⟩
  obtain ⟨d, hd⟩ := Option.isSome_iff_exists.mp found
  have listed := List.mem_of_find?_eq_some hd
  refine ⟨d, hd, ?_⟩
  simp only [List.mem_cons, List.not_mem_nil, or_false] at listed
  omega

/-- A write that is refused is answered with a code other than 0. -/
theorem checkedWrite_code_of_fail {cls inst off c : Nat} {checks : List (Bool × Nat)} (s : State) (f : State → State)
    (hc : c ∈ [0x01, 0x04, 0x03, 0x05, 0x06, 0x02, 0x07, 0x09, 0x0F]) (h : (true, c) ∈ checks) :
    (checkedWrite cls inst off checks s f).mgmt.code ≠ 0 := by
  obtain ⟨d, hd, positive⟩ := pickCode_isSome hc h
  have code : (checkedWrite cls inst off checks s f).mgmt.code = faultCode (pageBlock cls off) d := by
    rw [checkedWrite, hd]
    rfl
  rw [code, faultCode]
  omega

/-- A package in stage 3 of its start: it serves register accesses, and its HBM is not trained yet. -/
def untrainedPackage : State := { State.reset with boot := { State.reset.boot with stage := 3 } }

/-- ENABLE with an ash pit of 64 MiB and a phase log of 1 MiB. -/
def enableWord : Word := 0x3001

/-- The stack of the pit's first byte is untrained. -/
theorem pit_has_untrained (n : Nat) (h : n ≠ 0) :
    (untrainedPackage.stacksOf 0 n).any (fun k => (untrainedPackage.stack k).st = .untrained) = true := by
  have head : untrainedPackage.stackOf 0 ∈ untrainedPackage.stacksOf 0 n := by
    rw [State.stacksOf, pieces, if_neg h]
    exact List.mem_cons_self
  exact List.any_eq_true.mpr ⟨_, head, by rfl⟩

/-- An enable with its range in order is checked against the package (R382). -/
theorem writeAshCtrl_code_of_untrained {s : State} {v : Word} (off : s.forn.pitOn = false) (on : v.getLsbD 12 = true)
    (h : (s.stacksOf s.forn.base (bf v.toNat 0 11 <<< 26)).any (fun k => (s.stack k).st = .untrained) = true) : (writeAshCtrl v s).mgmt.code ≠ 0 := by
  have late : (true, 0x07) ∈ enableChecks { s.forn with ctrl := v } s := by
    have untrained : (s.ctxs ≠ [] || (s.stacksOf s.forn.base (bf v.toNat 0 11 <<< 26)).any (fun k => (s.stack k).st = .untrained)) = true := by
      rw [h, Bool.or_true]
    exact .tail _ <| .tail _ <| List.mem_cons.mpr (.inl (congrArg (·, 0x07) untrained.symm))
  rw [writeAshCtrl]
  dsimp only
  rw [if_neg (by simp [off]), if_neg (by simp only [on]; decide)]
  exact checkedWrite_code_of_fail s _ (by decide) (List.mem_append_right _ late)

theorem exec_ashpitEnable_untrained :
    exec (.ashpitEnableWrite .host enableWord) untrainedPackage = .next (writeAshCtrl enableWord untrainedPackage) ∧
      (writeAshCtrl enableWord untrainedPackage).mgmt.code ≠ 0 :=
  ⟨congrArg Host.Outcome.next (withReg_of_control _ _ (by decide) (by decide) (by decide) _),
    writeAshCtrl_code_of_untrained (by decide) (by decide) (pit_has_untrained _ (by decide))⟩

/-- Refutes O53: an enable of the ash pit that meets every condition the statement names is refused in stage 3, where the stacks of the pit are untrained
and none is fenced. -/
theorem not_forensicsCommandsComplete : ¬ Obligations.ForensicsCommandsComplete := by
  unfold Obligations.ForensicsCommandsComplete
  rintro ⟨enable, _⟩
  have done := (enable untrainedPackage .host enableWord (by decide) (by decide)).1 (by decide) (by decide) (by decide) (by decide) (by decide)
    (by decide) (by decide) rfl (fun i _ => by simp [State.stackFenced, untrainedPackage, State.reset])
  obtain ⟨run, refused⟩ := exec_ashpitEnable_untrained
  rw [Host.Outcome.next.inj (run.symm.trans done)] at refused
  exact refused rfl

end Sys2Proof.Machine
end

section
/-! PROOFS. What raising fences at start-up leaves: the fence map, and all that Calm speaks of (R364 to R366). -/

namespace Sys2Proof.Machine

/-! ### Calm but for the fence map -/

/-- All that Calm speaks of, but for the fence map. -/
def CalmButFences (s u : State) : Prop := Calm { s with fences := u.fences } u

theorem Calm.butFences {s u : State} (h : Calm s u) : CalmButFences s u := ⟨rfl, h.2⟩

theorem CalmButFences.trans {s t u : State} (h : CalmButFences s t) (g : CalmButFences t u) : CalmButFences s u :=
  Calm.trans (t := { t with fences := u.fences }) ⟨rfl, h.2⟩ g

theorem CalmButFences.boot {s u : State} (h : CalmButFences s u) : u.boot = s.boot := h.2.1
theorem CalmButFences.latch {s u : State} (h : CalmButFences s u) : u.pins.thermLatch = s.pins.thermLatch := h.2.2.1
theorem CalmButFences.stack {s u : State} (h : CalmButFences s u) (k : Nat) :
    (u.stack k).st = (s.stack k).st ∧ (u.stack k).trainFailed = (s.stack k).trainFailed := h.2.2.2.1 k
theorem CalmButFences.fault {s u : State} (h : CalmButFences s u) {k i : Nat} : (s.page k).fault.getLsbD i = true → (u.page k).fault.getLsbD i = true :=
  h.2.2.2.2.1 k i
theorem CalmButFences.store {s u : State} (h : CalmButFences s u) (t : Nat) : (u.tile t).store = (s.tile t).store := (h.2.2.2.2.2.1 t).1

theorem raiseFence_butFences (kind idx fc : Nat) (s : State) (h : kind ≠ 1) : CalmButFences s (raiseFence kind idx fc s) := raiseFence_calm kind idx fc s h

theorem fencePost_butFences (kind idx fc : Nat) (s : State) : CalmButFences s (fencePost kind idx fc s) := by
  have marked : CalmButFences s (fenceMark kind idx fc s) := ⟨rfl, rfl, rfl, fun _ => ⟨rfl, rfl⟩, fun _ _ h => h, fun _ => ⟨rfl, rfl⟩, fun _ => rfl⟩
  exact marked.trans (postEvent_calm _ _ _ _ _).butFences

/-! ### The fence map (R366) -/

theorem getLsbD_or_pow {w : Nat} (x : BitVec w) (r : Nat) {i : Nat} (h : i < w) :
    (x ||| BitVec.ofNat w (2 ^ r)).getLsbD i = (x.getLsbD i || decide (i = r)) := by
  rw [BitVec.getLsbD_or, BitVec.getLsbD_ofNat, Nat.testBit_two_pow, decide_eq_true h, Bool.true_and, decide_eq_decide.mpr eq_comm]

theorem getLsbD_foldl_or_pow {w : Nat} (rs : List Nat) (x : BitVec w) {i : Nat} (h : i < w) :
    (rs.foldl (fun v r => v ||| BitVec.ofNat w (2 ^ r)) x).getLsbD i = (x.getLsbD i || decide (i ∈ rs)) := by
  induction rs generalizing x with
  | nil => simp
  | cons r rs ih => rw [List.foldl_cons, ih, getLsbD_or_pow x r h]; simp [Bool.or_assoc]

theorem raiseFence_region_regions (r fc : Nat) (s : State) {i : Nat} (h : i < 24) :
    (raiseFence 0 r fc s).fences.regions.getLsbD i = (s.fences.regions.getLsbD i || decide (i = r)) := by
  rw [raiseFence_fences 0 r fc s (by decide)]
  split
  · rename_i fenced
    by_cases hi : i = r
    · subst hi
      simp_all [State.isFenced]
    · simp [hi]
  · exact getLsbD_or_pow _ r h

theorem raiseFence_region_rest (r fc : Nat) (s : State) :
    (raiseFence 0 r fc s).fences.dies = s.fences.dies ∧ (raiseFence 0 r fc s).fences.ports = s.fences.ports := by
  rw [raiseFence_fences 0 r fc s (by decide)]
  split <;> exact ⟨rfl, rfl⟩

theorem raiseFence_port_ports (p fc : Nat) (s : State) {i : Nat} (h : i < 16) :
    (raiseFence 2 p fc s).fences.ports.getLsbD i = (s.fences.ports.getLsbD i || decide (i = p)) := by
  rw [raiseFence_fences 2 p fc s (by decide)]
  split
  · rename_i fenced
    by_cases hi : i = p
    · subst hi
      simp_all [State.isFenced]
    · simp [hi]
  · exact getLsbD_or_pow _ p h

theorem raiseFence_port_rest (p fc : Nat) (s : State) :
    (raiseFence 2 p fc s).fences.dies = s.fences.dies ∧ (raiseFence 2 p fc s).fences.regions = s.fences.regions := by
  rw [raiseFence_fences 2 p fc s (by decide)]
  split <;> exact ⟨rfl, rfl⟩

theorem raiseFence_die_dies (d fc : Nat) (s : State) {i : Nat} (h : i < 4) :
    (raiseFence 3 d fc s).fences.dies.getLsbD i = (s.fences.dies.getLsbD i || decide (i = d)) := by
  rw [raiseFence_fences 3 d fc s (by decide)]
  split
  · rename_i fenced
    by_cases hi : i = d
    · subst hi
      simp_all [State.isFenced]
    · simp [hi]
  · exact getLsbD_or_pow _ d h

/-- The fence of a die takes its regions with it. -/
theorem raiseFence_die_regions (d fc : Nat) (s : State) {i : Nat} (h : i < 24) :
    (raiseFence 3 d fc s).fences.regions.getLsbD i =
      (s.fences.regions.getLsbD i || (!s.fences.dies.getLsbD d && decide (i ∈ dieRegions d))) := by
  rw [raiseFence_fences 3 d fc s (by decide)]
  split
  · rename_i fenced
    simp [show s.fences.dies.getLsbD d = true from fenced]
  · rename_i fenced
    rw [show s.fences.dies.getLsbD d = false from Bool.eq_false_iff.mpr fenced]
    exact getLsbD_foldl_or_pow _ _ h

theorem raiseFence_die_rest (d fc : Nat) (s : State) :
    (raiseFence 3 d fc s).fences.ports = s.fences.ports ∧ (raiseFence 3 d fc s).fences.hbmStacks = s.fences.hbmStacks := by
  rw [raiseFence_fences 3 d fc s (by decide)]
  split <;> exact ⟨rfl, rfl⟩

/-! ### The fence of a stack (R364) -/

/-- Before the mark of its fence: the stack has left service, and its die is fenced when its other stacks are. -/
def stackOut (k fc : Nat) (s : State) : State :=
  if (rangeFrom (8 * dieOfStack k) 8).all (fun j => j = k || s.stackFenced j) then raiseFence 3 (dieOfStack k) fc (fenceAct 1 k fc s)
  else fenceAct 1 k fc s

theorem fenceStack_of_fenced {s : State} {k : Nat} (fc : Nat) (h : s.fences.hbmStacks.getLsbD k = true) : fenceStack k fc s = s := if_pos h

theorem fenceStack_of_unfenced {s : State} {k : Nat} (fc : Nat) (h : s.fences.hbmStacks.getLsbD k = false) :
    fenceStack k fc s = fencePost 1 k fc (stackOut k fc s) := if_neg (Bool.eq_false_iff.mp h)

theorem fenceAct_stack_fences (k fc : Nat) (s : State) : (fenceAct 1 k fc s).fences = s.fences := by
  obtain ⟨v, before, after⟩ := fenceAct_stack k fc s
  exact after.1.trans before.1

theorem stackOut_calm (k fc : Nat) (s : State) :
    ∃ v, Calm s v ∧ CalmButFences (v.modStack k (fun q => { q with st := .banked })) (stackOut k fc s) := by
  obtain ⟨v, before, after⟩ := fenceAct_stack k fc s
  refine ⟨v, before, ?_⟩
  unfold stackOut
  split
  · exact after.butFences.trans (raiseFence_butFences _ _ _ _ (by decide))
  · exact after.butFences

theorem stackOut_hbmStacks (k fc : Nat) (s : State) : (stackOut k fc s).fences.hbmStacks = s.fences.hbmStacks := by
  unfold stackOut
  split
  · rw [(raiseFence_die_rest _ fc _).2, fenceAct_stack_fences]
  · rw [fenceAct_stack_fences]

theorem stackOut_dies (k fc : Nat) (s : State) {d : Nat} (h : d < 4) : (stackOut k fc s).fences.dies.getLsbD d =
    (s.fences.dies.getLsbD d || (decide (d = dieOfStack k) && (rangeFrom (8 * dieOfStack k) 8).all (fun j => j = k || s.stackFenced j))) := by
  unfold stackOut
  split
  · rename_i all
    rw [raiseFence_die_dies _ fc _ h, fenceAct_stack_fences, all, Bool.and_true]
  · rename_i all
    rw [fenceAct_stack_fences, Bool.eq_false_iff.mpr all, Bool.and_false, Bool.or_false]

/-- What the fence of a stack leaves: `u` after `fenceStack k` of `s`. -/
structure StackFenced (k : Nat) (s u : State) : Prop where
  boot : u.boot = s.boot
  latch : u.pins.thermLatch = s.pins.thermLatch
  fault : ∀ {p i}, (s.page p).fault.getLsbD i = true → (u.page p).fault.getLsbD i = true
  failed : ∀ j, (u.stack j).trainFailed = (s.stack j).trainFailed
  others : ∀ j, j ≠ k → (u.stack j).st = (s.stack j).st
  out : s.fences.hbmStacks.getLsbD k = false → (u.stack k).st = .banked
  marks : ∀ i < 32, u.fences.hbmStacks.getLsbD i = (s.fences.hbmStacks.getLsbD i || decide (i = k))
  dies : ∀ d < 4, s.fences.dies.getLsbD d = true → u.fences.dies.getLsbD d = true
  whole : s.fences.hbmStacks.getLsbD k = false → k < 32 → (∀ j < 8, 8 * dieOfStack k + j ≠ k → s.fences.hbmStacks.getLsbD (8 * dieOfStack k + j) = true) →
    u.fences.dies.getLsbD (dieOfStack k) = true

theorem fenceStack_fenced (k fc : Nat) (s : State) : StackFenced k s (fenceStack k fc s) := by
  cases h : s.fences.hbmStacks.getLsbD k with
  | true =>
    rw [fenceStack_of_fenced fc h]
    refine ⟨rfl, rfl, id, fun _ => rfl, fun _ _ => rfl, by simp [h], fun i _ => ?_, fun _ _ => id, by simp [h]⟩
    by_cases hi : i = k
    · simp [hi, h]
    · simp [hi]
  | false =>
    obtain ⟨v, before, after⟩ := stackOut_calm k fc s
    have calm := after.trans (fencePost_butFences 1 k fc _)
    rw [fenceStack_of_unfenced fc h]
    have dies : (fencePost 1 k fc (stackOut k fc s)).fences.dies = (stackOut k fc s).fences.dies := by
      rw [fencePost_fences]
      rfl
    refine ⟨calm.boot.trans before.butFences.boot, calm.latch.trans before.butFences.latch, fun hb => calm.fault (before.butFences.fault hb), fun j => ?_,
      fun j hj => ?_, fun _ => ?_, fun i hi => ?_, fun d hd hs => ?_, fun _ hk all => ?_⟩
    · rw [(calm.stack j).2, ← (before.butFences.stack j).2]
      by_cases hj : j = k
      · rw [hj, State.modStack_self]
      · rw [State.modStack_ne _ _ _ _ hj]
    · rw [(calm.stack j).1, State.modStack_ne _ _ _ _ hj, (before.butFences.stack j).1]
    · rw [(calm.stack k).1, State.modStack_self]
    · rw [fencePost_fences, ← stackOut_hbmStacks k fc s]
      exact getLsbD_or_pow _ k hi
    · rw [dies, stackOut_dies k fc s hd, hs, Bool.true_or]
    · have every : (rangeFrom (8 * dieOfStack k) 8).all (fun j => j = k || s.stackFenced j) = true := by
        simp only [rangeFrom, List.all_map, List.all_eq_true, List.mem_range, Function.comp_apply, Bool.or_eq_true, decide_eq_true_eq]
        exact fun j hj => or_iff_not_imp_left.mpr (all j hj)
      rw [dies, stackOut_dies k fc s (by unfold dieOfStack; omega), every]
      simp

end Sys2Proof.Machine
end

section
/-! PROOFS. The stages of start-up (R361 to R373). -/

namespace Sys2Proof.Machine

/-! ### Units visited in order -/

/-- An invariant of a pass over the units 0 to n - 1. -/
theorem forAll_range {P : Nat → State → Prop} {f : Nat → State → State} {n : Nat} {s : State} (start : P 0 s)
    (step : ∀ k < n, ∀ u, P k u → P (k + 1) (f k u)) : P n (forAll (List.range n) f s) := by
  induction n with
  | zero => exact start
  | succ n ih =>
    rw [forAll, List.range_succ, List.foldl_append]
    exact step n (Nat.lt_succ_self n) _ (ih fun k hk => step k (hk.trans (Nat.lt_succ_self n)))

/-- What one visit brings about, and every visit keeps, holds after the pass. -/
theorem forAll_reaches {α : Type} {P : State → Prop} {xs : List α} {f : α → State → State} {x : α} (hx : x ∈ xs) (reach : ∀ s, P (f x s))
    (keep : ∀ y s, P s → P (f y s)) (s : State) : P (forAll xs f s) := by
  induction xs generalizing s with
  | nil => exact absurd hx List.not_mem_nil
  | cons y ys ih =>
    obtain rfl | hy := List.mem_cons.mp hx
    · exact forAll_preserves ys keep (reach s)
    · exact ih hy (f y s)

/-! ### Stages 2 to 4 (R361, R371 to R373) -/

theorem exec_bootRomStage {s : State} (h1 : s.boot.stage = 1) (ha : s.awake = true) (idle : s.sec.run = none) (j a b : Bool) :
    exec (.bootRomStage true j a b [] []) s = .next (takeBank ((enterStage 2 s).chooseBank a b) (enterStage 2 s)) := by
  have journal : resolveJournal j (enterStage 2 s) = enterStage 2 s := by
    rw [resolveJournal, show (enterStage 2 s).sec.run = none from idle]
  change execBootRomStage true j a b [] [] s = _
  rw [execBootRomStage, if_neg (by simp [h1, ha])]
  dsimp only
  rw [if_neg (by decide), journal]
  rfl

theorem exec_bootRomStage_of_badRom {s : State} (h1 : s.boot.stage = 1) (ha : s.awake = true) (j a b : Bool) :
    exec (.bootRomStage false j a b [] []) s =
      .next { enterStage 2 s with summary := { (enterStage 2 s).summary with dead := true } } := by
  change execBootRomStage false j a b [] [] s = _
  rw [execBootRomStage, if_neg (by simp [h1, ha])]
  rfl

theorem exec_firmwareLoadStage {s : State} (h : s.boots 2 = true) :
    exec (.firmwareLoadStage true) s = .next { s with boot := { s.boot with stage := 3, since := s.us, late := false, running := s.runBank.vers } } := by
  change execFirmwareLoadStage true s = _
  rw [execFirmwareLoadStage, if_neg (by simp [h])]
  rfl

/-- The migration takes the ash-pit format of the booted bank (R374). -/
def takeFormat (k : FwBank) (s : State) : State :=
  if k.ashFmt = s.sec.pitFmt then s else { s with sec := { s.sec with pitFmt := k.ashFmt, pitSlot := 1 - s.sec.pitSlot, pitOld := true } }

/-- The migration of copy A, with its audit entry (R373). -/
def migrateCopyA (k : FwBank) (s : State) : State :=
  let drawn := freeBytes 48 { s with sec := { s.sec with schemaA := k.schema }, boot := { s.boot with migrated := true } }
  appendAudit 0xFFFE 0 4 0xFFFF (drawn.1.take 8) ((drawn.1.drop 8).take 8) (drawn.1.drop 16) drawn.2

/-- No copy is older than the booted bank. -/
def keepCopyA (k : FwBank) (s : State) : State :=
  { s with boot := { s.boot with migrated := decide (s.sec.schemaB < s.sec.schemaA ∧ s.sec.schemaA ≤ k.schema) } }

theorem exec_migrationStage_of_current {s : State} (h : s.boots 3 = true) (current : s.runBank.schema ≤ max s.sec.schemaA s.sec.schemaB) :
    exec (.migrationStage true) s = .next (takeFormat s.runBank (keepCopyA s.runBank (enterStage 4 s))) := by
  change execMigrationStage true s = _
  rw [execMigrationStage, if_neg (by simp [h])]
  dsimp only
  rw [decide_eq_false (Nat.not_lt.mpr current), Bool.false_and, if_neg Bool.false_ne_true, Bool.not_true, if_neg Bool.false_ne_true, Bool.not_false, if_pos rfl]
  simp only [Bool.and_eq_true, decide_eq_true_eq]
  rfl

theorem exec_migrationStage_of_newer {s : State} (h : s.boots 3 = true) (newer : max s.sec.schemaA s.sec.schemaB < s.runBank.schema)
    (room : s.sec.audit.length < 1024) :
    exec (.migrationStage true) s = .next (takeFormat s.runBank (migrateCopyA s.runBank (enterStage 4 s))) := by
  change execMigrationStage true s = _
  rw [execMigrationStage, if_neg (by simp [h])]
  dsimp only
  rw [decide_eq_true newer, if_neg (by simp [room]), Bool.not_true, if_neg Bool.false_ne_true, if_neg Bool.false_ne_true]
  rfl

/-- The format is a matter of the ash pit's fields alone. -/
theorem takeFormat_rest (k : FwBank) (s : State) : (takeFormat k s).boot = s.boot ∧ (takeFormat k s).sec.schemaA = s.sec.schemaA ∧
    (takeFormat k s).sec.schemaB = s.sec.schemaB ∧ (takeFormat k s).sec.audit = s.sec.audit := by
  unfold takeFormat
  split <;> exact ⟨rfl, rfl, rfl, rfl⟩

theorem migrateCopyA_fields (k : FwBank) (s : State) : (migrateCopyA k s).boot = { s.boot with migrated := true } ∧
    (migrateCopyA k s).sec.schemaA = k.schema ∧ (migrateCopyA k s).sec.schemaB = s.sec.schemaB ∧
    (migrateCopyA k s).sec.audit.length = s.sec.audit.length + 1 := by
  have entry (rec role kind n : Nat) (nonce signer value : List Byte) (w : State) :
      (appendAudit rec role kind n nonce signer value w).sec.audit.length = w.sec.audit.length + 1 := by
    dsimp only [appendAudit]
    rw [checkHead_rest, List.length_append]
    rfl
  have rest := appendAudit_rest
  dsimp only at rest
  refine ⟨?_, ?_, ?_, entry _ _ _ _ _ _ _ _⟩ <;> · unfold migrateCopyA; rw [rest]; rfl

/-! ### Stage 5 (R361, R365) -/

/-- The regions 0 to n - 1 have left stage 5 in the state `v` at step F3. -/
structure RegionsLit (s : State) (v : RegionState) (n : Nat) (u : State) : Prop where
  boot : u.boot = s.boot
  fences : u.fences = s.fences
  latch : u.pins.thermLatch = s.pins.thermLatch
  lit : ∀ r < n, (u.region r).st = v ∧ (u.region r).step = 3

/-- Stage 5 with the regions lit. -/
def lightRegions (s : State) : State :=
  forAll (List.range 24) (fun r s => s.modRegion r (fun g => { g with st := s.startState, goal := s.startState, step := 3 })) s

theorem lightRegions_lit (s : State) : RegionsLit s s.startState 24 (lightRegions s) := by
  refine forAll_range ⟨rfl, rfl, rfl, nofun⟩ fun k _ u hu => ⟨hu.boot, hu.fences, hu.latch, fun r hr => ?_⟩
  have same : u.startState = s.startState := by rw [State.startState, hu.latch, ← State.startState]
  by_cases h : r = k
  · subst h
    rw [State.modRegion_self]
    exact ⟨same, rfl⟩
  · rw [State.modRegion_ne _ _ _ _ h]
    exact hu.lit r (by omega)

/-- Stage 5 with the training of every die noted: a die is trained when none of the regions that failed is its own. -/
def trainDies (failed : List RegionId) (s : State) : State :=
  forAll (List.range 4) (fun d s => s.modDie d (fun x => { x with trained := failed.all (fun r => dieOfRegion r ≠ d) })) s

structure DiesTrained (failed : List RegionId) (s : State) (n : Nat) (u : State) : Prop where
  rest : u = { s with dies := u.dies }
  trained : ∀ d < n, (u.die d).trained = failed.all (fun r => dieOfRegion r ≠ d)

theorem DiesTrained.fields {failed : List RegionId} {s u : State} {n : Nat} (h : DiesTrained failed s n u) :
    u.boot = s.boot ∧ u.fences = s.fences ∧ ∀ r, u.region r = s.region r := by
  rw [h.rest]
  exact ⟨rfl, rfl, fun _ => rfl⟩

theorem trainDies_trained (failed : List RegionId) (s : State) : DiesTrained failed s 4 (trainDies failed s) := by
  refine forAll_range ⟨rfl, nofun⟩ fun k _ u hu => ⟨?_, fun d hd => ?_⟩
  · conv_lhs => rw [hu.rest]
    rfl
  · by_cases h : d = k
    · subst h
      rw [State.modDie_self]
    · rw [State.modDie_ne _ _ _ _ h]
      exact hu.trained d (by omega)

theorem exec_crossingTrainingStage_of_sound {s : State} (h : s.boots 4 = true) :
    exec (.crossingTrainingStage []) s = .next (trainDies [] (lightRegions (enterStage 5 s))) := by
  change execCrossingTrainingStage [] s = _
  rw [execCrossingTrainingStage, if_neg (by simp [h])]
  rfl

/-- The faults of the dies whose crossings failed. -/
def failDies (failed : List RegionId) (s : State) : State :=
  forAll ((List.range 4).filter (fun d => failed.any (fun r => dieOfRegion r = d))) (fun d s => testFailed 0x30 d 0x0D s) s

/-- Every region is fenced (R365). -/
def fenceRegions (s : State) : State := forAll (List.range 24) (fun r s => raiseFence 0 r (faultCode 0x0D 0x13) s) s

theorem exec_crossingTrainingStage_of_failed {s : State} (h : s.boots 4 = true) (r : RegionId) (rs : List RegionId) :
    exec (.crossingTrainingStage (r :: rs)) s =
      .next (let w := fenceRegions (failDies (r :: rs) (trainDies (r :: rs) (lightRegions (enterStage 5 s))))
        { w with boot := { w.boot with crossFail := true } }) := by
  change execCrossingTrainingStage (r :: rs) s = _
  rw [execCrossingTrainingStage, if_neg (by simp [h])]
  dsimp only
  rw [if_neg (List.cons_ne_nil r rs)]
  rfl

structure RegionsFenced (s : State) (n : Nat) (u : State) : Prop where
  calm : CalmButFences s u
  fenced : ∀ i < n, u.fences.regions.getLsbD i = true

theorem fenceRegions_fenced (s : State) : RegionsFenced s 24 (fenceRegions s) := by
  refine forAll_range ⟨(Calm.refl s).butFences, nofun⟩ fun k hk u hu => ⟨hu.calm.trans (raiseFence_butFences 0 k _ u (by decide)), fun i hi => ?_⟩
  rw [raiseFence_region_regions k _ u (by omega)]
  by_cases h : i = k
  · simp [h]
  · simp [hu.fenced i (by omega)]

theorem testFailed_calm (cls inst blk : Nat) (s : State) : Calm s (testFailed cls inst blk s) := Calm.recordFault _ _ _ s

/-- A failed test is a class E fault on the page of its unit (R406). -/
theorem testFailed_fault (cls inst : Nat) {blk : Nat} (hb : blk < 64) (s : State) :
    ((testFailed cls inst blk s).page (pageKey cls inst)).fault.getLsbD 2 = true := recordFault_sets_class hb (show 0x13 < 64 by decide) _ s

theorem failDies_calm (failed : List RegionId) (s : State) : Calm s (failDies failed s) := Calm.forAll _ _ (fun d s => testFailed_calm 0x30 d 0x0D s) s

theorem failDies_fault (failed : List RegionId) {d : Nat} (hd : d < 4) (h : failed.any (fun r => dieOfRegion r = d) = true) (s : State) :
    ((failDies failed s).page (pageKey 0x30 d)).fault.getLsbD 2 = true :=
  forAll_reaches (P := fun u => (u.page (pageKey 0x30 d)).fault.getLsbD 2 = true) (f := fun d s => testFailed 0x30 d 0x0D s) (List.mem_filter.mpr ⟨List.mem_range.mpr hd, h⟩)
    (testFailed_fault 0x30 d (by decide)) (fun e u hu => (testFailed_calm 0x30 e 0x0D u).butFences.fault hu) s

/-! ### Stage 6 (R361, R364) -/

/-- State of a stack that passes stage 6. -/
def stackStart (latch : Bool) : StackState := if latch then .banked else .active

/-- One stack in stage 6. -/
def trainStack (f : BitVec 32) (k : Nat) (s : State) : State :=
  if f.getLsbD k then fenceStack k (faultCode 0x0E 0x13) (testFailed 0x38 k 0x0E (s.modStack k (fun q => { q with trainFailed := true })))
  else s.modStack k (fun q => { q with st := stackStart s.pins.thermLatch })

theorem exec_hbmTrainingStage {s : State} (h : s.boots 5 = true) (crossed : s.boot.crossFail = false) (f : BitVec 32) :
    exec (.hbmTrainingStage f) s = .next (forAll (List.range 32) (trainStack f) (enterStage 6 s)) := by
  change execHbmTrainingStage f s = _
  rw [execHbmTrainingStage, if_neg (by simp [h]), if_neg (by simp [crossed])]
  rfl

theorem exec_hbmTrainingStage_of_crossFail {s : State} (h : s.boots 5 = true) (failed : s.boot.crossFail = true) :
    exec (.hbmTrainingStage 0) s = .next (enterStage 6 s) := by
  change execHbmTrainingStage 0 s = _
  rw [execHbmTrainingStage, if_neg (by simp [h]), if_pos failed]

theorem modStack_calm_rest (k : Nat) (g : Stack → Stack) (s : State) :
    (s.modStack k g).boot = s.boot ∧ (s.modStack k g).pins = s.pins ∧ (s.modStack k g).fences = s.fences ∧ (s.modStack k g).pages = s.pages :=
  ⟨rfl, rfl, rfl, rfl⟩

/-- The stacks 0 to n - 1 have been trained, from `s` to `u`. -/
structure StacksTrained (f : BitVec 32) (s : State) (n : Nat) (u : State) : Prop where
  boot : u.boot = s.boot
  latch : u.pins.thermLatch = s.pins.thermLatch
  marks : ∀ i < 32, u.fences.hbmStacks.getLsbD i = (s.fences.hbmStacks.getLsbD i || (decide (i < n) && f.getLsbD i))
  failed : ∀ i < n, f.getLsbD i = true → (u.stack i).trainFailed = true ∧ (u.page (pageKey 0x38 i)).fault.getLsbD 2 = true ∧
    (s.fences.hbmStacks.getLsbD i = false → (u.stack i).st = .banked)
  passed : ∀ i < n, f.getLsbD i = false → (u.stack i).st = stackStart s.pins.thermLatch
  dies : ∀ d < 4, 8 * d + 8 ≤ n → (∀ j < 8, f.getLsbD (8 * d + j) = true ∧ s.fences.hbmStacks.getLsbD (8 * d + j) = false) →
    u.fences.dies.getLsbD d = true

theorem StacksTrained.pass {f : BitVec 32} {s u : State} {k : Nat} (hu : StacksTrained f s k u) (h : f.getLsbD k = false) :
    StacksTrained f s (k + 1) (u.modStack k (fun q => { q with st := stackStart u.pins.thermLatch })) where
  boot := hu.boot
  latch := hu.latch
  marks i hi := by
    refine (hu.marks i hi).trans ?_
    by_cases hik : i = k
    · simp [hik, h]
    · rw [show decide (i < k + 1) = decide (i < k) from decide_eq_decide.mpr (by omega)]
  failed i hi hf := by
    have other : i ≠ k := fun e => by simp [e, h] at hf
    rw [State.modStack_ne _ _ _ _ other]
    exact hu.failed i (by omega) hf
  passed i hi hf := by
    by_cases hik : i = k
    · rw [hik, State.modStack_self, hu.latch]
    · rw [State.modStack_ne _ _ _ _ hik]
      exact hu.passed i (by omega) hf
  dies d hd hn all := by
    refine hu.dies d hd ?_ all
    by_contra later
    have last := (all (k - 8 * d) (by omega)).1
    rw [show 8 * d + (k - 8 * d) = k by omega, h] at last
    exact absurd last (by decide)

theorem StacksTrained.fail {f : BitVec 32} {s u : State} {k : Nat} (hk : k < 32) (hu : StacksTrained f s k u) (h : f.getLsbD k = true) :
    StacksTrained f s (k + 1)
      (fenceStack k (faultCode 0x0E 0x13) (testFailed 0x38 k 0x0E (u.modStack k (fun q => { q with trainFailed := true })))) := by
  have calm := (testFailed_calm 0x38 k 0x0E (u.modStack k (fun q => { q with trainFailed := true }))).butFences
  have fences : (testFailed 0x38 k 0x0E (u.modStack k (fun q => { q with trainFailed := true }))).fences = u.fences :=
    (testFailed_calm 0x38 k 0x0E (u.modStack k (fun q => { q with trainFailed := true }))).1
  have fault := testFailed_fault 0x38 k (show 0x0E < 64 by decide) (u.modStack k (fun q => { q with trainFailed := true }))
  have out := fenceStack_fenced k (faultCode 0x0E 0x13) (testFailed 0x38 k 0x0E (u.modStack k (fun q => { q with trainFailed := true })))
  have mine : u.fences.hbmStacks.getLsbD k = s.fences.hbmStacks.getLsbD k := by simp [hu.marks k hk]
  exact {
    boot := out.boot.trans (calm.boot.trans hu.boot)
    latch := out.latch.trans (calm.latch.trans hu.latch)
    marks := fun i hi => by
      rw [out.marks i hi, fences, hu.marks i hi]
      by_cases hik : i = k
      · simp [hik, h]
      · rw [decide_eq_false hik, Bool.or_false, show decide (i < k + 1) = decide (i < k) from decide_eq_decide.mpr (by omega)]
    failed := fun i hi hf => by
      by_cases hik : i = k
      · subst hik
        refine ⟨?_, out.fault fault, fun free => out.out (by rw [fences, mine, free])⟩
        rw [out.failed, (calm.stack i).2, State.modStack_self]
      · obtain ⟨failed, page, banked⟩ := hu.failed i (by omega) hf
        refine ⟨?_, out.fault (calm.fault page), fun free => ?_⟩
        · rw [out.failed, (calm.stack i).2, State.modStack_ne _ _ _ _ hik, failed]
        · rw [out.others i hik, (calm.stack i).1, State.modStack_ne _ _ _ _ hik, banked free]
    passed := fun i hi hf => by
      have other : i ≠ k := fun e => by simp [e, h] at hf
      rw [out.others i other, (calm.stack i).1, State.modStack_ne _ _ _ _ other]
      exact hu.passed i (by omega) hf
    dies := fun d hd hn all => by
      by_cases last : k = 8 * d + 7
      · have own : dieOfStack k = d := by unfold dieOfStack; omega
        rw [← own]
        refine out.whole ?_ hk fun j hj other => ?_
        · rw [fences, mine, last]
          exact (all 7 (by decide)).2
        · rw [own] at other ⊢
          rw [fences, hu.marks _ (by omega), (all j hj).1, decide_eq_true (by omega)]
          simp
      · refine out.dies d hd ?_
        rw [fences]
        exact hu.dies d hd (by omega) all }

theorem trainStacks (f : BitVec 32) (s : State) : StacksTrained f s 32 (forAll (List.range 32) (trainStack f) s) := by
  refine forAll_range ⟨rfl, rfl, fun i _ => by simp, nofun, nofun, fun d _ h => by omega⟩ fun k hk u hu => ?_
  unfold trainStack
  cases h : f.getLsbD k with
  | false => exact hu.pass h
  | true => exact hu.fail hk h

/-- With no stack that fails no fence is raised. -/
theorem trainStacks_fences (s : State) : (forAll (List.range 32) (trainStack 0) s).fences = s.fences := by
  refine forAll_preserves (P := fun u => u.fences = s.fences) _ (fun k u hu => ?_) rfl
  rw [trainStack, if_neg (by simp)]
  exact hu

/-! ### Stage 7 (R363, R364) -/

/-- One unit in stage 7: with `bad` its test fails, which is recorded on its page, and its fence follows. -/
def testUnit (kind cls blk : Nat) (bad : Nat → Bool) (k : Nat) (s : State) : State :=
  if bad k then raiseFence kind k (faultCode blk 0x13) (testFailed cls k blk s) else s

def testRegions (f : BitVec 24) (s : State) : State := forAll (List.range 24) (testUnit 0 0x28 0x0C f.getLsbD) s
def testDies (p : BitVec 20) (s : State) : State := forAll (List.range 4) (testUnit 3 0x30 0x0D (fun d => p.getLsbD (16 + d))) s
def testPorts (p : BitVec 20) (s : State) : State := forAll (List.range 16) (testUnit 2 0x40 0x10 p.getLsbD) s

/-- A tile with its banks zeroed and lit. -/
def Tile.zeroed (x : Tile) : Tile := { x with store := [], bankSt := [] }

/-- Stage 7 with every bank zeroed and lit. -/
def zeroStores (s : State) : State :=
  { enterStage 7 s with tiles := s.tiles.map (fun (p : Nat × Tile) => (p.1, p.2.zeroed)) }

theorem zeroStores_store (s : State) (t : Nat) : ((zeroStores s).tile t).store = [] := by
  have tile : sget (zeroStores s).tiles t = (sget s.tiles t).map Tile.zeroed := sget_map s.tiles Tile.zeroed t
  rw [State.tile, sgetD, tile]
  cases sget s.tiles t <;> rfl

theorem exec_selfTestStage {s : State} (h : s.boots 6 = true) (crossed : s.boot.crossFail = false) (power : s.pwr.d10 + 2500 ≤ 10 * s.workingC)
    (f : BitVec 24) (p : BitVec 20) :
    exec (.selfTestStage f p) s = .next (testPorts p (testDies p (testRegions f (zeroStores s)))) := by
  change execSelfTestStage f p s = _
  rw [execSelfTestStage, if_neg (by simp [crossed]), if_neg (by simpa [h] using power)]
  rfl

theorem exec_selfTestStage_of_crossFail {s : State} (h : s.boots 6 = true) (failed : s.boot.crossFail = true) :
    exec (.selfTestStage 0 0) s = .next (enterStage 7 s) := by
  change execSelfTestStage 0 0 s = _
  rw [execSelfTestStage, if_pos (by simp [h, failed])]

/-- The units 0 to n - 1 of a kind have been tested, from `s` to `u`; `mark` reads the kind's part of the fence map, of `w` units. -/
structure UnitsTested (cls w : Nat) (bad : Nat → Bool) (mark : Fences → Nat → Bool) (s : State) (n : Nat) (u : State) : Prop where
  calm : CalmButFences s u
  marks : ∀ i < w, mark u.fences i = (mark s.fences i || (decide (i < n) && bad i))
  fault : ∀ i < n, bad i = true → (u.page (pageKey cls i)).fault.getLsbD 2 = true

section
variable {kind cls blk w : Nat} {bad : Nat → Bool} {mark : Fences → Nat → Bool} {s u : State} {k : Nat}

theorem UnitsTested.start : UnitsTested cls w bad mark s 0 s := ⟨(Calm.refl s).butFences, fun i _ => by simp, nofun⟩

theorem UnitsTested.step (hkind : kind ≠ 1) (hb : blk < 64)
    (raise : ∀ v : State, ∀ i < w, mark (raiseFence kind k (faultCode blk 0x13) v).fences i = (mark v.fences i || decide (i = k)))
    (hu : UnitsTested cls w bad mark s k u) : UnitsTested cls w bad mark s (k + 1) (testUnit kind cls blk bad k u) := by
  have later {i : Nat} (h : i ≠ k) : decide (i < k + 1) = decide (i < k) := decide_eq_decide.mpr (by omega)
  unfold testUnit
  split
  · rename_i failed
    have recorded := testFailed_calm cls k blk u
    have fenced := raiseFence_butFences kind k (faultCode blk 0x13) (testFailed cls k blk u) hkind
    refine ⟨(hu.calm.trans recorded.butFences).trans fenced, fun i hi => ?_, fun i hi hf => ?_⟩
    · rw [raise _ i hi, recorded.1, hu.marks i hi]
      by_cases h : i = k
      · simp [h, failed]
      · rw [decide_eq_false h, Bool.or_false, later h]
    · by_cases h : i = k
      · rw [h]
        exact fenced.fault (testFailed_fault cls k hb u)
      · exact fenced.fault (recorded.butFences.fault (hu.fault i (by omega) hf))
  · rename_i passed
    refine ⟨hu.calm, fun i hi => (hu.marks i hi).trans ?_, fun i hi hf => hu.fault i ?_ hf⟩
    · by_cases h : i = k
      · simp [h, passed]
      · rw [later h]
    · have other : i ≠ k := fun e => passed (e ▸ hf)
      omega

end

theorem testRegions_tested (f : BitVec 24) (s : State) :
    UnitsTested 0x28 24 f.getLsbD (fun q => q.regions.getLsbD) s 24 (testRegions f s) :=
  forAll_range .start fun k _ _ hu => hu.step (by decide) (by decide) fun v _ hi => raiseFence_region_regions k _ v hi

theorem testRegions_rest (f : BitVec 24) (s : State) : (testRegions f s).fences.dies = s.fences.dies ∧ (testRegions f s).fences.ports = s.fences.ports := by
  refine forAll_preserves (P := fun u => u.fences.dies = s.fences.dies ∧ u.fences.ports = s.fences.ports) _ (fun k u hu => ?_) ⟨rfl, rfl⟩
  unfold testUnit
  split
  · obtain ⟨dies, ports⟩ := raiseFence_region_rest k (faultCode 0x0C 0x13) (testFailed 0x28 k 0x0C u)
    rw [dies, ports, (testFailed_calm 0x28 k 0x0C u).1]
    exact hu
  · exact hu

theorem testPorts_tested (p : BitVec 20) (s : State) :
    UnitsTested 0x40 16 p.getLsbD (fun q => q.ports.getLsbD) s 16 (testPorts p s) :=
  forAll_range .start fun k _ _ hu => hu.step (by decide) (by decide) fun v _ hi => raiseFence_port_ports k _ v hi

theorem testPorts_rest (p : BitVec 20) (s : State) : (testPorts p s).fences.dies = s.fences.dies ∧ (testPorts p s).fences.regions = s.fences.regions := by
  refine forAll_preserves (P := fun u => u.fences.dies = s.fences.dies ∧ u.fences.regions = s.fences.regions) _ (fun k u hu => ?_) ⟨rfl, rfl⟩
  unfold testUnit
  split
  · obtain ⟨dies, regions⟩ := raiseFence_port_rest k (faultCode 0x10 0x13) (testFailed 0x40 k 0x10 u)
    rw [dies, regions, (testFailed_calm 0x40 k 0x10 u).1]
    exact hu
  · exact hu

/-- The dies 0 to n - 1 have been tested: a die fenced takes its regions with it. -/
structure DiesTested (p : BitVec 20) (s : State) (n : Nat) (u : State) : Prop where
  tested : UnitsTested 0x30 4 (fun d => p.getLsbD (16 + d)) (fun q => q.dies.getLsbD) s n u
  regions : ∀ i < 24, u.fences.regions.getLsbD i = (s.fences.regions.getLsbD i ||
    (decide (dieOfRegion i < n) && p.getLsbD (16 + dieOfRegion i) && !s.fences.dies.getLsbD (dieOfRegion i)))
  ports : u.fences.ports = s.fences.ports

theorem mem_dieRegions {i d : Nat} : i ∈ dieRegions d ↔ i < 24 ∧ dieOfRegion i = d := by simp [dieRegions]

theorem testDies_tested (p : BitVec 20) (s : State) : DiesTested p s 4 (testDies p s) := by
  refine forAll_range ⟨.start, fun i _ => by simp, rfl⟩ fun k hk u hu => ?_
  have later {i : Nat} (h : dieOfRegion i ≠ k) : decide (dieOfRegion i < k + 1) = decide (dieOfRegion i < k) := decide_eq_decide.mpr (by omega)
  have tested := hu.tested.step (kind := 3) (blk := 0x0D) (by decide) (by decide) fun v _ hi => raiseFence_die_dies k _ v hi
  have mine : u.fences.dies.getLsbD k = s.fences.dies.getLsbD k := by simpa using hu.tested.marks k hk
  refine (fun (h : _ ∧ _) => DiesTested.mk tested h.1 h.2) ?_
  unfold testUnit
  split
  · rename_i failed
    have fences := (testFailed_calm 0x30 k 0x0D u).1
    refine ⟨fun i hi => ?_, ?_⟩
    · rw [raiseFence_die_regions k _ _ hi, fences, hu.regions i hi, mine]
      by_cases h : dieOfRegion i = k
      · simp [mem_dieRegions, hi, h, failed]
      · rw [decide_eq_false (fun m => h (mem_dieRegions.mp m).2), Bool.and_false, Bool.or_false, later h]
    · rw [(raiseFence_die_rest k _ _).1, fences, hu.ports]
  · rename_i passed
    refine ⟨fun i hi => (hu.regions i hi).trans ?_, hu.ports⟩
    by_cases h : dieOfRegion i = k
    · simp [h, passed]
    · rw [later h]

/-- Tests that pass change nothing. -/
theorem testUnits_of_passed (kind cls blk : Nat) (bad : Nat → Bool) (h : ∀ k, bad k = false) (xs : List Nat) (s : State) :
    forAll xs (testUnit kind cls blk bad) s = s := by
  refine forAll_preserves (P := fun u => u = s) xs (fun k u hu => ?_) rfl
  rw [testUnit, if_neg (Bool.eq_false_iff.mp (h k))]
  exact hu

/-! ### Stage 8, the limits of the stages, and a fenced region that goes dark (R361, R366, R372) -/

/-- The boot state of a device that is READY. -/
def readyBoot (s : State) : Boot := { s.boot with stage := 8, since := s.us, late := false, ready := true, ms := s.us / 1000 }

theorem exec_deviceReady {s : State} (h : s.boots 7 = true) :
    exec .deviceReady s = .next { s with boot :=
      (if (s.boot.flash s.boot.bank).st = .pending then
        { Boot.setFlash (readyBoot s) s.boot.bank { s.boot.flash s.boot.bank with st := .valid } with active := s.boot.bank }
      else readyBoot s) } := by
  change execDeviceReady s = _
  rw [execDeviceReady, if_neg (by simp [h])]
  rfl

@[simp] theorem Boot.setFlash_rest (b : Boot) (i : Nat) (k : FwBank) :
    (b.setFlash i k).stage = b.stage ∧ (b.setFlash i k).ready = b.ready ∧ (b.setFlash i k).ms = b.ms := by
  unfold Boot.setFlash
  split <;> exact ⟨rfl, rfl, rfl⟩

theorem exec_startStageTimeout {s : State} (stage : s.boot.stage ≤ 6) (late : s.boot.late = false) (bank : s.boot.recovery = false)
    (alive : s.summary.dead = false) (elapsed : s.boot.since + stageLimit s.boot.stage ≤ s.us) :
    exec .startStageTimeout s = .next
      (let u : State := { recordFault (pageKey 0x78 0) 0x17 0x2A s with boot := { s.boot with late := true, fault := faultCode 0x17 0x2A } }
       if (s.boot.stage = 2 || s.boot.stage = 3) && (s.boot.flash s.boot.bank).st = .pending then revertBoot u else u) := by
  have due : ¬(6 < s.boot.stage || s.boot.late || s.boot.recovery || s.summary.dead || s.us < s.boot.since + stageLimit s.boot.stage) = true := by
    simp [late, bank, alive, stage, elapsed]
  change execStartStageTimeout s = _
  rw [execStartStageTimeout]
  dsimp only
  rw [if_neg due, show (recordFault (pageKey 0x78 0) 0x17 0x2A s).boot = s.boot by rw [recordFault_rest]]

theorem exec_fencedRegionDark {s : State} {r : RegionId} {t : Nat} (banked : (s.region r).st = .banked) (fenced : s.regionFenced r = true)
    (at_ : (s.region r).fencedAt = some t) (elapsed : 1000000 + t ≤ s.us) :
    exec (.fencedRegionDark r) s = .next (forAll (regionTiles r) (fun t s => s.modTile t Tile.goneDark)
      (s.setRegion r { s.region r with st := .dark, goal := .dark, request := 0, duty := 0, step := 3 })) := by
  change execFencedRegionDark r s = _
  rw [execFencedRegionDark]
  dsimp only
  rw [if_pos (by simp [banked, fenced, at_, elapsed])]

theorem forAll_modTile_region (ts : List Nat) (f : Tile → Tile) (s : State) (q : Nat) : (forAll ts (fun t s => s.modTile t f) s).region q = s.region q :=
  forAll_preserves (P := fun u => u.region q = s.region q) ts (f := fun t s => s.modTile t f) (fun _ _ h => h) rfl

/-- Settles O48: each stage's command runs a pass over its units, and the passes keep one invariant from unit to unit. -/
theorem startStagesComplete : Obligations.StartStagesComplete := by
  unfold Obligations.StartStagesComplete
  refine ⟨?power, ?rom, fun s => exec_firmwareLoadStage, ?current, ?newer, ?cross, ?crossFail, ?hbm, ?hbmFail, ?afterCross, ?selfTest, ?selfTestFail,
    ?ready, ?late, ?pending, ?dark⟩
  case power =>
    refine fun s => ⟨rfl, fun h => congrArg Host.Outcome.next (if_neg (Bool.eq_false_iff.mp h)), fun c hc => ?_⟩
    simp only [List.mem_cons, List.not_mem_nil, or_false] at hc
    obtain rfl | rfl := hc
    · exact ⟨_, exec_resetNAssert s, rfl, rfl, rfl, rfl, rfl, rfl, by simp [State.awake]⟩
    · exact ⟨_, exec_powerLoss s, rfl, rfl, rfl, rfl, rfl, rfl, by simp [State.awake]⟩
  case rom =>
    intro s j a b h1 ha idle s1
    have run := exec_bootRomStage h1 ha idle j a b
    exact ⟨fun i hi => by rw [run, hi]; rfl, fun hn => by rw [run, hn]; rfl, exec_bootRomStage_of_badRom h1 ha j a b⟩
  case current =>
    intro s h current format
    rw [exec_migrationStage_of_current h current]
    exact congrArg Host.Outcome.next (if_pos format)
  case newer =>
    intro s h newer room
    obtain ⟨boot, schemaA, schemaB, audit⟩ := takeFormat_rest s.runBank (migrateCopyA s.runBank (enterStage 4 s))
    obtain ⟨boot', schemaA', schemaB', audit'⟩ := migrateCopyA_fields s.runBank (enterStage 4 s)
    refine ⟨_, exec_migrationStage_of_newer h newer room, ?_, ?_, schemaA.trans schemaA', schemaB.trans schemaB', ?_⟩
    · rw [boot, boot']; rfl
    · rw [boot, boot']
    · rw [audit, audit']; rfl
  case cross =>
    intro s h
    have lit := lightRegions_lit (enterStage 5 s)
    have dies := trainDies_trained [] (lightRegions (enterStage 5 s))
    obtain ⟨boot, fences, region⟩ := dies.fields
    exact ⟨_, exec_crossingTrainingStage_of_sound h, congrArg Boot.stage (boot.trans lit.boot), fences.trans lit.fences,
      fun r hr => (region r).symm ▸ lit.lit r hr, dies.trained⟩
  case crossFail =>
    intro s r rs h
    have lit := lightRegions_lit (enterStage 5 s)
    have dies := trainDies_trained (r :: rs) (lightRegions (enterStage 5 s))
    have faults := failDies_calm (r :: rs) (trainDies (r :: rs) (lightRegions (enterStage 5 s)))
    have fenced := fenceRegions_fenced (failDies (r :: rs) (trainDies (r :: rs) (lightRegions (enterStage 5 s))))
    have boot := fenced.calm.boot.trans (faults.butFences.boot.trans (dies.fields.1.trans lit.boot))
    exact ⟨_, exec_crossingTrainingStage_of_failed h r rs, congrArg Boot.stage boot, rfl, fenced.fenced,
      fun d hd hf => fenced.calm.fault (failDies_fault _ hd hf _)⟩
  case hbm =>
    intro s h crossed
    have trained := trainStacks 0 (enterStage 6 s)
    exact ⟨_, exec_hbmTrainingStage h crossed 0, congrArg Boot.stage trained.boot, trainStacks_fences _, fun k hk => trained.passed k hk (by simp)⟩
  case hbmFail =>
    intro s f h crossed
    have trained := trainStacks f (enterStage 6 s)
    refine ⟨_, exec_hbmTrainingStage h crossed f, congrArg Boot.stage trained.boot, fun k hk => ⟨fun hf => ?_, fun hf => ⟨?_, trained.passed k hk hf⟩⟩,
      fun d hd all => trained.dies d hd (by omega) all⟩
    · obtain ⟨failed, fault, banked⟩ := trained.failed k hk hf
      exact ⟨by rw [trained.marks k hk, hf]; simp [hk], failed, fault, banked⟩
    · rw [trained.marks k hk, hf, Bool.and_false, Bool.or_false]
      rfl
  case afterCross => exact fun s failed => ⟨fun h => exec_hbmTrainingStage_of_crossFail h failed, fun h => exec_selfTestStage_of_crossFail h failed⟩
  case selfTest =>
    intro s h crossed power
    rw [exec_selfTestStage h crossed power, testRegions, testUnits_of_passed _ _ _ _ (fun _ => by simp), testDies,
      testUnits_of_passed _ _ _ _ (fun _ => by simp), testPorts, testUnits_of_passed _ _ _ _ (fun _ => by simp)]
    rfl
  case selfTestFail =>
    intro s f p h crossed power
    have regions := testRegions_tested f (zeroStores s)
    have dies := testDies_tested p (testRegions f (zeroStores s))
    have ports := testPorts_tested p (testDies p (testRegions f (zeroStores s)))
    obtain ⟨keptDies, keptPorts⟩ := testRegions_rest f (zeroStores s)
    obtain ⟨endDies, endRegions⟩ := testPorts_rest p (testDies p (testRegions f (zeroStores s)))
    have calm := (regions.calm.trans dies.tested.calm).trans ports.calm
    refine ⟨_, exec_selfTestStage h crossed power f p, congrArg Boot.stage calm.boot, fun t => (calm.store t).trans (zeroStores_store s t),
      fun i hi bad => ⟨?_, ports.calm.fault (dies.tested.calm.fault (regions.fault i hi bad))⟩, fun i hi good sound => ?_,
      fun d hd => ⟨?_, fun bad => ⟨ports.calm.fault (dies.tested.fault d hd bad), fun free i hi => ?_⟩⟩,
      fun i hi => ⟨?_, fun bad => ports.fault i hi bad⟩⟩
    · rw [endRegions, dies.regions i hi, regions.marks i hi]
      simp [hi, bad]
    · rw [endRegions, dies.regions i hi, regions.marks i hi, good, sound, Bool.and_false, Bool.and_false, Bool.false_and, Bool.or_false, Bool.or_false]
      rfl
    · rw [endDies, dies.tested.marks d hd, keptDies, decide_eq_true hd, Bool.true_and]
      rfl
    · obtain ⟨hi, own⟩ := mem_dieRegions.mp hi
      have free' : (zeroStores s).fences.dies.getLsbD d = false := free
      rw [endRegions, dies.regions i hi, own, keptDies, free', bad, decide_eq_true hd]
      simp
    · rw [ports.marks i hi, dies.ports, keptPorts, decide_eq_true hi, Bool.true_and]
      rfl
  case ready =>
    intro s h
    have run := exec_deviceReady h
    split at run
    · rename_i pending
      refine ⟨_, run, rfl, ?_, ?_, ?_, fun _ hb => ⟨rfl, ?_, ?_⟩⟩
      · exact (Boot.setFlash_rest _ _ _).1
      · exact (Boot.setFlash_rest _ _ _).2.1
      · exact (Boot.setFlash_rest _ _ _).2.2
      · exact congrArg FwBank.st (Boot.flash_setFlash_same (readyBoot s) _ _)
      · exact Boot.flash_setFlash_other (readyBoot s) _ (by omega)
    · rename_i settled
      exact ⟨_, run, rfl, rfl, rfl, rfl, fun pending => absurd pending settled⟩
  case late =>
    intro s b stage late bank alive elapsed
    have run := exec_startStageTimeout stage late bank alive elapsed
    refine ⟨fun other => ?_, fun early pending => ⟨_, run, ?_⟩⟩
    · rw [run]
      refine congrArg Host.Outcome.next (if_neg ?_)
      simp only [Bool.and_eq_true, Bool.or_eq_true, decide_eq_true_eq]
      rintro ⟨early, pending⟩
      exact other.elim (fun h => early.elim h.1 h.2) (absurd pending)
    · dsimp only
      rw [if_pos (by simp [show s.boot.stage = 2 ∨ s.boot.stage = 3 from early, show (s.boot.flash s.boot.bank).st = .pending from pending])]
      exact ⟨rfl, rfl, rfl, by rw [revertBoot_flash]; exact congrArg FwBank.st (Boot.flash_setFlash_same _ _ _)⟩
  case pending =>
    intro s h8 h2 hp hb ht
    exact ⟨_, exec_pendingBootTimeout_reverts h8 h2 hp ht, rfl, rfl, by rw [revertBoot_flash, Boot.flash_setFlash_same]⟩
  case dark =>
    intro s r t banked fenced at_ elapsed
    refine ⟨_, exec_fencedRegionDark banked fenced at_ elapsed, ?_, ?_, fun q hq => ?_⟩
    · rw [forAll_modTile_region, State.setRegion_self]
    · rw [forAll_modTile_region, State.setRegion_self]
    · rw [forAll_modTile_region, State.setRegion_ne _ _ _ _ hq]

end Sys2Proof.Machine
end

section
/-! PROOFS. The EVL port: training, frames, bulk requests and snoops (R321 to R327). -/

namespace Sys2Proof.Machine

/-! ### Training (R321) -/

theorem exec_evlTraining {s : State} (v : BitVec 4) (h : s.evlServes = true) (down : s.evl.up = false) (first : s.evl.tried = false) :
    exec (.evlTraining v) s = .next (trainEvl v s) := congrArg Host.Outcome.next (if_pos (by simp [h, down, first]))

theorem exec_evlTrainingRetry {s : State} (v : BitVec 4) (h : s.evlServes = true) (down : s.evl.up = false) (again : s.evl.tried = true) :
    exec (.evlTrainingRetry v) s = .next (trainEvl v s) := congrArg Host.Outcome.next (if_pos (by simp [h, down, again]))

/-! ### Frames (R322, R324) -/

section
variable {s s1 : State} {q : Word} {good : Bool} {c : Fin 3} {n : Nat} {want : Option (Checked Word)}

/-- What a frame does once the replay it asks for is noted. -/
def evlTake (q : Word) (good : Bool) (c : Fin 3) (n : Nat) (s : State) : State :=
  let e := s.evl
  if good && q = e.rxNext then
    if evlGrant c < sgetD e.credits c 0 + n then evlRetrain (recordFault (pageKey 0x48 0) 0x11 0x21 s)
    else { s with evl := Evl.sendOne { e with
      rxNext := e.rxNext + 1, rxAck := q, rxWant := none, rxTries := 0
      credits := if c = 1 then smod e.credits 1 0 (· + n) else e.credits } }
  else if good && !seqLater q e.rxNext then { s with evl := e.sendOne }
  else evlAskAgain (q = e.rxNext) s

theorem exec_evlFrameReceive (up : s.evl.up = true) (asked : evlAsked good want s = some s1) :
    exec (.evlFrameReceive q good c n want) s = .next (evlTake q good c n s1) := by
  change execEvlFrameReceive q good c n want s = _
  rw [execEvlFrameReceive, if_neg (by simp [up]), asked]
  rfl

theorem exec_evlFrameReceive_of_lost (up : s.evl.up = true) (asked : evlAsked good want s = none) :
    exec (.evlFrameReceive q good c n want) s = .next (evlRetrain s) := by
  change execEvlFrameReceive q good c n want s = _
  rw [execEvlFrameReceive, if_neg (by simp [up]), asked]

theorem evlTake_of_next (next : q = s.evl.rxNext) (room : sgetD s.evl.credits c 0 + n ≤ evlGrant c) :
    evlTake q true c n s = { s with evl := Evl.sendOne { s.evl with
      rxNext := s.evl.rxNext + 1, rxAck := q, rxWant := none, rxTries := 0
      credits := if c.val = 1 then smod s.evl.credits 1 0 (· + n) else s.evl.credits } } := by
  have channel : (c = 1) = (c.val = 1) := propext Fin.ext_iff
  rw [evlTake, if_pos (by simp [next]), if_neg (Nat.not_lt.mpr room)]
  simp only [channel]

theorem evlTake_of_overrun (next : q = s.evl.rxNext) (many : evlGrant c < sgetD s.evl.credits c 0 + n) :
    evlTake q true c n s = evlRetrain (recordFault (pageKey 0x48 0) 0x11 0x21 s) := by
  rw [evlTake, if_pos (by simp [next]), if_pos many]

theorem evlTake_of_repeated (other : q ≠ s.evl.rxNext) (earlier : seqLater q s.evl.rxNext = false) :
    evlTake q true c n s = { s with evl := s.evl.sendOne } := by
  rw [evlTake, if_neg (by simp [other]), if_pos (by simp [earlier])]

theorem evlTake_of_bad (bad : good = false ∨ (q ≠ s.evl.rxNext ∧ seqLater q s.evl.rxNext = true)) :
    evlTake q good c n s = evlAskAgain (q = s.evl.rxNext) s := by
  obtain lost | ⟨other, later⟩ := bad
  · rw [evlTake, if_neg (by simp [lost]), if_neg (by simp [lost])]
  · rw [evlTake, if_neg (by simp [other]), if_neg (by simp [later])]

/-- The tries counted by the frame that is asked for again. -/
theorem evlAskAgain_eq {tries : Nat} (h : (if q = s.evl.rxNext ∧ s.evl.rxWant = some s.evl.rxNext then s.evl.rxTries + 1 else s.evl.rxTries) = tries) :
    evlAskAgain (q = s.evl.rxNext) s =
      if 8 ≤ tries then evlRetrain s else { s with evl := Evl.sendOne { s.evl with rxWant := some s.evl.rxNext, rxTries := tries } } := by
  subst h
  simp only [evlAskAgain, Bool.and_eq_true, decide_eq_true_eq]

end

theorem evlAsked_of_clean (s : State) (m : Word) :
    evlAsked true (some ⟨m, .clean⟩) s = (s.evl.replay m).map (fun e => { s with evl := e }) := by
  change (match s.evl.replay m with | none => none | some e => some { s with evl := e }) = _
  cases s.evl.replay m <;> rfl

/-! ### Bulk requests (R326) -/

/-- The credit of a request's write data returns (R324). -/
def bulkCredit (h : BitVec 128) (s : State) : State :=
  if bWrite h then { s with evl := { s.evl with credits := smod s.evl.credits 1 0 (· - bLines h) } } else s

theorem acceptBulk_of_refused {s : State} {h : BitVec 128} {k : Nat} (data : List Byte) (ecc : HbmEcc) (refused : bulkRefusal s h = some k) :
    acceptBulk h data ecc s = bulkDone h (faultCode 0x11 k) [] (bulkCredit h s) := by
  rw [acceptBulk, refused]
  rfl

theorem acceptBulk_of_good {s : State} {h : BitVec 128} (data : List Byte) (ecc : HbmEcc) (good : bulkRefusal s h = none) :
    acceptBulk h data ecc s = if bWindow h then bulkStore h data (bulkCredit h s) else bulkHbm h data ecc (bulkCredit h s) := by
  rw [acceptBulk, good]
  rfl

theorem exec_bulkRequest_of_refused {s : State} {h : BitVec 128} {k : Nat} (up : s.evl.up = true) (data : List Byte) (ecc : HbmEcc)
    (refused : bulkRefusal s h = some k) : exec (.bulkRequest h data ecc) s = .next (bulkDone h (faultCode 0x11 k) [] (bulkCredit h s)) := by
  change execBulkRequest h data ecc s = _
  rw [execBulkRequest, if_neg (by simp [up]), if_pos (by simp [refused]), acceptBulk_of_refused data ecc refused]

/-- A port whose waiting requests are `ws`. -/
def State.waits (s : State) (ws : List EvlWait) : State := { s with evl := { s.evl with waiting := ws } }

theorem State.waits_self {s : State} {ws : List EvlWait} (h : s.evl.waiting = ws) : s.waits ws = s := by
  subst h
  rfl

/-- The checks of a request do not look at the requests that wait. -/
theorem bulkRefusal_waits (s : State) (ws : List EvlWait) (h : BitVec 128) : bulkRefusal (s.waits ws) h = bulkRefusal s h := rfl
theorem bulkCan_waits (s : State) (ws : List EvlWait) (b : Bool) (h : BitVec 128) : (s.waits ws).bulkCan b h = s.bulkCan b h := rfl

theorem bulkCredit_waits (s : State) (ws : List EvlWait) (h : BitVec 128) : bulkCredit h (s.waits ws) = (bulkCredit h s).waits ws := by
  unfold bulkCredit
  split <;> rfl

theorem bulkCredit_rest (h : BitVec 128) (s : State) : ∃ e, bulkCredit h s = { s with evl := e } := by
  unfold bulkCredit
  split
  · exact ⟨_, rfl⟩
  · exact ⟨s.evl, rfl⟩

/-- The descriptor of a store window is of its tile alone. -/
theorem bulkStore_waits (s : State) (ws : List EvlWait) (h : BitVec 128) (data : List Byte) : bulkStore h data (s.waits ws) = (bulkStore h data s).waits ws := by
  have visit (f : Nat → State → State) (hf : ∀ k u, f k (State.waits u ws) = (f k u).waits ws) (xs : List Nat) (u : State) :
      forAll xs f (u.waits ws) = (forAll xs f u).waits ws := by
    induction xs generalizing u with
    | nil => rfl
    | cons k ks ih =>
      change forAll ks f (f k (u.waits ws)) = _
      rw [hf, ih]
      rfl
  unfold bulkStore
  split
  · rfl
  · dsimp only
    rw [← visit]
    · rfl
    · intro k u
      split <;> rfl

theorem pumpBulk_of_waiting {s : State} (h : s.evl.waiting ≠ []) :
    pumpBulk s = (takeBulk s.evl.waiting false s).2.waits (takeBulk s.evl.waiting false s).1 := if_neg h

theorem takeBulk_of_can {s : State} {h : BitVec 128} {b : Bool} (data : List Byte) (ecc : HbmEcc) (can : s.bulkCan b h = true) :
    takeBulk [.bulk h data ecc] b s = ([], acceptBulk h data ecc s) := if_pos can

theorem takeBulk_of_cannot {s : State} {h : BitVec 128} {b : Bool} (data : List Byte) (ecc : HbmEcc) (cannot : s.bulkCan b h = false) :
    takeBulk [.bulk h data ecc] b s = ([.bulk h data ecc], s) := if_neg (Bool.eq_false_iff.mp cannot)

section
variable {s : State} {h : BitVec 128} (up : s.evl.up = true) (data : List Byte) (good : bulkRefusal s h = none) (empty : s.evl.waiting = [])
include up good empty

/-- A request that is not refused joins those that wait, and these go on. -/
theorem exec_bulkRequest_of_good : exec (.bulkRequest h data .clean) s = .next (pumpBulk (s.waits [.bulk h data .clean])) := by
  change execBulkRequest h data .clean s = _
  rw [execBulkRequest, if_neg (by simp [up]), if_neg (by simp [good]), empty]
  rfl

theorem exec_bulkRequest_of_wait (cannot : s.bulkCan false h = false) :
    exec (.bulkRequest h data .clean) s = .next (s.waits [.bulk h data .clean]) := by
  have waits : (s.waits [.bulk h data .clean]).bulkCan false h = false := cannot
  rw [exec_bulkRequest_of_good up data good empty, pumpBulk_of_waiting (List.cons_ne_nil _ _)]
  change Host.Outcome.next ((takeBulk [_] false _).2.waits (takeBulk [_] false _).1) = _
  rw [takeBulk_of_cannot data .clean waits]
  rfl

theorem exec_bulkRequest_of_can (can : s.bulkCan false h = true) :
    exec (.bulkRequest h data .clean) s = .next ((acceptBulk h data .clean (s.waits [.bulk h data .clean])).waits []) := by
  have takes : (s.waits [.bulk h data .clean]).bulkCan false h = true := can
  rw [exec_bulkRequest_of_good up data good empty, pumpBulk_of_waiting (List.cons_ne_nil _ _)]
  change Host.Outcome.next ((takeBulk [_] false _).2.waits (takeBulk [_] false _).1) = _
  rw [takeBulk_of_can data .clean takes]

theorem exec_bulkRequest_of_window (can : s.bulkCan false h = true) (window : bWindow h = true) :
    exec (.bulkRequest h data .clean) s = .next (bulkStore h data (bulkCredit h s)) := by
  have idle : (bulkStore h data (bulkCredit h s)).waits [] = bulkStore h data (bulkCredit h s) := by
    rw [← bulkStore_waits, ← bulkCredit_waits, State.waits_self empty]
  have good' : bulkRefusal (s.waits [.bulk h data .clean]) h = none := good
  have accepted : acceptBulk h data .clean (s.waits [.bulk h data .clean]) = (bulkStore h data (bulkCredit h s)).waits [.bulk h data .clean] := by
    rw [acceptBulk_of_good data .clean good', if_pos window, bulkCredit_waits, bulkStore_waits]
  rw [exec_bulkRequest_of_can up data good empty can, accepted]
  exact congrArg Host.Outcome.next idle

theorem exec_bulkRequest_of_hbm (can : s.bulkCan false h = true) (window : bWindow h = false) :
    exec (.bulkRequest h data .clean) s = .next ((bulkHbm h data .clean (bulkCredit h (s.waits [.bulk h data .clean]))).waits []) := by
  have good' : bulkRefusal (s.waits [.bulk h data .clean]) h = none := good
  have accepted : acceptBulk h data .clean (s.waits [.bulk h data .clean]) = bulkHbm h data .clean (bulkCredit h (s.waits [.bulk h data .clean])) := by
    rw [acceptBulk_of_good data .clean good', window]
    exact if_neg Bool.false_ne_true
  rw [exec_bulkRequest_of_can up data good empty can, accepted]

end

theorem bulkHbm_of_read {h : BitVec 128} (read : bWrite h = false) (data : List Byte) (s : State) :
    bulkHbm h data .clean s = bulkDone h 0 (s.hbmRead (bAddr h) (bBytes h)) (touchStack (s.stackOf (bAddr h)) s) :=
  if_neg (Bool.eq_false_iff.mp read)

theorem bulkHbm_of_write {h : BitVec 128} (write : bWrite h = true) {data : List Byte} (whole : data.length = bBytes h) (s : State) :
    bulkHbm h data .clean s = bulkDone h 0 [] ((touchStack (s.stackOf (bAddr h)) s).hbmWrite (bAddr h) data) := by
  rw [bulkHbm, if_pos write, List.take_append_of_le_length (Nat.le_of_eq whole.symm), List.take_of_length_le (Nat.le_of_eq whole)]

/-! ### Snoops (R325) -/

/-- The line lies in the host-memory window of a link that is up. -/
def State.snoopInside (s : State) (a : Nat) : Bool := s.evl.up && decide (s.evl.winBase ≤ a) && decide (a < s.evl.winBase + 4096 * s.evl.winSize)

/-- The answer to a snoop: whether the line is held, which is then given up. -/
def snoopAnswer (a : Nat) (s : State) : State := { s with
  evl := { s.evl with cache := s.evl.cache.filter (· ≠ a / 64) }
  snoop := { bytes := [BitVec.ofNat 8 (b2n (s.snoopInside a && s.evl.cache.contains (a / 64)))] } }

theorem exec_coherentSnoop_read (s : State) (a : Nat) : exec (.coherentSnoop a none .clean) s = .next (snoopAnswer a s) :=
  congrArg Host.Outcome.next (if_neg (by simp))

theorem exec_coherentSnoop_write {s : State} {a : Nat} (inside : s.snoopInside a = true) {line : List Byte} (length : line.length = 64) :
    exec (.coherentSnoop a (some line) .clean) s = .next ((snoopAnswer a s).hostWrite (a / 64 * 64) line) := by
  have whole : (line ++ List.replicate 64 0).take 64 = line := by
    rw [List.take_append_of_le_length (Nat.le_of_eq length.symm), List.take_of_length_le (Nat.le_of_eq length)]
  have written : exec (.coherentSnoop a (some line) .clean) s = .next
      (if s.snoopInside a then (snoopAnswer a s).hostWrite (a / 64 * 64) ((line ++ List.replicate 64 0).take 64) else snoopAnswer a s) :=
    congrArg Host.Outcome.next (if_neg (by simp))
  rw [written, if_pos inside, whole]

/-- Settles O38: each clause is the equation of one branch of its command. -/
theorem evlCommandsComplete : Obligations.EvlCommandsComplete := by
  unfold Obligations.EvlCommandsComplete
  refine ⟨fun s v h down => ⟨exec_evlTraining v h down, exec_evlTrainingRetry v h down⟩, ?frame, ?replay, ?bulk, ?snoop⟩
  case frame =>
    intro s s1 q good c n want up asked e used
    have run := exec_evlFrameReceive (q := q) (c := c) (n := n) up asked
    refine ⟨fun hg next room => ?_, fun hg next many => ?_, fun hg other earlier => ?_, fun bad => ?_⟩
    · subst hg
      rw [run, evlTake_of_next next room]
    · subst hg
      rw [run, evlTake_of_overrun next many]
    · subst hg
      rw [run, evlTake_of_repeated other earlier]
    · intro tries
      rw [run, evlTake_of_bad bad, evlAskAgain_eq (tries := tries) rfl]
      exact ⟨fun few => congrArg Host.Outcome.next (if_neg (Nat.not_le.mpr few)), fun many => congrArg Host.Outcome.next (if_pos many)⟩
  case replay =>
    intro s q m c n up
    have asked := evlAsked_of_clean s m
    exact ⟨fun e he => by rw [asked, he]; rfl, fun none => exec_evlFrameReceive_of_lost up (by rw [asked, none]; rfl)⟩
  case bulk =>
    intro s h data up s1
    refine ⟨fun k refused => exec_bulkRequest_of_refused up data .clean refused,
      fun good empty can window => exec_bulkRequest_of_window up data good empty can window, fun good empty can window read => ?_,
      fun good empty can window write whole => ?_, fun good empty cannot => exec_bulkRequest_of_wait up data good empty cannot⟩
    · rw [exec_bulkRequest_of_hbm up data good empty can window, bulkHbm_of_read read, bulkCredit, if_neg (Bool.eq_false_iff.mp read)]
      conv_rhs => rw [← State.waits_self empty]
      rfl
    · rw [exec_bulkRequest_of_hbm up data good empty can window, bulkHbm_of_write write whole, bulkCredit_waits]
      have credited : s1 = (bulkCredit h s).waits [] := by
        rw [← bulkCredit_waits, State.waits_self empty]
        rfl
      obtain ⟨e, credit⟩ := bulkCredit_rest h s
      rw [credited, credit]
      rfl
  case snoop =>
    intro s a bs length e inside v
    have within : s.snoopInside a = true ↔ inside := by
      simp only [State.snoopInside, Bool.and_eq_true, decide_eq_true_eq, inside, e, and_assoc]
    have answered : snoopAnswer a s = v := by
      have hit : b2n (s.snoopInside a && s.evl.cache.contains (a / 64)) = if inside ∧ a / 64 ∈ e.cache then 1 else 0 := by
        simp only [b2n, Bool.and_eq_true, within, List.contains_iff_mem, e]
      rw [snoopAnswer, hit]
    refine ⟨(exec_coherentSnoop_read s a).trans (congrArg Host.Outcome.next answered), fun h => ?_⟩
    rw [exec_coherentSnoop_write (within.mpr h) length, answered]
    rfl

end Sys2Proof.Machine
end

section
/-! PROOFS. The handshake of a cord link, its states and its configuration (R332, R335, R336, R339, R340). -/

namespace Sys2Proof.Machine

/-! ### Changes of one link in a row -/

@[simp] theorem modLink_setLink (s : State) (l : Nat) (k : Link) (f : Link → Link) : (s.setLink l k).modLink l f = s.setLink l (f k) := by
  rw [State.modLink, link_setLink_self, setLink_setLink]

theorem modLink_eq_setLink (s : State) (l : Nat) (f : Link → Link) : s.modLink l f = s.setLink l (f (s.link l)) := rfl

/-- HELLO goes out after a change of the link that leaves its key generation (R336). -/
theorem sendHello_setLink (s : State) (l : Nat) {k : Link} (h : k.keyGen = (s.link l).keyGen) :
    sendHello l (s.setLink l k) =
      { s.setLink l { k with helloSent := s.ownHello l, keyGen := (s.link l).keyGen + 1 } with freeCtr := s.freeCtr + 1 } := by
  have own : (s.setLink l k).ownHello l = s.ownHello l := by
    unfold State.ownHello
    rw [link_setLink_self, h]
    rfl
  rw [sendHello, own, modLink_setLink, h]
  rfl

/-! ### Training and signal (R335) -/

theorem Link.st_of_carries {k : Link} (h : k.carries = true) : k.st = .up ∨ k.st = .degraded := by
  simpa [Link.carries] using h

theorem exec_cordSignalDetect {s : State} {l : LinkId} (free : s.linkFree l = true) (absent : (s.link l).st = .absent) (stage : 3 ≤ s.boot.stage) :
    exec (.cordSignalDetect l) s = .next (enterTraining l (s.modLink l (fun k => { k with signal := true }))) :=
  congrArg Host.Outcome.next (if_pos (by simp [free, absent, stage]))

theorem exec_cordFecLock {s : State} {l : LinkId} (half : Bool) (present : s.linkExists l = true) (training : (s.link l).st = .training) :
    exec (.cordFecLock l half) s = .next (setLinkState l .authenticating 0
      { s.setLink l { s.link l with half := half, helloSent := s.ownHello l, keyGen := (s.link l).keyGen + 1 } with freeCtr := s.freeCtr + 1 }) := by
  change execCordFecLock l half s = _
  rw [execCordFecLock, if_neg (by simp [present, training]), modLink_eq_setLink,
    sendHello_setLink s l (k := { s.link l with half := half }) rfl]

theorem exec_cordSignalLost_of_training {s : State} {l : LinkId} (training : (s.link l).st = .training) :
    exec (.cordSignalLost l) s = .next (setLinkState l .absent 0 (s.setLink l { s.link l with signal := false })) :=
  congrArg Host.Outcome.next (if_pos training)

theorem exec_cordSignalLost_of_carries {s : State} {l : LinkId} (h : (s.link l).carries = true) :
    exec (.cordSignalLost l) s = .next (enterTraining l (s.setLink l { s.link l with signal := false })) := by
  have other : (s.link l).st ≠ .training := by
    intro training
    obtain up | degraded := Link.st_of_carries h
    · cases training.symm.trans up
    · cases training.symm.trans degraded
  exact congrArg Host.Outcome.next ((if_neg other).trans (if_pos h))

/-! ### The handshake (R336) -/

theorem Link.shakes_of_authenticating {k : Link} (h : k.st = .authenticating) : k.shakes = true := by simp [Link.shakes, h]

theorem exec_hello_of_ok {s : State} {l : LinkId} {h : List Byte} {ok : Bool} (due : (s.link l).shakes = true) (good : s.helloOk l h ok = true) :
    exec (.hello l h ok) s = .next (s.setLink l { s.link l with
      helloGot := h, proofSent := Config.sign 0 (helloDigest (s.link l).helloSent h) }) := by
  change execHello l h ok s = _
  rw [execHello, if_neg (by simp [due]), if_pos good]
  rfl

theorem exec_hello_of_bad {s : State} {l : LinkId} {h : List Byte} {ok : Bool} (due : (s.link l).shakes = true) (bad : s.helloOk l h ok = false) :
    exec (.hello l h ok) s = .next (quarantine l 1 0x25 s) := by
  change execHello l h ok s = _
  rw [execHello, if_neg (by simp [due]), if_neg (by simp [bad])]

theorem exec_proof_of_ok {s : State} {l : LinkId} (h : List Byte) (authenticating : (s.link l).st = .authenticating) (got : (s.link l).helloGot ≠ []) :
    exec (.proof l h true) s = .next (s.setLink l { s.link l with
      proofOk := true, confSent := some (ctlWord 7 0 (s.link l).confValue), frames := 1, framesRx := 0, cnt := smod (s.link l).cnt 0 0 (· + 1) }) := by
  change execProof l h true s = _
  rw [execProof]
  dsimp only
  rw [if_neg (by simp [Link.shakes_of_authenticating authenticating]), if_neg (by simp [got]), if_pos authenticating, modLink_eq_setLink, newKey,
    if_pos authenticating]

theorem exec_proof_of_bad {s : State} {l : LinkId} (h : List Byte) (due : (s.link l).shakes = true) :
    exec (.proof l h false) s = .next (quarantine l 1 0x25 s) := by
  change execProof l h false s = _
  rw [execProof]
  dsimp only
  rw [if_neg (by simp [due]), if_pos (by simp)]

section
variable {s : State} {l : LinkId} {w : BitVec 128} {ok : Bool} (authenticating : (s.link l).st = .authenticating)
include authenticating

theorem exec_confirm_of_badWord (bad : wordOk w = false) : exec (.confirm l w ok) s = .next (quarantine l 3 0x18 s) := by
  change execConfirm l w ok s = _
  rw [execConfirm]
  dsimp only
  rw [if_neg (not_not_intro authenticating), if_pos (by simp [bad])]

theorem exec_confirm_of_mismatch (good : wordOk w = true)
    (bad : (s.link l).confSent = none ∨ ok = false ∨ wordKind w ≠ 7 ∨ wordValue w ≠ (s.link l).confValue) :
    exec (.confirm l w ok) s = .next (quarantine l 1 0x25 s) := by
  change execConfirm l w ok s = _
  rw [execConfirm]
  dsimp only
  rw [if_neg (not_not_intro authenticating), if_neg (by simp [good]), if_pos (by simpa [or_assoc] using bad)]

/-- A valid CONFIRM takes the link up, and its frames not acknowledged go again (R335, R336). -/
theorem exec_confirm_of_match (good : wordOk w = true) (sent : (s.link l).confSent ≠ none) (tag : ok = true) (kind : wordKind w = 7)
    (value : wordValue w = (s.link l).confValue) :
    exec (.confirm l w ok) s = .next (setLinkState l (if (s.link l).half then .degraded else .up) 0
      (s.setLink l { s.link l with
        confGot := true, framesRx := (s.link l).framesRx + 1, frames := (s.link l).frames + (s.link l).txQ.length
        cnt := smod (smod (s.link l).cnt 1 0 (· + 1)) 2 0 (· + BitVec.ofNat 64 (s.link l).txQ.length)
        partnerId := BitVec.ofNat 64 (keyId (helloKey (s.link l).helloGot)) })) := by
  change execConfirm l w ok s = _
  rw [execConfirm]
  dsimp only
  rw [if_neg (not_not_intro authenticating), if_neg (by simp [good]), if_neg (by simp [sent, tag, kind, value]), modLink_eq_setLink, frameIn,
    modLink_setLink, linkUp, link_setLink_self, modLink_setLink]
  rfl

end

/-! ### Recovery and quarantine (R335, R340) -/

theorem exec_cordDegradedRecovery {s : State} {l : LinkId} {t : Nat} (degraded : (s.link l).st = .degraded) (full : (s.link l).half = false)
    (since : (s.link l).degSince = some t) (elapsed : 10000000 + t ≤ s.us)
    (rate : 1000000 * within s.us 10000000 (s.link l).retryTimes < max 1 (within s.us 10000000 (s.link l).sentTimes)) :
    exec (.cordDegradedRecovery l) s = .next (setLinkState l .up 0 s) := by
  change execCordDegradedRecovery l s = _
  rw [execCordDegradedRecovery]
  dsimp only
  rw [if_pos (by simpa [degraded, full, since, elapsed] using rate)]

theorem exec_quarantineCountReset {s : State} {l : LinkId} {t : Nat} (carries : (s.link l).carries = true) (since : (s.link l).upSince = some t)
    (elapsed : 600000000 + t ≤ s.us) : exec (.quarantineCountReset l) s = .next (s.setLink l { s.link l with quars := 0 }) := by
  change execQuarantineCountReset l s = _
  rw [execQuarantineCountReset]
  dsimp only
  rw [if_pos (by simp [carries, since, elapsed])]
  exact congrArg Host.Outcome.next (modLink_eq_setLink s l _)

theorem exec_quarantineBackoffExpiry {s : State} {l : LinkId} (quarantined : (s.link l).st = .quarantined) (free : s.linkFree l = true)
    (elapsed : (s.link l).backoffEnd ≤ s.us) : exec (.quarantineBackoffExpiry l) s = .next (enterTraining l s) :=
  congrArg Host.Outcome.next (if_pos (by simp [quarantined, free, elapsed]))

/-! ### CORD_CONFIG (R332, R335, R340) -/

theorem Link.SendsOn.enable {k j : Link} (h : k.SendsOn j) : j.enable = k.enable := by rw [← h.rest]

theorem setLinkState_enable (l : Nat) (new : LinkState) (reason : Nat) (s : State) :
    ((setLinkState l new reason s).link l).enable = (s.link l).enable := by
  have sends := (setLinkState_pumps l new reason s).links l
  rw [State.setLink_self] at sends
  exact sends.enable

/-- A change of mode leaves ENABLE of both links. -/
theorem applySplit_enable (p : Nat) (s : State) (m : Nat) : ((applySplit p s).link m).enable = (s.link m).enable := by
  unfold applySplit
  dsimp only
  split
  · rfl
  · by_cases h : m = 2 * p + 1
    · rw [h, link_setLink_self]
      rfl
    · rw [link_setLink_ne _ _ _ _ h]
      rfl

theorem applySplit_link_other (p : Nat) (s : State) {m : Nat} (h : m ≠ 2 * p + 1) : (applySplit p s).link m = s.link m := by
  unfold applySplit
  dsimp only
  split
  · rfl
  · rw [link_setLink_ne _ _ _ _ h]
    rfl

theorem applySplit_rest (p : Nat) (s : State) : (applySplit p s).fences = s.fences ∧ (applySplit p s).boot = s.boot := by
  unfold applySplit
  dsimp only
  split <;> exact ⟨rfl, rfl⟩

theorem enterTraining_enable (l : Nat) (s : State) : ((enterTraining l s).link l).enable = (s.link l).enable := by
  unfold enterTraining
  dsimp only
  split
  · exact applySplit_enable _ s l
  · rw [setLinkState_enable, State.modLink_self]
    exact applySplit_enable _ s l

theorem writeSplit_link_other (p : Nat) (on : Bool) (s : State) {m : Nat} (h : m ≠ 2 * p + 1) : (writeSplit p on s).link m = s.link m := by
  unfold writeSplit
  dsimp only
  split
  · rw [applySplit_link_other _ _ h]
    rfl
  · rfl

theorem writeSplit_rest (p : Nat) (on : Bool) (s : State) : (writeSplit p on s).fences = s.fences ∧ (writeSplit p on s).boot = s.boot := by
  unfold writeSplit
  dsimp only
  split
  · exact applySplit_rest _ _
  · exact ⟨rfl, rfl⟩

/-- SPLIT as CORD_CONFIG of a link writes it: at the first link's offset only. -/
def splitOf (l : Nat) (on : Bool) (s : State) : State := if l % 2 = 0 then writeSplit (l / 2) on s else s

/-- The write of SPLIT leaves the link that it is written with. -/
theorem splitOf_link (l : Nat) (on : Bool) (s : State) : (splitOf l on s).link l = s.link l := by
  unfold splitOf
  split
  · exact writeSplit_link_other _ _ _ (by omega)
  · rfl

theorem splitOf_linkFree {l : Nat} {s : State} (on : Bool) (h : s.linkFree l = true) : (splitOf l on s).linkFree l = true := by
  unfold splitOf
  split
  · rename_i even
    obtain ⟨fences, boot⟩ := writeSplit_rest (l / 2) on s
    have link := writeSplit_link_other (l / 2) on s (m := l) (by omega)
    simp only [State.linkFree, State.linkExists, State.portFenced, even, Bool.and_eq_true, decide_true, Bool.true_or, link, fences, boot] at h ⊢
    exact h
  · exact h

theorem cordConfig_of_exists {s : State} {src : Source} {l : Nat} (v : Word) (hsrc : src ≠ .sideband) (hs : s.serves = true) (present : s.linkExists l = true) :
    cordConfig src l v s = (writeCordConfig l v s).done := by
  rw [cordConfig, if_pos present, withReg_of_control _ _ hsrc hs (by decide)]

/-- RELEASE with ENABLE left at 1 (R340). -/
theorem writeCordConfig_release {s : State} {l : Nat} {v : Word} (quarantined : (s.link l).st = .quarantined) (free : s.linkFree l = true)
    (release : v.getLsbD 2 = true) (enable : v.getLsbD 0 = true) : writeCordConfig l v s = enterTraining l (splitOf l (v.getLsbD 1) s) := by
  have enabled : (s.link l).enable = true := by
    simp only [State.linkFree, Bool.and_eq_true] at free
    exact free.1.1.2
  have released : writeRelease l (splitOf l (v.getLsbD 1) s) = enterTraining l (splitOf l (v.getLsbD 1) s) :=
    if_pos (by rw [splitOf_link, splitOf_linkFree _ free]; simp [quarantined])
  rw [writeCordConfig, if_pos release]
  change (if v.getLsbD 0 ≠ ((writeRelease l (splitOf l (v.getLsbD 1) s)).link l).enable then _ else writeRelease l (splitOf l (v.getLsbD 1) s)) = _
  rw [released, if_neg (by rw [enterTraining_enable, splitOf_link, enabled, enable]; simp)]

/-- ENABLE is cleared (R335). -/
theorem writeCordConfig_disable {s : State} {l : Nat} (enabled : (s.link l).enable = true) :
    writeCordConfig l 0 s = writeEnable l false (splitOf l false s) := by
  have differs : (false : Bool) ≠ ((splitOf l false s).link l).enable := by
    rw [splitOf_link, enabled]
    decide
  exact if_pos differs

theorem writeEnable_off (l : Nat) (s : State) : ((writeEnable l false s).link l).enable = false ∧ ((writeEnable l false s).link l).st = .absent := by
  unfold writeEnable
  dsimp only
  split
  · rename_i absent
    rw [State.modLink_self]
    exact ⟨rfl, by simpa using absent⟩
  · refine ⟨?_, ?_⟩
    · rw [setLinkState_enable, State.modLink_self, State.modLink_self]
    · have own := setLinkState_self (new := .absent) (by decide) l 0 ((s.modLink l (fun k => { k with enable := false })).modLink l (fun k => { k with ctlOut := k.arrives, rekey := 0 }))
      exact congrArg Link.st own

/-- SPLIT of a quiet port takes effect at once (R332). -/
theorem writeSplit_of_quiet {s : State} {p : Nat} (quiet : s.portQuiet p = true) (off : (s.port p).split = false) :
    ((writeSplit p true s).port p).split = true ∧ ((writeSplit p true s).port p).splitWant = true := by
  have still : (s.modPort p (fun q => { q with splitWant := true })).portQuiet p = s.portQuiet p := by
    have present (m : Nat) (h : m / 2 = p) : (s.modPort p (fun q => { q with splitWant := true })).linkExists m = s.linkExists m := by
      simp only [State.linkExists, h, State.modPort_self]
    simp only [State.portQuiet, List.all_cons, present (2 * p) (by omega), present (2 * p + 1) (by omega)]
    rfl
  unfold writeSplit applySplit
  dsimp only
  rw [if_pos (still.trans quiet), if_neg (by simp [off])]
  have port (w : State) (m : Nat) (k : Link) : (w.setLink m k).port p = w.port p := rfl
  simp only [port, State.modPort_self, and_self]

/-- SPLIT with ENABLE left at 1. -/
theorem writeCordConfig_split {s : State} {p : Nat} (enabled : (s.link (2 * p)).enable = true) : writeCordConfig (2 * p) 3 s = writeSplit p true s := by
  have own : splitOf (2 * p) true s = writeSplit p true s := by
    rw [splitOf, if_pos (by omega), Nat.mul_div_cancel_left _ (by decide)]
  have kept : ¬true ≠ ((splitOf (2 * p) true s).link (2 * p)).enable := by
    rw [splitOf_link, enabled]
    decide
  exact (if_neg kept).trans own

/-- Settles O39: each clause is the equation of one branch of its command. -/
theorem cordHandshakeCompletes : Obligations.CordHandshakeCompletes := by
  unfold Obligations.CordHandshakeCompletes
  refine ⟨fun s l => exec_cordSignalDetect, fun s l half => exec_cordFecLock half,
    fun s l training => ⟨congrArg Host.Outcome.next (if_pos training), exec_cordSignalLost_of_training training⟩,
    fun s l => exec_cordSignalLost_of_carries, ?hello, ?proof, ?confirm, ?recovery, ?release, ?enable, ?split⟩
  case hello =>
    intro s l h ok authenticating
    have due := Link.shakes_of_authenticating authenticating
    exact ⟨exec_hello_of_ok due, exec_hello_of_bad due⟩
  case proof =>
    intro s l h authenticating
    exact ⟨exec_proof_of_ok h authenticating, exec_proof_of_bad h (Link.shakes_of_authenticating authenticating)⟩
  case confirm =>
    intro s l w ok authenticating
    exact ⟨exec_confirm_of_badWord authenticating, exec_confirm_of_mismatch authenticating, exec_confirm_of_match authenticating,
      congrArg Host.Outcome.next (if_pos authenticating)⟩
  case recovery => exact fun s l t => ⟨exec_cordDegradedRecovery, exec_quarantineCountReset⟩
  case release =>
    intro s src l v quarantined free
    have present : s.linkExists l = true := by
      simp only [State.linkFree, Bool.and_eq_true] at free
      exact free.1.1.1
    refine ⟨exec_quarantineBackoffExpiry quarantined free, fun hsrc hs release enable => ?_⟩
    exact congrArg Host.Outcome.next ((cordConfig_of_exists v hsrc hs present).trans (congrArg State.done (writeCordConfig_release quarantined free release enable)))
  case enable =>
    intro s src l hsrc hs present enabled s1
    exact ⟨congrArg Host.Outcome.next ((cordConfig_of_exists 0 hsrc hs present).trans (congrArg State.done (writeCordConfig_disable enabled))),
      writeEnable_off l s1⟩
  case split =>
    intro s src p hsrc hs enabled quiet want off
    have present : s.linkExists (2 * p.val) = true := by
      have := p.isLt
      simp [State.linkExists]
      omega
    obtain ⟨split, wanted⟩ := writeSplit_of_quiet quiet off
    refine ⟨_, congrArg Host.Outcome.next ((cordConfig_of_exists 3 hsrc hs present).trans (congrArg State.done (writeCordConfig_split enabled))), split, wanted, ?_⟩
    have second : (2 * p.val + 1) / 2 = p.val := by omega
    change (writeSplit p true s).linkExists (2 * p.val + 1) = true
    rw [State.linkExists, second, split, Bool.or_true, Bool.and_true, decide_eq_true_eq]
    have := p.isLt
    omega

end Sys2Proof.Machine
end

section
/-! PROOFS. Control words and data frames of a cord link that carries traffic, its rekeying and its barriers (R333 to R342). -/

namespace Sys2Proof.Machine

/-! ### A control word and the frame that carries it (R334) -/

/-- A link that has taken the frame it expected, one that has not come in before. -/
def Link.took (k : Link) : Link :=
  { k with framesRx := k.framesRx + 1, cnt := smod k.cnt 1 0 (· + 1), rxNext := (k.rxNext + 1) % 2 ^ 24, twice := false }

/-- It has acknowledged that frame. -/
def Link.got (k : Link) : Link := { k.took with ctlOut := k.ctlOut ++ [ctlWord 1 0 (((k.rxNext + 1) % 2 ^ 24 + 2 ^ 24 - 1) % 2 ^ 24)] }

@[simp] theorem Link.got_txQ (k : Link) : k.got.txQ = k.txQ := rfl
@[simp] theorem Link.got_txNext (k : Link) : k.got.txNext = k.txNext := rfl
@[simp] theorem Link.got_rekey (k : Link) : k.got.rekey = k.rekey := rfl

theorem frameNext_frameIn {s : State} {l : Nat} (fresh : (s.link l).again = 0) : frameNext l (frameIn l s) = s.setLink l (s.link l).took := by
  rw [frameIn, modLink_eq_setLink, frameNext, modLink_setLink, fresh]
  simp only [Link.took, fresh]
  rfl

theorem sendAck_took (s : State) (l : Nat) : sendAck l (s.setLink l (s.link l).took) = s.setLink l (s.link l).got := by
  rw [sendAck, sendWord, modLink_setLink, link_setLink_self]
  rfl

section
variable {s : State} {l kind : Nat} {q : CordWord} (f : State → State) (carries : (s.link l).carries = true)
include carries

theorem onWord_of_badWord (bad : wordOk q.bits = false) : onWord l kind q s f = quarantine l 3 0x18 s := by
  rw [onWord]
  dsimp only
  rw [if_neg (by simp [carries]), if_pos (by simp [bad])]

theorem onWord_of_unknown (good : wordOk q.bits = true) (unknown : wordKind q.bits = 0 ∨ 7 < wordKind q.bits) :
    onWord l kind q s f = quarantine l 4 0x24 s := by
  rw [onWord]
  dsimp only
  rw [if_neg (by simp [carries]), if_neg (by simp [good]), if_pos (by simpa using unknown)]

variable (good : wordOk q.bits = true) (known : 0 < kind ∧ kind ≤ 7) (own : wordKind q.bits = kind)
include good known own

/-- The first word of a frame goes by the place of the frame's SEQ. -/
theorem onWord_of_first (first : q.first = true) : onWord l kind q s f =
    if (s.link l).place q.seq.toNat = .due then
      (if 0 < (s.link l).again then ackWord l kind (frameNext l (frameIn l s)) else f (ackWord l kind (frameNext l (frameIn l s))))
    else outOfOrder l ((s.link l).place q.seq.toNat) (frameIn l s) := by
  have some : ¬(wordKind q.bits = 0 || 7 < wordKind q.bits) = true := by
    simp
    omega
  rw [onWord]
  dsimp only
  rw [if_neg (by simp [carries]), if_neg (by simp [good]), if_neg some, if_neg (not_not_intro own), if_pos first]

theorem onWord_of_further (further : q.first = false) : onWord l kind q s f =
    if q.seq + 1 = BitVec.ofNat 24 (s.link l).rxNext && !(s.link l).twice then f (ackWord l kind s) else s := by
  have some : ¬(wordKind q.bits = 0 || 7 < wordKind q.bits) = true := by
    simp
    omega
  rw [onWord]
  dsimp only
  rw [if_neg (by simp [carries]), if_neg (by simp [good]), if_neg some, if_neg (not_not_intro own), if_neg (by simp [further])]

/-- A word of a frame that is taken has its effect on a link that has acknowledged the frame. -/
theorem onWord_of_due (first : q.first = true) (due : (s.link l).place q.seq.toNat = .due) (fresh : (s.link l).again = 0) (other : kind ≠ 1) :
    onWord l kind q s f = f (s.setLink l (s.link l).got) := by
  rw [onWord_of_first f carries good known own first, if_pos due, if_neg (by omega), ackWord, if_neg other, frameNext_frameIn fresh, sendAck_took]

theorem onWord_of_dueAck (first : q.first = true) (due : (s.link l).place q.seq.toNat = .due) (fresh : (s.link l).again = 0) (ack : kind = 1) :
    onWord l kind q s f = f (s.setLink l (s.link l).took) := by
  rw [onWord_of_first f carries good known own first, if_pos due, if_neg (by omega), ackWord, if_pos ack, frameNext_frameIn fresh]

end

/-! ### What the words do (R334, R337, R341, R342) -/

/-- The frames of the replay buffer from `v` on, sent once more. -/
def Link.resent (k : Link) (v : Nat) : List CordFrame := (k.txQ.dropWhile (fun f => f.seq ≠ v)).map (fun f => { f with replays := f.replays + 1 })

/-- A link that has sent them. -/
def Link.replayed (k : Link) (v us : Nat) : Link :=
  { k with
    txQ := k.txQ.takeWhile (fun f => f.seq ≠ v) ++ k.resent v
    frames := k.frames + (k.resent v).length
    cnt := smod k.cnt 2 0 (· + BitVec.ofNat 64 (k.resent v).length)
    retryTimes := List.replicate (k.resent v).length us ++ k.retryTimes.filter (fun t => us < 10000000 + t) }

/-- A rekey begins on a link (R337). -/
def Link.rekeys (k : Link) (hello : List Byte) : Link :=
  { k with rekey := 1, helloGot := [], proofOk := false, ctlOut := k.ctlOut ++ [ctlWord 6 1 0], helloSent := hello, keyGen := k.keyGen + 1 }

theorem sendHello_rekey (s : State) (l : Nat) {k : Link} (h : k.keyGen = (s.link l).keyGen) :
    sendHello l (sendWord l 0x06 1 0 (s.setLink l { k with rekey := 1, helloGot := [], proofOk := false })) =
      { s.setLink l (k.rekeys (s.ownHello l)) with freeCtr := s.freeCtr + 1 } := by
  rw [sendWord, modLink_setLink, sendHello_setLink s l (k := { k with
    rekey := 1, helloGot := [], proofOk := false, ctlOut := k.ctlOut ++ [ctlWord 6 1 0] }) h, ← h]
  rfl

section
variable {s : State} {l : LinkId} {q : CordWord} (carries : (s.link l).carries = true) (good : wordOk q.bits = true) (first : q.first = true)
  (due : (s.link l).place q.seq.toNat = .due) (fresh : (s.link l).again = 0)
include carries good first due fresh

theorem exec_ack_of_held (kind : wordKind q.bits = 1) (held : ∃ f ∈ (s.link l).txQ, f.seq = wordValue q.bits % 2 ^ 24) :
    exec (.ack l q) s = .next (s.setLink l { (s.link l).took with
      txQ := ((s.link l).txQ.dropWhile (fun f => f.seq ≠ wordValue q.bits % 2 ^ 24)).drop 1 }) := by
  change Host.Outcome.next (onWord l 1 q s _) = _
  rw [onWord_of_dueAck _ carries good (by decide) kind first due fresh rfl, modLink_setLink]
  exact congrArg Host.Outcome.next (congrArg (s.setLink l) (if_pos (by simpa [Link.took] using held)))

theorem exec_replay_of_held (kind : wordKind q.bits = 2) (held : ∃ f ∈ (s.link l).txQ, f.seq = wordValue q.bits % 2 ^ 24) :
    exec (.replay l ⟨q, .clean⟩) s = .next
      (let u := s.setLink l ((s.link l).got.replayed (wordValue q.bits % 2 ^ 24) s.us)
       if ((s.link l).resent (wordValue q.bits % 2 ^ 24)).any (fun f => 16 ≤ f.replays) then enterTraining l u
       else if (s.link l).st = .up && (u.link l).rateHigh s.us then setLinkState l .degraded 0 u else u) := by
  change Host.Outcome.next (onWord l 2 q s _) = _
  have here : ((s.setLink l (s.link l).got).link l).txQ.any (fun f => f.seq = wordValue q.bits % 2 ^ 24) = true := by
    simpa only [link_setLink_self, Link.got_txQ, List.any_eq_true, decide_eq_true_eq] using held
  rw [onWord_of_due _ carries good (by decide) kind first due fresh (by decide)]
  dsimp only
  have uncorrected : ¬(true && decide (Ecc.clean = .corrected)) = true := by decide
  have sound : ¬(true && decide (Ecc.clean = .uncorrectable)) = true := by decide
  rw [here, if_neg uncorrected, if_neg sound, if_neg (show ¬(!true) = true by decide), modLink_setLink, link_setLink_self]
  rfl

theorem exec_replay_of_lost (kind : wordKind q.bits = 2) (lost : ∀ f ∈ (s.link l).txQ, f.seq ≠ wordValue q.bits % 2 ^ 24)
    (other : wordValue q.bits % 2 ^ 24 ≠ (s.link l).txNext) :
    exec (.replay l ⟨q, .clean⟩) s = .next (enterTraining l (s.setLink l (s.link l).got)) := by
  change Host.Outcome.next (onWord l 2 q s _) = _
  have gone : ((s.setLink l (s.link l).got).link l).txQ.any (fun f => f.seq = wordValue q.bits % 2 ^ 24) = false := by
    simpa only [link_setLink_self, Link.got_txQ, List.any_eq_false, decide_eq_true_eq] using lost
  have next : ¬wordValue q.bits % 2 ^ 24 = ((s.setLink l (s.link l).got).link l).txNext := by
    rw [link_setLink_self, Link.got_txNext]
    exact other
  rw [onWord_of_due _ carries good (by decide) kind first due fresh (by decide)]
  dsimp only
  rw [gone, if_neg (show ¬(false && _) = true by simp), if_neg (show ¬(false && _) = true by simp), if_pos (by decide), if_neg next]

theorem exec_credit_of_unknown (kind : wordKind q.bits = 3) (cls : 2 < wordArg q.bits) :
    exec (.credit l q) s = .next (quarantine l 4 0x24 (s.setLink l (s.link l).got)) := by
  change Host.Outcome.next (onWord l 3 q s _) = _
  rw [onWord_of_due _ carries good (by decide) kind first due fresh (by decide), if_pos cls]

theorem exec_credit_of_class (kind : wordKind q.bits = 3) (cls : wordArg q.bits ≤ 2) :
    exec (.credit l q) s = .next (forAll (s.tiles.map (·.1)) pumpSends (s.setLink l { (s.link l).got with
      credit := smod (s.link l).credit (wordArg q.bits) 0 (· - wordValue q.bits) })) := by
  change Host.Outcome.next (onWord l 3 q s _) = _
  rw [onWord_of_due _ carries good (by decide) kind first due fresh (by decide), if_neg (Nat.not_lt.mpr cls)]
  dsimp only
  rw [modLink_setLink]
  rfl

theorem exec_arrive {c : Ctx} (kind : wordKind q.bits = 4) (live : s.ctx (wordArg q.bits) = some c) (permits : c.permits l = true) :
    exec (.arrive l q) s = .next
      (if wordValue q.bits ≠ c.superstep then quarantine l 4 0x26 (s.setLink l (s.link l).got)
       else sendArrives (wordArg q.bits) ((s.setLink l (s.link l).got).setCtx (wordArg q.bits)
        { c with sysMet := s.ctxCycles c, arriveIn := if c.arriveIn.contains l.val then c.arriveIn else c.arriveIn ++ [l.val] })) := by
  have here : (s.setLink l (s.link l).got).ctx (wordArg q.bits) = some c := live
  change Host.Outcome.next (onWord l 4 q s _) = _
  rw [onWord_of_due _ carries good (by decide) kind first due fresh (by decide)]
  dsimp only
  split
  · rename_i none
    cases none.symm.trans here
  · rename_i d some
    cases here.symm.trans some
    rw [if_neg (by simp [permits]), State.modCtx, here]
    rfl

theorem exec_cadence_of_closed (kind : wordKind q.bits = 5) (closed : s.cad.opened = false) :
    exec (.cadence l q) s = .next (s.setLink l { (s.link l).got with lastCad := some (wordValue q.bits, s.ownMark) }) := by
  change Host.Outcome.next (onWord l 5 q s _) = _
  rw [onWord_of_due _ carries good (by decide) kind first due fresh (by decide), modLink_setLink]
  exact congrArg Host.Outcome.next (if_neg (Bool.eq_false_iff.mp closed))

theorem exec_rekey_of_start (kind : wordKind q.bits = 6) (idle : (s.link l).rekey = 0) (step : wordArg q.bits = 1) :
    exec (.rekey l q) s = .next { s.setLink l ((s.link l).got.rekeys (s.ownHello l)) with freeCtr := s.freeCtr + 1 } := by
  have here : ((s.setLink l (s.link l).got).link l).rekey = 0 := by
    rw [link_setLink_self, Link.got_rekey, idle]
  change Host.Outcome.next (onWord l 6 q s _) = _
  rw [onWord_of_due _ carries good (by decide) kind first due fresh (by decide)]
  dsimp only
  rw [here, if_pos (by simp [step]), modLink_setLink, sendHello_rekey s l (k := (s.link l).got) rfl]

theorem exec_rekey_of_step2 (kind : wordKind q.bits = 6) {n m : Nat} (state : (s.link l).rekey = n) (steps : n = 1 ∧ m = 3 ∨ n = 2 ∧ m = 0)
    (step : wordArg q.bits = 2) : exec (.rekey l q) s = .next (s.setLink l { (s.link l).got with rekey := m, framesRx := 0 }) := by
  have here : ((s.setLink l (s.link l).got).link l).rekey = n := by
    rw [link_setLink_self, Link.got_rekey, state]
  change Host.Outcome.next (onWord l 6 q s _) = _
  rw [onWord_of_due _ carries good (by decide) kind first due fresh (by decide)]
  dsimp only
  rw [here, if_neg (by simp [step]), if_neg (by simp [step])]
  obtain ⟨rfl, rfl⟩ | ⟨rfl, rfl⟩ := steps
  · rw [if_pos (by simp [step]), modLink_setLink]
  · rw [if_neg (by simp), if_pos (by simp [step]), modLink_setLink]

end

/-! ### Rekeying (R337) -/

theorem exec_rekeyStart {s : State} {l : LinkId} (carries : (s.link l).carries = true) (idle : (s.link l).rekey = 0)
    (many : 2 ^ 31 ≤ (s.link l).frames ∨ 2 ^ 31 ≤ (s.link l).framesRx) :
    exec (.rekeyStart l) s = .next { s.setLink l ((s.link l).rekeys (s.ownHello l)) with freeCtr := s.freeCtr + 1 } := by
  change execRekeyStart l s = _
  rw [execRekeyStart]
  dsimp only
  rw [if_pos (by simpa [carries, idle] using many), modLink_eq_setLink, sendHello_rekey s l (k := s.link l) rfl]

theorem exec_proof_of_rekey {s : State} {l : LinkId} (h : List Byte) (carries : (s.link l).carries = true)
    (rekey : (s.link l).rekey = 1 ∨ (s.link l).rekey = 3) (got : (s.link l).helloGot ≠ []) :
    exec (.proof l h true) s = .next (s.setLink l { s.link l with
      proofOk := true, rekey := if (s.link l).rekey = 3 then 0 else 2, ctlOut := (s.link l).ctlOut ++ [ctlWord 6 2 0] }) := by
  have traffic : (s.link l).st ≠ .authenticating := by
    intro authenticating
    obtain up | degraded := Link.st_of_carries carries
    · cases authenticating.symm.trans up
    · cases authenticating.symm.trans degraded
  have due : (s.link l).shakes = true := by simpa [Link.shakes, carries] using .inr rekey
  change execProof l h true s = _
  rw [execProof]
  dsimp only
  rw [if_neg (by simp [due]), if_neg (by simp [got]), if_neg traffic, modLink_eq_setLink, sendWord, modLink_setLink, newKey, if_neg traffic]

/-! ### Data frames (R333, R334, R338, R339) -/

/-- A link that has taken a frame of class 0 in sequence. -/
def Link.tookFrame (k : Link) : Link :=
  { k with
    framesRx := k.framesRx + 1, cnt := smod k.cnt 1 0 (· + 1), rxNext := (k.rxNext + 1) % 2 ^ 24, again := k.again - 1, twice := decide (0 < k.again)
    granted := smod k.granted 0 0 (· + 1) }

/-- It has acknowledged that frame. -/
def Link.tookData (k : Link) : Link :=
  { k.tookFrame with ctlOut := k.ctlOut ++ [ctlWord 1 0 (((k.rxNext + 1) % 2 ^ 24 + 2 ^ 24 - 1) % 2 ^ 24)] }

theorem frameNext_granted (s : State) (l : Nat) :
    frameNext l ((frameIn l s).modLink l (fun k => { k with granted := smod k.granted 0 0 (· + 1) })) = s.setLink l (s.link l).tookFrame := by
  rw [frameIn, modLink_eq_setLink s l, modLink_setLink, frameNext, modLink_setLink]
  rfl

theorem sendAck_tookFrame (s : State) (l : Nat) : sendAck l (s.setLink l (s.link l).tookFrame) = s.setLink l (s.link l).tookData := by
  rw [sendAck, sendWord, modLink_setLink, link_setLink_self]
  rfl

theorem Link.place_rxNext (k : Link) : k.place k.rxNext = .due := by
  have zero : (k.rxNext + 2 ^ 24 - k.rxNext) % 2 ^ 24 = 0 := by omega
  exact if_pos zero

/-- The class-0 frame that bytes carry. -/
def frameOf (b : List Byte) : CordFrame := { cls := 0, seq := frameSeq b, ctx := frameCtx b, tag := frameMatch b, bytes := framePayload b }

section
variable {s : State} {l : LinkId} {b : List Byte} (carries : (s.link l).carries = true)
include carries

theorem exec_cordDataFrameReceive_of_next (kind : frameKind b = 0) (cls : frameClass b = 0) (seq : frameSeq b = (s.link l).rxNext)
    (room : sgetD (s.link l).granted 0 0 < 64) :
    exec (.cordDataFrameReceive l b true) s = .next
      (if 0 < (s.link l).again then giveCredit l 0 (s.setLink l (s.link l).tookData)
       else deliverFrame l (frameOf b) (s.setLink l (s.link l).tookData)) := by
  change execCordDataFrameReceive l b true s = _
  rw [execCordDataFrameReceive]
  dsimp only
  rw [if_neg (by simp [carries]), if_neg (by decide), if_neg (by simp [kind, cls]), if_neg (by rw [seq, Link.place_rxNext]; simp), cls,
    if_neg (by simpa [classCredits] using room), frameNext_granted, sendAck_tookFrame]
  rfl

theorem exec_cordDataFrameReceive_of_badTag :
    exec (.cordDataFrameReceive l b false) s = .next
      (let ts := s.us :: (s.link l).tagTimes.filter (fun t => s.us < 1000000 + t)
       let u := s.setLink l { s.link l with tagFail := satAdd 32 (s.link l).tagFail 1, tagTimes := ts }
       if 8 < ts.length then quarantine l 2 0x23 u else sendWord l 2 0 (s.link l).rxNext u) := by
  change execCordDataFrameReceive l b false s = _
  rw [execCordDataFrameReceive]
  dsimp only
  rw [if_neg (by simp [carries]), if_pos (by decide)]
  rfl

end

theorem deliverFrame_of_plan {s : State} {l : Nat} {b : List Byte} {c : Ctx} (live : s.ctx (frameCtx b) = some c) (permits : c.permits l = true)
    (inside : frameMatch b % 2048 < 16 * c.pw * c.ph) (k : Link) :
    deliverFrame l (frameOf b) (s.setLink l k) = s.setLink l { k with rxQ := k.rxQ ++ [frameOf b] } := by
  have here : (s.setLink l k).ctx (frameOf b).ctx = some c := live
  unfold deliverFrame
  split
  · rename_i none
    cases none.symm.trans here
  · rename_i d some
    cases here.symm.trans some
    dsimp only
    rw [if_neg (by simp [permits, Nat.not_le.mpr inside, frameOf]), if_pos (show (frameOf b).cls = 0 from rfl), modLink_setLink]

theorem deliverFrame_of_unknown {s : State} {l : Nat} {b : List Byte} (unknown : s.ctx (frameCtx b) = none) (k : Link) :
    deliverFrame l (frameOf b) (s.setLink l k) = giveCredit l 0 (discardCord l (s.setLink l k)) := by
  have here : (s.setLink l k).ctx (frameOf b).ctx = none := unknown
  unfold deliverFrame
  split
  · rfl
  · rename_i d some
    cases here.symm.trans some

/-! ### System barriers (R341) -/

theorem exec_systemBarrierTimeout {s : State} {n : CtxId} {c : Ctx} {k : Nat} (live : s.ctx n = some c) (ticks : c.sysTicks = some k) (late : c.sysT ≤ k)
    (missing : (s.ctxLinks c).filter (fun l => !c.arriveIn.contains l) ≠ []) :
    exec (.systemBarrierTimeout n) s = .next (stopContext n (faultCode 0x10 0x29)
      (recordFault (cordPage (((s.ctxLinks c).filter (fun l => !c.arriveIn.contains l)).headD 0)) 0x10 0x29 s)) := by
  change execSystemBarrierTimeout n s = _
  unfold execSystemBarrierTimeout
  split
  · rename_i none
    cases none.symm.trans live
  · rename_i d some
    cases live.symm.trans some
    split
    · rename_i none
      cases none.symm.trans ticks
    · rename_i j some
      cases ticks.symm.trans some
      exact congrArg Host.Outcome.next (if_neg (by simpa [Nat.not_lt.mpr late] using missing))

/-! ### The obligation -/

theorem any_of_exists_replays {fs : List CordFrame} (h : ∃ f ∈ fs, 16 ≤ f.replays) : fs.any (fun f => 16 ≤ f.replays) = true := by simpa using h

theorem not_any_of_replays {fs : List CordFrame} (h : ∀ f ∈ fs, f.replays < 16) : ¬fs.any (fun f => 16 ≤ f.replays) = true := by simpa using h

/-- Settles O40: each clause is the equation of one branch of its command, written over the link that has taken the frame. -/
theorem cordTrafficCompletes : Obligations.CordTrafficCompletes := by
  unfold Obligations.CordTrafficCompletes
  refine ⟨?due, ?word, fun s l carries idle many => exec_rekeyStart carries idle many, ?rekey, ?data, fun s n c k live ticks late =>
    exec_systemBarrierTimeout live ticks late⟩
  case due =>
    intro s l q carries good first due fresh k w next took got v new k2
    refine ⟨exec_ack_of_held carries good first due fresh, fun kind held => ⟨fun degraded few => ?_, fun many => ?_⟩,
      exec_replay_of_lost carries good first due fresh, exec_credit_of_unknown carries good first due fresh,
      exec_credit_of_class carries good first due fresh, fun kind c live permits => ⟨fun now => ?_, fun other => ?_⟩,
      exec_cadence_of_closed carries good first due fresh, exec_rekey_of_start carries good first due fresh,
      fun kind state step => exec_rekey_of_step2 carries good first due fresh kind state (.inl ⟨rfl, rfl⟩) step,
      fun kind state step => exec_rekey_of_step2 carries good first due fresh kind state (.inr ⟨rfl, rfl⟩) step⟩
    · have notUp (b : Bool) : ¬((s.link l).st = .up && b) = true := by simp [show (s.link l).st = .degraded from degraded]
      rw [exec_replay_of_held carries good first due fresh kind held]
      exact congrArg Host.Outcome.next ((if_neg (not_any_of_replays few)).trans (if_neg (notUp _)))
    · rw [exec_replay_of_held carries good first due fresh kind held]
      exact congrArg Host.Outcome.next (if_pos (any_of_exists_replays many))
    · exact (exec_arrive carries good first due fresh kind live permits).trans (congrArg Host.Outcome.next (if_neg (not_not_intro now)))
    · exact (exec_arrive carries good first due fresh kind live permits).trans (congrArg Host.Outcome.next (if_pos other))
  case word =>
    intro s l q carries
    refine ⟨fun bad => congrArg Host.Outcome.next (onWord_of_badWord _ carries bad),
      fun good unknown => congrArg Host.Outcome.next (onWord_of_unknown _ carries good unknown), fun good kind first => ?_, fun good kind further => ?_⟩
    · have run : exec (.credit l q) s = .next _ := congrArg Host.Outcome.next (onWord_of_first _ carries good (by decide) kind first)
      refine ⟨fun behind => ?_, fun ahead => ?_, fun outside => ?_, fun due again => ?_⟩
      · rw [run, behind, if_neg (by decide)]
        rfl
      · have next : ((frameIn l s).link l).rxNext = (s.link l).rxNext := by rw [frameIn, State.modLink_self]
        rw [run, ahead, if_neg (by decide), ← next]
        rfl
      · rw [run, outside, if_neg (by decide)]
        rfl
      · rw [run, if_pos due, if_pos again]
        rfl
    · have run : exec (.credit l q) s = .next _ := congrArg Host.Outcome.next (onWord_of_further _ carries good (by decide) kind further)
      refine ⟨fun here once cls => ?_, fun twice => ?_⟩
      · have credit : (s.link l).credit = ((sendAck l s).link l).credit := by rw [sendAck, sendWord, State.modLink_self]
        rw [run, here, once, if_pos (by simp), if_neg (Nat.not_lt.mpr cls), credit]
        rfl
      · rw [run, if_neg (by simp [twice])]
  case rekey =>
    intro s l h k carries rekey
    have due : (s.link l).shakes = true := by simpa [Link.shakes, show (s.link l).carries = true from carries] using .inr rekey
    exact ⟨exec_hello_of_ok due, exec_proof_of_rekey h carries rekey⟩
  case data =>
    intro s l b k carries
    refine ⟨fun kind cls seq room => ?_, fun few => ?_, fun many => ?_⟩
    · have run := exec_cordDataFrameReceive_of_next carries kind cls seq room
      have once (fresh : k.again = 0) : ¬0 < (s.link l).again := Nat.not_lt.mpr (Nat.le_of_eq fresh)
      refine ⟨fun again => ?_, fun c fresh live permits inside => ?_, fun fresh unknown => ?_⟩
      · rw [run, if_pos again]
        rfl
      · rw [run, if_neg (once fresh), deliverFrame_of_plan live permits inside, frameOf, seq]
        rfl
      · rw [run, if_neg (once fresh), deliverFrame_of_unknown unknown]
        rfl
    · rw [exec_cordDataFrameReceive_of_badTag carries]
      dsimp only
      rw [if_neg (by simpa using Nat.succ_le_of_lt few), sendWord, modLink_setLink]
    · rw [exec_cordDataFrameReceive_of_badTag carries]
      dsimp only
      rw [if_pos (by simpa using Nat.lt_succ_of_le many)]

end Sys2Proof.Machine
end

section
/-! PROOFS. Nothing that runs in a cycle of the clocks writes the cycle count but its end (log entry 7). -/

namespace Sys2Proof.Machine

/-! ### Faults, contexts and fences -/

theorem forAll_cycle {α : Type} {f : α → State → State} (hf : ∀ a s, (f a s).cycle = s.cycle) (xs : List α) (s : State) :
    (forAll xs f s).cycle = s.cycle := by
  unfold forAll
  induction xs generalizing s with
  | nil => rfl
  | cons a r ih => exact (ih (f a s)).trans (hf a s)

theorem State.Pumps.cycle {s u : State} (h : s.Pumps u) : u.cycle = s.cycle := by rw [h.rest]

@[simp] theorem recordFault_cycle (key blk code : Nat) (s : State) : (recordFault key blk code s).cycle = s.cycle := (recordFault_pumps key blk code s).cycle
@[simp] theorem ctxFault_cycle (t c blk code : Nat) (s : State) : (ctxFault t c blk code s).cycle = s.cycle := (ctxFault_pumps t c blk code s).cycle
@[simp] theorem tileFault_cycle (t blk code : Nat) (s : State) : (tileFault t blk code s).cycle = s.cycle := recordFault_cycle _ _ _ s
@[simp] theorem postEvent_cycle (ty so f : Nat) (b : List Byte) (s : State) : (postEvent ty so f b s).cycle = s.cycle := (postEvent_pumps ty so f b s).cycle
@[simp] theorem markStop_cycle (c fc : Nat) (s : State) : (markStop c fc s).cycle = s.cycle := s.modCtx_cycle _ _

@[simp] theorem reserveRecord_cycle (n : Nat) (s : State) : (reserveRecord n s).2.cycle = s.cycle := by
  unfold reserveRecord
  dsimp only
  split
  · rfl
  · split
    · rfl
    · split <;> rfl

theorem freeRecord_cycle (ty fl n len step : Nat) (s : State) : (freeRecord ty fl n len step s).cycle = s.cycle := by
  have reserved := reserveRecord_cycle len s
  unfold freeRecord
  split
  all_goals
    rename_i found
    rw [found] at reserved
    exact reserved

theorem dropCapture_cycle (p : Nat → Bool) (code : Nat) (s : State) : (dropCapture p code s).cycle = s.cycle := by
  unfold dropCapture
  dsimp only
  split
  · rfl
  · exact freeRecord_cycle _ _ _ _ _ s

theorem abandonRecords_cycle (p : Nat → Bool) (code : Nat) (s : State) : (abandonRecords p code s).cycle = s.cycle := by
  unfold abandonRecords
  dsimp only
  rw [dropCapture_cycle]
  refine forAll_cycle (fun q u => ?_) _ s
  split <;> rfl

theorem forAll_ctxFault_cycle (t code : Nat) (fs : List Flit) (s : State) :
    (forAll fs (fun f s => ctxFault t f.ctx f.body.block code s) s).cycle = s.cycle := by
  refine forAll_cycle (fun f u => ?_) fs s
  exact ctxFault_cycle t f.ctx f.body.block code u

theorem refuseWaiting_cycle (r code : Nat) (s : State) : (refuseWaiting r code s).cycle = s.cycle := by
  unfold refuseWaiting
  dsimp only
  refine forAll_cycle (fun p u => ?_) _ s
  rw [forAll_ctxFault_cycle, State.modTile_cycle]

theorem bankFenced_cycle (r : Nat) (s : State) : (bankFenced r s).cycle = s.cycle := (refuseWaiting_cycle r _ _).trans (s.modRegion_cycle _ _)

theorem holdCtx_cycle (n : Nat) (s : State) : (holdCtx n s).cycle = s.cycle := by
  unfold holdCtx
  split <;> rfl

theorem failRound_cycle (b : Nat) (s : State) : (failRound b s).cycle = s.cycle := by
  unfold failRound
  split
  · rfl
  · dsimp only
    split
    · rfl
    · exact forAll_cycle holdCtx_cycle _ _

theorem fenceAct_cycle (kind idx fc : Nat) (s : State) : (fenceAct kind idx fc s).cycle = s.cycle := by
  have start (hit : List Nat) (code : Nat) (u : State) :
      (abandonRecords (fun c => hit.contains c) code (forAll hit (fun c s => markStop c fc s) u).draw.2).cycle = u.cycle :=
    (abandonRecords_cycle _ _ _).trans (forAll_cycle (fun c v => markStop_cycle c fc v) hit u)
  unfold fenceAct
  dsimp only
  split
  · exact (bankFenced_cycle _ _).trans (start _ _ s)
  · exact (forAll_cycle (fun b u => (failRound_cycle b _).trans (recordFault_cycle _ _ _ u)) _ _).trans (start _ _ s)
  · exact (forAll_cycle (fun l u => u.modLink_cycle l _) _ _).trans (start _ _ s)
  · refine (forAll_cycle (fun r u => ?_) _ _).trans (start _ _ s)
    split
    · rfl
    · exact bankFenced_cycle r u

theorem fencePost_cycle (kind idx fc : Nat) (s : State) : (fencePost kind idx fc s).cycle = s.cycle := postEvent_cycle _ _ _ _ _

theorem raiseFence_cycle (kind idx fc : Nat) (s : State) : (raiseFence kind idx fc s).cycle = s.cycle := by
  unfold raiseFence
  split
  · rfl
  · exact (fencePost_cycle _ _ _ _).trans (fenceAct_cycle _ _ _ s)

theorem fenceStack_cycle (k fc : Nat) (s : State) : (fenceStack k fc s).cycle = s.cycle := by
  unfold fenceStack
  dsimp only
  split
  · rfl
  · rw [fencePost_cycle]
    split
    · exact (raiseFence_cycle _ _ _ _).trans (fenceAct_cycle _ _ _ s)
    · exact fenceAct_cycle _ _ _ s

/-! ### HBM and the EVL port -/

@[simp] theorem touchStack_cycle (k : Nat) (s : State) : (touchStack k s).cycle = s.cycle := rfl
theorem touchRange_cycle (a n : Nat) (s : State) : (touchRange a n s).cycle = s.cycle := forAll_cycle touchStack_cycle _ s

theorem hbmUncorrectable_cycle (a : Nat) (s : State) : (hbmUncorrectable a s).cycle = s.cycle := by
  unfold hbmUncorrectable
  dsimp only
  split
  · exact (fenceStack_cycle _ _ _).trans (recordFault_cycle _ _ _ _)
  · exact recordFault_cycle _ _ _ _

theorem bulkHbm_cycle (h : BitVec 128) (data : List Byte) (ecc : HbmEcc) (s : State) : (bulkHbm h data ecc s).cycle = s.cycle := by
  unfold bulkHbm
  dsimp only
  split
  · rfl
  · cases ecc with
    | clean => rfl
    | corrected => exact recordFault_cycle _ _ _ _
    | uncorrectable i r => exact forAll_cycle hbmUncorrectable_cycle _ _

theorem bulkStore_cycle (h : BitVec 128) (data : List Byte) (s : State) : (bulkStore h data s).cycle = s.cycle := by
  unfold bulkStore
  split
  · rfl
  · refine (forAll_cycle (fun k u => ?_) _ _).trans (s.modTile_cycle _ _)
    split <;> rfl

theorem acceptBulk_cycle (h : BitVec 128) (data : List Byte) (ecc : HbmEcc) (s : State) : (acceptBulk h data ecc s).cycle = s.cycle := by
  have credit : (if bWrite h then { s with evl := { s.evl with credits := smod s.evl.credits 1 0 (· - bLines h) } } else s).cycle = s.cycle := by
    split <;> rfl
  unfold acceptBulk
  dsimp only
  split
  · exact credit
  · split
    · exact (bulkStore_cycle _ _ _).trans credit
    · exact (bulkHbm_cycle _ _ _ _).trans credit

theorem takeBulk_cycle (ws : List EvlWait) (blocked : Bool) (s : State) : (takeBulk ws blocked s).2.cycle = s.cycle := by
  induction ws generalizing blocked s with
  | nil => rfl
  | cons w ws ih =>
    cases w with
    | bell r v => exact ih blocked s
    | bulk h d e =>
      unfold takeBulk
      split
      · exact (ih blocked _).trans (acceptBulk_cycle h d e s)
      · exact ih _ s

theorem doorbell_cycle (r : Nat) (v : Word) (s : State) : (doorbell r v s).cycle = s.cycle := by
  unfold doorbell checkedWrite
  dsimp only
  split
  · exact recordFault_cycle _ _ _ s
  · rfl

theorem takeBells_cycle (ws : List EvlWait) (s : State) : (takeBells ws s).2.cycle = s.cycle := by
  induction ws generalizing s with
  | nil => rfl
  | cons w ws ih =>
    cases w with
    | bell r v => exact (ih _).trans (doorbell_cycle r v s)
    | bulk h d e =>
      unfold takeBells
      split
      · rfl
      · exact ih s

theorem pumpEvl_cycle (s : State) : (pumpEvl s).cycle = s.cycle := by
  have bulk : (pumpBulk s).cycle = s.cycle := by
    unfold pumpBulk
    split
    · rfl
    · exact takeBulk_cycle _ _ s
  unfold pumpEvl
  dsimp only
  split
  · rfl
  · split
    · exact bulk
    · exact (takeBells_cycle _ _).trans bulk

/-! ### Trace records and replays -/

theorem writeRecord_cycle (bs : List Byte) (s : State) : (writeRecord bs s).cycle = s.cycle := by
  have reserved := reserveRecord_cycle bs.length s
  unfold writeRecord
  split
  all_goals
    rename_i found
    rw [found] at reserved
    exact reserved

theorem drainTrace_cycle (t : Nat) (s : State) : (drainTrace t s).cycle = s.cycle := by
  unfold drainTrace
  split
  · rfl
  · split
    · rfl
    · exact writeRecord_cycle _ _

theorem postAdd_cycle (t c slot id n : Nat) (s : State) : (postAdd t c slot id n s).cycle = s.cycle := by
  unfold postAdd
  split
  · rfl
  · split
    · split
      · rfl
      · exact tileFault_cycle _ _ _ _
    · exact tileFault_cycle _ _ _ _

theorem replaySlot_cycle (t n : Nat) (s : State) : (replaySlot t n s).cycle = s.cycle := by
  unfold replaySlot
  dsimp only
  split
  · split
    · split
      · rfl
      · exact postAdd_cycle _ _ _ _ _ _
    · rfl
  · rfl

theorem tickReplay_cycle (s : State) : (tickReplay s).cycle = s.cycle := by
  unfold tickReplay
  refine forAll_cycle (fun p u => ?_) _ s
  exact forAll_cycle (fun t v => replaySlot_cycle t p.1 v) p.2.tiles u

/-! ### The DMA engine of a tile -/

theorem requestHbm_cycle (t : Nat) (o : DmaOp) (part : Nat × Nat) (a n flits : Nat) (s : State) :
    (requestHbm t o part a n flits s).cycle = s.cycle := by
  unfold requestHbm
  split
  · rfl
  · exact touchRange_cycle a n s

theorem unitPump_cycle (t id : Nat) (s : State) : (unitPump t id s).cycle = s.cycle := by
  unfold unitPump
  dsimp only
  split
  · rfl
  · exact forAll_cycle (fun k u => requestHbm_cycle _ _ _ _ _ _ u) _ s

theorem copyOutSend_cycle (t : Nat) (o : DmaOp) (p : ReqDst × List Byte) (s : State) : (copyOutSend t o p s).cycle = s.cycle := by
  unfold copyOutSend
  dsimp only
  split
  · split
    · rfl
    · exact requestHbm_cycle _ _ _ _ _ _ _
  · rfl

theorem copyOutPump_cycle (t id : Nat) (s : State) : (copyOutPump t id s).cycle = s.cycle := by
  unfold copyOutPump
  dsimp only
  split
  · rfl
  · next o _ =>
    exact (forAll_cycle (fun k u => State.modTile_cycle u t _) _ _).trans (forAll_cycle (copyOutSend_cycle t o) _ s)

theorem writeSlot_cycle (t : Nat) (o : DmaOp) (e : MapEntry) (c : Carousel) (bs : List Byte) (s : State) :
    (writeSlot t o e c bs s).cycle = s.cycle :=
  forAll_cycle (fun _ u => State.modTile_cycle u t _) _ s

theorem gatherAsk_cycle (t : Nat) (o : DmaOp) (room : Nat) (s u : State) (h : gatherAsk t o room s = some u) : u.cycle = s.cycle := by
  unfold gatherAsk at h
  dsimp only at h
  split at h
  · cases h
  · split at h
    · cases h
    · split at h
      · cases h
        rfl
      · split at h
        · cases h
        · split at h
          · cases h
          · cases h
            exact requestHbm_cycle _ _ _ _ _ _ s

theorem gatherIndex_cycle (t : Nat) (o : DmaOp) (e : MapEntry) (s : State) : (gatherIndex t o e s).cycle = s.cycle := by
  unfold gatherIndex
  dsimp only
  split <;> rfl

theorem gatherEnd_cycle (t : Nat) (o : DmaOp) (e : MapEntry) (room : Nat) (s : State) : (gatherEnd t o e room s).2.cycle = s.cycle := by
  unfold gatherEnd
  dsimp only
  split
  · split
    · dsimp only
      split <;> rfl
    · split
      · rfl
      · split
        · dsimp only
          split
          · exact gatherIndex_cycle t o e s
          · rfl
        · split <;> rfl
  · split
    · rfl
    · split
      · rfl
      · split
        · exact ctxFault_cycle _ _ _ _ _
        · rfl

theorem gatherEnd_eq_cycle {t : Nat} {o : DmaOp} {e : MapEntry} {room : Nat} {s u : State} {b : Bool} (h : gatherEnd t o e room s = (b, u)) :
    u.cycle = s.cycle := by
  have kept := gatherEnd_cycle t o e room s
  rwa [h] at kept

theorem gatherPump_cycle (fuel t id : Nat) (s : State) : (gatherPump fuel t id s).cycle = s.cycle := by
  induction fuel generalizing s with
  | zero => rfl
  | succ fuel ih =>
    unfold gatherPump
    dsimp only
    split
    · rfl
    · split
      · split
        · rfl
        · split
          · exact (ih _).trans (writeSlot_cycle _ _ _ _ _ s)
          · split
            · exact ih _
            · split
              · rfl
              · split
                · next asked => exact (ih _).trans (gatherAsk_cycle _ _ _ _ _ asked)
                · split
                  all_goals
                    rename_i ended
                  · exact (ih _).trans (gatherEnd_eq_cycle ended)
                  · exact gatherEnd_eq_cycle ended
      · rfl

theorem unloadPump_cycle (t id : Nat) (s : State) : (unloadPump t id s).cycle = s.cycle := by
  unfold unloadPump
  dsimp only
  split
  · rfl
  · split
    · rfl
    · split <;> rfl

theorem pumpOp_cycle (t id : Nat) (s : State) : (pumpOp t id s).cycle = s.cycle := by
  unfold pumpOp
  split
  · rfl
  · split
    · rfl
    · split
      · exact unitPump_cycle t id s
      · exact copyOutPump_cycle t id s
      · exact unitPump_cycle t id s
      · exact gatherPump_cycle _ t id s
      · exact unloadPump_cycle t id s
      · rfl

theorem pumpTile_cycle (t : Nat) (s : State) : (pumpTile t s).cycle = s.cycle := forAll_cycle (pumpOp_cycle t) _ s

/-! ### The matrix feeders and the channel unit -/

theorem faultMat_cycle (t : Nat) (q : QEntry) (code : Nat) (s : State) : (faultMat t q code s).cycle = s.cycle := ctxFault_cycle _ _ _ _ s

theorem resumePump_cycle (t : Nat) (q : QEntry) (e : MapEntry) (s : State) : (resumePump t q e s).cycle = s.cycle := by
  have reads (st : StoreId) (i first n : Nat) (u : State) :
      (forAll (rangeFrom first n) (fun b s => postRead t .feedA st (i + b) (.resume q.id b) s) u).cycle = u.cycle :=
    forAll_cycle (fun b v => State.modTile_cycle v t _) _ u
  unfold resumePump
  dsimp only
  split
  · exact faultMat_cycle _ _ _ s
  · split
    · exact reads _ _ _ _ _
    · split
      · rfl
      · split
        · exact faultMat_cycle _ _ _ s
        · exact reads _ _ _ _ _

theorem feedOne_cycle (t : Nat) (q : QEntry) (s : State) : (feedOne t q s).cycle = s.cycle := by
  unfold feedOne
  split
  · rfl
  · split
    · rfl
    · split
      · exact resumePump_cycle _ _ _ s
      · split <;> rfl

theorem feedPump_cycle (t : Nat) (s : State) : (feedPump t s).cycle = s.cycle := forAll_cycle (feedOne_cycle t) _ s

theorem sendLines_cycle (t ctx dst : Nat) (lines : List (FlitBody × List Byte)) (s : State) : (sendLines t ctx dst lines s).cycle = s.cycle := by
  unfold sendLines
  split <;> rfl

theorem pumpMsg_cycle (t id : Nat) (s : State) : (pumpMsg t id s).cycle = s.cycle := by
  unfold pumpMsg
  dsimp only
  split
  · rfl
  · split
    · exact ctxFault_cycle _ _ _ _ _
    · exact sendLines_cycle _ _ _ _ s

theorem pumpMsgs_cycle (t : Nat) (s : State) : (pumpMsgs t s).cycle = s.cycle := forAll_cycle (pumpMsg_cycle t) _ s

/-! ### One cycle -/

theorem pumpUnits_cycle (t : Nat) (s : State) : (pumpUnits t s).cycle = s.cycle := by
  unfold pumpUnits
  rw [(pumpSends_pumps t _).cycle, pumpMsgs_cycle, feedPump_cycle, pumpTile_cycle]

theorem tickTile_cycle (t : Nat) (s : State) : (tickTile t s).cycle = s.cycle := by
  unfold tickTile
  dsimp only
  rw [pumpUnits_cycle, drainTrace_cycle, State.modTile_cycle]

theorem tickRegion_cycle (r : Nat) (s : State) : (tickRegion r s).cycle = s.cycle := by
  unfold tickRegion
  split
  · rfl
  · split <;> rfl

theorem sendControl_cycle (l : Nat) (s : State) : (sendControl l s).cycle = s.cycle := by
  unfold sendControl
  dsimp only
  split <;> rfl

theorem forAll_modRegion_cycle (f : Region → Region) (rs : List Nat) (s : State) :
    (forAll rs (fun r s => s.modRegion r f) s).cycle = s.cycle :=
  forAll_cycle (fun r u => u.modRegion_cycle r f) rs s

theorem grantSteps_cycle (s : State) : (grantSteps s).cycle = s.cycle := by
  have asked (rs : List Nat) (u : State) : (askAgain rs u).cycle = u.cycle := by
    unfold askAgain
    split
    · rfl
    · exact forAll_modRegion_cycle _ rs u
  have joined (rs : List Nat) (u : State) : (joinSteps rs u).cycle = u.cycle := by
    unfold joinSteps
    dsimp only
    split
    · exact forAll_modRegion_cycle _ rs u
    · exact (forAll_modRegion_cycle _ rs _).trans (forAll_modRegion_cycle _ rs u)
  have granted (rs : List Nat) (u : State) : (grantStep rs u).cycle = u.cycle := by
    unfold grantStep
    split
    · exact forAll_modRegion_cycle _ rs u
    · rfl
  unfold grantSteps
  dsimp only
  refine forAll_cycle (fun p u => ?_) _ s
  split
  · rfl
  · exact (granted _ _).trans ((joined _ _).trans (asked _ u))

theorem tick_cycle {s : State} (on : s.awake = true) : (tick s).cycle = s.cycle + 1 := by
  have replayed : (if s.statues then s else tickReplay s).cycle = s.cycle := by
    split
    · rfl
    · exact tickReplay_cycle s
  have tiles (t : Nat) (u : State) : ((if s.statues then tickStopped else tickTile) t u).cycle = u.cycle := by
    split
    · rfl
    · exact tickTile_cycle t u
  unfold tick
  rw [on]
  dsimp only
  rw [if_neg (by decide)]
  dsimp only
  rw [grantSteps_cycle, pumpEvl_cycle, forAll_cycle sendControl_cycle, forAll_cycle tickRegion_cycle, forAll_cycle tiles, replayed]

theorem tick_of_reset {s : State} (held : s.awake = false) : tick s = s := by
  unfold tick
  rw [held]
  exact if_pos rfl

/-! ### A step -/

theorem step_of_front {s : State} {c : Instr} {rest : List Instr} (front : s.pending = c :: rest) : step s = exec c { s with pending := rest } := by
  unfold step
  rw [front]

theorem step_of_empty {s : State} (none : s.pending = []) : step s = .next (tick s) := by
  unfold step
  rw [none]

/-- Settles O55: a step reads the queue alone to choose, and of a cycle of the clocks only the end moves the cycle count. -/
theorem stepRunsFrontCommand : Obligations.StepRunsFrontCommand := by
  unfold Obligations.StepRunsFrontCommand
  refine ⟨fun s c => step_of_front rfl, fun s c rest => step_of_front, fun s none on => ?_, fun s none held => ?_⟩
  · exact ⟨tick s, step_of_empty none, tick_cycle on⟩
  · rw [step_of_empty none, tick_of_reset held]

end Sys2Proof.Machine
end
